-- ==== Sys2Proof/Word.lean ====
section
/-! DEFINITION. Words, bytes and 64-bit containers of the Vunik (R4, R5, R11): the plain types that the
other files are written over. -/

namespace Sys2Proof

/-- A byte (R4). -/
abbrev Byte := BitVec 8

/-- A 64-bit word: an instruction word, a clause header, a dword of memory (R4, R105, R116). -/
abbrev Word := BitVec 64

/-- What a 64-bit container holds: 64 bits and the reference tag (R11, R139). -/
structure Val where
  bits : Word
  tag  : Bool
  deriving DecidableEq, Repr

/-- An integer value of a container: its bits with tag 0 (R12). -/
def Val.int (w : Word) : Val := ⟨w, false⟩

/-- The value of a register at admission: zero with tag 0 (R73). -/
def Val.zero : Val := ⟨0, false⟩

end Sys2Proof
end

