-- ==== Sys2Proof/Config.lean ====
section
/-! DEFINITION. What one Vunik fixes outside its specification's words, and the free values: constants with no body, so
that no proof can see which value they take (log entries 7, 8, 10, 11, 15, 19 to 22, 46, 55, 57). A step that needs a fresh free value applies one of
them to the counter `fresh` of the state. -/

namespace Sys2Proof

/-- What the configuration block of an image fixes at boot (R434 step 4, R435): cell, attached host agent, far-line cache size, WORLD of each
core, secure region. Its encoding in the image is not stated (log 7). -/
structure ConfigBlock where
  agent   : Nat
  cell    : List Nat
  host    : Option Nat
  farGiB  : Nat
  world   : List (BitVec 2)
  secBase : Nat
  secLim  : Nat
  deriving DecidableEq, Repr, Inhabited

/-- The lowest security version, fused at manufacture (R434, FWCTL.MINSVN). FREE VALUE (log 7). -/
opaque Config.minSvn : BitVec 8

/-- The digest of the image key fused at manufacture (R435). FREE VALUE (log 7). -/
opaque Config.keyDigest : List Byte

/-- The HBM stack that a local line lies in, which the spec does not state (R33, R441). FREE VALUE (log 96). -/
opaque Config.stackOf : Nat → Nat

/-- The configuration block that the body of an image carries (R435). FREE VALUE (log 7). -/
opaque Config.configBlock : List Byte → ConfigBlock

/-- A byte of scratchpad that nothing has written since admission (R73): allocation number, offset. FREE VALUE (log 8). -/
opaque Config.freeByte : Nat → Nat → Byte

/-- An element of an accumulator tile that nothing has written since admission (R73): allocation number, element.
FREE VALUE (log 8). -/
opaque Config.freeTile : Nat → Nat → BitVec 32

/-- The sequence field of the n-th team handle (R19). FREE VALUE (log 10). -/
opaque Config.handleSeq : Nat → BitVec 21

/-- The sequence field of the n-th grid number (R81). FREE VALUE (log 10). -/
opaque Config.gridSeq : Nat → BitVec 21

/-- What a load from the team's own spill slot returns (R205): load number, byte. FREE VALUE (log 11). -/
opaque Config.spillByte : Nat → Nat → Byte

/-- Whether the host rejects an interrupt write to an address (R366). FREE VALUE (log 15). -/
opaque Config.hostRejects : BitVec 64 → Bool

/-- Sizes of BAR 0 and BAR 2 (R439), by number. FREE VALUE (log 22). -/
opaque Config.barSize : Nat → BitVec 61

/-- The cell of an agent of another cell (R329, R343): management software gives it. FREE VALUE (log 20). -/
opaque Config.cellOf : Nat → Nat

/-- Whether some core of another package has WORLD.SEC 1 (R438): fixed when that package boots. FREE VALUE (log 20). -/
opaque Config.secureAgent : Nat → Bool

/-- InvAcks that dead agents owe for a line homed elsewhere when this package finds its neighbour dead (R349): number, line. FREE VALUE
(log 46). -/
opaque Config.deadOwes : Nat → Nat → Nat

/-- A byte of a line that is held M without data after its writer has given up (R336, R347): number, byte. FREE VALUE (log 21). -/
opaque Config.grantByte : Nat → Nat → Byte

/-- How SECRNG holds the secure region (R438 gives no layout). FREE VALUE (log 22). -/
opaque Config.secRng : Nat → Nat → BitVec 64

/-- Flits of a Datre request packet, with a line or without (R353 gives a packet one or more). FREE VALUE (log 57). -/
opaque Config.requestFlits : Bool → Nat

/-- Flits that the queue of an adaptive channel has room for (R355). FREE VALUE (log 55). -/
opaque Config.chanRoom : Nat

/-- Cause and sub-cause of a fault whose details SHERR.OVF has lost (R260, R405): retirement number. FREE VALUE (log 19). -/
opaque Config.lostFault : Nat → BitVec 4 × BitVec 8

end Sys2Proof
end

