-- ==== Sys2Proof/Syntax.lean ====
section
/-! DEFINITION. The instruction set as syntax. One constructor of `Instr` for each row of spec/opcode_table.json:
the instruction words (each carries its format's fields as they stand in the word, reserved bits included, so that a
word and its instruction say the same) and the indivisible steps of the part's engines, its host, its fabric and its
firmware (each carries what the agent that takes the step brings with it). -/

namespace Sys2Proof

/-- The guard of every instruction word (R116). -/
structure Guard where
  ge : Bool
  gs : Bool
  gp : BitVec 4
  deriving DecidableEq, Repr

/-- Base format (R117): operands D, A, B, C, then NQ, the BT bits of A, B, C (high first) and MOD. -/
structure BaseF where
  guard : Guard
  d : Byte
  a : Byte
  b : Byte
  c : Byte
  nq : Bool
  bt : BitVec 3
  md : BitVec 12
  deriving DecidableEq, Repr

/-- I32 format (R117): D, A and a 32-bit immediate. -/
structure ImmF where
  guard : Guard
  d : Byte
  a : Byte
  imm : BitVec 32
  deriving DecidableEq, Repr

/-- J format (R117, R119): the immediate byte JD, A and a signed byte offset. -/
structure JumpF where
  guard : Guard
  jd : Byte
  a : Byte
  off : BitVec 32
  deriving DecidableEq, Repr

/-- M format (R117, R118): D, base A, index B, size, scale, reuse hint, sign extension, NQ, the BT bits of A, B, D,
order, scope and the signed byte IMM. -/
structure MemF where
  guard : Guard
  d : Byte
  a : Byte
  b : Byte
  sz : BitVec 3
  sc : BitVec 2
  rh : BitVec 2
  sx : Bool
  nq : Bool
  bt : BitVec 3
  ord : BitVec 2
  scope : BitVec 2
  imm : Byte
  deriving DecidableEq, Repr

/-- MX format (R117, R118): tile TD, register block A, S, layout record LR, CV, CI, the reserved bit 15, the BT bits of
A and S, the reserved bit 12 and MOD. -/
structure MxF where
  guard : Guard
  td : Byte
  a : Byte
  sb : Byte
  lr : BitVec 4
  cv : Bool
  ci : BitVec 3
  r15 : Bool
  bt : BitVec 2
  r12 : Bool
  md : BitVec 12
  deriving DecidableEq, Repr

/-- SH format (R117, R118): D, A, B, C, K, the BT bits of A, B, C, layout records LA and LB, CV and CI. -/
structure ShF where
  guard : Guard
  d : Byte
  a : Byte
  b : Byte
  c : Byte
  k : Bool
  bt : BitVec 3
  la : BitVec 4
  lb : BitVec 4
  cv : Bool
  ci : BitVec 3
  deriving DecidableEq, Repr

/-- SY format (R117, R118): D, A, B, C, NQ, the BT bits of A, B, C, order, scope, CV, CI and SUB. -/
structure SyF where
  guard : Guard
  d : Byte
  a : Byte
  b : Byte
  c : Byte
  nq : Bool
  bt : BitVec 3
  ord : BitVec 2
  scope : BitVec 2
  cv : Bool
  ci : BitVec 3
  sub : BitVec 4
  deriving DecidableEq, Repr

/-- A 128-byte line as it travels: bytes, word tags, FMT and SCALE of its two blocks (R31, R334). -/
structure LineData where
  bytes : List Byte
  tags  : BitVec 16
  fmt   : List Byte
  scale : List Byte
  deriving DecidableEq, Repr

/-- Who sends a request to a home: its agent id, and the cell id that the request carries (R329). -/
structure Sender where
  agent : Nat
  cell  : Nat
  deriving DecidableEq, Repr

/-- A message about a line that an agent and the home of the line, or another agent, send each other: the line, and the agent that the
message is addressed to (Inv and the forwards) or comes from (their answers). -/
structure LineMsg where
  line  : Nat
  agent : Nat
  deriving DecidableEq, Repr

/-- What a WbU writes: the bytes of the line, and the blocks whose FMT and SCALE come with them (R33, R217). -/
structure WbuMask where
  bytes : BitVec 128
  md    : BitVec 2
  deriving DecidableEq, Repr

/-- What comes with a Grant: the count of acknowledgements to wait for (R339), and FMT and SCALE of the two blocks, where the home has
them (log 76). -/
structure GrantWith where
  ac : Nat
  md : List (Byte × Byte)
  deriving DecidableEq, Repr

/-- What comes with a death notice: the designated neighbour of each dead agent (R360), and the InvAcks that dead agents owe for each
line homed elsewhere (log 46). -/
structure DeathNews where
  routes : List (Nat × Nat)
  owed   : List (Nat × Nat)
  deriving DecidableEq, Repr

/-- A neighbour that has fallen silent on every link (R348), and the InvAcks that the agents of its cell owe for each line homed elsewhere
(log 46). -/
structure DeathSeen where
  agent : Nat
  owed  : List (Nat × Nat)
  deriving DecidableEq, Repr

/-- What a millisecond has measured (R443): the average power drawn, in W, and the hottest temperature, in °C. -/
structure PowerSample where
  draw    : Nat
  celsius : Nat
  deriving DecidableEq, Repr

/-- What boot's last step brings up (R434 step 5): the ports that train, each with its neighbour and the transaction-layer version offered,
and the words of the routing table. -/
structure BringUp where
  trained : Bool
  links   : List (Nat × Nat × Nat)
  routes  : List (Nat × BitVec 64)
  deriving DecidableEq, Repr

/-- States of a line in an agent (R337): invalid, shared, exclusive, modified, owned. -/
inductive LineState where
  | inv | shared | excl | modified | owned
  deriving DecidableEq, Repr

/-- A write to a submission page that is not a 64-byte DMWr of a record (R77). -/
inductive BadWrite where
  /-- a DMWr of another length, or at another offset of the page -/
  | dmwr (length offset : Nat)
  /-- a posted memory write that reaches the submission offset -/
  | posted
  deriving DecidableEq, Repr

/-- The host's snoops of a line it homes (R344). -/
inductive SnoopKind where
  | snpData | snpInv | snpCur
  deriving DecidableEq, Repr

/-- Where an uncorrectable error strikes (R440). -/
inductive ErrLoc where
  /-- a clean line of a core's L1, of L2 or of the far-line cache -/
  | clean (line : Nat)
  /-- a dirty line of L1, L2 or the far-line cache -/
  | line (line : Nat)
  /-- register file, scratchpad, tile, trap record or save area of a team -/
  | team (tk : Nat)
  /-- an entry of an object table -/
  | object (realm obj : Nat)
  /-- an entry of an extent table -/
  | extent (realm obj chunk : Nat)
  /-- the remote-holder entry of a local line -/
  | holder (line : Nat)
  /-- a local line of HBM, or its side metadata -/
  | hbm (line : Nat)
  /-- logic of one core -/
  | core (core : Nat)
  /-- an HBM stack -/
  | stack (stk : Nat)
  /-- the hub die -/
  | hub
  /-- the Ocposan processor (R439) -/
  | ocposan
  deriving DecidableEq, Repr

/-- A register that `REGISTER_WRITE` writes: one with no row of its own (R6). -/
inductive RegAddr where
  /-- the hub register page, at a byte offset (R352): ports, FMARK, FRATE, HERR, HCBASE, SVPOOL, UIDROP, FWCTL, PCAP,
  the routing table -/
  | hub (off : Nat)
  /-- TDEF of one core (R361) -/
  | tdef (core : Nat)
  /-- the core page of one core, at a byte offset (R382, R383, R384) -/
  | corePage (core off : Nat)
  /-- the window of one warp slot, at a byte offset (R385) -/
  | window (core slot off : Nat)
  /-- OCBASE of one core, written by its supervisor core or the Ocposan processor (R15) -/
  | ocbase (core : Nat)
  /-- a submission page, at a byte offset (R76) -/
  | page (page off : Nat)
  /-- a 64-bit word of an entry of the cell-set table, written by the Ocposan processor (R341) -/
  | cellSet (idx word : Nat)
  /-- the base of a BAR in the CXL.io configuration space (R362, R439) -/
  | bar (bar : Nat)
  deriving DecidableEq, Repr

/-- An access of a supervisor core (R314): by physical cell-global address. -/
inductive SupAccess where
  | load (addr size : Nat)
  | store (addr : Nat) (bytes : List Byte)
  /-- its full FENCE, a full fence at package scope -/
  | fence
  /-- a read of a register (R352, R382 to R385), by it or by who else the register's rule admits: the Ocposan processor, or the host
  for the pages of BAR 0 and BAR 2 -/
  | reg (reg : RegAddr)
  /-- a read of the interrupts that are pending in it (R382) -/
  | mip
  deriving DecidableEq, Repr


/-- The instruction set: one constructor for each row of spec/opcode_table.json: the instruction words,
then the steps of the package's own engines, then what only the world outside sends. -/
inductive Instr where
  /-- MOV (R159). -/
  | mov (f : BaseF)
  /-- MOVI (R161). -/
  | movi (f : ImmF)
  /-- MOVH (R161). -/
  | movh (f : ImmF)
  /-- SEL (R159). -/
  | sel (f : BaseF)
  /-- ADD (R159). -/
  | add (f : BaseF)
  /-- SUB (R159). -/
  | sub (f : BaseF)
  /-- MUL (R159). -/
  | mul (f : BaseF)
  /-- MULH (R159). -/
  | mulh (f : BaseF)
  /-- MULHU (R159). -/
  | mulhu (f : BaseF)
  /-- MAD (R159). -/
  | mad (f : BaseF)
  /-- DIV (R160). -/
  | div (f : BaseF)
  /-- DIVU (R160). -/
  | divu (f : BaseF)
  /-- REM (R160). -/
  | rem (f : BaseF)
  /-- REMU (R160). -/
  | remu (f : BaseF)
  /-- MIN (R159). -/
  | min (f : BaseF)
  /-- MAX (R159). -/
  | max (f : BaseF)
  /-- MINU (R159). -/
  | minu (f : BaseF)
  /-- MAXU (R159). -/
  | maxu (f : BaseF)
  /-- ABS (R159). -/
  | abs (f : BaseF)
  /-- NEG (R159). -/
  | neg (f : BaseF)
  /-- ADDI (R161). -/
  | addi (f : ImmF)
  /-- SHL (R159). -/
  | shl (f : BaseF)
  /-- SHR (R159). -/
  | shr (f : BaseF)
  /-- SAR (R159). -/
  | sar (f : BaseF)
  /-- AND (R159). -/
  | and (f : BaseF)
  /-- OR (R159). -/
  | or (f : BaseF)
  /-- XOR (R159). -/
  | xor (f : BaseF)
  /-- NOT (R159). -/
  | not (f : BaseF)
  /-- ANDN (R159). -/
  | andn (f : BaseF)
  /-- LEA (R159). -/
  | lea (f : BaseF)
  /-- POPC (R162). -/
  | popc (f : BaseF)
  /-- CLZ (R162). -/
  | clz (f : BaseF)
  /-- CTZ (R162). -/
  | ctz (f : BaseF)
  /-- BREV (R162). -/
  | brev (f : BaseF)
  /-- BSWAP (R162). -/
  | bswap (f : BaseF)
  /-- ROL (R162). -/
  | rol (f : BaseF)
  /-- ROR (R162). -/
  | ror (f : BaseF)
  /-- BFX (R163). -/
  | bfx (f : BaseF)
  /-- BFXU (R163). -/
  | bfxu (f : BaseF)
  /-- BFI (R163). -/
  | bfi (f : BaseF)
  /-- LX.PICK (R165). -/
  | lxPick (f : BaseF)
  /-- LX.SHF (R165). -/
  | lxShf (f : BaseF)
  /-- LX.ROT (R165). -/
  | lxRot (f : BaseF)
  /-- LX.FLIP (R165). -/
  | lxFlip (f : BaseF)
  /-- PRDC.OR (R166). -/
  | prdcOr (f : BaseF)
  /-- PRDC.AND (R166). -/
  | prdcAnd (f : BaseF)
  /-- PRDC.MSK (R166). -/
  | prdcMsk (f : BaseF)
  /-- EQMASK (R166). -/
  | eqmask (f : BaseF)
  /-- PARTM (R166). -/
  | partm (f : BaseF)
  /-- WRED.ADD (R167). -/
  | wredAdd (f : BaseF)
  /-- WRED.MIN (R167). -/
  | wredMin (f : BaseF)
  /-- WRED.MAX (R167). -/
  | wredMax (f : BaseF)
  /-- WRED.AND (R167). -/
  | wredAnd (f : BaseF)
  /-- WRED.OR (R167). -/
  | wredOr (f : BaseF)
  /-- WRED.XOR (R167). -/
  | wredXor (f : BaseF)
  /-- ICMP (R168). -/
  | icmp (f : BaseF)
  /-- ICMPU (R168). -/
  | icmpu (f : BaseF)
  /-- TSTB (R168). -/
  | tstb (f : BaseF)
  /-- PAND (R170). -/
  | pand (f : BaseF)
  /-- POR (R170). -/
  | por (f : BaseF)
  /-- PXOR (R170). -/
  | pxor (f : BaseF)
  /-- PNOT (R170). -/
  | pnot (f : BaseF)
  /-- PMOV (R170). -/
  | pmov (f : BaseF)
  /-- PSET (R170). -/
  | pset (f : BaseF)
  /-- PGET (R170). -/
  | pget (f : BaseF)
  /-- NOP (R171). -/
  | nop (f : BaseF)
  /-- YIELD (R171). -/
  | yield (f : BaseF)
  /-- BR (R172). -/
  | br (f : JumpF)
  /-- BRX (R173). -/
  | brx (f : BaseF)
  /-- CALL (R210). -/
  | call (f : JumpF)
  /-- CALLX (R210). -/
  | callx (f : BaseF)
  /-- RET (R211). -/
  | ret (f : BaseF)
  /-- UNWIND (R212). -/
  | unwind (f : JumpF)
  /-- EXIT (R403). -/
  | exit (f : BaseF)
  /-- LDF (R213). -/
  | ldf (f : BaseF)
  /-- STF (R213). -/
  | stf (f : BaseF)
  /-- FRQ (R214). -/
  | frq (f : BaseF)
  /-- FADD (R178). -/
  | fadd (f : BaseF)
  /-- FSUB (R178). -/
  | fsub (f : BaseF)
  /-- FMUL (R178). -/
  | fmul (f : BaseF)
  /-- FFMA (R178). -/
  | ffma (f : BaseF)
  /-- FMIN (R179). -/
  | fmin (f : BaseF)
  /-- FMAX (R179). -/
  | fmax (f : BaseF)
  /-- FABS (R180). -/
  | fabs (f : BaseF)
  /-- FNEG (R180). -/
  | fneg (f : BaseF)
  /-- FDIV (R178). -/
  | fdiv (f : BaseF)
  /-- FSQRT (R178). -/
  | fsqrt (f : BaseF)
  /-- FRCP (R178). -/
  | frcp (f : BaseF)
  /-- FRSQ (R178). -/
  | frsq (f : BaseF)
  /-- FCMP (R181). -/
  | fcmp (f : BaseF)
  /-- FCLASS (R182). -/
  | fclass (f : BaseF)
  /-- PADD2 (R183). -/
  | padd2 (f : BaseF)
  /-- PSUB2 (R183). -/
  | psub2 (f : BaseF)
  /-- PMUL2 (R183). -/
  | pmul2 (f : BaseF)
  /-- PFMA2 (R183). -/
  | pfma2 (f : BaseF)
  /-- PMIN2 (R183). -/
  | pmin2 (f : BaseF)
  /-- PMAX2 (R183). -/
  | pmax2 (f : BaseF)
  /-- DADD (R184). -/
  | dadd (f : BaseF)
  /-- DSUB (R184). -/
  | dsub (f : BaseF)
  /-- DMUL (R184). -/
  | dmul (f : BaseF)
  /-- DFMA (R184). -/
  | dfma (f : BaseF)
  /-- DDIV (R184). -/
  | ddiv (f : BaseF)
  /-- DSQRT (R184). -/
  | dsqrt (f : BaseF)
  /-- DMIN (R184). -/
  | dmin (f : BaseF)
  /-- DMAX (R184). -/
  | dmax (f : BaseF)
  /-- DCMP (R181). -/
  | dcmp (f : BaseF)
  /-- DCLASS (R184). -/
  | dclass (f : BaseF)
  /-- FEXP2 (R185). -/
  | fexp2 (f : BaseF)
  /-- FLOG2 (R185). -/
  | flog2 (f : BaseF)
  /-- FSIN (R185). -/
  | fsin (f : BaseF)
  /-- FCOS (R185). -/
  | fcos (f : BaseF)
  /-- FTANH (R185). -/
  | ftanh (f : BaseF)
  /-- CVT (R187). -/
  | cvt (f : BaseF)
  /-- FRND (R188). -/
  | frnd (f : BaseF)
  /-- QNT (R190). -/
  | qnt (f : BaseF)
  /-- DQNT (R191). -/
  | dqnt (f : BaseF)
  /-- BMRD (R192). -/
  | bmrd (f : BaseF)
  /-- BMWR (R192). -/
  | bmwr (f : BaseF)
  /-- AMXRD (R194). -/
  | amxrd (f : BaseF)
  /-- AMXPSH (R195). -/
  | amxpsh (f : BaseF)
  /-- AMXCMT (R59). -/
  | amxcmt (f : BaseF)
  /-- AMXCLR (R195). -/
  | amxclr (f : BaseF)
  /-- LD (R223). -/
  | ld (f : MemF)
  /-- ST (R224). -/
  | st (f : MemF)
  /-- FLD (R230). -/
  | fld (f : MemF)
  /-- SPLD (R231). -/
  | spld (f : MemF)
  /-- SPST (R231). -/
  | spst (f : MemF)
  /-- PREF (R232). -/
  | pref (f : MemF)
  /-- LDREF (R233). -/
  | ldref (f : MemF)
  /-- STREF (R234). -/
  | stref (f : MemF)
  /-- RDERIVE (R236). -/
  | rderive (f : BaseF)
  /-- REFADD (R235). -/
  | refadd (f : BaseF)
  /-- RINFO (R241). -/
  | rinfo (f : BaseF)
  /-- OALLOC (R238). -/
  | oalloc (f : BaseF)
  /-- OFREE (R239). -/
  | ofree (f : BaseF)
  /-- ATOM (R291). -/
  | atom (f : SyF)
  /-- RED (R292). -/
  | red (f : SyF)
  /-- FENCE (R294). -/
  | fence (f : SyF)
  /-- MMA (R276). -/
  | mma (f : MxF)
  /-- ACZ (R281). -/
  | acz (f : MxF)
  /-- ACRD (R283). -/
  | acrd (f : MxF)
  /-- ACRD.Q (R286). -/
  | acrdQ (f : MxF)
  /-- ACWR (R283). -/
  | acwr (f : MxF)
  /-- ACRED (R284). -/
  | acred (f : MxF)
  /-- ACSCL (R285). -/
  | acscl (f : MxF)
  /-- SCPY (R263). -/
  | scpy (f : ShF)
  /-- SGATH (R262). -/
  | sgath (f : ShF)
  /-- SGATH.SP (R262). -/
  | sgathSp (f : ShF)
  /-- SSCAT (R264). -/
  | sscat (f : ShF)
  /-- SSADD (R264). -/
  | ssadd (f : ShF)
  /-- SPUT (R265). -/
  | sput (f : ShF)
  /-- SFILL (R266). -/
  | sfill (f : ShF)
  /-- SQCP (R267). -/
  | sqcp (f : ShF)
  /-- LYSET (R245). -/
  | lyset (f : BaseF)
  /-- BAR (R297). -/
  | bar (f : SyF)
  /-- BARA (R297). -/
  | bara (f : SyF)
  /-- SHARR (R300). -/
  | sharr (f : SyF)
  /-- SHARR.INIT (R300). -/
  | sharrInit (f : SyF)
  /-- SHWAIT (R301). -/
  | shwait (f : SyF)
  /-- CWAIT (R295). -/
  | cwait (f : SyF)
  /-- MWAIT (R296). -/
  | mwait (f : SyF)
  /-- PUB (R303). -/
  | pub (f : SyF)
  /-- PUBW (R303). -/
  | pubw (f : SyF)
  /-- LAUNCH (R309). -/
  | launch (f : SyF)
  /-- LAUNCHI (R309). -/
  | launchi (f : SyF)
  /-- HCALL (R311). -/
  | hcall (f : SyF)
  /-- HCALL.NB (R311). -/
  | hcallNb (f : SyF)
  /-- UINTR (R312). -/
  | uintr (f : SyF)
  /-- SRD (R376). -/
  | srd (f : BaseF)
  /-- SWR (R376). -/
  | swr (f : BaseF)
  /-- TRAP (R377). -/
  | trap (f : BaseF)
  /-- TFENCE (R378). -/
  | tfence (f : BaseF)
  /-- RFT (R379). -/
  | rft (f : BaseF)
  /-- PARK (R380). -/
  | park (f : BaseF)
  /-- CLRPSN (R381). -/
  | clrpsn (f : BaseF)
  /-- BUNDLE_OPEN (R135): The heddle chooses a warp and opens bundles from its ready groups on free paths. -/
  | bundleOpen (core : Nat) (part : Nat)
  /-- FORCED_WARP (R138): A ready warp that has issued nothing for 64 cycles is forced ahead of the others. -/
  | forcedWarp (core : Nat) (part : Nat)
  /-- ICACHE_FILL (R114): An instruction-cache miss completes and unfreezes the warp's sequencer, after SLIPCNT has counted the miss. -/
  | icacheFill (core : Nat) (realm : Nat) (obj : Nat) (line : Nat)
  /-- ASYNC_TRAP (R259): A recorded asynchronous fault is taken at the warp's next clause boundary and parks it. -/
  | asyncTrap (wk : Nat)
  /-- WARP_PARKED (R373): The last bundle of a parking warp closes, PSTAT.P is set and the supervisor is notified. -/
  | warpParked (wk : Nat)
  /-- DEFERRED_RESPONSE (R142): A response fills an EMPTY frame register FULL, or is discarded if the register is FAULTED. -/
  | deferredResponse (id : Nat)
  /-- REMOTE_TIMEOUT (R346): A remote request's timeout expires: precise REMOTE TIMEOUT, FAULTED destination, or a zeroed count. -/
  | remoteTimeout (id : Nat)
  /-- FRAME_GRANT (R201): The head frame request is granted once the free granules cover it. -/
  | frameGrant (core : Nat) (part : Nat)
  /-- DOFFER_WAKE (R204): The doffer wakes after 256 cycles of waiting, on a deadlock or on an uncovered refill, and picks frames to spill. -/
  | dofferWake (core : Nat) (part : Nat)
  /-- SPILL_DONE (R204): A spill record has been written and the frame's granules and id are released. -/
  | spillDone (core : Nat) (part : Nat)
  /-- REFILL_DONE (R204): A spill record has been restored into fresh granules and the waiting lanes enter the frame. -/
  | refillDone (core : Nat) (part : Nat)
  /-- FRAME_RELEASE (R199): A frame whose Remaining is empty is released once its discarded responses have drained. -/
  | frameRelease (fk : Nat)
  /-- OBJECT_WALK (R28): A hardware walk of the realm, level-1 and object entries completes and fills the object cache. -/
  | objectWalk (core : Nat) (realm : Nat) (obj : Nat)
  /-- EXTENT_FILL (R27): An extent-table read completes and fills the port's extent cache. -/
  | extentFill (die : Nat) (realm : Nat) (obj : Nat) (chunk : Nat)
  /-- SHUTTLE_COMPLETE (R252): A shuttle command completes and reports in issue order on its counter, or arrives on its slot. -/
  | shuttleComplete (id : Nat)
  /-- SHUTTLE_ASYNC_FAULT (R259): An element meets an asynchronous fault that stops the command and is recorded in SHERR. -/
  | shuttleAsyncFault (id : Nat)
  /-- SPUT_INCREMENT (R265): Once a put's acknowledgement counts are zero, its counter word is incremented as a system release. -/
  | sputIncrement (id : Nat)
  /-- HELD_ARRIVAL (R302): A held shed-ring arrival is performed once the slot's phase matches. -/
  | heldArrival (tk : Nat) (idx : Nat)
  /-- MMA_PERFORM (R276): The bank's sub-array performs an MMA, writes its rows and completes on its counter. -/
  | mmaPerform (core : Nat) (bank : Nat)
  /-- ACZ_PERFORM (R281): The sub-array zeroes the tile rows of an ACZ entry. -/
  | aczPerform (core : Nat) (bank : Nat)
  /-- WALK_VISIT (R304): The walker visits one object: write-back, VIS/OWN update and scan for tagged references. -/
  | walkVisit (core : Nat)
  /-- WALK_COMPLETE (R306): A walk finishes or faults and reports to PUBW, PUB, the launch or the escaping access. -/
  | walkComplete (core : Nat)
  /-- MWAIT_REREAD (R296): An MWAIT word is re-read on invalidation or after 65,536 cycles. -/
  | mwaitReread (wk : Nat) (path : Nat)
  /-- HCALL_REPLY (R311): The monitor sees RSEQ equal to SEQ and reads the reply with an acquire. -/
  | hcallReply (slot : Nat)
  /-- HCALL_TIMEOUT (R311): A host call expires: dw0 is rewritten as withdrawn and the lane faults or its register is FAULTED. -/
  | hcallTimeout (slot : Nat)
  /-- MONITOR_REREAD (R365): The host-call monitor re-reads dw8 after a snoop or after 65,536 cycles. -/
  | monitorReread (slot : Nat)
  /-- UINTR_DELIVER (R400): The oldest queued user interrupt is delivered to the target warp's lanes at a boundary. -/
  | uintrDeliver (tk : Nat)
  /-- TAKE (R80): The dispatcher takes a record with a system acquire and runs acceptance steps 0–6. -/
  | take (page : Nat)
  /-- PRED_WATCH (R86): A watched predecessor record becomes nonzero and is read with a system acquire. -/
  | predWatch (grid : Nat) (which : Nat)
  /-- COUNT_READ (R87): The indirect team count is read once with a package acquire. -/
  | countRead (grid : Nat)
  /-- DEAL (R89): A ready grid is dealt as runs to eligible core positions, and sleeping cores are woken. -/
  | deal (grid : Nat)
  /-- ADMIT (R99): The queue engine tests the head team and admits it, or asks for pre-emption. -/
  | admitHead (core : Nat)
  /-- IDLE_STEAL (R95): An idle or woken core draws victims and sends steal requests. -/
  | idleSteal (core : Nat)
  /-- STEAL_REQUEST (R96): A victim answers a steal request with the upper half of a permitted run, or NONE. -/
  | stealRequest (thief : Nat) (victim : Nat)
  /-- STEAL_ANSWER (R95): The thief receives the answer and takes the run into its queue. -/
  | stealAnswer (core : Nat)
  /-- TEAM_RETIRE (R405): A team whose conditions all hold retires: faults counted, release, arena reset and resources freed. -/
  | teamRetire (tk : Nat)
  /-- GRID_COMPLETE (R408): The dispatcher writes the completion record with a system release and leaves the pending state. -/
  | gridComplete (grid : Nat)
  /-- QUIESCE_DONE (R390): A quiesced team's last bundle closes and the engine chooses retire, drain, flush, save or resume. -/
  | quiesceDone (tk : Nat)
  /-- DRAIN_REQUIESCE (R392): Every 65,536 cycles a drained team is quiesced again and R390 is reapplied. -/
  | drainRequiesce (tk : Nat)
  /-- VICTIM_SKIP_EXPIRE (R389): The 65,536-cycle skip of a resumed victim ends. -/
  | victimSkipExpire (core : Nat) (tk : Nat)
  /-- FLUSH_DONE (R393): After the engines drain, the team is discarded and re-entered as a run of one. -/
  | flushDone (tk : Nat)
  /-- SAVE_DONE (R394): After producers, engines and the doffer finish, the team is written to a save area and requeued. -/
  | saveDone (tk : Nat)
  /-- RESTORE (R397): A saved team is admitted and its state, current frames and held arrivals are brought back. -/
  | restore (core : Nat)
  /-- OINV_DRAIN (R29): A core drops the object's translations, waits for its accesses, writes back dirty lines and acknowledges. -/
  | oinvDrain (core : Nat) (realm : Nat) (obj : Nat)
  /-- OINV_RELEASE (R29): A core drops fetched entries, restarts stalled lanes at check 3 and acknowledges. -/
  | oinvRelease (core : Nat) (realm : Nat) (obj : Nat)
  /-- CPADDR (R382): A write of CPADDR sends ClrP for a line and reports the outcome in CPRES. -/
  | cpaddr (core : Nat) (addr : Nat)
  /-- BLOCK_COPY_BLOCK (R383): One block is recalled, read and written as a unit, or the copy stops with TIMEOUT or ADDRESS. -/
  | blockCopyBlock (core : Nat)
  /-- RDS (R336): The home serves a read-for-sharing request. -/
  | rds (src : Sender) (line : Nat)
  /-- RDX (R336): The home serves a read-for-ownership request after the selvedge check. -/
  | rdx (src : Nat) (cell : Nat) (line : Nat)
  /-- UPG (R336): The home serves an upgrade of an S line. -/
  | upg (src : Nat) (cell : Nat) (line : Nat)
  /-- WRFULL (R336): The home grants ownership without data for a full-line write, clearing P. -/
  | wrfull (src : Nat) (cell : Nat) (line : Nat)
  /-- RDU (R336): The home serves an untracked read of a private line. -/
  | rdu (src : Nat) (cell : Nat) (line : Nat) (wr : Bool)
  /-- WBU (R336): The home writes untracked dirty bytes after the selvedge check. -/
  | wbu (src : Nat) (cell : Nat) (line : Nat) (mask : WbuMask) (dat : LineData)
  /-- RDNC (R336): The home serves an 8-byte non-caching read. -/
  | rdnc (src : Sender) (addr : Nat)
  /-- EVS (R336): The home applies or ignores a clean-drop notice. -/
  | evs (src : Sender) (line : Nat)
  /-- WBM (R336): The home takes or discards the write-back of an M or O line. -/
  | wbm (src : Sender) (line : Nat) (dat : LineData)
  /-- DIRTY (R336): The home records that an E line was written. -/
  | dirty (src : Sender) (line : Nat)
  /-- CLRP (R336): The home clears P on a line and keeps its data. -/
  | clrp (src : Sender) (line : Nat)
  /-- HEARTBEAT_SEND (R359): Every 10 µs each trained link sends a heartbeat. -/
  | heartbeatSend (port : Nat)
  /-- HEARTBEAT_LOSS (R359): A link with no heartbeat for 50 µs sets HBL and is routed around. -/
  | heartbeatLoss (port : Nat)
  /-- RECOVERY_SCAN (R350): The recovery engine removes dead holders from entries, poisoning lines they owned dirty. -/
  | recoveryScan (line : Nat)
  /-- RATE_INCREASE (R358): Every INCP µs without a mark, a limiter entry's rate rises. -/
  | rateIncrease (target : Nat)
  /-- WIDTH_CHANGE (R354): A new width is agreed and flits resume. -/
  | widthChange (port : Nat)
  /-- VERIFY_DONE (R435): Verification ends in INIT or in FAILED with a code. -/
  | verifyDone
  /-- CORE_OFFLINE (R437): A failing core goes offline and its runs are dealt again. -/
  | coreOffline (core : Nat)
  /-- LOCAL_MEMORY_RESPONSE (R225): An access to a line homed in the package completes at the die's L2 or HBM, delivering data or write permission to a blocked atomic, LYSET, MWAIT read, acquiring load or retiring store. -/
  | localMemoryResponse (id : Nat)
  /-- DEATH_DECLARE (R348): A neighbour silent on every link for 50 µs is declared dead and a notice is broadcast. -/
  | deathDeclare (seen : DeathSeen)
  /-- POWER_ON (R434): The Ocposan processor runs its boot ROM and trains CXL.io. -/
  | powerOn
  /-- IMAGE_BUFFER_WRITE (R434): A host write to the image buffer, discarded outside WAIT_IMAGE and FAILED. -/
  | imageBufferWrite (off : Nat) (bytes : List (BitVec 8))
  /-- GO (R434): A write of FWCTL.GO starts verification of the image. -/
  | go
  /-- INIT_DONE (R434): Configuration, HBM, metadata and fabric bring-up finish and FWSTAT becomes READY. -/
  | initDone (up : BringUp)
  /-- LOCK_INTERFACE_REQUEST (R439): Locks the interface and freezes its configuration. -/
  | lockInterfaceRequest
  /-- GET_DEVICE_INTERFACE_REPORT (R439): Returns the interface report. -/
  | getDeviceInterfaceReport
  /-- START_INTERFACE_REQUEST (R439): Moves the interface to RUN. -/
  | startInterfaceRequest
  /-- STOP_INTERFACE_REQUEST (R439): Zeroes the secure memory and unlocks the interface. -/
  | stopInterfaceRequest
  /-- CORRECTED_ERROR (R440): A corrected ECC error updates the counters and perhaps REPL. -/
  | correctedError
  /-- UNCORRECTABLE_ERROR (R440): An uncorrectable error drops a line, poisons it, kills a team, or stops the package. -/
  | uncorrectableError (loc : ErrLoc)
  /-- THROTTLE_STEP (R443): Each millisecond the clock falls or rises by 1/16 by power and temperature. -/
  | throttleStep (now : PowerSample)
  /-- THERMAL_STOP (R443): At 115 °C the package is stopped. -/
  | thermalStop (celsius : Nat)
  /-- REGISTER_WRITE (R6): A write to a register with no row of its own, with RO, W1C and reserved fields handled. -/
  | registerWrite (reg : RegAddr) (v : BitVec 64)
  /-- SUPERVISOR_ACCESS (R314): The supervisor core performs a load, a store or a full FENCE through its core's L1, for example writing MIG, HOME or SEQ into an object entry. -/
  | supervisorAccess (core : Nat) (acc : SupAccess)
  /-- OBJECT_POOL_REFILL (R237): The supervisor core refills a core's per-realm pool of free object numbers, or reports the realm exhausted, and lanes stalled on an empty pool go on or fault NONUM. -/
  | objectPoolRefill (core : Nat) (realm : Nat) (nums : List Nat)
  /-- SUBMISSION_PAGE_BIND (R76): Through the Ocposan processor, the driver binds a submission page to a realm and a world and enables it, setting EN, PREALM and PWLD. -/
  | submissionPageBind (page : Nat) (realm : Nat) (wld : Bool)
  /-- FLIT_REPLAY (R353): The Data Link Layer receives a corrupted flit and replays it through link-level replay. -/
  | flitReplay (port : Nat)
  /-- HOST_SNOOP (R363): A host snoop on a 64-byte half is answered from its state. -/
  | hostSnoop (half : Nat) (kind : SnoopKind)
  /-- HOST_GO (R344): The host's global-observation response grants ownership of a half. -/
  | hostGo (half : Nat) (dat : LineData)
  /-- HOST_BI_RESPONSE (R345): The host's back-invalidate response is turned into an InvAck. -/
  | hostBiResponse (agent : Nat) (line : Nat)
  /-- HOST_MEM_READ (R364): A CXL.mem read is served at the home L2. -/
  | hostMemRead (addr : Nat) (size : Nat)
  /-- HOST_MEM_WRITE (R364): A CXL.mem write is performed or refused and counted in HERR. -/
  | hostMemWrite (addr : Nat) (bytes : List (BitVec 8))
  /-- LINK_UP (R353): A port trains and negotiates its transaction-layer version. -/
  | linkUp (port : Nat) (peer : Nat) (version : Nat)
  /-- LANE_FAILURE (R354): A lane fails and the width is renegotiated at a flit boundary. -/
  | laneFailure (port : Nat) (lanes : Nat)
  /-- RTRN (R354): A write of 1 to RTRN retrains the port at the next flit boundary. -/
  | rtrn (port : Nat)
  /-- HEARTBEAT (R359): A heartbeat is received on a link. -/
  | heartbeat (port : Nat)
  /-- PACKET_FORWARD (R355): A router forwards a packet on an adaptive or escape channel, marking it when congested. -/
  | packetForward (src : Nat) (dst : Nat) (via : Option Nat) (cls : Nat) (flits : Nat) (hop : Nat) (mark : Bool) (esc : Bool)
  /-- DEATH_NOTICE (R349): A package fences the dead cell, invalidates its lines and rewrites routing. -/
  | deathNotice (agents : List Nat) (news : DeathNews)
  /-- SELVEDGE_CHANGE (R343): A page byte narrows and the X lines of excluded cells are recalled before the change completes. -/
  | selvedgeChange (page : Nat) (idx : BitVec 8)
  /-- INV (R337): A holder invalidates and acknowledges to the collector. -/
  | inv (msg : LineMsg) (collector : Nat)
  /-- FWDS (R337): An owner supplies a line for sharing. -/
  | fwds (msg : LineMsg) (req : Nat)
  /-- FWDX (R337): An owner supplies a line for ownership and invalidates its copy. -/
  | fwdx (msg : LineMsg) (req : Nat) (ac : Nat)
  /-- WBREQ (R337): An owner writes back and keeps S, or invalidates when recalled. -/
  | wbreq (msg : LineMsg) (inval : Bool)
  /-- DATA (R339): A requester receives the line with its granted state and AC; a late one is only installed. -/
  | data (line : Nat) (st : LineState) (ac : Nat) (dat : LineData)
  /-- GRANT (R339): A requester receives ownership without data, with AC. -/
  | grant (line : Nat) (own : GrantWith)
  /-- INVACK (R338): A collector counts an invalidation acknowledgement against AC. -/
  | invack (msg : LineMsg)
  /-- FWDACK (R336): The home receives the owner's forward acknowledgement, with data if dirty. -/
  | fwdack (msg : LineMsg) (dirty : Bool) (dat : LineData)
  /-- FWDDATA (R334): A requester receives the line from the owner as its Data. -/
  | fwddata (msg : LineMsg) (st : LineState) (ac : Nat) (dat : LineData)
  /-- WBACK (R338): An agent frees its write-back buffer entry. -/
  | wback (line : Nat)
  /-- DIRTYACK (R338): An agent removes the Dirty notice from its acknowledgement count. -/
  | dirtyack (line : Nat)
  /-- MISS (R338): The home serves a forwarded request from its own copy. -/
  | miss (msg : LineMsg)
  /-- REFUSE (R342): The requester's access faults REMOTE FIREWALL. -/
  | refuse (line : Nat)
  /-- POISON (R351): The requester's access faults REMOTE POISON. -/
  | poison (line : Nat)
  /-- SUBMIT_DMWR (R77): A 64-byte DMWr to SUBMIT is accepted or answered RETRY. -/
  | submitDmwr (page : Nat) (rec : List (BitVec 64))
  /-- SUBMIT_BAD_WRITE (R77): Any other write to a submission page is refused and sets BADW. -/
  | submitBadWrite (page : Nat) (wr : BadWrite)
  /-- UIDB (R401): A host write of UIDB posts a user interrupt, or is dropped and counted in UIDROP. -/
  | uidb (handle : BitVec 32) (datum : BitVec 32)
  /-- OGO_DRAIN (R382): OGO with OKIND 0 sends OINV (drain) for an object. -/
  | ogoDrain (core : Nat) (realm : Nat) (obj : Nat)
  /-- OGO_RELEASE (R382): OGO with OKIND 1 sends OINV (release) for an object. -/
  | ogoRelease (core : Nat) (realm : Nat) (obj : Nat)
  /-- PRGO (R384): The supervisor requests pre-emption of the team that PRTEAM names. -/
  | prgo (core : Nat)
  /-- MCGO (R383): A write of MCGO starts a block copy with side metadata. -/
  | mcgo (core : Nat)
  /-- RESUME (R386): The CMD command RESUME unparks the warp's lanes by mask. -/
  | resume (wk : Nat) (mask : BitVec 32)
  /-- FORWARD (R386): The CMD command FORWARD sends LMASK lanes into the handler with PV := PRV. -/
  | forward (wk : Nat) (prv : Bool)
  /-- KILL (R406): The CMD command KILL ends the team: every lane exits at once. -/
  | kill (wk : Nat)
  deriving DecidableEq, Repr

end Sys2Proof
end

