-- ==== Sys2Proof/Machine/State.lean ====
section
/-! DEFINITION. The state of one Vunik package (VK3-32C-8H) as plain data: everything the spec gives the machine,
from the lanes of its warps to its hub registers, its home directory and its boot state, and the agenda by which the
rest of the world acts on it (log 1, log 2). -/

namespace Sys2Proof.Machine

/-- A table from numbers to values, kept with keys strictly rising. -/
abbrev Tab (α : Type) := List (Nat × α)

/-- A PC, a handler's resume point or a header address (R102): object number and byte offset. -/
structure Pc where
  obj : BitVec 24
  off : BitVec 40
  deriving DecidableEq, Repr

/-! ### Causes -/

/-- Trap causes (R367). -/
inductive Cause where
  | illegal | operand | memory | escape | arith | frame | remote | deferred | software | userint | debug
  deriving DecidableEq, Repr

/-- A fault as an instruction raises it in one lane: cause, sub-cause and what the lane's trap entry records (R371). -/
structure LaneFault where
  cause : Cause
  sub   : Byte
  opv   : Word := 0
  reg   : Byte := 0
  eoff  : BitVec 40 := 0
  deriving DecidableEq, Repr

/-- Why a Datre request failed (R225, R346, R349): the sub-causes of REMOTE. -/
inductive RemoteFail where
  | firewall | poison | timeout
  deriving DecidableEq, Repr

/-! ### Memory -/

/-- Bytes with their side metadata (R31): bytes by address, tags by 8-byte word, FMT and SCALE by 64-byte block, LTP and
DIR by 128-byte line, PTP by 4 KiB page. An address not listed reads as memory that boot has cleared (log 6). -/
structure Mem where
  bytes : List Host.Cell := []
  tags  : Tab Bool := []
  blk   : Tab (Byte × Byte) := []
  ltp   : Tab Bool := []
  ptp   : Tab Bool := []
  dir   : Tab (BitVec 2) := []
  deriving DecidableEq, Repr

/-- A line in a core's L1 (R216): whose object it belongs to, its cell-global line number, whether it was taken as a
published line, its contents, which bytes, word tags and block metadata are dirty, and how far its addresses lie above the object's
offsets (R27). -/
structure L1Line where
  realm  : Nat
  obj    : Nat
  line   : Nat
  pub    : Bool
  data   : LineData
  dirty  : BitVec 128
  tdirty : BitVec 16
  mdirty : BitVec 2
  base   : Int
  deriving DecidableEq, Repr

/-- A cached object entry (R28): its four dwords and the SW bit of its realm. -/
structure OcEntry where
  realm : Nat
  obj   : Nat
  dws   : List Word
  sw    : Bool
  deriving DecidableEq, Repr

/-- A cached extent (R27). -/
structure ExtEntry where
  realm : Nat
  obj   : Nat
  chunk : Nat
  entry : Word
  deriving DecidableEq, Repr

/-- A cached level-1 entry (R28). -/
structure L1tEntry where
  realm : Nat
  idx   : Nat
  entry : Word
  deriving DecidableEq, Repr

/-- An instruction-cache line (R104, R114): 64 bytes of a code object, and its place in the order of fills and
acceptances. -/
structure ICLine where
  realm : Nat
  obj   : Nat
  line  : Nat
  stamp : Nat
  bytes : List Byte
  deriving DecidableEq, Repr

/-! ### Frames and lanes -/

/-- State of a frame register of one lane (R142). -/
inductive RegSt where
  | full | empty | faulted
  deriving DecidableEq, Repr

/-- A frame register of one lane: value (or fault note, R144) and state. -/
structure FReg where
  val : BitVec 32
  st  : RegSt
  deriving DecidableEq, Repr

/-- Where a frame's registers are (R197, R198, R398). -/
inductive FrameLoc where
  /-- resident under a frame id -/
  | resident (fid : Nat)
  /-- in a spill record at an offset of the team's spill slot -/
  | spilled (off : Nat)
  /-- in a record of the team's n-th save area -/
  | saved (area off : Nat)
  deriving DecidableEq, Repr

/-- A call frame (R197, R198). `listed` is its index in the newest frame directory (R398). -/
structure Frame where
  wk     : Nat
  demand : Nat
  depth  : Nat
  rpc    : Pc
  caller : Option Nat
  lset   : BitVec 32
  rem    : BitVec 32
  loc    : FrameLoc
  regs   : Tab FReg
  ptags  : Tab Bool
  listed : Option Nat
  deriving DecidableEq, Repr

/-- What a lane that is BLOCKED outside an open bundle waits for (R132). -/
inductive WaitOn where
  | frame
  /-- in a BAR wait, for a phase -/
  | bar (phase : Nat)
  deriving DecidableEq, Repr

/-- Status of a lane (R132); a PARKED lane is a waiting lane of R370 or not. -/
inductive LaneSt where
  | run
  | blocked (w : WaitOn)
  | parked (waiting : Bool)
  | exited
  deriving DecidableEq, Repr

/-- The RET or UNWIND by which a lane has come into a frame that is not resident, and the id of the frame that it left (R207). -/
structure RetAt where
  hdr : Pc
  idx : Nat
  opc : BitVec 10
  fid : Nat
  deriving DecidableEq, Repr

/-- One lane (R132, R139, R372, R375). `cix` is its position inside the clause whose header is `pc`: 0 at the header,
otherwise the instruction it resumes at; `ret` is how it has come into a frame that is not resident (R207). -/
structure Lane where
  pc    : Pc
  cix   : Nat
  frame : Nat
  st    : LaneSt
  q     : List Val
  g     : Tab Val
  p     : BitVec 16
  flags : BitVec 7
  h     : Bool
  pv    : Bool
  rpc   : Pc
  rix   : BitVec 4
  ret   : Option RetAt
  deriving DecidableEq, Repr

/-! ### Bundles and warps -/

/-- Where a lane goes once its clause closes (R112, R134). -/
inductive Next where
  /-- on to the dword after the clause -/
  | fall
  /-- to a PC that a terminator set -/
  | jump (pc : Pc)
  /-- it has left: its PC and status are already set -/
  | left
  deriving DecidableEq, Repr

/-- What an instruction did for one lane that took no fault: the value of its destination (`val2`: bytes 8 to 15 of a 16-byte result), predicates written, flags
raised, and where the lane goes. -/
structure LaneRes where
  val   : Option Val := none
  val2  : Option Val := none
  preds : List (Nat × Bool) := []
  flags : BitVec 7 := 0
  next  : Next := .fall
  deriving DecidableEq, Repr

/-- Outcome of an instruction in one lane. -/
inductive LaneOut where
  | ok (r : LaneRes)
  | fault (f : LaneFault)
  deriving DecidableEq, Repr

/-- An open bundle (R134): its lanes, header address and word, the clause's instruction words, the next instruction, the
lanes that have already performed it (it may block in between), the lanes that a terminator has moved, whether YIELD
issued, and the epoch at which it last blocked. `bad` is the fault of a header that fails its checks, which the bundle raises when it
issues (R369, R374). -/
structure Bundle where
  lanes   : BitVec 32
  hdr     : Pc
  hword   : Word
  words   : List Word
  idx     : Nat
  outs    : List (Nat × LaneOut)
  moved   : List (Nat × Next)
  yielded : Bool
  blocked : Option Nat
  bad     : Option LaneFault := none
  deriving DecidableEq, Repr

/-- Warp roles (R71). -/
inductive Role where
  | gen | copy | matrix | vector
  deriving DecidableEq, Repr

/-- Trap record header (R371). -/
structure TrapRec where
  v      : Bool := false
  async  : Bool := false
  nest   : Bool := false
  pk     : Bool := false
  cause  : BitVec 4 := 0
  sub    : Byte := 0
  opc    : BitVec 10 := 0
  lmask  : BitVec 32 := 0
  hdr    : Word := 0
  idx    : BitVec 4 := 0
  clane  : BitVec 5 := 0
  fid    : BitVec 9 := 0
  ncause : BitVec 4 := 0
  nsub   : Byte := 0
  nidx   : BitVec 4 := 0
  nhdr   : Word := 0
  usrc   : BitVec 32 := 0
  udat   : BitVec 32 := 0
  deriving DecidableEq, Repr

/-- Trap record entry of one lane (R371). -/
structure TrapLane where
  opv  : Word := 0
  reg  : Byte := 0
  eoff : BitVec 40 := 0
  deriving DecidableEq, Repr

/-- An asynchronous fault that waits for its warp's next clause boundary (R259, R306, R311, R370): the command lane, whether SHERR
records it, and the reference and the effective offset of its access (R371). -/
structure AsyncFault where
  lane  : Nat
  cause : Cause
  sub   : Byte
  sherr : Bool
  opv   : Word := 0
  eoff  : BitVec 40 := 0
  deriving DecidableEq, Repr

/-- SHERR (R260). -/
structure ShErr where
  v     : Bool := false
  ovf   : Bool := false
  minor : BitVec 3 := 0
  cause : BitVec 4 := 0
  sub   : Byte := 0
  elem  : BitVec 32 := 0
  k     : Bool := false
  cv    : Bool := false
  ci    : BitVec 3 := 0
  taken : Bool := false
  deriving DecidableEq, Repr

/-- A command reported on a completion counter, in issue order (R150). -/
structure Ticket where
  id   : Nat
  done : Bool
  deriving DecidableEq, Repr

/-- The deferred results of one instruction on their way (R154): the path while it still issues, and the words of the results that have
arrived. -/
structure Landing where
  path : Option Nat
  cols : List (List (BitVec 32))
  deriving DecidableEq, Repr

/-- One warp slot that holds a warp of a team (R61, R71, R132–R138, R150, R371, R375). `parked` is PSTAT.P; `prun` says that P
stays 1 after a RESUME that left LMASK lanes PARKED while the others run (R386). `frozen` holds the instruction-cache lines
that the warp waits for (R114), `ferr` those whose fetch has failed; `hold`
are the lanes that a clause with SCHED 10 has left at a boundary (R108); `mwait` is the cycle in which the MWAIT of a path last read its words (R296);
`landing` the instructions whose deferred results CMPCNT has still to count (R154). -/
structure Warp where
  team    : Nat
  wix     : Nat
  role    : Role
  ctr     : Tab (List Ticket)
  hbase   : Word
  slip    : BitVec 48
  bankc   : BitVec 48
  uni     : BitVec 32
  dlt     : BitVec 32
  sherr   : ShErr
  tout    : BitVec 20
  trec    : TrapRec
  tlanes  : Tab TrapLane
  asyncs  : List AsyncFault
  parked  : Bool
  parking : Bool
  prun    : Bool
  step    : Bool
  note    : Bool
  path0   : Option Bundle
  path1   : Option Bundle
  stamp   : Nat
  since   : Nat
  wasRdy  : Bool
  hold    : BitVec 32
  frozen  : List (Nat × Nat × Nat)
  ferr    : List ((Nat × Nat × Nat) × RemoteFail)
  fsel    : BitVec 9
  mwait   : Tab Nat
  landing : Tab Landing := []
  deriving DecidableEq, Repr

/-! ### Teams -/

/-- A shed ring (R299). -/
structure Ring where
  depth : Nat
  cnt   : Nat
  ph    : List Bool
  rem   : List Nat
  deriving DecidableEq, Repr

/-- An arrival held on a shed ring (R302): ring, slot, phase, warp, and the shuttle command that owes it, if the command
has not been saved and restored since. -/
structure HeldArr where
  ring  : Nat
  slot  : Nat
  phase : Bool
  wix   : Nat
  cmd   : Option Nat
  deriving DecidableEq, Repr

/-- A layout record (R244): dw0 (BASE) with its tag, then dw1 … dw7. -/
structure Layout where
  base : Val
  dws  : List Word
  deriving DecidableEq, Repr

/-- A pool slot that a team holds (R66, R238): the pool's object and the offset and size of the slot in it. -/
structure PoolSlot where
  obj  : Nat
  off  : Nat
  size : Nat
  idx  : Nat
  deriving DecidableEq, Repr

/-- An object that a team allocated from its arena (R238). -/
structure ArenaObj where
  num   : Nat
  start : Nat
  size  : Nat
  deriving DecidableEq, Repr

/-- A save area of a team (R395): local base address and size in 64 KiB units. -/
structure SaveArea where
  base  : Nat
  units : Nat
  deriving DecidableEq, Repr

/-- What a save keeps of a warp beside the area of R396: the current frame of each lane, how lanes have come into frames that are not
resident, faults that wait to be taken, the waiting lanes (R370), P, and whether SHERR's fault was taken. -/
structure Limbo where
  frames  : Tab Nat
  rets    : Tab RetAt
  taken   : Bool
  asyncs  : List AsyncFault
  waiting : BitVec 32
  parked  : Bool
  prun    : Bool
  deriving DecidableEq, Repr

/-- Why lanes ask for granules (R201): a call with its target for each lane, or a refill of a frame. -/
inductive FReqKind where
  | call (demand : Nat) (rpc : Pc) (caller : Nat) (targets : Tab Pc)
  | refill (frame : Nat)
  deriving DecidableEq, Repr

/-- A frame request (R201): its warp slot, its lanes, since when it has waited, and where the CALL or RET stands for the
trap record (R207). -/
structure FReq where
  wk    : Nat
  lanes : BitVec 32
  kind  : FReqKind
  since : Nat
  hdr   : Pc
  idx   : Nat
  opc   : BitVec 10
  fid   : Nat
  deriving DecidableEq, Repr

/-- Where a team stands with the placement engine (R389–R397). -/
inductive TeamPhase where
  | running
  | quiescing
  /-- chosen to drain; the count since when (R392) -/
  | draining (since : Nat)
  /-- chosen for flush-and-restart: the core waits for its engines (R393) -/
  | flushing
  /-- chosen for save: the core waits (R394) -/
  | saving
  | saved
  deriving DecidableEq, Repr

/-- A team (R61, R73, R74, R297–R299, R307, R391, R399). `reqs` and `limbo` are what a save keeps beside its area (R206,
R394). -/
structure Team where
  handle  : BitVec 32
  grid    : BitVec 32
  index   : BitVec 32
  realm   : Nat
  wld     : Bool
  pri     : Nat
  depth   : Nat
  core    : Nat
  basep   : Nat
  wpt     : Nat
  scrk    : Nat
  ntiles  : Nat
  nshed   : Nat
  gfmax   : Nat
  imp     : Bool
  escaped : Bool
  tmask   : BitVec 7
  tot     : BitVec 32
  done    : BitVec 32
  rcc     : Word
  uiwarp  : BitVec 5
  uien    : Bool
  uiq     : List (BitVec 32 × BitVec 32)
  bphase  : BitVec 32
  barr    : Tab (BitVec 32)
  rings   : Tab Ring
  held    : List HeldArr
  layouts : Tab Layout
  seed    : Nat
  sbytes  : Tab Byte
  stags   : Tab Bool
  sblk    : Tab (Byte × Byte)
  tiles   : Tab (BitVec 32)
  arena   : Option PoolSlot
  bump    : Nat
  objs    : List ArenaObj
  views   : List (Nat × Nat)
  spill   : Option PoolSlot
  recs    : List (Nat × Nat)
  spoilt  : List Nat
  saves   : List SaveArea
  reqs    : List FReq
  limbo   : Tab Limbo
  kids    : Nat
  phase   : TeamPhase
  order   : Nat
  killed  : Bool
  lost    : List (Cause × Byte)
  /-- lines whose write-back at the team's retirement or save has failed, and been counted (R405) -/
  gaveUp  : List Nat := []
  deriving DecidableEq, Repr

/-- What a retired team has left in the storage of its core, until another team comes there (R412, log 95): the team as it retired, with
its scratchpad, tiles and ESCAPED, and its lanes, with their flags. -/
structure Relic where
  team  : Team
  lanes : Tab Lane
  deriving DecidableEq, Repr

/-! ### Engines of a core -/

/-- An amax ring (R57). -/
structure Amax where
  slots : List (BitVec 32)
  cnt   : Nat
  head  : Nat
  pend  : BitVec 32
  pv    : Bool
  deriving DecidableEq, Repr

/-- What a deferred producer will deliver (R141, R223, R230, R233, R262, R311). -/
inductive DeferKind where
  /-- LD and its sizes: access size in bytes, sign extension -/
  | load (size : Nat) (sx : Bool)
  /-- FLD or one lane's word of the register form of SGATH -/
  | far
  /-- HCALL: the host-call slot -/
  | host (slot : Nat)
  deriving DecidableEq, Repr

/-- A deferred result in flight: its producer's warp slot, lane and frame, its destination register, what it reads, the
shuttle ticket of the SGATH it belongs to, whether it was cancelled, and whether it reads the team's own spill slot (R205). `grp` names
the instruction in its warp's `landing` (R154). -/
structure Defer where
  id    : Nat
  wk    : Nat
  lane  : Nat
  frame : Nat
  reg   : Nat
  kind  : DeferKind
  realm : Nat
  obj   : Nat
  pub   : Bool
  addr  : Nat
  base  : Int
  cmd   : Option Nat
  dead  : Bool
  undef : Bool
  grp   : Nat := 0
  deriving DecidableEq, Repr

/-- The commands of the shuttle (R262–R267). -/
inductive ShCmd where
  | scpy | sgath | sscat | ssadd | sput | sfill | sqcp | sgathReg
  deriving DecidableEq, Repr

/-- Stage of a shuttle command (R252, R265, R302). -/
inductive ShStage where
  | moving | counting | finished | held
  deriving DecidableEq, Repr

/-- A shuttle command in the queue (R249–R252): its operands as read at issue, its layout records as they stood, the next
unit to perform, the flags raised, the largest magnitude met (SQCP), and an asynchronous fault that stopped it, with the reference and the
offset of its access in `faultAt` (R371). `lines` are the published lines written, `filled` the local addresses that an SFILL has filled
(R256), `psn` the lines of which a home has said that they are P (R258, log 83). -/
structure ShJob where
  id    : Nat
  core  : Nat
  wk    : Nat
  lane  : Nat
  team  : Nat
  cmd   : ShCmd
  src   : BitVec 2
  dst   : BitVec 2
  la    : Layout
  lb    : Layout
  a     : Val
  b     : Val
  c     : Val
  k     : Bool
  cv    : Bool
  ci    : Nat
  slot  : Nat
  phase : Bool
  bank  : Nat
  pos   : Nat
  flags : BitVec 7
  amax  : BitVec 32
  exp   : Int
  scale : Byte
  stage : ShStage
  fault : Option (Cause × Byte × Nat)
  left  : Nat
  tout  : Nat
  lines : List Nat
  filled : List Nat := []
  psn   : List Nat := []
  faultAt : Word × BitVec 40 := (0, 0)
  /-- how far the objects of the source and the destination reference start within those that hold their memory (R24) -/
  ssh   : Int
  dsh   : Int
  deriving DecidableEq, Repr

/-- A row of A captured at issue of an MMA (R276): its bytes and scale exponent; scale byte 0xFF makes it NaN. -/
structure ARow where
  bytes : List Byte
  nan   : Bool
  exp   : Int
  deriving DecidableEq, Repr

/-- The latch of a bank (R276). -/
structure Latch where
  own  : Option (Nat × BitVec 32)
  cls  : BitVec 2
  af   : BitVec 3
  rows : Tab ARow
  deriving DecidableEq, Repr

/-- An entry of a bank queue (R277, R281): MMA with its captured rows, or ACZ with its rows. -/
structure MxJob where
  id    : Nat
  wk    : Nat
  team  : Nat
  bank  : Nat
  tile  : Nat
  mma   : Bool
  cls   : BitVec 2
  af    : BitVec 3
  br    : BitVec 3
  ow    : Bool
  spb   : Nat
  spp   : Nat
  rows  : Tab ARow
  lanes : BitVec 32
  cv    : Bool
  ci    : Nat
  deriving DecidableEq, Repr

/-- Who asked for a walk and how its end is reported (R303, R308, R85). -/
inductive WalkFor where
  | pub (cv : Bool) (ci : Nat)
  | pubw
  /-- an escaping STREF of one lane (R308) -/
  | stref
  /-- an escaping element of a shuttle command -/
  | shuttle (id : Nat)
  /-- a launch (R85): its descriptor copy and predecessor references -/
  | launch (desc preds : List Word)
  deriving DecidableEq, Repr

/-- A publication walk (R303, R304): its scope, its team, its work list with the lane each entry carries, and the objects
visited; `refs` are the references that the lanes of a PUB have named (R371). -/
structure Walk where
  id      : Nat
  wk      : Nat
  lane    : Nat
  team    : Nat
  scope   : BitVec 2
  why     : WalkFor
  work    : List (Nat × Nat)
  visited : List Nat
  listed  : List Nat
  tout    : Nat
  ended   : Bool
  fault   : Option (Nat × Cause × Byte)
  refs    : Tab Word := []
  deriving DecidableEq, Repr

/-- A run of a core queue (R90); a saved team is a run of one that names its team key. -/
structure Run where
  grid   : BitVec 32
  pri    : Nat
  aff    : Nat
  first  : Nat
  n      : Nat
  stride : Nat
  saved  : Option Nat
  deriving DecidableEq, Repr

/-- A host call outstanding on a slot (R310, R311). -/
structure HCall where
  seq      : BitVec 32
  wk       : Nat
  lane     : Nat
  nb       : Option Nat
  defer    : Option Nat
  deadline : Nat
  since    : Nat
  deriving DecidableEq, Repr

/-- What pre-emption of a core is in progress (R389, R384): the team, and the head that asked for it (its grid and team
index); none if the supervisor core asked. -/
structure Preempt where
  team : Nat
  head : Option (Nat × Nat)
  deriving DecidableEq, Repr

/-- The core page (R382–R384). -/
structure CorePage where
  pend   : Word := 0
  okind  : Bool := false
  orealm : BitVec 12 := 0
  oobj   : BitVec 24 := 0
  cpaddr : Option Nat := none
  cpres  : BitVec 2 := 0
  mcsrc  : BitVec 51 := 0
  mcdst  : BitVec 51 := 0
  mclen  : BitVec 32 := 0
  mcbusy : Bool := false
  mcpos  : Nat := 0
  mcres  : BitVec 2 := 0
  prteam : BitVec 32 := 0
  prbusy : Bool := false
  prres  : BitVec 3 := 0
  deriving DecidableEq, Repr

/-- A drain or release of an object that a core has received and not acknowledged (R29). -/
structure OInv where
  src     : Nat
  realm   : Nat
  obj     : Nat
  release : Bool
  deriving DecidableEq, Repr

/-- One core. `ofrees` holds the lanes whose OFREE waits for the acknowledgements of R239, with the object freed. -/
structure Core where
  ocbase  : Word
  world   : BitVec 2
  offline : Bool
  dying   : Bool
  cycle   : Word
  oc      : List OcEntry
  l1t     : List L1tEntry
  l1      : List L1Line
  ic      : List ICLine
  pools   : Tab (List Nat)
  noNum   : List Nat
  amax    : Tab Amax
  amaxBy  : Tab Nat
  shq     : List ShJob
  mxq     : Tab (List MxJob)
  latch   : Tab Latch
  walks   : List Walk
  queue   : List Run
  xsh     : BitVec 32
  tries   : Nat
  asleep  : Bool
  asked   : Option Nat
  answer  : Option (Option Run)
  lastAdm : Option Nat
  preempt : Option Preempt
  skip    : List (Nat × (Nat × Nat) × Nat)
  page    : CorePage
  oinv    : List OInv
  migOff  : List (Nat × Nat)
  hseq    : Tab (BitVec 32)
  hcalls  : Tab HCall
  ofrees  : Tab Nat
  tdef    : BitVec 20
  errs    : List Nat
  deriving DecidableEq, Repr

/-- What a doffer is doing (R204): writing a frame to an offset of its team's slot, or bringing a frame back from where it
was, for a request. -/
inductive DofferJob where
  | spill (frame off : Nat)
  | refill (r : FReq) (src : FrameLoc)
  deriving DecidableEq, Repr

/-- One partition: its frame request queue and its doffer (R201, R204). Free granules are counted from its frames. -/
structure Part where
  reqs  : List FReq
  awake : Bool
  busy  : Option DofferJob
  deriving DecidableEq, Repr

/-! ### Datre -/

/-- Requests of the Datre protocol that an agent sends (R334). -/
inductive DReq where
  | rds | rdx | upg | wrfull | rdu (w : Bool) | rdnc | clrp
  /-- RdX of the block copy of R383, to which no selvedge check applies -/
  | copyx
  deriving DecidableEq, Repr

/-- Bytes of a line that have been written, with the tags of its words and the metadata of its blocks that go with them. -/
structure Patch where
  mask  : BitVec 128
  words : BitVec 16
  blks  : BitVec 2
  data  : LineData
  deriving DecidableEq, Repr

/-- Who waits for a Datre response. -/
inductive Waiter where
  | lane (wk l : Nat)
  | defer (id : Nat)
  | shuttle (id : Nat)
  | walk (id : Nat)
  | disp (grid : BitVec 32)
  | core (core : Nat)
  | fetch (wk : Nat)
  deriving DecidableEq, Repr

/-- An outstanding request for a line (R346): its kind, the cores that have asked, its waiters with their deadlines in µs, and,
for a WrFull that its line's former owner has answered, that answer, whose metadata the Grant takes (log 76). `inv` says that what the
package had of the line, or is granted of it by another request, has been invalidated or written since this one was sent, and `gone`
that a forward of another agent's request has met no copy since: a Data S, or a Data E, that they have overtaken is stale (log 91). `newer`
are the bytes of a private line that the package has written home since it asked to read the line (R217). -/
structure Req where
  id      : Nat
  kind    : DReq
  line    : Nat
  cores   : List Nat
  waiters : List (Waiter × Nat)
  given   : Option LineData
  inv     : Bool := false
  gone    : Bool := false
  newer   : List Patch := []
  deriving DecidableEq, Repr

/-- A failure that its waiter has still to take (R225, R346). -/
structure Fail where
  who  : Waiter
  line : Nat
  why  : RemoteFail
  deriving DecidableEq, Repr

/-- Acknowledgements owed for the writes of a line (R339): the line, the cores that have written it since, the count still owed
(negative while InvAcks have come before their AC), the holders known to owe them (those that this package as the home has
invalidated itself), how many of the count are DirtyAcks, its deadline, and the releases and walks that wait for it (R340). -/
structure Acks where
  line     : Nat
  cores    : List Nat
  count    : Int
  owe      : List Nat
  dirties  : Nat
  deadline : Nat
  waiters  : List Waiter
  deriving DecidableEq, Repr

/-- The package's copy of a line homed elsewhere (R337). -/
structure Copy where
  st   : LineState
  data : LineData
  deriving DecidableEq, Repr

/-- What the package holds until the count of a line is 0 (R322, R339, R364): a forward; a request for a line that it has itself
written as the home; the completion of a host write, with the lines of it still to be looked at. -/
inductive Fwd where
  | fwds (req : Nat)
  | fwdx (req ac : Nat)
  | wbreq (inval : Bool)
  | home (i : Instr)
  | hostDone (addr : Nat) (lines : List Nat)
  deriving DecidableEq, Repr

/-- A 64-byte half of a line homed at a host agent (R344); `bad` says that its written bytes are lost (R440). -/
structure Half where
  st    : LineState
  bytes : List Byte
  bad   : Bool := false
  deriving DecidableEq, Repr

/-- The answer to an untracked or non-caching read on its way to who asked (R217, R230), and whether the read carried write
intent. -/
structure Transit where
  who  : Waiter
  line : Nat
  w    : Bool
  data : LineData
  deriving DecidableEq, Repr

/-- A write-back that waits for WbAck (R338). -/
structure WbEntry where
  line  : Nat
  data  : LineData
  given : Bool
  deriving DecidableEq, Repr

/-- A home transaction that waits for answers (R333, R335, R343): what it serves when they have come. -/
inductive HomeWait where
  /-- a remote request that waits for FwdAck, WbReq data or recall acknowledgements -/
  | request (i : Instr)
  /-- the package's own read of a line that a remote owner holds (R421) -/
  | own
  /-- a write by a party of the home itself (R421): every holder's copy goes, but for that of the host whose write it is (R364) -/
  | taken (keep : Option Nat)
  /-- a recalled victim of a full set (R333), a line taken back from the host (R345), a migration copy (R383) -/
  | recall
  /-- a line of which the owner alone is recalled (R343) -/
  | unown
  /-- a request that waits until a line of its full set has been recalled (R333) -/
  | room (victim : Nat)
  deriving DecidableEq, Repr

/-- A line busy at the home, with the holders that still owe the home an acknowledgement and whether a FwdAck or write-back is
owed, and what to serve then; then the requests that wait behind it; `missed` says that the owner has answered that it has no copy, or
has died (R350). -/
structure HomeTx where
  line  : Nat
  what  : HomeWait
  owe   : List Nat
  reply : Bool
  queue : List Instr
  missed : Bool := false
  deriving DecidableEq, Repr

/-- A remote-holder entry (R332): pointer form with owner slot, or coarse form. -/
inductive Holder where
  | ptrs (tag : Nat) (owner : Option Nat) (drt : Bool) (ptrs : List Nat)
  | coarse (tag : Nat) (vec : BitVec 34)
  deriving DecidableEq, Repr

/-- Packets to other agents and writes to the host (R334, R366, R310). -/
inductive Packet where
  | req (kind : DReq) (line : Nat) (home cell : Nat)
  | wbu (line cell : Nat) (mask : BitVec 128) (md : BitVec 2) (data : LineData)
  | evs (line cell : Nat)
  | wbm (line cell : Nat) (data : LineData)
  | dirty (line cell : Nat)
  | inv (line dst collector : Nat)
  | fwds (line dst req : Nat)
  | fwdx (line dst req ac : Nat)
  | wbreq (line dst : Nat) (inval : Bool)
  | data (line dst : Nat) (st : LineState) (ac : Nat) (d : LineData)
  | word (addr dst : Nat) (v : Val)
  | grant (line dst ac : Nat) (md : List (Byte × Byte))
  | invack (line dst : Nat)
  | fwdack (line dst : Nat) (dirty : Bool) (d : LineData)
  | fwddata (line dst : Nat) (st : LineState) (ac : Nat) (d : LineData)
  | wback (line dst : Nat)
  | dirtyack (line dst : Nat)
  | miss (line dst : Nat)
  | refuse (line dst : Nat)
  | poison (line dst : Nat)
  | heartbeat (port : Nat)
  | death (agents : List Nat)
  | marked (line dst : Nat)
  | backInval (line host : Nat)
  | hostRead (half : Nat) (own : Bool)
  | hostEvict (half : Nat) (bytes : List Byte)
  | hostSnoopResp (half : Nat) (st : LineState) (bytes : List Byte)
  | hostMemData (addr : Nat) (bytes : List Byte) (poison : Bool)
  | hostMemDone (addr : Nat) (error : Bool)
  | irq (addr : Word) (data : BitVec 32)
  | submit (page : Nat) (accept : Bool)
  | submitUR (page : Nat)
  | report (dws : List Word)
  | tdispError
  | ocposan (what : String)
  | supLoad (core : Nat) (bytes : List Byte)
  | supReg (core : Nat) (v : Word)
  | forwarded (src dst : Nat) (via : Option Nat) (port chan : Nat) (mark : Bool)
  deriving DecidableEq, Repr

/-! ### Dispatcher -/

/-- A submission page (R76). -/
structure Page where
  en     : Bool
  badw   : Bool
  taken  : BitVec 32
  lrseq  : BitVec 32
  lrcode : Byte
  prealm : Nat
  pwld   : Bool
  recs   : List (List Word)
  deriving DecidableEq, Repr

/-- A pool of a grid (R66): the object that holds it, where its slots start, and how many there are. -/
structure Pool where
  obj : Nat
  off : Nat
  n   : Nat
  deriving DecidableEq, Repr

/-- A pending grid (R82): the descriptor copy, how it came, its place in the order of acceptances and instruction fetches (R104), its predecessors, its count, the cycle in which it became ready
(R89), what its teams have reported, and which slots of its pools are taken; `spent` are the arena slots that retired teams have held (R414). `code` is a rejection after acceptance. -/
structure Grid where
  desc    : List Word
  num     : BitVec 32
  host    : Bool
  cookie  : Word
  uint    : Bool
  uiaddr  : Word
  uidata  : BitVec 32
  parent  : Option Nat
  depth   : Nat
  preds   : List (Word × Bool)
  count   : Option Nat
  stamp   : Nat
  ready   : Option Nat
  dealt   : Bool
  retired : Nat
  nkill   : Nat
  nflt    : Nat
  first   : Option (BitVec 4 × Byte × BitVec 32)
  spill   : Pool
  arena   : Pool
  spillU  : List Nat
  arenaU  : List Nat
  spent   : List Nat
  code    : Option Byte
  deriving DecidableEq, Repr

/-! ### Package -/

/-- Firmware states (R434). -/
inductive FwState where
  | waitImage | verify | init | ready | failed
  deriving DecidableEq, Repr

/-- TDISP interface states (R439). -/
inductive Tdisp where
  | unlocked | locked | run | error
  deriving DecidableEq, Repr

/-- An entry of the rate limiter (R358): the rate, in 65,536ths of one port's; when the last mark and the last increase came, in µs;
and how much the target's requests may send now, in 65,536ths of a port's µs. -/
structure Rate where
  rate   : Nat
  marked : Nat
  raised : Nat
  credit : Nat
  deriving DecidableEq, Repr

/-- Registers and bookkeeping of the package that belong to no core; `heldReq` holds the requests that the limiter keeps back, `marks` the
agents whose request came marked and has still to be answered, `fmarks` the homes whose forward did (R358), `seen` the cell ids that
requests have carried (R329); `desig` the designated neighbours of dead agents (R360), `stopping` that a STOP_INTERFACE_REQUEST is under way (R439), `scanning` that the recovery engine has still to
report (R349); `selWas` the cell sets that a page has named before a change that is not complete yet (R343); `corrT` holds the times of the latest corrected errors, newest first (R329, R356–R366, R395, R401, R434–R443). -/
structure Pkg where
  agent   : Nat
  cell    : List Nat
  host    : Option Nat
  fenced  : List Nat
  power   : Bool
  fwlen   : BitVec 13
  fwst    : FwState
  fwcode  : Byte
  image   : Tab Byte
  svn     : Byte
  farGiB  : Nat
  secBase : Nat
  secLim  : Nat
  tdisp   : Tdisp
  bars    : Tab Word
  repl    : Bool
  stk     : Byte
  corr    : BitVec 32
  unc     : BitVec 32
  corrT   : List Nat
  div     : BitVec 4
  limit   : BitVec 16
  stopped : Bool
  fmark   : BitVec 48
  minsh   : BitVec 4
  incp    : Byte
  rates   : Tab Rate
  heldReq : List (Nat × Packet)
  marks   : List Nat
  fmarks  : List Nat
  seen    : Tab Nat
  desig   : Tab Nat
  scanning : Bool
  stopping : Bool
  selWas  : Tab (List (BitVec 8))
  tdef    : BitVec 20
  herrW   : BitVec 32
  herrI   : BitVec 32
  keptH   : List Nat
  hcv     : Bool
  hcbase  : BitVec 29
  svv     : Bool
  svunits : BitVec 16
  svbase  : BitVec 24
  svused  : List SaveArea
  uidrop  : BitVec 32
  routes  : Tab Word
  deriving DecidableEq, Repr

/-- One fabric port (R354, R355, R359). `peer` is the neighbour that it has last trained with; `depth` is the flits in each channel queue: class · 8 + channel, where channels 0 and 1 are
adaptive and 2 + h is escape sub-channel h. -/
structure Port where
  wcap  : BitVec 2
  rtrn  : Bool
  peer  : Option Nat
  tlv   : Nat
  width : BitVec 2
  hbl   : Bool
  up    : Bool
  heard : Nat
  sent  : Nat
  bad   : Nat
  depth : Tab Nat
  deriving DecidableEq, Repr

/-- What the environment and the engines do next (log 2): a row of the table that is a step of an engine, of the host or
of the fabric; the issue of the next instruction of a bundle; or time that passes (cycles of every core, µs). `evict`
drops one L1 line, `shuttleUnit` performs one unit of one command, `dropCopy` drops one copy of a remote line, `rebooted` says that a
fenced agent has booted again (R348). The last four the package asks of itself: its own answers for a dead agent, InvAck and Miss (R360);
a line that has found no room (R2); and whether the change of a selvedge page is complete (R343). -/
inductive Action where
  | event (i : Instr)
  | issue (wk path : Nat)
  | tick (cycles us : Nat)
  | evict (core idx : Nat)
  | dropCopy (line : Nat)
  | shuttleUnit (id : Nat)
  | rebooted (agent : Nat)
  | ackHere (line : Nat)
  | missHere (line : Nat)
  | dataHere (line : Nat) (st : LineState) (ac : Nat) (dat : LineData)
  | pageHere (page : Nat)
  deriving DecidableEq, Repr

/-- The machine. `fills` are the Grants, line and AC, that wait for the metadata that the former owner's answer brings (log 76); `stalls`
are the lanes, as warp and lane, that the instruction that is being issued has found BLOCKED (R132, R390, R402). -/
structure State where
  pkg    : Pkg
  ports  : Tab Port
  hbm    : Mem
  rht    : Tab (List (Option Holder))
  selPg  : Tab Byte
  selSet : Tab (List Nat)
  homeTx : List HomeTx
  copies : Tab Copy
  halves : Tab Half
  transit : List Transit
  biPend : List (Nat × Nat)
  wbuf   : List WbEntry
  reqs   : List Req
  fails  : List Fail
  acks   : List Acks
  fwds   : List (Nat × Fwd)
  fills  : List (Nat × Nat)
  ext    : Tab (List ExtEntry)
  out    : List Packet
  cores  : Tab Core
  parts  : Tab Part
  warps  : Tab Warp
  lanes  : Tab Lane
  frames : Tab Frame
  teams  : Tab Team
  ended  : List Relic
  defers : List Defer
  pages  : Tab Page
  grids  : Tab Grid
  back   : List (Nat × Run)
  agenda : List Action
  iq     : List (Nat × Nat)
  cur    : Option (Nat × Nat)
  stalls : List (Nat × Nat)
  epoch  : Nat
  fresh  : Nat
  uid    : Nat
  usec   : Nat
  turn   : Nat
  deriving DecidableEq, Repr

/-- A port before training (R354). -/
def Port.reset : Port :=
  { wcap := 3, rtrn := false, peer := none, tlv := 0, width := 0, hbl := false, up := false, heard := 0, sent := 0
    bad := 0, depth := [] }

/-- A core at power-on: OCBASE 0 (R15), generator seeded with the core number plus 1 (R95), TDEF 4,000 (R361), host-call
sequence 1 (R310). -/
def Core.reset (n : Nat) : Core :=
  { ocbase := 0, world := 0, offline := false, dying := false, cycle := 0, oc := [], l1t := [], l1 := [], ic := []
    pools := [], noNum := [], amax := [], amaxBy := [], shq := [], mxq := [], latch := [], walks := [], queue := []
    xsh := BitVec.ofNat 32 (n + 1), tries := 0, asleep := true, asked := none, answer := none, lastAdm := none
    preempt := none, skip := [], page := {}, oinv := [], migOff := [], hseq := [], hcalls := [], ofrees := [], tdef := 4000
    errs := [] }

/-- A partition with nothing resident. -/
def Part.reset : Part := { reqs := [], awake := false, busy := none }

/-- A submission page before it is bound (R76). -/
def Page.reset : Page :=
  { en := false, badw := false, taken := 0, lrseq := 0, lrcode := 0, prealm := 0, pwld := false, recs := [] }

/-- Package registers at power-on. -/
def Pkg.reset : Pkg :=
  { agent := 0, cell := [0], host := none, fenced := [], power := false, fwlen := 0, fwst := .waitImage, fwcode := 0, image := []
    svn := 0, farGiB := 8, secBase := 0, secLim := 0, tdisp := .unlocked, bars := [], repl := false, stk := 0
    corr := 0, unc := 0, corrT := [], div := 0, limit := 2400, stopped := false
    fmark := 64#48 <<< 32 ||| 64#48 <<< 16 ||| 64#48, minsh := 6, incp := 5, rates := [], heldReq := [], marks := [], fmarks := [], seen := [], desig := [], scanning := false, stopping := false
    selWas := [], tdef := 4000, herrW := 0, herrI := 0, keptH := []
    hcv := false, hcbase := 0, svv := false, svunits := 0, svbase := 0, svused := [], uidrop := 0, routes := [] }

/-- The machine right after reset (R434 step 1): power-on, nothing resident, memory cleared. -/
def State.reset : State :=
  { pkg := Pkg.reset, ports := [], hbm := {}, rht := [], selPg := [], selSet := [], homeTx := [], copies := []
    halves := [], transit := [], biPend := [], wbuf := [], reqs := [], fails := [], acks := [], fwds := [], fills := [], ext := [], out := []
    cores := [], parts := [], warps := [], lanes := [], frames := [], teams := [], ended := [], defers := [], pages := []
    grids := [], back := [], agenda := [], iq := [], cur := none, stalls := [], epoch := 0, fresh := 0, uid := 1, usec := 0
    turn := 0 }

/-- Why the machine stops with a fault. -/
inductive Fault where
  /-- Raised by the shared skeleton of the instruction words when no bundle is being issued: an instruction was asked for
  outside any warp. SAFE: the hardware issues no such instruction. -/
  | noOpenBundle
  deriving DecidableEq, Repr

/-- Why there is no meaning for an instruction. -/
inductive Refusal where
  /-- Raised by an arm of `exec` whose instruction has no meaning in the model yet. SAFE. -/
  | notModelled (mnemonic : String)
  deriving DecidableEq, Repr

end Sys2Proof.Machine
end

