-- ==== Sys2Proof/Machine/Table.lean ====
section
/-! DEFINITION. Operations of sparse tables, and the bit-field, sign-extension and byte-order helpers of the model. -/

namespace Sys2Proof.Machine

variable {α : Type}

/-- The entry of a key. -/
def tfind : Tab α → Nat → Option α
  | [], _ => none
  | (j, v) :: r, k => if j = k then some v else tfind r k

/-- The entry of a key, or a default. -/
def tget (t : Tab α) (k : Nat) (d : α) : α := (tfind t k).getD d

/-- Enter a value under a key, keeping keys rising. -/
def tset : Tab α → Nat → α → Tab α
  | [], k, v => [(k, v)]
  | (j, w) :: r, k, v =>
    if k < j then (k, v) :: (j, w) :: r
    else if k = j then (k, v) :: r
    else (j, w) :: tset r k v

/-- Remove a key. -/
def tdel (t : Tab α) (k : Nat) : Tab α := t.filter fun e => e.1 != k

/-- Enter a value in a table whose unlisted keys read as `d`: writing `d` removes the entry. -/
def tput [DecidableEq α] (t : Tab α) (k : Nat) (v d : α) : Tab α := if v = d then tdel t k else tset t k v

/-- The form of a table whose unlisted keys read as `d`: keys strictly rising, no entry equal to `d`. -/
def tabWf [DecidableEq α] (d : α) : Tab α → Bool
  | [] => true
  | [(_, v)] => v != d
  | (j, v) :: (k, w) :: r => v != d && j < k && tabWf d ((k, w) :: r)

/-- `f` applied to the entry of a key, if there is one. -/
def tmod (t : Tab α) (k : Nat) (f : α → α) : Tab α := t.map fun e => if e.1 = k then (e.1, f e.2) else e

/-- Fold a state through a list, in order. -/
def foldS {σ : Type} (l : List α) (s : σ) (f : σ → α → σ) : σ := l.foldl f s

/-- The numbers below n, rising. -/
def upto (n : Nat) : List Nat := List.range n

/-- Bit n of a mask. -/
def bitOf {w : Nat} (m : BitVec w) (n : Nat) : Bool := m.getLsbD n

/-- The lanes of a mask, rising (R132). -/
def lanesOf (m : BitVec 32) : List Nat := (upto 32).filter fun l => m.getLsbD l

/-- The mask of a list of lanes. -/
def maskOf (ls : List Nat) : BitVec 32 := ls.foldl (fun m l => m ||| (1#32 <<< l)) 0

/-- A mask with one lane removed. -/
def dropLane (m : BitVec 32) (l : Nat) : BitVec 32 := m &&& ~~~(1#32 <<< l)

/-- Bits [hi:lo] of a word as a number. -/
def bits {w : Nat} (x : BitVec w) (hi lo : Nat) : Nat := x.toNat >>> lo % 2 ^ (hi + 1 - lo)

/-- A word with bits [lo+n-1:lo] replaced. -/
def setBits {w : Nat} (x : BitVec w) (lo n v : Nat) : BitVec w :=
  (x &&& ~~~(BitVec.ofNat w ((2 ^ n - 1) <<< lo))) ||| BitVec.ofNat w ((v % 2 ^ n) <<< lo)

/-- A Boolean as a bit. -/
def b2n (b : Bool) : Nat := if b then 1 else 0

/-- The n low bytes of a number, little-endian (R5). -/
def bytesLE : Nat → Nat → List Byte
  | 0, _ => []
  | n + 1, x => BitVec.ofNat 8 x :: bytesLE n (x / 256)

/-- The number that little-endian bytes hold (R5). -/
def ofBytes : List Byte → Nat
  | [] => 0
  | b :: r => b.toNat + 256 * ofBytes r

/-- A list with its n-th element replaced. -/
def lset (l : List α) (n : Nat) (v : α) : List α := l.set n v

/-- Split into pieces of n elements (at most `fuel` pieces). -/
def chunks (n : Nat) : Nat → List α → List (List α)
  | 0, _ => []
  | f + 1, l => if l.isEmpty then [] else l.take n :: chunks n f (l.drop n)

/-- The first n elements satisfying p removed from a list: its first such element only. -/
def dropFirst (p : α → Bool) : List α → List α
  | [] => []
  | a :: r => if p a then r else a :: dropFirst p r

/-- The smallest number from `lo` up (at most `fuel` tried) that is not in a list. -/
def freshFrom (used : List Nat) : Nat → Nat → Nat
  | 0, lo => lo
  | f + 1, lo => if used.contains lo then freshFrom used f (lo + 1) else lo

/-- Round up to a multiple. -/
def roundUp (x m : Nat) : Nat := (x + m - 1) / m * m

/-! ### PCs -/

/-- A PC as it stands in a register or a record: object in [63:40], offset in [39:0] (R371). -/
def Pc.word (p : Pc) : Word := p.obj ++ p.off

/-- The PC that a word names. -/
def pcOf (w : Word) : Pc := ⟨w.extractLsb' 40 24, w.extractLsb' 0 40⟩

/-- Move a PC by bytes within its object (offsets below 2^40). -/
def Pc.add (p : Pc) (n : Nat) : Pc := ⟨p.obj, p.off + BitVec.ofNat 40 n⟩

/-- The order of PCs: by object, then by offset (R132). -/
def Pc.lt (a b : Pc) : Bool := a.obj < b.obj || (a.obj == b.obj && a.off < b.off)

/-- The address of the instruction at position i of the clause at a header (R102, R119). -/
def Pc.instr (hdr : Pc) (i : Nat) : Pc := hdr.add (8 + 8 * i)

/-! ### References -/

/-- Object number of a reference (R9). -/
def objOf (w : Word) : Nat := (w.extractLsb' 40 24).toNat

/-- Offset of a reference (R9). -/
def offOf (w : Word) : Nat := (w.extractLsb' 0 40).toNat

/-- The reference to a byte of an object (R9). -/
def refOf (obj off : Nat) : Word := BitVec.ofNat 24 obj ++ BitVec.ofNat 40 off

/-! ### Causes -/

/-- Number of a cause (R367). -/
def Cause.num : Cause → Nat
  | .illegal => 0 | .operand => 1 | .memory => 2 | .escape => 3 | .arith => 4 | .frame => 5 | .remote => 6
  | .deferred => 7 | .software => 8 | .userint => 9 | .debug => 10

/-- A cause as the 4 bits of a record. -/
def Cause.code (c : Cause) : BitVec 4 := BitVec.ofNat 4 c.num

/-- Whether a cause routes to park (R367). -/
def Cause.parks : Cause → Bool
  | .memory | .frame | .remote => true
  | _ => false

/-- Sub-cause of REMOTE (R367). -/
def RemoteFail.sub : RemoteFail → Byte
  | .firewall => 1 | .poison => 2 | .timeout => 3

/-- The fault note of a cancelled producer (R144). -/
def faultNote (c : Cause) (sub : Byte) : BitVec 32 := 0#16 ++ sub ++ 0#4 ++ c.code

end Sys2Proof.Machine
end

