-- ==== Sys2Proof/Machine/Signature.lean ====
section
/-! DEFINITION. How each instruction word uses its fields: its opcode, class and operands (R117–R123, R126 and the
encoding tables R174, R196, R215, R243, R269, R288, R313, R388), and from them the static encoding checks RESERVED, DEST
and OPERAND of R124. -/

namespace Sys2Proof.Machine

/-- Clause classes (R105). -/
inductive Cls where
  | any | ctrl | vec | mem | mtx | sht | sync
  deriving DecidableEq, Repr

/-- How a source operand is read (R120, R121, R220): 32 bits; 64 bits; a 64-bit container; the same or %zero; by the
offset rule; four registers from f n; eight or sixteen registers from f n. -/
inductive SrcW where
  | r32 | r64 | c64 | c64z | off | quad | blk8 | blk16
  deriving DecidableEq, Repr

/-- How a destination is written: 32 bits; 64 bits; the I32 rule of R161; a deferred result of 32, 64 or 128 bits (R141,
R223); SPLD.128 (R231); eight registers from f n (R283). -/
inductive DstW where
  | r32 | r64 | i32 | def32 | def64 | defQ | quad | blk8
  deriving DecidableEq, Repr

/-- What an operand field holds. -/
inductive Opnd where
  /-- reserved: must be zero -/
  | none
  /-- an immediate of its own, checked with the instruction -/
  | imm
  | src (w : SrcW)
  | dst (w : DstW)
  /-- a predicate number in the low nibble, the high nibble zero (R166, R170) -/
  | pred
  /-- an amax ring number in the low six bits (R193) -/
  | ring6
  /-- a layout record number in the low nibble (R245) -/
  | lo4
  /-- a shed ring number in the low three bits (R300) -/
  | ring3
  /-- a threshold in the low five bits (R295) -/
  | thr5
  /-- the value of SFILL: its width is known from the layout record only (R266) -/
  | fill
  deriving DecidableEq, Repr

/-- The fields of a word in one view: operand codes D, A, B, C, NQ, the BT bits of A, B, C (M format: the BT bit of D
stands in the last place), MOD, and whether the guard's reserved bits are as they must be. -/
structure Fields where
  guard : Guard
  d     : Byte
  a     : Byte
  b     : Byte
  c     : Byte
  nq    : Bool
  btA   : Bool
  btB   : Bool
  btC   : Bool
  btD   : Bool
  md    : BitVec 12
  deriving DecidableEq, Repr

/-- The signature of an instruction word. -/
structure Sig where
  opc  : BitVec 10
  cls  : Cls
  term : Bool
  priv : Bool
  d    : Opnd
  a    : Opnd
  b    : Opnd
  c    : Opnd
  mask : BitVec 12
  fs   : Fields
  deriving DecidableEq, Repr

def baseFields (f : BaseF) : Fields :=
  ⟨f.guard, f.d, f.a, f.b, f.c, f.nq, f.bt.getLsbD 2, f.bt.getLsbD 1, f.bt.getLsbD 0, false, f.md⟩
def immFields (f : ImmF) : Fields := ⟨f.guard, f.d, f.a, 0, 0, false, false, false, false, false, 0⟩
/-- JD stands in the place of D; the offset is no operand. -/
def jumpFields (f : JumpF) : Fields := ⟨f.guard, f.jd, f.a, 0, 0, false, false, false, false, false, 0⟩
def memFields (f : MemF) : Fields :=
  ⟨f.guard, f.d, f.a, f.b, 0, f.nq, f.bt.getLsbD 2, f.bt.getLsbD 1, false, f.bt.getLsbD 0, 0⟩
/-- TD is a handle and stands in no operand place; S stands in the place of B. -/
def mxFields (f : MxF) : Fields :=
  ⟨f.guard, 0, f.a, f.sb, 0, false, f.bt.getLsbD 1, f.bt.getLsbD 0, false, false, f.md⟩
def shFields (f : ShF) : Fields :=
  ⟨f.guard, f.d, f.a, f.b, f.c, false, f.bt.getLsbD 2, f.bt.getLsbD 1, f.bt.getLsbD 0, false, 0⟩
def syFields (f : SyF) : Fields :=
  ⟨f.guard, f.d, f.a, f.b, f.c, f.nq, f.bt.getLsbD 2, f.bt.getLsbD 1, f.bt.getLsbD 0, false, 0⟩

/-- A destination of the width that W selects (R155). -/
def dstW (w : Bool) : Opnd := .dst (if w then .r64 else .r32)
/-- A source of the width that W selects (R156). -/
def srcW (w : Bool) : Opnd := .src (if w then .r64 else .r32)
/-- A source of the width that W selects, a 64-bit container when 64 bits wide (R213, R291, R296). -/
def srcC (w : Bool) : Opnd := .src (if w then .c64 else .r32)
/-- A of ADDI: 64 bits when D is a q or g code (R161). -/
def addiSrc (f : ImmF) : Opnd := .src (if f.d.toNat < 0x40 then .r64 else .r32)
/-- The source and the destination of CVT: 64 bits for FP64 and INT64 (R186). -/
def cvtSrc (f : BaseF) : Opnd := let t := bits f.md 3 0; .src (if t = 3 ∨ t = 10 then .r64 else .r32)
def cvtDst (f : BaseF) : Opnd := let t := bits f.md 7 4; .dst (if t = 3 ∨ t = 10 then .r64 else .r32)
/-- The source and the destination of FRND: 64 bits with TY 11 (R188). -/
def rndSrc (f : BaseF) : Opnd := .src (if bits f.md 1 0 = 3 then .c64 else .r32)
def rndDst (f : BaseF) : Opnd := dstW (bits f.md 1 0 = 3)
/-- C of QNT: a ring, or with FIX a source (R190). -/
def qntC (f : BaseF) : Opnd := if f.md.getLsbD 7 then .src .r32 else .ring6
/-- Destination of LD by size (R223). -/
def ldDst (f : MemF) : Opnd := .dst (if f.sz = 3 then .def64 else if f.sz = 4 then .defQ else .def32)
/-- Data of ST and SPST by size (R224). -/
def stSrc (f : MemF) : Opnd := .src (if f.sz = 3 then .c64 else if f.sz = 4 then .quad else .r32)
/-- Destination of SPLD by size (R231). -/
def spldDst (f : MemF) : Opnd := .dst (if f.sz = 3 then .r64 else if f.sz = 4 then .quad else .r32)
/-- Destination of RINFO: 64 bits for .len and .off (R241). -/
def rinfoDst (f : BaseF) : Opnd := dstW (bits f.md 2 0 = 0 ∨ bits f.md 2 0 = 5)
/-- B of ATOM: an offset, or the compare value of CAS (R291). -/
def atomB (f : SyF) : Opnd := if bits f.sub 2 0 = 7 then srcC (f.sub.getLsbD 3) else .src .off
/-- The register block A of an MX instruction (R273, R283). -/
def mxBlock (f : MxF) : Opnd := .src (if bits f.md 7 6 = 2 then .blk16 else .blk8)
/-- S of MMA: not read with SU (R273). -/
def mmaS (f : MxF) : Opnd := if f.md.getLsbD 9 then .none else .src .r32
/-- S of ACRD.Q: a ring, or with FIX a source (R286). -/
def acrdqS (f : MxF) : Opnd := if f.md.getLsbD 4 then .src .r32 else .ring6
/-- D of a shuttle command: the slot value with K 1 (R249). -/
def shSlot (f : ShF) : Opnd := if f.k then .src .r32 else .none
/-- A tile handle of a shuttle command, present when its side is .acc (R263). -/
def shTile (p : Bool) : Opnd := if p then .src .r32 else .none
/-- A of LYSET: an image reference, or with SP a scratchpad offset (R245). -/
def lysetA (f : BaseF) : Opnd := .src (if f.md.getLsbD 0 then .r32 else .c64)

/-- Width of a control register (R375): `none` for a reserved number. -/
def crnWidth (n : Nat) : Option Bool :=
  if n = 0 ∨ n = 1 ∨ n = 4 ∨ n = 0x20 ∨ n = 0x25 ∨ n = 0x26 ∨ n = 0x28 ∨ n = 0x31 then some false
  else if n = 2 ∨ n = 3 ∨ (8 ≤ n ∧ n ≤ 0x11) ∨ (0x21 ≤ n ∧ n ≤ 0x24) ∨ n = 0x27 ∨ n = 0x30 then some true
  else none
/-- Whether a warp may only read a control register (R375). -/
def crnRO (n : Nat) : Bool := (8 ≤ n && n ≤ 0x11) || n == 0x26
/-- D of SRD and A of SWR by the register's width (R376). -/
def srdDst (f : BaseF) : Opnd := dstW ((crnWidth (bits f.md 7 0)).getD false)
def swrSrc (f : BaseF) : Opnd := srcC ((crnWidth (bits f.md 7 0)).getD false)

/-- The signature of each instruction word; `none` for a step that has no word. -/
def sigOf : Instr → Option Sig
  | .mov f => some { opc := 0x000, cls := .any, term := false, priv := false, d := (dstW (f.md.getLsbD 0)), a := (srcW (f.md.getLsbD 0)), b := .none, c := .none, mask := 0x001, fs := baseFields f }
  | .movi f => some { opc := 0x001, cls := .any, term := false, priv := false, d := (.dst .i32), a := .none, b := .none, c := .none, mask := 0x000, fs := immFields f }
  | .movh f => some { opc := 0x002, cls := .any, term := false, priv := false, d := (.dst .r64), a := (.src .r32), b := .none, c := .none, mask := 0x000, fs := immFields f }
  | .sel f => some { opc := 0x003, cls := .any, term := false, priv := false, d := (dstW (f.md.getLsbD 0)), a := (srcW (f.md.getLsbD 0)), b := (srcW (f.md.getLsbD 0)), c := .none, mask := 0x1E1, fs := baseFields f }
  | .add f => some { opc := 0x004, cls := .any, term := false, priv := false, d := (dstW (f.md.getLsbD 0)), a := (srcW (f.md.getLsbD 0)), b := (srcW (f.md.getLsbD 0)), c := .none, mask := 0x001, fs := baseFields f }
  | .sub f => some { opc := 0x005, cls := .any, term := false, priv := false, d := (dstW (f.md.getLsbD 0)), a := (srcW (f.md.getLsbD 0)), b := (srcW (f.md.getLsbD 0)), c := .none, mask := 0x001, fs := baseFields f }
  | .mul f => some { opc := 0x006, cls := .any, term := false, priv := false, d := (dstW (f.md.getLsbD 0)), a := (srcW (f.md.getLsbD 0)), b := (srcW (f.md.getLsbD 0)), c := .none, mask := 0x001, fs := baseFields f }
  | .mulh f => some { opc := 0x007, cls := .any, term := false, priv := false, d := (dstW (f.md.getLsbD 0)), a := (srcW (f.md.getLsbD 0)), b := (srcW (f.md.getLsbD 0)), c := .none, mask := 0x001, fs := baseFields f }
  | .mulhu f => some { opc := 0x008, cls := .any, term := false, priv := false, d := (dstW (f.md.getLsbD 0)), a := (srcW (f.md.getLsbD 0)), b := (srcW (f.md.getLsbD 0)), c := .none, mask := 0x001, fs := baseFields f }
  | .mad f => some { opc := 0x009, cls := .any, term := false, priv := false, d := (dstW (f.md.getLsbD 0)), a := (srcW (f.md.getLsbD 0)), b := (srcW (f.md.getLsbD 0)), c := (srcW (f.md.getLsbD 0)), mask := 0x001, fs := baseFields f }
  | .div f => some { opc := 0x00A, cls := .any, term := false, priv := false, d := (dstW (f.md.getLsbD 0)), a := (srcW (f.md.getLsbD 0)), b := (srcW (f.md.getLsbD 0)), c := .none, mask := 0x001, fs := baseFields f }
  | .divu f => some { opc := 0x00B, cls := .any, term := false, priv := false, d := (dstW (f.md.getLsbD 0)), a := (srcW (f.md.getLsbD 0)), b := (srcW (f.md.getLsbD 0)), c := .none, mask := 0x001, fs := baseFields f }
  | .rem f => some { opc := 0x00C, cls := .any, term := false, priv := false, d := (dstW (f.md.getLsbD 0)), a := (srcW (f.md.getLsbD 0)), b := (srcW (f.md.getLsbD 0)), c := .none, mask := 0x001, fs := baseFields f }
  | .remu f => some { opc := 0x00D, cls := .any, term := false, priv := false, d := (dstW (f.md.getLsbD 0)), a := (srcW (f.md.getLsbD 0)), b := (srcW (f.md.getLsbD 0)), c := .none, mask := 0x001, fs := baseFields f }
  | .min f => some { opc := 0x00E, cls := .any, term := false, priv := false, d := (dstW (f.md.getLsbD 0)), a := (srcW (f.md.getLsbD 0)), b := (srcW (f.md.getLsbD 0)), c := .none, mask := 0x001, fs := baseFields f }
  | .max f => some { opc := 0x00F, cls := .any, term := false, priv := false, d := (dstW (f.md.getLsbD 0)), a := (srcW (f.md.getLsbD 0)), b := (srcW (f.md.getLsbD 0)), c := .none, mask := 0x001, fs := baseFields f }
  | .minu f => some { opc := 0x010, cls := .any, term := false, priv := false, d := (dstW (f.md.getLsbD 0)), a := (srcW (f.md.getLsbD 0)), b := (srcW (f.md.getLsbD 0)), c := .none, mask := 0x001, fs := baseFields f }
  | .maxu f => some { opc := 0x011, cls := .any, term := false, priv := false, d := (dstW (f.md.getLsbD 0)), a := (srcW (f.md.getLsbD 0)), b := (srcW (f.md.getLsbD 0)), c := .none, mask := 0x001, fs := baseFields f }
  | .abs f => some { opc := 0x012, cls := .any, term := false, priv := false, d := (dstW (f.md.getLsbD 0)), a := (srcW (f.md.getLsbD 0)), b := .none, c := .none, mask := 0x001, fs := baseFields f }
  | .neg f => some { opc := 0x013, cls := .any, term := false, priv := false, d := (dstW (f.md.getLsbD 0)), a := (srcW (f.md.getLsbD 0)), b := .none, c := .none, mask := 0x001, fs := baseFields f }
  | .addi f => some { opc := 0x014, cls := .any, term := false, priv := false, d := (.dst .i32), a := (addiSrc f), b := .none, c := .none, mask := 0x000, fs := immFields f }
  | .shl f => some { opc := 0x015, cls := .any, term := false, priv := false, d := (dstW (f.md.getLsbD 0)), a := (srcW (f.md.getLsbD 0)), b := (srcW (f.md.getLsbD 0)), c := .none, mask := 0x001, fs := baseFields f }
  | .shr f => some { opc := 0x016, cls := .any, term := false, priv := false, d := (dstW (f.md.getLsbD 0)), a := (srcW (f.md.getLsbD 0)), b := (srcW (f.md.getLsbD 0)), c := .none, mask := 0x001, fs := baseFields f }
  | .sar f => some { opc := 0x017, cls := .any, term := false, priv := false, d := (dstW (f.md.getLsbD 0)), a := (srcW (f.md.getLsbD 0)), b := (srcW (f.md.getLsbD 0)), c := .none, mask := 0x001, fs := baseFields f }
  | .and f => some { opc := 0x018, cls := .any, term := false, priv := false, d := (dstW (f.md.getLsbD 0)), a := (srcW (f.md.getLsbD 0)), b := (srcW (f.md.getLsbD 0)), c := .none, mask := 0x001, fs := baseFields f }
  | .or f => some { opc := 0x019, cls := .any, term := false, priv := false, d := (dstW (f.md.getLsbD 0)), a := (srcW (f.md.getLsbD 0)), b := (srcW (f.md.getLsbD 0)), c := .none, mask := 0x001, fs := baseFields f }
  | .xor f => some { opc := 0x01A, cls := .any, term := false, priv := false, d := (dstW (f.md.getLsbD 0)), a := (srcW (f.md.getLsbD 0)), b := (srcW (f.md.getLsbD 0)), c := .none, mask := 0x001, fs := baseFields f }
  | .not f => some { opc := 0x01B, cls := .any, term := false, priv := false, d := (dstW (f.md.getLsbD 0)), a := (srcW (f.md.getLsbD 0)), b := .none, c := .none, mask := 0x001, fs := baseFields f }
  | .andn f => some { opc := 0x01C, cls := .any, term := false, priv := false, d := (dstW (f.md.getLsbD 0)), a := (srcW (f.md.getLsbD 0)), b := (srcW (f.md.getLsbD 0)), c := .none, mask := 0x001, fs := baseFields f }
  | .lea f => some { opc := 0x01D, cls := .any, term := false, priv := false, d := (dstW (f.md.getLsbD 0)), a := (srcW (f.md.getLsbD 0)), b := (srcW (f.md.getLsbD 0)), c := (srcW (f.md.getLsbD 0)), mask := 0x01D, fs := baseFields f }
  | .popc f => some { opc := 0x040, cls := .any, term := false, priv := false, d := (dstW (f.md.getLsbD 0)), a := (srcW (f.md.getLsbD 0)), b := .none, c := .none, mask := 0x001, fs := baseFields f }
  | .clz f => some { opc := 0x041, cls := .any, term := false, priv := false, d := (dstW (f.md.getLsbD 0)), a := (srcW (f.md.getLsbD 0)), b := .none, c := .none, mask := 0x001, fs := baseFields f }
  | .ctz f => some { opc := 0x042, cls := .any, term := false, priv := false, d := (dstW (f.md.getLsbD 0)), a := (srcW (f.md.getLsbD 0)), b := .none, c := .none, mask := 0x001, fs := baseFields f }
  | .brev f => some { opc := 0x043, cls := .any, term := false, priv := false, d := (dstW (f.md.getLsbD 0)), a := (srcW (f.md.getLsbD 0)), b := .none, c := .none, mask := 0x001, fs := baseFields f }
  | .bswap f => some { opc := 0x044, cls := .any, term := false, priv := false, d := (dstW (f.md.getLsbD 0)), a := (srcW (f.md.getLsbD 0)), b := .none, c := .none, mask := 0x001, fs := baseFields f }
  | .rol f => some { opc := 0x045, cls := .any, term := false, priv := false, d := (dstW (f.md.getLsbD 0)), a := (srcW (f.md.getLsbD 0)), b := (srcW (f.md.getLsbD 0)), c := .none, mask := 0x001, fs := baseFields f }
  | .ror f => some { opc := 0x046, cls := .any, term := false, priv := false, d := (dstW (f.md.getLsbD 0)), a := (srcW (f.md.getLsbD 0)), b := (srcW (f.md.getLsbD 0)), c := .none, mask := 0x001, fs := baseFields f }
  | .bfx f => some { opc := 0x047, cls := .any, term := false, priv := false, d := (dstW (f.md.getLsbD 0)), a := (srcW (f.md.getLsbD 0)), b := (srcW (f.md.getLsbD 0)), c := .none, mask := 0x001, fs := baseFields f }
  | .bfxu f => some { opc := 0x048, cls := .any, term := false, priv := false, d := (dstW (f.md.getLsbD 0)), a := (srcW (f.md.getLsbD 0)), b := (srcW (f.md.getLsbD 0)), c := .none, mask := 0x001, fs := baseFields f }
  | .bfi f => some { opc := 0x049, cls := .any, term := false, priv := false, d := (dstW (f.md.getLsbD 0)), a := (srcW (f.md.getLsbD 0)), b := (srcW (f.md.getLsbD 0)), c := (srcW (f.md.getLsbD 0)), mask := 0x001, fs := baseFields f }
  | .lxPick f => some { opc := 0x04A, cls := .any, term := false, priv := false, d := (dstW (f.md.getLsbD 0)), a := (srcW (f.md.getLsbD 0)), b := (.src .r32), c := .none, mask := 0x3FD, fs := baseFields f }
  | .lxShf f => some { opc := 0x04B, cls := .any, term := false, priv := false, d := (dstW (f.md.getLsbD 0)), a := (srcW (f.md.getLsbD 0)), b := (.src .r32), c := .none, mask := 0x3FD, fs := baseFields f }
  | .lxRot f => some { opc := 0x04C, cls := .any, term := false, priv := false, d := (dstW (f.md.getLsbD 0)), a := (srcW (f.md.getLsbD 0)), b := (.src .r32), c := .none, mask := 0x3FD, fs := baseFields f }
  | .lxFlip f => some { opc := 0x04D, cls := .any, term := false, priv := false, d := (dstW (f.md.getLsbD 0)), a := (srcW (f.md.getLsbD 0)), b := (.src .r32), c := .none, mask := 0x3FD, fs := baseFields f }
  | .prdcOr f => some { opc := 0x04E, cls := .any, term := false, priv := false, d := .pred, a := .pred, b := .none, c := .none, mask := 0x400, fs := baseFields f }
  | .prdcAnd f => some { opc := 0x04F, cls := .any, term := false, priv := false, d := .pred, a := .pred, b := .none, c := .none, mask := 0x400, fs := baseFields f }
  | .prdcMsk f => some { opc := 0x050, cls := .any, term := false, priv := false, d := (.dst .r32), a := .pred, b := .none, c := .none, mask := 0x400, fs := baseFields f }
  | .eqmask f => some { opc := 0x051, cls := .any, term := false, priv := false, d := (.dst .r32), a := (srcW (f.md.getLsbD 0)), b := .none, c := .none, mask := 0x001, fs := baseFields f }
  | .partm f => some { opc := 0x052, cls := .any, term := false, priv := false, d := (.dst .r32), a := .none, b := .none, c := .none, mask := 0x000, fs := baseFields f }
  | .wredAdd f => some { opc := 0x053, cls := .any, term := false, priv := false, d := (dstW (f.md.getLsbD 0)), a := (srcW (f.md.getLsbD 0)), b := .none, c := .none, mask := 0x001, fs := baseFields f }
  | .wredMin f => some { opc := 0x054, cls := .any, term := false, priv := false, d := (dstW (f.md.getLsbD 0)), a := (srcW (f.md.getLsbD 0)), b := .none, c := .none, mask := 0x003, fs := baseFields f }
  | .wredMax f => some { opc := 0x055, cls := .any, term := false, priv := false, d := (dstW (f.md.getLsbD 0)), a := (srcW (f.md.getLsbD 0)), b := .none, c := .none, mask := 0x003, fs := baseFields f }
  | .wredAnd f => some { opc := 0x056, cls := .any, term := false, priv := false, d := (dstW (f.md.getLsbD 0)), a := (srcW (f.md.getLsbD 0)), b := .none, c := .none, mask := 0x001, fs := baseFields f }
  | .wredOr f => some { opc := 0x057, cls := .any, term := false, priv := false, d := (dstW (f.md.getLsbD 0)), a := (srcW (f.md.getLsbD 0)), b := .none, c := .none, mask := 0x001, fs := baseFields f }
  | .wredXor f => some { opc := 0x058, cls := .any, term := false, priv := false, d := (dstW (f.md.getLsbD 0)), a := (srcW (f.md.getLsbD 0)), b := .none, c := .none, mask := 0x001, fs := baseFields f }
  | .icmp f => some { opc := 0x080, cls := .any, term := false, priv := false, d := .imm, a := (srcW (f.md.getLsbD 0)), b := (srcW (f.md.getLsbD 0)), c := .none, mask := 0x07F, fs := baseFields f }
  | .icmpu f => some { opc := 0x081, cls := .any, term := false, priv := false, d := .imm, a := (srcW (f.md.getLsbD 0)), b := (srcW (f.md.getLsbD 0)), c := .none, mask := 0x07F, fs := baseFields f }
  | .tstb f => some { opc := 0x082, cls := .any, term := false, priv := false, d := .imm, a := (srcW (f.md.getLsbD 0)), b := (srcW (f.md.getLsbD 0)), c := .none, mask := 0x071, fs := baseFields f }
  | .pand f => some { opc := 0x083, cls := .any, term := false, priv := false, d := .pred, a := .pred, b := .pred, c := .none, mask := 0x180, fs := baseFields f }
  | .por f => some { opc := 0x084, cls := .any, term := false, priv := false, d := .pred, a := .pred, b := .pred, c := .none, mask := 0x180, fs := baseFields f }
  | .pxor f => some { opc := 0x085, cls := .any, term := false, priv := false, d := .pred, a := .pred, b := .pred, c := .none, mask := 0x180, fs := baseFields f }
  | .pnot f => some { opc := 0x086, cls := .any, term := false, priv := false, d := .pred, a := .pred, b := .none, c := .none, mask := 0x000, fs := baseFields f }
  | .pmov f => some { opc := 0x087, cls := .any, term := false, priv := false, d := .pred, a := .pred, b := .none, c := .none, mask := 0x080, fs := baseFields f }
  | .pset f => some { opc := 0x088, cls := .any, term := false, priv := false, d := .none, a := (.src .r32), b := (.src .r32), c := .none, mask := 0x000, fs := baseFields f }
  | .pget f => some { opc := 0x089, cls := .any, term := false, priv := false, d := (.dst .r32), a := .none, b := .none, c := .none, mask := 0x000, fs := baseFields f }
  | .nop f => some { opc := 0x0C0, cls := .ctrl, term := false, priv := false, d := .none, a := .none, b := .none, c := .none, mask := 0x000, fs := baseFields f }
  | .yield f => some { opc := 0x0C1, cls := .ctrl, term := false, priv := false, d := .none, a := .none, b := .none, c := .none, mask := 0x000, fs := baseFields f }
  | .br f => some { opc := 0x0C2, cls := .ctrl, term := true, priv := false, d := .none, a := .none, b := .none, c := .none, mask := 0x000, fs := jumpFields f }
  | .brx f => some { opc := 0x0C3, cls := .ctrl, term := true, priv := false, d := .none, a := (.src .c64), b := .none, c := .none, mask := 0x001, fs := baseFields f }
  | .call f => some { opc := 0x0C4, cls := .ctrl, term := true, priv := false, d := .imm, a := .none, b := .none, c := .none, mask := 0x000, fs := jumpFields f }
  | .callx f => some { opc := 0x0C5, cls := .ctrl, term := true, priv := false, d := .none, a := (.src .c64), b := .none, c := .none, mask := 0xFF1, fs := baseFields f }
  | .ret f => some { opc := 0x0C6, cls := .ctrl, term := true, priv := false, d := .none, a := .none, b := .none, c := .none, mask := 0x000, fs := baseFields f }
  | .unwind f => some { opc := 0x0C7, cls := .ctrl, term := true, priv := false, d := .imm, a := .none, b := .none, c := .none, mask := 0x000, fs := jumpFields f }
  | .exit f => some { opc := 0x0C8, cls := .ctrl, term := true, priv := false, d := .none, a := .none, b := .none, c := .none, mask := 0x000, fs := baseFields f }
  | .ldf f => some { opc := 0x0C9, cls := .ctrl, term := false, priv := false, d := (dstW (f.md.getLsbD 0)), a := (.src .r32), b := .none, c := .none, mask := 0x003, fs := baseFields f }
  | .stf f => some { opc := 0x0CA, cls := .ctrl, term := false, priv := false, d := .none, a := (.src .r32), b := (srcC (f.md.getLsbD 0)), c := .none, mask := 0x001, fs := baseFields f }
  | .frq f => some { opc := 0x0CB, cls := .ctrl, term := false, priv := false, d := (.dst .r32), a := .none, b := .none, c := .none, mask := 0x007, fs := baseFields f }
  | .fadd f => some { opc := 0x100, cls := .vec, term := false, priv := false, d := (.dst .r32), a := (.src .r32), b := (.src .r32), c := .none, mask := 0xF03, fs := baseFields f }
  | .fsub f => some { opc := 0x101, cls := .vec, term := false, priv := false, d := (.dst .r32), a := (.src .r32), b := (.src .r32), c := .none, mask := 0xF03, fs := baseFields f }
  | .fmul f => some { opc := 0x102, cls := .vec, term := false, priv := false, d := (.dst .r32), a := (.src .r32), b := (.src .r32), c := .none, mask := 0xF03, fs := baseFields f }
  | .ffma f => some { opc := 0x103, cls := .vec, term := false, priv := false, d := (.dst .r32), a := (.src .r32), b := (.src .r32), c := (.src .r32), mask := 0xF03, fs := baseFields f }
  | .fmin f => some { opc := 0x104, cls := .vec, term := false, priv := false, d := (.dst .r32), a := (.src .r32), b := (.src .r32), c := .none, mask := 0x003, fs := baseFields f }
  | .fmax f => some { opc := 0x105, cls := .vec, term := false, priv := false, d := (.dst .r32), a := (.src .r32), b := (.src .r32), c := .none, mask := 0x003, fs := baseFields f }
  | .fabs f => some { opc := 0x106, cls := .vec, term := false, priv := false, d := (.dst .r32), a := (.src .r32), b := .none, c := .none, mask := 0x003, fs := baseFields f }
  | .fneg f => some { opc := 0x107, cls := .vec, term := false, priv := false, d := (.dst .r32), a := (.src .r32), b := .none, c := .none, mask := 0x003, fs := baseFields f }
  | .fdiv f => some { opc := 0x108, cls := .vec, term := false, priv := false, d := (.dst .r32), a := (.src .r32), b := (.src .r32), c := .none, mask := 0xF03, fs := baseFields f }
  | .fsqrt f => some { opc := 0x109, cls := .vec, term := false, priv := false, d := (.dst .r32), a := (.src .r32), b := .none, c := .none, mask := 0xF03, fs := baseFields f }
  | .frcp f => some { opc := 0x10A, cls := .vec, term := false, priv := false, d := (.dst .r32), a := (.src .r32), b := .none, c := .none, mask := 0xF03, fs := baseFields f }
  | .frsq f => some { opc := 0x10B, cls := .vec, term := false, priv := false, d := (.dst .r32), a := (.src .r32), b := .none, c := .none, mask := 0xF03, fs := baseFields f }
  | .fcmp f => some { opc := 0x10C, cls := .vec, term := false, priv := false, d := .imm, a := (.src .r32), b := (.src .r32), c := .none, mask := 0xE7E, fs := baseFields f }
  | .fclass f => some { opc := 0x10D, cls := .vec, term := false, priv := false, d := (.dst .r32), a := (.src .r32), b := .none, c := .none, mask := 0x003, fs := baseFields f }
  | .padd2 f => some { opc := 0x110, cls := .vec, term := false, priv := false, d := (.dst .r32), a := (.src .r32), b := (.src .r32), c := .none, mask := 0xF03, fs := baseFields f }
  | .psub2 f => some { opc := 0x111, cls := .vec, term := false, priv := false, d := (.dst .r32), a := (.src .r32), b := (.src .r32), c := .none, mask := 0xF03, fs := baseFields f }
  | .pmul2 f => some { opc := 0x112, cls := .vec, term := false, priv := false, d := (.dst .r32), a := (.src .r32), b := (.src .r32), c := .none, mask := 0xF03, fs := baseFields f }
  | .pfma2 f => some { opc := 0x113, cls := .vec, term := false, priv := false, d := (.dst .r32), a := (.src .r32), b := (.src .r32), c := (.src .r32), mask := 0xF03, fs := baseFields f }
  | .pmin2 f => some { opc := 0x114, cls := .vec, term := false, priv := false, d := (.dst .r32), a := (.src .r32), b := (.src .r32), c := .none, mask := 0x003, fs := baseFields f }
  | .pmax2 f => some { opc := 0x115, cls := .vec, term := false, priv := false, d := (.dst .r32), a := (.src .r32), b := (.src .r32), c := .none, mask := 0x003, fs := baseFields f }
  | .dadd f => some { opc := 0x140, cls := .vec, term := false, priv := false, d := (.dst .r64), a := (.src .r64), b := (.src .r64), c := .none, mask := 0xF00, fs := baseFields f }
  | .dsub f => some { opc := 0x141, cls := .vec, term := false, priv := false, d := (.dst .r64), a := (.src .r64), b := (.src .r64), c := .none, mask := 0xF00, fs := baseFields f }
  | .dmul f => some { opc := 0x142, cls := .vec, term := false, priv := false, d := (.dst .r64), a := (.src .r64), b := (.src .r64), c := .none, mask := 0xF00, fs := baseFields f }
  | .dfma f => some { opc := 0x143, cls := .vec, term := false, priv := false, d := (.dst .r64), a := (.src .r64), b := (.src .r64), c := (.src .r64), mask := 0xF00, fs := baseFields f }
  | .ddiv f => some { opc := 0x144, cls := .vec, term := false, priv := false, d := (.dst .r64), a := (.src .r64), b := (.src .r64), c := .none, mask := 0xF00, fs := baseFields f }
  | .dsqrt f => some { opc := 0x145, cls := .vec, term := false, priv := false, d := (.dst .r64), a := (.src .r64), b := .none, c := .none, mask := 0xF00, fs := baseFields f }
  | .dmin f => some { opc := 0x146, cls := .vec, term := false, priv := false, d := (.dst .r64), a := (.src .r64), b := (.src .r64), c := .none, mask := 0x000, fs := baseFields f }
  | .dmax f => some { opc := 0x147, cls := .vec, term := false, priv := false, d := (.dst .r64), a := (.src .r64), b := (.src .r64), c := .none, mask := 0x000, fs := baseFields f }
  | .dcmp f => some { opc := 0x148, cls := .vec, term := false, priv := false, d := .imm, a := (.src .r64), b := (.src .r64), c := .none, mask := 0x27E, fs := baseFields f }
  | .dclass f => some { opc := 0x149, cls := .vec, term := false, priv := false, d := (.dst .r32), a := (.src .r64), b := .none, c := .none, mask := 0x000, fs := baseFields f }
  | .fexp2 f => some { opc := 0x150, cls := .vec, term := false, priv := false, d := (.dst .r32), a := (.src .r32), b := .none, c := .none, mask := 0x000, fs := baseFields f }
  | .flog2 f => some { opc := 0x151, cls := .vec, term := false, priv := false, d := (.dst .r32), a := (.src .r32), b := .none, c := .none, mask := 0x000, fs := baseFields f }
  | .fsin f => some { opc := 0x152, cls := .vec, term := false, priv := false, d := (.dst .r32), a := (.src .r32), b := .none, c := .none, mask := 0x000, fs := baseFields f }
  | .fcos f => some { opc := 0x153, cls := .vec, term := false, priv := false, d := (.dst .r32), a := (.src .r32), b := .none, c := .none, mask := 0x000, fs := baseFields f }
  | .ftanh f => some { opc := 0x154, cls := .vec, term := false, priv := false, d := (.dst .r32), a := (.src .r32), b := .none, c := .none, mask := 0x000, fs := baseFields f }
  | .cvt f => some { opc := 0x160, cls := .vec, term := false, priv := false, d := (cvtDst f), a := (cvtSrc f), b := .none, c := .none, mask := 0xFFF, fs := baseFields f }
  | .frnd f => some { opc := 0x161, cls := .vec, term := false, priv := false, d := (rndDst f), a := (rndSrc f), b := .none, c := .none, mask := 0xE03, fs := baseFields f }
  | .qnt f => some { opc := 0x180, cls := .vec, term := false, priv := false, d := (.dst .r32), a := (.src .r32), b := (.src .c64), c := (qntC f), mask := 0xF8F, fs := baseFields f }
  | .dqnt f => some { opc := 0x181, cls := .vec, term := false, priv := false, d := (.dst .r64), a := (.src .r32), b := .none, c := .none, mask := 0xF0F, fs := baseFields f }
  | .bmrd f => some { opc := 0x182, cls := .vec, term := false, priv := false, d := (.dst .r32), a := (.src .r32), b := .none, c := .none, mask := 0x000, fs := baseFields f }
  | .bmwr f => some { opc := 0x183, cls := .vec, term := false, priv := false, d := .none, a := (.src .r32), b := (.src .r32), c := .none, mask := 0x000, fs := baseFields f }
  | .amxrd f => some { opc := 0x184, cls := .vec, term := false, priv := false, d := (.dst .r32), a := .ring6, b := .none, c := .none, mask := 0x01F, fs := baseFields f }
  | .amxpsh f => some { opc := 0x185, cls := .vec, term := false, priv := false, d := .none, a := .ring6, b := (.src .r32), c := .none, mask := 0x000, fs := baseFields f }
  | .amxcmt f => some { opc := 0x186, cls := .vec, term := false, priv := false, d := .none, a := .ring6, b := .none, c := .none, mask := 0x000, fs := baseFields f }
  | .amxclr f => some { opc := 0x187, cls := .vec, term := false, priv := false, d := .none, a := .ring6, b := .none, c := .none, mask := 0x000, fs := baseFields f }
  | .ld f => some { opc := 0x1C0, cls := .mem, term := false, priv := false, d := (ldDst f), a := (.src .c64), b := (.src .off), c := .none, mask := 0x000, fs := memFields f }
  | .st f => some { opc := 0x1C1, cls := .mem, term := false, priv := false, d := (stSrc f), a := (.src .c64), b := (.src .off), c := .none, mask := 0x000, fs := memFields f }
  | .fld f => some { opc := 0x1C2, cls := .mem, term := false, priv := false, d := (.dst .def64), a := (.src .c64), b := (.src .off), c := .none, mask := 0x000, fs := memFields f }
  | .spld f => some { opc := 0x1C3, cls := .mem, term := false, priv := false, d := (spldDst f), a := (.src .r32), b := (.src .off), c := .none, mask := 0x000, fs := memFields f }
  | .spst f => some { opc := 0x1C4, cls := .mem, term := false, priv := false, d := (stSrc f), a := (.src .r32), b := (.src .off), c := .none, mask := 0x000, fs := memFields f }
  | .pref f => some { opc := 0x1C5, cls := .mem, term := false, priv := false, d := .none, a := (.src .c64), b := (.src .off), c := .none, mask := 0x000, fs := memFields f }
  | .ldref f => some { opc := 0x200, cls := .mem, term := false, priv := false, d := (.dst .def64), a := (.src .c64), b := (.src .off), c := .none, mask := 0x000, fs := memFields f }
  | .stref f => some { opc := 0x201, cls := .mem, term := false, priv := false, d := (.src .c64), a := (.src .c64), b := (.src .off), c := .none, mask := 0x000, fs := memFields f }
  | .rderive f => some { opc := 0x202, cls := .mem, term := false, priv := false, d := (.dst .r64), a := (.src .c64), b := (.src .off), c := (.src .off), mask := 0x07F, fs := baseFields f }
  | .refadd f => some { opc := 0x203, cls := .mem, term := false, priv := false, d := (.dst .r64), a := (.src .c64), b := (.src .off), c := .none, mask := 0x000, fs := baseFields f }
  | .rinfo f => some { opc := 0x204, cls := .mem, term := false, priv := false, d := (rinfoDst f), a := (.src .c64), b := .none, c := .none, mask := 0x007, fs := baseFields f }
  | .oalloc f => some { opc := 0x205, cls := .mem, term := false, priv := false, d := (.dst .r64), a := (.src .off), b := .none, c := .none, mask := 0xF7F, fs := baseFields f }
  | .ofree f => some { opc := 0x206, cls := .mem, term := false, priv := false, d := .none, a := (.src .c64), b := .none, c := .none, mask := 0x000, fs := baseFields f }
  | .atom f => some { opc := 0x240, cls := .sync, term := false, priv := false, d := (dstW (f.sub.getLsbD 3)), a := (.src .c64), b := (atomB f), c := (srcC (f.sub.getLsbD 3)), mask := 0x000, fs := syFields f }
  | .red f => some { opc := 0x241, cls := .sync, term := false, priv := false, d := .none, a := (.src .c64), b := (.src .off), c := (srcC (f.sub.getLsbD 3)), mask := 0x000, fs := syFields f }
  | .fence f => some { opc := 0x242, cls := .sync, term := false, priv := false, d := .none, a := .none, b := .none, c := .none, mask := 0x000, fs := syFields f }
  | .mma f => some { opc := 0x280, cls := .mtx, term := false, priv := false, d := .none, a := (mxBlock f), b := (mmaS f), c := .none, mask := 0xEFF, fs := mxFields f }
  | .acz f => some { opc := 0x281, cls := .mtx, term := false, priv := false, d := .none, a := .none, b := .none, c := .none, mask := 0xC01, fs := mxFields f }
  | .acrd f => some { opc := 0x282, cls := .vec, term := false, priv := false, d := .none, a := (.dst .blk8), b := .none, c := .none, mask := 0xC03, fs := mxFields f }
  | .acrdQ f => some { opc := 0x283, cls := .vec, term := false, priv := false, d := .none, a := (.dst .blk8), b := (acrdqS f), c := .none, mask := 0xFF7, fs := mxFields f }
  | .acwr f => some { opc := 0x284, cls := .vec, term := false, priv := false, d := .none, a := (.src .blk8), b := .none, c := .none, mask := 0xC03, fs := mxFields f }
  | .acred f => some { opc := 0x285, cls := .vec, term := false, priv := false, d := .none, a := .none, b := (.dst .r32), c := .none, mask := 0xC03, fs := mxFields f }
  | .acscl f => some { opc := 0x286, cls := .vec, term := false, priv := false, d := .none, a := .none, b := (.src .r32), c := .none, mask := 0xF80, fs := mxFields f }
  | .scpy f => some { opc := 0x2C0, cls := .sht, term := false, priv := false, d := (shSlot f), a := (shTile ((f.c &&& 3) == 2)), b := (shTile (f.c >>> 2 == 2)), c := .imm, mask := 0x000, fs := shFields f }
  | .sgath f => some { opc := 0x2C1, cls := .sht, term := false, priv := false, d := (.dst .def64), a := (.src .off), b := .none, c := .none, mask := 0x000, fs := shFields f }
  | .sgathSp f => some { opc := 0x2C1, cls := .sht, term := false, priv := false, d := (shSlot f), a := (.src .r32), b := (.src .r32), c := (.src .r32), mask := 0x000, fs := shFields f }
  | .sscat f => some { opc := 0x2C2, cls := .sht, term := false, priv := false, d := (shSlot f), a := (.src .r32), b := (.src .r32), c := (.src .r32), mask := 0x000, fs := shFields f }
  | .ssadd f => some { opc := 0x2C3, cls := .sht, term := false, priv := false, d := (shSlot f), a := (.src .r32), b := (.src .r32), c := (.src .r32), mask := 0x000, fs := shFields f }
  | .sput f => some { opc := 0x2C4, cls := .sht, term := false, priv := false, d := (shSlot f), a := (.src .c64), b := (.src .off), c := .imm, mask := 0x000, fs := shFields f }
  | .sfill f => some { opc := 0x2C5, cls := .sht, term := false, priv := false, d := (shSlot f), a := .fill, b := (shTile ((f.c &&& 3) == 2)), c := .imm, mask := 0x000, fs := shFields f }
  | .sqcp f => some { opc := 0x2C6, cls := .sht, term := false, priv := false, d := (shSlot f), a := (shTile ((f.c &&& 3) == 2)), b := .none, c := .imm, mask := 0x000, fs := shFields f }
  | .lyset f => some { opc := 0x2C7, cls := .ctrl, term := false, priv := false, d := .lo4, a := (lysetA f), b := (.src .c64), c := .none, mask := 0x001, fs := baseFields f }
  | .bar f => some { opc := 0x300, cls := .sync, term := false, priv := false, d := .none, a := .none, b := .none, c := .none, mask := 0x000, fs := syFields f }
  | .bara f => some { opc := 0x301, cls := .sync, term := false, priv := false, d := .none, a := .none, b := .none, c := .none, mask := 0x000, fs := syFields f }
  | .sharr f => some { opc := 0x302, cls := .sync, term := false, priv := false, d := .ring3, a := (.src .r32), b := (.src .r32), c := .none, mask := 0x000, fs := syFields f }
  | .sharrInit f => some { opc := 0x302, cls := .sync, term := false, priv := false, d := .ring3, a := (.src .r32), b := (.src .r32), c := .none, mask := 0x000, fs := syFields f }
  | .shwait f => some { opc := 0x303, cls := .sync, term := false, priv := false, d := .ring3, a := (.src .r32), b := .none, c := .none, mask := 0x000, fs := syFields f }
  | .cwait f => some { opc := 0x304, cls := .sync, term := false, priv := false, d := .thr5, a := .none, b := .none, c := .none, mask := 0x000, fs := syFields f }
  | .mwait f => some { opc := 0x305, cls := .sync, term := false, priv := false, d := (dstW (f.sub.getLsbD 0)), a := (.src .c64), b := (.src .off), c := (srcW (f.sub.getLsbD 0)), mask := 0x000, fs := syFields f }
  | .pub f => some { opc := 0x306, cls := .sync, term := false, priv := false, d := .none, a := (.src .c64), b := .none, c := .none, mask := 0x000, fs := syFields f }
  | .pubw f => some { opc := 0x307, cls := .sync, term := false, priv := false, d := .none, a := (.src .c64), b := .none, c := .none, mask := 0x000, fs := syFields f }
  | .launch f => some { opc := 0x308, cls := .sync, term := false, priv := false, d := (.dst .r64), a := (.src .c64), b := (.src .c64z), c := (.src .c64z), mask := 0x000, fs := syFields f }
  | .launchi f => some { opc := 0x309, cls := .sync, term := false, priv := false, d := (.dst .r64), a := (.src .c64), b := (.src .c64z), c := (.src .c64z), mask := 0x000, fs := syFields f }
  | .hcall f => some { opc := 0x30A, cls := .sync, term := false, priv := false, d := (.dst .def64), a := (.src .c64), b := (.src .c64), c := (.src .r32), mask := 0x000, fs := syFields f }
  | .hcallNb f => some { opc := 0x30B, cls := .sync, term := false, priv := false, d := .none, a := (.src .c64), b := (.src .c64), c := (.src .r32), mask := 0x000, fs := syFields f }
  | .uintr f => some { opc := 0x30C, cls := .sync, term := false, priv := false, d := (.dst .r32), a := (.src .r32), b := (.src .r32), c := .none, mask := 0x000, fs := syFields f }
  | .srd f => some { opc := 0x340, cls := .ctrl, term := false, priv := false, d := (srdDst f), a := .none, b := .none, c := .none, mask := 0x0FF, fs := baseFields f }
  | .swr f => some { opc := 0x341, cls := .ctrl, term := false, priv := false, d := .none, a := (swrSrc f), b := .none, c := .none, mask := 0x0FF, fs := baseFields f }
  | .trap f => some { opc := 0x342, cls := .ctrl, term := true, priv := false, d := .none, a := .none, b := .none, c := .none, mask := 0x0FF, fs := baseFields f }
  | .tfence f => some { opc := 0x343, cls := .ctrl, term := false, priv := false, d := .none, a := .none, b := .none, c := .none, mask := 0x000, fs := baseFields f }
  | .rft f => some { opc := 0x344, cls := .ctrl, term := true, priv := false, d := .none, a := (.src .r32), b := .none, c := .none, mask := 0x000, fs := baseFields f }
  | .park f => some { opc := 0x345, cls := .ctrl, term := true, priv := false, d := .none, a := .none, b := .none, c := .none, mask := 0x0FF, fs := baseFields f }
  | .clrpsn f => some { opc := 0x346, cls := .ctrl, term := false, priv := true, d := .none, a := (.src .c64), b := .none, c := .none, mask := 0x000, fs := baseFields f }
  | .bundleOpen _ _ => none
  | .forcedWarp _ _ => none
  | .icacheFill _ _ _ _ => none
  | .asyncTrap _ => none
  | .warpParked _ => none
  | .resume _ _ => none
  | .forward _ _ => none
  | .kill _ => none
  | .deferredResponse _ => none
  | .remoteTimeout _ => none
  | .frameGrant _ _ => none
  | .dofferWake _ _ => none
  | .spillDone _ _ => none
  | .refillDone _ _ => none
  | .frameRelease _ => none
  | .objectWalk _ _ _ => none
  | .extentFill _ _ _ _ => none
  | .shuttleComplete _ => none
  | .shuttleAsyncFault _ => none
  | .sputIncrement _ => none
  | .heldArrival _ _ => none
  | .mmaPerform _ _ => none
  | .aczPerform _ _ => none
  | .walkVisit _ => none
  | .walkComplete _ => none
  | .mwaitReread _ _ => none
  | .hcallReply _ => none
  | .hcallTimeout _ => none
  | .monitorReread _ => none
  | .uintrDeliver _ => none
  | .submitDmwr _ _ => none
  | .submitBadWrite _ _ => none
  | .take _ => none
  | .predWatch _ _ => none
  | .countRead _ => none
  | .deal _ => none
  | .admitHead _ => none
  | .idleSteal _ => none
  | .stealRequest _ _ => none
  | .stealAnswer _ => none
  | .teamRetire _ => none
  | .gridComplete _ => none
  | .prgo _ => none
  | .quiesceDone _ => none
  | .drainRequiesce _ => none
  | .victimSkipExpire _ _ => none
  | .flushDone _ => none
  | .saveDone _ => none
  | .restore _ => none
  | .ogoDrain _ _ _ => none
  | .ogoRelease _ _ _ => none
  | .oinvDrain _ _ _ => none
  | .oinvRelease _ _ _ => none
  | .cpaddr _ _ => none
  | .mcgo _ => none
  | .blockCopyBlock _ => none
  | .uidb _ _ => none
  | .rds _ _ => none
  | .rdx _ _ _ => none
  | .upg _ _ _ => none
  | .wrfull _ _ _ => none
  | .rdu _ _ _ _ => none
  | .wbu _ _ _ _ _ => none
  | .rdnc _ _ => none
  | .evs _ _ => none
  | .wbm _ _ _ => none
  | .dirty _ _ => none
  | .clrp _ _ => none
  | .inv _ _ => none
  | .fwds _ _ => none
  | .fwdx _ _ _ => none
  | .wbreq _ _ => none
  | .data _ _ _ _ => none
  | .grant _ _ => none
  | .invack _ => none
  | .fwdack _ _ _ => none
  | .fwddata _ _ _ _ => none
  | .wback _ => none
  | .dirtyack _ => none
  | .miss _ => none
  | .refuse _ => none
  | .poison _ => none
  | .selvedgeChange _ _ => none
  | .heartbeatSend _ => none
  | .heartbeat _ => none
  | .heartbeatLoss _ => none
  | .deathDeclare _ => none
  | .deathNotice _ _ => none
  | .recoveryScan _ => none
  | .packetForward _ _ _ _ _ _ _ _ => none
  | .rateIncrease _ => none
  | .linkUp _ _ _ => none
  | .laneFailure _ _ => none
  | .widthChange _ => none
  | .rtrn _ => none
  | .hostSnoop _ _ => none
  | .hostGo _ _ => none
  | .hostBiResponse _ _ => none
  | .hostMemRead _ _ => none
  | .hostMemWrite _ _ => none
  | .powerOn => none
  | .imageBufferWrite _ _ => none
  | .go => none
  | .verifyDone => none
  | .initDone _ => none
  | .lockInterfaceRequest => none
  | .getDeviceInterfaceReport => none
  | .startInterfaceRequest => none
  | .stopInterfaceRequest => none
  | .correctedError => none
  | .uncorrectableError _ => none
  | .coreOffline _ => none
  | .throttleStep _ => none
  | .thermalStop _ => none
  | .registerWrite _ _ => none
  | .supervisorAccess _ _ => none
  | .objectPoolRefill _ _ _ => none
  | .submissionPageBind _ _ _ => none
  | .flitReplay _ => none
  | .localMemoryResponse _ => none

/-! ### Reserved values (R124 row RESERVED) -/

/-- A rounding-mode code above 100 (R47). -/
def badRM (m : Nat) : Bool := 4 < m

/-- Reserved fields of the M format by instruction (R221): permitted sizes, SX, ORD 01 or 10, whether SCOPE goes with ORD,
RH, NQ. -/
def memReserved (f : MemF) (szOk : Nat → Bool) (sx : Bool) (ord : Nat) (rh nq : Bool) : Bool :=
  !szOk f.sz.toNat
  || (f.sx && !(sx && f.sz.toNat < 2))
  || !(f.ord = 0 || (ord != 0 && f.ord.toNat == ord))
  || (f.ord == 0 && f.scope != 0)
  || (!rh && f.rh != 0) || (!nq && f.nq)

/-- Reserved fields of the SY format by instruction (R289): permitted ORD and SCOPE codes, CV (0 reserved, 1 optional, 2
required), the bits of SUB in use. -/
def syReserved (f : SyF) (ordOk scopeOk : Nat → Bool) (cv : Nat) (sub : BitVec 4) : Bool :=
  !ordOk f.ord.toNat || !scopeOk f.scope.toNat
  || (cv == 0 && f.cv) || (cv == 2 && !f.cv) || (!f.cv && f.ci != 0) || (f.sub &&& ~~~sub) != 0

/-- Reserved fields of a shuttle command (R118, R249, R269): LB in use, sides (C is an immediate). -/
def shReserved (f : ShF) (lb : Bool) (sideOk : Option (Nat → Nat → Bool)) : Bool :=
  (f.k && !f.cv) || (!f.cv && f.ci != 0) || (!lb && f.lb != 0)
  || (match sideOk with
      | none => false
      | some ok => 16 ≤ f.c.toNat || !ok (f.c.toNat % 4) (f.c.toNat / 4))

/-- Reserved fields of an MX row instruction: CV, CI and LR (R282), bits 15 and 12 (R117). -/
def mxReserved (f : MxF) (cvOk lrOk tdOk : Bool) : Bool :=
  f.r15 || f.r12 || (!cvOk && f.cv) || (!f.cv && f.ci != 0) || (!lrOk && f.lr != 0) || (!tdOk && f.td != 0)

/-- LX: SEG 101–111 reserved; PV reserved without PVE (R155, R165). -/
def lxReserved (f : BaseF) : Bool := 4 < bits f.md 4 2 || (!f.md.getLsbD 9 && bits f.md 8 5 != 0)
/-- ICMP, ICMPU: CND 110 and 111 reserved (R168). -/
def icmpReserved (f : BaseF) : Bool := 5 < bits f.md 3 1
/-- The arithmetic of group 4: RM and TY 11 (R175). -/
def fpReserved (f : BaseF) : Bool := badRM (bits f.md 11 9) || bits f.md 1 0 == 3
/-- The packed arithmetic: TY must be 01 or 10 (R183). -/
def packReserved (f : BaseF) : Bool := badRM (bits f.md 11 9) || bits f.md 1 0 == 3 || bits f.md 1 0 == 0

/-- Values that an instruction's own table marks reserved (R124 row RESERVED), beside the fields that must be zero. -/
def valueReserved : Instr → Bool
  | .lxPick f | .lxShf f | .lxRot f | .lxFlip f => lxReserved f
  | .icmp f | .icmpu f => icmpReserved f
  | .fadd f | .fsub f | .fmul f | .ffma f | .fmin f | .fmax f | .fabs f | .fneg f | .fdiv f | .fsqrt f | .frcp f
  | .frsq f | .fclass f => fpReserved f
  | .fcmp f => bits f.md 11 10 == 3
  | .padd2 f | .psub2 f | .pmul2 f | .pfma2 f | .pmin2 f | .pmax2 f => packReserved f
  | .dadd f | .dsub f | .dmul f | .dfma f | .ddiv f | .dsqrt f => badRM (bits f.md 11 9)
  | .cvt f => badRM (bits f.md 11 9) || 10 < bits f.md 7 4 || 10 < bits f.md 3 0
      || (f.md.getLsbD 8 && !(bits f.md 7 4 < 3 || bits f.md 7 4 == 4 || bits f.md 7 4 == 5))
  | .frnd f => badRM (bits f.md 11 9)
  | .qnt f => badRM (bits f.md 11 9) || bits f.md 3 0 == 0 || 6 < bits f.md 3 0
  | .dqnt f => badRM (bits f.md 11 9) || bits f.md 3 0 == 0 || 6 < bits f.md 3 0
  | .amxrd f => 0x12 < bits f.md 4 0
  | .br f => f.off &&& 7 != 0
  | .call f => f.jd.toNat < 8 || 192 < f.jd.toNat || f.off &&& 7 != 0
  | .callx f => bits f.md 11 4 < 8 || 192 < bits f.md 11 4
  | .unwind f => f.jd == 0 || f.off &&& 7 != 0
  | .frq f => 4 < bits f.md 2 0
  | .ld f => memReserved f (· < 5) true 1 true false
  | .st f => memReserved f (· < 5) false 2 true false
  | .fld f => memReserved f (· == 3) false 0 false false
  | .spld f => memReserved f (· < 5) true 0 false true
  | .spst f => memReserved f (· < 5) false 0 false false
  | .pref f => memReserved f (· < 3) false 0 true false
  | .ldref f => memReserved f (· == 3) false 1 true false
  | .stref f => memReserved f (· == 3) false 2 true false
  | .rinfo f => bits f.md 2 0 == 7
  | .oalloc f => 8 < bits f.md 11 8
  | .atom f => syReserved f (fun _ => true) (fun n => f.ord != 0 || n == 0) 0 0xF
  | .red f => syReserved f (fun n => n == 0 || n == 2) (fun n => f.ord != 0 || n == 0) 0 0xF || 5 < bits f.sub 2 0
  | .fence f => syReserved f (· != 0) (fun _ => true) 0 0
  | .bar f | .bara f | .shwait f => syReserved f (· == 0) (· == 0) 0 0
  | .sharr f => syReserved f (· == 0) (· == 0) 0 0
  | .sharrInit f => syReserved f (· == 0) (· == 0) 0 1
  | .cwait f => syReserved f (· == 0) (· == 0) 2 0
  | .mwait f => syReserved f (· == 1) (fun _ => true) 0 1
  | .pub f => syReserved f (· == 0) (· != 0) 1 0
  | .pubw f => syReserved f (· == 0) (· != 0) 0 0
  | .launch f | .launchi f | .uintr f | .hcall f => syReserved f (· == 0) (· == 0) 0 0
  | .hcallNb f => syReserved f (· == 0) (· == 0) 1 0
  | .mma f => mxReserved f true true true || bits f.md 7 6 == 3
      || !(match bits f.md 7 6 with
           | 0 => [1, 2, 3].contains (bits f.md 5 3) && [0, 1, 2, 3].contains (bits f.md 2 0)
           | 1 => [5, 6].contains (bits f.md 5 3) && [0, 5, 6].contains (bits f.md 2 0)
           | _ => [1, 2].contains (bits f.md 5 3) && [0, 4].contains (bits f.md 2 0))
  | .acz f => mxReserved f true false true
  | .acrd f | .acwr f | .acred f => mxReserved f false false true
  | .acrdQ f => mxReserved f false false true || badRM (bits f.md 9 7) || bits f.md 2 0 == 0 || 6 < bits f.md 2 0
      || (f.md.getLsbD 5 && bits f.md 2 0 < 5)
  | .acscl f => mxReserved f false false true || badRM (bits f.md 9 7)
  | .scpy f => shReserved f true (some fun s d => s < 3 && d < 3)
  | .sgath f => shReserved f false none
  | .sgathSp f | .sscat f | .ssadd f => shReserved f false none
  | .sput f => shReserved f true (some fun s d => s < 2 && d == 0)
  | .sfill f => shReserved f false (some fun s d => s < 3 && d == 0)
  | .sqcp f => shReserved f true (some fun s d => s < 3 && d < 2)
  | .srd f => (crnWidth (bits f.md 7 0)).isNone
  | .swr f => (crnWidth (bits f.md 7 0)).isNone || crnRO (bits f.md 7 0)
  | .trap f => bits f.md 7 0 == 0
  | _ => false

/-- Whether an operand field that must be zero, or whose high bits must be zero, is not (R124 row RESERVED). -/
def Opnd.reserved (o : Opnd) (code : Byte) : Bool :=
  match o with
  | .none => code != 0
  | .pred | .lo4 => 16 ≤ code.toNat
  | .ring6 => 64 ≤ code.toNat
  | .ring3 => 8 ≤ code.toNat
  | .thr5 => 32 ≤ code.toNat
  | _ => false

/-- Whether the BT bit of a field means something: the field is a source that is read (R123). -/
def Opnd.btUsed : Opnd → Bool
  | .src _ | .fill => true
  | _ => false

/-- Whether NQ means something: the instruction has a destination and no deferred result (R141, R196). -/
def Opnd.nqUsed : Opnd → Bool
  | .dst .r32 | .dst .r64 | .dst .quad => true
  | _ => false

/-- Whether the format of an instruction has an NQ bit that the check must look at: MX results, and J and I32 words, have
none. -/
def Sig.reserved (g : Sig) : Bool :=
  (!g.fs.guard.ge && (g.fs.guard.gs || g.fs.guard.gp != 0))
  || g.d.reserved g.fs.d || g.a.reserved g.fs.a || g.b.reserved g.fs.b || g.c.reserved g.fs.c
  || (g.fs.btA && !g.a.btUsed) || (g.fs.btB && !g.b.btUsed) || (g.fs.btC && !g.c.btUsed)
  || (g.fs.btD && !g.d.btUsed)
  || (g.fs.nq && !g.d.nqUsed) || (g.fs.md &&& ~~~g.mask) != 0

/-- A q code, a g register or an even frame register: the 64-bit containers (R121). -/
def isC64 (c : Nat) : Bool := c < 0x20 || (0x40 ≤ c && c % 2 == 0)

/-- DEST of R120, R141: an illegal destination code. -/
def Opnd.badDest (o : Opnd) (code : Byte) (nq : Bool) : Bool :=
  let c := code.toNat
  match o with
  | .dst w =>
    match w with
    | .def32 | .def64 | .defQ => c < 0x40
    | .r32 | .r64 | .i32 | .quad => !(c == 0 || (0x10 ≤ c && c < 0x20) || 0x40 ≤ c) || (c == 0 && nq)
    | .blk8 => false
  | _ => false

/-- OPERAND of R120, R121, R223, R224: a code that the field does not accept. -/
def Opnd.badOperand (o : Opnd) (code : Byte) : Bool :=
  let c := code.toNat
  let rsvd := 0x2A ≤ c && c < 0x30
  match o with
  | .src w =>
    match w with
    | .r32 | .off | .blk8 | .blk16 =>
      match w with
      | .blk8 => !(0x40 ≤ c && c ≤ 0x40 + 184)
      | .blk16 => !(0x40 ≤ c && c ≤ 0x40 + 176)
      | _ => rsvd
    | .r64 => rsvd || (0x40 ≤ c && c % 2 == 1)
    | .c64 => !isC64 c
    | .c64z => !(isC64 c || c == 0x20)
    | .quad => !(0x40 ≤ c && c % 4 == 0 && c ≤ 0x40 + 188)
  | .dst w =>
    match w with
    | .r64 | .def64 => 0x40 ≤ c && c % 2 == 1
    | .defQ => !(c % 4 == 0 && c ≤ 0x40 + 188)
    | .quad => !(0x40 ≤ c && c % 4 == 0 && c ≤ 0x40 + 188)
    | .blk8 => !(0x40 ≤ c && c ≤ 0x40 + 184)
    | _ => false
  | .fill => rsvd
  | _ => false

/-- With W 1 every register operand is a 64-bit container (R156), also one of which only 32 bits are read or written: B of the
lane exchanges, D of EQMASK. -/
def wideOdd : Instr → Bool
  | .lxPick f | .lxShf f | .lxRot f | .lxFlip f => f.md.getLsbD 0 && 0x40 ≤ f.b.toNat && f.b.toNat % 2 == 1
  | .eqmask f => f.md.getLsbD 0 && 0x40 ≤ f.d.toNat && f.d.toNat % 2 == 1
  | _ => false

/-- The static encoding check of one instruction word: the first failing row of RESERVED, DEST and OPERAND in the order of
R124. MOVH needs an even destination (R161). -/
def staticCheck (i : Instr) : Option Byte :=
  match sigOf i with
  | none => none
  | some g =>
    if g.reserved || valueReserved i then some 5
    else if g.d.badDest g.fs.d g.fs.nq || g.a.badDest g.fs.a false || g.b.badDest g.fs.b false then some 8
    else if g.d.badOperand g.fs.d || g.a.badOperand g.fs.a || g.b.badOperand g.fs.b || g.c.badOperand g.fs.c
        || wideOdd i then some 9
    else none

end Sys2Proof.Machine
end

