-- ==== Sys2Proof/WellFormed.lean ====
section
/-! DEFINITION. Well-formed instruction words: those that pass the static encoding checks of R124, and stand under the
constructor that their fields select (R262, R300). -/

namespace Sys2Proof

/-- Whether an instruction is a word at all, or a step that has none. -/
def Instr.isWord (i : Instr) : Bool := (Machine.sigOf i).isSome

/-- Whether the fields that select between two constructors of one opcode select this one. -/
def Instr.formOk : Instr → Bool
  | .sgath f => !f.k && f.d != 0
  | .sgathSp f => f.k || f.d == 0
  | .sharr f => !f.sub.getLsbD 0
  | .sharrInit f => f.sub.getLsbD 0
  | _ => true

/-- A well-formed instruction word (R124, rows RESERVED, DEST and OPERAND). -/
def Instr.wf (i : Instr) : Bool := i.isWord && i.formOk && (Machine.staticCheck i).isNone

end Sys2Proof
end

