-- ==== Sys2Proof/Decode.lean ====
section
/-! DEFINITION. Decoding instruction words: from 64 bits to an instruction, or a rejection by name (R116–R126), and the
encoder. -/

namespace Sys2Proof

open Sys2Proof.Machine (bits staticCheck)

/-- Bits [lo+n-1:lo] of a word as a field. -/
def fld (w : Word) (lo n : Nat) : BitVec n := w.extractLsb' lo n

/-- Bit n of a word. -/
def flag (w : Word) (n : Nat) : Bool := w.getLsbD n

/-- The guard of a word (R116). -/
def guardOf (w : Word) : Guard := ⟨flag w 63, flag w 62, fld w 58 4⟩

/-- The fields of a word by format (R117, R118). -/
def baseOf (w : Word) : BaseF :=
  ⟨guardOf w, fld w 40 8, fld w 32 8, fld w 24 8, fld w 16 8, flag w 15, fld w 12 3, fld w 0 12⟩
def immOf (w : Word) : ImmF := ⟨guardOf w, fld w 40 8, fld w 32 8, fld w 0 32⟩
def jumpOf (w : Word) : JumpF := ⟨guardOf w, fld w 40 8, fld w 32 8, fld w 0 32⟩
def memOf (w : Word) : MemF :=
  ⟨guardOf w, fld w 40 8, fld w 32 8, fld w 24 8, fld w 21 3, fld w 19 2, fld w 17 2, flag w 16, flag w 15, fld w 12 3,
    fld w 10 2, fld w 8 2, fld w 0 8⟩
def mxOf (w : Word) : MxF :=
  ⟨guardOf w, fld w 40 8, fld w 32 8, fld w 24 8, fld w 20 4, flag w 19, fld w 16 3, flag w 15, fld w 13 2, flag w 12,
    fld w 0 12⟩
def shOf (w : Word) : ShF :=
  ⟨guardOf w, fld w 40 8, fld w 32 8, fld w 24 8, fld w 16 8, flag w 15, fld w 12 3, fld w 8 4, fld w 4 4, flag w 3,
    fld w 0 3⟩
def syOf (w : Word) : SyF :=
  ⟨guardOf w, fld w 40 8, fld w 32 8, fld w 24 8, fld w 16 8, flag w 15, fld w 12 3, fld w 10 2, fld w 8 2, flag w 7,
    fld w 4 3, fld w 0 4⟩


/-- Group 0 of the opcode map (R126), by minor. -/
def decodeGroup0 (m : Nat) (w : Word) : Option Instr :=
  match m with
  | 0 => some (.mov (baseOf w))
  | 1 => some (.movi (immOf w))
  | 2 => some (.movh (immOf w))
  | 3 => some (.sel (baseOf w))
  | 4 => some (.add (baseOf w))
  | 5 => some (.sub (baseOf w))
  | 6 => some (.mul (baseOf w))
  | 7 => some (.mulh (baseOf w))
  | 8 => some (.mulhu (baseOf w))
  | 9 => some (.mad (baseOf w))
  | 10 => some (.div (baseOf w))
  | 11 => some (.divu (baseOf w))
  | 12 => some (.rem (baseOf w))
  | 13 => some (.remu (baseOf w))
  | 14 => some (.min (baseOf w))
  | 15 => some (.max (baseOf w))
  | 16 => some (.minu (baseOf w))
  | 17 => some (.maxu (baseOf w))
  | 18 => some (.abs (baseOf w))
  | 19 => some (.neg (baseOf w))
  | 20 => some (.addi (immOf w))
  | 21 => some (.shl (baseOf w))
  | 22 => some (.shr (baseOf w))
  | 23 => some (.sar (baseOf w))
  | 24 => some (.and (baseOf w))
  | 25 => some (.or (baseOf w))
  | 26 => some (.xor (baseOf w))
  | 27 => some (.not (baseOf w))
  | 28 => some (.andn (baseOf w))
  | 29 => some (.lea (baseOf w))
  | _ => none

/-- Group 1 of the opcode map (R126), by minor. -/
def decodeGroup1 (m : Nat) (w : Word) : Option Instr :=
  match m with
  | 0 => some (.popc (baseOf w))
  | 1 => some (.clz (baseOf w))
  | 2 => some (.ctz (baseOf w))
  | 3 => some (.brev (baseOf w))
  | 4 => some (.bswap (baseOf w))
  | 5 => some (.rol (baseOf w))
  | 6 => some (.ror (baseOf w))
  | 7 => some (.bfx (baseOf w))
  | 8 => some (.bfxu (baseOf w))
  | 9 => some (.bfi (baseOf w))
  | 10 => some (.lxPick (baseOf w))
  | 11 => some (.lxShf (baseOf w))
  | 12 => some (.lxRot (baseOf w))
  | 13 => some (.lxFlip (baseOf w))
  | 14 => some (.prdcOr (baseOf w))
  | 15 => some (.prdcAnd (baseOf w))
  | 16 => some (.prdcMsk (baseOf w))
  | 17 => some (.eqmask (baseOf w))
  | 18 => some (.partm (baseOf w))
  | 19 => some (.wredAdd (baseOf w))
  | 20 => some (.wredMin (baseOf w))
  | 21 => some (.wredMax (baseOf w))
  | 22 => some (.wredAnd (baseOf w))
  | 23 => some (.wredOr (baseOf w))
  | 24 => some (.wredXor (baseOf w))
  | _ => none

/-- Group 2 of the opcode map (R126), by minor. -/
def decodeGroup2 (m : Nat) (w : Word) : Option Instr :=
  match m with
  | 0 => some (.icmp (baseOf w))
  | 1 => some (.icmpu (baseOf w))
  | 2 => some (.tstb (baseOf w))
  | 3 => some (.pand (baseOf w))
  | 4 => some (.por (baseOf w))
  | 5 => some (.pxor (baseOf w))
  | 6 => some (.pnot (baseOf w))
  | 7 => some (.pmov (baseOf w))
  | 8 => some (.pset (baseOf w))
  | 9 => some (.pget (baseOf w))
  | _ => none

/-- Group 3 of the opcode map (R126), by minor. -/
def decodeGroup3 (m : Nat) (w : Word) : Option Instr :=
  match m with
  | 0 => some (.nop (baseOf w))
  | 1 => some (.yield (baseOf w))
  | 2 => some (.br (jumpOf w))
  | 3 => some (.brx (baseOf w))
  | 4 => some (.call (jumpOf w))
  | 5 => some (.callx (baseOf w))
  | 6 => some (.ret (baseOf w))
  | 7 => some (.unwind (jumpOf w))
  | 8 => some (.exit (baseOf w))
  | 9 => some (.ldf (baseOf w))
  | 10 => some (.stf (baseOf w))
  | 11 => some (.frq (baseOf w))
  | _ => none

/-- Group 4 of the opcode map (R126), by minor. -/
def decodeGroup4 (m : Nat) (w : Word) : Option Instr :=
  match m with
  | 0 => some (.fadd (baseOf w))
  | 1 => some (.fsub (baseOf w))
  | 2 => some (.fmul (baseOf w))
  | 3 => some (.ffma (baseOf w))
  | 4 => some (.fmin (baseOf w))
  | 5 => some (.fmax (baseOf w))
  | 6 => some (.fabs (baseOf w))
  | 7 => some (.fneg (baseOf w))
  | 8 => some (.fdiv (baseOf w))
  | 9 => some (.fsqrt (baseOf w))
  | 10 => some (.frcp (baseOf w))
  | 11 => some (.frsq (baseOf w))
  | 12 => some (.fcmp (baseOf w))
  | 13 => some (.fclass (baseOf w))
  | 16 => some (.padd2 (baseOf w))
  | 17 => some (.psub2 (baseOf w))
  | 18 => some (.pmul2 (baseOf w))
  | 19 => some (.pfma2 (baseOf w))
  | 20 => some (.pmin2 (baseOf w))
  | 21 => some (.pmax2 (baseOf w))
  | _ => none

/-- Group 5 of the opcode map (R126), by minor. -/
def decodeGroup5 (m : Nat) (w : Word) : Option Instr :=
  match m with
  | 0 => some (.dadd (baseOf w))
  | 1 => some (.dsub (baseOf w))
  | 2 => some (.dmul (baseOf w))
  | 3 => some (.dfma (baseOf w))
  | 4 => some (.ddiv (baseOf w))
  | 5 => some (.dsqrt (baseOf w))
  | 6 => some (.dmin (baseOf w))
  | 7 => some (.dmax (baseOf w))
  | 8 => some (.dcmp (baseOf w))
  | 9 => some (.dclass (baseOf w))
  | 16 => some (.fexp2 (baseOf w))
  | 17 => some (.flog2 (baseOf w))
  | 18 => some (.fsin (baseOf w))
  | 19 => some (.fcos (baseOf w))
  | 20 => some (.ftanh (baseOf w))
  | 32 => some (.cvt (baseOf w))
  | 33 => some (.frnd (baseOf w))
  | _ => none

/-- Group 6 of the opcode map (R126), by minor. -/
def decodeGroup6 (m : Nat) (w : Word) : Option Instr :=
  match m with
  | 0 => some (.qnt (baseOf w))
  | 1 => some (.dqnt (baseOf w))
  | 2 => some (.bmrd (baseOf w))
  | 3 => some (.bmwr (baseOf w))
  | 4 => some (.amxrd (baseOf w))
  | 5 => some (.amxpsh (baseOf w))
  | 6 => some (.amxcmt (baseOf w))
  | 7 => some (.amxclr (baseOf w))
  | _ => none

/-- Group 7 of the opcode map (R126), by minor. -/
def decodeGroup7 (m : Nat) (w : Word) : Option Instr :=
  match m with
  | 0 => some (.ld (memOf w))
  | 1 => some (.st (memOf w))
  | 2 => some (.fld (memOf w))
  | 3 => some (.spld (memOf w))
  | 4 => some (.spst (memOf w))
  | 5 => some (.pref (memOf w))
  | _ => none

/-- Group 8 of the opcode map (R126), by minor. -/
def decodeGroup8 (m : Nat) (w : Word) : Option Instr :=
  match m with
  | 0 => some (.ldref (memOf w))
  | 1 => some (.stref (memOf w))
  | 2 => some (.rderive (baseOf w))
  | 3 => some (.refadd (baseOf w))
  | 4 => some (.rinfo (baseOf w))
  | 5 => some (.oalloc (baseOf w))
  | 6 => some (.ofree (baseOf w))
  | _ => none

/-- Group 9 of the opcode map (R126), by minor. -/
def decodeGroup9 (m : Nat) (w : Word) : Option Instr :=
  match m with
  | 0 => some (.atom (syOf w))
  | 1 => some (.red (syOf w))
  | 2 => some (.fence (syOf w))
  | _ => none

/-- Group 10 of the opcode map (R126), by minor. -/
def decodeGroup10 (m : Nat) (w : Word) : Option Instr :=
  match m with
  | 0 => some (.mma (mxOf w))
  | 1 => some (.acz (mxOf w))
  | 2 => some (.acrd (mxOf w))
  | 3 => some (.acrdQ (mxOf w))
  | 4 => some (.acwr (mxOf w))
  | 5 => some (.acred (mxOf w))
  | 6 => some (.acscl (mxOf w))
  | _ => none

/-- Group 11 of the opcode map (R126), by minor. -/
def decodeGroup11 (m : Nat) (w : Word) : Option Instr :=
  match m with
  | 0 => some (.scpy (shOf w))
  | 1 => some (if (shOf w).k || (shOf w).d == 0 then .sgathSp (shOf w) else .sgath (shOf w))
  | 2 => some (.sscat (shOf w))
  | 3 => some (.ssadd (shOf w))
  | 4 => some (.sput (shOf w))
  | 5 => some (.sfill (shOf w))
  | 6 => some (.sqcp (shOf w))
  | 7 => some (.lyset (baseOf w))
  | _ => none

/-- Group 12 of the opcode map (R126), by minor. -/
def decodeGroup12 (m : Nat) (w : Word) : Option Instr :=
  match m with
  | 0 => some (.bar (syOf w))
  | 1 => some (.bara (syOf w))
  | 2 => some (if (syOf w).sub.getLsbD 0 then .sharrInit (syOf w) else .sharr (syOf w))
  | 3 => some (.shwait (syOf w))
  | 4 => some (.cwait (syOf w))
  | 5 => some (.mwait (syOf w))
  | 6 => some (.pub (syOf w))
  | 7 => some (.pubw (syOf w))
  | 8 => some (.launch (syOf w))
  | 9 => some (.launchi (syOf w))
  | 10 => some (.hcall (syOf w))
  | 11 => some (.hcallNb (syOf w))
  | 12 => some (.uintr (syOf w))
  | _ => none

/-- Group 13 of the opcode map (R126), by minor. -/
def decodeGroup13 (m : Nat) (w : Word) : Option Instr :=
  match m with
  | 0 => some (.srd (baseOf w))
  | 1 => some (.swr (baseOf w))
  | 2 => some (.trap (baseOf w))
  | 3 => some (.tfence (baseOf w))
  | 4 => some (.rft (baseOf w))
  | 5 => some (.park (baseOf w))
  | 6 => some (.clrpsn (baseOf w))
  | _ => none

/-- The instruction of a word: its fields as they stand; none where the opcode is reserved (R126). SGATH's two forms and
SHARR's two forms share an opcode (R262, R300). -/
def decodeShape (w : Word) : Option Instr :=
  let m := bits w 53 48
  match bits w 57 54 with
  | 0 => decodeGroup0 m w
  | 1 => decodeGroup1 m w
  | 2 => decodeGroup2 m w
  | 3 => decodeGroup3 m w
  | 4 => decodeGroup4 m w
  | 5 => decodeGroup5 m w
  | 6 => decodeGroup6 m w
  | 7 => decodeGroup7 m w
  | 8 => decodeGroup8 m w
  | 9 => decodeGroup9 m w
  | 10 => decodeGroup10 m w
  | 11 => decodeGroup11 m w
  | 12 => decodeGroup12 m w
  | 13 => decodeGroup13 m w
  | _ => none

/-- Why a word is rejected (R124): the opcode is reserved, or one of the static checks fails. -/
inductive DecodeError where
  | opcode
  | reserved
  | dest
  | operand
  deriving DecidableEq, Repr

/-- The name of a static check's sub-cause. -/
def errorOf (sub : Byte) : DecodeError :=
  if sub = 5 then .reserved else if sub = 8 then .dest else .operand

/-- Decode a word, rejecting by name: OPCODE, then the static rows of R124. -/
def decode (w : Word) : Except DecodeError Instr :=
  match decodeShape w with
  | none => .error .opcode
  | some i =>
    match staticCheck i with
    | some sub => .error (errorOf sub)
    | none => .ok i

/-- The clause header and the instruction words are little-endian dwords (R5, R105): the word of eight bytes. -/
def wordOfBytes (bs : List Byte) : Word := BitVec.ofNat 64 (Sys2Proof.Machine.ofBytes (bs.take 8))

/-- The instruction that the decoder reads from an instruction whose bits are w, at most 64 of them; the bits above nbits
are 0. -/
def decodeTableWord (nbits w : Nat) : Option Instr :=
  match decode (wordOfBytes (Sys2Proof.Machine.bytesLE 8 (w % 2 ^ nbits))) with
  | .ok i => some i
  | .error _ => none

/-! ### The encoder -/

/-- A Boolean as one bit. -/
def bit1 (b : Bool) : BitVec 1 := BitVec.ofBool b

/-- The common fields of a word (R116). -/
def headOf (g : Guard) (opc : BitVec 10) : BitVec 16 := bit1 g.ge ++ bit1 g.gs ++ g.gp ++ opc

/-- The words of the seven formats (R117). -/
def ofBase (opc : BitVec 10) (f : BaseF) : Word :=
  headOf f.guard opc ++ f.d ++ f.a ++ f.b ++ f.c ++ bit1 f.nq ++ f.bt ++ f.md
def ofImm (opc : BitVec 10) (f : ImmF) : Word := headOf f.guard opc ++ f.d ++ f.a ++ f.imm
def ofJump (opc : BitVec 10) (f : JumpF) : Word := headOf f.guard opc ++ f.jd ++ f.a ++ f.off
def ofMem (opc : BitVec 10) (f : MemF) : Word :=
  headOf f.guard opc ++ f.d ++ f.a ++ f.b ++ f.sz ++ f.sc ++ f.rh ++ bit1 f.sx ++ bit1 f.nq ++ f.bt ++ f.ord ++ f.scope
    ++ f.imm
def ofMx (opc : BitVec 10) (f : MxF) : Word :=
  headOf f.guard opc ++ f.td ++ f.a ++ f.sb ++ f.lr ++ bit1 f.cv ++ f.ci ++ bit1 f.r15 ++ f.bt ++ bit1 f.r12 ++ f.md
def ofSh (opc : BitVec 10) (f : ShF) : Word :=
  headOf f.guard opc ++ f.d ++ f.a ++ f.b ++ f.c ++ bit1 f.k ++ f.bt ++ f.la ++ f.lb ++ bit1 f.cv ++ f.ci
def ofSy (opc : BitVec 10) (f : SyF) : Word :=
  headOf f.guard opc ++ f.d ++ f.a ++ f.b ++ f.c ++ bit1 f.nq ++ f.bt ++ f.ord ++ f.scope ++ bit1 f.cv ++ f.ci ++ f.sub


/-- The word of an instruction, from the same encoding tables (R116, R117, R126); 0 for a step that has no word. -/
def encode : Instr → Word
  | .mov f => ofBase 0x000 f
  | .movi f => ofImm 0x001 f
  | .movh f => ofImm 0x002 f
  | .sel f => ofBase 0x003 f
  | .add f => ofBase 0x004 f
  | .sub f => ofBase 0x005 f
  | .mul f => ofBase 0x006 f
  | .mulh f => ofBase 0x007 f
  | .mulhu f => ofBase 0x008 f
  | .mad f => ofBase 0x009 f
  | .div f => ofBase 0x00A f
  | .divu f => ofBase 0x00B f
  | .rem f => ofBase 0x00C f
  | .remu f => ofBase 0x00D f
  | .min f => ofBase 0x00E f
  | .max f => ofBase 0x00F f
  | .minu f => ofBase 0x010 f
  | .maxu f => ofBase 0x011 f
  | .abs f => ofBase 0x012 f
  | .neg f => ofBase 0x013 f
  | .addi f => ofImm 0x014 f
  | .shl f => ofBase 0x015 f
  | .shr f => ofBase 0x016 f
  | .sar f => ofBase 0x017 f
  | .and f => ofBase 0x018 f
  | .or f => ofBase 0x019 f
  | .xor f => ofBase 0x01A f
  | .not f => ofBase 0x01B f
  | .andn f => ofBase 0x01C f
  | .lea f => ofBase 0x01D f
  | .popc f => ofBase 0x040 f
  | .clz f => ofBase 0x041 f
  | .ctz f => ofBase 0x042 f
  | .brev f => ofBase 0x043 f
  | .bswap f => ofBase 0x044 f
  | .rol f => ofBase 0x045 f
  | .ror f => ofBase 0x046 f
  | .bfx f => ofBase 0x047 f
  | .bfxu f => ofBase 0x048 f
  | .bfi f => ofBase 0x049 f
  | .lxPick f => ofBase 0x04A f
  | .lxShf f => ofBase 0x04B f
  | .lxRot f => ofBase 0x04C f
  | .lxFlip f => ofBase 0x04D f
  | .prdcOr f => ofBase 0x04E f
  | .prdcAnd f => ofBase 0x04F f
  | .prdcMsk f => ofBase 0x050 f
  | .eqmask f => ofBase 0x051 f
  | .partm f => ofBase 0x052 f
  | .wredAdd f => ofBase 0x053 f
  | .wredMin f => ofBase 0x054 f
  | .wredMax f => ofBase 0x055 f
  | .wredAnd f => ofBase 0x056 f
  | .wredOr f => ofBase 0x057 f
  | .wredXor f => ofBase 0x058 f
  | .icmp f => ofBase 0x080 f
  | .icmpu f => ofBase 0x081 f
  | .tstb f => ofBase 0x082 f
  | .pand f => ofBase 0x083 f
  | .por f => ofBase 0x084 f
  | .pxor f => ofBase 0x085 f
  | .pnot f => ofBase 0x086 f
  | .pmov f => ofBase 0x087 f
  | .pset f => ofBase 0x088 f
  | .pget f => ofBase 0x089 f
  | .nop f => ofBase 0x0C0 f
  | .yield f => ofBase 0x0C1 f
  | .br f => ofJump 0x0C2 f
  | .brx f => ofBase 0x0C3 f
  | .call f => ofJump 0x0C4 f
  | .callx f => ofBase 0x0C5 f
  | .ret f => ofBase 0x0C6 f
  | .unwind f => ofJump 0x0C7 f
  | .exit f => ofBase 0x0C8 f
  | .ldf f => ofBase 0x0C9 f
  | .stf f => ofBase 0x0CA f
  | .frq f => ofBase 0x0CB f
  | .fadd f => ofBase 0x100 f
  | .fsub f => ofBase 0x101 f
  | .fmul f => ofBase 0x102 f
  | .ffma f => ofBase 0x103 f
  | .fmin f => ofBase 0x104 f
  | .fmax f => ofBase 0x105 f
  | .fabs f => ofBase 0x106 f
  | .fneg f => ofBase 0x107 f
  | .fdiv f => ofBase 0x108 f
  | .fsqrt f => ofBase 0x109 f
  | .frcp f => ofBase 0x10A f
  | .frsq f => ofBase 0x10B f
  | .fcmp f => ofBase 0x10C f
  | .fclass f => ofBase 0x10D f
  | .padd2 f => ofBase 0x110 f
  | .psub2 f => ofBase 0x111 f
  | .pmul2 f => ofBase 0x112 f
  | .pfma2 f => ofBase 0x113 f
  | .pmin2 f => ofBase 0x114 f
  | .pmax2 f => ofBase 0x115 f
  | .dadd f => ofBase 0x140 f
  | .dsub f => ofBase 0x141 f
  | .dmul f => ofBase 0x142 f
  | .dfma f => ofBase 0x143 f
  | .ddiv f => ofBase 0x144 f
  | .dsqrt f => ofBase 0x145 f
  | .dmin f => ofBase 0x146 f
  | .dmax f => ofBase 0x147 f
  | .dcmp f => ofBase 0x148 f
  | .dclass f => ofBase 0x149 f
  | .fexp2 f => ofBase 0x150 f
  | .flog2 f => ofBase 0x151 f
  | .fsin f => ofBase 0x152 f
  | .fcos f => ofBase 0x153 f
  | .ftanh f => ofBase 0x154 f
  | .cvt f => ofBase 0x160 f
  | .frnd f => ofBase 0x161 f
  | .qnt f => ofBase 0x180 f
  | .dqnt f => ofBase 0x181 f
  | .bmrd f => ofBase 0x182 f
  | .bmwr f => ofBase 0x183 f
  | .amxrd f => ofBase 0x184 f
  | .amxpsh f => ofBase 0x185 f
  | .amxcmt f => ofBase 0x186 f
  | .amxclr f => ofBase 0x187 f
  | .ld f => ofMem 0x1C0 f
  | .st f => ofMem 0x1C1 f
  | .fld f => ofMem 0x1C2 f
  | .spld f => ofMem 0x1C3 f
  | .spst f => ofMem 0x1C4 f
  | .pref f => ofMem 0x1C5 f
  | .ldref f => ofMem 0x200 f
  | .stref f => ofMem 0x201 f
  | .rderive f => ofBase 0x202 f
  | .refadd f => ofBase 0x203 f
  | .rinfo f => ofBase 0x204 f
  | .oalloc f => ofBase 0x205 f
  | .ofree f => ofBase 0x206 f
  | .atom f => ofSy 0x240 f
  | .red f => ofSy 0x241 f
  | .fence f => ofSy 0x242 f
  | .mma f => ofMx 0x280 f
  | .acz f => ofMx 0x281 f
  | .acrd f => ofMx 0x282 f
  | .acrdQ f => ofMx 0x283 f
  | .acwr f => ofMx 0x284 f
  | .acred f => ofMx 0x285 f
  | .acscl f => ofMx 0x286 f
  | .scpy f => ofSh 0x2C0 f
  | .sgath f => ofSh 0x2C1 f
  | .sgathSp f => ofSh 0x2C1 f
  | .sscat f => ofSh 0x2C2 f
  | .ssadd f => ofSh 0x2C3 f
  | .sput f => ofSh 0x2C4 f
  | .sfill f => ofSh 0x2C5 f
  | .sqcp f => ofSh 0x2C6 f
  | .lyset f => ofBase 0x2C7 f
  | .bar f => ofSy 0x300 f
  | .bara f => ofSy 0x301 f
  | .sharr f => ofSy 0x302 f
  | .sharrInit f => ofSy 0x302 f
  | .shwait f => ofSy 0x303 f
  | .cwait f => ofSy 0x304 f
  | .mwait f => ofSy 0x305 f
  | .pub f => ofSy 0x306 f
  | .pubw f => ofSy 0x307 f
  | .launch f => ofSy 0x308 f
  | .launchi f => ofSy 0x309 f
  | .hcall f => ofSy 0x30A f
  | .hcallNb f => ofSy 0x30B f
  | .uintr f => ofSy 0x30C f
  | .srd f => ofBase 0x340 f
  | .swr f => ofBase 0x341 f
  | .trap f => ofBase 0x342 f
  | .tfence f => ofBase 0x343 f
  | .rft f => ofBase 0x344 f
  | .park f => ofBase 0x345 f
  | .clrpsn f => ofBase 0x346 f
  | .bundleOpen _ _ => 0
  | .forcedWarp _ _ => 0
  | .icacheFill _ _ _ _ => 0
  | .asyncTrap _ => 0
  | .warpParked _ => 0
  | .resume _ _ => 0
  | .forward _ _ => 0
  | .kill _ => 0
  | .deferredResponse _ => 0
  | .remoteTimeout _ => 0
  | .frameGrant _ _ => 0
  | .dofferWake _ _ => 0
  | .spillDone _ _ => 0
  | .refillDone _ _ => 0
  | .frameRelease _ => 0
  | .objectWalk _ _ _ => 0
  | .extentFill _ _ _ _ => 0
  | .shuttleComplete _ => 0
  | .shuttleAsyncFault _ => 0
  | .sputIncrement _ => 0
  | .heldArrival _ _ => 0
  | .mmaPerform _ _ => 0
  | .aczPerform _ _ => 0
  | .walkVisit _ => 0
  | .walkComplete _ => 0
  | .mwaitReread _ _ => 0
  | .hcallReply _ => 0
  | .hcallTimeout _ => 0
  | .monitorReread _ => 0
  | .uintrDeliver _ => 0
  | .submitDmwr _ _ => 0
  | .submitBadWrite _ _ => 0
  | .take _ => 0
  | .predWatch _ _ => 0
  | .countRead _ => 0
  | .deal _ => 0
  | .admitHead _ => 0
  | .idleSteal _ => 0
  | .stealRequest _ _ => 0
  | .stealAnswer _ => 0
  | .teamRetire _ => 0
  | .gridComplete _ => 0
  | .prgo _ => 0
  | .quiesceDone _ => 0
  | .drainRequiesce _ => 0
  | .victimSkipExpire _ _ => 0
  | .flushDone _ => 0
  | .saveDone _ => 0
  | .restore _ => 0
  | .ogoDrain _ _ _ => 0
  | .ogoRelease _ _ _ => 0
  | .oinvDrain _ _ _ => 0
  | .oinvRelease _ _ _ => 0
  | .cpaddr _ _ => 0
  | .mcgo _ => 0
  | .blockCopyBlock _ => 0
  | .uidb _ _ => 0
  | .rds _ _ => 0
  | .rdx _ _ _ => 0
  | .upg _ _ _ => 0
  | .wrfull _ _ _ => 0
  | .rdu _ _ _ _ => 0
  | .wbu _ _ _ _ _ => 0
  | .rdnc _ _ => 0
  | .evs _ _ => 0
  | .wbm _ _ _ => 0
  | .dirty _ _ => 0
  | .clrp _ _ => 0
  | .inv _ _ => 0
  | .fwds _ _ => 0
  | .fwdx _ _ _ => 0
  | .wbreq _ _ => 0
  | .data _ _ _ _ => 0
  | .grant _ _ => 0
  | .invack _ => 0
  | .fwdack _ _ _ => 0
  | .fwddata _ _ _ _ => 0
  | .wback _ => 0
  | .dirtyack _ => 0
  | .miss _ => 0
  | .refuse _ => 0
  | .poison _ => 0
  | .selvedgeChange _ _ => 0
  | .heartbeatSend _ => 0
  | .heartbeat _ => 0
  | .heartbeatLoss _ => 0
  | .deathDeclare _ => 0
  | .deathNotice _ _ => 0
  | .recoveryScan _ => 0
  | .packetForward _ _ _ _ _ _ _ _ => 0
  | .rateIncrease _ => 0
  | .linkUp _ _ _ => 0
  | .laneFailure _ _ => 0
  | .widthChange _ => 0
  | .rtrn _ => 0
  | .hostSnoop _ _ => 0
  | .hostGo _ _ => 0
  | .hostBiResponse _ _ => 0
  | .hostMemRead _ _ => 0
  | .hostMemWrite _ _ => 0
  | .powerOn => 0
  | .imageBufferWrite _ _ => 0
  | .go => 0
  | .verifyDone => 0
  | .initDone _ => 0
  | .lockInterfaceRequest => 0
  | .getDeviceInterfaceReport => 0
  | .startInterfaceRequest => 0
  | .stopInterfaceRequest => 0
  | .correctedError => 0
  | .uncorrectableError _ => 0
  | .coreOffline _ => 0
  | .throttleStep _ => 0
  | .thermalStop _ => 0
  | .registerWrite _ _ => 0
  | .supervisorAccess _ _ => 0
  | .objectPoolRefill _ _ _ => 0
  | .submissionPageBind _ _ _ => 0
  | .flitReplay _ => 0
  | .localMemoryResponse _ => 0

end Sys2Proof
end

