-- ==== Sys2Proof/Machine/Access.lean ====
section
/-! DEFINITION. Reading and writing the parts of the state: one getter and one setter for each table, with the value that
an entry not listed stands for. -/

namespace Sys2Proof.Machine

/-- Warp slot of a warp key: 16 × partition + slot within its core (R310). -/
def wkSlot (wk : Nat) : Nat := wk % 64
/-- Core of a warp key. -/
def wkCore (wk : Nat) : Nat := wk / 64
/-- Partition of a warp key within its core. -/
def wkPart (wk : Nat) : Nat := wk % 64 / 16
/-- Partition of a warp key in the package. -/
def wkPk (wk : Nat) : Nat := wk / 16
/-- Key of a lane. -/
def lkOf (wk l : Nat) : Nat := wk * 32 + l
/-- The warp key that frames of a saved team carry (R394). -/
def limboWk (tk wix : Nat) : Nat := 2 ^ 40 + tk * 64 + wix
/-- The die of a core (R89: eight cores to a die). -/
def dieOf (core : Nat) : Nat := core / 8

/-- A lane of no team: everything zero, EXITED. -/
def Lane.idle : Lane :=
  { pc := ⟨0, 0⟩, cix := 0, frame := 0, st := .exited, q := List.replicate 16 Val.zero, g := [], p := 0, flags := 0
    h := false, pv := false, rpc := ⟨0, 0⟩, rix := 0, ret := Option.none }

/-- The state a warp slot has with no warp in it. -/
def Warp.idle : Warp :=
  { team := 0, wix := 0, role := .gen, ctr := [], hbase := 0, slip := 0, bankc := 0, uni := 0, dlt := 0, sherr := {}
    tout := 0, trec := {}, tlanes := [], asyncs := [], parked := false, parking := false, prun := false, step := false, note := false
    path0 := none, path1 := none, stamp := 0, since := 0, wasRdy := false, hold := 0, frozen := [], ferr := []
    fsel := 0, mwait := [] }

/-- A frame register that nothing has written: 0, FULL (R197). -/
def FReg.zero : FReg := ⟨0, .full⟩

/-- A frame that does not exist. -/
def Frame.none : Frame :=
  { wk := 0, demand := 0, depth := 0, rpc := ⟨0, 0⟩, caller := Option.none, lset := 0, rem := 0, loc := .resident 0
    regs := [], ptags := [], listed := Option.none }

/-- The record of all zero (R244). -/
def Layout.zero : Layout := ⟨Val.zero, List.replicate 7 0⟩

/-- A ring of a team at admission (R299). -/
def Ring.reset : Ring := { depth := 1, cnt := 1, ph := List.replicate 16 false, rem := List.replicate 16 1 }

/-- A team that does not exist. -/
def Team.none : Team :=
  { handle := 0, grid := 0, index := 0, realm := 0, wld := false, pri := 0, depth := 0, core := 0, basep := 0, wpt := 0
    scrk := 0, ntiles := 0, nshed := 0, gfmax := 0, imp := false, escaped := false, tmask := 0, tot := 0, done := 0
    rcc := 0, uiwarp := 0, uien := false, uiq := [], bphase := 0, barr := [], rings := [], held := [], layouts := []
    seed := 0, sbytes := [], stags := [], sblk := [], tiles := [], arena := Option.none, bump := 0, objs := []
    views := [], spill := Option.none, recs := [], spoilt := [], saves := [], reqs := [], limbo := [], kids := 0, phase := .running, order := 0
    killed := false, lost := [] }

/-- An empty amax ring (R57). -/
def Amax.reset : Amax := { slots := List.replicate 16 0, cnt := 0, head := 0, pend := 0, pv := false }

/-- An empty latch (R276). -/
def Latch.reset : Latch := { own := Option.none, cls := 0, af := 0, rows := [] }

section
variable (s : State)

def State.core (c : Nat) : Core := tget s.cores c (Core.reset c)
def State.setCore (c : Nat) (v : Core) : State := { s with cores := tput s.cores c v (Core.reset c) }
def State.part (p : Nat) : Part := tget s.parts p Part.reset
def State.setPart (p : Nat) (v : Part) : State := { s with parts := tput s.parts p v Part.reset }
def State.warp (wk : Nat) : Warp := tget s.warps wk Warp.idle
def State.setWarp (wk : Nat) (v : Warp) : State := { s with warps := tset s.warps wk v }
def State.lane (wk l : Nat) : Lane := tget s.lanes (lkOf wk l) Lane.idle
def State.setLane (wk l : Nat) (v : Lane) : State := { s with lanes := tset s.lanes (lkOf wk l) v }
def State.frame (fk : Nat) : Frame := tget s.frames fk Frame.none
def State.setFrame (fk : Nat) (v : Frame) : State := { s with frames := tset s.frames fk v }
def State.team (tk : Nat) : Team := tget s.teams tk Team.none
def State.setTeam (tk : Nat) (v : Team) : State := { s with teams := tset s.teams tk v }
def State.pageOf (p : Nat) : Page := tget s.pages p Page.reset
def State.setPage (p : Nat) (v : Page) : State := { s with pages := tput s.pages p v Page.reset }
def State.port (p : Nat) : Port := tget s.ports p Port.reset
def State.setPort (p : Nat) (v : Port) : State := { s with ports := tput s.ports p v Port.reset }
def State.setPkg (v : Pkg) : State := { s with pkg := v }

def State.modCore (c : Nat) (f : Core → Core) : State := s.setCore c (f (s.core c))
def State.modPart (p : Nat) (f : Part → Part) : State := s.setPart p (f (s.part p))
def State.modWarp (wk : Nat) (f : Warp → Warp) : State := s.setWarp wk (f (s.warp wk))
def State.modLane (wk l : Nat) (f : Lane → Lane) : State := s.setLane wk l (f (s.lane wk l))
def State.modFrame (fk : Nat) (f : Frame → Frame) : State := s.setFrame fk (f (s.frame fk))
def State.modTeam (tk : Nat) (f : Team → Team) : State := s.setTeam tk (f (s.team tk))

/-- Post a packet or a write to the outside. -/
def State.send (p : Packet) : State := { s with out := s.out ++ [p] }

/-- One port's whole rate, in units of the limiter (R358): 65,536ths. -/
def fullRate : Nat := 65536

/-- One flit in units of the rate limiter (R354, R358): 6.4 ns of a port, in 65,536ths of a port's µs. -/
def flitCost : Nat := fullRate * 64 / 10000

/-- What a request packet costs. -/
def Packet.cost (p : Packet) : Nat :=
  flitCost * Config.requestFlits (match p with | .wbu .. | .wbm .. => true | _ => false)

/-- Whether a target's rate lets a packet go now. -/
def Rate.allows (r : Rate) (p : Packet) : Bool := p.cost ≤ r.credit || fullRate ≤ r.credit

/-- Send a request packet to an agent (R358): the limiter keeps it back while the target's rate allows no more, and behind those that
it already keeps. -/
def State.request (target : Nat) (p : Packet) : State :=
  if s.pkg.heldReq.any (·.1 == target) then { s with pkg := { s.pkg with heldReq := s.pkg.heldReq ++ [(target, p)] } }
  else
    match tfind s.pkg.rates target with
    | none => s.send p
    | some r =>
      if r.allows p then
        { s.send p with pkg := { s.pkg with rates := tset s.pkg.rates target { r with credit := r.credit - p.cost } } }
      else { s with pkg := { s.pkg with heldReq := s.pkg.heldReq ++ [(target, p)] } }

/-- Something has happened that a blocked bundle may wait for. -/
def State.wake : State := { s with epoch := s.epoch + 1 }

/-- A waiter is done: it waits for nothing any more. -/
def State.unwait (w : Waiter) : State :=
  { s with
    reqs := s.reqs.map fun (r : Req) => { r with waiters := r.waiters.filter (·.1 != w) }
    transit := s.transit.filter fun t => t.who != w
    fails := s.fails.filter fun f => f.who != w
    acks := s.acks.map fun (a : Acks) => { a with waiters := a.waiters.filter (· != w) } }

/-- The team of a warp. -/
def State.teamOf (wk : Nat) : Team := s.team (s.warp wk).team

/-- A name that has never been used. -/
def State.newId : Nat × State := (s.uid, { s with uid := s.uid + 1 })

end

/-- Bundle on a path of a warp (R134). -/
def Warp.path (w : Warp) : Nat → Option Bundle
  | 0 => w.path0
  | _ => w.path1

/-- Replace the bundle on a path. -/
def Warp.setPath (w : Warp) (n : Nat) (b : Option Bundle) : Warp :=
  if n = 0 then { w with path0 := b } else { w with path1 := b }

/-- g register of a lane. -/
def Lane.getG (ln : Lane) (n : Nat) : Val := tget ln.g n Val.zero
def Lane.setG (ln : Lane) (n : Nat) (v : Val) : Lane := { ln with g := tput ln.g n v Val.zero }
/-- Predicate of a lane. -/
def Lane.getP (ln : Lane) (n : Nat) : Bool := ln.p.getLsbD n
def Lane.setP (ln : Lane) (n : Nat) (b : Bool) : Lane :=
  { ln with p := if b then ln.p ||| (1#16 <<< n) else ln.p &&& ~~~(1#16 <<< n) }
/-- Push a result onto the queue of a lane (R140). -/
def Lane.push (ln : Lane) (v : Val) : Lane := { ln with q := v :: ln.q.take 15 }

/-- Register f n of lane l in a frame. -/
def Frame.reg (f : Frame) (n l : Nat) : FReg := tget f.regs (n * 32 + l) FReg.zero
def Frame.setReg (f : Frame) (n l : Nat) (r : FReg) : Frame :=
  { f with regs := tput f.regs (n * 32 + l) r FReg.zero }
/-- Tag of the pair that holds f n, lane l. -/
def Frame.ptag (f : Frame) (n l : Nat) : Bool := tget f.ptags (n / 2 * 32 + l) false
def Frame.setPtag (f : Frame) (n l : Nat) (b : Bool) : Frame :=
  { f with ptags := tput f.ptags (n / 2 * 32 + l) b false }

/-- Whether a frame is resident, and its id (R197). -/
def Frame.fid (f : Frame) : Nat := match f.loc with | .resident i => i | _ => 0
def Frame.isRes (f : Frame) : Bool := match f.loc with | .resident _ => true | _ => false

/-- Granules of a demand (R197). -/
def granules (d : Nat) : Nat := (d + 7) / 8

/-- Frames resident in a partition of the package. -/
def State.resFrames (s : State) (pk : Nat) : List (Nat × Frame) :=
  s.frames.filter fun e => wkPk e.2.wk == pk && e.2.isRes

/-- Free granules of a partition (R197). -/
def State.freeGran (s : State) (pk : Nat) : Nat :=
  512 - ((s.resFrames pk).map fun e => granules e.2.demand).sum

/-- The lowest free frame id of a partition (R197). -/
def State.freeFid (s : State) (pk : Nat) : Nat := freshFrom ((s.resFrames pk).map fun e => e.2.fid) 512 0

/-- Warp keys of a team that hold it, rising. -/
def State.teamWarps (s : State) (tk : Nat) : List Nat := (s.warps.filter fun e => e.2.team == tk).map (·.1)

/-- Warp keys of a core that hold a warp. -/
def State.coreWarps (s : State) (c : Nat) : List Nat := (s.warps.map (·.1)).filter fun wk => wkCore wk == c

/-- The value of a completion counter: commands of it not yet subtracted (R150). -/
def Warp.counter (w : Warp) (n : Nat) : Nat := (tget w.ctr n []).length

end Sys2Proof.Machine
end

