-- ==== Sys2Proof/Machine/Operands.lean ====
section
/-! DEFINITION. Reading the operands of an instruction in one lane: the operand codes of R120, the widths of R121 and
R156, the offset rule of R220, the full and empty states of R145, the demand check of R122. -/

namespace Sys2Proof.Machine

/-! Sub-causes of OPERAND and MEMORY (R25, R367). -/

def opFREG : Byte := 0x01
def opTARGET : Byte := 0x02
def opDEMAND : Byte := 0x03
def opDEPTH : Byte := 0x04
def opINDEX : Byte := 0x05
def opALIGN : Byte := 0x06
def opUNTAGGED : Byte := 0x07
def opOFFSET : Byte := 0x08
def opLENGTH : Byte := 0x09
def opHANDLE : Byte := 0x0A
def opSHAPE : Byte := 0x0B
def opRECORD : Byte := 0x0C
def opSLOT : Byte := 0x0D
def opCOUNT : Byte := 0x0E
def opLEADER : Byte := 0x0F
def opNEST : Byte := 0x10
def opNOTRAP : Byte := 0x11
def memBOUNDS : Byte := 0x06
def memALIGN : Byte := 0x08
def memARENA : Byte := 0x09
def memNONUM : Byte := 0x0A
def memFREE : Byte := 0x0B

/-- What reading an operand gives: a value, a block of the bundle (an EMPTY register with BT 0, or a destination that is
EMPTY), or a fault of the lane. -/
inductive Rd (α : Type) where
  | ok (a : α)
  | block
  | bad (f : LaneFault)
  deriving DecidableEq, Repr

/-- Read one thing after another; the first block or fault decides. -/
def Rd.bind {α β : Type} (x : Rd α) (f : α → Rd β) : Rd β :=
  match x with
  | .ok a => f a
  | .block => .block
  | .bad e => .bad e

/-- Whether a reading meets an EMPTY register that blocks. -/
def Rd.blocks {α : Type} : Rd α → Bool
  | .block => true
  | _ => false

/-- A fault of a lane with nothing to record. -/
def flt (c : Cause) (sub : Byte) : LaneFault := { cause := c, sub := sub }

/-- OPERAND with the offending value (R367, R371). -/
def operandFault (sub : Byte) (v : Word) : LaneFault := { cause := .operand, sub := sub, opv := v }

/-- What a special operand reads (R64), zero-extended to 64 bits. -/
def special (s : State) (wk l : Nat) (code : Nat) : Word :=
  let w := s.warp wk
  let t := s.team w.team
  match code with
  | 0x21 => BitVec.ofNat 64 l
  | 0x22 => BitVec.ofNat 64 w.wix
  | 0x23 => t.index.zeroExtend 64
  | 0x24 => BitVec.ofNat 64 (wkCore wk)
  | 0x25 => BitVec.ofNat 64 s.pkg.agent
  | 0x26 => BitVec.ofNat 64 (t.wpt * 32)
  | 0x27 => (s.core (wkCore wk)).cycle
  | 0x28 => t.grid.zeroExtend 64
  | 0x29 => BitVec.ofNat 64 t.depth
  | _ => 0

/-- A small integer as 64 bits, sign-extended (R120). -/
def smallInt (code : Nat) : Word := (BitVec.ofNat 4 code).signExtend 64

/-- The frame of a lane. -/
def State.frameOf (s : State) (wk l : Nat) : Frame := s.frame (s.lane wk l).frame

/-- Two readings of one instruction: an EMPTY register that blocks decides first, since the bundle waits before any lane faults
(R145); then the first fault. -/
def Rd.both {α β γ : Type} (x : Rd α) (y : Rd β) (f : α → β → γ) : Rd γ :=
  match x, y with
  | .block, _ => .block
  | _, .block => .block
  | .bad e, _ => .bad e
  | .ok _, .bad e => .bad e
  | .ok a, .ok b => .ok (f a b)

/-- The operand code of a frame register (R120). -/
def regCode (k : Nat) : Byte := BitVec.ofNat 8 (0x40 + k)

/-- Read f n of a lane under a BT bit (R122, R145); a fault records the register's code (R371). -/
def readFReg (s : State) (wk l n : Nat) (bt : Bool) : Rd (BitVec 32) :=
  let f := s.frameOf wk l
  if f.demand ≤ n then .bad { cause := .operand, sub := 1, opv := BitVec.ofNat 64 n, reg := regCode n }
  else
    let r := f.reg n l
    match r.st with
    | .full => .ok r.val
    | .empty => if bt then .bad { cause := .deferred, sub := 1, reg := regCode n } else .block
    | .faulted => .bad { cause := .deferred, sub := 2, opv := r.val.zeroExtend 64, reg := regCode n }

/-- Read several frame registers. -/
def readFRegs (s : State) (wk l : Nat) (bt : Bool) : List Nat → Rd (List (BitVec 32))
  | [] => .ok []
  | n :: r => (readFReg s wk l n bt).both (readFRegs s wk l bt r) List.cons

/-- Read a pair of frame registers with its tag (R12). -/
def readPair (s : State) (wk l n : Nat) (bt : Bool) : Rd Val :=
  (readFReg s wk l n bt).both (readFReg s wk l (n + 1) bt) fun lo hi => ⟨hi ++ lo, (s.frameOf wk l).ptag n l⟩

/-- Read a 64-bit container, a special or a small integer (R120, R121). -/
def read64 (s : State) (wk l : Nat) (code : Byte) (bt : Bool) : Rd Val :=
  let c := code.toNat
  let ln := s.lane wk l
  if c < 0x10 then .ok (ln.q.getD c Val.zero)
  else if c < 0x20 then .ok (ln.getG (c - 0x10))
  else if c < 0x30 then .ok (Val.int (special s wk l c))
  else if c < 0x40 then .ok (Val.int (smallInt c))
  else readPair s wk l (c - 0x40) bt

/-- Read 32 bits (R139, R156): the low half of a container, or one frame register; zero-extended to 64 bits. -/
def read32 (s : State) (wk l : Nat) (code : Byte) (bt : Bool) : Rd Val :=
  let c := code.toNat
  if c < 0x40 then
    (read64 s wk l code bt).bind fun v => .ok (Val.int ((v.bits.truncate 32).zeroExtend 64))
  else (readFReg s wk l (c - 0x40) bt).bind fun v => .ok (Val.int (v.zeroExtend 64))

/-- Read an operand by the offset rule (R220): a frame register gives its 32 bits sign-extended. -/
def readOff (s : State) (wk l : Nat) (code : Byte) (bt : Bool) : Rd Val :=
  let c := code.toNat
  if c < 0x40 then (read64 s wk l code bt).bind fun v => .ok (Val.int v.bits)
  else (readFReg s wk l (c - 0x40) bt).bind fun v => .ok (Val.int (v.signExtend 64))

/-- Consecutive frame registers of a block. -/
def regRange (n k : Nat) : List Nat := (upto k).map fun m => n + m

/-- Read a source operand by its width: one value; for 16 bytes the two halves; for a block its registers. -/
def readSrc (s : State) (wk l : Nat) (w : SrcW) (code : Byte) (bt : Bool) : Rd (List Val) :=
  match w with
  | .r32 => (read32 s wk l code bt).bind fun v => .ok [v]
  | .r64 | .c64 | .c64z => (read64 s wk l code bt).bind fun v => .ok [v]
  | .off => (readOff s wk l code bt).bind fun v => .ok [v]
  | .quad =>
    let n := code.toNat - 0x40
    (readFRegs s wk l bt (regRange n 4)).bind fun vs =>
      .ok [Val.int (vs.getD 1 0 ++ vs.getD 0 0), Val.int (vs.getD 3 0 ++ vs.getD 2 0)]
  | .blk8 => (readFRegs s wk l bt (regRange (code.toNat - 0x40) 8)).bind fun vs =>
      .ok (vs.map fun v => Val.int (v.zeroExtend 64))
  | .blk16 => (readFRegs s wk l bt (regRange (code.toNat - 0x40) 16)).bind fun vs =>
      .ok (vs.map fun v => Val.int (v.zeroExtend 64))

/-- The frame registers that a destination covers. -/
def dstRegs (w : DstW) (code : Byte) : List Nat :=
  if code.toNat < 0x40 then []
  else
    let n := code.toNat - 0x40
    match w with
    | .r32 | .i32 | .def32 => [n]
    | .r64 | .def64 => [n, n + 1]
    | .defQ | .quad => regRange n 4
    | .blk8 => regRange n 8

/-- Whether frame registers that are to be written are named within the demand (R122). -/
def dstNamed (s : State) (wk l : Nat) (rs : List Nat) : Rd Unit :=
  match rs.find? fun n => (s.frameOf wk l).demand ≤ n with
  | some n => .bad { cause := .operand, sub := 1, opv := BitVec.ofNat 64 n, reg := regCode n }
  | none => .ok ()

/-- Whether some of a lane's frame registers are EMPTY (R142). -/
def anyEmpty (s : State) (wk l : Nat) (rs : List Nat) : Bool := rs.any fun n => ((s.frameOf wk l).reg n l).st == .empty

/-- Whether frame registers that are to be written are named within the demand (R122) and not EMPTY (R143). -/
def dstReady (s : State) (wk l : Nat) (rs : List Nat) : Rd Unit :=
  (dstNamed s wk l rs).bind fun _ => if anyEmpty s wk l rs then .block else .ok ()

/-- The operands of an instruction in one lane, as read. -/
structure Srcs where
  a : List Val
  b : List Val
  c : List Val
  d : List Val
  deriving DecidableEq, Repr

/-- The value of a field read as one operand. -/
def one (l : List Val) : Val := l.headD Val.zero

def Srcs.av (x : Srcs) : Val := one x.a
def Srcs.bv (x : Srcs) : Val := one x.b
def Srcs.cv (x : Srcs) : Val := one x.c
def Srcs.dv (x : Srcs) : Val := one x.d

/-- Read one operand field, if it is a source. -/
def readOpnd (s : State) (wk l : Nat) (o : Opnd) (code : Byte) (bt : Bool) : Rd (List Val) :=
  match o with
  | .src w => readSrc s wk l w code bt
  | _ => .ok []

/-- Whether a destination takes a deferred result (R141): its wait for an EMPTY register comes after the checks of the access
(R223), so the instruction itself makes it. -/
def DstW.deferred : DstW → Bool
  | .def32 | .def64 | .defQ => true
  | _ => false

/-- Make sure of one operand field, if it is a destination. -/
def checkDst (s : State) (wk l : Nat) (o : Opnd) (code : Byte) : Rd Unit :=
  match o with
  | .dst w => if w.deferred then dstNamed s wk l (dstRegs w code) else dstReady s wk l (dstRegs w code)
  | _ => .ok ()

/-- Read every source of an instruction in one lane, in the order A, B, C, D: EMPTY registers that block come first, then faults in
that order (R145). -/
def readSrcs (s : State) (wk l : Nat) (g : Sig) : Rd Srcs :=
  (readOpnd s wk l g.a g.fs.a g.fs.btA).both
    ((readOpnd s wk l g.b g.fs.b g.fs.btB).both
      ((readOpnd s wk l g.c g.fs.c g.fs.btC).both (readOpnd s wk l g.d g.fs.d g.fs.btD) Prod.mk) Prod.mk)
    fun a (t : List Val × List Val × List Val) => ⟨a, t.1, t.2.1, t.2.2⟩

/-- Read every source of an instruction in one lane, and make sure of its destinations. -/
def readAll (s : State) (wk l : Nat) (g : Sig) : Rd Srcs :=
  (readSrcs s wk l g).bind fun x =>
  (checkDst s wk l g.d g.fs.d).bind fun _ =>
  (checkDst s wk l g.a g.fs.a).bind fun _ =>
  (checkDst s wk l g.b g.fs.b).bind fun _ => .ok x

/-- The lanes in which an instruction reads its operands (R62, R445): some read them in the lowest-numbered active lane alone, a
launch in lane 0. An MMA reads as its latch stands (R276). -/
def readers (i : Instr) (active : List Nat) : List Nat :=
  match i with
  | .qnt _ | .dqnt _ | .lyset _ | .sharr _ | .sharrInit _ | .shwait _ | .rft _ | .scpy _ | .sgathSp _ | .sscat _ | .ssadd _
  | .sput _ | .sfill _ | .sqcp _ | .acrdQ _ => active.take 1
  | .launch _ | .launchi _ => active.filter (· == 0)
  | .mma _ => []
  | _ => active

/-- Whether an instruction meets an EMPTY source with BT 0 in one of its lanes (R132, R145). -/
def readsEmpty (s : State) (wk : Nat) (i : Instr) (g : Sig) (active : List Nat) : Bool :=
  (readers i active).any fun l => (readSrcs s wk l g).blocks

/-- Whether an instruction meets a register interlock in one of its lanes (R138, R143, R145). -/
def interlocked (s : State) (wk : Nat) (i : Instr) (g : Sig) (active : List Nat) : Bool :=
  (readers i active).any fun l => (readAll s wk l g).blocks

end Sys2Proof.Machine
end

