-- ==== Sys2Proof/Machine/Ops.lean ====
section
/-! DEFINITION. The shared operations of the instruction words: writing results (R139, R140, R142, R154), taking a trap and
returning from one (R369–R374, R379), opening and closing bundles (R102, R134), and the skeleton by which an instruction
issues for its bundle (R113, R116, R124, R125, R145, R146). -/

namespace Sys2Proof.Machine

/-! ### Writing results -/

/-- Write one frame register of a lane with a non-deferred value: it becomes FULL and its pair's tag 0 (R12, R142). -/
def putFReg (s : State) (fk l n : Nat) (v : BitVec 32) : State :=
  s.modFrame fk fun f => (f.setReg n l ⟨v, .full⟩).setPtag n l false

/-- Write a pair of frame registers with a tag (R12, R142). -/
def putPair (s : State) (fk l n : Nat) (v : Val) : State :=
  s.modFrame fk fun f =>
    ((f.setReg n l ⟨v.bits.truncate 32, .full⟩).setReg (n + 1) l ⟨v.bits.extractLsb' 32 32, .full⟩).setPtag n l v.tag

/-- The value that a 32-bit result is outside frame registers: zero-extended, tag 0 (R139). -/
def as32 (v : Val) : Val := Val.int ((v.bits.truncate 32).zeroExtend 64)

/-- What a destination pushes (R139, R140, R161, R231). -/
def pushVal (w : DstW) (code : Byte) (v : Val) : Val :=
  match w with
  | .r32 | .def32 | .blk8 => as32 v
  | .i32 => if code.toNat < 0x40 then Val.int v.bits else as32 v
  | .r64 | .def64 | .defQ | .quad => v

/-- Write a result to a destination of one lane and push it (R120, R140). -/
def putDst (s : State) (wk l : Nat) (w : DstW) (code : Byte) (push : Bool) (v v2 : Val) : State :=
  let c := code.toNat
  let fk := (s.lane wk l).frame
  let s1 :=
    if c < 0x10 then s
    else if c < 0x40 then s.modLane wk l fun ln => ln.setG (c - 0x10) (pushVal w code v)
    else
      match w with
      | .r32 | .i32 | .def32 | .blk8 => putFReg s fk l (c - 0x40) (v.bits.truncate 32)
      | .r64 | .def64 => putPair s fk l (c - 0x40) v
      | .defQ | .quad => putPair (putPair s fk l (c - 0x40) v) fk l (c - 0x40 + 2) v2
  if push then s1.modLane wk l fun ln => ln.push (pushVal w code v) else s1

/-- How one frame register is stored when the lanes written receive these values (R154): as one uniform value. -/
def storedUni (vs : List (BitVec 32)) : Bool :=
  match vs with
  | [] => true
  | v :: r => r.all (· == v)

/-- As base and deltas: every value within 255 above the least (R154). -/
def storedDlt (vs : List (BitVec 32)) : Bool :=
  match vs with
  | [] => true
  | v :: r =>
    let lo := r.foldl (fun m x => min m x.toNat) v.toNat
    let hi := r.foldl (fun m x => max m x.toNat) v.toNat
    hi - lo ≤ 255

/-- Count one instruction's frame-register write in CMPCNT (R154): the values written to each of its registers. DESIGN CHOICE (log 94): R154
states the classes of a 32-bit write and of a pair; all the registers that one instruction writes, up to 8, are judged together as one write. -/
def countWrite (s : State) (wk : Nat) (regs : List (List (BitVec 32))) : State :=
  if regs.isEmpty || regs.all (·.isEmpty) then s
  else if regs.all storedUni then s.modWarp wk fun w => { w with uni := w.uni + 1 }
  else if regs.all fun vs => storedUni vs || storedDlt vs then s.modWarp wk fun w => { w with dlt := w.dlt + 1 }
  else s

/-- Count the write of an instruction's deferred results once none of them is on its way (R154, log 34). -/
def landed (s : State) (wk id : Nat) : State :=
  match tfind (s.warp wk).landing id with
  | none => s
  | some g =>
    if g.path.isSome || s.defers.any fun d => d.wk == wk && d.grp == id then s
    else
      countWrite (s.modWarp wk fun w => { w with landing := tdel w.landing id }) wk
        ((upto (g.cols.headD []).length).map fun j => g.cols.map fun c => c.getD j 0)

/-- The instruction of a path has issued in every lane: no more deferred results join its write (R154). -/
def closeLanding (s : State) (wk path : Nat) : State :=
  match (s.warp wk).landing.find? fun e => e.2.path == some path with
  | none => s
  | some e => landed (s.modWarp wk fun w => { w with landing := tset w.landing e.1 { e.2 with path := none } }) wk e.1

/-- The 32-bit values that a result puts into the frame registers of its destination. -/
def regVals (w : DstW) (v v2 : Val) : List (BitVec 32) :=
  let lo := v.bits.truncate 32
  let hi := v.bits.extractLsb' 32 32
  match w with
  | .r32 | .i32 | .def32 | .blk8 => [lo]
  | .r64 | .def64 => [lo, hi]
  | .defQ | .quad => [lo, hi, v2.bits.truncate 32, v2.bits.extractLsb' 32 32]

/-- The results of one instruction, written to its destination in each lane that has one (R120, R140, R154). -/
def putResults (s : State) (wk : Nat) (w : DstW) (code : Byte) (push : Bool) (rs : List (Nat × LaneRes)) : State :=
  let vs := rs.filterMap fun e => e.2.val.map fun v => (e.1, v, e.2.val2.getD Val.zero)
  let s1 := vs.foldl (fun st e => putDst st wk e.1 w code push e.2.1 e.2.2) s
  if code.toNat < 0x40 then s1
  else
    let cols := vs.map fun e => regVals w e.2.1 e.2.2
    let k := match w with | .r32 | .i32 | .def32 | .blk8 => 1 | .r64 | .def64 => 2 | .defQ | .quad => 4
    countWrite s1 wk ((upto k).map fun j => cols.map fun c => c.getD j 0)

/-- OR flags into the sticky flags of a lane (R48, R177). -/
def raise (s : State) (wk l : Nat) (f : BitVec 7) : State :=
  if f = 0 then s else s.modLane wk l fun ln => { ln with flags := ln.flags ||| f }

/-- What one lane's result does beside its destination: predicates in order, then flags. -/
def putSide (s : State) (wk : Nat) (e : Nat × LaneRes) : State :=
  let s1 := e.2.preds.foldl (fun st p => st.modLane wk e.1 fun ln => ln.setP p.1 p.2) s
  raise s1 wk e.1 e.2.flags

/-! ### Traps -/

/-- The PC of the handler of a cause (R368). -/
def handlerPc (hbase : Word) (c : Cause) : Pc := (pcOf hbase).add (256 * c.num)

/-- Put lanes into the handler of a cause (R372): H set, at the handler's header in their current frame. -/
def enterHandler (s : State) (wk : Nat) (lanes : List Nat) (c : Cause) (pv : Bool) : State :=
  let pc := handlerPc (s.warp wk).hbase c
  lanes.foldl (fun st l => st.modLane wk l fun ln => { ln with h := true, pv := pv, pc := pc, cix := 0, st := .run }) s

/-- Start parking a warp (R373): it opens no new bundle; `WARP_PARKED` follows once its last bundle has closed. -/
def startPark (s : State) (wk : Nat) : State := s.modWarp wk fun w => { w with parking := true }

/-- Whether the lanes of a warp may issue: not while it parks, nor while it is parked (R373, R386). -/
def Warp.mayRun (w : Warp) : Bool := !w.parking && (!w.parked || w.prun)

/-- Release the latch of a bank, if the warp owns it (R276, R369). -/
def releaseLatch (s : State) (wk : Nat) : State :=
  s.modCore (wkCore wk) fun c =>
    { c with latch := c.latch.filter fun e =>
        match e.2.own with
        | some (ws, _) => ws != wkSlot wk
        | none => true }

/-- What a trap records of its place (R371, R374): header, position, opcode, and the resume point of each lane. -/
structure TrapAt where
  hdr   : Pc
  idx   : Nat
  opc   : BitVec 10
  resume : Pc
  rix   : Nat
  deriving DecidableEq, Repr

/-- Write the trap record of a warp for a set of lanes and set V (R369, R371). -/
def writeRecord (s : State) (wk : Nat) (lm : BitVec 32) (c : Cause) (sub : Byte) (t : TrapAt) (fid : Nat)
    (async pk : Bool) (clane : Nat) (usrc udat : BitVec 32) (ents : Tab TrapLane) : State :=
  s.modWarp wk fun w =>
    { w with
      trec := { v := true, async := async, nest := false, pk := pk, cause := c.code, sub := sub, opc := t.opc
                lmask := lm, hdr := t.hdr.word, idx := BitVec.ofNat 4 t.idx, clane := BitVec.ofNat 5 clane
                fid := BitVec.ofNat 9 fid, usrc := usrc, udat := udat }
      tlanes := ents }

/-- Stop lanes at an instruction: PARKED, standing at position idx of the clause at hdr (R102, R369, R370). -/
def parkLanes (s : State) (wk : Nat) (lanes : List Nat) (hdr : Pc) (idx : Nat) (waiting : Bool) : State :=
  lanes.foldl (fun st l => st.modLane wk l fun ln => { ln with pc := hdr, cix := idx, st := .parked waiting }) s

/-- Take a trap for one set of lanes (R369): write the record, set the resume points, release the latch, and route it: to
the handler or to park (R367). The lanes of a trap that parks stop where they stand. -/
def takeTrap (s : State) (wk : Nat) (lanes : List Nat) (c : Cause) (sub : Byte) (t : TrapAt) (async pk : Bool)
    (clane : Nat) (usrc udat : BitVec 32) (ents : Tab TrapLane) (park : Bool) : State :=
  let fid := match lanes with | [] => 0 | l :: _ => (s.frameOf wk l).fid
  let s1 := writeRecord s wk (maskOf lanes) c sub t fid async pk clane usrc udat ents
  let s2 := lanes.foldl (fun st l => st.modLane wk l fun ln => { ln with rpc := t.resume, rix := BitVec.ofNat 4 t.rix }) s1
  let s3 := releaseLatch s2 wk
  if park then startPark (lanes.foldl (fun st l => st.modLane wk l fun ln => { ln with st := .parked false }) s3) wk
  else enterHandler s3 wk lanes c false

/-- A fault, TRAP or PARK inside a handler (R372): the warp parks with NEST; the original fields are kept. -/
def nestTrap (s : State) (wk : Nat) (c : Cause) (sub : Byte) (t : TrapAt) : State :=
  let s1 := s.modWarp wk fun w =>
    { w with trec := { w.trec with nest := true, ncause := c.code, nsub := sub, nidx := BitVec.ofNat 4 t.idx
                                   nhdr := t.hdr.word } }
  startPark (releaseLatch s1 wk) wk

/-- The trap entry of a lane's fault (R371). -/
def trapLane (f : LaneFault) : TrapLane := { opv := f.opv, reg := f.reg, eoff := f.eoff }

/-- The lanes of a bundle that faulted on one instruction leave it (R146): those in a handler nest (R372); while V is 1 the
others wait (R370); otherwise the trap of the lowest faulting lane is taken for every lane with its cause and sub-cause,
and the rest wait (R369). -/
def faultLanes (s : State) (wk : Nat) (t : TrapAt) (fs : List (Nat × LaneFault)) (pk : Bool) : State :=
  let inH := fs.filter fun e => (s.lane wk e.1).h
  let out := fs.filter fun e => !(s.lane wk e.1).h
  let s1 := parkLanes s wk (fs.map (·.1)) t.hdr t.idx false
  let s2 := match inH with
    | [] => s1
    | e :: _ => nestTrap s1 wk e.2.cause e.2.sub t
  match out with
  | [] => s2
  | e :: _ =>
    if (s2.warp wk).trec.v then parkLanes s2 wk (out.map (·.1)) t.hdr t.idx true
    else
      let same := out.filter fun x => x.2.cause == e.2.cause && x.2.sub == e.2.sub
      let rest := out.filter fun x => !(x.2.cause == e.2.cause && x.2.sub == e.2.sub)
      let s3 := parkLanes s2 wk (rest.map (·.1)) t.hdr t.idx true
      takeTrap s3 wk (same.map (·.1)) e.2.cause e.2.sub t false pk 0 0 0 (same.map fun x => (x.1, trapLane x.2))
        (e.2.cause.parks || pk)

/-- V returns to 0: every waiting lane becomes RUN at its instruction (R370). -/
def clearV (s : State) (wk : Nat) : State :=
  let s1 := s.modWarp wk fun w => { w with trec := { w.trec with v := false } }
  (upto 32).foldl (fun st l =>
    if (st.lane wk l).st = .parked true then st.modLane wk l fun ln => { ln with st := .run } else st) s1

/-- Whether V of a warp may return to 0 (R379, R403): no lane with H, no lane of LMASK PARKED. -/
def vDone (s : State) (wk : Nat) : Bool :=
  (upto 32).all fun l =>
    !(s.lane wk l).h && !((s.warp wk).trec.lmask.getLsbD l && (s.lane wk l).st == .parked false)

/-- End the trap if nothing of it is left. -/
def settleV (s : State) (wk : Nat) : State :=
  if (s.warp wk).trec.v && vDone s wk then clearV s wk else s

/-- Resume a lane at its resume point (R374). A RIX of 0 stands at the header, as a lane at a boundary does. -/
def resumeLane (s : State) (wk l : Nat) : State :=
  s.modLane wk l fun ln => { ln with pc := ln.rpc, cix := ln.rix.toNat, st := .run }

/-! ### Bundles -/

/-- Where the lanes of a bundle go when its last instruction has issued (R112). DESIGN CHOICE (log 94): after a clause that ends at offset
2^40 the PC's 40-bit offset is 0. -/
def moveLane (b : Bundle) (s : State) (wk l : Nat) : State :=
  match tfind b.moved l with
  | some .left => s
  | some (.jump pc) => s.modLane wk l fun ln => { ln with pc := pc, cix := 0, st := .run }
  | _ => s.modLane wk l fun ln => { ln with pc := b.hdr.add (8 + 8 * b.words.length), cix := 0, st := .run }

/-- SCHED of a bundle's header (R105). -/
def Bundle.sched (b : Bundle) : Nat := bits b.hword 56 55

/-- Lanes of a bundle that stand at a boundary once it has closed. -/
def boundaryLanes (s : State) (wk : Nat) (m : BitVec 32) : List Nat :=
  (lanesOf m).filter fun l => (s.lane wk l).st == .run && (s.lane wk l).cix == 0

/-- DEBUG STEP (R374, R385): the lanes of a bundle that has closed take one trap, each at the boundary where it stands. -/
def stepTrap (s : State) (wk : Nat) (ls : List Nat) : State :=
  let pc := (s.lane wk (ls.headD 0)).pc
  ls.foldl (fun st l => st.modLane wk l fun ln => { ln with rpc := (s.lane wk l).pc, rix := 0 })
    (takeTrap s wk ls .debug 1 ⟨pc, 0, 0, pc, 0⟩ false false 0 0 0 [] false)

/-- Close a bundle after its last instruction has issued (R108, R112, R134): its lanes move, the clause counts as retired
(R391), SCHED takes effect, and with STEP set and V 0 its lanes take DEBUG STEP (R385). -/
def closeBundle (s : State) (wk path : Nat) (b : Bundle) : State :=
  let s1 := (lanesOf b.lanes).foldl (fun st l => moveLane b st wk l) s
  let now := (s.core (wkCore wk)).cycle.toNat
  let stand := boundaryLanes s1 wk b.lanes
  let s2 := s1.modWarp wk fun w =>
    { (w.setPath path none) with
      stamp := if b.sched = 1 || b.yielded then now else w.stamp
      hold := if b.sched = 2 then w.hold ||| maskOf stand else w.hold }
  let s3 := s2.modTeam (s2.warp wk).team fun t => { t with rcc := t.rcc + 1 }
  if !stand.isEmpty && (s3.warp wk).step && !(s3.warp wk).trec.v then stepTrap s3 wk stand else s3

/-! ### The skeleton of an instruction -/

/-- The bundle that issues: warp slot, path, bundle. -/
structure Ctx where
  wk   : Nat
  path : Nat
  b    : Bundle
  g    : Sig
  /-- lanes active for the instruction that have not performed it yet -/
  lanes : List Nat
  /-- every lane active for it -/
  active : List Nat
  deriving DecidableEq, Repr

/-- Whether a lane is active under a guard (R116). -/
def guardOn (s : State) (wk l : Nat) (g : Guard) : Bool :=
  !g.ge || ((s.lane wk l).getP g.gp.toNat != g.gs)

/-- The clause class of a header (R105). -/
def clsOf (hword : Word) : Option Cls :=
  match bits hword 59 57 with
  | 0 => some .ctrl | 1 => some .vec | 2 => some .mem | 3 => some .mtx | 4 => some .sht | 5 => some .sync
  | _ => none

/-- A bundle is privileged when every one of its lanes has PV 1 (R124, R387). -/
def privBundle (s : State) (wk : Nat) (b : Bundle) : Bool := (lanesOf b.lanes).all fun l => (s.lane wk l).pv

/-- Whether an instruction is privileged, or names a privileged operand: CLRPSN, and SWR of OCBASE or WORLD (R15, R376,
R381). The second is open to no warp. -/
def privFault (s : State) (wk : Nat) (b : Bundle) : Instr → Bool
  | .clrpsn _ => !privBundle s wk b
  | .swr f => bits f.md 7 0 == 0x30 || bits f.md 7 0 == 0x31
  | _ => false

/-- HANDLE (R124): a tile index at or above TILES, a shed ring at or above SHED. -/
def handleFault (t : Team) : Instr → Bool
  | .mma f | .acz f | .acrd f | .acrdQ f | .acwr f | .acred f | .acscl f => t.ntiles ≤ f.td.toNat
  | .sharr f | .sharrInit f | .shwait f => t.nshed ≤ f.d.toNat
  | .scpy f | .sgathSp f | .sscat f | .ssadd f | .sput f | .sfill f | .sqcp f => f.k && t.nshed ≤ f.ci.toNat
  | _ => false

/-- The encoding check of an instruction at issue: the first failing row of R124 from PRIV to HANDLE. -/
def encodingFault (s : State) (wk : Nat) (b : Bundle) (i : Instr) (g : Sig) : Option Byte :=
  if privFault s wk b i then some 4
  else if staticCheck i = some 5 then some 5
  else if g.cls != .any && clsOf b.hword != some g.cls then some 6
  else if g.term && b.idx + 1 < b.words.length then some 7
  else match staticCheck i with
    | some c => some c
    | none => if handleFault (s.teamOf wk) i then some 10 else none

/-- Where a fault of the bundle's current instruction stands: it resumes at the instruction (R374). -/
def faultAt (b : Bundle) (opc : BitVec 10) : TrapAt := ⟨b.hdr, b.idx, opc, b.hdr, b.idx⟩

/-- The bundle goes on: no more deferred results join the write of its instruction (R154); lanes that faulted have left; after the last instruction it closes; with no lane left its path is
free (R134). -/
def advance (s : State) (wk path : Nat) (b : Bundle) : State :=
  if b.lanes = 0 then s.modWarp wk fun w => w.setPath path none
  else if b.words.length ≤ b.idx + 1 then closeBundle (closeLanding s wk path) wk path b
  else (closeLanding s wk path).modWarp wk fun w => w.setPath path (some { b with idx := b.idx + 1, outs := [], blocked := none })

/-- The destination that an instruction's results go to: its width, its code, and whether they are pushed, which deferred results never
are (R141). ACRED writes the
destination in S and always pushes; ACRD.Q pushes only (R282). -/
def resultDst (i : Instr) (g : Sig) : DstW × Byte × Bool :=
  match i with
  | .acred f => (.r32, f.sb, true)
  | .acrdQ _ => (.r32, 0, true)
  | _ =>
    match g.d with
    | .dst w => (w, g.fs.d, !g.fs.nq && !w.deferred)
    | _ => (.r32, 0, false)

/-- How an instruction's own trap is taken (R374, R377, R380): TRAP and PARK resume after the clause; PARK sets PK and
routes to park. -/
def trapAfter : Instr → Bool
  | .trap _ | .park _ => true
  | _ => false

/-- Where a fault of an instruction stands and resumes (R374). -/
def trapAtOf (i : Instr) (b : Bundle) (opc : BitVec 10) : TrapAt :=
  if trapAfter i then { faultAt b opc with resume := b.hdr.add (8 + 8 * b.words.length), rix := 0 } else faultAt b opc

/-- Whether a trap of an instruction is made by PARK (R380). -/
def isPark : Instr → Bool
  | .park _ => true
  | _ => false

/-- YIELD resets its warp's age stamp when the clause closes (R171). -/
def isYield : Instr → Bool
  | .yield _ => true
  | _ => false

/-- Finish an instruction whose every active lane has an outcome: write the results (R140), let faulting lanes leave and
take their trap (R146, R369), move the lanes that a terminator transfers, and go on. The lanes that TRAP or PARK stops have issued
the last instruction of the clause: the trap has placed them, and their bundle closes (R134). -/
def finish (s : State) (i : Instr) (c : Ctx) (outs : List (Nat × LaneOut)) : State :=
  let oks := outs.filterMap fun e => match e.2 with | .ok r => some (e.1, r) | .fault _ => none
  let bad := outs.filterMap fun e => match e.2 with | .fault f => some (e.1, f) | .ok _ => none
  let d := resultDst i c.g
  let s1 := putResults s c.wk d.1 d.2.1 d.2.2 oks
  let s2 := oks.foldl (fun st e => putSide st c.wk e) s1
  let moved := oks.filterMap fun e => if e.2.next == .fall then none else some (e.1, e.2.next)
  let b := { c.b with
    lanes := if trapAfter i then c.b.lanes else (bad.map (·.1)).foldl dropLane c.b.lanes
    moved := c.b.moved ++ moved ++ (if trapAfter i then bad.map fun e => (e.1, .left) else [])
    yielded := c.b.yielded || isYield i }
  let s3 := if bad.isEmpty then s2 else faultLanes s2 c.wk (trapAtOf i c.b c.g.opc) bad (isPark i)
  advance s3 c.wk c.path b

/-- What the body of an instruction gives: the state it leaves and an outcome for each lane that performed it; the bundle
blocks while an active lane has none. -/
abbrev Body := State → Ctx → State × List (Nat × LaneOut)

/-- Outcomes in ascending lane order (R369). -/
def sortOuts : List (Nat × LaneOut) → List (Nat × LaneOut)
  | [] => []
  | e :: r => tset (sortOuts r) e.1 e.2

/-- Whether the bundle on a path is known to be stalled: it has blocked and nothing has happened since. -/
def stalledPath (s : State) (w : Warp) (n : Nat) : Bool :=
  match w.path n with
  | some b => b.blocked == some s.epoch
  | none => true

/-- Remember a block: the bundle tries again once something has happened. A warp whose other path is stalled too is not ready
(R138). -/
def blockBundle (s : State) (c : Ctx) (outs : List (Nat × LaneOut)) : State :=
  { s with stalls := [] }.modWarp c.wk fun w =>
    { (w.setPath c.path (some { c.b with outs := outs, blocked := some s.epoch })) with
      wasRdy := w.wasRdy && !stalledPath s w (1 - c.path) }

/-- Whether a warp's team is being quiesced (R390). -/
def State.quiescing (s : State) (wk : Nat) : Bool := (s.teamOf wk).phase == .quiescing

/-- The wait instructions of R132: those that wait for another lane, for an engine's count or for memory to change, with no limit
of time of their own (log 77). -/
def waits : Instr → Bool
  | .bar _ | .bara _ | .sharr _ | .shwait _ | .cwait _ | .mwait _ | .pubw _ | .launch _ | .launchi _ => true
  | _ => false

/-- A lane that is BLOCKED inside a clause stops at its instruction in a quiesce (R390), where it will resume; a lane in a BAR wait
stays in it, and keeps its resume point. -/
def stopLanes (s : State) (wk : Nat) (hdr : Pc) (idx : Nat) (ls : List Nat) : State :=
  ls.foldl (fun st l => (st.unwait (.lane wk l)).modLane wk l fun ln =>
    match ln.st with
    | .blocked _ => { ln with pc := hdr, cix := idx }
    | _ => { ln with pc := hdr, cix := idx, rpc := hdr, rix := BitVec.ofNat 4 idx }) s

/-- The lanes of an instruction that are BLOCKED at it, as its body has found (R132): they read a register that is EMPTY, which the operand
fields do not name. -/
def State.stallAll (s : State) (c : Ctx) : State := { s with stalls := s.stalls ++ c.lanes.map fun l => (c.wk, l) }

/-- Issue an instruction for the bundle that is being issued (R113, R116, R124, R125): the encoding checks, the active
lanes, the instruction's body, and its end once every active lane has an outcome. -/
def issue (s : State) (i : Instr) (body : Body) : Host.Outcome State Fault Refusal :=
  match s.cur, sigOf i with
  | some (wk, path), some g =>
    match (s.warp wk).path path with
    | none => .fault .noOpenBundle
    | some b =>
      match encodingFault s wk b i g with
      | some sub =>
        let all := lanesOf b.lanes
        let s1 := faultLanes s wk (faultAt b g.opc) (all.map fun l => (l, flt .illegal sub)) false
        .next (advance s1 wk path { b with lanes := 0 }).wake
      | none =>
        let active := (lanesOf b.lanes).filter fun l => guardOn s wk l g.fs.guard
        if active.isEmpty then .next (advance s wk path b).wake
        else
          let act := if b.outs.isEmpty then active else active.filter fun l => (tfind b.outs l).isNone
          let c : Ctx := ⟨wk, path, b, g, act, active⟩
          let r := body s c
          let outs := sortOuts (b.outs ++ r.2)
          if active.all fun l => (tfind outs l).isSome then .next (finish r.1 i c outs).wake
          else if r.1.quiescing wk then
            let all := waits i || readsEmpty r.1 wk i g active
            let stop := active.filter fun l => (tfind outs l).isNone && (all || r.1.stalls.contains (wk, l))
            let c1 : Ctx := { c with b := { b with lanes := stop.foldl dropLane b.lanes }, active := active.filter fun l => !stop.contains l }
            let s1 := stopLanes r.1 wk b.hdr b.idx stop
            if c1.active.all fun l => (tfind outs l).isSome then .next (finish { s1 with stalls := [] } i c1 outs).wake
            else .next (blockBundle s1 c1 outs)
          else .next (blockBundle r.1 c outs)
  | _, _ => .fault .noOpenBundle

/-- Read the operands of every lane of an instruction; a block in any lane blocks the bundle (R145). -/
def readLanes (s : State) (c : Ctx) : List Nat → Rd (List (Nat × Except LaneFault Srcs))
  | [] => .ok []
  | l :: r =>
    match readAll s c.wk l c.g with
    | .block => .block
    | .bad f => (readLanes s c r).bind fun t => .ok ((l, .error f) :: t)
    | .ok x => (readLanes s c r).bind fun t => .ok ((l, .ok x) :: t)

/-- The body of an instruction that computes each lane's result from that lane's operands alone. -/
def aluBody (f : State → Ctx → Nat → Srcs → LaneOut) : Body := fun s c =>
  match readLanes s c c.lanes with
  | .ok xs => (s, xs.map fun e => (e.1, match e.2 with | .error e' => .fault e' | .ok x => f s c e.1 x))
  | _ => (s, [])

/-- The body of an instruction that works on the state lane by lane, in ascending order (memory, references, frames): a
lane that gives no outcome waits. -/
def seqBody (f : State → Ctx → Nat → Srcs → State × Option LaneOut) : Body := fun s c =>
  match readLanes s c c.lanes with
  | .ok xs =>
    xs.foldl (fun acc e =>
      match e.2 with
      | .error e' => (acc.1, acc.2 ++ [(e.1, .fault e')])
      | .ok x =>
        let r := f acc.1 c e.1 x
        match r.2 with
        | some o => (r.1, acc.2 ++ [(e.1, o)])
        | none => (r.1, acc.2)) (s, [])
  | _ => (s, [])

/-- A fault of a one-lane operand, raised in every active lane (R445). -/
def allFault (c : Ctx) (f : LaneFault) : List (Nat × LaneOut) := c.active.map fun l => (l, .fault f)

/-- A result in every active lane. -/
def allOk (c : Ctx) (r : LaneRes) : List (Nat × LaneOut) := c.active.map fun l => (l, .ok r)

/-- The lowest-numbered active lane (R445). -/
def Ctx.lead (c : Ctx) : Nat := c.active.headD 0

/-- A lane's result: one value. -/
def res (w : Word) : LaneOut := .ok { val := some (Val.int w) }

/-- A lane's result: one value with its tag. -/
def resV (v : Val) : LaneOut := .ok { val := some v }

/-- Nothing but going on. -/
def done : LaneOut := .ok {}

end Sys2Proof.Machine
end

