-- ==== Sys2Proof/Machine/Memory.lean ====
section
/-! DEFINITION. Memory as plain data (R4, R5, R11, R14, R31, R32): bytes, word tags, block metadata and summaries of the
package's own HBM, and 128-byte lines as they move between the levels. A line number is a cell-global address divided by
128; a local line number the same of a local address. -/

namespace Sys2Proof.Machine

/-- The entries of a table whose keys lie in [lo, lo + n). -/
def tseg {α : Type} (t : Tab α) (lo n : Nat) : Tab α := t.filter fun e => lo ≤ e.1 && e.1 < lo + n

/-- A byte of memory; a byte never written reads 0, as boot clears memory (R434, log 6). -/
def Mem.byte (m : Mem) (a : Nat) : Byte := tget m.bytes a 0

/-- Tag of an 8-byte word. -/
def Mem.tag (m : Mem) (w : Nat) : Bool := tget m.tags w false

/-- FMT and SCALE of a 64-byte block. -/
def Mem.meta (m : Mem) (b : Nat) : Byte × Byte := tget m.blk b (0x00, 0x7F)

/-- DIR of a line (R331). -/
def Mem.dirOf (m : Mem) (l : Nat) : BitVec 2 := tget m.dir l 0

/-- n bytes from an address. -/
def Mem.read (m : Mem) (a n : Nat) : List Byte := let t := tseg m.bytes a n; (upto n).map fun k => tget t (a + k) 0

/-- Enter bytes from an address on; a 0 needs no entry. -/
def putBytes (m : List Host.Cell) (a : Nat) : List Byte → List Host.Cell
  | [] => m
  | b :: r => putBytes (tput m a b 0) (a + 1) r

/-- Words that n bytes from an address touch (R11). -/
def wordsOf (a n : Nat) : List Nat := if n = 0 then [] else (upto ((a + n - 1) / 8 + 1 - a / 8)).map fun k => a / 8 + k

/-- Whether any tag of a line is 1. -/
def Mem.anyTag (m : Mem) (l : Nat) : Bool := !(tseg m.tags (16 * l) 16).isEmpty

/-- LTP after a write to a line (R32): cleared when no tag is left. -/
def Mem.settleLtp (m : Mem) (l : Nat) : Mem := if m.anyTag l then m else { m with ltp := tput m.ltp l false false }

/-- Lines that n bytes from an address touch. -/
def linesOf (a n : Nat) : List Nat := if n = 0 then [] else (upto ((a + n - 1) / 128 + 1 - a / 128)).map fun k => a / 128 + k

/-- Write bytes; the tag of every word touched becomes 0 (R11, R32). -/
def Mem.write (m : Mem) (a : Nat) (bs : List Byte) : Mem :=
  let m1 := { m with bytes := putBytes m.bytes a bs
                     tags := (wordsOf a bs.length).foldl (fun t w => tput t w false false) m.tags }
  (linesOf a bs.length).foldl (fun st l => st.settleLtp l) m1

/-- Set the tag of a word, with LTP and PTP (R32). -/
def Mem.setTag (m : Mem) (w : Nat) (b : Bool) : Mem :=
  let m1 := { m with tags := tput m.tags w b false }
  if b then { m1 with ltp := tput m1.ltp (w / 16) true false, ptp := tput m1.ptp (w / 512) true false }
  else m1.settleLtp (w / 16)

/-- Write an 8-byte word with its tag as one unit (R14). -/
def Mem.writeWord (m : Mem) (a : Nat) (v : Val) : Mem :=
  (m.write a (bytesLE 8 v.bits.toNat)).setTag (a / 8) v.tag

/-- An 8-byte word with its tag. -/
def Mem.readWord (m : Mem) (a : Nat) : Val := ⟨BitVec.ofNat 64 (ofBytes (m.read a 8)), m.tag (a / 8)⟩

/-- Set format and scale of a block. -/
def Mem.setMeta (m : Mem) (b : Nat) (v : Byte × Byte) : Mem := { m with blk := tput m.blk b v (0x00, 0x7F) }

/-- Set DIR of a line. -/
def Mem.setDir (m : Mem) (l : Nat) (v : BitVec 2) : Mem := { m with dir := tput m.dir l v 0 }

/-! ### Lines -/

/-- A line as memory holds it after boot. -/
def lineCleared : LineData :=
  { bytes := List.replicate 128 0, tags := 0, fmt := [0, 0], scale := [0x7F, 0x7F] }

/-- A local line. -/
def Mem.line (m : Mem) (l : Nat) : LineData :=
  { bytes := m.read (128 * l) 128
    tags := BitVec.ofNat 16 (((upto 16).filter fun k => m.tag (16 * l + k)).foldl (fun n k => n + 2 ^ k) 0)
    fmt := [(m.meta (2 * l)).1, (m.meta (2 * l + 1)).1]
    scale := [(m.meta (2 * l)).2, (m.meta (2 * l + 1)).2] }

/-- Bytes of a line from an offset. -/
def lineGet (d : LineData) (o n : Nat) : List Byte := (d.bytes.drop o).take n

/-- A word of a line with its tag. -/
def lineWord (d : LineData) (w : Nat) : Val := ⟨BitVec.ofNat 64 (ofBytes (lineGet d (8 * w) 8)), d.tags.getLsbD w⟩

/-- Replace bytes of a list from an offset. -/
def splice (l : List Byte) (o : Nat) (bs : List Byte) : List Byte := l.take o ++ bs ++ l.drop (o + bs.length)

/-- Write bytes into a line; every word touched takes the tag `tag` (a 1 only with a whole word, R14). -/
def linePut (d : LineData) (o : Nat) (bs : List Byte) (tag : Bool) : LineData :=
  { d with bytes := splice d.bytes o bs
           tags := (wordsOf o bs.length).foldl (fun t w => setBits t w 1 (b2n tag)) d.tags }

/-- Format and scale of a block of a line. -/
def lineMeta (d : LineData) (b : Nat) : Byte × Byte := (d.fmt.getD b 0, d.scale.getD b 0x7F)

/-- Set format and scale of a block of a line. -/
def lineSetMeta (d : LineData) (b : Nat) (v : Byte × Byte) : LineData :=
  { d with fmt := d.fmt.set b v.1, scale := d.scale.set b v.2 }

/-- The mask of n bits from bit o. -/
def maskAt (w o n : Nat) : BitVec w := BitVec.ofNat w ((2 ^ n - 1) * 2 ^ o)

/-- Merge into a line the dirty parts of another (R218): bytes, word tags, block metadata. -/
def lineMerge (old new : LineData) (m : BitVec 128) (t : BitVec 16) (k : BitVec 2) : LineData :=
  { bytes := (upto 128).map fun i => if m.getLsbD i then new.bytes.getD i 0 else old.bytes.getD i 0
    tags := (old.tags &&& ~~~t) ||| (new.tags &&& t)
    fmt := (upto 2).map fun b => if k.getLsbD b then new.fmt.getD b 0 else old.fmt.getD b 0
    scale := (upto 2).map fun b => if k.getLsbD b then new.scale.getD b 0x7F else old.scale.getD b 0x7F }

/-- The summary bits of a line in which a tag is set (R32). -/
def Mem.markTag (m : Mem) (l : Nat) : Mem := { m with ltp := tput m.ltp l true false, ptp := tput m.ptp (l / 32) true false }

/-- Write a whole local line with its metadata (R33). -/
def Mem.setLine (m : Mem) (l : Nat) (d : LineData) : Mem :=
  let m1 := { m with bytes := putBytes m.bytes (128 * l) (d.bytes.take 128)
                     tags := (upto 16).foldl (fun t k => tput t (16 * l + k) (d.tags.getLsbD k) false) m.tags }
  let m2 := (m1.setMeta (2 * l) (lineMeta d 0)).setMeta (2 * l + 1) (lineMeta d 1)
  if d.tags = 0 then m2.settleLtp l
  else m2.markTag l

/-! ### Addresses (R22) -/

/-- The agent that a line number names. -/
def agentOf (line : Nat) : Nat := line / 2 ^ 33
/-- The local line number. -/
def localOf (line : Nat) : Nat := line % 2 ^ 33
/-- Whether an agent is a host agent. -/
def isHost (a : Nat) : Bool := 2000 ≤ a

/-- Program-usable bytes of the package (R3): 480 GiB less the far-line cache. -/
def usable (s : State) : Nat := (480 - s.pkg.farGiB) * 2 ^ 30

/-- Whether a cell-global address names memory (R22): the size of another package is the default of R3 (log 14). -/
def addrOk (s : State) (a : Nat) : Bool :=
  let g := a / 2 ^ 40
  if isHost g then g < 2048
  else if g = s.pkg.agent then a % 2 ^ 40 < usable s
  else g ≤ 1057 && a % 2 ^ 40 < 472 * 2 ^ 30

end Sys2Proof.Machine
end

