-- ==== Sys2Proof/Machine/Home.lean ====
section
/-! DEFINITION. The home directory of the package (R329–R336, R341–R343, R345, R350): remote-holder table, selvedge
table, and the service of the requests for one line one at a time. -/

namespace Sys2Proof.Machine

/-! ### Selvedge table (R341, R342) -/

/-- The cell of the package (R329): the lowest agent id of its packages. -/
def State.ownCell (s : State) : Nat := s.pkg.cell.foldl min s.pkg.agent

/-- Whether a cell set admits a cell (R341). -/
def State.inSet (s : State) (i cell : Nat) : Bool :=
  if i = 255 then true
  else if i = 0 then cell == s.ownCell
  else match tfind s.selSet i with
    | some cs => cs.contains cell
    | none => cell == s.ownCell

/-- Whether the cell set of a local line admits a cell (R341). -/
def State.admits (s : State) (l cell : Nat) : Bool := s.inSet (tget s.selPg (l / 512) 0).toNat cell

/-! ### Remote-holder table (R332, R333) -/

def rhtSet (l : Nat) : Nat := l % 2 ^ 21
def rhtTag (l : Nat) : Nat := l / 2 ^ 21 % 2 ^ 11

def Holder.tagOf : Holder → Nat
  | .ptrs t _ _ _ => t
  | .coarse t _ => t

/-- The ways of a set. -/
def State.ways (s : State) (l : Nat) : List (Option Holder) := tget s.rht (rhtSet l) (List.replicate 8 none)

/-- Whether a way holds the entry of a line. -/
def isWay (l : Nat) (w : Option Holder) : Bool := match w with | some h => h.tagOf == rhtTag l | none => false

/-- The entry of a line. -/
def State.holder (s : State) (l : Nat) : Option Holder := ((s.ways l).find? (isWay l)).join

/-- Replace the ways of a set. -/
def State.setWays (s : State) (l : Nat) (ws : List (Option Holder)) : State :=
  { s with rht := tput s.rht (rhtSet l) ws (List.replicate 8 none) }

/-- Enter an entry: over the line's own, else in the first free way. -/
def State.setHolder (s : State) (l : Nat) (h : Holder) : State :=
  let ws := s.ways l
  let i := (ws.findIdx? (isWay l)).getD ((ws.findIdx? Option.isNone).getD 0)
  s.setWays l (ws.set i (some h))

/-- Free the entry of a line. -/
def State.freeHolder (s : State) (l : Nat) : State := s.setWays l ((s.ways l).map fun w => if isWay l w then none else w)

/-- Whether a line that needs an entry finds its set full (R333). -/
def State.setFull (s : State) (l : Nat) : Bool := (s.holder l).isNone && (s.ways l).all Option.isSome

/-- DIR of a local line (R331). -/
def State.dir (s : State) (l : Nat) : BitVec 2 := s.hbm.dirOf l
def State.setDir (s : State) (l : Nat) (v : BitVec 2) : State := { s with hbm := s.hbm.setDir l v }

/-- Whether an L1 of the package holds a tag of a line that is set and not yet written back. -/
def State.l1Tagged (s : State) (line : Nat) : Bool :=
  s.cores.any fun e => e.2.l1.any fun x => x.line == line && x.tdirty &&& x.data.tags != 0

/-- Write a whole local line with its metadata; LTP stays 1 while a tag of the line is set in an L1 (R32). -/
def State.putLine (s : State) (l : Nat) (d : LineData) : State :=
  let m := s.hbm.setLine l d
  { s with hbm := if s.l1Tagged (s.pkg.agent * 2 ^ 33 + l) then m.markTag l else m }

/-- The line number of a local line. -/
def State.lineOf (s : State) (l : Nat) : Nat := s.pkg.agent * 2 ^ 33 + l

/-- Group of an agent in the coarse form (R332). -/
def groupOf (a : Nat) : Nat := if a < 1056 then a / 32 else 33

/-- The agents that exist beside the package (R336): packages with a valid route, and the attached host agent. -/
def State.others (s : State) : List Nat :=
  ((s.pkg.routes.filter fun e => e.2.getLsbD 63 && e.1 != s.pkg.agent).map (·.1)) ++ s.pkg.host.toList

/-- The holders that an entry names (R336). -/
def State.holdersOf (s : State) : Holder → List Nat
  | .ptrs _ _ _ ps => ps
  | .coarse _ v => s.others.filter fun a => v.getLsbD (groupOf a)

/-- Whether the package answers itself for a dead agent (R360): no live neighbour does, or it is the designated one. -/
def State.answersFor (s : State) (a : Nat) : Bool :=
  s.pkg.fenced.contains a && match tfind s.pkg.desig a with
    | some n => n == s.pkg.agent || s.pkg.fenced.contains n
    | none => true

/-- Send an invalidation (R336, R345); for a dead agent for which the package answers itself, the acknowledgement comes at once, at the
package's own next act if it collects them (R360). -/
def State.sendInv (s : State) (line dst collector : Nat) : State :=
  if isHost dst then { s.send (.backInval line dst) with biPend := s.biPend ++ [(line, collector)] }
  else if s.answersFor dst then
    (if collector = s.pkg.agent then { s with agenda := s.agenda ++ [.ackHere line] }
     else s.send (.invack line collector))
  else s.send (.inv line dst collector)

/-- Forward a request to an owner (R336); for a dead owner for which the package answers itself, the answer is Miss, at the package's own
next act (R360). -/
def State.sendFwd (s : State) (line owner : Nat) (p : Packet) : State :=
  if s.answersFor owner then { s with agenda := s.agenda ++ [.missHere line] } else s.send p

/-- Send invalidations to several holders. -/
def State.sendInvs (s : State) (line collector : Nat) (ds : List Nat) : State :=
  ds.foldl (fun st d => st.sendInv line d collector) s

/-- Make an agent the owner of a line (R331). -/
def State.grantX (s : State) (l src : Nat) (drt : Bool) : State :=
  (s.setHolder l (.ptrs (rhtTag l) (some 0) drt [src])).setDir l 2

/-- Free a line's entry: no remote holder is left. -/
def State.grantI (s : State) (l : Nat) : State := (s.freeHolder l).setDir l 0

/-- Vector of groups of some agents. -/
def vecOf (as : List Nat) : BitVec 34 := as.foldl (fun v a => v ||| (1#34 <<< groupOf a)) 0

/-- Add a sharer to an S line (R333): a free pointer, else the coarse form. -/
def State.addSharer (s : State) (l src : Nat) : State :=
  match s.holder l with
  | some (.coarse t v) => s.setHolder l (.coarse t (v ||| vecOf [src]))
  | some (.ptrs t o d ps) =>
    if ps.contains src then s
    else if ps.length < 4 then s.setHolder l (.ptrs t o d (ps ++ [src]))
    else s.setHolder l (.coarse t (vecOf (ps ++ [src])))
  | none => s.setHolder l (.ptrs (rhtTag l) none false [src])

/-- The owner of an entry. -/
def Holder.owner : Holder → Option Nat
  | .ptrs _ (some i) _ ps => ps[i]?
  | _ => none

/-! ### Service -/

/-- The line and the requester of a request row. -/
def reqLine : Instr → Nat
  | .rds _ l | .rdx _ _ l | .upg _ _ l | .wrfull _ _ l | .rdu _ _ l _ | .wbu _ _ l _ _ | .evs _ l | .wbm _ l _
  | .dirty _ l | .clrp _ l => l
  | .rdnc _ a => a / 128
  | _ => 0

def reqSrc : Instr → Nat
  | .rdx a _ _ | .upg a _ _ | .wrfull a _ _ | .rdu a _ _ _ | .wbu a _ _ _ _ => a
  | .rds x _ | .evs x _ | .wbm x _ _ | .dirty x _ | .clrp x _ | .rdnc x _ => x.agent
  | _ => 0

/-- The cell id that a request carries (R329). -/
def cellId : Instr → Nat
  | .rdx _ c _ | .upg _ c _ | .wrfull _ c _ | .rdu _ c _ _ | .wbu _ c _ _ _ => c
  | .rds x _ | .evs x _ | .wbm x _ _ | .dirty x _ | .clrp x _ | .rdnc x _ => x.cell
  | _ => 0

/-- The cell of a request that passes the selvedge check (R336, R342). -/
def reqCell : Instr → Option Nat
  | .rdx _ c _ | .upg _ c _ | .wrfull _ c _ | .wbu _ c _ _ _ => some c
  | .rdu _ c _ w => if w then some c else none
  | _ => none

/-- What a block copy's request carries above its cell id (R329): no selvedge check applies to it (R383, log 88). -/
def noCell : Nat := 2048

/-- Whether the counts of a line are zero (R339). -/
def State.noAcks (s : State) (line : Nat) : Bool := s.acks.all fun a => a.line != line

/-- The transaction that holds a line busy. -/
def State.txOf (s : State) (l : Nat) : Option HomeTx := s.homeTx.find? fun t => t.line == l

/-- Start a transaction on a line. -/
def State.startTx (s : State) (l : Nat) (what : HomeWait) (owe : List Nat) (reply : Bool) (queue : List Instr) : State :=
  { s with homeTx := s.homeTx ++ [{ line := l, what := what, owe := owe, reply := reply, queue := queue }] }

/-- Wait behind the transaction of a line. -/
def State.queueTx (s : State) (l : Nat) (i : Instr) : State :=
  { s with homeTx := s.homeTx.map fun (t : HomeTx) => if t.line = l then { t with queue := t.queue ++ [i] } else t }

/-- The owner of an entry that answers forwards: a package, not the host, whose lines are taken back with snoops (R345). -/
def Holder.answers (h : Holder) : Option Nat := h.owner.filter fun q => !isHost q

/-- Recall a line from its holders, to the home (R333, R343, R345): the transaction waits for their answers; with no holder left to
ask, the line is free at once. -/
def State.recall (s : State) (l : Nat) (what : HomeWait) : State :=
  match s.holder l with
  | none => s
  | some h =>
    let line := s.lineOf l
    let hs := s.holdersOf h
    match h.answers with
    | some q =>
      let sharers := hs.filter (· != q)
      ((s.sendFwd line q (.wbreq line q true)).sendInvs line s.pkg.agent sharers).startTx l what sharers true []
    | none => if hs.isEmpty then s.grantI l else (s.sendInvs line s.pkg.agent hs).startTx l what hs false []

/-- The write of a line by a party of the home is over (R421): no remote holder is left but the host whose own write it was (R364). -/
def State.endTaken (s : State) (l : Nat) (keep : Option Nat) : State :=
  match keep, s.holder l with
  | some a, some h =>
    let drt : Bool := match h with | .ptrs _ _ d _ => d | .coarse .. => false
    if h.owner = some a then s.setHolder l (.ptrs (rhtTag l) (some 0) drt [a])
    else if (s.holdersOf h).contains a then (s.setHolder l (.ptrs (rhtTag l) none false [a])).setDir l 1
    else s.grantI l
  | _, _ => s.grantI l

/-- Take a line back for a write by a party of the home (R421): Inv to each sharer and an invalidating WbReq to the owner, or the snoops of
R345; the home collects the answers. An owner that is a host answers like a sharer, so the line is then recalled as a whole. `keep` is
the host, if the write is its own (R364). -/
def State.takeBack (s : State) (l : Nat) (keep : Option Nat) : State :=
  match s.holder l with
  | none => s.grantI l
  | some h =>
    let line := s.lineOf l
    let hs := (s.holdersOf h).filter fun a => keep != some a
    match h.answers with
    | some q =>
      let sharers := hs.filter (· != q)
      ((s.sendFwd line q (.wbreq line q true)).sendInvs line s.pkg.agent sharers).startTx l (.taken keep) sharers true []
    | none =>
      if hs.isEmpty then s.endTaken l keep
      else
        let what : HomeWait := match h.owner with | some q => if keep = some q then .taken keep else .recall | none => .taken keep
        (s.sendInvs line s.pkg.agent hs).startTx l what hs false []

/-- Whether a write by a party of the home may go on while the answers that it has caused come in (R421): an owner has answered. -/
def HomeTx.grants (t : HomeTx) (keep : Option Nat) : Bool :=
  match t.what with
  | .taken k => !t.reply && (k.isNone || k == keep)
  | _ => false

/-- Whether the package may read a local line at home though its entry names an owner: the owner has written it back (R421). -/
def State.takenBack (s : State) (l : Nat) : Bool :=
  match s.txOf l with
  | some t => t.grants none
  | none => false

/-- Take a line from its owner alone (R343): WbReq with invalidate, or the snoop of R345; sharers keep their copies. -/
def State.recallOwner (s : State) (l : Nat) : State :=
  match (s.holder l).bind Holder.owner with
  | none => s
  | some q =>
    let line := s.lineOf l
    if isHost q then (s.sendInv line q s.pkg.agent).startTx l .unown [q] false []
    else (s.sendFwd line q (.wbreq line q true)).startTx l .unown [] true []

/-- The victim of a full set (R333): the lowest way whose line is S, or way 0. -/
def State.victim (s : State) (l : Nat) : Nat :=
  let ls := (s.ways l).map fun w => match w with | some h => h.tagOf * 2 ^ 21 + rhtSet l | none => 0
  (ls.find? fun v => s.dir v == 1).getD (ls.headD 0)

/-- No L1 of the package keeps a copy of a line. -/
def State.dropL1 (s : State) (line : Nat) : State :=
  { s with cores := s.cores.map fun (e : Nat × Core) => (e.1, { e.2 with l1 := e.2.l1.filter fun x => x.line != line }) }

/-- The owner of a line is dead (R350): the line becomes P if it may have been written, so that no copy of it is read any more
(R351), and is free otherwise; dead sharers leave a pointer entry. -/
def State.recover (s : State) (l : Nat) : State :=
  match s.holder l with
  | some (.ptrs t o d ps) =>
    let line := s.lineOf l
    let dead := s.pkg.fenced
    match (Holder.ptrs t o d ps).owner with
    | some q =>
      if dead.contains q then
        if d || 1 < ps.length then
          let rest := ps.filter fun a => !dead.contains a
          let s1 := ((s.dropL1 line).sendInvs line s.pkg.agent rest).freeHolder l
          let s2 := s1.setDir l 3
          if rest.isEmpty then s2 else s2.startTx l .recall rest false []
        else s.grantI l
      else
        let ps' := ps.filter fun a => !dead.contains a
        if ps'.length = ps.length then s else s.setHolder l (.ptrs t (some (ps'.findIdx (· == q))) d ps')
    | none =>
      let ps' := ps.filter fun a => !dead.contains a
      if ps'.isEmpty then s.grantI l else if ps'.length = ps.length then s else s.setHolder l (.ptrs t none d ps')
  | _ => s

/-- The Data of a local line. -/
def State.dataOf (s : State) (l src : Nat) (st : LineState) (ac : Nat) : State :=
  s.send (.data (s.lineOf l) src st ac (s.hbm.line l))

/-- FMT and SCALE of a local line: what a Grant carries, as metadata moves with its line though its data do not (R33, R45,
log 76). -/
def State.metaOf (s : State) (l : Nat) : List (Byte × Byte) := [s.hbm.meta (2 * l), s.hbm.meta (2 * l + 1)]

/-- A line as it is written at the home: one that comes from a host clears the tags and leaves FMT and SCALE (R11, R45). -/
def State.written (s : State) (l src : Nat) (d : LineData) : LineData :=
  if isHost src then { d with tags := 0, fmt := (s.metaOf l).map (·.1), scale := (s.metaOf l).map (·.2) } else d

/-- What a transaction asks of the owner of its line (R333, R336, R343, R421). -/
def State.forwardFor (s : State) (l : Nat) (what : HomeWait) (q : Nat) : Packet :=
  let line := s.lineOf l
  match what with
  | .request i =>
    let src := reqSrc i
    let hs := ((s.holder l).map s.holdersOf).getD []
    let others := hs.filter (· != src)
    match i with
    | .rds .. =>
      let isO := match s.holder l with | some (.ptrs _ (some _) _ ps) => 1 < ps.length | _ => false
      if isO && 4 ≤ others.length && !hs.contains src then .wbreq line q false else .fwds line q src
    | _ => .fwdx line q src (others.filter (· != q)).length
  | .own => .wbreq line q false
  | _ => .wbreq line q true

/-- Serve a request whose line is not busy and whose set has room: the table of R336. -/
def State.serveNow (s : State) (i : Instr) (l : Nat) : State :=
  let src := reqSrc i
  let line := s.lineOf l
  let h := s.holder l
  let others := (match h with | some x => s.holdersOf x | none => []).filter (· != src)
  let owner := h.bind Holder.owner
  match i with
  | .rds .. =>
    match s.dir l with
    | 0 => (s.dataOf l src .excl 0).grantX l src false
    | 1 => (s.dataOf l src .shared 0).addSharer l src
    | 2 =>
      match owner with
      | some q => (s.sendFwd line q (s.forwardFor l (.request i) q)).startTx l (.request i) [] true []
      | none => s
    | _ => s.send (.poison line src)
  | .rdx .. | .upg .. =>
    match s.dir l with
    | 0 => (s.dataOf l src .modified 0).grantX l src true
    | 1 =>
      let listed := match h with | some (.ptrs _ _ _ ps) => ps.contains src | _ => false
      let s1 := (s.sendInvs line src others)
      let isUpg := match i with | .upg .. => true | _ => false
      (if isUpg && listed then s1.send (.grant line src others.length (s.metaOf l))
       else s1.dataOf l src .modified others.length).grantX l src true
    | 2 =>
      match owner with
      | some q =>
        ((s.sendInvs line src (others.filter (· != q))).sendFwd line q (s.forwardFor l (.request i) q)).startTx l (.request i) [] true []
      | none => s
    | _ => s.send (.poison line src)
  | .wrfull .. =>
    match s.dir l with
    | 2 =>
      match owner with
      | some q =>
        let sharers := others.filter (· != q)
        (((s.sendInvs line src sharers).sendFwd line q (s.forwardFor l (.request i) q)).send
          (.grant line src sharers.length [])).startTx l (.request i) [] true []
      | none => s
    | 1 => ((s.sendInvs line src others).send (.grant line src others.length (s.metaOf l))).grantX l src true
    | _ => (s.send (.grant line src 0 (s.metaOf l))).grantX l src true
  | .rdu .. => if s.dir l = 3 then s.send (.poison line src) else s.dataOf l src .inv 0
  | .rdnc _ a =>
    if s.dir l = 3 then s.send (.poison line src)
    else s.send (.word a src (s.hbm.readWord (a % 2 ^ 40 / 8 * 8)))
  | .wbu _ _ _ ⟨m, k⟩ dat =>
    let d := s.written l src dat
    let t := (upto 16).foldl (fun (t : BitVec 16) w =>
      if (upto 8).any (fun b => m.getLsbD (8 * w + b)) then t ||| (1#16 <<< w) else t) 0
    s.putLine l (lineMerge (s.hbm.line l) d m t (if isHost src then 0 else k))
  | .evs .. =>
    match s.dir l, h with
    | 1, some (.ptrs t o d ps) =>
      if ps.contains src then
        (if ps.length ≤ 1 then s.grantI l else s.setHolder l (.ptrs t o d (ps.filter (· != src))))
      else s
    | 2, some (.ptrs t _ d ps) =>
      if owner = some src then (if ps.length ≤ 1 then s.grantI l else s)
      else if ps.contains src then
        let ps' := ps.filter (· != src)
        s.setHolder l (.ptrs t (owner.map fun q => ps'.findIdx (· == q)) d ps')
      else s
    | _, _ => s
  | .wbm _ _ d =>
    let s1 := s.send (.wback line src)
    match s.dir l, h with
    | 2, some (.ptrs t _ _ ps) =>
      if owner = some src then
        let s2 := s1.putLine l (s.written l src d)
        let ps' := ps.filter (· != src)
        if ps'.isEmpty then s2.grantI l else (s2.setHolder l (.ptrs t none false ps')).setDir l 1
      else s1
    | _, _ => s1
  | .dirty .. =>
    let s1 := s.send (.dirtyack line src)
    match s.dir l, h with
    | 2, some (.ptrs t o _ ps) => if owner = some src then s1.setHolder l (.ptrs t o true ps) else s1
    | _, _ => s1
  | .clrp .. => let s1 := s.send (.wback line src); if s.dir l = 3 then s1.setDir l 0 else s1
  | _ => s

/-- Whether a request needs an entry of the remote-holder table. -/
def needsEntry : Instr → Bool
  | .rds .. | .rdx .. | .upg .. | .wrfull .. => true
  | _ => false

/-- Whether a held request waits for the counts of a line. -/
def State.holdsReq (s : State) (line : Nat) : Bool :=
  s.fwds.any fun e => e.1 == line && match e.2 with | .home _ => true | _ => false

/-- Whether the home takes a line back from the host before it serves a request (R345): an owner that is a host agent answers a
back-invalidate snoop, no forward. -/
def State.hostOwns (s : State) (i : Instr) (l : Nat) : Bool :=
  needsEntry i && match (s.holder l).bind Holder.owner with | some q => isHost q && q != reqSrc i | none => false

/-- Whether a request is the write-back of a host that owns the line: its bytes come home at once, also while the home takes the line
back from it (R345). -/
def State.hostWb (s : State) (i : Instr) (l : Nat) : Bool :=
  match i with
  | .wbm .. => isHost (reqSrc i) && (s.holder l).bind Holder.owner == some (reqSrc i)
  | _ => false

/-- Serve a request that has reached the home (R333, R335, R336, R342, R345, R350): wait behind a busy line; the selvedge check; wait for
the acknowledgements of the home's own write of the line (R322); the recovery rule; a recall if the set is full; then the
table. -/
def State.serve (s : State) (i : Instr) : State :=
  let l := localOf (reqLine i)
  if (s.txOf l).isSome then (if s.hostWb i l then s.serveNow i l else s.queueTx l i)
  else if (match reqCell i with | some c => c < noCell && !s.admits l c | none => false) then
    s.send (.refuse (s.lineOf l) (reqSrc i))
  else if needsEntry i && !s.noAcks (s.lineOf l) || s.holdsReq (s.lineOf l) then
    { s with fwds := s.fwds ++ [(s.lineOf l, .home i)] }
  else
    let s1 := s.recover l
    if (s1.txOf l).isSome then s1.queueTx l i
    else if s1.hostOwns i l then (s1.recall l .recall).queueTx l i
    else if needsEntry i && s1.setFull l && (s1.dir l != 3 || match i with | .wrfull .. => true | _ => false) then
      let v := s1.victim l
      let s2 := if (s1.txOf v).isSome then s1 else s1.recall v .recall
      if (s2.txOf v).isSome then s2.startTx l (.room v) [] false [i] else s2.serveNow i l
    else s1.serveNow i l

/-- A transaction leaves, and with it those that wait for room in the set of its line: their requests, then its own queue, are
served in order. -/
def State.release (s : State) (t : HomeTx) : State :=
  let mine (x : HomeTx) : Bool := x.what == .room t.line
  let s1 := { s with homeTx := s.homeTx.filter fun x => !mine x }
  ((s.homeTx.filter mine).flatMap (·.queue) ++ t.queue).foldl State.serve s1.wake

/-- The holders' answers are in: enter what the transaction leaves in the directory. `dirty` says that the owner's answer brought
dirty data, `missed` that it found no copy: with a dead owner the recovery rule applies then (R350). While the selvedge
page of the line changes, the home looks next whether the change is complete (R343). -/
def State.endTx (s : State) (t : HomeTx) (missed : Bool) (dirty : Bool) : State :=
  let s1 := { s with homeTx := s.homeTx.filter fun x => x.line != t.line }
  let l := t.line
  let dead := missed && match (s1.holder l).bind Holder.owner with | some q => s.pkg.fenced.contains q | none => false
  let s2 :=
    if dead then
      match t.what with
      | .request i => (s1.recover l).serve i
      | _ => s1.recover l
    else
    match t.what with
    | .own =>
      match s1.holder l with
      | some (.ptrs tg o d ps) =>
        let ps' := if missed then ps.filter fun a => (Holder.ptrs tg o d ps).owner != some a else ps
        if ps'.isEmpty then s1.grantI l else (s1.setHolder l (.ptrs tg none false ps')).setDir l 1
      | _ => s1
    | .unown =>
      match s1.holder l with
      | some (.ptrs tg o d ps) =>
        let ps' := ps.filter fun a => (Holder.ptrs tg o d ps).owner != some a
        if ps'.isEmpty then s1.grantI l else (s1.setHolder l (.ptrs tg none false ps')).setDir l 1
      | _ => s1
    | .room _ => s1
    | .recall => if s1.dir l = 3 then s1 else s1.grantI l
    | .taken keep => if s1.dir l = 3 then s1 else s1.endTaken l keep
    | .request i =>
      let src := reqSrc i
      let full := match i with | .wrfull .. => true | _ => false
      if s1.dir l = 3 && !full then s1.serveNow i l
      else if missed && !full then (s1.grantI l).serveNow i l
      else if missed then (s1.send (.grant (s.lineOf l) src 0 (s1.metaOf l))).grantX l src true
      else
        match i, s1.holder l with
        | .rds .., some (.ptrs tg o d ps) =>
          if 4 ≤ ps.length && !ps.contains src then
            ((s1.setHolder l (.ptrs tg none false ps)).setDir l 1).serveNow i l
          else
            let ps' := if ps.contains src then ps else ps ++ [src]
            if dirty || d || 1 < ps.length then s1.setHolder l (.ptrs tg o true ps')
            else (s1.setHolder l (.ptrs tg none false ps')).setDir l 1
        | .rds .., _ => s1
        | _, _ => s1.grantX l src true
  (if (tfind s2.pkg.selWas (l / 512)).isSome then { s2 with agenda := s2.agenda ++ [.pageHere (l / 512)] } else s2).release t

/-- Finish a transaction once nothing is owed. -/
def State.settleTx (s : State) (l : Nat) (dirty : Bool) : State :=
  match s.txOf l with
  | some t => if t.owe.isEmpty && !t.reply && (match t.what with | .room _ => false | _ => true) then s.endTx t t.missed dirty else s
  | none => s

/-- Whether a live owner that answers that it has no copy is known to hold the line dirty (R332): what made it the owner is then still on
its way to it, since a dirty line is dropped only through WbM and the buffer (R338, log 92). -/
def State.grantedYet (s : State) (t : HomeTx) : Bool :=
  match s.holder t.line with
  | some (.ptrs tg o d ps) =>
    match (Holder.ptrs tg o d ps).owner with
    | some q => d && !s.pkg.fenced.contains q && (match t.what with | .request i => reqSrc i != q | _ => true)
    | none => false
  | _ => false

/-- An answer of an owner (FwdAck, WbReq data, Miss) at the home (R335, R336, R338). An owner that has not yet got what made it the owner
is asked again (log 92). -/
def State.ownerReply (s : State) (l src : Nat) (missed dirty : Bool) (d : LineData) : State :=
  match s.txOf l with
  | some t =>
    if t.reply then
      if missed && s.grantedYet t then
        match (s.holder l).bind Holder.owner with
        | some q => s.sendFwd (s.lineOf l) q (s.forwardFor l t.what q)
        | none => s
      else
        let s1 := if dirty then s.putLine l (s.written l src d) else s
        let s2 := { s1 with homeTx := s1.homeTx.map fun (x : HomeTx) =>
          if x.line = l then { x with reply := false, missed := x.missed || missed } else x }
        s2.settleTx l dirty
    else s
  | none => s

/-- Take an acknowledgement off what a list of holders owes: that of its sender, or, from an agent that is not listed, that of a
dead holder, for which its designated neighbour answers (R349, R360). -/
def tookAck (fenced owe : List Nat) (src : Nat) : List Nat :=
  if owe.contains src then owe.erase src else match owe.find? fenced.contains with | some a => owe.erase a | none => owe

/-- An acknowledgement of an invalidation that the home collects. -/
def State.homeAck (s : State) (l src : Nat) : State :=
  let s1 := { s with homeTx := s.homeTx.map fun (x : HomeTx) =>
    if x.line = l then { x with owe := tookAck s.pkg.fenced x.owe src } else x }
  s1.settleTx l false

/-- No transaction of the home waits for a dead agent (R349 steps 2 and 3): its acknowledgements count as received, and a forward to
it as missed. -/
def State.loseDead (s : State) (dead : List Nat) : State :=
  s.homeTx.foldl (fun st t =>
    match st.txOf t.line with
    | none => st
    | some x =>
      let lost := x.reply && match (st.holder x.line).bind Holder.owner with | some q => dead.contains q | none => false
      if !lost && !x.owe.any dead.contains then st
      else
        { st with homeTx := st.homeTx.map fun (y : HomeTx) =>
            if y.line = x.line then
              { y with owe := y.owe.filter (fun a => !dead.contains a), reply := y.reply && !lost, missed := y.missed || lost }
            else y
          }.settleTx x.line false) s

end Sys2Proof.Machine
end

