-- ==== Sys2Proof/Machine/Agent.lean ====
section
/-! DEFINITION. The package as an agent (R217–R219, R337–R340, R344): reading and owning lines at the point of coherence,
and the L1 of each core. An access answers with its result, with the Datre request it waits for, or with the failure of
one (R225, R346); it leaves no trace until all of it can be done. -/

namespace Sys2Proof.Machine

/-- The answer of a memory access. -/
inductive Acc (α : Type) where
  | ok (s : State) (a : α)
  /-- a request for a line (a host half: its number + 2^50) must be answered first -/
  | need (k : DReq) (line : Nat)
  | bad (r : RemoteFail)
  /-- the access stalls until something has happened that answers no request of its own: a migration ends (R30, R67) -/
  | stall

def Acc.bind {α β : Type} (x : Acc α) (f : State → α → Acc β) : Acc β :=
  match x with
  | .ok s a => f s a
  | .need k l => .need k l
  | .bad r => .bad r
  | .stall => .stall

/-- Who accesses: core, waiter, and timeout in force (R346, R361). -/
structure Who where
  core : Nat
  who  : Waiter
  usec : Nat
  deriving DecidableEq, Repr

/-- The host as a party that waits (R364). -/
def hostParty : Waiter := .core (64 * 10)

/-- Number under which a request for a host half is kept. -/
def halfKey (half : Nat) : Nat := 2 ^ 50 + half

/-! ### Acknowledgement counts (R339, R340) -/

/-- Add to the count of a line: `n` acknowledgements, of which the holders `owe` are known, for writes of some cores; a count of zero
is forgotten. -/
def State.addAcks (s : State) (line : Nat) (cores owe : List Nat) (n : Int) (deadline : Nat) : State :=
  match s.acks.find? fun a => a.line == line with
  | some a =>
    let c := a.count + n
    let rest := s.acks.filter fun a => a.line != line
    let new := cores.filter fun k => !a.cores.contains k
    { s with acks := if c = 0 then rest else rest ++ [{ a with count := c, cores := a.cores ++ new, owe := a.owe ++ owe }] }
  | none => if n = 0 then s else { s with acks := s.acks ++ [⟨line, cores, n, owe, 0, deadline, []⟩] }

/-- Count a Dirty notice of a line (R338), or its acknowledgement. -/
def State.addDirty (s : State) (line core : Nat) (deadline : Nat) : State :=
  let s1 := s.addAcks line [core] [] 1 deadline
  { s1 with acks := s1.acks.map fun (a : Acks) => if a.line = line then { a with dirties := a.dirties + 1 } else a }

/-- A core writes a line whose acknowledgements are still owed: its releases wait for them too (R219, R339). -/
def State.joinAcks (s : State) (line core : Nat) : State :=
  if s.noAcks line then s
  else
    { s with acks := s.acks.map fun (a : Acks) =>
        if a.line = line && !a.cores.contains core then { a with cores := a.cores ++ [core] } else a }

/-! ### Point of coherence -/

/-- Whether the package can send to an agent (R349, R356). -/
def State.reaches (s : State) (a : Nat) : Bool :=
  !s.pkg.fenced.contains a && (tget s.pkg.routes a 0).getLsbD 63

/-- The line with read permission at the point of coherence (R218, R337). -/
def pocLine (s : State) (line : Nat) : Acc LineData :=
  let g := agentOf line
  if g = s.pkg.agent then
    let l := localOf line
    if s.dir l = 3 then .bad .poison
    else if s.dir l = 2 && !s.takenBack l then .need .rds line
    else .ok s (s.hbm.line l)
  else
    match tfind s.copies line with
    | some c => if c.st = .inv then .need .rds line else .ok s c.data
    | none => if s.reaches g then .need .rds line else .bad .poison

/-- Whether a half lies in the memory of the host that is attached to the package: another package's host is not reached (R356,
log 80). A half from 2^45 on lies at a host-physical address that no agent's 40 bits hold (R365). -/
def State.ownHost (s : State) (half : Nat) : Bool := s.pkg.host == some (half / 2 ^ 34) || s.pkg.host.isSome && 2 ^ 45 ≤ half

/-- A half of a line homed at a host agent (R344). -/
def hostHalf (s : State) (half : Nat) : Acc (List Byte) :=
  if !s.ownHost half then .bad .poison
  else
    match tfind s.halves half with
    | some h => if h.bad then .bad .poison else if h.st = .inv then .need .rds (halfKey half) else .ok s h.bytes
    | none => .need .rds (halfKey half)

/-- Whether a copy of a line homed elsewhere carries the permission to write it (R337). -/
def Copy.writable (c : Copy) : Bool := c.st == .excl || c.st == .modified || c.st == .owned

/-- The private line as an untracked read brings it (R217): for a store, only a read with write intent, which the home has checked
(R225), or a copy that may be written. -/
def privLine (s : State) (h : Who) (line : Nat) (w : Bool) : Acc LineData :=
  let g := agentOf line
  if g = s.pkg.agent then
    if s.dir (localOf line) = 3 then .bad .poison else .ok s (s.hbm.line (localOf line))
  else
    let hit (t : Transit) : Bool := t.who == h.who && t.line == line && (t.w || !w)
    match (tfind s.copies line).filter (fun c => if w then c.writable else c.st != .inv), s.transit.find? hit with
    | some c, _ => .ok s c.data
    | none, some t => .ok s t.data
    | none, none => if s.reaches g then .need (.rdu w) line else .bad .poison

/-- The home takes a local line back for a write; the answers owed count in the writing core's acknowledgement count (R421). -/
def State.countTaken (s : State) (h : Who) (l : Nat) : State :=
  let line := s.lineOf l
  match s.txOf l with
  | some t => if s.noAcks line then s.addAcks line [h.core] t.owe t.owe.length (s.usec + h.usec) else s.joinAcks line h.core
  | none => s.joinAcks line h.core

/-- Write permission for a local line (R225, R336, R421): at once where no remote holder is left, or where none but sharers are, which are
invalidated; where there is an owner, once it has answered. The home's own accesses pass no selvedge check (R421). `keep` is the host, if
the write is its own: its copy stays (R364). -/
def takeHome (s : State) (h : Who) (l : Nat) (full : Bool) (keep : Option Nat) : Acc Unit :=
  let line := s.lineOf l
  match s.dir l with
  | 0 => .ok (s.joinAcks line h.core) ()
  | 3 => if full then .ok (s.setDir l 0) () else .bad .poison
  | d =>
    match s.txOf l with
    | some t => if t.grants keep then .ok (s.countTaken h l) () else .need .rdx line
    | none =>
      let mine := match (s.holder l).bind Holder.owner with | some q => keep = some q | none => false
      if d = 1 || mine then .ok ((s.takeBack l keep).countTaken h l) () else .need .rdx line

/-- Write permission for a published line (R225, R337, R330, R421); `full` says that the whole line will be written (R336, WrFull, which
clears P). A remote home checks the request against its selvedge table (R342). -/
def takeLine (s : State) (h : Who) (line : Nat) (full : Bool) : Acc Unit :=
  let g := agentOf line
  if g = s.pkg.agent then takeHome s h (localOf line) full none
  else
    match tfind s.copies line with
    | some c =>
      match c.st with
      | .modified => .ok (s.joinAcks line h.core) ()
      | .excl =>
        if s.reaches g then
          let s1 := { s with copies := tset s.copies line { c with st := .modified } }
          .ok ((s1.request g (.dirty line s.ownCell)).addDirty line h.core (s.usec + h.usec)) ()
        else .bad .poison
      | .inv => if s.reaches g then .need (if full then .wrfull else .rdx) line else .bad .poison
      | _ => if s.reaches g then .need .upg line else .bad .poison
    | none => if s.reaches g then .need (if full then .wrfull else .rdx) line else .bad .poison

/-- Ownership of a host half (R344). A half whose bytes are lost takes a write of all of it alone (R351, R440). -/
def ownHalf (s : State) (half : Nat) (full : Bool) : Acc Unit :=
  if !s.ownHost half then .bad .poison
  else
    match tfind s.halves half with
    | some h =>
      if h.bad then
        (if full then .ok { s with halves := tset s.halves half { h with bad := false } } () else .bad .poison)
      else
      match h.st with
      | .modified => .ok s ()
      | .excl => .ok { s with halves := tset s.halves half { h with st := .modified } } ()
      | _ => .need .rdx (halfKey half)
    | none => .need .rdx (halfKey half)

/-- Merge into a line that the package owns or is home of. -/
def mergeAt (s : State) (line : Nat) (d : LineData) (m : BitVec 128) (t : BitVec 16) (k : BitVec 2) : State :=
  if agentOf line = s.pkg.agent then
    let l := localOf line
    s.putLine l (lineMerge (s.hbm.line l) d m t k)
  else
    match tfind s.copies line with
    | some c => { s with copies := tset s.copies line { c with data := lineMerge c.data d m t k } }
    | none => { s with copies := tset s.copies line { st := .modified, data := lineMerge lineCleared d m t k } }

/-- Pieces of an access that lie in one unit of `u` bytes each: unit number, offset in it, length. -/
def pieces (u : Nat) : Nat → Nat → Nat → List (Nat × Nat × Nat)
  | 0, _, _ => []
  | f + 1, a, n =>
    if n = 0 then []
    else
      let k := min n (u - a % u)
      (a / u, a % u, k) :: pieces u f (a + k) (n - k)

/-- The pieces of an access by lines, or by halves at a host home. -/
def piecesOf (a n : Nat) : List (Nat × Nat × Nat) :=
  let u := if isHost (a / 2 ^ 40) then 64 else 128
  pieces u (n / u + 2) a n

/-- Read bytes at the point of coherence. -/
def pocBytes (s : State) (a : Nat) : List (Nat × Nat × Nat) → Acc (List Byte)
  | [] => .ok s []
  | (u, o, n) :: r =>
    (if isHost (a / 2 ^ 40) then (hostHalf s u).bind fun s1 b => .ok s1 ((b.drop o).take n)
     else (pocLine s u).bind fun s1 d => .ok s1 (lineGet d o n)).bind fun s1 b =>
      (pocBytes s1 a r).bind fun s2 c => .ok s2 (b ++ c)

/-- Read n bytes at the point of coherence. -/
def pocRead (s : State) (a n : Nat) : Acc (List Byte) := pocBytes s a (piecesOf a n)

/-- Read an 8-byte word with its tag at the point of coherence (R14); a host home keeps no tags (R344). -/
def pocWord (s : State) (a : Nat) : Acc Val :=
  if isHost (a / 2 ^ 40) then (pocRead s a 8).bind fun s1 b => .ok s1 (Val.int (BitVec.ofNat 64 (ofBytes b)))
  else (pocLine s (a / 128)).bind fun s1 d => .ok s1 (lineWord d (a % 128 / 8))

/-- Read dwords at the point of coherence. -/
def pocDwords (s : State) (a n : Nat) : Acc (List Word) :=
  (pocRead s a (8 * n)).bind fun s1 b => .ok s1 ((chunks 8 n b).map fun c => BitVec.ofNat 64 (ofBytes c))

/-- Mask of the words that n bytes from offset o of a line touch. -/
def wordMask (o n : Nat) : BitVec 16 := (wordsOf o n).foldl (fun (t : BitVec 16) w => t ||| (1#16 <<< w)) 0

/-- Write bytes at the point of coherence with ownership, which `own` takes; `tag` is the tag that each word touched takes. -/
def pocPutBy (own : State → Nat → Bool → Acc Unit) (s : State) (a : Nat) (tag : Bool) :
    List Byte → List (Nat × Nat × Nat) → Acc Unit
  | _, [] => .ok s ()
  | bs, (u, o, n) :: r =>
    let b := bs.take n
    (if isHost (a / 2 ^ 40) then
      (ownHalf s u (n == 64)).bind fun s1 _ =>
        match tfind s1.halves u with
        | some x => .ok { s1 with halves := tset s1.halves u { x with bytes := splice x.bytes o b } } ()
        | none => .ok s1 ()
     else
      (own s u (n == 128)).bind fun s1 _ =>
        .ok (mergeAt s1 u (linePut lineCleared o b tag) (maskAt 128 o n) (wordMask o n) 0) ()).bind fun s1 _ =>
      pocPutBy own s1 a tag (bs.drop n) r

/-- Write bytes at the point of coherence as an instruction or an engine of the package. -/
def pocPut (s : State) (h : Who) (a : Nat) (tag : Bool) (bs : List Byte) (ps : List (Nat × Nat × Nat)) : Acc Unit :=
  pocPutBy (fun st u full => takeLine st h u full) s a tag bs ps

/-- Write bytes at the point of coherence; tags of the words touched become 0. -/
def pocWrite (s : State) (h : Who) (a : Nat) (bs : List Byte) : Acc Unit := pocPut s h a false bs (piecesOf a bs.length)

/-- Write a word with its tag at the point of coherence (R14). -/
def pocWriteWord (s : State) (h : Who) (a : Nat) (v : Val) : Acc Unit :=
  pocPut s h a v.tag (bytesLE 8 v.bits.toNat) (piecesOf a 8)

/-- Read a 64-byte block with its metadata as one unit (R46): bytes, tags of its words, FMT and SCALE. -/
def pocBlock (s : State) (a : Nat) : Acc (List Byte × List Bool × Byte × Byte) :=
  if isHost (a / 2 ^ 40) then (hostHalf s (a / 64)).bind fun s1 b => .ok s1 (b, List.replicate 8 false, 0x00, 0x7F)
  else
    (pocLine s (a / 128)).bind fun s1 d =>
      let k := a / 64 % 2
      .ok s1 (lineGet d (64 * k) 64, (upto 8).map fun w => d.tags.getLsbD (8 * k + w), lineMeta d k)

/-- Merge a 64-byte block with its metadata into its line (R46). -/
def mergeBlock (s : State) (a : Nat) (bs : List Byte) (tags : List Bool) (m : Byte × Byte) : State :=
  let k := a / 64 % 2
  let d0 := linePut lineCleared (64 * k) bs false
  let d1 := { d0 with tags := (upto 8).foldl (fun t w => setBits t (8 * k + w) 1 (b2n (tags.getD w false))) d0.tags }
  mergeAt s (a / 128) (lineSetMeta d1 k m) (maskAt 128 (64 * k) 64) (maskAt 16 (8 * k) 8) (maskAt 2 k 1)

/-- Write a 64-byte block with its metadata as one unit (R46). -/
def pocPutBlock (s : State) (h : Who) (a : Nat) (bs : List Byte) (tags : List Bool) (m : Byte × Byte) : Acc Unit :=
  if isHost (a / 2 ^ 40) then pocWrite s h a bs
  else
    (takeLine s h (a / 128) false).bind fun s1 _ => .ok (mergeBlock s1 a bs tags m) ()

/-! ### Requests -/

/-- Whether a kind of request is answered for one waiter alone. -/
def DReq.untracked : DReq → Bool
  | .rdu _ | .rdnc => true
  | _ => false

/-- The home takes a local line back from its remote holders for an access of its own (R383, R421), after the recovery rule (R350): the
owner alone writes it back for a read; a write takes it from all; a block copy, and a read of a line that a host owns, recall it. -/
def State.postHome (s : State) (k : DReq) (l : Nat) : State :=
  if (s.txOf l).isSome then s
  else
    let s1 := s.recover l
    if (s1.txOf l).isSome || s1.dir l = 0 || s1.dir l = 3 then s1
    else
      match k, (s1.holder l).bind Holder.answers with
      | .rds, some q => (s1.sendFwd (s.lineOf l) q (.wbreq (s.lineOf l) q false)).startTx l .own [] true []
      | .rds, none | .copyx, _ => s1.recall l .recall
      | _, _ => s1.takeBack l none

/-- Send a request to the home of a line, with the cell id of the package (R329); a line of the package's own home is taken back by the
home itself. -/
def State.post (s : State) (k : DReq) (line : Nat) : State :=
  if 2 ^ 50 ≤ line then
    s.send (.hostRead (line - 2 ^ 50) (k == .rdx))
  else if agentOf line = s.pkg.agent then s.postHome k (localOf line)
  else if k = .copyx then s.request (agentOf line) (.req .rdx line (agentOf line) (noCell + s.ownCell))
  else s.request (agentOf line) (.req k line (agentOf line) s.ownCell)

/-- Whether a request is a read without write intent. -/
def DReq.reads : DReq → Bool
  | .rds | .rdnc => true
  | .rdu w => !w
  | _ => false

/-- Whether a line, or a half under its number, is homed outside the package. -/
def State.farLine (s : State) (line : Nat) : Bool := 2 ^ 50 ≤ line || agentOf line != s.pkg.agent

/-- Reads of a core outstanding to homes outside the package (R229): those of its lanes, its deferred results and its prefetches; or,
with `sg`, the words of its shuttle gathers (R261). -/
def State.readsOut (s : State) (core : Nat) (sg : Bool) : Nat :=
  let mine (w : Waiter) : Bool :=
    match w with
    | .lane wk _ => !sg && wkCore wk == core
    | .defer id => s.defers.any fun d => d.id == id && wkCore d.wk == core && d.cmd.isSome == sg
    | .shuttle id => sg && (s.core core).shq.any fun j => j.id == id && j.cmd == .sgath
    | _ => false
  ((s.reqs.filter fun r => r.kind.reads && s.farLine r.line).map fun r =>
    if r.waiters.isEmpty then b2n (!sg && r.cores.contains core) else (r.waiters.filter fun w => mine w.1).length).sum

/-- Whether one more far read of a party would exceed the limit of its core (R2, R229, R261): 4,096 reads, or 8,192 shuttle-gather
words. -/
def State.readsFull (s : State) (h : Who) (k : DReq) (line : Nat) : Bool :=
  k.reads && s.farLine line && match h.who with
    | .lane _ _ => 4096 ≤ s.readsOut h.core false
    | .defer id =>
      if s.defers.any fun d => d.id == id && d.cmd.isSome then 8192 ≤ s.readsOut h.core true else 4096 ≤ s.readsOut h.core false
    | .shuttle id => (s.core h.core).shq.any (fun j => j.id == id && j.cmd == .sgath) && 8192 ≤ s.readsOut h.core true
    | _ => false

/-- Wait for a request: join one that is under way, or send it (R346); a read beyond its limit is not sent yet (R229). -/
def State.ask (s : State) (h : Who) (k : DReq) (line : Nat) : State :=
  let w := (h.who, s.usec + h.usec)
  let same (r : Req) : Bool := r.line == line && r.kind == k && (!k.untracked || r.waiters.any (·.1 == h.who))
  match s.reqs.find? same with
  | some r =>
    if r.waiters.any (·.1 == h.who) || s.readsFull h k line then s
    else
      { s with reqs := s.reqs.map fun (x : Req) =>
          if x.id = r.id then { x with waiters := x.waiters ++ [w], cores := if x.cores.contains h.core then x.cores else x.cores ++ [h.core] }
          else x }
  | none =>
    if s.readsFull h k line then s else
    let r : Req := { id := s.uid, kind := k, line := line, cores := [h.core], waiters := [w], given := none }
    { s with uid := s.uid + 1, reqs := s.reqs ++ [r] }.post k line

/-- What an attempt gives: nothing yet, a value, or the failure of a request. -/
abbrev Tried (α : Type) := Option (Except RemoteFail α)

/-- Run an access for a waiter: a failure it has still to take comes first; a missing line is asked for, and the waiter
tries again later, as it does when the access itself says that it must wait. -/
def runTry {α : Type} (s : State) (h : Who) (f : State → Acc (Tried α)) : State × Tried α :=
  match s.fails.find? fun x => x.who == h.who with
  | some x => (s.unwait h.who, some (.error x.why))
  | none =>
    match f s with
    | .ok s1 none => (s1, none)
    | .ok s1 (some r) => (s1.unwait h.who, some r)
    | .need k l => (s.ask h k l, none)
    | .bad r => (s.unwait h.who, some (.error r))
    | .stall =>
      (match h.who with
        | .lane wk l => { s with stalls := s.stalls ++ [(wk, l)] }
        | _ => s, none)

/-- Run an access that does all at once. -/
def runAcc {α : Type} (s : State) (h : Who) (f : State → Acc α) : State × Tried α :=
  runTry s h fun st => (f st).bind fun s1 a => .ok s1 (some (.ok a))

/-! ### L1 (R216–R219) -/

/-- What an L1 line is tagged by (R27): realm and object, whether the object is published, and how far the line's addresses lie above
the object's offsets. -/
structure Key where
  realm : Nat
  obj   : Nat
  pub   : Bool
  base  : Int
  deriving DecidableEq, Repr

/-- Whether an L1 line is the one under a key. -/
def isL1 (k : Key) (line : Nat) (e : L1Line) : Bool := e.realm == k.realm && e.obj == k.obj && e.line == line

/-- An L1 line. -/
def State.l1Find (s : State) (core : Nat) (k : Key) (line : Nat) : Option L1Line := (s.core core).l1.find? (isL1 k line)

/-- Replace or enter an L1 line. -/
def State.l1Set (s : State) (core : Nat) (e : L1Line) : State :=
  let k : Key := ⟨e.realm, e.obj, e.pub, e.base⟩
  s.modCore core fun c =>
    { c with l1 := if c.l1.any (isL1 k e.line) then c.l1.map fun x => if isL1 k e.line x then e else x else c.l1 ++ [e] }

/-- A private line of another home is written: what the package has asked for and what is on its way to an L1 takes the bytes too, since a
read of the line that they overtake would bring it without them (R217, R316). -/
def State.patchReads (s : State) (line : Nat) (p : Patch) : State :=
  { s with
    transit := s.transit.map fun (x : Transit) =>
      if x.line = line then { x with data := lineMerge x.data p.data p.mask p.words p.blks } else x
    reqs := s.reqs.map fun (r : Req) =>
      if r.line = line && (match r.kind with | .rdu _ => true | _ => false) then { r with newer := r.newer ++ [p] } else r }

/-- Write parts of a private line homed elsewhere: into a modified copy, else home, untracked and with the metadata (R33, R217). -/
def backPriv (s : State) (line : Nat) (d : LineData) (m : BitVec 128) (t : BitVec 16) (k : BitVec 2) : Acc Unit :=
  let s0 := s.patchReads line ⟨m, t, k, d⟩
  let s1 := if (tfind s.copies line).isSome then mergeAt s0 line d m t k else s0
  if ((tfind s.copies line).filter fun c => c.st == .modified || c.st == .owned).isSome then .ok s1 ()
  else if s.reaches (agentOf line) then .ok (s1.request (agentOf line) (.wbu line s.ownCell m k d)) ()
  else .bad .poison

/-- Whether nothing of an L1 line has still to be written back. -/
def L1Line.clean (e : L1Line) : Bool := e.dirty == 0 && e.mdirty == 0 && e.tdirty == 0

/-- Write the dirty parts of a line below L1 (R217, R218): a published line needs permission at the point of coherence; a private line
homed elsewhere goes home. -/
def l1Below (s : State) (h : Who) (e : L1Line) : Acc Unit :=
  if e.pub || agentOf e.line = s.pkg.agent then
    (if e.pub then takeLine s h e.line false else .ok s ()).bind fun s1 _ =>
      .ok (mergeAt s1 e.line e.data e.dirty e.tdirty e.mdirty) ()
  else backPriv s e.line e.data e.dirty e.tdirty e.mdirty

/-- Write the dirty parts of an L1 line back (R217, R218): the line stays, clean. -/
def l1Back (s : State) (h : Who) (e : L1Line) : Acc Unit :=
  if e.clean then .ok s ()
  else (l1Below s h e).bind fun s1 _ => .ok (s1.l1Set h.core { e with dirty := 0, tdirty := 0, mdirty := 0 }) ()

/-- Lines of an L1 (R216): 256 KiB of 128 bytes. -/
def l1Lines : Nat := 2048

/-- A core drops an L1 line. -/
def State.l1Drop (s : State) (core : Nat) (e : L1Line) : State :=
  s.modCore core fun c => { c with l1 := c.l1.filter fun x => !isL1 ⟨e.realm, e.obj, e.pub, e.base⟩ e.line x }

/-- Make room in an L1 by writing back and dropping the first of some lines that can be written back; whether there is one. -/
def l1Free (s : State) (h : Who) : List L1Line → Acc Bool
  | [] => .ok s false
  | e :: r =>
    match l1Back s h e with
    | .ok s1 _ => .ok (s1.l1Drop h.core e) true
    | .need k l => .need k l
    | .bad _ => l1Free s h r
    | .stall => .stall

/-- Room for one more line in an L1 (R2, R216, log 81): with all its lines in use it gives up the oldest clean one, or the oldest that it
can write back; the answer says whether there is room. -/
def l1Room (s : State) (h : Who) : Acc Bool :=
  let ls := (s.core h.core).l1
  if ls.length < l1Lines then .ok s true
  else
    match ls.find? L1Line.clean with
    | some e => .ok (s.l1Drop h.core e) true
    | none => l1Free s h ls

/-- Put a line into an L1 that has it, or has room for it; with every line held by bytes that cannot be written back, a line read is
not kept, and a line written goes to the point of coherence (R216, log 81). -/
def l1Keep (s : State) (h : Who) (e : L1Line) : Acc Unit :=
  if (s.l1Find h.core ⟨e.realm, e.obj, e.pub, e.base⟩ e.line).isSome then .ok (s.l1Set h.core e) ()
  else
    (l1Room s h).bind fun s1 room =>
      if room then .ok (s1.l1Set h.core e) () else if e.clean then .ok s1 () else l1Below s1 h e

/-- A line in the L1 of a core, fetched if it misses. -/
def l1Line (s : State) (h : Who) (k : Key) (line : Nat) : Acc L1Line :=
  match s.l1Find h.core k line with
  | some e => .ok s e
  | none =>
    (if k.pub then pocLine s line else privLine s h line false).bind fun s1 d =>
      let e : L1Line := ⟨k.realm, k.obj, line, k.pub, d, 0, 0, 0, k.base⟩
      (l1Keep s1 h e).bind fun s2 _ => .ok s2 e

/-- Read pieces through L1. -/
def l1Bytes (s : State) (h : Who) (k : Key) : List (Nat × Nat × Nat) → Acc (List Byte)
  | [] => .ok s []
  | (u, o, n) :: r =>
    (l1Line s h k u).bind fun s1 e => (l1Bytes s1 h k r).bind fun s2 c => .ok s2 (lineGet e.data o n ++ c)

/-- Read n bytes through L1; lines homed at a host are read at the L2 (log 12). -/
def l1Read (s : State) (h : Who) (k : Key) (a n : Nat) : Acc (List Byte) :=
  if isHost (a / 2 ^ 40) then pocRead s a n else l1Bytes s h k (piecesOf a n)

/-- Read a word with its tag through L1. -/
def l1Word (s : State) (h : Who) (k : Key) (a : Nat) : Acc Val :=
  if isHost (a / 2 ^ 40) then pocWord s a
  else (l1Line s h k (a / 128)).bind fun s1 e => .ok s1 (lineWord e.data (a % 128 / 8))

/-- The line to be written in L1, with permission (R217, R225). -/
def l1Own (s : State) (h : Who) (k : Key) (line : Nat) : Acc L1Line :=
  if k.pub then (takeLine s h line false).bind fun s1 _ => l1Line s1 h k line
  else if agentOf line = s.pkg.agent then
    if s.dir (localOf line) = 3 then .bad .poison else l1Line s h k line
  else
    match s.l1Find h.core k line with
    | some e =>
      if e.dirty != 0 then .ok s e
      else (privLine s h line true).bind fun s1 _ => .ok s1 e
    | none => (privLine s h line true).bind fun s1 d => .ok s1 ⟨k.realm, k.obj, line, false, d, 0, 0, 0, k.base⟩

/-- The home sets LTP and PTP of a local line in the update that sets a tag of it, wherever the copy that takes the tag lies (R32). -/
def State.markTag (s : State) (line : Nat) (tag : Bool) : State :=
  if tag && agentOf line = s.pkg.agent then { s with hbm := s.hbm.markTag (localOf line) } else s

/-- Write pieces into L1. -/
def l1Put (s : State) (h : Who) (k : Key) (tag : Bool) : List Byte → List (Nat × Nat × Nat) → Acc Unit
  | _, [] => .ok s ()
  | bs, (u, o, n) :: r =>
    (l1Own s h k u).bind fun s1 e =>
      let e1 := { e with data := linePut e.data o (bs.take n) tag
                         dirty := e.dirty ||| maskAt 128 o n, tdirty := e.tdirty ||| wordMask o n }
      (l1Keep s1 h e1).bind fun s2 _ => l1Put (s2.markTag u tag) h k tag (bs.drop n) r

/-- Store bytes through L1; `tag` is the tag that the words touched take. -/
def l1Write (s : State) (h : Who) (k : Key) (a : Nat) (bs : List Byte) (tag : Bool) : Acc Unit :=
  if isHost (a / 2 ^ 40) then pocWrite s h a bs else l1Put s h k tag bs (piecesOf a bs.length)

/-- Write back L1 lines one after another, keeping what is done: the state, and none when all are clean, or why it has
stopped (a wait, or a failure; the line that cannot be written back keeps its dirty bytes, as a retired store does not fail, R225). -/
def backAll (s : State) (h : Who) : List L1Line → State × Option (Option RemoteFail)
  | [] => (s, none)
  | e :: r =>
    match l1Back s h e with
    | .ok s1 _ => backAll s1 h r
    | .need k l => (s.ask h k l, some none)
    | .bad f => (s, some (some f))
    | .stall => (s, some none)

/-- The published lines of a core's L1. -/
def pubLines (s : State) (core : Nat) : List L1Line := (s.core core).l1.filter (·.pub)

/-- A party waits until the acknowledgements of a line are in (R339). -/
def State.awaitLine (s : State) (h : Who) (line : Nat) : State :=
  { s with acks := s.acks.map fun (a : Acks) =>
      if a.line = line && !a.waiters.contains h.who then { a with waiters := a.waiters ++ [h.who] } else a }

/-- A party waits until no acknowledgement is owed for what a core has written (R219, R340). -/
def awaitAcks (s : State) (h : Who) : State × Option (Option RemoteFail) :=
  if s.acks.all (fun a => !a.cores.contains h.core) then (s, none)
  else
    ({ s with acks := s.acks.map fun (a : Acks) =>
        if a.cores.contains h.core && !a.waiters.contains h.who then { a with waiters := a.waiters ++ [h.who] } else a },
      some none)

/-- Scopes (R118): 0 team, 1 package, 2 cell, 3 system. The action of a release (R219): none when it has completed, or why
it has stopped. -/
def releaseAct (s : State) (h : Who) (scope : Nat) : State × Option (Option RemoteFail) :=
  if scope = 0 then (s, none)
  else
    match s.fails.find? fun x => x.who == h.who with
    | some x => (s.unwait h.who, some (some x.why))
    | none =>
      match backAll s h (pubLines s h.core) with
      | (s1, none) => if scope = 1 then (s1, none) else awaitAcks s1 h
      | r => r

/-- The action of an acquire (R219): dirty published bytes go back, then every published line goes. -/
def acquireAct (s : State) (h : Who) (scope : Nat) : State × Option (Option RemoteFail) :=
  if scope = 0 then (s, none)
  else
    match backAll s h (pubLines s h.core) with
    | (s1, none) => (s1.modCore h.core fun c => { c with l1 := c.l1.filter fun e => !e.pub }, none)
    | r => r

/-- Who a lane of a warp is, as a party that waits. -/
def whoLane (s : State) (wk l : Nat) : Who := ⟨wkCore wk, .lane wk l, (s.warp wk).tout.toNat⟩

end Sys2Proof.Machine
end

