-- ==== Sys2Proof/Machine/Object.lean ====
section
/-! DEFINITION. Realms, object tables and the checks of an access (R15–R28, R222): the walk, the object cache, the extents,
and R25 in its order. -/

namespace Sys2Proof.Machine

/-! ### Entries (R18) -/

/-- Fields of an object entry's dwords. -/
def OcEntry.dw (e : OcEntry) (n : Nat) : Word := e.dws.getD n 0
def OcEntry.bit (e : OcEntry) (n : Nat) : Bool := (e.dw 0).getLsbD n
def OcEntry.wld (e : OcEntry) : Bool := e.bit 62
def OcEntry.vis (e : OcEntry) : Nat := bits (e.dw 0) 61 60
def OcEntry.noref (e : OcEntry) : Bool := e.bit 53
def OcEntry.mig (e : OcEntry) : Bool := e.bit 52
def OcEntry.hm (e : OcEntry) : Bool := e.bit 51
def OcEntry.view (e : OcEntry) : Bool := e.bit 50
def OcEntry.dfmt (e : OcEntry) : Byte := (e.dw 0).extractLsb' 40 8
def OcEntry.len (e : OcEntry) : Nat := bits (e.dw 0) 39 0 + 1
def OcEntry.own (e : OcEntry) : BitVec 32 := (e.dw 1).extractLsb' 32 32
/-- Parent of a view and the offset in it (R24). -/
def OcEntry.parent (e : OcEntry) : Nat := objOf (e.dw 2)
def OcEntry.voff (e : OcEntry) : Nat := offOf (e.dw 2)
/-- Bytes of a chunk (R18). -/
def OcEntry.chunk (e : OcEntry) : Nat := if (e.dw 0).getLsbD 48 then 2 ^ 30 else 2 ^ 21

/-- Rights, as bits of dword 0 (R18). -/
def rR : Nat := 59
def rW : Nat := 58
def rX : Nat := 57
def rRS : Nat := 56
def rRL : Nat := 55
def rNC : Nat := 54

/-- Whether an entry holds a right (R20, R21). -/
def OcEntry.has (e : OcEntry) (r : Nat) : Bool := e.bit r && !((r == rRS || r == rRL) && e.noref)

/-- Whether an entry is valid in a realm (R18). -/
def OcEntry.valid (e : OcEntry) : Bool :=
  e.bit 63 && !e.bit 49 && bits (e.dw 1) 31 0 == 0 && bits (e.dw 3) 31 0 == 0
    && (e.view || bits (e.dw 2) 63 51 == 0) && (e.sw || !e.wld)

/-! ### Walks (R15–R17, R26, R28) -/

/-- The realm entry (R16): the level-1 table and SW; none if it is invalid. DESIGN CHOICE (log 79): an entry whose reserved bits are not
zero is invalid; an L1B that is no multiple of its table's size is used as it stands. -/
def realmEntry (s : State) (core realm : Nat) : Acc (Option (Nat × Bool)) :=
  let b := (s.core core).ocbase
  let a := bits b 50 16 * 2 ^ 16 + 16 * realm
  if !b.getLsbD 0 || 4096 ≤ realm || !addrOk s a then .ok s none
  else
    (pocDwords s a 2).bind fun s1 d =>
      let lo := d.getD 0 0
      let hi := d.getD 1 0
      .ok s1 (if hi.getLsbD 63 && lo == 0 && bits hi 61 51 == 0 then some (bits hi 50 0, hi.getLsbD 62) else none)

/-- The last n entries of a cache that fills in order: the capacity of R27 and R28 (log 81). -/
def lastOf {α : Type} (n : Nat) (l : List α) : List α := l.drop (l.length - n)

/-- The level-1 entry of an object number, from the core's cache unless the walk is fresh. -/
def level1 (s : State) (core realm l1b idx : Nat) (fresh : Bool) : Acc (Option Nat) :=
  let dec (w : Word) : Option Nat := if w.getLsbD 63 then some (bits w 50 0) else none
  match if fresh then none else (s.core core).l1t.find? fun (e : L1tEntry) => e.realm == realm && e.idx == idx with
  | some e => .ok s (dec e.entry)
  | none =>
    let a := l1b + 8 * idx
    if !addrOk s a then .ok s none
    else
      (pocDwords s a 1).bind fun s1 d =>
        let w := d.getD 0 0
        let s2 := if w.getLsbD 63 then
            s1.modCore core fun c =>
              { c with l1t := lastOf 64 ((c.l1t.filter fun e => !(e.realm == realm && e.idx == idx)) ++ [⟨realm, idx, w⟩]) }
          else s1
        .ok s2 (dec w)

/-- Address of the entry of an object number (R17), and SW of its realm; none if a table above it is invalid. DESIGN CHOICE (log 79): a
table address that names no memory makes the entries below it invalid (INVALID, not EXTENT). -/
def entryAddr (s : State) (core realm num : Nat) (fresh : Bool) : Acc (Option (Nat × Bool)) :=
  if num = 0 then .ok s none
  else
    (realmEntry s core realm).bind fun s1 r =>
      match r with
      | none => .ok s1 none
      | some (l1b, sw) =>
        (level1 s1 core realm l1b (num / 4096) fresh).bind fun s2 t =>
          match t with
          | none => .ok s2 none
          | some l2 =>
            let a := l2 + 32 * (num % 4096)
            .ok s2 (if addrOk s2 a then some (a, sw) else none)

/-- A core uses a cached object entry: it becomes the most recently used (R28). Entries stand in the order of their last use. -/
def State.useEntry (s : State) (core : Nat) (e : OcEntry) : State :=
  s.modCore core fun c => { c with oc := (c.oc.filter fun x => !(x.realm == e.realm && x.obj == e.obj)) ++ [e] }

/-- Enter an object entry: 64 sets of 8 ways, the least recently used entry of the set going (R28); the set is named by the low bits of the
object number (log 81). -/
def ocEnter (oc : List OcEntry) (e : OcEntry) : List OcEntry :=
  let mates := oc.filter fun x => x.obj % 64 == e.obj % 64
  match mates with
  | v :: _ => (if mates.length < 8 then oc else dropFirst (· == v) oc) ++ [e]
  | [] => oc ++ [e]

/-- Drop a cached entry. -/
def dropEntry (s : State) (core realm num : Nat) : State :=
  s.modCore core fun c => { c with oc := c.oc.filter fun e => !(e.realm == realm && e.obj == num) }

/-- Walk the table for an object and fill the object cache (R28). -/
def walkEntry (s : State) (core realm num : Nat) (fresh : Bool) : Acc (Option OcEntry) :=
  (entryAddr s core realm num fresh).bind fun s1 r =>
    match r with
    | none => .ok (dropEntry s1 core realm num) none
    | some (a, sw) =>
      (pocDwords s1 a 4).bind fun s2 d =>
        let e : OcEntry := ⟨realm, num, d, sw⟩
        let s3 := dropEntry s2 core realm num
        if e.valid then .ok (s3.modCore core fun c => { c with oc := ocEnter c.oc e }) (some e) else .ok s3 none

/-- The entry of an object: cached, or walked; an entry that seems to be missing is confirmed by a fresh walk (R26). While OCBASE.EN
is 0 there is none (R15). -/
def findEntry (s : State) (core realm num : Nat) (fresh : Bool) : Acc (Option OcEntry) :=
  if !(s.core core).ocbase.getLsbD 0 then .ok s none else
  match if fresh then none else (s.core core).oc.find? fun (e : OcEntry) => e.realm == realm && e.obj == num with
  | some e => .ok (s.useEntry core e) (some e)
  | none =>
    (walkEntry s core realm num fresh).bind fun s1 r =>
      match r with
      | some e => .ok s1 (some e)
      | none => if fresh then .ok s1 none else walkEntry s1 core realm num true

/-- An object's entry and that of the object that holds its memory (R24): for a view its parent, which is no view. -/
def findPair (s : State) (core realm num : Nat) (fresh : Bool) : Acc (Option (OcEntry × OcEntry)) :=
  (findEntry s core realm num fresh).bind fun s1 r =>
    match r with
    | none => .ok s1 none
    | some e =>
      if !e.view then .ok s1 (some (e, e))
      else
        (findEntry s1 core realm e.parent fresh).bind fun s2 p =>
          match p with
          | some t => .ok s2 (if t.view then none else some (e, t))
          | none => .ok s2 none

/-! ### Checks (R25) -/

/-- For whom an access is checked: a team, or the host as a launcher at system scope (R80). -/
structure Party where
  wld    : Bool
  handle : Option (BitVec 32)
  deriving DecidableEq, Repr

/-- Sub-causes of R25. -/
def memNULL : Byte := 0x01
def memUNTAGGED : Byte := 0x02
def memINVALID : Byte := 0x03
def memWORLD : Byte := 0x04
def memRIGHTS : Byte := 0x05
def memEXTENT : Byte := 0x07
def escPRIVATE : Byte := 0x01
def escSCOPE : Byte := 0x02
def escSTORE : Byte := 0x03

/-- Whether a party is inside the visibility of an object (R25 check 5): none if it is, else the sub-cause of ESCAPE. -/
def visFault (s : State) (p : Party) (t : OcEntry) : Option Byte :=
  match p.handle, t.vis with
  | some h, 0 => if t.own = h then none else some escPRIVATE
  | none, 0 => some escPRIVATE
  | _, 3 => none
  | none, _ => some escSCOPE
  | some _, 1 => if bits t.own 10 0 = s.pkg.agent then none else some escSCOPE
  | some _, _ => if bits t.own 10 0 = s.ownCell then none else some escSCOPE

/-- Where a checked access goes: the entry used and the object that holds the memory, the offset in that object, and the
cell-global address (0 where the checks stopped before it). -/
structure Place where
  ent  : OcEntry
  top  : OcEntry
  poff : Nat
  addr : Nat
  deriving DecidableEq, Repr

/-- The L1 tag of a place. -/
def Place.key (p : Place) : Key := ⟨p.top.realm, p.top.obj, p.top.vis != 0, (p.addr : Int) - p.poff⟩
/-- Whether the memory of a place is published. -/
def Place.pub (p : Place) : Bool := p.top.vis != 0

/-- What the checks give. -/
inductive Chk where
  | ok (p : Place)
  | fault (c : Cause) (sub : Byte)
  /-- MIG is 1: the lane stalls (R30) -/
  | stall
  deriving DecidableEq, Repr

/-- The address that the L1 of a core gives a byte of an object: it is tagged by object and offset, so a hit needs no extent (R27). -/
def l1Addr (s : State) (core : Nat) (t : OcEntry) (poff : Nat) : Option Nat :=
  ((s.core core).l1.find? fun (e : L1Line) =>
    e.realm == t.realm && e.obj == t.obj && ((poff : Int) + e.base) / 128 == (e.line : Int)).map fun e => ((poff : Int) + e.base).toNat

/-- The address of a byte of an object (R22, R23), through the L1 or the extent cache of the core's die (R27). DESIGN CHOICE (log 79): base plus
offset is taken modulo 2^51, so a carry goes into the agent id. -/
def resolveAt (s : State) (core : Nat) (t : OcEntry) (poff : Nat) : Acc (Option Nat) :=
  let fin (st : State) (a : Nat) : Acc (Option Nat) := .ok st (if addrOk st a then some a else none)
  if !t.hm then fin s ((bits (t.dw 2) 50 0 + poff) % 2 ^ 51)
  else
    match l1Addr s core t poff with
    | some a => fin s a
    | none =>
      let k := poff / t.chunk
      let die := dieOf core
      let dec (st : State) (w : Word) : Acc (Option Nat) :=
        if w.getLsbD 63 && bits w 62 51 == 0 then fin st ((bits w 50 0 + poff % t.chunk) % 2 ^ 51) else .ok st none
      match (tget s.ext die []).find? fun (e : ExtEntry) => e.realm == t.realm && e.obj == t.obj && e.chunk == k with
      | some e => dec s e.entry
      | none =>
        let a := bits (t.dw 2) 50 0 + 8 * k
        if !addrOk s a then .ok s none
        else
          (pocDwords s a 1).bind fun s1 d =>
            let w := d.getD 0 0
            dec { s1 with ext := tset s1.ext die (lastOf 16384 (tget s1.ext die [] ++ [⟨t.realm, t.obj, k, w⟩])) } w

/-- Whether an address lies in the secure region of the package (R438). -/
def secureAddr (s : State) (a : Nat) : Bool :=
  a / 2 ^ 40 == s.pkg.agent && s.pkg.secBase * 2 ^ 30 ≤ a % 2 ^ 40 && a % 2 ^ 40 < s.pkg.secLim * 2 ^ 30

/-- An entry with WLD 0 that leads into the secure region (R438). -/
def secureBad (s : State) (t : OcEntry) (a : Nat) : Bool := !t.wld && secureAddr s a

/-- Whether an object is migrating, as a core knows it (R29, R30): no access reads or writes it then. -/
def State.moving (s : State) (core : Nat) (t : OcEntry) : Bool := t.mig || (s.core core).migOff.contains (t.realm, t.obj)

/-- Checks 4 to 9 on a pair of entries; `last` is the last check made. -/
def checkPair (s : State) (core : Nat) (p : Party) (e t : OcEntry) (off : Int) (size : Nat) (rights : List Nat)
    (align last : Nat) : Acc Chk :=
  if t.wld && !p.wld then .ok s (.fault .memory memWORLD)
  else
    match visFault s p t with
    | some sub => .ok s (.fault .escape sub)
    | none =>
      let poff := off.toNat + (if e.view then e.voff else 0)
      if last ≤ 5 then .ok s (.ok ⟨e, t, poff, 0⟩)
      else if rights.any fun r => !e.has r then .ok s (.fault .memory memRIGHTS)
      else if last ≤ 6 then .ok s (.ok ⟨e, t, poff, 0⟩)
      else if off < 0 || (e.len : Int) < off + size then .ok s (.fault .memory memBOUNDS)
      else if align != 0 && poff % align != 0 then .ok s (.fault .memory memALIGN)
      else if last ≤ 7 then .ok s (.ok ⟨e, t, poff, 0⟩)
      else if s.moving core t then .ok s .stall
      else
        (resolveAt s core t poff).bind fun s1 a =>
          match a with
          | some x =>
            if secureBad s1 t x then .ok s1 (.fault .memory memWORLD) else .ok s1 (.ok ⟨e, t, poff, x⟩)
          | none => .ok s1 (.fault .memory memEXTENT)

/-- R25 in order on a reference (object number, tag), an effective offset and a size. A rejection on visibility is confirmed
by a fresh walk (R26). -/
def checkRef (s : State) (core realm : Nat) (p : Party) (obj : Nat) (tag : Bool) (off : Int) (size : Nat)
    (rights : List Nat) (align last : Nat) : Acc Chk :=
  if obj = 0 then .ok s (.fault .memory memNULL)
  else if !tag then .ok s (.fault .memory memUNTAGGED)
  else
    (findPair s core realm obj false).bind fun s1 r =>
      match r with
      | none =>
        (findPair s1 core realm obj true).bind fun s2 r2 =>
          match r2 with
          | none => .ok s2 (.fault .memory memINVALID)
          | some (e, t) => checkPair s2 core p e t off size rights align last
      | some (e, t) =>
        (checkPair s1 core p e t off size rights align last).bind fun s2 c =>
          match c with
          | .fault .escape _ =>
            (findPair s2 core realm obj true).bind fun s3 r3 =>
              match r3 with
              | none => .ok s3 (.fault .memory memINVALID)
              | some (e3, t3) => checkPair s3 core p e3 t3 off size rights align last
          | x => .ok s2 x

/-- The party of a team. -/
def Team.party (t : Team) : Party := ⟨t.wld, some t.handle⟩

/-- Make ESCAPED 1 (R74). -/
def State.escape (s : State) (tk : Nat) : State := s.modTeam tk fun t => { t with escaped := true }

/-! ### The team's own spill slot (R205) -/

/-- Whether n bytes of a place touch the spill slot of a warp's team. -/
def inSpill (s : State) (wk : Nat) (p : Place) (n : Nat) : Bool :=
  match (s.teamOf wk).spill with
  | some sl => p.top.obj == sl.obj && sl.off < p.poff + n && p.poff < sl.off + sl.size
  | none => false

/-- n bytes that a load from the slot returns: free values (log 11). -/
def freeBytes (s : State) (n : Nat) : List Byte := (upto n).map (Config.spillByte s.fresh)

/-- What a thread's load returns: the bytes read, or free values from its own spill slot. -/
def openRead (s : State) (wk : Nat) (p : Place) (b : List Byte) : State × List Byte :=
  if inSpill s wk p b.length then ({ s with fresh := s.fresh + 1 }, freeBytes s b.length) else (s, b)

/-- A thread's store into its own spill slot corrupts the records that it touches: their frames come back with free values. -/
def spoil (s : State) (wk : Nat) (p : Place) (n : Nat) : State :=
  if inSpill s wk p n then
    s.modTeam (s.warp wk).team fun t =>
      let base := match t.spill with | some sl => sl.off | none => 0
      { t with spoilt := t.spoilt ++ (t.recs.filter fun r => base + r.1 < p.poff + n && p.poff < base + r.1 + r.2).map (·.1) }
  else s

/-! ### A lane's access -/

/-- A lane's fault of an access: its reference and effective offset are recorded (R371). -/
def refFault (c : Cause) (sub : Byte) (ref : Word) (off : Int) : LaneFault :=
  { cause := c, sub := sub, opv := ref, eoff := BitVec.ofInt 40 off }

/-- The outcome of a lane's access: a value, a fault, or nothing yet. -/
abbrev LaneAcc (α : Type) := State × Option (Except LaneFault α)

/-- Check a lane's access and perform it (R25, R225): `act` works on the place; it may say that the lane must wait, keeping
what it has done. -/
def laneTry {α : Type} (s : State) (wk l : Nat) (ref : Val) (off : Int) (size : Nat) (rights : List Nat)
    (align last : Nat) (act : State → Who → Place → Acc (Tried α)) : LaneAcc α :=
  let h := whoLane s wk l
  let t := s.teamOf wk
  let r := runTry s h fun st =>
    (checkRef st h.core t.realm t.party (objOf ref.bits) ref.tag off size rights align last).bind fun s1 c =>
      match c with
      | .ok p => (act s1 h p).bind fun s2 a =>
        .ok s2 (match a with | none => none | some (.ok v) => some (.ok (Except.ok v)) | some (.error e) => some (.error e))
      | .fault cs sub => .ok s1 (some (.ok (.error (refFault cs sub ref.bits off))))
      | .stall => .stall
  match r.2 with
  | none => (r.1, none)
  | some (.error f) => (r.1, some (.error (refFault .remote f.sub ref.bits off)))
  | some (.ok x) => (r.1, some x)

/-- Check a lane's access and perform it, with an `act` that does all at once. -/
def laneAccess {α : Type} (s : State) (wk l : Nat) (ref : Val) (off : Int) (size : Nat) (rights : List Nat)
    (align last : Nat) (act : State → Who → Place → Acc α) : LaneAcc α :=
  laneTry s wk l ref off size rights align last fun st h p => (act st h p).bind fun s1 a => .ok s1 (some (.ok a))

end Sys2Proof.Machine
end

