-- ==== Sys2Proof/Machine/Control.lean ====
section
/-! DEFINITION. Group 3, control: NOP, YIELD, BR, BRX (R171–R173). -/

namespace Sys2Proof.Machine

/-- NOP (R171). -/
def execNop (f : BaseF) (s : State) : Host.Outcome State Fault Refusal :=
  issue s (.nop f) (fun s' c => (s', allOk c {}))

/-- YIELD (R171): the warp's age stamp is reset when the clause closes. -/
def execYield (f : BaseF) (s : State) : Host.Outcome State Fault Refusal :=
  issue s (.yield f) (fun s' c => (s', allOk c {}))

/-- OPERAND, TARGET with the target that was refused. -/
def targetFault (t : Int) : LaneFault := operandFault opTARGET (BitVec.ofInt 64 t)

/-- Target of a J-format word of a bundle (R119, R172): relative to the word itself. -/
def jumpTarget (b : Bundle) (off : BitVec 32) : Except LaneFault Pc :=
  let t : Int := (Pc.instr b.hdr b.idx).off.toNat + off.toInt
  if t < 0 ∨ (2 ^ 40 : Int) ≤ t then .error (targetFault t) else .ok ⟨b.hdr.obj, BitVec.ofInt 40 t⟩

/-- BR (R172). -/
def execBr (f : JumpF) (s : State) : Host.Outcome State Fault Refusal :=
  issue s (.br f) (aluBody fun _ c _ _ =>
    match jumpTarget c.b f.off with
    | .error e => .fault e
    | .ok t => .ok { next := .jump t })

/-- Target of an indirect transfer (R173): a checked code reference, or an offset in the code object. -/
def indirectTarget (s : State) (c : Ctx) (l : Nat) (rel : Bool) (a : Val) : LaneAcc Pc :=
  if rel then
    if bits a.bits 63 40 ≠ 0 ∨ bits a.bits 2 0 ≠ 0 then (s, some (.error (operandFault opTARGET a.bits)))
    else (s, some (.ok ⟨c.b.hdr.obj, a.bits.extractLsb' 0 40⟩))
  else
    laneAccess s c.wk l a (offOf a.bits) 8 [rX] 0 7 (fun s1 _ _ => .ok s1 (pcOf a.bits)) |> fun r =>
      match r.2 with
      | some (.ok p) => if bits a.bits 2 0 ≠ 0 then (r.1, some (.error (operandFault opTARGET a.bits))) else (r.1, some (.ok p))
      | _ => r

/-- The outcome of a lane's access as the outcome of the instruction. -/
def laneOut {α : Type} (r : LaneAcc α) (k : State → α → State × LaneOut) : State × Option LaneOut :=
  match r.2 with
  | none => (r.1, none)
  | some (.error f) => (r.1, some (.fault f))
  | some (.ok a) => let x := k r.1 a; (x.1, some x.2)

/-- BRX (R173). -/
def execBrx (f : BaseF) (s : State) : Host.Outcome State Fault Refusal :=
  issue s (.brx f) (seqBody fun s' c l x =>
    laneOut (indirectTarget s' c l (f.md.getLsbD 0) x.av) fun s1 t => (s1, .ok { next := .jump t }))

end Sys2Proof.Machine
end

