-- ==== Sys2Proof/Machine/Flags.lean ====
section
/-! DEFINITION. Flags and values of the integer instructions: the two widths of R156, the sticky flags of R48 and R160. -/

namespace Sys2Proof.Machine


/-- Sticky flag masks in the layout of FLAGS (R375). -/
def flagNV : BitVec 7 := 0x01
def flagDZ : BitVec 7 := 0x02
def flagOF : BitVec 7 := 0x04
def flagUF : BitVec 7 := 0x08
def flagNX : BitVec 7 := 0x10
def flagIOV : BitVec 7 := 0x20
def flagBLK : BitVec 7 := 0x40

/-- The low 32 bits of a word. -/
def lo32 (x : Word) : BitVec 32 := x.truncate 32

/-- An operation of one operand at width 64 or 32, its result zero-extended (R156, R139). -/
def at1 (w : Bool) (f : {n : Nat} → BitVec n → BitVec n) (x : Word) : Word :=
  if w then f x else (f (lo32 x)).zeroExtend 64

/-- An operation of two operands at width 64 or 32. -/
def at2 (w : Bool) (f : {n : Nat} → BitVec n → BitVec n → BitVec n) (x y : Word) : Word :=
  if w then f x y else (f (lo32 x) (lo32 y)).zeroExtend 64

/-- An operation of three operands at width 64 or 32. -/
def at3 (w : Bool) (f : {n : Nat} → BitVec n → BitVec n → BitVec n → BitVec n) (x y z : Word) : Word :=
  if w then f x y z else (f (lo32 x) (lo32 y) (lo32 z)).zeroExtend 64

/-- A comparison of two operands at width 64 or 32. -/
def cmp2 (w : Bool) (f : {n : Nat} → BitVec n → BitVec n → Bool) (x y : Word) : Bool :=
  if w then f x y else f (lo32 x) (lo32 y)

/-- W of a base-format word (R155). -/
def wBit (f : BaseF) : Bool := f.md.getLsbD 0

/-! ### Results of group 0 (R159, R160) -/

def mulhS {n : Nat} (a b : BitVec n) : BitVec n := BitVec.ofInt n (a.toInt * b.toInt / 2 ^ n)
def mulhU {n : Nat} (a b : BitVec n) : BitVec n := BitVec.ofNat n (a.toNat * b.toNat / 2 ^ n)
def minS {n : Nat} (a b : BitVec n) : BitVec n := if a.toInt ≤ b.toInt then a else b
def maxS {n : Nat} (a b : BitVec n) : BitVec n := if a.toInt ≤ b.toInt then b else a
def minU {n : Nat} (a b : BitVec n) : BitVec n := if a.toNat ≤ b.toNat then a else b
def maxU {n : Nat} (a b : BitVec n) : BitVec n := if a.toNat ≤ b.toNat then b else a
def absV {n : Nat} (a : BitVec n) : BitVec n := if a.toInt < 0 then -a else a
def shlV {n : Nat} (a b : BitVec n) : BitVec n := if n ≤ b.toNat then 0 else a <<< b.toNat
def shrV {n : Nat} (a b : BitVec n) : BitVec n := if n ≤ b.toNat then 0 else a >>> b.toNat
def sarV {n : Nat} (a b : BitVec n) : BitVec n :=
  if n ≤ b.toNat then (if a.msb then BitVec.allOnes n else 0) else a.sshiftRight b.toNat
/-- Division with the cases of R160. -/
def divS {n : Nat} (a b : BitVec n) : BitVec n := if b = 0 then BitVec.allOnes n else BitVec.ofInt n (a.toInt.tdiv b.toInt)
def divU {n : Nat} (a b : BitVec n) : BitVec n := if b = 0 then BitVec.allOnes n else BitVec.ofNat n (a.toNat / b.toNat)
def remS {n : Nat} (a b : BitVec n) : BitVec n := if b = 0 then a else BitVec.ofInt n (a.toInt.tmod b.toInt)
def remU {n : Nat} (a b : BitVec n) : BitVec n := if b = 0 then a else BitVec.ofNat n (a.toNat % b.toNat)
/-- The most negative number of a width. -/
def isMin {n : Nat} (a : BitVec n) : Bool := a.toInt == -(2 ^ (n - 1) : Int)
/-- When a signed and an unsigned division set IOV, and ABS (R160). -/
def divIov {n : Nat} (a b : BitVec n) : Bool := b == 0 || (isMin a && b == BitVec.allOnes n)
def divuIov {n : Nat} (_a b : BitVec n) : Bool := b == 0
def absIov {n : Nat} (a _b : BitVec n) : Bool := isMin a
/-- IOV or nothing. -/
def iovIf (b : Bool) : BitVec 7 := if b then flagIOV else 0

/-! ### Bodies of one, two and three operands -/

/-- One operand, no flag. -/
def alu1 (f : {n : Nat} → BitVec n → BitVec n) (i : BaseF) : Body :=
  aluBody fun _ _ _ x => res (at1 (wBit i) f x.av.bits)

/-- Two operands, no flag. -/
def alu2 (f : {n : Nat} → BitVec n → BitVec n → BitVec n) (i : BaseF) : Body :=
  aluBody fun _ _ _ x => res (at2 (wBit i) f x.av.bits x.bv.bits)

/-- Three operands, no flag. -/
def alu3 (f : {n : Nat} → BitVec n → BitVec n → BitVec n → BitVec n) (i : BaseF) : Body :=
  aluBody fun _ _ _ x => res (at3 (wBit i) f x.av.bits x.bv.bits x.cv.bits)

/-- Two operands, with IOV. -/
def alu2f (f : {n : Nat} → BitVec n → BitVec n → BitVec n) (iov : {n : Nat} → BitVec n → BitVec n → Bool)
    (i : BaseF) : Body :=
  aluBody fun _ _ _ x =>
    .ok { val := some (Val.int (at2 (wBit i) f x.av.bits x.bv.bits)), flags := iovIf (cmp2 (wBit i) iov x.av.bits x.bv.bits) }

end Sys2Proof.Machine
end

