-- ==== Sys2Proof/Machine/Frames.lean ====
section
/-! DEFINITION. Call frames (R197–R214, R403): leaving and releasing frames, requests for granules, the doffer, spill
records, and the frame instructions. -/

namespace Sys2Proof.Machine

/-! ### Leaving and releasing (R199, R148) -/

/-- Cancel the EMPTY registers of one lane in a frame: FAULTED with a note; their late responses are discarded. -/
def cancelLane (s : State) (fk l : Nat) (c : Cause) (sub : Byte) : State :=
  let f := s.frame fk
  let es := (upto f.demand).filter fun n => (f.reg n l).st == .empty
  let f1 := es.foldl (fun (g : Frame) n => (g.setReg n l ⟨faultNote c sub, .faulted⟩).setPtag n l false) f
  let s1 := if es.isEmpty then s else s.setFrame fk f1
  { s1 with defers := s1.defers.map fun (d : Defer) => if d.frame = fk && d.lane = l then { d with dead := true } else d }

/-- Drop the spill record of a frame from its team's slot. -/
def dropRecord (s : State) (f : Frame) : State :=
  match f.loc with
  | .spilled off => s.modTeam (s.warp f.wk).team fun t =>
      { t with recs := t.recs.filter fun r => r.1 != off, spoilt := t.spoilt.filter (· != off) }
  | _ => s

/-- A doffer that works on a frame gives it up; a record that it was writing is dropped. -/
def dropDoffer (s : State) (fk : Nat) (f : Frame) : State :=
  let pk := wkPk f.wk
  match (s.part pk).busy with
  | some (.spill k off) =>
    if k = fk then
      (s.modPart pk fun p => { p with awake := false, busy := none }).modTeam (s.warp f.wk).team fun t =>
        { t with recs := t.recs.filter fun r => r.1 != off, spoilt := t.spoilt.filter (· != off) }
    else s
  | some (.refill r _) =>
    if r.kind = .refill fk then s.modPart pk fun p => { p with awake := false, busy := none } else s
  | none => s

/-- Release a frame if every lane has left it and every response has drained (R199). -/
def tryRelease (s : State) (fk : Nat) : State :=
  let f := s.frame fk
  if (tfind s.frames fk).isSome && f.rem == 0 && s.defers.all (fun d => d.frame != fk) then
    let s1 := dropDoffer (dropRecord s f) fk f
    { s1 with frames := tdel s1.frames fk }
  else s

/-- A lane leaves a frame (R199). -/
def leaveFrame (s : State) (fk l : Nat) : State :=
  tryRelease ((cancelLane s fk l .software 0).modFrame fk fun f => { f with rem := dropLane f.rem l }) fk

/-- A lane leaves n frames of its chain; the frame it comes to (R211, R212, R403). -/
def leaveN (s : State) (fk l : Nat) : Nat → State × Option Nat
  | 0 => (s, some fk)
  | n + 1 =>
    let c := (s.frame fk).caller
    let s1 := leaveFrame s fk l
    match c with
    | none => (s1, none)
    | some k => leaveN s1 k l n

/-! ### The team barrier (R297) -/

/-- Lanes of a warp that have not exited. -/
def liveLanes (s : State) (wk : Nat) : BitVec 32 := maskOf ((upto 32).filter fun l => (s.lane wk l).st != .exited)

/-- Lanes of a warp that have arrived in the current phase. -/
def Team.arrived (t : Team) (wix : Nat) : BitVec 32 := tget t.barr wix 0

/-- Whether every warp of a team has arrived. -/
def barrierFull (s : State) (tk : Nat) : Bool :=
  (s.teamWarps tk).all fun wk => (liveLanes s wk &&& ~~~((s.team tk).arrived (s.warp wk).wix)) == 0

/-- Complete the phase if every warp has arrived: the phase advances, and the BAR lanes pass when they issue next. -/
def settleBarrier (s : State) (tk : Nat) : State :=
  let t := s.team tk
  if t.barr.isEmpty || !barrierFull s tk then s
  else s.setTeam tk { t with bphase := t.bphase + 1, barr := [] }

/-- Whether a lane's wait in BAR is over: the phase in which it arrived has completed (R297). -/
def barPassed (s : State) (wk l : Nat) : Bool :=
  match (s.lane wk l).st with
  | .blocked (.bar p) => p != (s.teamOf wk).bphase.toNat
  | _ => false

/-- The latch row of a lane is cleared when its warp owns the latch (R276). -/
def dropLatchRow (s : State) (wk l : Nat) : State :=
  s.modCore (wkCore wk) fun c =>
    { c with latch := c.latch.map fun (e : Nat × Latch) =>
        match e.2.own with
        | some (ws, _) => if ws = wkSlot wk then (e.1, { e.2 with rows := tdel e.2.rows l }) else e
        | none => e }

/-- A lane exits (R403). -/
def exitLane (s : State) (wk l : Nat) : State :=
  let ln := s.lane wk l
  if ln.st = .exited then s
  else
    let s1 := (leaveN s ln.frame l ((s.frame ln.frame).depth + 1)).1
    (dropLatchRow s1 wk l).modLane wk l fun x => { x with st := .exited, h := false, pv := false }

/-! ### Requests (R201, R202) -/

/-- Whether the doffer is bringing a frame back. -/
def refilling (s : State) (pk fk : Nat) : Bool :=
  match (s.part pk).busy with
  | some (.refill r _) => r.kind == .refill fk
  | _ => false

/-- Whether lanes can run in a frame. -/
def usableFrame (s : State) (fk : Nat) : Bool := (s.frame fk).isRes && !refilling s (wkPk (s.frame fk).wk) fk

/-- Block lanes on a frame request. -/
def blockFrame (s : State) (wk : Nat) (m : BitVec 32) : State :=
  (lanesOf m).foldl (fun st l => st.modLane wk l fun ln => { ln with st := .blocked .frame }) s

/-- Lanes join the refill request of their frame, or make it (R201, R211). -/
def joinRefill (s : State) (r : FReq) (fk : Nat) : State :=
  let pk := wkPk r.wk
  let p := s.part pk
  let add (x : FReq) : FReq := { x with lanes := x.lanes ||| r.lanes }
  let s1 := (lanesOf r.lanes).foldl (fun st l => st.modLane r.wk l fun ln =>
    { ln with ret := some ⟨r.hdr, r.idx, r.opc, r.fid⟩ }) (blockFrame s r.wk r.lanes)
  if refilling s pk fk then
    match p.busy with
    | some (.refill x src) => s1.setPart pk { p with busy := some (.refill (add x) src) }
    | _ => s1
  else if p.reqs.any fun x => x.kind == .refill fk then
    s1.setPart pk { p with reqs := p.reqs.map fun x => if x.kind = .refill fk then add x else x }
  else s1.setPart pk { p with reqs := p.reqs ++ [{ r with kind := .refill fk }] }

/-- Granules that a request asks for. -/
def reqGran (s : State) (r : FReq) : Nat :=
  match r.kind with
  | .call d _ _ _ => granules d
  | .refill fk => granules (s.frame fk).demand

/-- Lanes enter a new frame (R202, R210). -/
def enterFrame (s : State) (r : FReq) (demand : Nat) (rpc : Pc) (caller : Nat) (targets : Tab Pc) : State :=
  let fk := s.uid
  let f : Frame :=
    { wk := r.wk, demand := demand, depth := ((s.frame caller).depth + 1) % 2 ^ 32, rpc := rpc, caller := some caller
      lset := r.lanes, rem := r.lanes, loc := .resident (s.freeFid (wkPk r.wk)), regs := [], ptags := []
      listed := none }
  let s1 := { s with uid := s.uid + 1, frames := tset s.frames fk f }
  (lanesOf r.lanes).foldl (fun st l => st.modLane r.wk l fun ln =>
    { ln with frame := fk, pc := tget targets l ln.pc, cix := 0, st := .run }) s1

/-- Whether the head request can be granted (R201), also while a save waits for the doffer (R206, R433); a refill also needs the doffer. -/
def headFits (s : State) (pk : Nat) : Bool :=
  match (s.part pk).reqs with
  | [] => false
  | r :: _ => reqGran s r ≤ s.freeGran pk &&
      (match r.kind with | .refill _ => (s.part pk).busy.isNone | .call .. => true)

/-- Grant the head request (R201, R202): a call's lanes enter their frame; a refill's frame takes granules and an id, and
the doffer brings it back. -/
def grantHead (s : State) (pk : Nat) : State :=
  match (s.part pk).reqs with
  | [] => s
  | r :: rest =>
    let s1 := s.modPart pk fun p => { p with reqs := rest }
    match r.kind with
    | .call d rpc caller targets => enterFrame s1 r d rpc caller targets
    | .refill fk =>
      let fid := s1.freeFid pk
      let src := (s1.frame fk).loc
      (s1.modFrame fk fun f => { f with loc := .resident fid }).modPart pk fun p => { p with busy := some (.refill r src) }

/-- Raise FRAME for the head request's lanes (R207): a call's lanes stand at the CALL; a refill's lanes stand at their
return PC or unwind target, or at the instruction at which they had stopped, which is the resume point of those that take the trap; lanes in a handler keep theirs (R372, R374). -/
def frameFault (s : State) (pk : Nat) (r : FReq) (sub : Byte) (opv : Word) : State :=
  let s1 := s.modPart pk fun p => { p with reqs := p.reqs.filter (· != r) }
  let ls := (lanesOf r.lanes).filter fun l => (s.lane r.wk l).st == .blocked .frame
  let fs := ls.map fun l => (l, ({ cause := .frame, sub := sub, opv := opv } : LaneFault))
  let free := !(s.warp r.wk).trec.v
  let s2 := faultLanes s1 r.wk ⟨r.hdr, r.idx, r.opc, r.hdr, r.idx⟩ fs false
  match r.kind with
  | .call .. => s2
  | .refill _ =>
    let s3 := ls.foldl (fun st l =>
      let ln0 := s.lane r.wk l
      st.modLane r.wk l fun ln =>
        if free && !ln0.h then { ln with pc := ln0.pc, cix := ln0.cix, rpc := ln0.pc, rix := BitVec.ofNat 4 ln0.cix }
        else { ln with pc := ln0.pc, cix := ln0.cix }) s2
    if free && ls.any (fun l => !(s.lane r.wk l).h) then
      s3.modWarp r.wk fun w => { w with trec := { w.trec with fid := BitVec.ofNat 9 r.fid } }
    else s3

/-! ### Spill records (R208) -/

/-- Bytes of the parts of a record. -/
def mapSize (d : Nat) : Nat := (d + 15) / 16 * 64
def recSize (d : Nat) : Nat := 64 + mapSize d + granules d * 1024

/-- The caller dword of a record (R208): the three cases of R398. A frame whose record lies in a save area is always listed. -/
def callerWord (s : State) (f : Frame) : Word :=
  match f.caller with
  | none => 0
  | some c =>
    let g := s.frame c
    match g.loc, g.listed with
    | .resident fid, _ => BitVec.ofNat 64 fid
    | _, some i => BitVec.ofNat 64 (2 ^ 63 + 2 ^ 62 + i)
    | .spilled off, none => BitVec.ofNat 64 (2 ^ 63 + off)
    | .saved .., none => BitVec.ofNat 64 (2 ^ 63)

/-- Header dwords of a record. -/
def recHeader (s : State) (f : Frame) : List Word :=
  [if f.caller.isSome then f.rpc.word else 0,
   f.lset ++ f.rem,
   BitVec.ofNat 64 (f.depth % 2 ^ 32 * 2 ^ 32 + f.demand * 2 ^ 16 + (s.warp f.wk).wix),
   callerWord s f, 0, 0, 0, 0]

/-- Bit mask of the lanes whose register f n is FAULTED. -/
def faultMap (f : Frame) (n : Nat) : Nat :=
  ((upto 32).filter fun l => n < f.demand && (f.reg n l).st == .faulted).foldl (fun m l => m + 2 ^ l) 0

/-- The record of a frame as 8-byte words with their tags, in order (R208). -/
def recWords (s : State) (f : Frame) : List Val :=
  let d := f.demand
  let val (n l : Nat) : Nat := if n < d then (f.reg n l).val.toNat else 0
  (recHeader s f).map Val.int
    ++ (upto (mapSize d / 8)).map (fun k => Val.int (BitVec.ofNat 64 (faultMap f (2 * k) + faultMap f (2 * k + 1) * 2 ^ 32)))
    ++ (upto (granules d * 8)).flatMap fun n => (upto 16).map fun m =>
        ⟨BitVec.ofNat 64 (val n (2 * m) + val n (2 * m + 1) * 2 ^ 32), f.ptag (n / 2 * 2) (16 * (n % 2) + m)⟩

/-- Restore the registers of a frame from the words of its record. -/
def recRestore (f : Frame) (ws : List Val) : Frame :=
  let d := f.demand
  let word (i : Nat) : Val := ws.getD i Val.zero
  let half (v : Val) (k : Nat) : BitVec 32 := v.bits.extractLsb' (32 * (k % 2)) 32
  let base := (64 + mapSize d) / 8
  let faulted (n l : Nat) : Bool := (half (word (8 + n / 2)) n).getLsbD l
  (upto d).foldl (fun (g : Frame) n => (upto 32).foldl (fun (g' : Frame) l =>
    let v := half (word (base + 16 * n + l / 2)) l
    let g1 := g'.setReg n l ⟨v, if faulted n l then .faulted else .full⟩
    if n % 2 = 0 then g1.setPtag n l (word (base + 16 * (n + l / 16) + l % 16)).tag else g1) g)
    { f with regs := [], ptags := [] }

/-- The lowest 64-byte-aligned offset at which a record fits among spans of a slot (R208). -/
def findSpan (spans : List (Nat × Nat)) (size limit : Nat) : Option Nat :=
  let cands := 0 :: spans.map fun r => roundUp (r.1 + r.2) 64
  let fits (o : Nat) : Bool := o + size ≤ limit && spans.all fun r => o + size ≤ r.1 || r.1 + r.2 ≤ o
  (cands.filter fits).foldl (fun m o => match m with | none => some o | some x => some (min x o)) none

/-! ### Memory of a slot -/

/-- Outcome of an engine's access to an object: a value, or a cause and sub-cause. -/
abbrev EngRes (α : Type) := Except (Cause × Byte) α

/-- Address of a byte of an object, for an engine whose rights were checked at validation; it waits while the object migrates (R30). -/
def engineAddr (s : State) (core realm obj off : Nat) : Acc (EngRes Nat) :=
  (findPair s core realm obj false).bind fun s1 r =>
    match r with
    | none => .ok s1 (.error (.memory, memINVALID))
    | some (e, t) =>
      if e.len ≤ off then .ok s1 (.error (.memory, memBOUNDS))
      else if s1.moving core t then .stall
      else
        (resolveAt s1 core t (off + if e.view then e.voff else 0)).bind fun s2 a =>
          match a with
          | some x => .ok s2 (if secureBad s2 t x then .error (.memory, memWORLD) else .ok x)
          | none => .ok s2 (.error (.memory, memEXTENT))

/-- Write words with their tags into an object, from an offset on. -/
def engineWrite (s : State) (h : Who) (realm obj : Nat) : Nat → List Val → Acc (EngRes Unit)
  | _, [] => .ok s (.ok ())
  | off, v :: r =>
    (engineAddr s h.core realm obj off).bind fun s1 a =>
      match a with
      | .error e => .ok s1 (.error e)
      | .ok x => (pocWriteWord s1 h x v).bind fun s2 _ => engineWrite s2 h realm obj (off + 8) r

/-- Read words with their tags from an object. -/
def engineRead (s : State) (core realm obj : Nat) : Nat → Nat → Acc (EngRes (List Val))
  | _, 0 => .ok s (.ok [])
  | off, n + 1 =>
    (engineAddr s core realm obj off).bind fun s1 a =>
      match a with
      | .error e => .ok s1 (.error e)
      | .ok x =>
        (pocWord s1 x).bind fun s2 v =>
          (engineRead s2 core realm obj (off + 8) n).bind fun s3 r =>
            .ok s3 (match r with | .ok vs => .ok (v :: vs) | .error e => .error e)

/-- Words of local memory (a save area, R395). -/
def localWords (s : State) (a n : Nat) : List Val := (upto n).map fun k => s.hbm.readWord (a + 8 * k)

/-! ### The doffer (R203–R207) -/

/-- Whether a frame is spillable (R203). -/
def spillable (s : State) (pk : Nat) (e : Nat × Frame) : Bool :=
  let f := e.2
  f.isRes && !refilling s pk e.1
    && (upto 32).all (fun l => (upto f.demand).all fun n => (f.reg n l).st != .empty)
    && (upto 32).all fun l =>
      let ln := s.lane f.wk l
      ln.frame != e.1 || ln.st == .exited || ln.st == .blocked .frame

/-- The frame that the doffer picks: greatest depth, then lowest id (R204). -/
def pickSpill (s : State) (pk : Nat) : Option (Nat × Frame) :=
  ((s.resFrames pk).filter (spillable s pk)).foldl (fun b e =>
    match b with
    | none => some e
    | some x => if x.2.depth < e.2.depth || (x.2.depth == e.2.depth && e.2.fid < x.2.fid) then some e else b) none

/-- The doffer's next step while it is awake (R204, R207): sleep, or start a spill, or raise FRAME. While a save of the head's team waits, it
starts no further spill (R206). -/
def dofferStep (s : State) (pk : Nat) : State :=
  let sleep := s.modPart pk fun p => { p with awake := false, busy := none }
  match (s.part pk).reqs with
  | [] => sleep
  | r :: _ =>
    if reqGran s r ≤ s.freeGran pk || (s.teamOf r.wk).phase == .saving then sleep
    else
      match pickSpill s pk with
      | none => sleep
      | some (fk, f) =>
        let tk := (s.warp f.wk).team
        match (s.team tk).spill with
        | none => frameFault sleep pk r 0x01 0
        | some sl =>
          match findSpan (s.team tk).recs (recSize f.demand) sl.size with
          | none => frameFault sleep pk r 0x02 0
          | some off =>
            (s.modPart pk fun p => { p with awake := true, busy := some (.spill fk off) }).modTeam tk fun t =>
              { t with recs := t.recs ++ [(off, recSize f.demand)] }

/-- Who the doffer of a partition is. -/
def dofferWho (s : State) (pk : Nat) : Who := ⟨pk / 4, .core (pk / 4 + 64 * (1 + pk % 4)), (s.core (pk / 4)).tdef.toNat⟩

/-- The operand of SPILLIO: cause and sub-cause of the slot's access (R207). -/
def spillIo (c : Cause) (sub : Byte) : Word := (faultNote c sub).zeroExtend 64

/-- A spill has failed: its frame stays resident, and the head request's lanes take FRAME, SPILLIO. -/
def spillFailed (s : State) (pk tk off : Nat) (c : Cause) (sub : Byte) : State :=
  let s1 := (s.modPart pk fun p => { p with awake := false, busy := none }).modTeam tk fun t =>
    { t with recs := t.recs.filter fun r => r.1 != off }
  match (s1.part pk).reqs with
  | r :: _ => frameFault s1 pk r 0x03 (spillIo c sub)
  | [] => s1

/-- Every lane of a request whose frame has come back enters it (R202). -/
def enterRefilled (s : State) (r : FReq) : State :=
  (lanesOf r.lanes).foldl (fun st l =>
    if (st.lane r.wk l).st = .blocked .frame then st.modLane r.wk l fun ln => { ln with st := .run, ret := none } else st) s

/-! ### Events -/

/-- FRAME_GRANT (R201, R202): the head request is granted once the free granules cover it. -/
def execFrameGrant (core part : Nat) (s : State) : Host.Outcome State Fault Refusal :=
  let pk := core * 4 + part
  .next (if headFits s pk then (grantHead s pk).wake else s)

/-- Whether the doffer of a partition wakes (R204): 256 cycles of waiting, every lane blocked on a frame request, or a
refill that is not covered. -/
def dofferWakes (s : State) (pk : Nat) : Bool :=
  let p := s.part pk
  match p.reqs with
  | [] => false
  | r :: _ =>
    let now := (s.core (pk / 4)).cycle.toNat
    let stuck := (s.warps.filter fun e => wkPk e.1 == pk).all fun e => (upto 32).all fun l =>
      (s.lane e.1 l).st == .exited || (s.lane e.1 l).st == .blocked .frame
    !p.awake && p.busy.isNone && s.freeGran pk < reqGran s r && (pickSpill s pk).isSome
      && (r.since + 256 ≤ now || stuck || (match r.kind with | .refill _ => true | _ => false))

/-- DOFFER_WAKE (R204). -/
def execDofferWake (core part : Nat) (s : State) : Host.Outcome State Fault Refusal :=
  let pk := core * 4 + part
  .next (if dofferWakes s pk then (dofferStep s pk).wake else s)

/-- Offsets of the scratchpad, of the tiles and of the frame directory in a save area (R396). -/
def scrOff (t : Team) : Nat := 0x2800 + 0x3000 * t.wpt
def tileOff (t : Team) : Nat := scrOff t + t.scrk * 1024
def dirOff (t : Team) : Nat := tileOff t + 4096 * t.ntiles * min t.wpt 4

/-- The directory entry of a listed frame names the spill slot from now on (R398). -/
def relist (s : State) (tk fk off : Nat) : State :=
  match (s.frame fk).listed, (s.team tk).saves.getLast? with
  | some i, some a =>
    let at' := a.base + dirOff (s.team tk) + 16 * i
    let cur := (s.hbm.readWord at').bits.getLsbD 62
    { s with hbm := s.hbm.writeWord at' (Val.int (BitVec.ofNat 64 (2 ^ 63 + b2n cur * 2 ^ 62 + off))) }
  | _, _ => s

/-- A spill that is given up, because a lane has come into the frame meanwhile (R203): its record goes, and the doffer picks again. -/
def spillDropped (s : State) (pk tk off : Nat) : State :=
  dofferStep ((s.modPart pk fun p => { p with busy := none }).modTeam tk fun t =>
    { t with recs := t.recs.filter fun r => r.1 != off }) pk

/-- SPILL_DONE (R203, R204, R207, R208): the record is in the slot; granules and id go back; the doffer goes on. -/
def execSpillDone (core part : Nat) (s : State) : Host.Outcome State Fault Refusal :=
  let pk := core * 4 + part
  match (s.part pk).busy with
  | some (.spill fk off) =>
    let f := s.frame fk
    let tk := (s.warp f.wk).team
    let t := s.team tk
    let sl := t.spill.getD ⟨0, 0, 0, 0⟩
    let h := dofferWho s pk
    if !spillable s pk (fk, f) then .next (spillDropped (s.unwait h.who) pk tk off).wake
    else
      match runAcc s h (fun st => engineWrite st h t.realm sl.obj (sl.off + off) (recWords st f)) with
      | (s1, none) => .next s1
      | (s1, some (.error e)) => .next (spillFailed s1 pk tk off .remote e.sub).wake
      | (s1, some (.ok (.error e))) => .next (spillFailed s1 pk tk off e.1 e.2).wake
      | (s1, some (.ok (.ok _))) =>
        let s2 := ((s1.modFrame fk fun g => { g with loc := .spilled off, regs := [], ptags := [] }).modPart pk fun p =>
          { p with busy := none }).modTeam tk fun u => { u with spoilt := u.spoilt.filter (· != off) }
        .next (dofferStep (relist s2 tk fk off) pk).wake
  | _ => .next s

/-- A refill has failed: the frame is where it was, and the request's lanes take FRAME, SPILLIO. -/
def refillFailed (s : State) (pk fk : Nat) (r : FReq) (src : FrameLoc) (c : Cause) (sub : Byte) : State :=
  frameFault ((s.modFrame fk fun f => { f with loc := src }).modPart pk fun p => { p with busy := none }) pk r 0x03
    (spillIo c sub)

/-- A frame whose record was corrupted comes back with free values in its registers (R205, log 11). -/
def freeRegs (seed : Nat) (f : Frame) : Frame :=
  let word (k : Nat) : BitVec 32 := BitVec.ofNat 32 (ofBytes ((upto 4).map fun b => Config.spillByte seed (4 * k + b)))
  (upto f.demand).foldl (fun (g : Frame) n => (upto 32).foldl (fun (g' : Frame) l =>
    g'.setReg n l ⟨word (32 * n + l), .full⟩) g) f

/-- A refill is complete (R202, R204). -/
def refillEnd (s : State) (pk fk : Nat) (r : FReq) (src : FrameLoc) (ws : List Val) : State :=
  let tk := (s.warp r.wk).team
  let s1 := s.modFrame fk fun f => recRestore f ws
  let s2 := match src with
    | .spilled off =>
      let s3 := if (s.team tk).spoilt.contains off then
          { s1 with fresh := s1.fresh + 1 }.modFrame fk (freeRegs s1.fresh)
        else s1
      s3.modTeam tk fun t =>
        { t with recs := t.recs.filter fun x => x.1 != off, spoilt := t.spoilt.filter (· != off) }
    | _ => s1
  enterRefilled (s2.modPart pk fun p => { p with busy := none }) r

/-- REFILL_DONE (R204, R208, R398). -/
def execRefillDone (core part : Nat) (s : State) : Host.Outcome State Fault Refusal :=
  let pk := core * 4 + part
  match (s.part pk).busy with
  | some (.refill r src) =>
    match r.kind with
    | .call .. => .next s
    | .refill fk =>
      let t := s.teamOf r.wk
      let n := recSize (s.frame fk).demand / 8
      match src with
      | .spilled off =>
        let sl := t.spill.getD ⟨0, 0, 0, 0⟩
        let h := dofferWho s pk
        match runAcc s h (fun st => engineRead st h.core t.realm sl.obj (sl.off + off) n) with
        | (s1, none) => .next s1
        | (s1, some (.error e)) => .next (refillFailed s1 pk fk r src .remote e.sub).wake
        | (s1, some (.ok (.error e))) => .next (refillFailed s1 pk fk r src e.1 e.2).wake
        | (s1, some (.ok (.ok ws))) => .next (refillEnd s1 pk fk r src ws).wake
      | .saved area off =>
        .next (refillEnd s pk fk r src (localWords s ((t.saves.getD area ⟨0, 0⟩).base + off) n)).wake
      | .resident _ => .next (refillEnd s pk fk r src []).wake
  | _ => .next s

/-- FRAME_RELEASE (R199). -/
def execFrameRelease (fk : Nat) (s : State) : Host.Outcome State Fault Refusal :=
  let s1 := tryRelease s fk
  .next (if (tfind s.frames fk).isSome && (tfind s1.frames fk).isNone then s1.wake else s1)

/-! ### Instructions -/

/-- The request of a bundle's current instruction for some lanes. -/
def mkReq (s : State) (c : Ctx) (m : BitVec 32) (k : FReqKind) : FReq :=
  { wk := c.wk, lanes := m, kind := k, since := (s.core (wkCore c.wk)).cycle.toNat, hdr := c.b.hdr, idx := c.b.idx
    opc := c.g.opc, fid := match lanesOf m with | [] => 0 | l :: _ => (s.frameOf c.wk l).fid }

/-- Lanes with targets ask for a frame (R201, R210): granted at once if nothing waits and the granules suffice. -/
def requestCall (s : State) (c : Ctx) (demand : Nat) (ts : Tab Pc) : State :=
  match ts with
  | [] => s
  | (l0, _) :: _ =>
    let m := maskOf (ts.map (·.1))
    let rpc := c.b.hdr.add (8 + 8 * c.b.words.length)
    let r := mkReq s c m (.call demand rpc (s.lane c.wk l0).frame ts)
    let pk := wkPk c.wk
    let s1 := (lanesOf m).foldl (fun st l => st.modLane c.wk l fun ln =>
      { ln with pc := c.b.hdr, cix := c.b.idx, st := .blocked .frame }) s
    if (s.part pk).reqs.isEmpty && granules demand ≤ s.freeGran pk then
      enterFrame s1 r demand rpc (s.lane c.wk l0).frame ts
    else s1.modPart pk fun p => { p with reqs := p.reqs ++ [r] }

/-- The body of CALL and CALLX (R210): each lane's target or fault, then one request for the lanes without a fault. -/
def callBody (demand : Nat) (target : State → Ctx → Nat → Srcs → LaneAcc Pc) : Body := fun s c =>
  match readLanes s c c.lanes with
  | .ok xs =>
    let step (acc : State × List (Nat × LaneFault) × Tab Pc × Bool) (e : Nat × Except LaneFault Srcs) :
        State × List (Nat × LaneFault) × Tab Pc × Bool :=
      match e.2 with
      | .error f => (acc.1, acc.2.1 ++ [(e.1, f)], acc.2.2.1, acc.2.2.2)
      | .ok x =>
        if (acc.1.teamOf c.wk).gfmax < demand then
          (acc.1, acc.2.1 ++ [(e.1, operandFault opDEMAND (BitVec.ofNat 64 demand))], acc.2.2.1, acc.2.2.2)
        else
          match target acc.1 c e.1 x with
          | (s1, none) => (s1, acc.2.1, acc.2.2.1, true)
          | (s1, some (.error f)) => (s1, acc.2.1 ++ [(e.1, f)], acc.2.2.1, acc.2.2.2)
          | (s1, some (.ok t)) => (s1, acc.2.1, acc.2.2.1 ++ [(e.1, t)], acc.2.2.2)
    let r := xs.foldl step (s, [], [], false)
    if r.2.2.2 then (r.1, [])
    else
      (requestCall r.1 c demand r.2.2.1,
        r.2.1.map (fun e => (e.1, .fault e.2)) ++ r.2.2.1.map fun e => (e.1, .ok { next := .left }))
  | _ => (s, [])

/-- CALL (R210). -/
def execCall (f : JumpF) (s : State) : Host.Outcome State Fault Refusal :=
  issue s (.call f) (callBody f.jd.toNat fun s' c _ _ =>
    match jumpTarget c.b f.off with
    | .error e => (s', some (.error e))
    | .ok t => (s', some (.ok t)))

/-- CALLX (R210). -/
def execCallx (f : BaseF) (s : State) : Host.Outcome State Fault Refusal :=
  issue s (.callx f) (callBody (bits f.md 11 4) fun s' c l x => indirectTarget s' c l (f.md.getLsbD 0) x.av)

/-- A lane comes into a frame at a PC (R211, R212): at once, or by a refill request. -/
def comeInto (s : State) (c : Ctx) (l fk : Nat) (pc : Pc) : State :=
  let r := mkReq s c (maskOf [l]) (.refill fk)
  let s1 := s.modLane c.wk l fun ln => { ln with frame := fk, pc := pc, cix := 0, st := .run }
  if usableFrame s1 fk then s1 else joinRefill s1 r fk

/-- RET (R211). -/
def execRet (f : BaseF) (s : State) : Host.Outcome State Fault Refusal :=
  issue s (.ret f) (seqBody fun s' c l _ =>
    let fk := (s'.lane c.wk l).frame
    let fr := s'.frame fk
    match fr.caller with
    | none => (s', some (.fault (operandFault opDEPTH 0)))
    | some k => (leaveFrame (comeInto s' c l k fr.rpc) fk l, some (.ok { next := .left })))

/-- UNWIND (R212). -/
def execUnwind (f : JumpF) (s : State) : Host.Outcome State Fault Refusal :=
  issue s (.unwind f) (seqBody fun s' c l _ =>
    let fk := (s'.lane c.wk l).frame
    if (s'.frame fk).depth < f.jd.toNat then (s', some (.fault (operandFault opDEPTH (f.jd.zeroExtend 64))))
    else
      match jumpTarget c.b f.off with
      | .error e => (s', some (.fault e))
      | .ok t =>
        let r := mkReq s' c (maskOf [l]) (.refill fk)
        match leaveN s' fk l f.jd.toNat with
        | (s1, none) => (s1, some (.ok { next := .left }))
        | (s1, some k) =>
          let s2 := s1.modLane c.wk l fun ln => { ln with frame := k, pc := t, cix := 0, st := .run }
          (if usableFrame s2 k then s2 else joinRefill s2 r k, some (.ok { next := .left })))

/-- EXIT (R403): the lanes leave every frame of their chains; a barrier phase may complete (R297), and a trap may end. -/
def execExit (f : BaseF) (s : State) : Host.Outcome State Fault Refusal :=
  issue s (.exit f) (fun s' c =>
    let s1 := c.lanes.foldl (fun st l => exitLane st c.wk l) s'
    (settleBarrier (settleV s1 c.wk) (s'.warp c.wk).team, allOk c { next := .left }))

/-- The index of LDF and STF (R213): the register, or the fault. -/
def indexOf (s : State) (wk l : Nat) (w : Bool) (a : Val) : Except LaneFault Nat :=
  let k := (lo32 a.bits).toNat
  let d := (s.frameOf wk l).demand
  if w && k % 2 == 1 then .error (operandFault opALIGN (BitVec.ofNat 64 k))
  else if d ≤ k + b2n w then .error (operandFault opINDEX (BitVec.ofNat 64 k))
  else .ok k

/-- The body of an instruction whose operands depend on a value read (LDF, STF): a block in any lane blocks the bundle; `src` says that
it is a source that is EMPTY (R132). -/
def rdBody (src : Bool) (f : State → Ctx → Nat → Srcs → Rd (Except LaneFault (State → State × LaneRes))) : Body := fun s c =>
  match readLanes s c c.lanes with
  | .ok xs =>
    let plan := xs.map fun e => (e.1, match e.2 with
      | .error e' => Rd.bad e'
      | .ok x => f s c e.1 x)
    if plan.any fun e => e.2.blocks then (if src then s.stallAll c else s, [])
    else plan.foldl (fun acc e =>
      match e.2 with
      | .ok (.ok g) => let r := g acc.1; (r.1, acc.2 ++ [(e.1, .ok r.2)])
      | .ok (.error e') => (acc.1, acc.2 ++ [(e.1, .fault e')])
      | .bad e' => (acc.1, acc.2 ++ [(e.1, .fault e')])
      | .block => acc) (s, [])
  | _ => (s, [])

/-- What LDF reads in one lane (R213): the register that the index names, or a pair, or the fault of the index. -/
def ldfRead (f : BaseF) (s : State) (wk l : Nat) (x : Srcs) : Rd (Except LaneFault Val) :=
  match indexOf s wk l (wBit f) x.av with
  | .error e => .ok (.error e)
  | .ok k =>
    let bt := f.md.getLsbD 1
    (if wBit f then readPair s wk l k bt
     else (readFReg s wk l k bt).bind fun v => .ok (Val.int (v.zeroExtend 64))).bind fun v => .ok (.ok v)

/-- LDF (R213). -/
def execLdf (f : BaseF) (s : State) : Host.Outcome State Fault Refusal :=
  issue s (.ldf f) (rdBody true fun s' c l x =>
    (ldfRead f s' c.wk l x).bind fun r => .ok (r.map fun v st => (st, { val := some v })))

/-- The write of STF in CMPCNT (R154): the values that its lanes have written, as `val` of their results. -/
def countStf (wk : Nat) (w : Bool) (r : State × List (Nat × LaneOut)) : State × List (Nat × LaneOut) :=
  let vs := r.2.filterMap fun e => match e.2 with | .ok x => x.val.map (·.bits) | .fault _ => none
  let lo := vs.map fun v => v.truncate 32
  (countWrite r.1 wk (if w then [lo, vs.map fun v => v.extractLsb' 32 32] else [lo]), r.2)

/-- STF (R213): the value written stands in the lane's result for the count of R154; the instruction has no destination field. -/
def execStf (f : BaseF) (s : State) : Host.Outcome State Fault Refusal :=
  issue s (.stf f) (fun s0 c0 => countStf c0.wk (wBit f) (rdBody false (fun s' c l x =>
    match indexOf s' c.wk l (wBit f) x.av with
    | .error e => .ok (.error e)
    | .ok k =>
      (dstReady s' c.wk l (if wBit f then [k, k + 1] else [k])).bind fun _ =>
        let fk := (s'.lane c.wk l).frame
        .ok (.ok fun st =>
          (if wBit f then putPair st fk l k x.bv else putFReg st fk l k (lo32 x.bv.bits), { val := some x.bv }))) s0 c0))

/-- What FRQ reads (R214). -/
def frqVal (s : State) (wk l sel : Nat) : Word :=
  let f := s.frameOf wk l
  match sel with
  | 0 => BitVec.ofNat 64 f.demand
  | 1 => BitVec.ofNat 64 f.fid
  | 2 => f.lset.zeroExtend 64
  | 3 => BitVec.ofNat 64 f.depth
  | _ => BitVec.ofNat 64 (s.freeGran (wkPk wk))

/-- FRQ (R214). -/
def execFrq (f : BaseF) (s : State) : Host.Outcome State Fault Refusal :=
  issue s (.frq f) (aluBody fun s' c l _ => res (frqVal s' c.wk l (bits f.md 2 0)))

end Sys2Proof.Machine
end

