-- ==== Sys2Proof/Machine/Load.lean ====
section
/-! DEFINITION. What loads and stores share (R218–R230): reads at the point of coherence, deferred results, the order of one
lane's accesses (R318), the acts of acquire and release accesses. -/

namespace Sys2Proof.Machine

/-! ### Reading a unit -/

/-- Bytes of an access through L1, with the tag of an 8-byte word (R14, R226). -/
def l1Get (s : State) (h : Who) (k : Key) (a n : Nat) : Acc (List Byte × Bool) :=
  (l1Read s h k a n).bind fun s1 b =>
    if n = 8 then (l1Word s1 h k a).bind fun s2 v => .ok s2 (b, v.tag) else .ok s1 (b, false)

/-- Bytes of the core's own dirty L1 data over what the point of coherence holds: newer bytes of the same location (R226). -/
def overDirty (s : State) (core : Nat) (k : Key) (a : Nat) (bs : List Byte) : List Byte :=
  bs.mapIdx fun i b =>
    match s.l1Find core k ((a + i) / 128) with
    | some e => if e.dirty.getLsbD ((a + i) % 128) then e.data.bytes.getD ((a + i) % 128) b else b
    | none => b

/-- The same for the tag of a word. -/
def overTag (s : State) (core : Nat) (k : Key) (a : Nat) (t : Bool) : Bool :=
  match s.l1Find core k (a / 128) with
  | some e => if e.tdirty.getLsbD (a % 128 / 8) then e.data.tags.getLsbD (a % 128 / 8) else t
  | none => t

/-- Read at the point of coherence (R322), with the tag of an 8-byte word. -/
def pocGet (s : State) (core : Nat) (k : Key) (a n : Nat) : Acc (List Byte × Bool) :=
  (pocRead s a n).bind fun s1 b =>
    let b1 := overDirty s1 core k a b
    if n = 8 then (pocWord s1 a).bind fun s2 v => .ok s2 (b1, overTag s2 core k a v.tag) else .ok s1 (b1, false)

/-- Write one published line of a core's L1 back, if it is there. -/
def lineBack (s : State) (h : Who) (key : Key) (line : Nat) : Acc Unit :=
  match s.l1Find h.core key line with
  | some e => l1Back s h e
  | none => .ok s ()

/-- Write several lines of a core's L1 back. -/
def linesBack (s : State) (h : Who) (key : Key) : List Nat → Acc Unit
  | [] => .ok s ()
  | l :: r => (lineBack s h key l).bind fun s1 _ => linesBack s1 h key r

/-- The read of an acquire at a scope (R322): in L1 at team scope and for private lines, else at the point of coherence; at cell and
system scope the core's own dirty bytes go there first, and the read returns only once no acknowledgement of a write to its lines is
outstanding. -/
def acqGet (s : State) (h : Who) (k : Key) (a n scope : Nat) : Acc (Option (List Byte × Bool)) :=
  if scope = 0 || !k.pub then (l1Get s h k a n).bind fun s1 b => .ok s1 (some b)
  else
    (if scope = 1 then .ok s () else linesBack s h k (linesOf a n)).bind fun s0 _ =>
      (pocGet s0 h.core k a n).bind fun s1 b =>
        .ok s1 (if scope = 1 || (linesOf a n).all s1.noAcks then some b else none)

/-- A word as its home holds it, past every cache (R230). -/
def farWord (s : State) (h : Who) (a : Nat) : Acc Val :=
  let g := a / 2 ^ 40
  if g = s.pkg.agent then
    if s.dir (localOf (a / 128)) = 3 then .bad .poison else .ok s (s.hbm.readWord (a % 2 ^ 40))
  else
    let line := if isHost g then halfKey (a / 64) else a / 128
    let there : Bool := if isHost g then s.ownHost (a / 64) else s.reaches g
    match s.transit.find? fun t => t.who == h.who && t.line == line with
    | some t => .ok s (lineWord t.data (a % 128 / 8))
    | none => if there then .need .rdnc line else .bad .poison

/-! ### Deferred results (R141, R142, R223) -/

/-- Who waits for a deferred result. -/
def deferWho (s : State) (d : Defer) : Who := ⟨wkCore d.wk, .defer d.id, (s.warp d.wk).tout.toNat⟩

/-- The register value of bytes loaded: zero-extended, or sign-extended to 32 bits (R223). -/
def loadVal (size : Nat) (sx : Bool) (bs : List Byte) : Word :=
  let n := ofBytes (bs.take 8)
  let v : BitVec 32 :=
    if size = 1 then (if sx then (BitVec.ofNat 8 n).signExtend 32 else BitVec.ofNat 32 n)
    else if size = 2 then (if sx then (BitVec.ofNat 16 n).signExtend 32 else BitVec.ofNat 32 n)
    else BitVec.ofNat 32 n
  if 8 ≤ size then BitVec.ofNat 64 n else v.zeroExtend 64

/-- The second eight bytes of a 16-byte access. -/
def highVal (bs : List Byte) : Word := BitVec.ofNat 64 (ofBytes (bs.drop 8))

/-- The value of a deferred load or far read, once it can be had. -/
def deferAcc (d : Defer) (s : State) : Acc (Word × Word) :=
  let h := deferWho s d
  match d.kind with
  | .load size sx =>
    (l1Read s h ⟨d.realm, d.obj, d.pub, d.base⟩ d.addr size).bind fun s1 b => .ok s1 (loadVal size sx b, highVal b)
  | _ => (farWord s h d.addr).bind fun s1 v => .ok s1 (v.bits, 0)

/-- The registers that a deferred result covers. -/
def deferRegs (d : Defer) : List Nat :=
  match d.kind with
  | .load size _ => regRange d.reg (if size = 16 then 4 else if size = 8 then 2 else 1)
  | _ => regRange d.reg 2

/-- Fill registers of one lane of a frame with the words of a result, tag 0 (R12, R142). -/
def fillRegs (s : State) (fk l : Nat) (rs : List Nat) (v v2 : Word) : State :=
  let vals : List (BitVec 32) := [v.truncate 32, v.extractLsb' 32 32, v2.truncate 32, v2.extractLsb' 32 32]
  (rs.zip vals).foldl (fun st e => putFReg st fk l e.1 e.2) s

/-- Mark registers of one lane of a frame EMPTY (R142). -/
def emptyRegs (s : State) (fk l : Nat) (rs : List Nat) : State :=
  rs.foldl (fun st n => st.modFrame fk fun f => (f.setReg n l ⟨0, .empty⟩).setPtag n l false) s

/-- Registers of one lane of a frame take a fault note (R144). -/
def noteRegs (s : State) (fk l : Nat) (rs : List Nat) (c : Cause) (sub : Byte) : State :=
  rs.foldl (fun st n => st.modFrame fk fun f => (f.setReg n l ⟨faultNote c sub, .faulted⟩).setPtag n l false) s

/-- One word of a register-form SGATH has arrived or been cancelled (R262). -/
def sgathWord (s : State) (d : Defer) : State :=
  match d.cmd with
  | none => s
  | some id => s.modCore (wkCore d.wk) fun c =>
      { c with shq := c.shq.map fun (j : ShJob) => if j.id = id then { j with left := j.left - 1 } else j }

/-- A deferred result is over: nothing waits for it, its instruction's write may be counted (R154), and its frame may be released
(R199). -/
def dropDefer (s : State) (d : Defer) : State :=
  let s1 := ({ s with defers := s.defers.filter fun x => x.id != d.id }).unwait (.defer d.id)
  tryRelease (sgathWord (landed s1 d.wk d.grp) d) d.frame

/-- The instruction that issues on a path as one whose deferred results have still to be counted (R154), with its name. -/
def State.openLanding (s : State) (wk path : Nat) : State × Nat :=
  match (s.warp wk).landing.find? fun e => e.2.path == some path with
  | some e => (s, e.1)
  | none => ({ s with uid := s.uid + 1 }.modWarp wk fun w => { w with landing := tset w.landing s.uid ⟨some path, []⟩ }, s.uid)

/-- A deferred result arrives in its registers, and is noted for the count of R154. -/
def landRegs (s : State) (d : Defer) (v v2 : Word) : State :=
  let rs := deferRegs d
  let col := [v.truncate 32, v.extractLsb' 32 32, v2.truncate 32, v2.extractLsb' 32 32].take rs.length
  let s1 := fillRegs s d.frame d.lane rs v v2
  match tfind (s.warp d.wk).landing d.grp with
  | some g => s1.modWarp d.wk fun w => { w with landing := tset w.landing d.grp { g with cols := g.cols ++ [col] } }
  | none => s1

/-- A deferred result arrives (R142); a cancelled producer's is discarded (R148). -/
def endDefer (s : State) (d : Defer) (r : Except RemoteFail (Word × Word)) : State :=
  let s1 :=
    if d.dead then s
    else
      match r with
      | .ok v =>
        if d.undef then
          let b := freeBytes s 16
          landRegs { s with fresh := s.fresh + 1 } d (BitVec.ofNat 64 (ofBytes (b.take 8))) (highVal b)
        else landRegs s d v.1 v.2
      | .error e => noteRegs s d.frame d.lane (deferRegs d) .remote e.sub
  dropDefer s1 d

/-- Whether a deferred result is the reply of a host call, which HCALL_REPLY delivers (R311). -/
def Defer.isHost (d : Defer) : Bool := match d.kind with | .host _ => true | _ => false

/-- Whether a deferred result is a read of memory of a lane. -/
def isRead (wk l : Nat) (d : Defer) : Bool :=
  d.wk == wk && d.lane == l && !d.dead && (match d.kind with | .host _ => false | _ => true)

/-- Whether a deferred load touches some of n bytes at an address. -/
def touches (a n : Nat) (d : Defer) : Bool :=
  match d.kind with
  | .load size _ => d.addr < a + n && a < d.addr + size
  | _ => false

/-- Whether a lane's earlier load of the same bytes, which comes first (R316, R318), has still to be performed; reads at the home
(FLD, SGATH) are in no such order. -/
def readAhead (s : State) (d : Defer) : Bool :=
  match d.kind with
  | .load n _ => (s.defers.takeWhile fun e => e.id != d.id).any fun e => isRead d.wk d.lane e && touches d.addr n e
  | _ => false

/-- Perform one deferred load or far read, if it can be performed now. -/
def tryDefer (s : State) (d : Defer) : State × Bool :=
  if d.dead then (dropDefer s d, true)
  else if readAhead s d then (s, false)
  else
    match runAcc s (deferWho s d) (deferAcc d) with
    | (s1, none) => (s1, false)
    | (s1, some r) => (endDefer s1 d r, true)

/-- Perform deferred reads one after another; false if one of them must still wait. -/
def tryDefers (s : State) : List Defer → State × Bool
  | [] => (s, true)
  | d :: r =>
    match tryDefer s d with
    | (s1, true) => tryDefers s1 r
    | (s1, false) => (s1, false)

/-- A lane's earlier loads of the same bytes are performed first (R226, R318). -/
def settleOwn (s : State) (wk l a n : Nat) : State × Bool :=
  tryDefers s (s.defers.filter fun d => isRead wk l d && touches a n d)

/-- Every earlier read of a lane is performed (R227, R294). -/
def settleAll (s : State) (wk l : Nat) : State × Bool := tryDefers s (s.defers.filter (isRead wk l))

/-- A deferred result of the instruction that issues on a path starts, with a number of its own: its registers become EMPTY (R142). -/
def addDefer (s : State) (path : Nat) (d : Defer) : State × Defer :=
  let o := s.openLanding d.wk path
  let e := { d with id := o.1.uid, grp := o.2 }
  (emptyRegs { o.1 with defers := o.1.defers ++ [e], uid := o.1.uid + 1 } d.frame d.lane (deferRegs d), e)

/-- Start a deferred read, and send what it needs. -/
def startDefer (s : State) (path : Nat) (d : Defer) : State :=
  let r := addDefer s path d
  match deferAcc r.2 r.1 with
  | .need k line => r.1.ask (deferWho r.1 r.2) k line
  | _ => r.1

/-! ### Acts of a lane's access -/

/-- The act of an acquire (R219) after a read has given its value. -/
def thenAcquire {α : Type} (s : State) (h : Who) (scope : Nat) (v : α) : Acc (Tried α) :=
  match acquireAct s h scope with
  | (s1, none) => .ok s1 (some (.ok v))
  | (s1, some none) => .ok s1 none
  | (s1, some (some e)) => .ok s1 (some (.error e))

/-- A read by a lane that does not retire before it has its data (R227, R233). -/
def readAct (wk l size : Nat) (acq : Bool) (scope : Nat) (s : State) (h : Who) (p : Place) :
    Acc (Tried (List Byte × Bool)) :=
  match settleOwn s wk l p.addr size with
  | (s1, false) => .ok s1 none
  | (s1, true) =>
    let given (st : State) (v : List Byte × Bool) : State × List Byte × Bool :=
      let r := openRead st wk p v.1
      (r.1, r.2, v.2)
    if !acq then (l1Get s1 h p.key p.addr size).bind fun s2 b => let r := given s2 b; .ok r.1 (some (.ok r.2))
    else
      (acqGet s1 h p.key p.addr size scope).bind fun s2 b =>
        match b with
        | none => .ok s2 none
        | some v => let r := given s2 v; thenAcquire r.1 h scope r.2

/-- What a releasing access of a lane waits for (R227): the lane's earlier reads, then the act of R219. -/
def thenRelease {α : Type} (s : State) (h : Who) (wk l scope : Nat) (k : State → Acc (Tried α)) : Acc (Tried α) :=
  match settleAll s wk l with
  | (s1, false) => .ok s1 none
  | (s1, true) =>
    match releaseAct s1 h scope with
    | (s2, none) => k s2
    | (s2, some none) => .ok s2 none
    | (s2, some (some e)) => .ok s2 (some (.error e))

/-- A lane's accesses to the same bytes come first; then the access. -/
def thenOwn {α : Type} (s : State) (wk l a n : Nat) (k : State → Acc (Tried α)) : Acc (Tried α) :=
  match settleOwn s wk l a n with
  | (s1, false) => .ok s1 none
  | (s1, true) => k s1

/-- The store of a lane (R224, R225): into L1 with permission; into a published object it sets ESCAPED (R74). A releasing store
beyond team scope goes on to the point of coherence (R320, R328; log 25). -/
def storeAct (wk l scope : Nat) (rel : Bool) (bs : List Byte) (tag : Bool) (s : State) (h : Who) (p : Place) :
    Acc (Tried Unit) :=
  let put (st : State) : Acc (Tried Unit) :=
    (l1Write st h p.key p.addr bs tag).bind fun s0 _ =>
    (if rel && scope != 0 && p.pub then lineBack s0 h p.key (p.addr / 128) else .ok s0 ()).bind fun s1 _ =>
      let s2 := spoil s1 wk p bs.length
      .ok (if p.pub then s2.escape (s2.warp wk).team else s2) (some (.ok ()))
  if rel then thenRelease s h wk l scope put else thenOwn s wk l p.addr bs.length put

/-- The body of an instruction whose lanes act in ascending order, each after the one before it: a lane that waits holds back
the lanes above it. -/
def orderedBody (f : State → Ctx → Nat → Srcs → State × Option LaneOut) : Body := fun s c =>
  match readLanes s c c.lanes with
  | .ok xs =>
    let r := xs.foldl (fun (acc : State × List (Nat × LaneOut) × Bool) e =>
      if acc.2.2 then acc
      else
        match e.2 with
        | .error e' => (acc.1, acc.2.1 ++ [(e.1, .fault e')], false)
        | .ok x =>
          let r := f acc.1 c e.1 x
          match r.2 with
          | some o => (r.1, acc.2.1 ++ [(e.1, o)], false)
          | none => (r.1, acc.2.1, true)) (s, [], false)
    (r.1, r.2.1)
  | _ => (s, [])

/-- Size in bytes of an M-format access (R221). -/
def memSize (f : MemF) : Nat := 2 ^ f.sz.toNat

/-- Effective offset of an M-format access (R10, R220). -/
def memOff (f : MemF) (base : Nat) (idx : Word) (size : Nat) : Int :=
  base + idx.toInt * 2 ^ f.sc.toNat + f.imm.toInt * size

end Sys2Proof.Machine
end

