-- ==== Sys2Proof/Machine/Atomic.lean ====
section
/-! DEFINITION. Group 9 (R290–R294): ATOM, RED, FENCE. -/

namespace Sys2Proof.Machine

/-- The new value of an atomic (R291), none where CAS does not write. -/
def atomOp {n : Nat} (op : Nat) (old c b : BitVec n) : Option (BitVec n) :=
  match op with
  | 0 => some (old + c)
  | 1 => some (minS old c)
  | 2 => some (maxS old c)
  | 3 => some (old &&& c)
  | 4 => some (old ||| c)
  | 5 => some (old ^^^ c)
  | 6 => some c
  | _ => if old = b then some c else none

/-- The same at 8 or 4 bytes, on and to bytes: the old value zero-extended, and the bytes to write. -/
def atomBytes (w : Bool) (op : Nat) (old : List Byte) (c b : Word) : Word × Option (List Byte) :=
  let o : Word := BitVec.ofNat 64 (ofBytes old)
  (o, if w then (atomOp op o c b).map fun v => bytesLE 8 v.toNat
      else (atomOp op (lo32 o) (lo32 c) (lo32 b)).map fun v => bytesLE 4 v.toNat)

/-- An L1 line with bytes written (R218). -/
def lineStored (e : L1Line) (o : Nat) (bs : List Byte) (tag : Bool) : L1Line :=
  { e with data := linePut e.data o bs tag
           dirty := e.dirty ||| maskAt 128 o bs.length
           tdirty := e.tdirty ||| wordMask o bs.length }

/-- Merge the core's L1 copy of a published line into L2, and drop it (R254, R290). -/
def mergeDrop (s : State) (h : Who) (k : Key) (line : Nat) : Acc Unit :=
  match s.l1Find h.core k line with
  | none => .ok s ()
  | some e =>
    (l1Back s h e).bind fun s1 _ =>
      .ok (s1.modCore h.core fun c => { c with l1 := c.l1.filter fun x => !isL1 k line x }) ()

/-- A read-modify-write of n bytes that lie in one line (R290): `upd` gives a result, and the bytes to write if any. A private
line is worked on in L1, a published one at the point of coherence with write permission. A remote home checks the request for that
permission against its selvedge table (R342); the package's own home does not (R421). -/
def rmw {α : Type} (s : State) (h : Who) (k : Key) (a n : Nat) (upd : List Byte → α × Option (List Byte)) : Acc α :=
  if isHost (a / 2 ^ 40) then
    (ownHalf s (a / 64) false).bind fun s1 _ =>
      (pocRead s1 a n).bind fun s2 b =>
        match upd b with
        | (r, some w) => (pocWrite s2 h a w).bind fun s3 _ => .ok s3 r
        | (r, none) => .ok s2 r
  else if k.pub then
    (mergeDrop s h k (a / 128)).bind fun s1 _ =>
      (takeLine s1 h (a / 128) false).bind fun s2 _ =>
        (pocRead s2 a n).bind fun s3 b =>
          match upd b with
          | (r, some w) => (pocWrite s3 h a w).bind fun s4 _ => .ok s4 r
          | (r, none) => .ok s3 r
  else
    (l1Own s h k (a / 128)).bind fun s1 e =>
      match upd (lineGet e.data (a % 128) n) with
      | (r, some w) => (l1Keep s1 h (lineStored e (a % 128) w false)).bind fun s2 _ => .ok s2 r
      | (r, none) => (l1Keep s1 h e).bind fun s2 _ => .ok s2 r

/-- An atomic of one lane (R290–R293): the waits of its release, its permission, the waits of its acquire, then the access as
a whole. -/
def atomAct (wk l n : Nat) (acq rel : Bool) (scope : Nat) (upd : List Byte → Word × Option (List Byte))
    (s : State) (h : Who) (p : Place) : Acc (Tried Word) :=
  let go (st : State) : Acc (Tried Word) :=
    (rmw st h p.key p.addr n fun b => upd (openRead st wk p b).2).bind fun s1 v =>
      let s2 := spoil (openRead s1 wk p (List.replicate n 0)).1 wk p n
      .ok (if p.pub then s2.escape (s2.warp wk).team else s2) (some (.ok v))
  let acquiring (st : State) : Acc (Tried Word) :=
    if acq && scope != 0 then
      match backAll st h (pubLines st h.core) with
      | (s1, some none) => .ok s1 none
      | (s1, some (some e)) => .ok s1 (some (.error e))
      | (s1, none) =>
        (if p.pub && !isHost (p.addr / 2 ^ 40) then takeLine s1 h (p.addr / 128) false else .ok s1 ()).bind fun s2 _ =>
          if p.pub && scope != 1 && !s2.noAcks (p.addr / 128) then .ok s2 none
          else
            (go s2).bind fun s3 v => .ok (acquireAct s3 h scope).1 v
    else go st
  if rel then thenRelease s h wk l scope acquiring else thenOwn s wk l p.addr n acquiring

/-- One lane of ATOM or RED. -/
def atomLane (f : SyF) (s : State) (c : Ctx) (l : Nat) (x : Srcs) : LaneAcc Word :=
  let w := f.sub.getLsbD 3
  let op := bits f.sub 2 0
  let n := if w then 8 else 4
  let off : Int := offOf x.av.bits + if op = 7 then 0 else x.bv.bits.toInt
  laneTry s c.wk l x.av off n [rR, rW] n 9
    (atomAct c.wk l n (f.ord.getLsbD 0) (f.ord.getLsbD 1) f.scope.toNat fun b => atomBytes w op b x.cv.bits x.bv.bits)

/-- ATOM (R291). -/
def execAtom (f : SyF) (s : State) : Host.Outcome State Fault Refusal :=
  issue s (.atom f) (orderedBody fun s' c l x => laneOut (atomLane f s' c l x) fun s1 v => (s1, res v))

/-- RED (R292): performed when the lane retires. -/
def execRed (f : SyF) (s : State) : Host.Outcome State Fault Refusal :=
  issue s (.red f) (orderedBody fun s' c l x => laneOut (atomLane f s' c l x) fun s1 _ => (s1, done))

/-- What a fence does for one lane (R294): the lane's earlier reads, then the acts of release and acquire. -/
def fenceLane (acq rel : Bool) (scope : Nat) (s : State) (wk l : Nat) : State × Tried Unit :=
  let h := whoLane s wk l
  runTry s h fun st =>
    let acquiring (st1 : State) : Acc (Tried Unit) := if acq then thenAcquire st1 h scope () else .ok st1 (some (.ok ()))
    if rel then thenRelease st h wk l scope acquiring
    else
      match settleAll st wk l with
      | (s1, false) => .ok s1 none
      | (s1, true) => acquiring s1

/-- FENCE (R294). -/
def execFence (f : SyF) (s : State) : Host.Outcome State Fault Refusal :=
  issue s (.fence f) (seqBody fun s' c l _ =>
    match fenceLane (f.ord.getLsbD 0) (f.ord.getLsbD 1) f.scope.toNat s' c.wk l with
    | (s1, none) => (s1, none)
    | (s1, some (.error e)) => (s1, some (.fault (flt .remote e.sub)))
    | (s1, some (.ok ())) => (s1, some done))

end Sys2Proof.Machine
end

