-- ==== Sys2Proof/Machine/BitLane.lean ====
section
/-! DEFINITION. Group 1: bit, field and lane instructions (R162–R167). -/

namespace Sys2Proof.Machine

/-- Number of 1 bits (R162). -/
def popcV {n : Nat} (a : BitVec n) : BitVec n := BitVec.ofNat n ((upto n).countP fun i => a.getLsbD i)
/-- Leading zero bits; the width for 0. -/
def clzV {n : Nat} (a : BitVec n) : BitVec n :=
  BitVec.ofNat n ((upto n).foldl (fun m i => if a.getLsbD i then n - 1 - i else m) n)
/-- Trailing zero bits; the width for 0. -/
def ctzV {n : Nat} (a : BitVec n) : BitVec n :=
  BitVec.ofNat n ((upto n).foldr (fun i m => if a.getLsbD i then i else m) n)
/-- A number from its bits, bit i given by f. -/
def bitsFrom (n : Nat) (f : Nat → Bool) : BitVec n :=
  BitVec.ofNat n ((upto n).foldl (fun m i => if f i then m + 2 ^ i else m) 0)
/-- Bit i moved to bit n − 1 − i. -/
def brevV {n : Nat} (a : BitVec n) : BitVec n := bitsFrom n fun i => a.getLsbD (n - 1 - i)
/-- Byte i moved to byte n/8 − 1 − i. -/
def bswapV {n : Nat} (a : BitVec n) : BitVec n := bitsFrom n fun i => a.getLsbD (8 * (n / 8 - 1 - i / 8) + i % 8)
def rolV {n : Nat} (a b : BitVec n) : BitVec n := a.rotateLeft (b.toNat % n)
def rorV {n : Nat} (a b : BitVec n) : BitVec n := a.rotateRight (b.toNat % n)
/-- POS and the length e of a field under a control value (R163). -/
def fieldPos {n : Nat} (c : BitVec n) : Nat := c.toNat % 64
def fieldLen {n : Nat} (c : BitVec n) : Nat :=
  if fieldPos c < n then min (c.toNat / 256 % 128) (n - fieldPos c) else 0
def bfxuV {n : Nat} (a c : BitVec n) : BitVec n := BitVec.ofNat n (a.toNat / 2 ^ fieldPos c % 2 ^ fieldLen c)
def bfxV {n : Nat} (a c : BitVec n) : BitVec n :=
  let e := fieldLen c
  let v := a.toNat / 2 ^ fieldPos c % 2 ^ e
  if e = 0 then 0 else if 2 ^ (e - 1) ≤ v then BitVec.ofInt n ((v : Int) - 2 ^ e) else BitVec.ofNat n v
def bfiV {n : Nat} (a b c : BitVec n) : BitVec n :=
  let m := BitVec.ofNat n ((2 ^ fieldLen c - 1) <<< fieldPos c)
  (a &&& ~~~m) ||| (BitVec.ofNat n ((b.toNat % 2 ^ fieldLen c) <<< fieldPos c))

/-- POPC (R162). -/
def execPopc (f : BaseF) (s : State) : Host.Outcome State Fault Refusal :=
  issue s (.popc f) (alu1 popcV f)

/-- CLZ (R162). -/
def execClz (f : BaseF) (s : State) : Host.Outcome State Fault Refusal :=
  issue s (.clz f) (alu1 clzV f)

/-- CTZ (R162). -/
def execCtz (f : BaseF) (s : State) : Host.Outcome State Fault Refusal :=
  issue s (.ctz f) (alu1 ctzV f)

/-- BREV (R162). -/
def execBrev (f : BaseF) (s : State) : Host.Outcome State Fault Refusal :=
  issue s (.brev f) (alu1 brevV f)

/-- BSWAP (R162). -/
def execBswap (f : BaseF) (s : State) : Host.Outcome State Fault Refusal :=
  issue s (.bswap f) (alu1 bswapV f)

/-- ROL (R162). -/
def execRol (f : BaseF) (s : State) : Host.Outcome State Fault Refusal :=
  issue s (.rol f) (alu2 rolV f)

/-- ROR (R162). -/
def execRor (f : BaseF) (s : State) : Host.Outcome State Fault Refusal :=
  issue s (.ror f) (alu2 rorV f)

/-- BFX (R163). -/
def execBfx (f : BaseF) (s : State) : Host.Outcome State Fault Refusal :=
  issue s (.bfx f) (alu2 bfxV f)

/-- BFXU (R163). -/
def execBfxu (f : BaseF) (s : State) : Host.Outcome State Fault Refusal :=
  issue s (.bfxu f) (alu2 bfxuV f)

/-- BFI (R163). -/
def execBfi (f : BaseF) (s : State) : Host.Outcome State Fault Refusal :=
  issue s (.bfi f) (alu3 bfiV f)

/-! ### Lanes of the bundle -/

/-- The body of a cross-lane instruction (R164): the lanes that read their sources without a fault are its participants;
each computes its result from what the participants read. -/
def crossBody (f : State → Ctx → List (Nat × Srcs) → Nat → Srcs → LaneOut) : Body := fun s c =>
  match readLanes s c c.lanes with
  | .ok xs =>
    let ps := xs.filterMap fun e => match e.2 with | .ok x => some (e.1, x) | .error _ => none
    (s, xs.map fun e => (e.1, match e.2 with | .error e' => .fault e' | .ok x => f s c ps e.1 x))
  | _ => (s, [])

/-- Source lanes of the exchange instructions (R165): segment size z, lane l, operand k. -/
def pickSrc (z l : Nat) (k : Word) : Option Nat := some (l - l % z + (lo32 k).toNat % z)
def shfSrc (z l : Nat) (k : Word) : Option Nat :=
  let t : Int := (l % z : Nat) + (lo32 k).toInt
  if t < 0 ∨ (z : Int) ≤ t then none else some (l - l % z + t.toNat)
def rotSrc (z l : Nat) (k : Word) : Option Nat :=
  some (l - l % z + (((l % z : Nat) + (lo32 k).toInt) % (z : Int)).toNat)
def flipSrc (z l : Nat) (k : Word) : Option Nat := some (l - l % z + ((l % z) ^^^ ((lo32 k).toNat % z)))

/-- The lane-exchange instructions (R165). -/
def lxBody (f : BaseF) (src : Nat → Nat → Word → Option Nat) : Body :=
  crossBody fun _ _ ps l x =>
    let z := 32 >>> bits f.md 4 2
    let from? := (src z l x.bv.bits).bind fun m => tfind ps m
    let v := match from? with | some y => y.av | none => x.av
    .ok { val := some (if (wBit f) then v else Val.int v.bits)
          preds := if f.md.getLsbD 9 then [(bits f.md 8 5, from?.isSome)] else [] }

/-- LX.PICK (R165). -/
def execLxPick (f : BaseF) (s : State) : Host.Outcome State Fault Refusal :=
  issue s (.lxPick f) (lxBody f pickSrc)

/-- LX.SHF (R165). -/
def execLxShf (f : BaseF) (s : State) : Host.Outcome State Fault Refusal :=
  issue s (.lxShf f) (lxBody f shfSrc)

/-- LX.ROT (R165). -/
def execLxRot (f : BaseF) (s : State) : Host.Outcome State Fault Refusal :=
  issue s (.lxRot f) (lxBody f rotSrc)

/-- LX.FLIP (R165). -/
def execLxFlip (f : BaseF) (s : State) : Host.Outcome State Fault Refusal :=
  issue s (.lxFlip f) (lxBody f flipSrc)

/-- Predicate of a lane named by the low nibble of a field, complemented by NA (R166). -/
def predIn (s : State) (wk l : Nat) (code : Byte) (na : Bool) : Bool := (s.lane wk l).getP (code.toNat % 16) != na

/-- PRDC.OR (R166). -/
def execPrdcOr (f : BaseF) (s : State) : Host.Outcome State Fault Refusal :=
  issue s (.prdcOr f) (crossBody fun s' c ps _ _ =>
    .ok { preds := [(f.d.toNat % 16, ps.any fun e => predIn s' c.wk e.1 f.a (f.md.getLsbD 10))] })

/-- PRDC.AND (R166). -/
def execPrdcAnd (f : BaseF) (s : State) : Host.Outcome State Fault Refusal :=
  issue s (.prdcAnd f) (crossBody fun s' c ps _ _ =>
    .ok { preds := [(f.d.toNat % 16, ps.all fun e => predIn s' c.wk e.1 f.a (f.md.getLsbD 10))] })

/-- PRDC.MSK (R166): the mask of the participants whose predicate holds. -/
def execPrdcMsk (f : BaseF) (s : State) : Host.Outcome State Fault Refusal :=
  issue s (.prdcMsk f) (crossBody fun s' c ps _ _ =>
    res ((maskOf ((ps.filter fun e => predIn s' c.wk e.1 f.a (f.md.getLsbD 10)).map (·.1))).zeroExtend 64))

/-- EQMASK (R166): the mask of the participants with an equal value. -/
def execEqmask (f : BaseF) (s : State) : Host.Outcome State Fault Refusal :=
  issue s (.eqmask f) (crossBody fun _ _ ps _ x =>
    res ((maskOf ((ps.filter fun e => cmp2 (wBit f) (fun a b => a == b) e.2.av.bits x.av.bits).map (·.1))).zeroExtend 64))

/-- PARTM (R166): the mask of the participants. -/
def execPartm (f : BaseF) (s : State) : Host.Outcome State Fault Refusal :=
  issue s (.partm f) (crossBody fun _ _ ps _ _ => res ((maskOf (ps.map (·.1))).zeroExtend 64))

/-- A reduction over the participants (R167): the first value, combined with each later one. -/
def wredBody (i : BaseF) (f : {n : Nat} → BitVec n → BitVec n → BitVec n) : Body :=
  crossBody fun _ _ ps _ x =>
    match ps with
    | [] => res (at1 (wBit i) (fun a => a) x.av.bits)
    | e :: r => res (r.foldl (fun m y => at2 (wBit i) f m y.2.av.bits) (at1 (wBit i) (fun a => a) e.2.av.bits))

/-- WRED.ADD (R167). -/
def execWredAdd (f : BaseF) (s : State) : Host.Outcome State Fault Refusal :=
  issue s (.wredAdd f) (wredBody f (fun a b => a + b))

/-- WRED.MIN (R167). -/
def execWredMin (f : BaseF) (s : State) : Host.Outcome State Fault Refusal :=
  issue s (.wredMin f) (wredBody f (fun a b => if f.md.getLsbD 1 then minU a b else minS a b))

/-- WRED.MAX (R167). -/
def execWredMax (f : BaseF) (s : State) : Host.Outcome State Fault Refusal :=
  issue s (.wredMax f) (wredBody f (fun a b => if f.md.getLsbD 1 then maxU a b else maxS a b))

/-- WRED.AND (R167). -/
def execWredAnd (f : BaseF) (s : State) : Host.Outcome State Fault Refusal :=
  issue s (.wredAnd f) (wredBody f (fun a b => a &&& b))

/-- WRED.OR (R167). -/
def execWredOr (f : BaseF) (s : State) : Host.Outcome State Fault Refusal :=
  issue s (.wredOr f) (wredBody f (fun a b => a ||| b))

/-- WRED.XOR (R167). -/
def execWredXor (f : BaseF) (s : State) : Host.Outcome State Fault Refusal :=
  issue s (.wredXor f) (wredBody f (fun a b => a ^^^ b))

end Sys2Proof.Machine
end

