-- ==== Sys2Proof/Machine/Predicate.lean ====
section
/-! DEFINITION. Group 2: compares and predicates (R168–R170). -/

namespace Sys2Proof.Machine

/-- What a compare writes in a lane under its combining type (R169): the pairs for P1 and P2, from their old values. -/
def combine (ct : Nat) (p1 p2 : Nat) (o1 o2 hit : Bool) : List (Nat × Bool) :=
  let v := hit != (3 < ct)
  match ct % 4 with
  | 1 => [(p1, o1 && v), (p2, o2 && !v)]
  | 2 => [(p1, o1 || v), (p2, o2 || !v)]
  | _ => [(p1, v), (p2, !v)]

/-- The predicates that D names in a compare (R168). -/
def cmpP1 (f : BaseF) : Nat := f.d.toNat / 16
def cmpP2 (f : BaseF) : Nat := f.d.toNat % 16

/-- The lanes of the bundle that are not active (R169, .zf). -/
def idleLanes (c : Ctx) : List Nat := (lanesOf c.b.lanes).filter fun l => !c.active.contains l

/-- The body of a compare (R168, R169, R181): `hit` gives the truth of a lane's condition and its flags. Under .zf and .zfn
the lanes of the bundle that are not active have both predicates cleared. -/
def compareBody (f : BaseF) (hit : Srcs → Bool × BitVec 7) : Body := fun s c =>
  match readLanes s c c.lanes with
  | .ok xs =>
    let ct := bits f.md 6 4
    let s1 := if ct % 4 = 3 then
        (idleLanes c).foldl (fun st l => st.modLane c.wk l fun ln => (ln.setP (cmpP1 f) false).setP (cmpP2 f) false) s
      else s
    (s1, xs.map fun e => (e.1, match e.2 with
      | .error e' => .fault e'
      | .ok x =>
        let h := hit x
        let ln := s.lane c.wk e.1
        .ok { preds := combine ct (cmpP1 f) (cmpP2 f) (ln.getP (cmpP1 f)) (ln.getP (cmpP2 f)) h.1, flags := h.2 }))
  | _ => (s, [])

/-- The conditions of ICMP and ICMPU (R168). -/
def condS {n : Nat} (k : Nat) (a b : BitVec n) : Bool :=
  match k with
  | 0 => a == b | 1 => a != b | 2 => a.toInt < b.toInt | 3 => a.toInt ≤ b.toInt | 4 => b.toInt < a.toInt
  | _ => b.toInt ≤ a.toInt
def condU {n : Nat} (k : Nat) (a b : BitVec n) : Bool :=
  match k with
  | 0 => a == b | 1 => a != b | 2 => a.toNat < b.toNat | 3 => a.toNat ≤ b.toNat | 4 => b.toNat < a.toNat
  | _ => b.toNat ≤ a.toNat

/-- ICMP (R168): signed. -/
def execIcmp (f : BaseF) (s : State) : Host.Outcome State Fault Refusal :=
  issue s (.icmp f) (compareBody f fun x => (cmp2 (wBit f) (condS (bits f.md 3 1)) x.av.bits x.bv.bits, 0))

/-- ICMPU (R168): unsigned. -/
def execIcmpu (f : BaseF) (s : State) : Host.Outcome State Fault Refusal :=
  issue s (.icmpu f) (compareBody f fun x => (cmp2 (wBit f) (condU (bits f.md 3 1)) x.av.bits x.bv.bits, 0))

/-- TSTB (R168): whether A AND B is nonzero. -/
def execTstb (f : BaseF) (s : State) : Host.Outcome State Fault Refusal :=
  issue s (.tstb f) (compareBody f fun x => (cmp2 (wBit f) (fun a b => a &&& b != 0) x.av.bits x.bv.bits, 0))

/-- The predicate instructions of two sources (R170). -/
def predBody (f : BaseF) (op : Bool → Bool → Bool) : Body :=
  aluBody fun s c l _ =>
    .ok { preds := [(f.d.toNat % 16, op (predIn s c.wk l f.a (f.md.getLsbD 7)) (predIn s c.wk l f.b (f.md.getLsbD 8)))] }

/-- PAND (R170). -/
def execPand (f : BaseF) (s : State) : Host.Outcome State Fault Refusal :=
  issue s (.pand f) (predBody f (fun a b => a && b))

/-- POR (R170). -/
def execPor (f : BaseF) (s : State) : Host.Outcome State Fault Refusal :=
  issue s (.por f) (predBody f (fun a b => a || b))

/-- PXOR (R170). -/
def execPxor (f : BaseF) (s : State) : Host.Outcome State Fault Refusal :=
  issue s (.pxor f) (predBody f (fun a b => a != b))

/-- PNOT (R170). -/
def execPnot (f : BaseF) (s : State) : Host.Outcome State Fault Refusal :=
  issue s (.pnot f) (predBody f (fun a _ => !a))

/-- PMOV (R170). -/
def execPmov (f : BaseF) (s : State) : Host.Outcome State Fault Refusal :=
  issue s (.pmov f) (predBody f (fun a _ => a))

/-- PSET (R170): p[i] := A[i] for each i with B[i]. -/
def execPset (f : BaseF) (s : State) : Host.Outcome State Fault Refusal :=
  issue s (.pset f) (aluBody fun _ _ _ x =>
    .ok { preds := ((upto 16).filter fun i => x.bv.bits.getLsbD i).map fun i => (i, x.av.bits.getLsbD i) })

/-- PGET (R170): the sixteen predicates as bits. -/
def execPget (f : BaseF) (s : State) : Host.Outcome State Fault Refusal :=
  issue s (.pget f) (aluBody fun s' c l _ => res ((s'.lane c.wk l).p.zeroExtend 64))

end Sys2Proof.Machine
end

