-- ==== Sys2Proof/Machine/Float.lean ====
section
/-! DEFINITION. The number formats and their arithmetic (R35–R53, R178–R188): values are exact dyadic numbers m · 2^e,
every result is formed exactly and rounded once, and overflow, the flags and the NaN rules are read off that one
rounding. -/

namespace Sys2Proof.Machine

/-- A binary floating-point format (R35): width, exponent and mantissa bits, bias; `e4m3` has no infinity and one NaN
(R36). -/
structure Fmt where
  width : Nat
  ebits : Nat
  mbits : Nat
  bias  : Nat
  e4m3  : Bool
  deriving DecidableEq, Repr

def fE4M3 : Fmt := ⟨8, 4, 3, 7, true⟩
def fE5M2 : Fmt := ⟨8, 5, 2, 15, false⟩
def fFP16 : Fmt := ⟨16, 5, 10, 15, false⟩
def fBF16 : Fmt := ⟨16, 8, 7, 127, false⟩
def fFP32 : Fmt := ⟨32, 8, 23, 127, false⟩
def fFP64 : Fmt := ⟨64, 11, 52, 1023, false⟩

/-- What an encoding means: a NaN with its sign and whether it signals; an infinity; or (−1)^s · m · 2^e. -/
inductive FV where
  | nan (s sig : Bool)
  | inf (s : Bool)
  | fin (s : Bool) (m : Nat) (e : Int)
  deriving DecidableEq, Repr

/-- Decode an encoding (R35, R36). -/
def decodeF (F : Fmt) (x : Nat) : FV :=
  let s := x / 2 ^ (F.width - 1) % 2 == 1
  let E := x / 2 ^ F.mbits % 2 ^ F.ebits
  let M := x % 2 ^ F.mbits
  let maxE := 2 ^ F.ebits - 1
  if E = maxE ∧ (!F.e4m3 || M == 2 ^ F.mbits - 1) then
    if M = 0 then .inf s
    else .nan s (!F.e4m3 && M / 2 ^ (F.mbits - 1) % 2 == 0)
  else if E = 0 then .fin s M (1 - (F.bias : Int) - F.mbits)
  else .fin s (M + 2 ^ F.mbits) ((E : Int) - F.bias - F.mbits)

/-- The sign bit of a format at its place. -/
def signBit (F : Fmt) (s : Bool) : Nat := if s then 2 ^ (F.width - 1) else 0
/-- Canonical NaN (R36). -/
def canonNaN (F : Fmt) (s : Bool) : Nat :=
  signBit F s + (2 ^ F.ebits - 1) * 2 ^ F.mbits + (if F.e4m3 then 2 ^ F.mbits - 1 else 2 ^ (F.mbits - 1))
/-- Infinity (none in E4M3). -/
def infOf (F : Fmt) (s : Bool) : Nat := signBit F s + (2 ^ F.ebits - 1) * 2 ^ F.mbits
/-- The largest finite number (R35). -/
def maxFin (F : Fmt) (s : Bool) : Nat :=
  signBit F s + (if F.e4m3 then 2 ^ (F.width - 1) - 2 else (2 ^ F.ebits - 1) * 2 ^ F.mbits - 1)
/-- Zero. -/
def zeroOf (F : Fmt) (s : Bool) : Nat := signBit F s

/-- Whether rounding goes up in magnitude (R47): mode, sign, whether the kept part is odd, and how the part cut off
compares with half a unit (`lt`, `eq`, `gt`), given that it is not zero. -/
def roundsUp (rm : Nat) (s odd : Bool) (c : Ordering) : Bool :=
  match rm with
  | 0 => c == .gt || (c == .eq && odd)
  | 1 => false
  | 2 => !s
  | 3 => s
  | _ => c != .lt

/-- m · 2^e (with more beyond if `sticky`) in units of 2^q, cut off: the integer part, whether it is exact, and how the
rest compares with half. -/
def cutAt (m : Nat) (e q : Int) (sticky : Bool) : Nat × Bool × Ordering :=
  if q ≤ e then (m <<< (e - q).toNat, !sticky, .lt)
  else
    let k := (q - e).toNat
    let n := m >>> k
    let r := m - n <<< k
    let half := 1 <<< (k - 1)
    (n, r == 0 && !sticky, if r < half then .lt else if half < r then .gt else if sticky then .gt else .eq)

/-- m · 2^e rounded to an integer number of units 2^q: the number and whether it is exact. -/
def roundAt (rm : Nat) (s : Bool) (m : Nat) (e q : Int) (sticky : Bool) : Nat × Bool :=
  let c := cutAt m e q sticky
  if c.2.1 then (c.1, true)
  else (if roundsUp rm s (c.1 % 2 == 1) c.2.2 then c.1 + 1 else c.1, false)

/-- Round (−1)^s · m · 2^e once to a format (R47, R50) with its flags (R48). `sticky` says that the exact value lies
strictly between m and m + 1 units; m is then long enough to decide every rounding. -/
def roundF (F : Fmt) (rm : Nat) (sat : Bool) (s : Bool) (m : Nat) (e : Int) (sticky : Bool) : Nat × BitVec 7 :=
  if m = 0 ∧ sticky = false then (zeroOf F s, 0)
  else
    let top : Int := e + Nat.log2 m
    let qmin : Int := 1 - (F.bias : Int) - F.mbits
    let q := max (top - F.mbits) qmin
    let r := roundAt rm s m e q sticky
    let carry := r.1 = 2 ^ (F.mbits + 1)
    let n := if carry then 2 ^ F.mbits else r.1
    let q' := if carry then q + 1 else q
    let be : Int := if n < 2 ^ F.mbits then 0 else q' + F.mbits + F.bias
    let maxBe : Int := (2 ^ F.ebits : Nat) - (if F.e4m3 then 1 else 2)
    let ovf := maxBe < be || (F.e4m3 && be == maxBe && n == 2 ^ (F.mbits + 1) - 1)
    if ovf then
      let fl := flagOF ||| flagNX
      if sat then (maxFin F s, fl)
      else if F.e4m3 then (canonNaN F s, fl)
      else if rm = 0 ∨ rm = 4 ∨ (rm = 2 ∧ !s) ∨ (rm = 3 ∧ s) then (infOf F s, fl)
      else (maxFin F s, fl)
    else
      let code := if be ≤ 0 then n else (be.toNat - 1) * 2 ^ F.mbits + n
      let tiny := be = 0
      (signBit F s + code, if r.2 then 0 else if tiny then flagUF ||| flagNX else flagNX)

/-- A signed exact number m · 2^e rounded to a format; `zs` is the sign of an exact zero. -/
def roundI (F : Fmt) (rm : Nat) (sat : Bool) (m : Int) (e : Int) (zs : Bool) : Nat × BitVec 7 :=
  if m = 0 then (zeroOf F zs, 0) else roundF F rm sat (m < 0) m.natAbs e false

/-- NV if a bit is set. -/
def nvIf (b : Bool) : BitVec 7 := if b then flagNV else 0

/-- Whether an operand is a signalling NaN. -/
def FV.isSig : FV → Bool
  | .nan _ g => g
  | _ => false

/-- The NaN result of operands of which some are NaN (R37): the sign of the first in order. -/
def nanOf (F : Fmt) (xs : List FV) : Option (Nat × BitVec 7) :=
  let fl := nvIf (xs.any FV.isSig)
  (xs.findSome? fun x => match x with | .nan s _ => some s | _ => none).map fun s => (canonNaN F s, fl)

/-- A NaN made from operands that are none (R37): positive, NV. -/
def newNaN (F : Fmt) : Nat × BitVec 7 := (canonNaN F false, flagNV)

/-- Signed numerator of a finite value. -/
def sgn (s : Bool) (m : Nat) : Int := if s then -(m : Int) else m

/-- The exact sum of m1 · 2^e1 and m2 · 2^e2. -/
def addDy (m1 e1 m2 e2 : Int) : Int × Int :=
  let e := min e1 e2
  (m1 * 2 ^ (e1 - e).toNat + m2 * 2 ^ (e2 - e).toNat, e)

/-- Sign of an exact zero sum (R178). -/
def zeroSumSign (rm : Nat) (s1 s2 : Bool) : Bool := if s1 == s2 then s1 else rm == 3

/-- A + B (R178). -/
def addF (F : Fmt) (rm : Nat) (sat : Bool) (a b : FV) : Nat × BitVec 7 :=
  match nanOf F [a, b] with
  | some r => r
  | none =>
    match a, b with
    | .inf s, .inf t => if s = t then (infOf F s, 0) else newNaN F
    | .inf s, _ => (infOf F s, 0)
    | _, .inf t => (infOf F t, 0)
    | .fin s m e, .fin t n g =>
      let d := addDy (sgn s m) e (sgn t n) g
      roundI F rm sat d.1 d.2 (zeroSumSign rm s t)
    | _, _ => newNaN F

/-- A value with its sign inverted; a NaN keeps its own (R178, FSUB). -/
def negFV : FV → FV
  | .nan s g => .nan s g
  | .inf s => .inf !s
  | .fin s m e => .fin (!s) m e

/-- A · B (R178). -/
def mulF (F : Fmt) (rm : Nat) (sat : Bool) (a b : FV) : Nat × BitVec 7 :=
  match nanOf F [a, b] with
  | some r => r
  | none =>
    match a, b with
    | .inf s, .inf t => (infOf F (s != t), 0)
    | .inf s, .fin t n _ => if n = 0 then newNaN F else (infOf F (s != t), 0)
    | .fin s m _, .inf t => if m = 0 then newNaN F else (infOf F (s != t), 0)
    | .fin s m e, .fin t n g => roundF F rm sat (s != t) (m * n) (e + g) false
    | _, _ => newNaN F

/-- Whether a product is ∞ · 0. -/
def infZero : FV → FV → Bool
  | .inf _, .fin _ n _ => n == 0
  | .fin _ m _, .inf _ => m == 0
  | _, _ => false

/-- A · B + C with one rounding (R178). -/
def fmaF (F : Fmt) (rm : Nat) (sat : Bool) (a b c : FV) : Nat × BitVec 7 :=
  let iz := infZero a b
  match nanOf F [a, b, c] with
  | some r => (r.1, r.2 ||| nvIf iz)
  | none =>
    if iz then newNaN F
    else
      match a, b, c with
      | .fin s m e, .fin t n g, .fin u k h =>
        let d := addDy (sgn (s != t) (m * n)) (e + g) (sgn u k) h
        roundI F rm sat d.1 d.2 (zeroSumSign rm (s != t) u)
      | .fin _ _ _, .fin _ _ _, .inf u => (infOf F u, 0)
      | x, y, z =>
        let sx := match x with | .inf s => s | .fin s _ _ => s | .nan s _ => s
        let sy := match y with | .inf s => s | .fin s _ _ => s | .nan s _ => s
        match z with
        | .inf u => if u = (sx != sy) then (infOf F u, 0) else newNaN F
        | _ => (infOf F (sx != sy), 0)

/-- The integer square root, bit by bit from bit n down. -/
def isqrtFrom (x : Nat) : Nat → Nat → Nat
  | 0, r => if (r + 1) * (r + 1) ≤ x then r + 1 else r
  | n + 1, r =>
    let c := r + 2 ^ (n + 1)
    isqrtFrom x n (if c * c ≤ x then c else r)

/-- The integer square root of a number. -/
def isqrt (x : Nat) : Nat := isqrtFrom x (Nat.log2 x / 2 + 1) 0

/-- m1 · 2^e1 / (m2 · 2^e2) to at least 70 bits: quotient, exponent, whether more follows. -/
def divDy (m1 : Nat) (e1 : Int) (m2 : Nat) (e2 : Int) : Nat × Int × Bool :=
  let k := Nat.log2 m2 + 70
  let x := m1 <<< k
  (x / m2, e1 - e2 - k, x % m2 != 0)

/-- A / B (R178). -/
def divF (F : Fmt) (rm : Nat) (sat : Bool) (a b : FV) : Nat × BitVec 7 :=
  match nanOf F [a, b] with
  | some r => r
  | none =>
    match a, b with
    | .inf _, .inf _ => newNaN F
    | .inf s, .fin t _ _ => (infOf F (s != t), 0)
    | .fin s _ _, .inf t => (zeroOf F (s != t), 0)
    | .fin s m e, .fin t n g =>
      if n = 0 then (if m = 0 then newNaN F else (infOf F (s != t), flagDZ))
      else if m = 0 then (zeroOf F (s != t), 0)
      else
        let d := divDy m e n g
        roundF F rm sat (s != t) d.1 d.2.1 d.2.2
    | _, _ => newNaN F

/-- √A (R178). -/
def sqrtF (F : Fmt) (rm : Nat) (sat : Bool) (a : FV) : Nat × BitVec 7 :=
  match nanOf F [a] with
  | some r => r
  | none =>
    match a with
    | .inf s => if s then newNaN F else (infOf F false, 0)
    | .fin s m e =>
      if m = 0 then (zeroOf F s, 0)
      else if s then newNaN F
      else
        let k : Nat := 140 + (e % 2).toNat
        let x := m <<< k
        let r := isqrt x
        roundF F rm sat false r ((e - k) / 2) (r * r != x)
    | .nan _ _ => newNaN F

/-- 1 / √A (R178). -/
def rsqF (F : Fmt) (rm : Nat) (sat : Bool) (a : FV) : Nat × BitVec 7 :=
  match nanOf F [a] with
  | some r => r
  | none =>
    match a with
    | .inf s => if s then newNaN F else (zeroOf F false, 0)
    | .fin s m e =>
      if m = 0 then (infOf F s, flagDZ)
      else if s then newNaN F
      else
        let m' := if e % 2 = 0 then m else m * 2
        let e' := if e % 2 = 0 then e else e - 1
        let k := 100 + Nat.log2 m'
        let r := isqrt (2 ^ (2 * k) / m')
        roundF F rm sat false r (-(e' / 2) - k) (r * r * m' != 2 ^ (2 * k))
    | .nan _ _ => newNaN F

/-- The order of two numbers that are no NaN: −1, 0, 1; zeros are equal. -/
def cmpFV (a b : FV) : Int :=
  match a, b with
  | .inf s, .inf t => if s = t then 0 else if s then -1 else 1
  | .inf s, _ => if s then -1 else 1
  | _, .inf t => if t then 1 else -1
  | .fin s m e, .fin t n g =>
    let d := addDy (sgn s m) e (-(sgn t n)) g
    if d.1 < 0 then -1 else if d.1 = 0 then 0 else 1
  | _, _ => 0

/-- Whether a value is a NaN. -/
def FV.isNaN : FV → Bool
  | .nan _ _ => true
  | _ => false
/-- Sign of a value. -/
def FV.neg : FV → Bool
  | .nan s _ => s
  | .inf s => s
  | .fin s _ _ => s

/-- FMIN and FMAX on encodings (R179). -/
def minMaxF (F : Fmt) (mx : Bool) (x y : Nat) : Nat × BitVec 7 :=
  let a := decodeF F x
  let b := decodeF F y
  let fl := nvIf (a.isSig || b.isSig)
  match a.isNaN, b.isNaN with
  | true, true => (canonNaN F a.neg, fl)
  | true, false => (y, fl)
  | false, true => (x, fl)
  | false, false =>
    let c := cmpFV a b
    let less := c < 0 || (c == 0 && a.neg && !b.neg)
    let eq := c == 0 && a.neg == b.neg
    (if eq then x else if less != mx then x else y, fl)

/-- The class mask of an encoding (R182). -/
def classF (F : Fmt) (x : Nat) : Nat :=
  match decodeF F x with
  | .inf s => if s then 2 ^ 0 else 2 ^ 7
  | .nan _ g => if g then 2 ^ 8 else 2 ^ 9
  | .fin s m _ =>
    if m = 0 then (if s then 2 ^ 3 else 2 ^ 4)
    else if m < 2 ^ F.mbits then (if s then 2 ^ 2 else 2 ^ 5)
    else (if s then 2 ^ 1 else 2 ^ 6)

/-- The condition of FCMP and DCMP and its NV flag (R181). -/
def condF (k : Nat) (sig : Bool) (a b : FV) : Bool × BitVec 7 :=
  let un := a.isNaN || b.isNaN
  let c := cmpFV a b
  let hit := if un then k == 1 || k == 6
    else match k with
      | 0 => c == 0 | 1 => c != 0 | 2 => c < 0 | 3 => c ≤ 0 | 4 => 0 < c | 5 => 0 ≤ c | 6 => false | _ => true
  (hit, nvIf (a.isSig || b.isSig || (sig && 2 ≤ k && k ≤ 5 && un)))

/-! ### Integers and TS8 -/

/-- Round an exact value to an integer of a range (R52): `lo ≤ n ≤ hi`. DESIGN CHOICE (log 78): a signalling NaN sets NV (R37, R48)
beside the IOV of R52. -/
def roundInt (rm : Nat) (lo hi : Int) (a : FV) : Int × BitVec 7 :=
  match a with
  | .nan _ g => (0, flagIOV ||| nvIf g)
  | .inf s => (if s then lo else hi, flagIOV)
  | .fin s m e =>
    let r := roundAt rm s m e 0 false
    let n := sgn s r.1
    if n < lo then (lo, flagIOV ||| flagNX)
    else if hi < n then (hi, flagIOV ||| flagNX)
    else (n, if r.2 then 0 else flagNX)

/-- Magnitude of a TS8 term in units of 2^−6 (R39). -/
def tsTerm (e : Nat) : Nat := if e = 7 then 0 else 2 ^ (6 - e)

/-- The value of a TS8 byte in units of 2^−6 (R39). -/
def tsVal (b : Nat) : Int :=
  sgn (b / 128 % 2 == 1) (tsTerm (b / 16 % 8)) + sgn (b / 8 % 2 == 1) (tsTerm (b % 8))

/-- Decode TS8 (R39): every zero sum is +0. -/
def decodeTS (b : Nat) : FV := let v := tsVal b; .fin (v < 0) v.natAbs (-6)

/-- The canonical encoding of a magnitude in units of 2^−6, if there is one (R40): the fewest terms, then the smaller
larger term; the larger term first; zero terms unsigned. -/
def tsCanon (n : Nat) (s : Bool) : Option Nat :=
  let sb := if s then 8 else 0
  let nb := if s then 0 else 8
  if n = 0 then some 0x77
  else
    let one? := (upto 7).find? fun e => tsTerm e == n
    match one? with
    | some e => some (sb * 16 + e * 16 + 7)
    | none =>
      -- larger term of rising magnitude, that is of falling E1
      let cands := (upto 7).reverse.flatMap fun e1 => (upto 7).filterMap fun e2 =>
        if e2 < e1 then none
        else if tsTerm e1 + tsTerm e2 = n then some (sb * 16 + e1 * 16 + sb + e2)
        else if e1 < e2 ∧ tsTerm e1 - tsTerm e2 = n then some (sb * 16 + e1 * 16 + nb + e2)
        else none
      cands.head?

/-- The largest TS8 magnitude at most n units, and the smallest at least n. -/
def tsFloor (n : Nat) : Nat := ((upto 129).filter fun k => k ≤ n && (tsCanon k false).isSome).getLastD 0
def tsCeil (n : Nat) : Nat := ((upto 129).find? fun k => n ≤ k && (tsCanon k false).isSome).getD 128

/-- Convert an exact value to TS8 (R40, R51). DESIGN CHOICE (log 78): an infinity sets OF and not NX. -/
def toTS (rm : Nat) (a : FV) : Nat × BitVec 7 :=
  match a with
  | .nan _ _ => (0x77, flagNV)
  | .inf s => (if s then 0x88 else 0x00, flagOF)
  | .fin s m e =>
    let k := cutAt m e (-6) false
    if 128 < k.1 ∨ (k.1 = 128 ∧ !k.2.1) then (if s then 0x88 else 0x00, flagOF ||| flagNX)
    else
      let exactAt := k.2.1 && (tsCanon k.1 false).isSome
      let f := tsFloor k.1
      let c := if exactAt then f else tsCeil (k.1 + if k.2.1 then 0 else 1)
      -- compare the value with the middle of f and c: twice the value against f + c
      let d := cutAt (2 * m) e (-6) false
      let cmp : Ordering := if d.1 < f + c then .lt else if f + c < d.1 then .gt else if d.2.1 then .eq else .gt
      let up : Bool := match rm with
        | 0 => cmp == .gt | 1 => false | 2 => !s | 3 => s | _ => cmp != .lt
      let n := if exactAt then f else if up then c else f
      let fl := if exactAt then 0 else if n = 0 then flagUF ||| flagNX else flagNX
      ((tsCanon n (s && n != 0)).getD 0x77, fl)

/-! ### Operands -/

/-- The format that TY names (R175). -/
def tyFmt (ty : Nat) : Fmt := if ty = 1 then fFP16 else if ty = 2 then fBF16 else fFP32

/-- The encoding of a small integer in a format (R176): it is exact there. -/
def smallF (F : Fmt) (code : Byte) : Nat :=
  let n := (smallInt code.toNat).toInt
  (roundI F 0 false n 0 false).1

/-- Whether an operand code is a small integer. -/
def isSmall (code : Byte) : Bool := 0x30 ≤ code.toNat && code.toNat < 0x40

/-- The encoding that a floating-point source operand supplies (R176). -/
def encIn (F : Fmt) (code : Byte) (v : Val) : Nat :=
  if isSmall code then smallF F code else v.bits.toNat % 2 ^ F.width

/-- A floating-point source operand (R176). -/
def fIn (F : Fmt) (code : Byte) (v : Val) : FV := decodeF F (encIn F code v)

/-- A lane's floating-point result: the encoding, and the flags. -/
def resF (r : Nat × BitVec 7) : LaneOut := .ok { val := some (Val.int (BitVec.ofNat 64 r.1)), flags := r.2 }

end Sys2Proof.Machine
end

