-- ==== Sys2Proof/Machine/Vector.lean ====
section
/-! DEFINITION. Groups 4 and 5: floating-point arithmetic in lanes (R175–R184). -/

namespace Sys2Proof.Machine

/-- TY, RM and SAT of a word (R175). -/
def tyOf (f : BaseF) : Fmt := tyFmt (bits f.md 1 0)
def rmOf (f : BaseF) : Nat := bits f.md 11 9
def satOf (f : BaseF) : Bool := f.md.getLsbD 8

/-- One operand in a format. -/
def fp1 (F : Fmt) (op : FV → Nat × BitVec 7) (i : BaseF) : Body :=
  aluBody fun _ _ _ x => resF (op (fIn F i.a x.av))

/-- Two operands in a format. -/
def fp2 (F : Fmt) (op : FV → FV → Nat × BitVec 7) (i : BaseF) : Body :=
  aluBody fun _ _ _ x => resF (op (fIn F i.a x.av) (fIn F i.b x.bv))

/-- Three operands in a format. -/
def fp3 (F : Fmt) (op : FV → FV → FV → Nat × BitVec 7) (i : BaseF) : Body :=
  aluBody fun _ _ _ x => resF (op (fIn F i.a x.av) (fIn F i.b x.bv) (fIn F i.c x.cv))

/-- One operand as an encoding. -/
def enc1 (F : Fmt) (op : Nat → Nat × BitVec 7) (i : BaseF) : Body :=
  aluBody fun _ _ _ x => resF (op (encIn F i.a x.av))

/-- Two operands as encodings. -/
def enc2 (F : Fmt) (op : Nat → Nat → Nat × BitVec 7) (i : BaseF) : Body :=
  aluBody fun _ _ _ x => resF (op (encIn F i.a x.av) (encIn F i.b x.bv))

/-- The number 1. -/
def FV.one : FV := .fin false 1 0

/-- FABS and FNEG on encodings (R180). -/
def absEnc (F : Fmt) (x : Nat) : Nat × BitVec 7 := (x % 2 ^ (F.width - 1), 0)
def negEnc (F : Fmt) (x : Nat) : Nat × BitVec 7 :=
  (if 2 ^ (F.width - 1) ≤ x then x - 2 ^ (F.width - 1) else x + 2 ^ (F.width - 1), 0)

/-- A compare of floating-point operands (R181). -/
def fcmpBody (F : Fmt) (i : BaseF) : Body :=
  compareBody i fun x => condF (bits i.md 3 1) (i.md.getLsbD 9) (fIn F i.a x.av) (fIn F i.b x.bv)

/-! ### Packed halves (R183) -/

/-- Half h of a packed source: a small integer gives its value in both halves (R183). -/
def halfIn (F : Fmt) (code : Byte) (v : Val) (h : Nat) : Nat :=
  if isSmall code then smallF F code else v.bits.toNat / 2 ^ (16 * h) % 2 ^ 16

/-- The two halves of a packed result as one value, flags ORed. -/
def packRes (lo hi : Nat × BitVec 7) : LaneOut := resF (lo.1 + hi.1 * 2 ^ 16, lo.2 ||| hi.2)

/-- A packed operation of two sources. -/
def pack2 (op : Fmt → Nat → Nat → Nat × BitVec 7) (i : BaseF) : Body :=
  aluBody fun _ _ _ x =>
    let F := tyOf i
    let half h := op F (halfIn F i.a x.av h) (halfIn F i.b x.bv h)
    packRes (half 0) (half 1)

/-- A packed operation of three sources. -/
def pack3 (op : Fmt → Nat → Nat → Nat → Nat × BitVec 7) (i : BaseF) : Body :=
  aluBody fun _ _ _ x =>
    let F := tyOf i
    let half h := op F (halfIn F i.a x.av h) (halfIn F i.b x.bv h) (halfIn F i.c x.cv h)
    packRes (half 0) (half 1)

/-! ### FP32, FP16 and BF16 (R178–R182) -/

/-- FADD (R178). -/
def execFadd (f : BaseF) (s : State) : Host.Outcome State Fault Refusal :=
  issue s (.fadd f) (fp2 (tyOf f) (addF (tyOf f) (rmOf f) (satOf f)) f)

/-- FSUB (R178). -/
def execFsub (f : BaseF) (s : State) : Host.Outcome State Fault Refusal :=
  issue s (.fsub f) (fp2 (tyOf f) (fun a b => addF (tyOf f) (rmOf f) (satOf f) a (negFV b)) f)

/-- FMUL (R178). -/
def execFmul (f : BaseF) (s : State) : Host.Outcome State Fault Refusal :=
  issue s (.fmul f) (fp2 (tyOf f) (mulF (tyOf f) (rmOf f) (satOf f)) f)

/-- FFMA (R178). -/
def execFfma (f : BaseF) (s : State) : Host.Outcome State Fault Refusal :=
  issue s (.ffma f) (fp3 (tyOf f) (fmaF (tyOf f) (rmOf f) (satOf f)) f)

/-- FMIN (R179). -/
def execFmin (f : BaseF) (s : State) : Host.Outcome State Fault Refusal :=
  issue s (.fmin f) (enc2 (tyOf f) (minMaxF (tyOf f) false) f)

/-- FMAX (R179). -/
def execFmax (f : BaseF) (s : State) : Host.Outcome State Fault Refusal :=
  issue s (.fmax f) (enc2 (tyOf f) (minMaxF (tyOf f) true) f)

/-- FABS (R180). -/
def execFabs (f : BaseF) (s : State) : Host.Outcome State Fault Refusal :=
  issue s (.fabs f) (enc1 (tyOf f) (absEnc (tyOf f)) f)

/-- FNEG (R180). -/
def execFneg (f : BaseF) (s : State) : Host.Outcome State Fault Refusal :=
  issue s (.fneg f) (enc1 (tyOf f) (negEnc (tyOf f)) f)

/-- FDIV (R178). -/
def execFdiv (f : BaseF) (s : State) : Host.Outcome State Fault Refusal :=
  issue s (.fdiv f) (fp2 (tyOf f) (divF (tyOf f) (rmOf f) (satOf f)) f)

/-- FSQRT (R178). -/
def execFsqrt (f : BaseF) (s : State) : Host.Outcome State Fault Refusal :=
  issue s (.fsqrt f) (fp1 (tyOf f) (sqrtF (tyOf f) (rmOf f) (satOf f)) f)

/-- FRCP (R178). -/
def execFrcp (f : BaseF) (s : State) : Host.Outcome State Fault Refusal :=
  issue s (.frcp f) (fp1 (tyOf f) (divF (tyOf f) (rmOf f) (satOf f) FV.one) f)

/-- FRSQ (R178). -/
def execFrsq (f : BaseF) (s : State) : Host.Outcome State Fault Refusal :=
  issue s (.frsq f) (fp1 (tyOf f) (rsqF (tyOf f) (rmOf f) (satOf f)) f)

/-- FCMP (R181). -/
def execFcmp (f : BaseF) (s : State) : Host.Outcome State Fault Refusal :=
  issue s (.fcmp f) (fcmpBody (tyFmt (bits f.md 11 10)) f)

/-- FCLASS (R182). -/
def execFclass (f : BaseF) (s : State) : Host.Outcome State Fault Refusal :=
  issue s (.fclass f) (enc1 (tyOf f) (fun x => (classF (tyOf f) x, 0)) f)

/-! ### Packed (R183) -/

/-- PADD2 (R183). -/
def execPadd2 (f : BaseF) (s : State) : Host.Outcome State Fault Refusal :=
  issue s (.padd2 f) (pack2 (fun F a b => addF F (rmOf f) (satOf f) (decodeF F a) (decodeF F b)) f)

/-- PSUB2 (R183). -/
def execPsub2 (f : BaseF) (s : State) : Host.Outcome State Fault Refusal :=
  issue s (.psub2 f) (pack2 (fun F a b => addF F (rmOf f) (satOf f) (decodeF F a) (negFV (decodeF F b))) f)

/-- PMUL2 (R183). -/
def execPmul2 (f : BaseF) (s : State) : Host.Outcome State Fault Refusal :=
  issue s (.pmul2 f) (pack2 (fun F a b => mulF F (rmOf f) (satOf f) (decodeF F a) (decodeF F b)) f)

/-- PFMA2 (R183). -/
def execPfma2 (f : BaseF) (s : State) : Host.Outcome State Fault Refusal :=
  issue s (.pfma2 f) (pack3 (fun F a b c => fmaF F (rmOf f) (satOf f) (decodeF F a) (decodeF F b) (decodeF F c)) f)

/-- PMIN2 (R183). -/
def execPmin2 (f : BaseF) (s : State) : Host.Outcome State Fault Refusal :=
  issue s (.pmin2 f) (pack2 (fun F a b => minMaxF F false a b) f)

/-- PMAX2 (R183). -/
def execPmax2 (f : BaseF) (s : State) : Host.Outcome State Fault Refusal :=
  issue s (.pmax2 f) (pack2 (fun F a b => minMaxF F true a b) f)

/-! ### FP64 (R184) -/

/-- DADD (R184). -/
def execDadd (f : BaseF) (s : State) : Host.Outcome State Fault Refusal :=
  issue s (.dadd f) (fp2 fFP64 (addF fFP64 (rmOf f) (satOf f)) f)

/-- DSUB (R184). -/
def execDsub (f : BaseF) (s : State) : Host.Outcome State Fault Refusal :=
  issue s (.dsub f) (fp2 fFP64 (fun a b => addF fFP64 (rmOf f) (satOf f) a (negFV b)) f)

/-- DMUL (R184). -/
def execDmul (f : BaseF) (s : State) : Host.Outcome State Fault Refusal :=
  issue s (.dmul f) (fp2 fFP64 (mulF fFP64 (rmOf f) (satOf f)) f)

/-- DFMA (R184). -/
def execDfma (f : BaseF) (s : State) : Host.Outcome State Fault Refusal :=
  issue s (.dfma f) (fp3 fFP64 (fmaF fFP64 (rmOf f) (satOf f)) f)

/-- DDIV (R184). -/
def execDdiv (f : BaseF) (s : State) : Host.Outcome State Fault Refusal :=
  issue s (.ddiv f) (fp2 fFP64 (divF fFP64 (rmOf f) (satOf f)) f)

/-- DSQRT (R184). -/
def execDsqrt (f : BaseF) (s : State) : Host.Outcome State Fault Refusal :=
  issue s (.dsqrt f) (fp1 fFP64 (sqrtF fFP64 (rmOf f) (satOf f)) f)

/-- DMIN (R184). -/
def execDmin (f : BaseF) (s : State) : Host.Outcome State Fault Refusal :=
  issue s (.dmin f) (enc2 fFP64 (minMaxF fFP64 false) f)

/-- DMAX (R184). -/
def execDmax (f : BaseF) (s : State) : Host.Outcome State Fault Refusal :=
  issue s (.dmax f) (enc2 fFP64 (minMaxF fFP64 true) f)

/-- DCMP (R184). -/
def execDcmp (f : BaseF) (s : State) : Host.Outcome State Fault Refusal :=
  issue s (.dcmp f) (fcmpBody fFP64 f)

/-- DCLASS (R184). -/
def execDclass (f : BaseF) (s : State) : Host.Outcome State Fault Refusal :=
  issue s (.dclass f) (enc1 fFP64 (fun x => (classF fFP64 x, 0)) f)

end Sys2Proof.Machine
end

