-- ==== Sys2Proof/Machine/Trans.lean ====
section
/-! DEFINITION. The transcendentals of group 5 (R185): correctly rounded, from fixed-point values with 320 fractional bits.
That 320 bits decide every rounding of an FP32 result is log 13. -/

namespace Sys2Proof.Machine

/-- One in fixed point. -/
def fx1 : Nat := 2 ^ 320

/-- ln 2 in fixed point, cut off. -/
def fxLn2 : Nat :=
  1480553391661173448385607439722553250922680800745876974795605978609098082859138712941075737848984

/-- π in fixed point, cut off. -/
def fxPi : Nat :=
  6710401180212168915155840974220003240804194089427148950727106424351713218671805380099500388914039

/-- Product of two fixed-point numbers. -/
def fxMul (a b : Nat) : Nat := (a * b) >>> 320

/-- The exponential series from its k-th term on. -/
def expSeries (t : Nat) : Nat → Nat → Nat → Nat
  | 0, _, _ => 0
  | n + 1, k, term => term + expSeries t n (k + 1) (fxMul term t / k)

/-- 2^f for f below 1, in fixed point. -/
def fxExp2 (f : Nat) : Nat := expSeries (fxMul f fxLn2) 80 1 fx1

/-- The sine series of t with its terms' signs, from the term of t^k on: sums of the even and of the odd terms. -/
def sinSeries (t2 : Nat) : Nat → Nat → Nat → Nat × Nat
  | 0, _, _ => (0, 0)
  | n + 1, k, term =>
    let r := sinSeries t2 n (k + 2) (fxMul term t2 / ((k + 1) * (k + 2)))
    (term + r.2, r.1)

/-- sin(π·r) for r of at most one half, in fixed point. -/
def fxSinPi (r : Nat) : Nat :=
  let t := fxMul r fxPi
  let p := sinSeries (fxMul t t) 45 1 t
  p.1 - p.2

/-- The series of the inverse hyperbolic tangent from z^k / k on. -/
def atanhSeries (z2 : Nat) : Nat → Nat → Nat → Nat
  | 0, _, _ => 0
  | n + 1, k, zk => zk / k + atanhSeries z2 n (k + 2) (fxMul zk z2)

/-- log2 of M in [1, 2), in fixed point. -/
def fxLog2 (M : Nat) : Nat :=
  let z := ((M - fx1) <<< 320) / (M + fx1)
  (2 * atanhSeries (fxMul z z) 110 1 z <<< 320) / fxLn2

/-- m · 2^e in fixed point; exact for every FP32 number. -/
def fxOf (m : Nat) (e : Int) : Nat := m <<< (e + 320).toNat

/-- A fixed-point value that is not exact, rounded to FP32. -/
def fxRound (s : Bool) (v : Nat) (e : Int) : Nat × BitVec 7 := roundF fFP32 0 false s v (e - 320) true

/-- FEXP2 on a value (R185). -/
def exp2F (a : FV) : Nat × BitVec 7 :=
  match nanOf fFP32 [a], a with
  | some r, _ => r
  | none, .inf s => (if s then 0 else infOf fFP32 false, 0)
  | none, .fin s m e =>
    if m = 0 then (encOne, 0)
    else if 9 < e + Nat.log2 m then
      if s then roundF fFP32 0 false false 1 (-400) true else roundF fFP32 0 false false 1 400 true
    else
      let x : Int := sgn s (fxOf m e)
      let n : Int := x / (fx1 : Int)
      let f := (x % (fx1 : Int)).toNat
      if f = 0 then roundF fFP32 0 false false 1 n false else fxRound false (fxExp2 f) n
  | none, _ => newNaN fFP32
where
  /-- 1.0 -/
  encOne : Nat := 0x3F800000

/-- FLOG2 on a value (R185). -/
def log2F (a : FV) : Nat × BitVec 7 :=
  match nanOf fFP32 [a], a with
  | some r, _ => r
  | none, .inf s => if s then newNaN fFP32 else (infOf fFP32 false, 0)
  | none, .fin s m e =>
    if m = 0 then (infOf fFP32 true, flagDZ)
    else if s then newNaN fFP32
    else
      let k : Int := e + Nat.log2 m
      let M := m <<< (320 - Nat.log2 m)
      if M = fx1 then roundI fFP32 0 false k 0 false
      else
        let v : Int := k * (fx1 : Int) + (fxLog2 M : Int)
        fxRound (v < 0) v.natAbs 0
  | none, _ => newNaN fFP32

/-- sin(π·A) for A = (−1)^s · X in fixed point; `zs` is the sign of a zero result. -/
def sinPi (s : Bool) (X : Nat) (zs : Bool) : Nat × BitVec 7 :=
  let r2 := X % (2 * fx1)
  let flip := fx1 ≤ r2
  let r1 := if flip then r2 - fx1 else r2
  let sg := s != flip
  if r1 = 0 then (zeroOf fFP32 zs, 0)
  else if 2 * r1 = fx1 then roundF fFP32 0 false sg 1 0 false
  else
    let r := if fx1 < 2 * r1 then fx1 - r1 else r1
    fxRound sg (fxSinPi r) 0

/-- FSIN on a value (R185). -/
def sinF (a : FV) : Nat × BitVec 7 :=
  match nanOf fFP32 [a], a with
  | some r, _ => r
  | none, .fin s m e => sinPi s (fxOf m e) s
  | none, _ => newNaN fFP32

/-- FCOS on a value (R185): cos(π·A) = sin(π·(|A| + ½)). -/
def cosF (a : FV) : Nat × BitVec 7 :=
  match nanOf fFP32 [a], a with
  | some r, _ => r
  | none, .fin _ m e => sinPi false (fxOf m e + fx1 / 2) false
  | none, _ => newNaN fFP32

/-- FTANH on a value (R185). -/
def tanhF (a : FV) : Nat × BitVec 7 :=
  match nanOf fFP32 [a], a with
  | some r, _ => r
  | none, .inf s => (signBit fFP32 s + 0x3F800000, 0)
  | none, .fin s m e =>
    if m = 0 then (zeroOf fFP32 s, 0)
    else if 3 < e + Nat.log2 m then roundF fFP32 0 false s (2 ^ 60 - 1) (-60) true
    else if e + Nat.log2 m < -30 then roundF fFP32 0 false s (m * 2 ^ 80 - 1) (e - 80) true
    else
      let y := (2 * fxOf m e <<< 320) / fxLn2
      let ex := fxExp2 (y % fx1) <<< (y / fx1)
      fxRound s (((ex - fx1) <<< 320) / (ex + fx1)) 0
  | none, _ => newNaN fFP32

/-- FEXP2 (R185). -/
def execFexp2 (f : BaseF) (s : State) : Host.Outcome State Fault Refusal :=
  issue s (.fexp2 f) (fp1 fFP32 exp2F f)

/-- FLOG2 (R185). -/
def execFlog2 (f : BaseF) (s : State) : Host.Outcome State Fault Refusal :=
  issue s (.flog2 f) (fp1 fFP32 log2F f)

/-- FSIN (R185). -/
def execFsin (f : BaseF) (s : State) : Host.Outcome State Fault Refusal :=
  issue s (.fsin f) (fp1 fFP32 sinF f)

/-- FCOS (R185). -/
def execFcos (f : BaseF) (s : State) : Host.Outcome State Fault Refusal :=
  issue s (.fcos f) (fp1 fFP32 cosF f)

/-- FTANH (R185). -/
def execFtanh (f : BaseF) (s : State) : Host.Outcome State Fault Refusal :=
  issue s (.ftanh f) (fp1 fFP32 tanhF f)

end Sys2Proof.Machine
end

