-- ==== Sys2Proof/Machine/Convert.lean ====
section
/-! DEFINITION. Conversion between the number formats and rounding to an integral value (R40, R49–R52, R186–R188). -/

namespace Sys2Proof.Machine

/-- Convert an exact value to a floating-point format (R49, R50). -/
def narrowF (F : Fmt) (rm : Nat) (sat : Bool) (a : FV) : Nat × BitVec 7 :=
  match a with
  | .nan s g => (canonNaN F s, nvIf g)
  | .inf s =>
    if F.e4m3 then (if sat then (maxFin F s, flagOF) else (canonNaN F s, flagNV)) else (infOf F s, 0)
  | .fin s m e => roundF F rm sat s m e false

/-- Convert an exact value to a two's-complement format of n bits (R52). -/
def toSInt (n rm : Nat) (a : FV) : Nat × BitVec 7 :=
  let r := roundInt rm (-(2 ^ (n - 1) : Int)) (2 ^ (n - 1) - 1) a
  ((r.1 % (2 ^ n : Int)).toNat, r.2)

/-- Convert an exact value to an unsigned format of n bits (R52). -/
def toUInt (n rm : Nat) (a : FV) : Nat × BitVec 7 :=
  let r := roundInt rm 0 (2 ^ n - 1) a
  (r.1.toNat, r.2)

/-- The value of a two's-complement number of n bits. -/
def sintFV (n x : Nat) : FV :=
  let v := (BitVec.ofNat n x).toInt
  .fin (v < 0) v.natAbs 0

/-- Width of a CVT type (R186). -/
def cvtWidth (t : Nat) : Nat :=
  match t with
  | 0 | 8 | 9 => 32
  | 1 | 2 => 16
  | 3 | 10 => 64
  | _ => 8

/-- Decode a CVT source (R186, R187). -/
def cvtDecode (t x : Nat) : FV :=
  match t with
  | 0 => decodeF fFP32 x
  | 1 => decodeF fFP16 x
  | 2 => decodeF fBF16 x
  | 3 => decodeF fFP64 x
  | 4 => decodeF fE4M3 x
  | 5 => decodeF fE5M2 x
  | 6 => decodeTS x
  | 7 => sintFV 8 x
  | 8 => sintFV 32 x
  | 9 => .fin false x 0
  | _ => sintFV 64 x

/-- Encode a CVT result (R187). -/
def cvtEncode (t rm : Nat) (sat : Bool) (a : FV) : Nat × BitVec 7 :=
  match t with
  | 0 => narrowF fFP32 rm sat a
  | 1 => narrowF fFP16 rm sat a
  | 2 => narrowF fBF16 rm sat a
  | 3 => narrowF fFP64 rm sat a
  | 4 => narrowF fE4M3 rm sat a
  | 5 => narrowF fE5M2 rm sat a
  | 6 => toTS rm a
  | 7 => toSInt 8 rm a
  | 8 => toSInt 32 rm a
  | 9 => toUInt 32 rm a
  | _ => toSInt 64 rm a

/-- CVT on an encoding (R187): between equal types only a signalling NaN changes; TS8 is written canonically (R40). -/
def cvtVal (dt st rm : Nat) (sat : Bool) (x : Nat) : Nat × BitVec 7 :=
  let a := cvtDecode st x
  if dt = st ∧ !a.isSig ∧ dt ≠ 6 then (x, 0) else cvtEncode dt rm sat a

/-- The register bits that a CVT result fills: INT8 is sign-extended (R186). -/
def cvtOut (dt x : Nat) : Word :=
  if dt = 7 then ((BitVec.ofNat 8 x).signExtend 32).zeroExtend 64 else BitVec.ofNat 64 x

/-- CVT (R186, R187). A small integer is taken as the source type's encoding. -/
def execCvt (f : BaseF) (s : State) : Host.Outcome State Fault Refusal :=
  issue s (.cvt f) (aluBody fun _ _ _ x =>
    let st := bits f.md 3 0
    let r := cvtVal (bits f.md 7 4) st (rmOf f) (satOf f) (x.av.bits.toNat % 2 ^ cvtWidth st)
    .ok { val := some (Val.int (cvtOut (bits f.md 7 4) r.1)), flags := r.2 })

/-- Round an encoding to an integral value of its format (R188). -/
def frndVal (F : Fmt) (rm : Nat) (x : Nat) : Nat × BitVec 7 :=
  match decodeF F x with
  | .nan s g => (canonNaN F s, nvIf g)
  | .inf s => (infOf F s, 0)
  | .fin s m e =>
    let r := roundAt rm s m e 0 false
    ((roundF F 0 false s r.1 0 false).1, if r.2 then 0 else flagNX)

/-- The format that TY names in FRND (R188). -/
def frndFmt (f : BaseF) : Fmt := if bits f.md 1 0 = 3 then fFP64 else tyOf f

/-- FRND (R188). -/
def execFrnd (f : BaseF) (s : State) : Host.Outcome State Fault Refusal :=
  issue s (.frnd f) (enc1 (frndFmt f) (frndVal (frndFmt f) (rmOf f)) f)

/-! ### Blocks (R41–R44, R53, R58) -/

/-- Element width in bytes of a block format code (R41); 0 for RAW and reserved codes. -/
def blkWidth (code : Nat) : Nat :=
  match code with
  | 1 | 2 | 3 | 4 => 1
  | 5 | 6 => 2
  | 7 | 8 => 4
  | _ => 0

/-- Decode an element of a block format (R41). -/
def blkDecode (code x : Nat) : FV :=
  match code with
  | 1 => decodeF fE4M3 x
  | 2 => decodeF fE5M2 x
  | 3 => sintFV 8 x
  | 4 => decodeTS x
  | 5 => decodeF fBF16 x
  | 6 => decodeF fFP16 x
  | 7 => decodeF fFP32 x
  | _ => sintFV 32 x

/-- Convert an exact value to a block format of codes 1 to 6 (R50–R52). -/
def blkEncode (code rm : Nat) (sat : Bool) (a : FV) : Nat × BitVec 7 :=
  match code with
  | 1 => narrowF fE4M3 rm sat a
  | 2 => narrowF fE5M2 rm sat a
  | 3 => toSInt 8 rm a
  | 4 => toTS rm a
  | 5 => narrowF fBF16 rm sat a
  | _ => narrowF fFP16 rm sat a

/-- A value times a power of two (R42). -/
def FV.scale (a : FV) (k : Int) : FV :=
  match a with
  | .fin s m e => .fin s m (e + k)
  | x => x

/-- The largest finite magnitude of a block format as m · 2^e (R41). -/
def fmtMax (code : Nat) : Nat × Int :=
  match code with
  | 1 => (448, 0)
  | 2 => (57344, 0)
  | 3 => (127, 0)
  | 4 => (2, 0)
  | 5 => (255, 120)
  | _ => (65504, 0)

/-- A positive quiet NaN. -/
def FV.qnan : FV := .nan false false

/-- The canonical +0 of a block format: 0x77 in TS8 (R40, R190). -/
def blkZero (code : Nat) : Nat := if code = 4 then 0x77 else 0

/-- One element of a block as an interpreting instruction reads it (R42–R44): its value and its flags. `lo` to `hi` are the
codes in its class, `raw` the format it names for RAW blocks, `float` whether it forms floating-point values. -/
def blkRead (inClass : Nat → Bool) (raw fmt scale : Nat) (x : Nat) : FV × BitVec 7 :=
  if fmt = 0 then (blkDecode raw x, 0)
  else if !inClass fmt then (.qnan, flagBLK)
  else if scale = 0xFF then (.qnan, 0)
  else ((blkDecode fmt x).scale ((scale : Int) - 127), 0)

/-- The scale that a ring maximum and a format choose (R58): the smallest e with ringmax ≤ fmtmax · 2^e, plus 127. -/
def chooseScale (code : Nat) (ringmax : BitVec 32) : Nat :=
  match decodeF fFP32 ringmax.toNat with
  | .fin _ m e =>
    if m = 0 then 127
    else
      let fits (k : Nat) : Bool :=
        let d := addDy (m : Int) e (-((fmtMax code).1 : Int)) ((fmtMax code).2 + (k : Int) - 127)
        d.1 ≤ 0
      ((upto 255).find? fits).getD 254
  | _ => 254

end Sys2Proof.Machine
end

