-- ==== Sys2Proof/Machine/Scratch.lean ====
section
/-! DEFINITION. The scratchpad of a team (R216, R231): bytes, word tags, block metadata. A byte that nothing has written
since admission is a free value (R73, log 8). -/

namespace Sys2Proof.Machine

/-- Size of a team's scratchpad in bytes. -/
def Team.spSize (t : Team) : Nat := t.scrk * 1024

/-- A byte of the scratchpad. -/
def Team.spByte (t : Team) (o : Nat) : Byte := tget t.sbytes o (Config.freeByte t.seed o)

/-- n bytes from an offset. -/
def Team.spRead (t : Team) (o n : Nat) : List Byte := (upto n).map fun k => t.spByte (o + k)

/-- Enter bytes from an offset. -/
def spPutBytes (m : Tab Byte) (o : Nat) : List Byte → Tab Byte
  | [] => m
  | b :: r => spPutBytes (tset m o b) (o + 1) r

/-- Tag of an 8-byte word of the scratchpad. -/
def Team.spTag (t : Team) (w : Nat) : Bool := tget t.stags w false

/-- Set the tags of n words from a word on. -/
def spPutTags (m : Tab Bool) (w : Nat) : List Bool → Tab Bool
  | [] => m
  | b :: r => spPutTags (tput m w b false) (w + 1) r

/-- Store bytes; the tag of every word touched becomes 0 (R12). -/
def Team.spWrite (t : Team) (o : Nat) (bs : List Byte) : Team :=
  if bs.isEmpty then t
  else
    { t with
      sbytes := spPutBytes t.sbytes o bs
      stags := spPutTags t.stags (o / 8) (List.replicate ((o + bs.length - 1) / 8 + 1 - o / 8) false) }

/-- Format and scale of a block of the scratchpad. -/
def Team.spMeta (t : Team) (b : Nat) : Byte × Byte := tget t.sblk b (0x00, 0x7F)

/-- Write format and scale of a block. -/
def Team.spSetMeta (t : Team) (b : Nat) (v : Byte × Byte) : Team := { t with sblk := tput t.sblk b v (0x00, 0x7F) }

/-- Faults of a block offset (R189): misaligned, or beyond the scratchpad. DESIGN CHOICE (log 94): an offset that is both gives ALIGN. -/
def blkOffFault (t : Team) (o : BitVec 32) : Option LaneFault :=
  if o.toNat % 64 ≠ 0 then some (operandFault opALIGN (o.zeroExtend 64))
  else if t.spSize < o.toNat + 64 then
    some { cause := .memory, sub := memBOUNDS, opv := o.zeroExtend 64, eoff := o.zeroExtend 40 }
  else none

/-- The 64 bytes of a block as elements of w bytes. -/
def blkElems (w : Nat) (bs : List Byte) : List Nat := (chunks w 64 bs).map ofBytes

/-! ### Layout records -/

/-- Layout record fields (R244): dw1 to dw7 stand in the list. -/
def Layout.dw (l : Layout) (n : Nat) : Word := l.dws.getD (n - 1) 0
def Layout.spb (l : Layout) : Nat := bits (l.dw 6) 31 0
def Layout.spp (l : Layout) : Nat := bits (l.dw 6) 63 32
/-- Extents n0 to n3. -/
def Layout.ext (l : Layout) (k : Nat) : Nat := bits (l.dw 1) (16 * k + 15) (16 * k) + 1
/-- Strides S0 to S3. -/
def Layout.stride (l : Layout) (k : Nat) : Int := (l.dw (2 + k)).toInt
/-- Element size in bytes. -/
def Layout.esz (l : Layout) : Nat := 2 ^ bits (l.dw 7) 1 0
def Layout.aty (l : Layout) : Nat := bits (l.dw 7) 9 8
def Layout.qsat (l : Layout) : Bool := (l.dw 7).getLsbD 10
def Layout.qrm (l : Layout) : Nat := bits (l.dw 7) 13 11
def Layout.qfmt (l : Layout) : Nat := bits (l.dw 7) 17 14
def Layout.qring (l : Layout) : Nat := bits (l.dw 7) 23 18

/-- A layout record of a team. -/
def Team.layout (t : Team) (n : Nat) : Layout := tget t.layouts n Layout.zero

end Sys2Proof.Machine
end

