-- ==== Sys2Proof/Machine/Block.lean ====
section
/-! DEFINITION. Group 6: blocks in scratchpad and the amax rings (R57–R60, R189–R195). -/

namespace Sys2Proof.Machine

/-! ### Amax rings -/

/-- An amax ring of a core. -/
def State.ring (s : State) (core n : Nat) : Amax := tget (s.core core).amax n Amax.reset

/-- Change an amax ring of a core. -/
def State.modRing (s : State) (core n : Nat) (f : Amax → Amax) : State :=
  s.modCore core fun c => { c with amax := tput c.amax n (f (tget c.amax n Amax.reset)) Amax.reset }

/-- Whether an SQCP holds a ring (R267): other actions on it wait. -/
def State.ringHeld (s : State) (core n : Nat) : Bool := (tfind (s.core core).amaxBy n).isSome

/-- Whether an action on a ring must wait (R60): a command holds it (R267), or an SQCP on it that the core has accepted before has still
to end. So the actions of a ring come in the order in which they were issued, whichever lanes they are of (log 93). -/
def State.ringBusy (s : State) (core n : Nat) : Bool :=
  s.ringHeld core n || (s.core core).shq.any fun j => j.cmd == .sqcp && j.lb.qring == n && j.stage != .held

/-- The maximum over the valid slots (R58); the encodings of non-negative FP32 numbers are in the order of their values. -/
def Amax.ringmax (a : Amax) : BitVec 32 :=
  BitVec.ofNat 32 ((a.slots.take a.cnt).foldl (fun m x => max m x.toNat) 0)

/-- Record a maximum (R58). -/
def Amax.record (a : Amax) (m : BitVec 32) : Amax :=
  { a with pend := if a.pv then BitVec.ofNat 32 (max a.pend.toNat m.toNat) else m, pv := true }

/-- Commit the pending maximum (R59). -/
def Amax.commit (a : Amax) : Amax :=
  if a.pv then
    { a with slots := a.slots.set a.head a.pend, head := (a.head + 1) % 16, cnt := min (a.cnt + 1) 16, pv := false }
  else a

/-- The largest magnitude of FP32 encodings that are no NaN; 0 if there is none (R58, R190). -/
def absMax (xs : List Nat) : BitVec 32 :=
  BitVec.ofNat 32 ((xs.filter fun x => !(decodeF fFP32 x).isNaN).foldl (fun m x => max m (x % 2 ^ 31)) 0)

/-- An item of a ring that AMXRD reads (R194). PEND reads +0 when PV is 0. -/
def Amax.item (a : Amax) (sel : Nat) : BitVec 32 :=
  if sel < 16 then a.slots.getD sel 0
  else if sel = 0x10 then (if a.cnt = 0 then 0 else a.ringmax)
  else if sel = 0x11 then (if a.pv then a.pend else 0)
  else BitVec.ofNat 32 (a.cnt * 2 ^ 16 + a.head * 2 ^ 8 + b2n a.pv)

/-! ### Quantising a block -/

/-- One element of a block that is written: the FP32 encoding that a lane supplies, or none. -/
def quantElem (code rm : Nat) (sat : Bool) (scale : Nat) : Option Nat → Nat × BitVec 7
  | none => (blkZero code, 0)
  | some x => blkEncode code rm sat ((decodeF fFP32 x).scale (127 - (scale : Int)))

/-- A whole block quantised (R53, R190): its bytes, its SCALE, and each element's flags. -/
def quantBlock (code rm : Nat) (sat : Bool) (scale : Nat) (xs : List (Option Nat)) : List Byte × Nat × List (BitVec 7) :=
  let es := xs.map (quantElem code rm sat scale)
  let isNaN (x : Option Nat) : Bool := match x with | some v => (decodeF fFP32 v).isNaN | none => false
  if (code = 3 ∨ code = 4) ∧ xs.any isNaN then
    (List.replicate 64 0, 0xFF,
      (xs.zip es).map fun p => if isNaN p.1 then p.2.2 ||| flagNV else p.2.2)
  else (es.flatMap fun e => bytesLE (blkWidth code) e.1, scale, es.map (·.2))

/-- Element i of the lane that supplies it, from the participants' containers (R190). -/
def qntElem (code : Nat) (ps : List (Nat × Srcs)) (i : Nat) : Option Nat :=
  let l := if blkWidth code = 1 then i / 2 else i
  (tfind ps l).map fun x =>
    if blkWidth code = 1 ∧ i % 2 = 1 then bits x.bv.bits 63 32 else bits x.bv.bits 31 0

/-- The lane that element i belongs to. -/
def qntLane (code i : Nat) : Nat := if blkWidth code = 1 then i / 2 else i

/-- Read an operand of the lowest-numbered active lane alone (R445). -/
def leadRead (s : State) (c : Ctx) (code : Byte) (bt : Bool) : Rd Word :=
  (read32 s c.wk c.lead code bt).bind fun v => .ok v.bits

/-- The body of an instruction whose offset A is read in the lowest-numbered active lane: its fault is raised in every
active lane, and nothing is performed (R189, R445). -/
def leadBlock (f : State → Ctx → Nat → State × List (Nat × LaneOut)) : Body := fun s c =>
  match leadRead s c c.g.fs.a c.g.fs.btA with
  | .block => (s, [])
  | .bad e => (s, allFault c e)
  | .ok w =>
    match blkOffFault (s.teamOf c.wk) (lo32 w) with
    | some e => (s, allFault c e)
    | none => f s c (lo32 w).toNat

/-- Write a whole block of the scratchpad as one unit (R46). -/
def State.putBlock (s : State) (tk o : Nat) (bs : List Byte) (code scale : Nat) : State :=
  s.modTeam tk fun t => (t.spWrite o bs).spSetMeta (o / 64) (BitVec.ofNat 8 code, BitVec.ofNat 8 scale)

/-- The participants of an instruction and the faults of the lanes that are none (R164). -/
def splitReads (xs : List (Nat × Except LaneFault Srcs)) : List (Nat × Srcs) × List (Nat × LaneOut) :=
  (xs.filterMap fun e => match e.2 with | .ok x => some (e.1, x) | .error _ => none,
   xs.filterMap fun e => match e.2 with | .ok _ => none | .error f => some (e.1, .fault f))

/-- The signature with A (and C) read elsewhere: only B is read in every lane. -/
def Ctx.onlyB (c : Ctx) : Ctx := { c with g := { c.g with a := .none, c := .none } }

/-- QNT once offset and, under FIX, scale are known (R190). -/
def qntBody (f : BaseF) (s : State) (c : Ctx) (o : Nat) (fix : Option Nat) : State × List (Nat × LaneOut) :=
  if fix.isNone && s.ringBusy (wkCore c.wk) (f.c.toNat % 64) then (s, []) else
  match readLanes s c.onlyB c.lanes with
  | .ok xs =>
    let p := splitReads xs
    if p.1.isEmpty then (s, p.2)
    else
      let code := bits f.md 3 0
      let core := wkCore c.wk
      let rn := f.c.toNat % 64
      let scale := match fix with | some v => v | none => chooseScale code (s.ring core rn).ringmax
      let n := if blkWidth code = 1 then 64 else 32
      let elems := (upto n).map (qntElem code p.1)
      let r := if fix = some 0xFF then (List.replicate 64 0, 0xFF, List.replicate n 0)
        else quantBlock code (rmOf f) (satOf f) scale elems
      let s1 := s.putBlock (s.warp c.wk).team o r.1 code r.2.1
      let s2 := if fix.isSome then s1 else s1.modRing core rn fun a => a.record (absMax (elems.filterMap id))
      let fl (l : Nat) : BitVec 7 :=
        ((upto n).filter fun i => qntLane code i = l).foldl (fun m i => m ||| r.2.2.getD i 0) 0
      (s2, p.2 ++ p.1.map fun e =>
        (e.1, .ok { val := some (Val.int (BitVec.ofNat 64 r.2.1)), flags := fl e.1 }))
  | _ => (s, [])

/-- Whether a source of QNT is EMPTY with BT 0 in a lane that reads it (R145, R190): the bundle waits before any lane faults. -/
def qntWaits (f : BaseF) (s : State) (c : Ctx) : Bool :=
  (leadRead s c c.g.fs.a c.g.fs.btA).blocks || f.md.getLsbD 7 && (leadRead s c c.g.fs.c c.g.fs.btC).blocks
    || c.active.any fun l => (readSrcs s c.wk l c.onlyB.g).blocks

/-- QNT (R189, R190). -/
def execQnt (f : BaseF) (s : State) : Host.Outcome State Fault Refusal :=
  issue s (.qnt f) (fun s0 c0 =>
    if qntWaits f s0 c0 then (s0.stallAll c0, []) else
    leadBlock (fun s' c o =>
      if f.md.getLsbD 7 then
        match leadRead s' c c.g.fs.c c.g.fs.btC with
        | .block => (s', [])
        | .bad e => (s', allFault c e)
        | .ok w => qntBody f s' c o (some (w.toNat % 256))
      else qntBody f s' c o none) s0 c0)

/-- Formats that QNT and DQNT interpret (R191). -/
def clsBlk (code : Nat) : Bool := 1 ≤ code && code ≤ 6

/-- An element of a block as FP32 (R191): its encoding and flags. -/
def dqntElem (f : BaseF) (m : Byte × Byte) (x : Nat) : Nat × BitVec 7 :=
  let v := blkRead clsBlk (bits f.md 3 0) m.1.toNat m.2.toNat x
  let r := narrowF fFP32 (rmOf f) (satOf f) v.1
  (r.1, r.2 ||| v.2)

/-- DQNT (R189, R191). -/
def execDqnt (f : BaseF) (s : State) : Host.Outcome State Fault Refusal :=
  issue s (.dqnt f) (leadBlock fun s' c o =>
    match readLanes s' c.onlyB c.lanes with
    | .ok xs =>
      let t := s'.teamOf c.wk
      let m := t.spMeta (o / 64)
      let code := if m.1 = 0 then bits f.md 3 0 else m.1.toNat
      let inCls := clsBlk code
      let w := if inCls then blkWidth code else 1
      let es := blkElems w (t.spRead o 64)
      let el (i : Nat) : Nat × BitVec 7 := dqntElem f m (es.getD i 0)
      (s', xs.map fun e => (e.1, match e.2 with
        | .error e' => .fault e'
        | .ok _ =>
          let lo := if w = 1 then el (2 * e.1) else el e.1
          let hi := if w = 1 then el (2 * e.1 + 1) else (0, 0)
          .ok { val := some (Val.int (BitVec.ofNat 64 (lo.1 + hi.1 * 2 ^ 32))), flags := lo.2 ||| hi.2 }))
    | _ => (s', []))

/-- BMRD (R189, R192). -/
def execBmrd (f : BaseF) (s : State) : Host.Outcome State Fault Refusal :=
  issue s (.bmrd f) (aluBody fun s' c _ x =>
    let t := s'.teamOf c.wk
    let o := lo32 x.av.bits
    match blkOffFault t o with
    | some e => .fault e
    | none =>
      let m := t.spMeta (o.toNat / 64)
      res (BitVec.ofNat 64 (m.1.toNat * 256 + m.2.toNat)))

/-- BMWR (R189, R192): lanes act in ascending order. -/
def execBmwr (f : BaseF) (s : State) : Host.Outcome State Fault Refusal :=
  issue s (.bmwr f) (seqBody fun s' c _ x =>
    let o := lo32 x.av.bits
    match blkOffFault (s'.teamOf c.wk) o with
    | some e => (s', some (.fault e))
    | none =>
      let v := lo32 x.bv.bits
      (s'.modTeam (s'.warp c.wk).team fun t =>
        t.spSetMeta (o.toNat / 64) (v.extractLsb' 8 8, v.truncate 8), some done))

/-! ### Ring instructions -/

/-- The body of an instruction that acts on the ring in A, once no earlier action holds the ring (R60). -/
def ringBody (f : BaseF) (b : Body) : Body := fun s c =>
  if s.ringBusy (wkCore c.wk) (f.a.toNat % 64) then (s, []) else b s c

/-- AMXRD (R194). -/
def execAmxrd (f : BaseF) (s : State) : Host.Outcome State Fault Refusal :=
  issue s (.amxrd f) (ringBody f (aluBody fun s' c _ _ =>
    res (((s'.ring (wkCore c.wk) (f.a.toNat % 64)).item (bits f.md 4 0)).zeroExtend 64)))

/-- AMXPSH (R195): one ring action over the lanes that take part. DESIGN CHOICE (log 78): a signalling NaN is excluded and sets no
flag. -/
def execAmxpsh (f : BaseF) (s : State) : Host.Outcome State Fault Refusal :=
  issue s (.amxpsh f) (ringBody f fun s' c =>
    match readLanes s' c c.lanes with
    | .ok xs =>
      let p := splitReads xs
      let s1 := if p.1.isEmpty then s'
        else s'.modRing (wkCore c.wk) (f.a.toNat % 64) fun a =>
          a.record (absMax (p.1.map fun e => encIn fFP32 f.b e.2.bv))
      (s1, p.2 ++ p.1.map fun e => (e.1, done))
    | _ => (s', []))

/-- AMXCMT (R59, R195). -/
def execAmxcmt (f : BaseF) (s : State) : Host.Outcome State Fault Refusal :=
  issue s (.amxcmt f) (ringBody f fun s' c => (s'.modRing (wkCore c.wk) (f.a.toNat % 64) Amax.commit, allOk c {}))

/-- AMXCLR (R195). -/
def execAmxclr (f : BaseF) (s : State) : Host.Outcome State Fault Refusal :=
  issue s (.amxclr f) (ringBody f fun s' c => (s'.modRing (wkCore c.wk) (f.a.toNat % 64) fun _ => Amax.reset, allOk c {}))

end Sys2Proof.Machine
end

