-- ==== Sys2Proof/Machine/Crypto.lean ====
section
/-! DEFINITION. The arithmetic by which an image is verified (R435): SHA-384, and ECDSA on brainpoolP384r1. The rule names both; their
constants and steps are those of the standards (FIPS 180-4, FIPS 186-4, RFC 5639), PRESUMED (log 7). -/

namespace Sys2Proof.Machine

/-! ### SHA-384 -/

/-- Round constants of SHA-384 (PRESUMED, log 7). -/
def shaK : List (BitVec 64) :=
  [0x428a2f98d728ae22, 0x7137449123ef65cd, 0xb5c0fbcfec4d3b2f, 0xe9b5dba58189dbbc,
       0x3956c25bf348b538, 0x59f111f1b605d019, 0x923f82a4af194f9b, 0xab1c5ed5da6d8118,
       0xd807aa98a3030242, 0x12835b0145706fbe, 0x243185be4ee4b28c, 0x550c7dc3d5ffb4e2,
       0x72be5d74f27b896f, 0x80deb1fe3b1696b1, 0x9bdc06a725c71235, 0xc19bf174cf692694,
       0xe49b69c19ef14ad2, 0xefbe4786384f25e3, 0x0fc19dc68b8cd5b5, 0x240ca1cc77ac9c65]
    ++ [0x2de92c6f592b0275, 0x4a7484aa6ea6e483, 0x5cb0a9dcbd41fbd4, 0x76f988da831153b5,
       0x983e5152ee66dfab, 0xa831c66d2db43210, 0xb00327c898fb213f, 0xbf597fc7beef0ee4,
       0xc6e00bf33da88fc2, 0xd5a79147930aa725, 0x06ca6351e003826f, 0x142929670a0e6e70,
       0x27b70a8546d22ffc, 0x2e1b21385c26c926, 0x4d2c6dfc5ac42aed, 0x53380d139d95b3df,
       0x650a73548baf63de, 0x766a0abb3c77b2a8, 0x81c2c92e47edaee6, 0x92722c851482353b]
    ++ [0xa2bfe8a14cf10364, 0xa81a664bbc423001, 0xc24b8b70d0f89791, 0xc76c51a30654be30,
       0xd192e819d6ef5218, 0xd69906245565a910, 0xf40e35855771202a, 0x106aa07032bbd1b8,
       0x19a4c116b8d2d0c8, 0x1e376c085141ab53, 0x2748774cdf8eeb99, 0x34b0bcb5e19b48a8,
       0x391c0cb3c5c95a63, 0x4ed8aa4ae3418acb, 0x5b9cca4f7763e373, 0x682e6ff3d6b2b8a3,
       0x748f82ee5defb2fc, 0x78a5636f43172f60, 0x84c87814a1f0ab72, 0x8cc702081a6439ec]
    ++ [0x90befffa23631e28, 0xa4506cebde82bde9, 0xbef9a3f7b2c67915, 0xc67178f2e372532b,
       0xca273eceea26619c, 0xd186b8c721c0c207, 0xeada7dd6cde0eb1e, 0xf57d4f7fee6ed178,
       0x06f067aa72176fba, 0x0a637dc5a2c898a6, 0x113f9804bef90dae, 0x1b710b35131c471b,
       0x28db77f523047d84, 0x32caab7b40c72493, 0x3c9ebe0a15c9bebc, 0x431d67c49c100d4c,
       0x4cc5d4becb3e42b6, 0x597f299cfc657e2a, 0x5fcb6fab3ad6faec, 0x6c44198c4a475817]

/-- Initial hash value of SHA-384 (PRESUMED, log 7). -/
def shaInit : List (BitVec 64) :=
  [0xcbbb9d5dc1059ed8, 0x629a292a367cd507, 0x9159015a3070dd17, 0x152fecd8f70e5939,
   0x67332667ffc00b31, 0x8eb44a8768581511, 0xdb0c2e0d64f98fa7, 0x47b5481dbefa4fa4]

/-- Bytes as a number, the first the most significant. -/
def ofBytesBE (bs : List Byte) : Nat := bs.foldl (fun n b => 256 * n + b.toNat) 0

/-- A number as n bytes, the first the most significant. -/
def bytesBE (n v : Nat) : List Byte := (upto n).map fun i => BitVec.ofNat 8 (v / 256 ^ (n - 1 - i))

/-- A message with its padding: a bit of 1, zeros, and its length in bits as 16 bytes. -/
def shaPad (m : List Byte) : List Byte :=
  m ++ 0x80 :: (List.replicate ((239 - m.length % 128) % 128) 0 ++ bytesBE 16 (8 * m.length))

/-- The message schedule of a block, `n` words longer; the newest word comes first. -/
def shaSchedule : Nat → List (BitVec 64) → List (BitVec 64)
  | 0, w => w
  | n + 1, w =>
    let at' (k : Nat) : BitVec 64 := w.getD (k - 1) 0
    let s0 := (at' 15).rotateRight 1 ^^^ (at' 15).rotateRight 8 ^^^ (at' 15) >>> 7
    let s1 := (at' 2).rotateRight 19 ^^^ (at' 2).rotateRight 61 ^^^ (at' 2) >>> 6
    shaSchedule n ((s1 + at' 7 + s0 + at' 16) :: w)

/-- One round on the eight working words, with a round constant and a word of the schedule. -/
def shaRound (v : List (BitVec 64)) (e : BitVec 64 × BitVec 64) : List (BitVec 64) :=
  let x (k : Nat) : BitVec 64 := v.getD k 0
  let t1 := x 7 + ((x 4).rotateRight 14 ^^^ (x 4).rotateRight 18 ^^^ (x 4).rotateRight 41)
    + (x 4 &&& x 5 ^^^ ~~~(x 4) &&& x 6) + e.1 + e.2
  let t2 := ((x 0).rotateRight 28 ^^^ (x 0).rotateRight 34 ^^^ (x 0).rotateRight 39)
    + (x 0 &&& x 1 ^^^ x 0 &&& x 2 ^^^ x 1 &&& x 2)
  [t1 + t2, x 0, x 1, x 2, x 3 + t1, x 4, x 5, x 6]

/-- The hash after one block of 128 bytes. -/
def shaBlock (h : List (BitVec 64)) (b : List Byte) : List (BitVec 64) :=
  let w0 := ((chunks 8 16 b).map fun c => BitVec.ofNat 64 (ofBytesBE c)).reverse
  let v := (shaK.zip (shaSchedule 64 w0).reverse).foldl shaRound h
  (h.zip v).map fun e => e.1 + e.2

/-- SHA-384 (R435). -/
def sha384 (m : List Byte) : List Byte :=
  let p := shaPad m
  (((chunks 128 (p.length / 128) p).foldl shaBlock shaInit).take 6).flatMap fun w => bytesBE 8 w.toNat

/-! ### brainpoolP384r1 -/

/-- The field's prime, the curve y² = x³ + ax + b, its base point, and the order of that point (PRESUMED, log 7). -/
def curveP : Nat := 0x8CB91E82A3386D280F5D6F7E50E641DF152F7109ED5456B412B1DA197FB71123ACD3A729901D1A71874700133107EC53
def curveA : Nat := 0x7BC382C63D8C150C3C72080ACE05AFA0C2BEA28E4FB22787139165EFBA91F90F8AA5814A503AD4EB04A8C7DD22CE2826
def curveB : Nat := 0x04A8C7DD22CE28268B39B55416F0447C2FB77DE107DCD2A62E880EA53EEB62D57CB4390295DBC9943AB78696FA504C11
def curveG : Nat × Nat :=
  (0x1D1C64F068CF45FFA2A63A81B7C13F6B8847A3E77EF14FE3DB7FCAFE0CBD10E8E826E03436D646AAEF87B2E247D4AF1E,
   0x8ABE1D7520F9C2A45CB1EB8E95CFD55262B70B29FEEC5864E19C054FF99129280E4646217791811142820341263C5315)
def curveN : Nat := 0x8CB91E82A3386D280F5D6F7E50E641DF152F7109ED5456B31F166E6CAC0425A7CF3AB6AF6B7FC3103B883202E9046565

/-- b ^ e modulo m, over the lowest `n` bits of e. -/
def powMod (m : Nat) : Nat → Nat → Nat → Nat
  | 0, _, _ => 1 % m
  | n + 1, b, e =>
    let r := powMod m n (b * b % m) (e / 2)
    if e % 2 = 1 then r * b % m else r

/-- The inverse of a number modulo a prime of at most 384 bits. -/
def invMod (m x : Nat) : Nat := powMod m 384 (x % m) (m - 2)

/-- A difference modulo the prime. -/
def subMod (x y : Nat) : Nat := (x + (curveP - y % curveP)) % curveP

/-- Points of the curve; none is the point at infinity. -/
abbrev Point := Option (Nat × Nat)

/-- The point on the line of a slope through a point and another with abscissa x2. -/
def chord (l : Nat) (a : Nat × Nat) (x2 : Nat) : Point :=
  let x := subMod (subMod (l * l) a.1) x2
  some (x, subMod (l * subMod a.1 x) a.2)

/-- The sum of two points. -/
def addPoint : Point → Point → Point
  | none, q => q
  | p, none => p
  | some a, some b =>
    if a.1 = b.1 then
      (if (a.2 + b.2) % curveP = 0 then none
       else chord ((3 * a.1 * a.1 + curveA) * invMod curveP (2 * a.2) % curveP) a b.1)
    else chord (subMod b.2 a.2 * invMod curveP (subMod b.1 a.1) % curveP) a b.1

/-- k times a point, over the lowest `n` bits of k. -/
def mulPoint : Nat → Nat → Point → Point
  | 0, _, _ => none
  | n + 1, k, p =>
    let r := mulPoint n (k / 2) (addPoint p p)
    if k % 2 = 1 then addPoint r p else r

/-- The point that 97 bytes give in uncompressed form, if it lies on the curve. -/
def pointOf (key : List Byte) : Point :=
  let x := ofBytesBE ((key.drop 1).take 48)
  let y := ofBytesBE ((key.drop 49).take 48)
  if key.length = 97 && key.headD 0 == 0x04 && x < curveP && y < curveP
      && y * y % curveP == (x * x * x + curveA * x + curveB) % curveP then some (x, y)
  else none

/-- Whether a signature, r then s, verifies under ECDSA with SHA-384 over a message (R435). -/
def ecdsaVerify (m key sig : List Byte) : Bool :=
  let r := ofBytesBE (sig.take 48)
  let s := ofBytesBE ((sig.drop 48).take 48)
  match pointOf key with
  | none => false
  | some q =>
    if r = 0 || curveN ≤ r || s = 0 || curveN ≤ s then false
    else
      let w := invMod curveN s
      let z := ofBytesBE (sha384 m)
      match addPoint (mulPoint 384 (z * w % curveN) (some curveG)) (mulPoint 384 (r * w % curveN) (some q)) with
      | some p => p.1 % curveN == r
      | none => false

end Sys2Proof.Machine
end

