-- ==== Sys2Proof/Machine/RefInstr.lean ====
section
/-! DEFINITION. Group 8 (R233–R241): LDREF, STREF, RDERIVE, REFADD, RINFO, OALLOC, OFREE. -/

namespace Sys2Proof.Machine

/-! ### Reference loads and stores -/

/-- The object that a reference names, for the tests of R233 and R234: whether the team may see it, confirmed by a fresh
walk (R26), and the entry that holds its memory; nothing if it is invalid. -/
def targetOf (s : State) (core : Nat) (t : Team) (obj : Nat) : Acc (Option (Option Byte × OcEntry)) :=
  (findPair s core t.realm obj false).bind fun s1 r =>
    match r with
    | none => .ok s1 none
    | some (_, e) =>
      match visFault s1 t.party e with
      | none => .ok s1 (some (none, e))
      | some _ =>
        (findPair s1 core t.realm obj true).bind fun s2 r2 =>
          match r2 with
          | none => .ok s2 none
          | some (_, e2) => .ok s2 (some (visFault s2 t.party e2, e2))

/-- Whether a value is a reference to some object. -/
def isRef (v : Val) : Bool := v.tag && objOf v.bits != 0

/-- The read of LDREF (R233) into a pair of registers: once they are not EMPTY (R143), the word with its tag, checked before it is
delivered, then the act of an acquire. -/
def ldrefAct (wk l k : Nat) (acq : Bool) (scope : Nat) (bad : Byte → LaneFault) (s : State) (h : Who) (p : Place) :
    Acc (Tried (Except LaneFault Val)) :=
  if anyEmpty s wk l [k, k + 1] then .ok s none else
  match settleOwn s wk l p.addr 8 with
  | (s1, false) => .ok s1 none
  | (s1, true) =>
    (if acq then acqGet s1 h p.key p.addr 8 scope
     else (l1Get s1 h p.key p.addr 8).bind fun s2 b => .ok s2 (some b)).bind fun s2 b =>
      match b with
      | none => .ok s2 none
      | some (bs, tag) =>
        let o := openRead s2 wk p bs
        let v : Val := ⟨BitVec.ofNat 64 (ofBytes o.2), tag⟩
        (if isRef v then targetOf o.1 h.core (o.1.teamOf wk) (objOf v.bits) else .ok o.1 none).bind fun s3 r =>
          match r with
          | some (some sub, _) => .ok s3 (some (.ok (.error (bad sub))))
          | _ => if acq then thenAcquire s3 h scope (.ok v) else .ok s3 (some (.ok (.ok v)))

/-- A lane's outcome whose value may itself be a fault. -/
def flatAcc {α : Type} (r : LaneAcc (Except LaneFault α)) : LaneAcc α :=
  match r.2 with
  | none => (r.1, none)
  | some (.error f) => (r.1, some (.error f))
  | some (.ok x) => (r.1, some x)

/-- LDREF (R233). -/
def execLdref (f : MemF) (s : State) : Host.Outcome State Fault Refusal :=
  issue s (.ldref f) (seqBody fun s' c l x =>
    let off := memOff f (offOf x.av.bits) x.bv.bits 8
    laneOut (flatAcc (laneTry s' c.wk l x.av off 8 [rR, rRL] 8 9
      (ldrefAct c.wk l (f.d.toNat - 0x40) (f.ord == 1) f.scope.toNat (fun sub => refFault .escape sub x.av.bits off)))) fun s1 v =>
        (s1, .ok { val := some v }))

/-- The walk of a stalled lane (R308), if it has handed one to the walker. -/
def laneWalk (s : State) (wk l : Nat) : Option Walk :=
  (s.core (wkCore wk)).walks.find? fun w => w.why == .stref && w.wk == wk && w.lane == l

/-- Hand a walk to the publication walker of a core (R303). -/
def State.addWalk (s : State) (core : Nat) (w : Walk) : State :=
  ({ s with uid := s.uid + 1 }).modCore core fun c => { c with walks := c.walks ++ [w] }

/-- Take an ended walk from its walker. -/
def State.dropWalk (s : State) (core id : Nat) : State :=
  s.modCore core fun c => { c with walks := c.walks.filter fun w => w.id != id }

/-- A walk from roots (R304). -/
def mkWalk (s : State) (wk lane scope : Nat) (why : WalkFor) (roots : List (Nat × Nat)) : Walk :=
  { id := s.uid, wk := wk, lane := lane, team := (s.warp wk).team, scope := BitVec.ofNat 2 scope, why := why
    work := roots, visited := [], listed := roots.map (·.1), tout := (s.warp wk).tout.toNat, ended := false
    fault := none }

/-- Whether a stored reference escapes (R234): the container is published and the target narrower. -/
def narrower (p : Place) (e : OcEntry) : Bool := p.pub && e.vis < p.top.vis

/-- The object that a stored reference names, as a container at place `p` is to hold it: that it is narrower than the container is
confirmed by a fresh walk too (R26, R234). -/
def targetFor (s : State) (core : Nat) (t : Team) (p : Place) (obj : Nat) : Acc (Option (Option Byte × OcEntry)) :=
  (targetOf s core t obj).bind fun s1 r =>
    match r with
    | some (none, e) =>
      if narrower p e then
        (findPair s1 core t.realm obj true).bind fun s2 r2 => .ok s2 (r2.map fun x => (visFault s2 t.party x.2, x.2))
      else .ok s1 r
    | _ => .ok s1 r

/-- The store of STREF (R234): the visibility tests, the walk under IMPLICIT (R308), then the store. -/
def strefAct (wk l scope : Nat) (rel : Bool) (v : Val) (bad : Cause → Byte → LaneFault) (s : State) (h : Who) (p : Place) :
    Acc (Tried (Except LaneFault Unit)) :=
  let put (st : State) : Acc (Tried (Except LaneFault Unit)) :=
    (storeAct wk l scope rel (bytesLE 8 v.bits.toNat) v.tag st h p).bind fun s1 r =>
      .ok s1 (r.map fun x => x.map fun u => .ok u)
  let tests (st : State) : Acc (Tried (Except LaneFault Unit)) :=
    if !isRef v then put st
    else
      (targetFor st h.core (st.teamOf wk) p (objOf v.bits)).bind fun s1 r =>
        match r with
        | none => put s1
        | some (some sub, _) => .ok s1 (some (.ok (.error (bad .escape sub))))
        | some (none, e) =>
          if !narrower p e then put s1
          else if !(s1.teamOf wk).imp then .ok s1 (some (.ok (.error (bad .escape escSTORE))))
          else
            .ok ((s1.addWalk h.core (mkWalk s1 wk l p.top.vis .stref [(objOf v.bits, l)])).escape (s1.warp wk).team) none
  match laneWalk s wk l with
  | none => tests s
  | some w =>
    if !w.ended then .ok s none
    else
      let s1 := s.dropWalk h.core w.id
      match w.fault with
      | some (_, c, sub) => .ok s1 (some (.ok (.error (bad c sub))))
      | none => tests s1

/-- STREF (R234). -/
def execStref (f : MemF) (s : State) : Host.Outcome State Fault Refusal :=
  issue s (.stref f) (seqBody fun s' c l x =>
    let off := memOff f (offOf x.av.bits) x.bv.bits 8
    laneOut (flatAcc (laneTry s' c.wk l x.av off 8 [rW, rRS] 8 9
      (strefAct c.wk l f.scope.toNat (f.ord == 2) x.dv (fun cs sub => refFault cs sub x.av.bits off)))) fun s1 _ =>
        (s1, done))

/-! ### References in registers -/

/-- REFADD (R235). -/
def execRefadd (f : BaseF) (s : State) : Host.Outcome State Fault Refusal :=
  issue s (.refadd f) (aluBody fun _ _ _ x =>
    let o : Int := offOf x.av.bits + x.bv.bits.toInt
    if !x.av.tag then .fault (operandFault opUNTAGGED x.av.bits)
    else if o < 0 ∨ (2 ^ 40 : Int) ≤ o then .fault (operandFault opOFFSET (BitVec.ofInt 64 o))
    else resV ⟨refOf (objOf x.av.bits) o.toNat, true⟩)

/-- The rights that RINFO reads (R241). -/
def rightsWord (e : OcEntry) : Word :=
  BitVec.ofNat 64 ([rR, rW, rX, rRS, rRL, rNC].foldl (fun n r => 2 * n + b2n (e.has r)) 0 * 2 + b2n e.noref)

/-- RINFO (R241). -/
def execRinfo (f : BaseF) (s : State) : Host.Outcome State Fault Refusal :=
  issue s (.rinfo f) (seqBody fun s' c l x =>
    let sel := bits f.md 2 0
    if sel = 3 then (s', some (res (BitVec.ofNat 64 (b2n x.av.tag))))
    else if sel = 4 then (s', some (res (BitVec.ofNat 64 (objOf x.av.bits))))
    else if sel = 5 then (s', some (res (BitVec.ofNat 64 (offOf x.av.bits))))
    else
      laneOut (laneAccess s' c.wk l x.av (offOf x.av.bits) 0 [] 0 5 (fun st _ p => .ok st p)) fun s1 p =>
        (s1, res (match sel with
          | 0 => BitVec.ofNat 64 p.ent.len
          | 1 => rightsWord p.ent
          | 2 => BitVec.ofNat 64 p.top.vis
          | _ => p.ent.dfmt.zeroExtend 64)))

/-! ### Numbers and entries (R236–R239) -/

/-- The lowest of some numbers. -/
def lowest : List Nat → Option Nat
  | [] => none
  | n :: r => some (r.foldl min n)

/-- Take the lowest pooled number of a realm (R237): a number, none while the pool is empty, or NONUM. -/
def takeNumber (s : State) (core realm : Nat) : Tried (Except LaneFault Nat) :=
  match lowest (tget (s.core core).pools realm []) with
  | some n => some (.ok (.ok n))
  | none => if (s.core core).noNum.contains realm then some (.ok (.error (flt .memory memNONUM))) else none

/-- The pool of a realm changes: it holds up to 64 numbers; those beyond go back to the realm's free list, which privileged software
keeps (R237, log 82). -/
def State.setPool (s : State) (core realm : Nat) (l : List Nat) : State :=
  s.modCore core fun c => { c with pools := tput c.pools realm (l.take 64) [] }

/-- Write the entry of an object number (R17, R18). -/
def putEntry (s : State) (h : Who) (realm num : Nat) (dws : List Word) : Acc Bool :=
  (entryAddr s h.core realm num false).bind fun s1 a =>
    match a with
    | none => .ok s1 false
    | some (x, _) =>
      (pocWrite s1 h x (dws.flatMap fun w => bytesLE 8 w.toNat)).bind fun s2 _ =>
        .ok (dropEntry s2 h.core realm num) true

/-- What drops of rights leave of dword 0 of a view (R236): MOD[6:1] drop R, W, X, RS, RL, NC. -/
def viewRights (dw0 : Word) (md : BitVec 12) : Word :=
  dw0 &&& ~~~(BitVec.ofNat 64 (bits md 6 1 * 2 ^ 54))

/-- Rights bits and NOREF of dword 0. -/
def rightsMask : Word := BitVec.ofNat 64 (127 * 2 ^ 53)

/-- Entry of a view (R236). -/
def viewEntry (e t : OcEntry) (md : BitVec 12) (start len : Nat) (own : BitVec 32) : List Word :=
  let d0 := (viewRights (e.dw 0) md &&& rightsMask) ||| BitVec.ofNat 64 (2 ^ 63 + 2 ^ 50)
  let d0 := if md.getLsbD 0 then d0 ||| (1#64 <<< 53) else d0
  [d0 ||| (t.dfmt.zeroExtend 64 <<< 40) ||| BitVec.ofNat 64 (len - 1), own.zeroExtend 64 <<< 32,
   refOf t.obj (start + if e.view then e.voff else 0), 0]

/-- RDERIVE (R236). -/
def execRderive (f : BaseF) (s : State) : Host.Outcome State Fault Refusal :=
  issue s (.rderive f) (orderedBody fun s' c l x =>
    laneOut (flatAcc (laneTry s' c.wk l x.av (offOf x.av.bits) 0 [] 0 5 fun st h p =>
      let t := st.teamOf c.wk
      let b := x.bv.bits.toInt
      let n := x.cv.bits.toInt
      let at' : Int := offOf x.av.bits + b
      if b < 0 || n < 1 || (p.ent.len : Int) < at' + n then
        .ok st (some (.ok (.error (refFault .memory memBOUNDS x.av.bits at'))))
      else
        match takeNumber st h.core t.realm with
        | none => .ok st none
        | some (.error e) => .ok st (some (.error e))
        | some (.ok (.error e)) => .ok st (some (.ok (.error { e with opv := x.av.bits, eoff := BitVec.ofInt 40 at' })))
        | some (.ok (.ok num)) =>
          (putEntry st h t.realm num (viewEntry p.ent p.top f.md at'.toNat n.toNat t.handle)).bind fun s1 _ =>
            let s2 := s1.setPool h.core t.realm ((tget (s1.core h.core).pools t.realm []).erase num)
            .ok (s2.modTeam (s2.warp c.wk).team fun u => { u with views := u.views ++ [(num, p.top.obj)] })
              (some (.ok (.ok num))))) fun s1 num => (s1, resV ⟨refOf num 0, true⟩))

/-- Fill a span with zero, tags 0, a format and the scale 0x7F (R45, R238); blocks of 64 bytes. A line homed elsewhere takes no
directory entry (R217): a read with write intent, then an untracked write. -/
def zeroPieces (s : State) (h : Who) (fmt : Byte) (host : Bool) : List (Nat × Nat × Nat) → Acc Unit
  | [] => .ok s ()
  | (u, o, n) :: r =>
    (if host then pocWrite s h (64 * u + o) (List.replicate n 0)
     else if agentOf u ≠ s.pkg.agent then
      (privLine s h u true).bind fun s1 _ =>
        backPriv s1 u { lineCleared with fmt := [fmt, fmt] } (maskAt 128 o n) (wordMask o n) (maskAt 2 (o / 64) (n / 64))
     else
      (takeLine s h u (n == 128)).bind fun s1 _ =>
        .ok (mergeAt s1 u { lineCleared with fmt := [fmt, fmt] } (maskAt 128 o n) (wordMask o n)
          (maskAt 2 (o / 64) (n / 64))) ()).bind fun s1 _ => zeroPieces s1 h fmt host r

def zeroSpan (s : State) (h : Who) (fmt : Byte) (a n : Nat) : Acc Unit :=
  zeroPieces s h fmt (isHost (a / 2 ^ 40)) (piecesOf a n)

/-- Where an allocation of n bytes starts in the pool (R238): the offset in the pool's object; none if it does not fit. -/
def arenaStart (t : Team) (sl : PoolSlot) (e p : OcEntry) (n : Nat) : Option Nat :=
  let sh := if e.view then e.voff else 0
  let b := roundUp t.bump 64
  let b1 := if p.hm && (b + sh) / p.chunk != (b + sh + n - 1) / p.chunk then roundUp (b + sh) p.chunk - sh else b
  if sl.off + sl.size < b1 + n || (p.hm && p.chunk < n) then none else some b1

/-- Entry of an object allocated from the arena (R238): MOD[6:0] are R, W, X, RS, RL, NC, NOREF. -/
def arenaEntry (md : BitVec 12) (wld : Bool) (addr n : Nat) (own : BitVec 32) : List Word :=
  [BitVec.ofNat 64 (2 ^ 63 + b2n wld * 2 ^ 62 + bits md 6 0 * 2 ^ 53 + bits md 11 8 * 2 ^ 40 + (n - 1)),
   own.zeroExtend 64 <<< 32, BitVec.ofNat 64 addr, 0]

/-- OALLOC in one lane (R238); it stalls while the arena object migrates (R30). -/
def allocLane (f : BaseF) (wk : Nat) (a : Int) (s : State) (h : Who) : Acc (Tried (Except LaneFault Nat)) :=
  let t := s.teamOf wk
  let tk := (s.warp wk).team
  let n := a.toNat
  let none' : Acc (Tried (Except LaneFault Nat)) :=
    .ok s (some (.ok (.error { cause := .memory, sub := memARENA, opv := BitVec.ofInt 64 a })))
  match t.arena with
  | none => none'
  | some sl =>
    if a < 1 then .ok s (some (.ok (.error (operandFault opLENGTH (BitVec.ofInt 64 a)))))
    else
      (findPair s h.core t.realm sl.obj false).bind fun s1 r =>
        match r with
        | none => none'
        | some (e, p) =>
          match arenaStart t sl e p n with
          | none => none'
          | some b =>
            match takeNumber s1 h.core t.realm with
            | none => .ok s1 none
            | some (.error x) => .ok s1 (some (.error x))
            | some (.ok (.error x)) => .ok s1 (some (.ok (.error { x with opv := BitVec.ofInt 64 a })))
            | some (.ok (.ok num)) =>
              (if s1.moving h.core p then .stall else resolveAt s1 h.core p (b + if e.view then e.voff else 0)).bind fun s2 ad =>
                match ad with
                | none => none'
                | some addr =>
                  (zeroSpan s2 h (BitVec.ofNat 8 (bits f.md 11 8)) addr (roundUp n 64)).bind fun s3 _ =>
                    (putEntry s3 h t.realm num (arenaEntry f.md t.wld addr n t.handle)).bind fun s4 _ =>
                      let s5 := s4.setPool h.core t.realm ((tget (s4.core h.core).pools t.realm []).erase num)
                      .ok (s5.modTeam tk fun u =>
                        { u with bump := roundUp (b + n) 64, objs := u.objs ++ [⟨num, b, n⟩] }) (some (.ok (.ok num)))

/-- OALLOC (R238). -/
def execOalloc (f : BaseF) (s : State) : Host.Outcome State Fault Refusal :=
  issue s (.oalloc f) (orderedBody fun s' c l x =>
    let h := whoLane s' c.wk l
    match runTry s' h (allocLane f c.wk x.av.bits.toInt · h) with
    | (s1, none) => (s1, none)
    | (s1, some (.error e)) => (s1, some (.fault { cause := .remote, sub := e.sub, opv := x.av.bits }))
    | (s1, some (.ok (.error e))) => (s1, some (.fault e))
    | (s1, some (.ok (.ok num))) => (s1, some (resV ⟨refOf num 0, true⟩)))

/-- Drop the L1 lines of an object without write-back. -/
def dropLines (s : State) (core realm obj : Nat) : State :=
  s.modCore core fun c => { c with l1 := c.l1.filter fun e => !(e.realm == realm && e.obj == obj) }

/-- The bump pointer goes back if the object was the slot's most recent allocation (R239). -/
def unbump (t : Team) (num : Nat) : Team :=
  let t1 := { t with objs := t.objs.filter fun o => o.num != num, views := t.views.filter fun v => v.1 != num }
  match t.objs.getLast? with
  | some o => if o.num = num then { t1 with bump := o.start } else t1
  | none => t1

/-- The mark by which a core's acknowledgements of an OFREE come back to its lane (R239). -/
def ofreeSrc (wk l : Nat) : Nat := 2 ^ 20 + lkOf wk l

/-- Send OINV for an object to every core that is on line (R29). -/
def sendOinv (s : State) (src realm obj : Nat) (release : Bool) : State :=
  (upto 32).foldl (fun st c =>
    if (st.core c).offline then st else st.modCore c fun x => { x with oinv := x.oinv ++ [⟨src, realm, obj, release⟩] }) s

/-- Whether any core has still to acknowledge. -/
def oinvOwed (s : State) (src : Nat) : Bool := (upto 32).any fun c => (s.core c).oinv.any fun o => o.src == src

/-- The loads of an object that a core has outstanding are performed (R226, R239). -/
def settleObject (s : State) (core realm obj : Nat) : State × Bool :=
  tryDefers s (s.defers.filter fun d => wkCore d.wk == core && !d.isHost && d.realm == realm && d.obj == obj)

/-- Free the object that a lane names (R239), once the core's loads of it have their data: true if acknowledgements are to be awaited. -/
def freeLane (wk l : Nat) (ref : Word) (s : State) (h : Who) (p : Place) : Acc (Tried (Except LaneFault Unit)) :=
  let t := s.teamOf wk
  let e := p.ent
  if !(e.own == t.handle && (e.view || e.vis == 0)) then
    .ok s (some (.ok (.error (refFault .memory memFREE ref (offOf ref)))))
  else
    match settleObject s h.core t.realm e.obj with
    | (s0, false) => .ok s0 none
    | (s0, true) =>
      (putEntry s0 h t.realm e.obj ((e.dw 0 &&& ~~~(1#64 <<< 63)) :: e.dws.drop 1)).bind fun s1 _ =>
        let s2 := if e.view then s1 else dropLines s1 h.core t.realm e.obj
        let s3 := s2.setPool h.core t.realm (tget (s2.core h.core).pools t.realm [] ++ [e.obj])
        let s4 := s3.modTeam (s3.warp wk).team fun u => unbump u e.obj
        if e.view && p.pub then
          let s5 := sendOinv s4 (ofreeSrc wk l) t.realm e.obj false
          .ok (s5.modCore h.core fun c => { c with ofrees := tset c.ofrees (lkOf wk l) e.obj }) none
        else .ok s4 (some (.ok (.ok ())))

/-- OFREE (R239): a lane that waits for acknowledgements retires once every core has given its own. -/
def execOfree (f : BaseF) (s : State) : Host.Outcome State Fault Refusal :=
  issue s (.ofree f) (orderedBody fun s' c l x =>
    match tfind (s'.core (wkCore c.wk)).ofrees (lkOf c.wk l) with
    | some _ =>
      if oinvOwed s' (ofreeSrc c.wk l) then (s', none)
      else (s'.modCore (wkCore c.wk) fun k => { k with ofrees := tdel k.ofrees (lkOf c.wk l) }, some done)
    | none =>
      laneOut (flatAcc (laneTry s' c.wk l x.av (offOf x.av.bits) 0 [] 0 5 (freeLane c.wk l x.av.bits))) fun s1 _ =>
        (s1, done))

end Sys2Proof.Machine
end

