-- ==== Sys2Proof/Machine/Engine.lean ====
section
/-! DEFINITION. What the engines of a core share: completion counters (R150), tiles (R270), bank conflicts (R247),
asynchronous faults (R259, R260). -/

namespace Sys2Proof.Machine

/-! ### Completion counters (R150) -/

/-- Whether a counter can still be incremented. -/
def counterFree (s : State) (wk ci : Nat) : Bool := (s.warp wk).counter ci < 31

/-- A command is issued on a counter. -/
def counterIssue (s : State) (wk ci id : Nat) : State :=
  s.modWarp wk fun w => { w with ctr := tput w.ctr ci (tget w.ctr ci [] ++ [⟨id, false⟩]) [] }

/-- Commands at the head of a counter that are done leave it: they are reported in issue order. -/
def dropDone : List Ticket → List Ticket
  | [] => []
  | t :: r => if t.done then dropDone r else t :: r

/-- A command on a counter is done. -/
def counterDone (s : State) (wk ci id : Nat) : State :=
  s.modWarp wk fun w =>
    let ts := (tget w.ctr ci []).map fun (t : Ticket) => if t.id = id then { t with done := true } else t
    { w with ctr := tput w.ctr ci (dropDone ts) [] }

/-! ### Tiles (R270) -/

/-- Key of an element of a tile of a bank. -/
def tileKey (bank tile r c : Nat) : Nat := ((bank * 256 + tile) * 32 + r) * 32 + c

/-- An element of a tile, as FP32 bits; one that nothing has written since admission is a free value (R73, log 8). -/
def Team.tileEl (t : Team) (bank tile r c : Nat) : BitVec 32 :=
  tget t.tiles (tileKey bank tile r c) (Config.freeTile t.seed (tileKey bank tile r c))

/-- Write an element of a tile. -/
def Team.setTileEl (t : Team) (bank tile r c : Nat) (v : BitVec 32) : Team :=
  { t with tiles := tset t.tiles (tileKey bank tile r c) v }

/-- A row of a tile. -/
def Team.tileRow (t : Team) (bank tile r : Nat) : List Nat := (upto 32).map fun c => (t.tileEl bank tile r c).toNat

/-- Write elements of a row from a column on. -/
def Team.setTileRow (t : Team) (bank tile r : Nat) : Nat → List (BitVec 32) → Team
  | _, [] => t
  | c, v :: rest => (t.setTileEl bank tile r c v).setTileRow bank tile r (c + 1) rest

/-! ### Bank conflicts (R247) -/

/-- The first group of some elements (offsets of `n` bytes each): the elements taken, and the rest. -/
def bankGroup (n lo hi : Nat) : List Nat → List Nat × List Nat
  | [] => ([], [])
  | o :: r =>
    let lo' := min lo o
    let hi' := max hi (o + n)
    if 256 < hi' - lo' then ([], o :: r)
    else let g := bankGroup n lo' hi' r; (o :: g.1, g.2)

/-- Cycles of a group: the most distinct words that it needs from one bank. -/
def groupCycles (n : Nat) (os : List Nat) : Nat :=
  let ws := (os.flatMap fun o => wordsOf o n).eraseDups
  ((upto 32).map fun b => (ws.filter fun w => w % 32 == b).length).foldl max 0

/-- Cycles lost to bank conflicts by a sequence of elements, in at most `fuel` groups. -/
def bankExtra (n : Nat) : Nat → List Nat → Nat
  | 0, _ => 0
  | _, [] => 0
  | f + 1, o :: r =>
    let g := bankGroup n o (o + n) r
    groupCycles n (o :: g.1) - 1 + bankExtra n f g.2

/-- Add lost cycles to BANKCONF of a warp (R248). -/
def addConf (s : State) (wk n : Nat) (os : List Nat) : State :=
  let k := bankExtra n os.length os
  if k = 0 then s else s.modWarp wk fun w => { w with bankc := w.bankc + BitVec.ofNat 48 k }

/-! ### Asynchronous faults -/

/-- An asynchronous fault waits for its warp's next clause boundary (R259, R370). -/
def asyncFault (s : State) (wk : Nat) (f : AsyncFault) : State :=
  s.modWarp wk fun w => { w with asyncs := w.asyncs ++ [f] }

/-- Record a command's fault in SHERR (R260): the first stands, a second sets OVF. -/
def recordSherr (s : State) (wk : Nat) (minor : Nat) (c : Cause) (sub : Byte) (elem : Nat) (k cv : Bool) (ci : Nat) : State :=
  s.modWarp wk fun w =>
    if w.sherr.v then { w with sherr := { w.sherr with ovf := true } }
    else
      { w with sherr := { v := true, ovf := w.sherr.ovf, minor := BitVec.ofNat 3 minor, cause := c.code, sub := sub
                          elem := BitVec.ofNat 32 elem, k := k, cv := cv, ci := BitVec.ofNat 3 ci, taken := false } }

/-! ### Shed rings (R299, R300) -/

/-- A shed ring of a team. -/
def Team.ringOf (t : Team) (n : Nat) : Ring := tget t.rings n Ring.reset
def Team.setRing (t : Team) (n : Nat) (r : Ring) : Team := { t with rings := tput t.rings n r Ring.reset }

/-- Phase bit of a slot. -/
def Ring.phase (r : Ring) (j : Nat) : Bool := r.ph.getD j false

/-- n arrivals on slot j (R300): at zero its phase turns over; any excess is discarded. -/
def Ring.arrive (r : Ring) (j n : Nat) : Ring :=
  if r.rem.getD j 0 ≤ n then { r with ph := r.ph.set j (!r.phase j), rem := r.rem.set j r.cnt }
  else { r with rem := r.rem.set j (r.rem.getD j 0 - n) }

/-- Initialise a ring (R300). -/
def Ring.init (depth cnt : Nat) : Ring :=
  { depth := depth, cnt := cnt, ph := List.replicate 16 false, rem := List.replicate 16 cnt }

/-- A slot value (R299): slot and phase, or OPERAND, SLOT. -/
def slotOf (r : Ring) (v : BitVec 32) : Except LaneFault (Nat × Bool) :=
  let j := bits v 3 0
  if bits v 31 5 ≠ 0 ∨ r.depth ≤ j then .error (operandFault opSLOT (v.zeroExtend 64)) else .ok (j, v.getLsbD 4)

end Sys2Proof.Machine
end

