-- ==== Sys2Proof/Machine/Matrix.lean ====
section
/-! DEFINITION. Group 10 (R270–R288): MMA and ACZ with their bank queues and latches, and the row instructions. -/

namespace Sys2Proof.Machine

/-! ### Issue of MMA (R273–R276) -/

/-- K, the bytes of a B row, and the registers of an A block, by class (R273). -/
def mmaK (cls : Nat) : Nat := if cls = 0 then 32 else if cls = 1 then 16 else 64
def mmaRowBytes (cls : Nat) : Nat := if cls = 1 then 64 else 32
def mmaRegs (cls : Nat) : Nat := if cls = 2 then 16 else 8
/-- Bytes of an element of A and of B. -/
def mmaWidth (cls : Nat) : Nat := if cls = 1 then 2 else 1

/-- CLS, AF, BR of an MMA. -/
def mmaCls (f : MxF) : Nat := bits f.md 7 6
def mmaAf (f : MxF) : Nat := bits f.md 5 3
def mmaBr (f : MxF) : Nat := bits f.md 2 0

/-- A latch of a core. -/
def State.latchOf (s : State) (core bank : Nat) : Latch := tget (s.core core).latch bank Latch.reset

/-- A bank queue of a core. -/
def State.bankQ (s : State) (core bank : Nat) : List MxJob := tget (s.core core).mxq bank []

/-- Enter a bank queue (R277). -/
def State.bankEnter (s : State) (core bank : Nat) (j : MxJob) : State :=
  ({ s with uid := s.uid + 1 }).modCore core fun c => { c with mxq := tput c.mxq bank (tget c.mxq bank [] ++ [j]) [] }

/-- The A row and scale of one lane from its registers (R273). -/
def aRow (regs : List (BitVec 32)) (scale : Option Byte) : ARow :=
  { bytes := regs.flatMap fun r => bytesLE 4 r.toNat
    nan := scale == some 0xFF
    exp := match scale with | some v => (v.toNat : Int) - 127 | none => 0 }

/-- Check 3 of R275 alone: the A block and S lie below the lane's demand. -/
def belowDemand (s : State) (wk l : Nat) (code : Byte) (n : Nat) : Option LaneFault :=
  let d := (s.frameOf wk l).demand
  if code.toNat < 0x40 then none
  else ((regRange (code.toNat - 0x40) n).find? (d ≤ ·)).map fun k =>
    { cause := .operand, sub := opFREG, opv := BitVec.ofNat 64 k, reg := regCode k }

/-- The row of one lane: check 3 of R275 on the whole A block and S, then check 4: from the latch, or from registers. -/
def mmaRow (s : State) (c : Ctx) (f : MxF) (l : Nat) (hit : Option ARow) : Rd ARow :=
  let su := f.md.getLsbD 9
  let n := mmaRegs (mmaCls f)
  match belowDemand s c.wk l f.a n, (if su then none else belowDemand s c.wk l f.sb 1), hit with
  | some e, _, _ => .bad e
  | none, some e, _ => .bad e
  | none, none, some r => .ok r
  | none, none, none =>
    let rs := readFRegs s c.wk l (f.bt.getLsbD 1) (regRange (f.a.toNat - 0x40) n)
    if su then rs.bind fun r => .ok (aRow r none)
    else rs.both (read32 s c.wk l f.sb (f.bt.getLsbD 0)) fun r v => aRow r (some (v.bits.truncate 8))

/-- The rows of the lanes, if none blocks. -/
def mmaRows (s : State) (c : Ctx) (f : MxF) (hit : Nat → Option ARow) : List Nat → Rd (Tab ARow × List (Nat × LaneOut))
  | [] => .ok ([], [])
  | l :: r =>
    match mmaRow s c f l (hit l) with
    | .block => .block
    | .bad e => (mmaRows s c f hit r).bind fun t => .ok (t.1, (l, .fault e) :: t.2)
    | .ok a => (mmaRows s c f hit r).bind fun t => .ok ((l, a) :: t.1, t.2)

/-- The latch after an MMA of a warp has issued (R276). -/
def latchAfter (lt : Latch) (mine ru : Bool) (own : Nat × BitVec 32) (f : MxF) (rows : Tab ARow) : Latch :=
  if ru then
    let base := if mine then lt.rows else []
    { own := some own, cls := BitVec.ofNat 2 (mmaCls f), af := BitVec.ofNat 3 (mmaAf f)
      rows := rows.foldl (fun t e => tset t e.1 e.2) base }
  else if mine then Latch.reset
  else lt

/-- The row that a lane has in the latch, if an MMA of its warp may take it from there (R276). -/
def latchHit (s : State) (wk : Nat) (f : MxF) (l : Nat) : Option ARow :=
  let lt := s.latchOf (wkCore wk) (wkPart wk)
  if lt.own == some (wkSlot wk, (s.teamOf wk).handle) && lt.cls.toNat == mmaCls f && lt.af.toNat == mmaAf f then tfind lt.rows l
  else none

/-- MMA (R273–R278). -/
def execMma (f : MxF) (s : State) : Host.Outcome State Fault Refusal :=
  issue s (.mma f) (fun s' c =>
    let core := wkCore c.wk
    let bank := wkPart c.wk
    let t := s'.teamOf c.wk
    let lay := t.layout f.lr.toNat
    let cls := mmaCls f
    let rb := mmaRowBytes cls
    let ci := f.ci.toNat
    let off : Word := BitVec.ofNat 64 lay.spb
    if lay.spb % rb ≠ 0 ∨ lay.spp % rb ≠ 0 then (s', allFault c (operandFault opSHAPE off))
    else if t.spSize < lay.spb + (mmaK cls - 1) * lay.spp + rb then
      (s', allFault c { cause := .memory, sub := memBOUNDS, opv := off, eoff := off.truncate 40 })
    else if 64 ≤ (s'.bankQ core bank).length ∨ (f.cv && !counterFree s' c.wk ci) then (s', [])
    else
      let lt := s'.latchOf core bank
      let own := (wkSlot c.wk, t.handle)
      let mine := lt.own == some own
      match mmaRows s' c f (latchHit s' c.wk f) c.lanes with
      | .ok (rows, bad) =>
        if rows.isEmpty then (s', bad)
        else
          let id := s'.uid
          let s1 := s'.modCore core fun k =>
            { k with latch := tput k.latch bank (latchAfter lt mine (f.md.getLsbD 11) own f rows) Latch.reset }
          let s2 := if f.cv then counterIssue s1 c.wk ci id else s1
          let s3 := addConf s2 c.wk rb ((upto (mmaK cls)).map fun k => lay.spb + k * lay.spp)
          let j : MxJob :=
            { id := id, wk := c.wk, team := (s'.warp c.wk).team, bank := bank, tile := f.td.toNat, mma := true
              cls := BitVec.ofNat 2 cls, af := BitVec.ofNat 3 (mmaAf f), br := BitVec.ofNat 3 (mmaBr f)
              ow := f.md.getLsbD 10, spb := lay.spb, spp := lay.spp, rows := rows, lanes := maskOf (rows.map (·.1))
              cv := f.cv, ci := ci }
          (s3.bankEnter core bank j, bad ++ rows.map fun e => (e.1, done))
      | _ => (s'.stallAll c, []))

/-! ### The sum (R54, R55) -/

/-- Product of two values. -/
def mulFV : FV → FV → FV
  | .fin s m e, .fin t n k => .fin (s != t) (m * n) (e + k)
  | .inf s, .fin t _ _ => .inf (s != t)
  | .fin s _ _, .inf t => .inf (s != t)
  | .inf s, .inf t => .inf (s != t)
  | .nan s g, _ => .nan s g
  | _, .nan s g => .nan s g

/-- Whether a value is −0. -/
def isNegZero : FV → Bool
  | .fin s m _ => s && m == 0
  | _ => false

/-- The signs of the infinities among some values. -/
def infSigns (xs : List FV) : List Bool := xs.filterMap fun x => match x with | .inf s => some s | _ => none

/-- The exact sum of finite values as m · 2^e. -/
def sumFV (xs : List FV) : Int × Int :=
  xs.foldl (fun a x => match x with | .fin s m e => addDy a.1 a.2 (sgn s m) e | _ => a) (0, 0)

/-- The first rounding p of one element (R54, R55): its FP32 encoding and flags. -/
def mmaP (as bs : List FV) : Nat × BitVec 7 :=
  let ps := as.zip bs
  let all := as ++ bs
  if all.any FV.isNaN then (canonNaN fFP32 false, nvIf (all.any FV.isSig))
  else if ps.any fun p => infZero p.1 p.2 then newNaN fFP32
  else
    let prods := ps.map fun p => mulFV p.1 p.2
    match infSigns prods with
    | s :: r => if r.all (· == s) then (infOf fFP32 s, 0) else newNaN fFP32
    | [] =>
      let d := sumFV prods
      roundI fFP32 0 false d.1 d.2 (prods.all isNegZero)

/-- One element of an MMA: the new D and its flags. -/
def mmaElem (ow : Bool) (d : Nat) (as bs : List FV) : Nat × BitVec 7 :=
  let p := mmaP as bs
  if ow then p
  else
    let r := addF fFP32 0 false (decodeF fFP32 d) (decodeF fFP32 p.1)
    (r.1, r.2 ||| p.2)

/-- The A row as values (R273). -/
def aVals (cls af : Nat) (r : ARow) : List FV :=
  (chunks (mmaWidth cls) 64 r.bytes).map fun b => if r.nan then .qnan else (blkDecode af (ofBytes b)).scale r.exp

/-- Formats of a class (R273). -/
def inMmaCls (cls code : Nat) : Bool :=
  if cls = 0 then code == 1 || code == 2 || code == 3 else if cls = 1 then code == 5 || code == 6 else code == 4

/-- The format that BR names for RAW blocks (R274). -/
def rawFmt (cls af br : Nat) : Nat := if br ≠ 0 then br else if cls = 2 then 4 else af

/-- Column j of B as values, with the flags of its blocks (R274). -/
def bCol (t : Team) (j : MxJob) (col : Nat) : List (FV × BitVec 7) :=
  let cls := j.cls.toNat
  let w := mmaWidth cls
  (upto (mmaK cls)).map fun k =>
    let o := j.spb + k * j.spp + col * w
    let m := t.spMeta (o / 64)
    blkRead (inMmaCls cls) (rawFmt cls j.af.toNat j.br.toNat) m.1.toNat m.2.toNat (ofBytes (t.spRead o w))

/-- Perform an MMA on its tile: the new tile, and the flags of each participant row (R56). -/
def mmaTile (t : Team) (j : MxJob) : Team × List (Nat × BitVec 7) :=
  let cols := (upto 32).map (bCol t j)
  let blk : BitVec 7 := cols.foldl (fun m c => c.foldl (fun m2 e => m2 ||| e.2) m) 0
  j.rows.foldl (fun acc e =>
    let as := aVals j.cls.toNat j.af.toNat e.2
    let old := t.tileRow j.bank j.tile e.1
    let els := (upto 32).map fun c => mmaElem j.ow (old.getD c 0) as ((cols.getD c []).map (·.1))
    (acc.1.setTileRow j.bank j.tile e.1 0 (els.map fun x => BitVec.ofNat 32 x.1),
      acc.2 ++ [(e.1, els.foldl (fun m x => m ||| x.2) blk)])) (t, [])

/-- Leave the head of a bank queue (R278): its counter is reported. -/
def bankLeave (s : State) (core bank : Nat) (j : MxJob) : State :=
  let s1 := s.modCore core fun c => { c with mxq := tput c.mxq bank ((tget c.mxq bank []).drop 1) [] }
  if j.cv then counterDone s1 j.wk j.ci j.id else s1

/-- MMA_PERFORM (R278): the head of a bank's queue. -/
def execMmaPerform (core bank : Nat) (s : State) : Host.Outcome State Fault Refusal :=
  match s.bankQ core bank with
  | j :: _ =>
    if j.mma then
      let r := mmaTile (s.team j.team) j
      let s1 := s.setTeam j.team r.1
      let s2 := r.2.foldl (fun st e => if (st.lane j.wk e.1).st = .exited then st else raise st j.wk e.1 e.2) s1
      .next (bankLeave s2 core bank j).wake
    else .next s
  | [] => .next s

/-- ACZ_PERFORM (R281). -/
def execAczPerform (core bank : Nat) (s : State) : Host.Outcome State Fault Refusal :=
  match s.bankQ core bank with
  | j :: _ =>
    if j.mma then .next s
    else
      let s1 := s.modTeam j.team fun t =>
        (lanesOf j.lanes).foldl (fun u r => u.setTileRow j.bank j.tile r 0 (List.replicate 32 0)) t
      .next (bankLeave s1 core bank j).wake
  | [] => .next s

/-! ### Bank select (R272) -/

/-- Whether a partition of its core holds a warp of a team. -/
def Team.inPart (t : Team) (p : Nat) : Bool := (upto t.wpt).any fun w => (t.basep + w) % 4 == p

/-- The bank that BK selects, or its fault. -/
def bankSel (s : State) (c : Ctx) (f : MxF) : Except LaneFault Nat :=
  let bk := bits f.md 11 10
  let b := (wkPart c.wk + bk) % 4
  if (s.teamOf c.wk).inPart b then .ok b else .error (operandFault opHANDLE (BitVec.ofNat 64 bk))

/-- ACZ (R281). -/
def execAcz (f : MxF) (s : State) : Host.Outcome State Fault Refusal :=
  issue s (.acz f) (fun s' c =>
    match bankSel s' c f with
    | .error e => (s', allFault c e)
    | .ok bank =>
      let core := wkCore c.wk
      let ci := f.ci.toNat
      if 64 ≤ (s'.bankQ core bank).length ∨ (f.cv && !counterFree s' c.wk ci) then (s', [])
      else
        let s1 := if f.cv then counterIssue s' c.wk ci s'.uid else s'
        let j : MxJob :=
          { id := s'.uid, wk := c.wk, team := (s'.warp c.wk).team, bank := bank, tile := f.td.toNat, mma := false
            cls := 0, af := 0, br := 0, ow := false, spb := 0, spp := 0, rows := []
            lanes := if f.md.getLsbD 0 then BitVec.allOnes 32 else maskOf c.active, cv := f.cv, ci := ci }
        (s1.bankEnter core bank j, allOk c {}))

/-! ### Row instructions (R282–R286) -/

/-- The body of a row instruction: the bank, then each participant's row, in ascending lane order. -/
def rowBody (f : MxF) (g : State → Ctx → Nat → Nat → Srcs → State × LaneOut) : Body := fun s c =>
  match bankSel s c f with
  | .error e => (s, allFault c e)
  | .ok bank => seqBody (fun st c' l x => let r := g st c' bank l x; (r.1, some r.2)) s c

/-- ACRD (R283). -/
def execAcrd (f : MxF) (s : State) : Host.Outcome State Fault Refusal :=
  issue s (.acrd f) (fun s' c =>
    let q := bits f.md 1 0
    let n := f.a.toNat - 0x40
    let vals (t : Team) (bank l : Nat) : List (BitVec 32) := (upto 8).map fun m => t.tileEl bank f.td.toNat l (8 * q + m)
    let r := rowBody f (fun st c' bank l _ =>
      (((vals (st.teamOf c'.wk) bank l).zip (regRange n 8)).foldl (fun st1 e =>
        putFReg st1 (st1.lane c'.wk l).frame l e.2 e.1) st, done)) s' c
    match bankSel s' c f with
    | .error _ => r
    | .ok bank =>
      let ls := (r.2.filter fun e => match e.2 with | .ok _ => true | .fault _ => false).map (·.1)
      let rows := ls.map (vals (s'.teamOf c.wk) bank)
      (countWrite r.1 c.wk ((upto 8).map fun m => rows.map fun v => v.getD m 0), r.2))

/-- ACWR (R283). -/
def execAcwr (f : MxF) (s : State) : Host.Outcome State Fault Refusal :=
  issue s (.acwr f) (rowBody f fun st c bank l x =>
    (st.modTeam (st.warp c.wk).team fun t =>
      t.setTileRow bank f.td.toNat l (8 * bits f.md 1 0) (x.a.map fun v => lo32 v.bits), done))

/-- Order key of an FP32 encoding that is no NaN: −0 below +0. -/
def ordKey (x : Nat) : Int := if x < 2 ^ 31 then x else -((x : Int) - 2 ^ 31) - 1

/-- A reduction of a row (R284): its FP32 encoding and flags. -/
def reduceRow (op : Nat) (xs : List Nat) : Nat × BitVec 7 :=
  let vs := xs.map (decodeF fFP32)
  let sig := nvIf (vs.any FV.isSig)
  let nums := xs.filter fun x => !(decodeF fFP32 x).isNaN
  match op with
  | 0 =>
    match nums with
    | [] => (canonNaN fFP32 (2 ^ 31 ≤ xs.headD 0), sig)
    | x :: r => (r.foldl (fun m y => if ordKey m < ordKey y then y else m) x, sig)
  | 1 =>
    match nums with
    | [] => (canonNaN fFP32 false, sig)
    | _ => (nums.foldl (fun m y => max m (y % 2 ^ 31)) 0, sig)
  | 2 =>
    match nanOf fFP32 vs with
    | some r => r
    | none =>
      match infSigns vs with
      | s :: r => if r.all (· == s) then (infOf fFP32 s, 0) else newNaN fFP32
      | [] => let d := sumFV vs; roundI fFP32 0 false d.1 d.2 (vs.all isNegZero)
  | _ =>
    match nanOf fFP32 vs with
    | some r => r
    | none =>
      if (infSigns vs).isEmpty then
        let d := sumFV (vs.map fun v => mulFV v v)
        roundI fFP32 0 false d.1 d.2 false
      else (infOf fFP32 false, 0)

/-- ACRED (R284). -/
def execAcred (f : MxF) (s : State) : Host.Outcome State Fault Refusal :=
  issue s (.acred f) (rowBody f fun st c bank l _ =>
    let r := reduceRow (bits f.md 1 0) ((st.teamOf c.wk).tileRow bank f.td.toNat l)
    (st, .ok { val := some (Val.int (BitVec.ofNat 64 r.1)), flags := r.2 }))

/-- ACSCL (R285). -/
def execAcscl (f : MxF) (s : State) : Host.Outcome State Fault Refusal :=
  issue s (.acscl f) (rowBody f fun st c bank l x =>
    let k := fIn fFP32 f.sb x.bv
    let rs := ((st.teamOf c.wk).tileRow bank f.td.toNat l).map fun d => mulF fFP32 (bits f.md 9 7) false (decodeF fFP32 d) k
    (st.modTeam (st.warp c.wk).team fun t =>
      t.setTileRow bank f.td.toNat l 0 (rs.map fun r => BitVec.ofNat 32 r.1),
     .ok { flags := rs.foldl (fun m r => m ||| r.2) 0 }))

/-- A row segment quantised (R286): its bytes, SCALE and flags. -/
def quantSeg (code rm : Nat) (sat : Bool) (scale : Nat) (fix : Bool) (seg : List Nat) : List Byte × Nat × BitVec 7 :=
  if fix && scale == 0xFF then (List.replicate 32 0, 0xFF, 0)
  else if (code == 3 || code == 4) && seg.any fun x => (decodeF fFP32 x).isNaN then (List.replicate 32 0, 0xFF, flagNV)
  else
    let es := seg.map fun x => quantElem code rm sat scale (some x)
    (es.flatMap fun e => bytesLE (blkWidth code) e.1, scale, es.foldl (fun m e => m ||| e.2) 0)

/-- The part of a row that ACRD.Q reads (R286). -/
def acrdqSeg (f : MxF) (row : List Nat) : List Nat :=
  if blkWidth (bits f.md 2 0) = 1 then row else (row.drop (if f.md.getLsbD 5 then 16 else 0)).take 16

/-- ACRD.Q once bank and scale are known: the destination block of each participant, then the ring's record. -/
def acrdqBody (f : MxF) (bank : Nat) (fix : Option Nat) : Body := fun s c =>
  if fix.isNone && s.ringBusy (wkCore c.wk) (f.sb.toNat % 64) then (s, []) else
  match readLanes s { c with g := { c.g with b := .none } } c.lanes with
  | .ok xs =>
    let p := splitReads xs
    if p.1.isEmpty then (s, p.2)
    else
      let core := wkCore c.wk
      let rn := f.sb.toNat % 64
      let code := bits f.md 2 0
      let scale := match fix with | some v => v | none => chooseScale code (s.ring core rn).ringmax
      let t := s.teamOf c.wk
      let segs := p.1.map fun e => (e.1, acrdqSeg f (t.tileRow bank f.td.toNat e.1))
      let qs := segs.map fun e => (e.1, quantSeg code (bits f.md 9 7) (f.md.getLsbD 6) scale fix.isSome e.2)
      let regs (b : List Byte) : List (BitVec 32) := (chunks 4 8 b).map fun w => BitVec.ofNat 32 (ofBytes w)
      let n := f.a.toNat - 0x40
      let s1 := qs.foldl (fun st e => ((regs e.2.1).zip (regRange n 8)).foldl (fun st1 r =>
        putFReg st1 (st1.lane c.wk e.1).frame e.1 r.2 r.1) st) s
      let s2 := countWrite s1 c.wk ((upto 8).map fun m => qs.map fun e => (regs e.2.1).getD m 0)
      let s3 := if fix.isSome then s2 else s2.modRing core rn fun a => a.record (absMax (segs.flatMap (·.2)))
      (s3, p.2 ++ qs.map fun e =>
        (e.1, .ok { val := some (Val.int (BitVec.ofNat 64 e.2.2.1)), flags := e.2.2.2 }))
  | _ => (s, [])

/-- ACRD.Q (R286). -/
def execAcrdQ (f : MxF) (s : State) : Host.Outcome State Fault Refusal :=
  issue s (.acrdQ f) (fun s' c =>
    match bankSel s' c f with
    | .error e => (s', allFault c e)
    | .ok bank =>
      if f.md.getLsbD 4 then
        match leadRead s' c f.sb (f.bt.getLsbD 0) with
        | .block => (s', [])
        | .bad e => (s', allFault c e)
        | .ok w => acrdqBody f bank (some (w.toNat % 256)) s' c
      else acrdqBody f bank none s' c)

end Sys2Proof.Machine
end

