-- ==== Sys2Proof/Machine/Shuttle.lean ====
section
/-! DEFINITION. The shuttle (R244–R269): LYSET, the issue of the commands, and the performance of their elements. -/

namespace Sys2Proof.Machine

/-! ### Elements (R246) -/

/-- The number of elements of a record. -/
def Layout.count (l : Layout) : Nat := l.ext 0 * l.ext 1 * l.ext 2 * l.ext 3

/-- Index i_m of element k. -/
def Layout.idx (l : Layout) (k m : Nat) : Nat :=
  match m with
  | 0 => k % l.ext 0
  | 1 => k / l.ext 0 % l.ext 1
  | 2 => k / (l.ext 0 * l.ext 1) % l.ext 2
  | _ => k / (l.ext 0 * l.ext 1 * l.ext 2)

/-- Offset of element k on the memory side. -/
def Layout.memAt (l : Layout) (k : Nat) : Int :=
  (offOf l.base.bits : Int) + l.idx k 0 * l.stride 0 + l.idx k 1 * l.stride 1 + l.idx k 2 * l.stride 2
    + l.idx k 3 * l.stride 3

/-- Offset of element k on the scratchpad or tile side. -/
def Layout.spAt (l : Layout) (k : Nat) : Nat :=
  l.spb + l.idx k 0 * l.esz + (l.idx k 1 + l.ext 1 * (l.idx k 2 + l.ext 2 * l.idx k 3)) * l.spp

/-- Offset of element k on a side: 0 .mem, 1 .sp, 2 .acc. -/
def Layout.elemAt (l : Layout) (side k : Nat) : Int := if side = 0 then l.memAt k else l.spAt k

/-- Offsets of every element on a side. -/
def Layout.offs (l : Layout) (side : Nat) : List Int := (upto l.count).map (l.elemAt side)

/-! ### Reading memory (R254) -/

/-- A line as the shuttle reads it (R254): from L1 where it is held, else at the L2 without allocating. -/
def peekLine (s : State) (h : Who) (k : Key) (line : Nat) : Acc LineData :=
  match s.l1Find h.core k line with
  | some e => .ok s e.data
  | none => if k.pub then pocLine s line else privLine s h line false

/-- Read pieces of lines so. -/
def peekBytes (s : State) (h : Who) (k : Key) : List (Nat × Nat × Nat) → Acc (List Byte)
  | [] => .ok s []
  | (u, o, n) :: r =>
    (peekLine s h k u).bind fun s1 d => (peekBytes s1 h k r).bind fun s2 c => .ok s2 (lineGet d o n ++ c)

/-- Read n bytes so; lines homed at a host are read at the L2. -/
def peekRead (s : State) (h : Who) (k : Key) (a n : Nat) : Acc (List Byte) :=
  if isHost (a / 2 ^ 40) then pocRead s a n else peekBytes s h k (piecesOf a n)

/-- The image of a record, read by a lane after its own earlier loads of it. -/
def imageAct (wk l : Nat) (s : State) (h : Who) (p : Place) : Acc (Tried (List Byte)) :=
  thenOwn s wk l p.addr 64 fun s1 =>
    (peekRead s1 h p.key p.addr 64).bind fun s2 b => let r := openRead s2 wk p b; .ok r.1 (some (.ok r.2))

/-! ### LYSET (R245) -/

/-- What is wrong with a record image: a nonzero reserved field, QRM, or QFMT. -/
def badRecord (d7 : Word) : Bool :=
  bits d7 63 24 != 0 || bits d7 7 2 != 0 || 4 < bits d7 13 11 || 6 < bits d7 17 14

/-- Write a record from its image and B, or refuse it. -/
def setLayout (s : State) (c : Ctx) (n : Nat) (b : Val) (img : List Byte) : State × List (Nat × LaneOut) :=
  let dws := (chunks 8 8 img).map fun w => BitVec.ofNat 64 (ofBytes w)
  let d7 := dws.getD 7 0
  if badRecord d7 then (s, allFault c (operandFault opRECORD d7))
  else
    (s.modTeam (s.warp c.wk).team fun t => { t with layouts := tput t.layouts n ⟨b, dws.drop 1⟩ Layout.zero }, allOk c {})

/-- LYSET (R245). -/
def execLyset (f : BaseF) (s : State) : Host.Outcome State Fault Refusal :=
  issue s (.lyset f) (fun s' c =>
    let n := f.d.toNat % 16
    match readAll s' c.wk c.lead c.g with
    | .block => (s', [])
    | .bad e => (s', allFault c e)
    | .ok x =>
      if f.md.getLsbD 0 then
        let t := s'.teamOf c.wk
        let o := (lo32 x.av.bits).toNat
        let bad (sub : Byte) : LaneFault :=
          { cause := .memory, sub := sub, opv := BitVec.ofNat 64 o, eoff := BitVec.ofNat 40 o }
        if t.spSize < o + 64 then (s', allFault c (bad memBOUNDS))
        else if o % 64 ≠ 0 then (s', allFault c (bad memALIGN))
        else setLayout s' c n x.bv (t.spRead o 64)
      else
        match laneTry s' c.wk c.lead x.av (offOf x.av.bits) 64 [rR] 64 9 (imageAct c.wk c.lead) with
        | (s1, none) => (s1, [])
        | (s1, some (.error e)) => (s1, allFault c e)
        | (s1, some (.ok b)) => setLayout s1 c n x.bv b)

/-! ### Issue checks (R249, R250) -/

/-- The operands of a command, read in the command lane. -/
def leadSrcs (s : State) (c : Ctx) (fill : SrcW) : Rd Srcs :=
  let l := c.lead
  let w (o : Opnd) : Opnd := match o with | .fill => .src fill | x => x
  readSrcs s c.wk l { c.g with a := w c.g.a, b := w c.g.b, c := w c.g.c, d := w c.g.d }

/-- Check 4 on offsets of one scratchpad or tile side. -/
def spSideFault (lim esz : Nat) (os : List Int) : Option LaneFault :=
  let bad (sub : Byte) (o : Int) : LaneFault :=
    { cause := .memory, sub := sub, opv := BitVec.ofInt 64 o, eoff := BitVec.ofInt 40 o }
  match os.find? fun (o : Int) => (lim : Int) < o + esz, os.find? fun (o : Int) => o % (esz : Int) != 0 with
  | some o, _ => some (bad memBOUNDS o)
  | none, some o => some (bad memALIGN o)
  | none, none => none

/-- The least and the greatest of some offsets. -/
def minI (l : List Int) : Int := l.foldl min (l.headD 0)
def maxI (l : List Int) : Int := l.foldl max (l.headD 0)

/-- Check 5 on a memory side: checks 1 to 7 of R25 over the span, then the alignment of every element. -/
def memSideCheck (s : State) (core : Nat) (t : Team) (base : Val) (os : List Int) (esz : Nat) (rights : List Nat) :
    Acc (Option (Except LaneFault Place)) :=
  let lo := minI os
  let bad (c : Cause) (sub : Byte) : LaneFault := refFault c sub base.bits lo
  (checkRef s core t.realm t.party (objOf base.bits) base.tag lo ((maxI os + esz - lo).toNat) rights 0 7).bind fun s1 k =>
    .ok s1 (match k with
      | .ok p =>
        if os.any fun (o : Int) => ((p.poff : Int) - lo + o) % (esz : Int) != 0 then some (.error (bad .memory memALIGN)) else some (.ok p)
      | .fault c sub => some (.error (bad c sub))
      | .stall => none)

/-- Check 5 on an index-driven side: checks 1 to 6. -/
def idxSideCheck (s : State) (core : Nat) (t : Team) (base : Val) (rights : List Nat) :
    Acc (Option (Except LaneFault Place)) :=
  let off : Int := offOf base.bits
  (checkRef s core t.realm t.party (objOf base.bits) base.tag off 0 rights 0 6).bind fun s1 k =>
    .ok s1 (match k with
      | .ok p => some (.ok p)
      | .fault c sub => some (.error (refFault c sub base.bits off))
      | .stall => none)

/-- Whether a command works through an index list. -/
def ShCmd.indexed : ShCmd → Bool
  | .sgath | .sscat | .ssadd => true
  | _ => false

/-- Rights that the memory sides need (R262–R267): source, then destination; for an indexed command its one side. -/
def ShCmd.dstRights : ShCmd → List Nat
  | .sgath => [rR, rNC]
  | .ssadd => [rR, rW]
  | _ => [rW]

/-- The sides of a command. -/
def srcSide (f : ShF) : Nat := bits f.c 1 0
def dstSide (cmd : ShCmd) (f : ShF) : Nat :=
  match cmd with
  | .sfill => bits f.c 1 0
  | .sput => 0
  | _ => bits f.c 3 2

/-- Elements of a destination block grouped (R257, R267): for each 64-byte block its elements as (number, source offset,
destination offset), in order of first appearance. -/
def byBlock (sh : Int) : List (Nat × Int × Int) → List (Int × List (Nat × Int × Int))
  | [] => []
  | e :: r =>
    let t := byBlock sh r
    let b := (e.2.2 + sh) / 64
    match t.find? (·.1 == b) with
    | some x => (b, e :: x.2) :: t.filter (·.1 != b)
    | none => (b, [e]) :: t

/-- The elements of an element-wise command: number, source offset, destination offset. -/
def elemsOf (ss ds : Nat) (la lb : Layout) (fill : Bool) : List (Nat × Int × Int) :=
  if fill then (upto la.count).map fun k => (k, 0, la.elemAt ds k)
  else (upto la.count).map fun k => (k, la.elemAt ss k, lb.elemAt ds k)

/-- How far an object starts within the one that holds its memory (R24). -/
def OcEntry.shift (e : OcEntry) : Int := if e.view then e.voff else 0

/-- That shift for the destination of an SQCP, whose shape goes by the blocks of its memory (R267); a base that names no object has none. -/
def dstShift (cmd : ShCmd) (f : ShF) (s : State) (core : Nat) (t : Team) (lb : Layout) : Acc Int :=
  if cmd = .sqcp ∧ dstSide cmd f = 0 ∧ lb.base.tag ∧ objOf lb.base.bits ≠ 0 then
    (findPair s core t.realm (objOf lb.base.bits) false).bind fun s1 r =>
      .ok s1 (match r with | some (e, _) => e.shift | none => 0)
  else .ok s 0

/-- Check 3 (R246, R262–R267): false if the shape is refused. The blocks of the destination's memory lie `dsh` before the offsets; with none
they are not known. -/
def shapeOk (cmd : ShCmd) (f : ShF) (la lb : Layout) (n : Nat) (dsh : Option Int) : Bool :=
  if cmd.indexed then n ≤ 65536
  else
    let ss := srcSide f
    let ds := dstSide cmd f
    let same := (upto 4).all fun k => la.ext k == lb.ext k
    let big := 2 ^ 32 < la.count
    match cmd with
    | .sfill => !big && (ds != 2 || la.esz == 4)
    | .sqcp =>
      !big && same && la.esz == 4 && lb.qfmt != 0 && lb.esz == blkWidth lb.qfmt
        && (match dsh with
            | some d => (byBlock d (elemsOf ss ds la lb false)).all fun b =>
                b.2.length == 64 / lb.esz && ((b.2.map (·.2.2)).eraseDups).length == 64 / lb.esz
            | none => true)
    | _ => !big && same && la.esz == lb.esz && ((ss != 2 && ds != 2) || la.esz == 4)

/-- Check 1: the tile handles that a command reads from registers. -/
def tileHandles (cmd : ShCmd) (f : ShF) (x : Srcs) : List Word :=
  let lo (v : Val) : Word := (lo32 v.bits).zeroExtend 64
  match cmd with
  | .scpy => (if srcSide f = 2 then [lo x.av] else []) ++ (if dstSide cmd f = 2 then [lo x.bv] else [])
  | .sqcp => if srcSide f = 2 then [lo x.av] else []
  | .sfill => if srcSide f = 2 then [lo x.bv] else []
  | _ => []

/-- The scratchpad and tile sides of a command: limit, element size, offsets. -/
def spSides (cmd : ShCmd) (f : ShF) (t : Team) (la lb : Layout) (x : Srcs) : List (Nat × Nat × List Int) :=
  if cmd.indexed then
    let n := (lo32 x.bv.bits).toNat
    let list (v : Val) : List Int := (upto n).map fun k => ((lo32 v.bits).toNat + 8 * k : Nat)
    [(t.spSize, 8, list x.av), (t.spSize, 8, list x.cv)]
  else
    let lim (side : Nat) : Nat := if side = 1 then t.spSize else 4096
    let ss := srcSide f
    let ds := dstSide cmd f
    let dl := if cmd = .sfill then la else lb
    (if cmd = .sfill ∨ ss = 0 then [] else [(lim ss, la.esz, la.offs ss)])
      ++ (if ds = 0 then [] else [(lim ds, dl.esz, dl.offs ds)])

/-- One check of a reference: its base and offset, as a trap records them (R371), and whether it is written, so that a published one
is an escape (R251). -/
structure SideChk where
  ref : Val
  off : Int
  out : Bool
  run : State → Acc (Option (Except LaneFault Place))

/-- The checks of a command's references in order (checks 5 and 6): source, destination, counter word of SPUT. -/
def sideChecks (cmd : ShCmd) (f : ShF) (core : Nat) (t : Team) (la lb : Layout) (x : Srcs) : List SideChk :=
  let mem (l : Layout) (rights : List Nat) (out : Bool) : SideChk :=
    ⟨l.base, minI (l.offs 0), out, fun st => memSideCheck st core t l.base (l.offs 0) l.esz rights⟩
  if cmd.indexed then
    [⟨la.base, offOf la.base.bits, cmd != .sgath, fun st => idxSideCheck st core t la.base cmd.dstRights⟩]
  else
    let off : Int := offOf x.av.bits
    (if cmd = .sfill ∨ srcSide f ≠ 0 then [] else [mem la [rR] false])
      ++ (if dstSide cmd f = 0 then [mem (if cmd = .sfill then la else lb) cmd.dstRights true] else [])
      ++ (if cmd = .sput then
          [⟨x.av, off, true, fun st =>
            (checkRef st core t.realm t.party (objOf x.av.bits) x.av.tag off 8 [rR, rW] 8 7).bind fun s2 k =>
              .ok s2 (match k with
                | .ok q => some (.ok q)
                | .fault c sub => some (.error (refFault c sub x.av.bits off))
                | .stall => none)⟩]
        else [])

/-- Make checks in order: the places, or the first fault. -/
def runSides (s : State) : List SideChk → Acc (Option (Except LaneFault (List Place)))
  | [] => .ok s (some (.ok []))
  | k :: r =>
    (k.run s).bind fun s1 o =>
      match o with
      | none => .ok s1 none
      | some (.error e) => .ok s1 (some (.error e))
      | some (.ok p) => (runSides s1 r).bind fun s2 t => .ok s2 (t.map fun y => y.map (p :: ·))

/-- The REMOTE fault of a check whose walk has failed: that of the first check that cannot be made (R371). -/
def sideRemote (s : State) (why : RemoteFail) : List SideChk → LaneFault
  | [] => flt .remote why.sub
  | k :: r =>
    match k.run s with
    | .ok s1 (some (.ok _)) => sideRemote s1 why r
    | _ => refFault .remote why.sub k.ref.bits k.off

/-- Enter the shuttle queue (R251). -/
def State.shEnter (s : State) (core : Nat) (j : ShJob) : State :=
  ({ s with uid := s.uid + 1 }).modCore core fun c => { c with shq := c.shq ++ [j] }

/-- The command that an instruction issues. -/
def mkJob (cmd : ShCmd) (f : ShF) (s : State) (c : Ctx) (x : Srcs) (la lb : Layout) (slot : Nat × Bool) (sh : Int × Int) : ShJob :=
  { id := s.uid, core := wkCore c.wk, wk := c.wk, lane := c.lead, team := (s.warp c.wk).team, cmd := cmd
    src := BitVec.ofNat 2 (srcSide f), dst := BitVec.ofNat 2 (dstSide cmd f), la := la, lb := lb, a := x.av, b := x.bv
    c := x.cv, k := f.k, cv := f.cv, ci := f.ci.toNat, slot := slot.1, phase := slot.2, bank := wkPart c.wk, pos := 0
    flags := 0, amax := 0, exp := 0, scale := 0, stage := .moving, fault := none, left := 0
    tout := (s.warp c.wk).tout.toNat, lines := [], ssh := sh.1, dsh := sh.2 }

/-- The shifts of a command's source and destination, from the places of its references. -/
def jobShifts (cmd : ShCmd) (f : ShF) (ps : List Place) : Int × Int :=
  let at' (k : Nat) : Int := match ps[k]? with | some p => p.ent.shift | none => 0
  let src := cmd != .sfill && srcSide f == 0
  (if src then at' 0 else 0, if dstSide cmd f = 0 then at' (b2n src) else 0)

/-- Checks 5 and 6 of a command, then its entry in the queue (R250, R251): the bundle waits for a walk, for room in the queue and for
its counter. -/
def shCheck (cmd : ShCmd) (f : ShF) (s : State) (c : Ctx) (la lb : Layout) (x : Srcs) (slot : Nat × Bool)
    (sps : List (Nat × Nat × List Int)) : State × List (Nat × LaneOut) :=
  let h := whoLane s c.wk c.lead
  let ks := sideChecks cmd f h.core (s.teamOf c.wk) la lb x
  match runTry s h fun st => (runSides st ks).bind fun s1 o => .ok s1 (o.map fun r => Except.ok r) with
  | (s1, none) => (s1, [])
  | (s1, some (.error e)) => (s1, allFault c (sideRemote s1 e ks))
  | (s1, some (.ok (.error e))) => (s1, allFault c e)
  | (s1, some (.ok (.ok ps))) =>
    let count := f.cv && !f.k
    if 1024 ≤ (s1.core h.core).shq.length ∨ (count && !counterFree s1 c.wk f.ci.toNat) then (s1, [])
    else
      let esc := (ps.zip ks).any fun e => e.2.out && e.1.pub
      let s2 := if esc then s1.escape (s1.warp c.wk).team else s1
      let s3 := if count then counterIssue s2 c.wk f.ci.toNat s2.uid else s2
      let s4 := sps.foldl (fun st e => addConf st c.wk e.2.1 (e.2.2.map Int.toNat)) s3
      (s4.shEnter h.core (mkJob cmd f s4 c x la lb slot (jobShifts cmd f ps)), allOk c {})

/-- Checks 3 to 6 of a command once the shift of its destination is known, or cannot be known. -/
def shShape (cmd : ShCmd) (f : ShF) (s : State) (c : Ctx) (la lb : Layout) (x : Srcs) (slot : Nat × Bool) (dsh : Option Int) :
    State × List (Nat × LaneOut) :=
  if !shapeOk cmd f la lb (lo32 x.bv.bits).toNat dsh then
    (s, allFault c (operandFault opSHAPE (if cmd.indexed then (lo32 x.bv.bits).zeroExtend 64 else 0)))
  else
    let sps := spSides cmd f (s.teamOf c.wk) la lb x
    match sps.findSome? fun e => spSideFault e.1 e.2.1 e.2.2 with
    | some e => (s, allFault c e)
    | none => shCheck cmd f s c la lb x slot sps

/-- The body of a shuttle command but the register form of SGATH (R249–R251): operands in the command lane, checks 1 to 6 in
order, then one entry of the queue. The walk that finds the blocks of an SQCP's destination belongs to check 3; its failure is raised at
check 5. -/
def shBody (cmd : ShCmd) (f : ShF) : Body := fun s c =>
  let t := s.teamOf c.wk
  let la := t.layout f.la.toNat
  let lb := t.layout f.lb.toNat
  let wide := cmd == .sfill && la.esz == 8
  if wide && !isC64 f.a.toNat then (s, allFault c (flt .illegal 0x09))
  else
    match leadSrcs s c (if wide then .r64 else .r32) with
    | .block => (s, [])
    | .bad e => (s, allFault c e)
    | .ok x =>
      match (tileHandles cmd f x).find? fun h => t.ntiles ≤ h.toNat with
      | some h => (s, allFault c (operandFault opHANDLE h))
      | none =>
        match (if f.k then slotOf (t.ringOf f.ci.toNat) (lo32 x.dv.bits) else .ok (0, false)) with
        | .error e => (s, allFault c e)
        | .ok slot =>
          let h := whoLane s c.wk c.lead
          match dstShift cmd f s h.core t lb with
          | .ok s0 dsh => shShape cmd f s0 c la lb x slot (some dsh)
          | .need k line =>
            if shapeOk cmd f la lb (lo32 x.bv.bits).toNat none && !s.fails.any (·.who == h.who) then (s.ask h k line, [])
            else shShape cmd f s c la lb x slot none
          | _ => shShape cmd f s c la lb x slot none

/-- SCPY (R263). -/
def execScpy (f : ShF) (s : State) : Host.Outcome State Fault Refusal := issue s (.scpy f) (shBody .scpy f)

/-- SGATH, scratchpad form (R262). -/
def execSgathSp (f : ShF) (s : State) : Host.Outcome State Fault Refusal := issue s (.sgathSp f) (shBody .sgath f)

/-- SSCAT (R264). -/
def execSscat (f : ShF) (s : State) : Host.Outcome State Fault Refusal := issue s (.sscat f) (shBody .sscat f)

/-- SSADD (R264). -/
def execSsadd (f : ShF) (s : State) : Host.Outcome State Fault Refusal := issue s (.ssadd f) (shBody .ssadd f)

/-- SPUT (R265). -/
def execSput (f : ShF) (s : State) : Host.Outcome State Fault Refusal := issue s (.sput f) (shBody .sput f)

/-- SFILL (R266). -/
def execSfill (f : ShF) (s : State) : Host.Outcome State Fault Refusal := issue s (.sfill f) (shBody .sfill f)

/-- SQCP (R267). -/
def execSqcp (f : ShF) (s : State) : Host.Outcome State Fault Refusal := issue s (.sqcp f) (shBody .sqcp f)

/-! ### The register form of SGATH (R262) -/

/-- The checks of one lane of SGATH: checks 1 to 7 and alignment, precisely; an EXTENT is met later, as a fault note. -/
def sgathPlace (f : ShF) (s : State) (wk l : Nat) (a : Val) : LaneAcc (Option Place) :=
  let la := (s.teamOf wk).layout f.la.toNat
  let off : Int := (offOf la.base.bits : Int) + a.bits.toInt * la.stride 0
  match laneAccess s wk l la.base off 8 [rR, rNC] 8 9 (fun st _ p => .ok st p) with
  | (s1, none) => (s1, none)
  | (s1, some (.ok p)) => (s1, some (.ok (some p)))
  | (s1, some (.error e)) =>
    (s1, some (if e.cause = .memory ∧ e.sub = memEXTENT then .ok none else .error e))

/-- The places of every lane; false if a lane must wait. -/
def sgathPlaces (f : ShF) (s : State) (wk : Nat) :
    List (Nat × Except LaneFault Srcs) → State × List (Nat × Except LaneFault (Option Place)) × Bool
  | [] => (s, [], true)
  | e :: r =>
    match e.2 with
    | .error x => let t := sgathPlaces f s wk r; (t.1, (e.1, .error x) :: t.2.1, t.2.2)
    | .ok x =>
      match sgathPlace f s wk e.1 x.av with
      | (s1, none) => let t := sgathPlaces f s1 wk r; (t.1, t.2.1, false)
      | (s1, some p) => let t := sgathPlaces f s1 wk r; (t.1, (e.1, p) :: t.2.1, t.2.2)

/-- Start the word of one lane. -/
def sgathStart (f : ShF) (id wk path : Nat) (s : State) (l : Nat) (p : Option Place) : State :=
  let fk := (s.lane wk l).frame
  let n := f.d.toNat - 0x40
  match p with
  | none => noteRegs s fk l [n, n + 1] .memory memEXTENT
  | some q =>
    startDefer s path { id := s.uid, wk := wk, lane := l, frame := fk, reg := n, kind := .far, realm := q.key.realm,
                        obj := q.key.obj, pub := q.pub, addr := q.addr, base := q.key.base, cmd := some id, dead := false, undef := false }

/-- SGATH, register form (R262): one command for the bundle, whose counter is reported once every word has arrived. -/
def execSgath (f : ShF) (s : State) : Host.Outcome State Fault Refusal :=
  issue s (.sgath f) (fun s' c =>
    match readLanes s' c c.lanes with
    | .ok xs =>
      let r := sgathPlaces f s' c.wk xs
      if !r.2.2 then (r.1, [])
      else
        let good := r.2.1.filterMap fun e => match e.2 with | .ok p => some (e.1, p) | .error _ => none
        let bad := r.2.1.filterMap fun e => match e.2 with | .ok _ => none | .error x => some (e.1, LaneOut.fault x)
        let core := wkCore c.wk
        let n := f.d.toNat - 0x40
        if good.isEmpty then (r.1, bad)
        else if good.any fun e => anyEmpty r.1 c.wk e.1 [n, n + 1] then (r.1, [])
        else if 1024 ≤ (r.1.core core).shq.length ∨ (f.cv && !counterFree r.1 c.wk f.ci.toNat) then (r.1, [])
        else
          let id := r.1.uid
          let j := mkJob .sgathReg f r.1 c ⟨[], [], [], []⟩ ((r.1.teamOf c.wk).layout f.la.toNat) Layout.zero (0, false) (0, 0)
          let s1 := r.1.shEnter core { j with left := (good.filter (·.2.isSome)).length }
          let s2 := if f.cv then counterIssue s1 c.wk f.ci.toNat id else s1
          (good.foldl (fun st e => sgathStart f id c.wk c.path st e.1 e.2) s2, bad ++ good.map fun e => (e.1, done))
    | _ => (s', []))

end Sys2Proof.Machine
end

