-- ==== Sys2Proof/Machine/ShuttleRun.lean ====
section
/-! DEFINITION. How the shuttle performs its commands (R252–R259, R262–R267), and its events SHUTTLE_COMPLETE,
SHUTTLE_ASYNC_FAULT, SPUT_INCREMENT and HELD_ARRIVAL. A command is performed unit by unit: one element, one whole block where
R257 moves a block, one destination block of SQCP. -/

namespace Sys2Proof.Machine

/-! ### Engine accesses -/

/-- What one unit gives: nothing yet, a value, or an asynchronous fault (R258). -/
abbrev Unt (α : Type) := Acc (Option (Except (Cause × Byte) α))

def Unt.bind {α β : Type} (x : Unt α) (f : State → α → Unt β) : Unt β :=
  Acc.bind x fun s o =>
    match o with
    | none => .ok s none
    | some (.error e) => .ok s (some (.error e))
    | some (.ok a) => f s a

/-- A value of a unit. -/
def Unt.val {α : Type} (s : State) (a : α) : Unt α := .ok s (some (.ok a))

/-- A unit as `runTry` takes it: a fault of its own is a value. -/
def unTry {α : Type} (x : Unt α) : Acc (Option (Except RemoteFail (Except (Cause × Byte) α))) :=
  Acc.bind x fun s o => .ok s (o.map fun y => Except.ok y)

/-- Who a command is, as a party that waits. -/
def shWho (j : ShJob) : Who := ⟨j.core, .shuttle j.id, j.tout⟩

/-- The place of an element on a memory side: all checks of R25, and R222, when it is performed. -/
def unitPlace (s : State) (j : ShJob) (base : Val) (off : Int) (n align : Nat) (rights : List Nat) : Unt Place :=
  let t := s.team j.team
  (checkRef s j.core t.realm t.party (objOf base.bits) base.tag off n rights align 9).bind fun s1 k =>
    .ok s1 (match k with
      | .ok p => some (.ok p)
      | .fault c sub => some (.error (c, sub))
      | .stall => none)

/-- What a unit carries: bytes, the tag of each word it holds whole, and the FMT and SCALE of a block. -/
structure Chunk where
  bytes : List Byte
  tags  : List Bool
  blk   : Byte × Byte
  deriving DecidableEq, Repr

/-- Read a unit of n bytes (at most 64, within one block) from memory. -/
def readUnit (s : State) (h : Who) (p : Place) (n : Nat) : Acc Chunk :=
  if isHost (p.addr / 2 ^ 40) then
    (pocRead s p.addr n).bind fun s1 b => .ok s1 ⟨b, List.replicate (n / 8) false, (0x00, 0x7F)⟩
  else
    (peekLine s h p.key (p.addr / 128)).bind fun s1 d =>
      let o := p.addr % 128
      .ok s1 ⟨lineGet d o n, (upto (n / 8)).map fun w => d.tags.getLsbD (o / 8 + w), lineMeta d (o / 64)⟩

/-- A line with a unit written into it. -/
def chunkLine (o : Nat) (c : Chunk) (blk : Bool) : LineData :=
  let d0 := linePut lineCleared o c.bytes false
  let d1 := { d0 with tags := (upto c.tags.length).foldl (fun t w => setBits t (o / 8 + w) 1 (b2n (c.tags.getD w false))) d0.tags }
  if blk then lineSetMeta d1 (o / 64) c.blk else d1

/-- Write a unit into an L1 line. -/
def storeL1 (s : State) (core : Nat) (e : L1Line) (o : Nat) (c : Chunk) (blk : Bool) : State :=
  let n := c.bytes.length
  let mk := if blk then maskAt 2 (o / 64) 1 else 0
  (s.l1Set core
    { e with data := lineMerge e.data (chunkLine o c blk) (maskAt 128 o n) (wordMask o n) mk
             dirty := e.dirty ||| maskAt 128 o n
             tdirty := e.tdirty ||| wordMask o n
             mdirty := e.mdirty ||| mk }).markTag e.line (c.tags.any id)

/-- Permission for a unit's line (R217, R225, R254): for a private line homed elsewhere the untracked read with write intent, unless the L1
holds bytes of it that have been granted. `full` says that the command covers the whole line, which clears P (R258): of a private line whose
home has said that it is P (`psn`), with the WrFull that alone does so (R351, log 83). -/
def ownUnit (s : State) (h : Who) (k : Key) (line : Nat) (full psn : Bool) : Acc Unit :=
  if k.pub then takeLine s h line full
  else if agentOf line = s.pkg.agent then
    if s.dir (localOf line) ≠ 3 then .ok s ()
    else if full then .ok (s.setDir (localOf line) 0) ()
    else .bad .poison
  else if ((tfind s.copies line).filter Copy.writable).isSome then .ok s ()
  else if psn then (if full then takeLine s h line true else .bad .poison)
  else if ((s.l1Find h.core k line).filter fun e => e.dirty != 0).isSome then .ok s ()
  else (privLine s h line true).bind fun s1 _ => .ok s1 ()

/-- Write parts of a line at the L2, or a private line homed elsewhere to its home, for which permission has been given. -/
def pocParts (s : State) (k : Key) (line : Nat) (d : LineData) (m : BitVec 128) (t : BitVec 16) (mk : BitVec 2) : Acc Unit :=
  if k.pub || agentOf line = s.pkg.agent then .ok (mergeAt s line d m t mk) () else backPriv s line d m t mk

/-- Write a unit to memory (R254): into L1 where the line is held, else at the L2 with write permission; SPUT writes at the L2
after the L1 copy has been merged and dropped. `blk` writes FMT and SCALE too. -/
def storeUnit (s : State) (h : Who) (p : Place) (c : Chunk) (blk sput full psn : Bool) : Acc Unit :=
  let line := p.addr / 128
  let o := p.addr % 128
  let k := p.key
  let n := c.bytes.length
  if isHost (p.addr / 2 ^ 40) then pocWrite s h p.addr c.bytes
  else
    (if sput then mergeDrop s h k line else .ok s ()).bind fun s1 _ =>
      (ownUnit s1 h k line full psn).bind fun s2 _ =>
        match s2.l1Find h.core k line with
        | some e => .ok (storeL1 s2 h.core e o c blk) ()
        | none =>
          pocParts s2 k line (chunkLine o c blk) (maskAt 128 o n) (wordMask o n) (if blk then maskAt 2 (o / 64) 1 else 0)

/-- An element of SSADD (R254, R264): bytes that the L1 holds are used and take the sum. A published word is added to at the point of
coherence, with which the L1 copy is kept in step, so that the addition is atomic against every other (log 84). -/
def addUnit {α : Type} (s : State) (h : Who) (k : Key) (a : Nat) (upd : List Byte → α × List Byte) : Acc α :=
  let line := a / 128
  let o := a % 128
  let word (w : List Byte) : LineData := linePut lineCleared o w false
  if isHost (a / 2 ^ 40) then rmw s h k a 8 fun b => ((upd b).1, some (upd b).2)
  else if k.pub then
    (lineBack s h k line).bind fun s1 _ =>
      (takeLine s1 h line false).bind fun s2 _ =>
        (pocLine s2 line).bind fun s3 d =>
          let r := upd (lineGet d o 8)
          let s4 := mergeAt s3 line (word r.2) (maskAt 128 o 8) (wordMask o 8) 0
          .ok (match s4.l1Find h.core k line with
            | some e => s4.l1Set h.core { e with data := linePut e.data o r.2 false }
            | none => s4) r.1
  else if (s.l1Find h.core k line).isSome then rmw s h k a 8 fun b => ((upd b).1, some (upd b).2)
  else
    (privLine s h line true).bind fun s1 d =>
      let r := upd (lineGet d o 8)
      (pocParts s1 k line (word r.2) (maskAt 128 o 8) (wordMask o 8) 0).bind fun s2 _ => .ok s2 r.1

/-! ### Escapes (R258) -/

/-- The walk that a command has handed to the walker. -/
def shWalk (s : State) (j : ShJob) : Option Walk := (s.core j.core).walks.find? fun w => w.why == .shuttle j.id

/-- A kept tag written into a published object: the rule of STREF for each word. -/
def escapeWords (s : State) (j : ShJob) (p : Place) : List Val → Unt Unit
  | [] => Unt.val s ()
  | v :: r =>
    if !isRef v then escapeWords s j p r
    else
      (targetFor s j.core (s.team j.team) p (objOf v.bits)).bind fun s1 k =>
        match k with
        | none => escapeWords s1 j p r
        | some (some sub, _) => .ok s1 (some (.error (.escape, sub)))
        | some (none, e) =>
          if !narrower p e then escapeWords s1 j p r
          else if !(s1.team j.team).imp then .ok s1 (some (.error (.escape, escSTORE)))
          else
            .ok ((s1.addWalk j.core { mkWalk s1 j.wk j.lane p.top.vis (.shuttle j.id) [(objOf v.bits, j.lane)] with
              team := j.team, tout := j.tout }).escape j.team) none

/-- Wait for the command's walk, if there is one; a fault that it met stops the command. -/
def afterWalk (s : State) (j : ShJob) (k : State → Unt Unit) : Unt Unit :=
  match shWalk s j with
  | none => k s
  | some w =>
    if !w.ended then .ok s none
    else
      let s1 := s.dropWalk j.core w.id
      match w.fault with
      | some (_, c, sub) => .ok s1 (some (.error (c, sub)))
      | none => k s1

/-- The words of a chunk. -/
def Chunk.words (c : Chunk) : List Val :=
  (upto c.tags.length).map fun w => ⟨BitVec.ofNat 64 (ofBytes ((c.bytes.drop (8 * w)).take 8)), c.tags.getD w false⟩

/-! ### Units of SCPY, SPUT and SFILL -/

/-- One unit: element number, source and destination offset, bytes, and whether it is a whole block (R257). -/
structure ShUnit where
  elem : Nat
  so   : Int
  dst  : Int
  n    : Nat
  blk  : Bool
  deriving DecidableEq, Repr

/-- The units of one destination block (R257): one unit where the whole block comes, byte for byte, from one block of
scratchpad or memory; else element by element. `ssh` and `dsh` shift offsets to those of the objects that hold the memory. -/
def unitsOf (esz : Nat) (ssh dsh : Int) (blocks : Bool) (b : Int) (es : List (Nat × Int × Int)) : List ShUnit :=
  let single := es.map fun e => (⟨e.1, e.2.1, e.2.2, esz, false⟩ : ShUnit)
  let slots := (upto (64 / esz)).map fun (i : Nat) => (es.reverse.find? fun e => e.2.2 + dsh == 64 * b + esz * i).map fun e => e.2.1 + ssh
  match slots with
  | some o :: _ =>
    if blocks && o % 64 == 0 && ((upto (64 / esz)).all fun i => slots.getD i none == some (o + esz * i)) then
      [⟨(es.headD (0, 0, 0)).1, o - ssh, 64 * b - dsh, 64, true⟩]
    else single
  | _ => single

/-- The units of an element-wise command, in order. -/
def cmdUnits (j : ShJob) : List ShUnit :=
  let fill := j.cmd == .sfill
  let dl := if fill then j.la else j.lb
  let es := elemsOf j.src.toNat j.dst.toNat j.la j.lb fill
  let blocks := !fill && j.src != 2 && j.dst != 2
  (byBlock j.dsh es).flatMap fun b => unitsOf dl.esz j.ssh j.dsh blocks b.1 b.2

/-- An element of a tile side: row and column of a byte offset. -/
def tileRC (o : Nat) : Nat × Nat := (o / 128, o % 128 / 4)

/-- The bank and the tile that a .acc side names. -/
def jobTile (v : Val) : Nat := (lo32 v.bits).toNat

/-- Whether the source side, and the destination side, keep tags (R13, R256). -/
def keepsTags (j : ShJob) : Bool := (j.cmd == .scpy || j.cmd == .sput) && j.la.esz == 8

/-- Read the source of a unit: its chunk, tags kept only with the right RL. -/
def readSide (s : State) (j : ShJob) (u : ShUnit) : Unt Chunk :=
  let t := s.team j.team
  let o := u.so.toNat
  let drop (c : Chunk) (ok : Bool) : Chunk := if ok then c else { c with tags := c.tags.map fun _ => false }
  if j.cmd = .sfill then
    Unt.val s ⟨bytesLE u.n j.a.bits.toNat, List.replicate (u.n / 8) false, (0x00, 0x7F)⟩
  else if j.src = 1 then
    Unt.val s (drop ⟨t.spRead o u.n, (upto (u.n / 8)).map fun w => t.spTag (o / 8 + w), t.spMeta (o / 64)⟩ (keepsTags j))
  else if j.src = 2 then
    let rc := tileRC o
    Unt.val s ⟨bytesLE 4 (t.tileEl j.bank (jobTile j.a) rc.1 rc.2).toNat, [], (0x00, 0x7F)⟩
  else
    Unt.bind (unitPlace s j j.la.base u.so u.n (min u.n 8) [rR]) fun s1 p =>
      (readUnit s1 (shWho j) p u.n).bind fun s2 c => Unt.val s2 (drop c (keepsTags j && p.ent.has rRL))

/-- Store a chunk in the scratchpad of a team: tags as they stand in the chunk, FMT and SCALE with a whole block. -/
def Team.spChunk (t : Team) (o : Nat) (c : Chunk) (blk : Bool) : Team :=
  let t1 := t.spWrite o c.bytes
  let t2 := { t1 with stags := spPutTags t1.stags (o / 8) c.tags }
  if blk then t2.spSetMeta (o / 64) c.blk else t2

/-- Whether the command writes every byte of the line of an address (R258): the element there lies at offset `o` of a reference, and `ds`
are the offsets of its elements. -/
def coversLine (esz : Nat) (ds : List Int) (o : Int) (addr : Nat) : Bool :=
  ((ds.filter fun d => (d - o + addr) / 128 == ((addr / 128 : Nat) : Int)).eraseDups).length * esz == 128

/-- Whether a line needs the question: it is P, or homed elsewhere and not held. -/
def asksFull (s : State) (line : Nat) : Bool :=
  if agentOf line = s.pkg.agent then s.dir (localOf line) == 3
  else match tfind s.copies line with | some c => c.st == .inv | none => true

/-- The layout of the destination side. -/
def ShJob.dl (j : ShJob) : Layout := if j.cmd = .sfill then j.la else j.lb

/-- Write a unit to the destination side; the answer is the place written, if it is memory. -/
def writeSide (s : State) (j : ShJob) (u : ShUnit) (c : Chunk) : Unt (Option Place) :=
  let o := u.dst.toNat
  if j.dst = 1 then Unt.val (s.modTeam j.team fun t => t.spChunk o c u.blk) none
  else if j.dst = 2 then
    let rc := tileRC o
    let tile := jobTile j.b
    Unt.val (s.modTeam j.team fun t => t.setTileEl j.bank tile rc.1 rc.2 (BitVec.ofNat 32 (ofBytes c.bytes))) none
  else
    Unt.bind (unitPlace s j j.dl.base u.dst u.n (min u.n 8) [rW]) fun s1 p =>
      let c1 := if p.ent.has rRS then c else { c with tags := c.tags.map fun _ => false }
      Unt.bind (if p.pub then escapeWords s1 j p c1.words else Unt.val s1 ()) fun s2 _ =>
        let line := p.addr / 128
        let full := asksFull s2 line && coversLine j.dl.esz (j.dl.offs 0) u.dst p.addr
        (storeUnit s2 (shWho j) p c1 u.blk (j.cmd == .sput) full (j.psn.contains line)).bind fun s3 _ => Unt.val s3 (some p)

/-- Change the entry of a command in its queue. -/
def State.modJob (s : State) (j : ShJob) (f : ShJob → ShJob) : State :=
  s.modCore j.core fun c => { c with shq := c.shq.map fun (x : ShJob) => if x.id = j.id then f x else x }

/-- A command of the package. -/
def State.job (s : State) (id : Nat) : Option ShJob :=
  (s.cores.map fun e => e.2.shq.find? fun (j : ShJob) => j.id == id).findSome? fun x => x

/-- What a command notes of a place that it has written: the line, if it is published, and what an SFILL has filled. -/
def ShJob.wrote (j : ShJob) (s : State) (p : Place) : ShJob :=
  let line := p.addr / 128
  { j with
    lines := if p.pub && !j.lines.contains line then j.lines ++ [line] else j.lines
    filled := if j.cmd == .sfill && p.addr / 2 ^ 40 == s.pkg.agent then (p.addr % 2 ^ 40) :: j.filled else j.filled }

/-- One unit of SCPY, SPUT or SFILL. -/
def cpyUnit (j : ShJob) (u : ShUnit) (s : State) : Unt ShJob :=
  Acc.bind (afterWalk s j fun st => Unt.val st ()) fun s0 o =>
    match o with
    | none => .ok s0 none
    | some (.error e) => .ok s0 (some (.error e))
    | some (.ok _) =>
      Unt.bind (readSide s0 j u) fun s1 c =>
        Unt.bind (writeSide s1 j u c) fun s2 w =>
          Unt.val s2 (match w with | some p => j.wrote s2 p | none => j)

/-! ### Units of the indexed commands -/

/-- A word of the scratchpad. -/
def Team.spWord (t : Team) (o : Nat) : Word := BitVec.ofNat 64 (ofBytes (t.spRead o 8))

/-- FP32 additions of both halves, or the other additions of SSADD (R264): the sum and its flags. -/
def ssaddVal (aty : Nat) (a b : Word) : Word × BitVec 7 :=
  let half (x : Word) (k : Nat) : Nat := bits x (32 * k + 31) (32 * k)
  let f (k : Nat) : Nat × BitVec 7 :=
    addF fFP32 0 false (decodeF fFP32 (half a k)) (decodeF fFP32 (half b k))
  match aty with
  | 0 => (a + b, 0)
  | 1 => let r := addF fFP64 0 false (decodeF fFP64 a.toNat) (decodeF fFP64 b.toNat); (BitVec.ofNat 64 r.1, r.2)
  | 2 => let lo := f 0; let hi := f 1; (BitVec.ofNat 64 (lo.1 + hi.1 * 2 ^ 32), lo.2 ||| hi.2)
  | _ => (BitVec.ofNat 64 ((half a 0 + half b 0) % 2 ^ 32 + (half a 1 + half b 1) % 2 ^ 32 * 2 ^ 32), 0)

/-- The offset that position k of an indexed command names. -/
def idxOff (j : ShJob) (k : Nat) (s : State) : Int :=
  (offOf j.la.base.bits : Int) + ((s.team j.team).spWord ((lo32 j.a.bits).toNat + 8 * k)).toInt * j.la.stride 0

/-- Position k of an indexed command. -/
def idxUnit (j : ShJob) (k : Nat) (s : State) : Unt ShJob :=
  let t := s.team j.team
  let co := (lo32 j.c.bits).toNat + 8 * k
  let off := idxOff j k s
  let h := shWho j
  Unt.bind (unitPlace s j j.la.base off 8 8 j.cmd.dstRights) fun s1 p =>
    match j.cmd with
    | .sgath => (farWord s1 h p.addr).bind fun s2 v =>
        Unt.val (s2.modTeam j.team fun u => u.spWrite co (bytesLE 8 v.bits.toNat)) j
    | .sscat =>
      (storeUnit s1 h p ⟨t.spRead co 8, [false], (0x00, 0x7F)⟩ false false false false).bind fun s2 _ => Unt.val s2 j
    | _ =>
      (addUnit s1 h p.key p.addr fun b =>
        let r := ssaddVal j.la.aty (BitVec.ofNat 64 (ofBytes b)) (t.spWord co)
        (r.2, bytesLE 8 r.1.toNat)).bind fun s2 fl => Unt.val s2 { j with flags := j.flags ||| fl }

/-! ### Units of SQCP (R267) -/

/-- Read the FP32 elements of one block. -/
def sqcpReads (j : ShJob) : State → List (Nat × Int × Int) → Unt (List Nat)
  | s, [] => Unt.val s []
  | s, e :: r =>
    Unt.bind (readSide s j ⟨e.1, e.2.1, e.2.2, 4, false⟩) fun s1 c =>
      Unt.bind (sqcpReads j s1 r) fun s2 t => Unt.val s2 (ofBytes c.bytes :: t)

/-- Destination blocks of an SQCP in order, each with its elements in byte order. -/
def sqcpBlocks (j : ShJob) : List (Int × List (Nat × Int × Int)) :=
  (byBlock j.dsh (elemsOf j.src.toNat j.dst.toNat j.la j.lb false)).map fun b =>
    (64 * b.1 - j.dsh, (upto (64 / j.lb.esz)).filterMap fun i =>
      b.2.find? fun e => e.2.2 + j.dsh == 64 * b.1 + j.lb.esz * i)

/-- What a fault of a unit names: its element (R260), and the reference and the offset of the access (R371). -/
abbrev UnitAt := Nat × Word × Int

/-- Whether the read of a unit's source cannot be done. -/
def readStuck (s : State) (j : ShJob) (u : ShUnit) : Bool :=
  match readSide s j u with
  | .ok _ (some (.ok _)) => false
  | _ => true

/-- What a fault of a unit names: the source, if its read cannot be done, else the destination. -/
def cpyAt (j : ShJob) (u : ShUnit) (s : State) : UnitAt :=
  if j.cmd != .sfill && j.src == 0 && readStuck s j u then (u.elem, j.la.base.bits, u.so) else (u.elem, j.dl.base.bits, u.dst)

/-- What a fault of a block of an SQCP names: the first element whose read cannot be done, else the block's lowest, and where. -/
def sqcpAt (j : ShJob) (b : Int × List (Nat × Int × Int)) (s : State) : UnitAt :=
  match b.2.find? fun e => readStuck s j ⟨e.1, e.2.1, e.2.2, 4, false⟩ with
  | some e => (e.1, j.la.base.bits, e.2.1)
  | none => ((b.2.map (·.1)).foldl min (b.2.headD (0, 0, 0)).1, j.lb.base.bits, b.1)

/-- One destination block of an SQCP. -/
def sqcpUnit (j : ShJob) (b : Int × List (Nat × Int × Int)) (s : State) : Unt ShJob :=
  Unt.bind (sqcpReads j s b.2) fun s1 xs =>
    let code := j.lb.qfmt
    let q := quantBlock code j.lb.qrm j.lb.qsat j.scale.toNat (xs.map some)
    let c : Chunk := ⟨q.1, List.replicate 8 false, (BitVec.ofNat 8 code, BitVec.ofNat 8 q.2.1)⟩
    Unt.bind (writeSide s1 j ⟨0, 0, b.1, 64, true⟩ c) fun s2 _ =>
      Unt.val s2 { j with flags := q.2.2.foldl (fun m f => m ||| f) j.flags
                          amax := BitVec.ofNat 32 (max j.amax.toNat (absMax xs).toNat) }

/-! ### Performing a command -/

/-- The units of a command: what each does, and what a fault of it names. -/
def jobSteps (j : ShJob) : List ((ShJob → State → Unt ShJob) × (State → UnitAt)) :=
  match j.cmd with
  | .sgathReg => []
  | .sgath | .sscat | .ssadd => (upto (lo32 j.b.bits).toNat).map fun k => (fun x => idxUnit x k, fun s => (k, j.la.base.bits, idxOff j k s))
  | .sqcp => (sqcpBlocks j).map fun b => (fun x => sqcpUnit x b, sqcpAt j b)
  | _ => (cmdUnits j).map fun u => (fun x => cpyUnit x u, cpyAt j u)

/-- A fault stops a command (R259). -/
def ShJob.failed (j : ShJob) (c : Cause) (sub : Byte) (u : UnitAt) : ShJob :=
  { j with fault := some (c, sub, u.1), faultAt := (u.2.1, BitVec.ofInt 40 u.2.2) }

/-- A line that its home has said to be P is noted, once, and the unit that has asked for it is tried again: it may cover the line, which
clears P (R258, R351). -/
def notePoison (s : State) (j : ShJob) : Option (State × ShJob) :=
  match s.fails.find? fun x => x.who == (shWho j).who with
  | some x =>
    if x.why = .poison && j.dst == 0 && !j.psn.contains x.line then
      let j1 := { j with psn := j.psn ++ [x.line] }
      some (({ s with fails := s.fails.filter fun y => y.who != (shWho j).who }).modJob j fun _ => j1, j1)
    else none
  | none => none

/-- Perform units until one waits, one faults, none is left, or `fuel` have been performed: the state with the command's
entry as it then stands. -/
def runSteps : Nat → State → ShJob → List ((ShJob → State → Unt ShJob) × (State → UnitAt)) → State
  | 0, s, _, _ => s
  | _, s, j, [] => s.modJob j fun _ => { j with stage := if j.cmd = .sput then .counting else .finished }
  | n + 1, s, j, u :: r =>
    match runTry s (shWho j) fun st => unTry (u.1 j st) with
    | (s1, none) => s1
    | (s1, some (.error e)) => s1.modJob j fun _ => j.failed .remote e.sub (u.2 s)
    | (s1, some (.ok (.error e))) => s1.modJob j fun _ => j.failed e.1 e.2 (u.2 s)
    | (s1, some (.ok (.ok j1))) =>
      let j2 := { j1 with pos := j.pos + 1 }
      runSteps n (s1.modJob j fun _ => j2) j2 r

/-- Whether an SQCP that the core has accepted earlier on the same ring has still to end (R60, log 93). -/
def ringAhead (s : State) (j : ShJob) : Bool :=
  (s.core j.core).shq.any fun x => x.cmd == .sqcp && x.lb.qring == j.lb.qring && x.stage != .held && x.id < j.id

/-- An SQCP takes its ring and its scale before its first unit (R58, R267); it waits while another holds the ring, and for earlier ones
(R60). -/
def takeRing (s : State) (j : ShJob) : Option (State × ShJob) :=
  if j.cmd ≠ .sqcp then some (s, j)
  else
    let rn := j.lb.qring
    match tfind (s.core j.core).amaxBy rn with
    | some id => if id = j.id then some (s, j) else none
    | none =>
      if ringAhead s j then none else
      let j1 := { j with scale := BitVec.ofNat 8 (chooseScale j.lb.qfmt (s.ring j.core rn).ringmax) }
      some ((s.modJob j fun _ => j1).modCore j.core fun c => { c with amaxBy := tset c.amaxBy rn j.id }, j1)

/-- Perform at most `fuel` units of a command that is moving. -/
def runJob (fuel : Nat) (s : State) (j : ShJob) : State :=
  if j.stage ≠ .moving ∨ j.fault.isSome then s
  else if j.cmd = .sgathReg then (if j.left = 0 then s.modJob j fun x => { x with stage := .finished } else s)
  else
    let p := (notePoison s j).getD (s, j)
    match takeRing p.1 p.2 with
    | none => p.1
    | some (s1, j1) => let us := (jobSteps j1).drop j1.pos; runSteps (min fuel (us.length + 1)) s1 j1 us

/-- Release the ring of an SQCP and record what its blocks hold (R267); with no block written it is unchanged. -/
def freeRing (s : State) (j : ShJob) : State :=
  if j.cmd ≠ .sqcp then s
  else
    let rn := j.lb.qring
    let s1 := s.modCore j.core fun c => { c with amaxBy := if tfind c.amaxBy rn = some j.id then tdel c.amaxBy rn else c.amaxBy }
    if j.pos = 0 then s1 else s1.modRing j.core rn fun a => a.record j.amax

/-- A core writes back what its L1 holds of a local line, where it can. -/
def settleLine (h : Who) (s : State) (l : Nat) : State :=
  ((s.core h.core).l1.filter fun e => e.line == s.lineOf l).foldl (fun (st : State) e =>
    match l1Back st h e with
    | .ok s1 _ => s1
    | _ => st) s

/-- A page that an SFILL has filled (R32, R256): what the core's L1 still holds of it is written back, and PTP is cleared unless a tag
has been set there since, or a line has another owner, who may set one. -/
def clearPage (h : Who) (s : State) (p : Nat) : State :=
  let ls := regRange (32 * p) 32
  let s1 := ls.foldl (settleLine h) s
  if ls.all fun l => (s1.hbm.line l).tags == 0 && !s1.l1Tagged (s1.lineOf l) && s1.dir l != 2 then
    { s1 with hbm := { s1.hbm with ptp := tput s1.hbm.ptp p false false } }
  else s1

/-- The local pages that an SFILL has filled wholly, also when it has faulted later (R256, R32). -/
def fillPages (s : State) (j : ShJob) : State :=
  let addrs := j.filled.eraseDups
  ((addrs.map (· / 4096)).eraseDups.filter fun p =>
    (addrs.filter fun a => a / 4096 == p).length * j.la.esz == 4096).foldl (clearPage (shWho j)) s

/-- A command leaves its queue. -/
def dropJob (s : State) (j : ShJob) : State :=
  (s.modCore j.core fun c => { c with shq := c.shq.filter fun (x : ShJob) => x.id != j.id }).unwait (.shuttle j.id)

/-- An arrival on a slot of a team's ring. -/
def State.arrive (s : State) (tk ring slot n : Nat) : State :=
  s.modTeam tk fun t => t.setRing ring ((t.ringOf ring).arrive slot n)

/-- A command completes (R252): its flags, its ring, then its arrival or its counter. -/
def finishJob (s : State) (j : ShJob) : State :=
  let s1 := if (s.lane j.wk j.lane).st = .exited then s else raise s j.wk j.lane j.flags
  let s2 := fillPages (freeRing s1 j) j
  if j.k then
    let r := (s2.team j.team).ringOf j.ci
    if r.depth ≤ j.slot then dropJob s2 j
    else if r.phase j.slot = j.phase then dropJob (s2.arrive j.team j.ci j.slot 1) j
    else
      (s2.modJob j fun x => { x with stage := .held }).modTeam j.team fun t =>
        { t with held := t.held ++ [⟨j.ci, j.slot, j.phase, (s.warp j.wk).wix, some j.id⟩] }
  else if j.cv then counterDone (dropJob s2 j) j.wk j.ci j.id
  else dropJob s2 j

/-- SHUTTLE_COMPLETE (R252): the command performs what is left, and completes if nothing stops it. -/
def execShuttleComplete (id : Nat) (s : State) : Host.Outcome State Fault Refusal :=
  match s.job id with
  | none => .next s
  | some j =>
    let s1 := runJob (2 ^ 33) s j
    match s1.job id with
    | none => .next s1
    | some j1 => .next (if j1.stage = .finished ∧ j1.fault.isNone then (finishJob s1 j1).wake else s1)

/-- One unit of a command, as the environment may let it happen (Action.shuttleUnit). -/
def shuttleUnit (s : State) (id : Nat) : State :=
  match s.job id with
  | none => s
  | some j => runJob 1 s j

/-- Minor opcode of a command (R269). -/
def ShCmd.minor : ShCmd → Nat
  | .scpy => 0 | .sgath | .sgathReg => 1 | .sscat => 2 | .ssadd => 3 | .sput => 4 | .sfill => 5 | .sqcp => 6

/-- SHUTTLE_ASYNC_FAULT (R258, R259): the fault stops the command and is recorded in SHERR; the command completes. A fault that
only sets OVF has lost its details and is taken as no trap: retirement counts it (R260, R405, log 17). -/
def execShuttleAsyncFault (id : Nat) (s : State) : Host.Outcome State Fault Refusal :=
  match s.job id with
  | none => .next s
  | some j0 =>
    let s1 := runJob (2 ^ 33) s j0
    match s1.job id with
    | none => .next s1
    | some j =>
      match j.fault with
      | none => .next s1
      | some (c, sub, elem) =>
        let s2 := recordSherr s1 j.wk j.cmd.minor c sub elem j.k j.cv j.ci
        let s3 := if (s1.warp j.wk).sherr.v then s2 else asyncFault s2 j.wk
            { lane := j.lane, cause := c, sub := sub, sherr := true, opv := j.faultAt.1, eoff := j.faultAt.2 }
        .next (finishJob s3 j).wake

/-- SPUT_INCREMENT (R265): once the acknowledgements of the writes are in, the counter word is incremented. -/
def execSputIncrement (id : Nat) (s : State) : Host.Outcome State Fault Refusal :=
  match s.job id with
  | none => .next s
  | some j =>
    if j.stage ≠ .counting ∨ j.fault.isSome then .next s
    else if !j.lines.all s.noAcks then
      .next { s with acks := s.acks.map fun (a : Acks) =>
        if j.lines.contains a.line && !a.waiters.contains (.shuttle id) then { a with waiters := a.waiters ++ [.shuttle id] } else a }
    else
      let n := j.la.count
      match runTry s (shWho j) fun st =>
          unTry (Unt.bind (unitPlace st j j.a (offOf j.a.bits) 8 8 [rR, rW]) fun s1 p =>
            (rmw s1 (shWho j) p.key p.addr 8 fun b =>
              ((), some (bytesLE 8 (BitVec.ofNat 64 (ofBytes b) + j.b.bits).toNat))).bind fun s2 _ =>
              Unt.val s2 ()) with
      | (s1, none) => .next s1
      | (s1, some (.error e)) => .next (s1.modJob j fun x => x.failed .remote e.sub (n, j.a.bits, offOf j.a.bits)).wake
      | (s1, some (.ok (.error e))) => .next (s1.modJob j fun x => x.failed e.1 e.2 (n, j.a.bits, offOf j.a.bits)).wake
      | (s1, some (.ok (.ok ()))) => .next (s1.modJob j fun x => { x with stage := .finished }).wake

/-- HELD_ARRIVAL (R302): a held arrival whose slot's phase has come is made; one whose slot is gone is discarded. -/
def execHeldArrival (tk idx : Nat) (s : State) : Host.Outcome State Fault Refusal :=
  match (s.team tk).held[idx]? with
  | none => .next s
  | some h =>
    let r := (s.team tk).ringOf h.ring
    let gone := r.depth ≤ h.slot
    if !gone && r.phase h.slot != h.phase then .next s
    else
      let s1 := s.modTeam tk fun t => { t with held := t.held.eraseIdx idx }
      let s2 := if gone then s1 else s1.arrive tk h.ring h.slot 1
      match h.cmd.bind s2.job with
      | some j => .next (dropJob s2 j).wake
      | none => .next s2.wake

end Sys2Proof.Machine
end

