-- ==== Sys2Proof/Machine/Publish.lean ====
section
/-! DEFINITION. Publication (R303–R308): PUB, PUBW, and the walker's events WALK_VISIT and WALK_COMPLETE. -/

namespace Sys2Proof.Machine

/-! ### PUB and PUBW (R303) -/

/-- The check of one root: its tag, then checks 1 to 5 of R25 with no right needed. -/
def rootLane (s : State) (wk l : Nat) (x : Srcs) : LaneAcc Unit :=
  if !x.av.tag then (s, some (.error (operandFault opUNTAGGED x.av.bits)))
  else laneAccess s wk l x.av (offOf x.av.bits) 0 [] 0 5 (fun st _ _ => .ok st ())

/-- The roots of some lanes: those that pass with their object, the faults of others, and whether any must wait. -/
def rootLanes (s : State) (wk : Nat) : List (Nat × Except LaneFault Srcs) →
    State × List (Nat × Word) × List (Nat × LaneOut) × Bool
  | [] => (s, [], [], false)
  | (l, .error e) :: r => let t := rootLanes s wk r; (t.1, t.2.1, (l, .fault e) :: t.2.2.1, t.2.2.2)
  | (l, .ok x) :: r =>
    match rootLane s wk l x with
    | (s1, none) => let t := rootLanes s1 wk r; (t.1, t.2.1, t.2.2.1, true)
    | (s1, some (.error e)) => let t := rootLanes s1 wk r; (t.1, t.2.1, (l, .fault e) :: t.2.2.1, t.2.2.2)
    | (s1, some (.ok ())) => let t := rootLanes s1 wk r; (t.1, (l, x.av.bits) :: t.2.1, t.2.2.1, t.2.2.2)

/-- The work list of a walk (R304): each object once, with the lowest lane that names it. -/
def rootList : List (Nat × Word) → List (Nat × Nat)
  | [] => []
  | (l, w) :: r => (objOf w, l) :: (rootList r).filter fun e => e.1 != objOf w

/-- PUB (R303): the roots that pass go to the walker as one walk; a full counter holds the bundle. -/
def execPub (f : SyF) (s : State) : Host.Outcome State Fault Refusal :=
  issue s (.pub f) (fun s' c =>
    match readLanes s' c c.lanes with
    | .ok xs =>
      let r := rootLanes s' c.wk xs
      if r.2.2.2 then (r.1, r.2.2.1)
      else if r.2.1.isEmpty then (r.1, r.2.2.1)
      else if f.cv && !counterFree r.1 c.wk f.ci.toNat then (r.1, r.2.2.1)
      else
        let id := r.1.uid
        let named := xs.filterMap fun e => match e.2 with | .ok x => some (e.1, x.av.bits) | .error _ => none
        let w := { mkWalk r.1 c.wk c.lead f.scope.toNat (.pub f.cv f.ci.toNat) (rootList r.2.1) with refs := named }
        let s1 := (r.1.addWalk (wkCore c.wk) w).escape (r.1.warp c.wk).team
        let s2 := if f.cv then counterIssue s1 c.wk f.ci.toNat id else s1
        (s2, r.2.2.1 ++ r.2.1.map fun e => (e.1, done))
    | _ => (s', []))

/-- The walk of a PUBW that some lanes wait for. -/
def pubwWalk (s : State) (wk : Nat) (ls : List Nat) : Option Walk :=
  (s.core (wkCore wk)).walks.find? fun w => w.why == .pubw && w.wk == wk && ls.contains w.lane

/-- PUBW (R303, R306): the bundle waits for its walk; a fault is raised in the lane that the faulting entry carries. -/
def execPubw (f : SyF) (s : State) : Host.Outcome State Fault Refusal :=
  issue s (.pubw f) (fun s' c =>
    match readLanes s' c c.lanes with
    | .ok xs =>
      match pubwWalk s' c.wk c.lanes with
      | some w =>
        if !w.ended then (s', [])
        else
          let ref (l : Nat) : Word := match xs.find? fun e => e.1 == l with | some (_, .ok x) => x.av.bits | _ => 0
          (s'.dropWalk (wkCore c.wk) w.id, c.lanes.map fun l => (l,
            match w.fault with
            | some (fl, cs, sub) => if fl = l then .fault (refFault cs sub (ref l) (offOf (ref l))) else done
            | none => done))
      | none =>
        let r := rootLanes s' c.wk xs
        if r.2.2.2 then (r.1, r.2.2.1)
        else
          match r.2.1 with
          | [] => (r.1, r.2.2.1)
          | (l0, _) :: _ =>
            let w := mkWalk r.1 c.wk l0 f.scope.toNat .pubw (rootList r.2.1)
            ((r.1.addWalk (wkCore c.wk) w).escape (r.1.warp c.wk).team, r.2.2.1)
    | _ => (s', []))

/-! ### The walker (R304) -/

/-- What a visit finds: the entry is skipped; or the object visited and the objects that its scan adds. -/
inductive Visit where
  | skip
  | seen (obj : Nat) (found : List Nat)
  | fault (c : Cause) (sub : Byte)
  deriving DecidableEq, Repr

/-- Who a walk is, as a party that waits. -/
def walkWho (core : Nat) (w : Walk) : Who := ⟨core, .walk w.id, w.tout⟩

/-- Deferred reads of a team to an object. -/
def teamReads (s : State) (tk obj : Nat) : List Defer :=
  s.defers.filter fun d => (s.warp d.wk).team == tk && d.obj == obj && !d.dead
    && (match d.kind with | .host _ => false | _ => true)

/-- Spans of memory of an object, as far as it is mapped: address and length. -/
def spansOf (s : State) (core : Nat) (t : OcEntry) : List Nat → Acc (List (Nat × Nat))
  | [] => .ok s []
  | k :: r =>
    let size := if t.hm then t.chunk else t.len
    let n := min size (t.len - k * size)
    (resolveAt s core t (k * size)).bind fun s1 a =>
      (spansOf s1 core t r).bind fun s2 rest =>
        .ok s2 (match a with | some x => (x, n) :: rest | none => rest)

/-- The chunks of an object; one for an object with a contiguous home. -/
def chunkList (t : OcEntry) : List Nat := upto (if t.hm then (t.len + t.chunk - 1) / t.chunk else 1)

/-- Lines of a span that a scan reads: those of local memory with PTP and LTP set (R32) or with a remote owner, whose copy may hold tags
that the home has not seen; every line of other memory. -/
def scanLines (s : State) (sp : Nat × Nat) : List Nat :=
  let lo := sp.1 / 128
  let hi := (sp.1 + sp.2 - 1) / 128
  if sp.1 / 2 ^ 40 = s.pkg.agent then
    let tagged := (s.hbm.ltp.map (·.1)).filter fun l => tget s.hbm.ptp (l / 32) false
    let owned := (s.hbm.dir.filter fun e => e.2 == 2).map (·.1)
    let all := (tagged ++ owned).foldl (fun (t : Tab Unit) l => tset t l ()) []
    (all.map fun e => s.lineOf e.1).filter fun l => lo ≤ l && l ≤ hi
  else if isHost (sp.1 / 2 ^ 40) then []
  else (upto (hi + 1 - lo)).map fun k => lo + k

/-- References found in a line, in the order of its words; only words of the object count. -/
def lineRefs (d : LineData) (line : Nat) (sp : Nat × Nat) : List Nat :=
  (upto 16).filterMap fun w =>
    let v := lineWord d w
    let a := 128 * line + 8 * w
    if v.tag && objOf v.bits != 0 && sp.1 < a + 8 && a < sp.1 + sp.2 then some (objOf v.bits) else none

/-- Scan lines at the point of coherence. -/
def scanAll (s : State) (sp : Nat × Nat) : List Nat → Acc (List Nat)
  | [] => .ok s []
  | l :: r => (pocLine s l).bind fun s1 d => (scanAll s1 sp r).bind fun s2 t => .ok s2 (lineRefs d l sp ++ t)

/-- Scan every span of an object. -/
def scanSpans (s : State) : List (Nat × Nat) → Acc (List Nat)
  | [] => .ok s []
  | sp :: r => (scanAll s sp (scanLines s sp)).bind fun s1 a => (scanSpans s1 r).bind fun s2 b => .ok s2 (a ++ b)

/-- Whether some line lies in the memory of an object. -/
def inSpans (sps : List (Nat × Nat)) (line : Nat) : Bool :=
  sps.any fun sp => sp.1 / 128 ≤ line && line ≤ (sp.1 + sp.2 - 1) / 128

/-- OWN of an object published at a scope (R18). -/
def ownAt (s : State) (scope : Nat) : Nat := if scope = 1 then s.pkg.agent else if scope = 2 then s.ownCell else 0

/-- Set VIS and OWN of an entry, in the table and in the core's object cache, as one update (R304). -/
def widen (s : State) (h : Who) (t : OcEntry) (scope : Nat) : Acc Unit :=
  let d0 := setBits (t.dw 0) 60 2 scope
  let d1 := setBits (t.dw 1) 32 32 (ownAt s scope)
  let dws := d0 :: d1 :: t.dws.drop 2
  (entryAddr s h.core t.realm t.obj true).bind fun s1 a =>
    match a with
    | none => .ok s1 ()
    | some (x, _) =>
      (pocWrite s1 h x (bytesLE 8 d0.toNat ++ bytesLE 8 d1.toNat)).bind fun s2 _ =>
        .ok (s2.modCore h.core fun c => { c with oc := c.oc.map fun (e : OcEntry) =>
          if e.realm = t.realm ∧ e.obj = t.obj then { e with dws := dws } else e }) ()

/-- Write back and drop the object's lines in the core's L1 (R304). -/
def flushObject (s : State) (h : Who) (t : OcEntry) : State × Option (Option RemoteFail) :=
  let mine (e : L1Line) : Bool := e.realm == t.realm && e.obj == t.obj
  match backAll s h ((s.core h.core).l1.filter mine) with
  | (s1, none) => (s1.modCore h.core fun c => { c with l1 := c.l1.filter fun e => !mine e }, none)
  | r => r

/-- The visit of an object: its accesses end, its lines go back, the acknowledgements of a wide scope come in, VIS and OWN
change, then the scan. -/
def visitObject (s : State) (h : Who) (tk scope : Nat) (t : OcEntry) : Acc (Tried Visit) :=
  if t.mig || (s.core h.core).migOff.contains (t.realm, t.obj) then .ok s none
  else
    match tryDefers s (teamReads s tk t.obj) with
    | (s1, false) => .ok s1 none
    | (s1, true) =>
      match flushObject s1 h t with
      | (s2, some none) => .ok s2 none
      | (s2, some (some e)) => .ok s2 (some (.error e))
      | (s2, none) =>
        (spansOf s2 h.core t (chunkList t)).bind fun s3 sps =>
          let owed := s3.acks.any fun a => a.cores.contains h.core && inSpans sps a.line
          if 2 ≤ scope && owed then
            .ok { s3 with acks := s3.acks.map fun (a : Acks) =>
              if a.cores.contains h.core && inSpans sps a.line && !a.waiters.contains h.who
              then { a with waiters := a.waiters ++ [h.who] } else a } none
          else
            (widen s3 h t scope).bind fun s4 _ =>
              (if t.noref then .ok s4 [] else scanSpans s4 sps).bind fun s5 found =>
                .ok s5 (some (.ok (.seen t.obj found)))

/-- One entry of the work list (R304): the ultimate parent; an object that is invalid, already wide enough or already visited is
skipped; another team's private object is a fault, confirmed by a fresh walk (R26). -/
def visitAct (w : Walk) (obj : Nat) (s : State) (h : Who) : Acc (Tried Visit) :=
  let t := s.team w.team
  (findPair s h.core t.realm obj false).bind fun s1 r =>
    (match r with
     | some (_, e) => if e.vis = 0 && e.own != t.handle then findPair s1 h.core t.realm obj true else .ok s1 r
     | none => .ok s1 r).bind fun s2 r2 =>
      match r2 with
      | none => .ok s2 (some (.ok .skip))
      | some (_, e) =>
        if e.vis ≠ 0 && w.scope.toNat ≤ e.vis then .ok s2 (some (.ok .skip))
        else if e.vis = 0 && e.own != t.handle then .ok s2 (some (.ok (.fault .escape escPRIVATE)))
        else if w.visited.contains e.obj then .ok s2 (some (.ok .skip))
        else visitObject s2 h w.team w.scope.toNat e

/-- Change a walk of a core. -/
def State.modWalk (s : State) (core id : Nat) (f : Walk → Walk) : State :=
  s.modCore core fun c => { c with walks := c.walks.map fun (x : Walk) => if x.id = id then f x else x }

/-- The walk that a walker performs: one at a time, in the order they reached it (R303). -/
def curWalk (s : State) (core : Nat) : Option Walk := (s.core core).walks.find? fun w => !w.ended

/-- New entries of a work list: objects that no scan has found before in the walk. -/
def newEntries (w : Walk) (found : List Nat) : List Nat := found.eraseDups.filter fun o => !w.listed.contains o && !w.visited.contains o

/-- WALK_VISIT (R304). -/
def execWalkVisit (core : Nat) (s : State) : Host.Outcome State Fault Refusal :=
  match curWalk s core with
  | none => .next s
  | some w =>
    match w.work with
    | [] => .next s
    | (obj, lane) :: rest =>
      let h := walkWho core w
      match runTry s h fun st => visitAct w obj st h with
      | (s1, none) => .next s1
      | (s1, some (.error e)) => .next (s1.modWalk core w.id fun x => { x with work := [], fault := some (lane, .remote, e.sub) }).wake
      | (s1, some (.ok .skip)) => .next (s1.modWalk core w.id fun x => { x with work := rest }).wake
      | (s1, some (.ok (.fault c sub))) =>
        .next (s1.modWalk core w.id fun x => { x with work := [], fault := some (lane, c, sub) }).wake
      | (s1, some (.ok (.seen o found))) =>
        let new := newEntries w found
        .next (s1.modWalk core w.id fun x =>
          { x with work := rest ++ new.map fun n => (n, lane), visited := x.visited ++ [o], listed := x.listed ++ new }).wake

/-- WALK_COMPLETE (R306): PUB completes on its counter, and a fault of it is asynchronous; the others wait for the end of their
walk and take it themselves. -/
def execWalkComplete (core : Nat) (s : State) : Host.Outcome State Fault Refusal :=
  match curWalk s core with
  | none => .next s
  | some w =>
    if !w.work.isEmpty then .next s
    else
      let s0 := s.unwait (.walk w.id)
      match w.why with
      | .pub cv ci =>
        let s1 := s0.dropWalk core w.id
        let s2 := if cv then counterDone s1 w.wk ci w.id else s1
        .next (match w.fault with
          | some (l, c, sub) =>
            let ref := tget w.refs l 0
            asyncFault s2 w.wk { lane := l, cause := c, sub := sub, sherr := false, opv := ref, eoff := BitVec.ofNat 40 (offOf ref) }
          | none => s2).wake
      | _ => .next (s0.modWalk core w.id fun x => { x with ended := true }).wake

end Sys2Proof.Machine
end

