-- ==== Sys2Proof/Machine/Launch.lean ====
section
/-! DEFINITION. Launching (R65–R70, R76–R88, R407, R408): submission pages, the descriptor and its validation, acceptance,
LAUNCH and LAUNCHI, predecessors, the indirect count, and the completion record. -/

namespace Sys2Proof.Machine

/-! ### The descriptor (R65) -/

/-- Dword n of a descriptor copy. -/
def dDw (d : List Word) (n : Nat) : Word := d.getD n 0
def dRealm (d : List Word) : Nat := bits (dDw d 0) 43 32
def dEscm (d : List Word) : Bool := (dDw d 0).getLsbD 16
def dIcnt (d : List Word) : Bool := (dDw d 0).getLsbD 15
def dPri (d : List Word) : Nat := bits (dDw d 0) 14 12
def dAff (d : List Word) : Nat := bits (dDw d 0) 11 10
def dRst (d : List Word) : Bool := (dDw d 0).getLsbD 9
def dWld (d : List Word) : Bool := (dDw d 0).getLsbD 8
def dVer (d : List Word) : Nat := bits (dDw d 0) 7 0
def dEntry (d : List Word) : Word := dDw d 1
def dHbase (d : List Word) : Word := dDw d 2
def dCount (d : List Word) : Word := dDw d 3
def dFmax (d : List Word) : Nat := bits (dDw d 4) 47 40
def dEfd (d : List Word) : Nat := bits (dDw d 4) 39 32
def dShed (d : List Word) : Nat := bits (dDw d 4) 31 28
def dTiles (d : List Word) : Nat := bits (dDw d 4) 26 18
def dScrk (d : List Word) : Nat := bits (dDw d 4) 17 8
def dWpt (d : List Word) : Nat := bits (dDw d 4) 5 0
/-- Role code of warp w. -/
def dRole (d : List Word) (w : Nat) : Nat := bits (dDw d 5) (2 * w + 1) (2 * w)
def dSpill (d : List Word) : Word := dDw d 6
def dArena (d : List Word) : Word := dDw d 7
/-- Bytes of a slot of each pool (R65, R66). -/
def dSpillSize (d : List Word) : Nat := bits (dDw d 8) 63 32 * 1024
def dArenaSize (d : List Word) : Nat := bits (dDw d 8) 31 0 * 4096
def dArgs (d : List Word) : Word := dDw d 9
def dCompl (d : List Word) : Word := dDw d 10
def dBudget (d : List Word) : Nat := (dDw d 11).toNat

/-- Whether a reserved field is nonzero, AFF is 11, or a ROLEMAP bit of a warp at or above WPT is set (R69, 0x02). -/
def descReserved (d : List Word) : Bool :=
  bits (dDw d 0) 63 44 != 0 || bits (dDw d 0) 31 17 != 0 || bits (dDw d 4) 63 48 != 0 || (dDw d 4).getLsbD 27
    || bits (dDw d 4) 7 6 != 0 || dDw d 12 != 0 || dDw d 13 != 0 || dDw d 14 != 0 || dDw d 15 != 0
    || dAff d == 3 || (dDw d 5).toNat / 2 ^ (2 * dWpt d) != 0

/-- The checks of R69 that the dwords alone decide, before 0x05. -/
def descCode (d : List Word) : Option Byte :=
  if dVer d ≠ 1 then some 0x01
  else if descReserved d then some 0x02
  else if dWpt d = 0 || 32 < dWpt d || 768 < dScrk d || 256 < dTiles d || 8 < dShed d then some 0x03
  else if dFmax d < 8 || 192 < dFmax d || dEfd d < 8 || dFmax d < dEfd d then some 0x04
  else none

/-! ### Acceptance (R80) -/

/-- Who launches: the core whose tables serve the checks, the launcher's realm and world, and its team; none for the host,
which stands at system scope (R80). -/
structure Launcher where
  core  : Nat
  realm : Nat
  wld   : Bool
  team  : Option Nat
  deriving DecidableEq, Repr

/-- What acceptance decides: rejection with its code and the descriptor copy if one was read; RETRY; or a grid that may be
entered. -/
inductive Verdict where
  | reject (code : Byte) (desc : Option (List Word))
  | retry
  | go (desc : List Word)
  deriving DecidableEq, Repr

/-- What a decision waits for. -/
abbrev Deciding := Acc (Tried Verdict)

/-- A reference of a descriptor, a record or a launch (R67): R25 without check 2, against the launcher's visibility; an
offset that is a multiple of `align`; a stall while the object migrates. -/
def refCheck (s : State) (ln : Launcher) (realm : Nat) (wld : Bool) (ref : Word) (size align : Nat) (rights : List Nat) :
    Acc Chk :=
  if offOf ref % align ≠ 0 then .ok s (.fault .memory memALIGN)
  else
    let p : Party := ⟨wld, ln.team.map fun tk => (s.team tk).handle⟩
    checkRef s ln.core realm p (objOf ref) true (offOf ref) size rights 0 9

/-- Go on if a reference passes; reject with a code if it fails. -/
def orReject (x : Acc Chk) (code : Byte) (d : Option (List Word)) (k : State → Place → Deciding) : Deciding :=
  x.bind fun s c =>
    match c with
    | .ok p => k s p
    | .fault .. => .ok s (some (.ok (.reject code d)))
    | .stall => .ok s none

/-- Go on if a condition holds. -/
def unlessBad (s : State) (bad : Bool) (code : Byte) (d : List Word) (k : State → Deciding) : Deciding :=
  if bad then .ok s (some (.ok (.reject code (some d)))) else k s

/-- The check of a pool (R69, 0x0B): both fields of the pair 0, or R and W, an offset that is a multiple of 4,096, and a
slot's room. -/
def checkPool (s : State) (ln : Launcher) (d : List Word) (ref : Word) (size : Nat) (k : State → Deciding) : Deciding :=
  if ref = 0 && size = 0 then k s
  else if ref = 0 || size = 0 then .ok s (some (.ok (.reject 0x0B (some d))))
  else orReject (refCheck s ln (dRealm d) (dWld d) ref size 4096 [rR, rW]) 0x0B (some d) fun s1 _ => k s1

/-- Whether a core admits a world (R437). -/
def Core.admitsWld (c : Core) (wld : Bool) : Bool := !c.offline && !c.dying && c.world.getLsbD (b2n wld)

/-- Whether an online core admits a world. -/
def worldOpen (s : State) (wld : Bool) : Bool := (upto 32).any fun c => (s.core c).admitsWld wld

/-- Grids pending (R82, R85). DESIGN CHOICE (log 94): a launch that has passed step 4, and whose walk is still running, counts as one of
the 4,096 of R88. -/
def pending (s : State) : Nat :=
  s.grids.length + ((upto 32).map fun c =>
    ((s.core c).walks.filter fun w => match w.why with | .launch .. => true | _ => false).length).sum

/-- Checks of the predecessors (R80 step 3). -/
def checkPreds (s : State) (ln : Launcher) (d : List Word) : List Word → (State → Deciding) → Deciding
  | [], k => k s
  | p :: r, k =>
    orReject (refCheck s ln (dRealm d) (dWld d) p 8 64 [rR, rW]) 0x0D (some d) fun s1 _ => checkPreds s1 ln d r k

/-- The count's check (R69, 0x0A); `ind` says which of LAUNCH (false) and LAUNCHI (true) was issued. -/
def checkCount (s : State) (ln : Launcher) (d : List Word) (ind : Option Bool) (k : State → Deciding) : Deciding :=
  let kind (st : State) : Deciding :=
    unlessBad st (match ind with | some i => i != dIcnt d | none => false) 0x0A d k
  if dIcnt d then
    orReject (refCheck s ln (dRealm d) (dWld d) (dCount d) 4 4 [rR]) 0x0A (some d) fun s1 _ => kind s1
  else unlessBad s (bits (dCount d) 63 32 != 0) 0x0A d kind

/-- ARGS (R69, 0x09). -/
def checkArgs (s : State) (ln : Launcher) (d : List Word) (k : State → Deciding) : Deciding :=
  if dArgs d = 0 then k s
  else orReject (refCheck s ln (dRealm d) (dWld d) (dArgs d) 0 1 [rR]) 0x09 (some d) fun s1 _ => k s1

/-- Validation of a descriptor copy (R69) from 0x01 to 0x0B, then 0x11 (R437). -/
def validate (s : State) (ln : Launcher) (d : List Word) (ind : Option Bool) (k : State → Deciding) : Deciding :=
  let rc (st : State) (ref : Word) (size align : Nat) (rights : List Nat) := refCheck st ln (dRealm d) (dWld d) ref size align rights
  match descCode d with
  | some c => .ok s (some (.ok (.reject c (some d))))
  | none =>
    (realmEntry s ln.core (dRealm d)).bind fun s1 re =>
      let badW := match ln.team with | some _ => dWld d != ln.wld | none => dWld d && !ln.wld
      unlessBad s1 (dRealm d == 0 || re.isNone || dRealm d != ln.realm || badW) 0x05 d fun s2 =>
      orReject (rc s2 (dEntry d) 8 64 [rX]) 0x06 (some d) fun s3 _ =>
      orReject (rc s3 (dHbase d) 4096 256 [rX]) 0x07 (some d) fun s4 _ =>
      orReject (rc s4 (dCompl d) 64 64 [rR, rW]) 0x08 (some d) fun s5 _ =>
      checkArgs s5 ln d fun s6 =>
      checkCount s6 ln d ind fun s7 =>
      checkPool s7 ln d (dSpill d) (dSpillSize d) fun s8 =>
      checkPool s8 ln d (dArena d) (dArenaSize d) fun s9 =>
      unlessBad s9 (!worldOpen s9 (dWld d)) 0x11 d k

/-- Steps 1 to 4 of acceptance (R80). DESIGN CHOICE (log 86): the 16 dwords of the descriptor are read in one step, so that of the mixes
that R68 allows under a concurrent write only a snapshot arises. -/
def acceptance (s : State) (ln : Launcher) (desc : Word) (preds : List Word) (ind : Option Bool) : Deciding :=
  orReject (refCheck s ln ln.realm ln.wld desc 128 128 [rR]) 0x0C none fun s1 p =>
    (pocDwords s1 p.addr 16).bind fun s2 d =>
      validate s2 ln d ind fun s3 =>
        checkPreds s3 ln d (preds.filter (· != 0)) fun s4 =>
          if 4096 ≤ pending s4 then .ok s4 (some (.ok .retry)) else .ok s4 (some (.ok (.go d)))

/-- The first sequence number from `n` on, modulo 2^21, that is not 0 and not in use (R81). -/
def nextFree (used : List Nat) : Nat → Nat → Nat
  | 0, n => n
  | f + 1, n => if n % 2 ^ 21 = 0 || used.contains (n % 2 ^ 21) then nextFree used f (n + 1) else n % 2 ^ 21

/-- A grid number (R81): the package's agent id, and a sequence number not in use. -/
def gridNumber (s : State) : BitVec 32 :=
  let used := s.grids.map fun e => e.1 % 2 ^ 21
  BitVec.ofNat 32 (s.pkg.agent * 2 ^ 21 + nextFree used 4098 (Config.gridSeq s.fresh).toNat)

/-- The links of a grid at step 5 (R86): each named predecessor, and whether the first dword of its record is nonzero already; none while
one of them cannot be read yet. A read that fails, or a line of which acknowledgements are owed (R322), leaves the link to the watch. `who` reads the record of a link. -/
def predLinks (s : State) (who : Nat → Who) (ln : Launcher) (d : List Word) : List (Nat × Word) →
    State × Option (List (Word × Bool))
  | [] => (s, some [])
  | (k, ref) :: r =>
    match runTry s (who k) fun st => (refCheck st ln (dRealm d) (dWld d) ref 8 64 []).bind fun s1 c =>
        match c with
        | .ok p => (pocDwords s1 p.addr 1).bind fun s2 v => .ok s2 (some (.ok (v.getD 0 0 != 0 && (linesOf p.addr 8).all s2.noAcks)))
        | .fault .. => .ok s1 (some (.ok false))
        | .stall => .ok s1 none with
    | (s1, none) => (s1, none)
    | (s1, some b) =>
      match predLinks s1 who ln d r with
      | (s2, none) => (s2, none)
      | (s2, some t) => (s2, some ((ref, match b with | .ok v => v | .error _ => false) :: t))

/-- The predecessors that a launch names (R80), numbered. -/
def predsOf (ps : List Word) : List (Nat × Word) := ((upto ps.length).zip ps).filter fun e => e.2 != 0

/-- Cycle of the dispatcher: that of core 0. -/
def dispCycle (s : State) : Nat := (s.core 0).cycle.toNat

/-- A grid is ready (R86, R87): every predecessor has completed and the count is known. -/
def Grid.isReady (g : Grid) : Bool := g.preds.all (·.2) && g.count.isSome && g.code.isNone

/-- Note the cycle in which a grid becomes ready. -/
def readyNow (s : State) (g : Grid) : Grid :=
  if g.isReady && g.ready.isNone then { g with ready := some (dispCycle s) } else g

/-- The slots of a pool whose reference has passed its check (R66), also while the object migrates. DESIGN CHOICE (log 86): a reference that
passed at validation and does not pass any more gives a pool of no slots. -/
def poolAt (s : State) (ln : Launcher) (d : List Word) (ref : Word) (size : Nat) : Acc Pool :=
  if ref = 0 then .ok s ⟨0, 0, 0⟩
  else
    (checkRef s ln.core (dRealm d) ⟨dWld d, ln.team.map fun tk => (s.team tk).handle⟩ (objOf ref) true (offOf ref) size [rR, rW] 0
        7).bind fun s1 c =>
      .ok s1 (match c with
        | .ok p => ⟨p.top.obj, p.poff, (p.ent.len - offOf ref) / size⟩
        | _ => ⟨0, 0, 0⟩)

/-- The grid that acceptance enters, with its number. -/
def addGrid (s : State) (ln : Launcher) (d : List Word) (preds : List (Word × Bool)) (rec : List Word) (sp ar : Pool) : State × BitVec 32 :=
  let n := gridNumber s
  let g : Grid :=
    { desc := d, num := n, host := ln.team.isNone, cookie := rec.getD 6 0, uint := (rec.getD 0 0).getLsbD 8
      uiaddr := rec.getD 4 0, uidata := (rec.getD 5 0).truncate 32, parent := ln.team
      depth := match ln.team with | some tk => (s.team tk).depth + 1 | none => 0
      preds := preds
      count := if dIcnt d then none else some (bits (dCount d) 31 0), stamp := s.uid, ready := none, dealt := false, retired := 0
      nkill := 0, nflt := 0, first := none, spill := sp, arena := ar, spillU := [], arenaU := [], spent := [], code := none }
  let s1 := { s with fresh := s.fresh + 1, uid := s.uid + 1, grids := tset s.grids n.toNat (readyNow s g) }
  (match ln.team with | some tk => s1.modTeam tk fun t => { t with kids := t.kids + 1 } | none => s1, n)

/-- Step 6 of acceptance: enter a grid as pending (R80, R82). -/
def enterGrid (s : State) (ln : Launcher) (d : List Word) (preds : List (Word × Bool)) (rec : List Word) : Acc (State × BitVec 32) :=
  (poolAt s ln d (dSpill d) (dSpillSize d)).bind fun s1 sp => (poolAt s1 ln d (dArena d) (dArenaSize d)).bind fun s2 ar =>
    .ok s2 (addGrid s2 ln d preds rec sp ar)

/-! ### LAUNCH and LAUNCHI (R85, R309) -/

/-- The launch status (R85). -/
def launchStatus (grid : BitVec 32) (code : Byte) (stat : Nat) : Word :=
  BitVec.ofNat 64 (grid.toNat * 2 ^ 32 + code.toNat * 2 ^ 8 + stat)

/-- The launcher that a team leader is. -/
def leaderOf (s : State) (wk : Nat) : Launcher :=
  ⟨wkCore wk, (s.teamOf wk).realm, (s.teamOf wk).wld, some (s.warp wk).team⟩

/-- The walk of a launch that a lane waits for. -/
def launchWalk (s : State) (wk l : Nat) : Option (Walk × List Word × List Word) :=
  (s.core (wkCore wk)).walks.findSome? fun w =>
    match w.why with
    | .launch d p => if w.wk = wk && w.lane = l then some (w, d, p) else none
    | _ => none

/-- The roots of a launch's walk: the argument block's object and the completion record's (R85). -/
def launchRoots (d : List Word) (l : Nat) : List (Nat × Nat) :=
  (if dArgs d = 0 || objOf (dArgs d) = objOf (dCompl d) then [dCompl d] else [dArgs d, dCompl d]).map fun r => (objOf r, l)

/-- A leader as the party that reads a predecessor's record. -/
def leadPred (s : State) (wk k : Nat) : Who := ⟨wkCore wk, .core (64 * (16384 + 2 * wk + k)), (s.warp wk).tout.toNat⟩

/-- The end of a launch whose walk is over: the leader's release at package scope, then steps 5 and 6. DESIGN CHOICE (log 86): a COMPL that no
longer passes its check returns REJECT with 0x08. -/
def launchEnd (wk l : Nat) (w : Walk) (d preds : List Word) (s : State) (h : Who) : Acc (Tried Word) :=
  let ln := leaderOf s wk
  thenRelease s h wk l 1 fun s1 =>
    (refCheck s1 ln (dRealm d) (dWld d) (dCompl d) 64 64 [rR, rW]).bind fun s2 c =>
      match c with
      | .stall => .ok s2 none
      | .fault .. => .ok (s2.dropWalk h.core w.id) (some (.ok (launchStatus 0 0x08 2)))
      | .ok p =>
        match predLinks s2 (leadPred s2 wk) ln d (predsOf preds) with
        | (s3, none) => .ok s3 none
        | (s3, some ps) =>
          (pocWrite s3 h p.addr (List.replicate 64 0)).bind fun s4 _ =>
            (enterGrid (s4.dropWalk h.core w.id) ln d ps []).bind fun _ r =>
              .ok r.1 (some (.ok (launchStatus r.2 0 0)))

/-- A launch by the leader. DESIGN CHOICE (log 85): a REMOTE failure of one of its accesses is raised precisely, with no status; it ends the launch, and
its walk is forgotten. -/
def launchLane (ind : Bool) (s : State) (wk l : Nat) (x : Srcs) : LaneAcc Word :=
  let h := whoLane s wk l
  let flat (r : State × Tried Word) : LaneAcc Word :=
    (r.1, r.2.map fun v => match v with
      | .ok y => .ok y
      | .error e => .error (refFault .remote e.sub x.av.bits (offOf x.av.bits)))
  match launchWalk s wk l with
  | some (w, d, p) =>
    if !w.ended then (s, none)
    else
      match w.fault with
      | some (_, c, sub) => (s.dropWalk h.core w.id, some (.error (refFault c sub x.av.bits (offOf x.av.bits))))
      | none =>
        match runTry s h (launchEnd wk l w d p · h) with
        | (s1, some (.error e)) => flat (s1.dropWalk h.core w.id, some (.error e))
        | r => flat r
  | none =>
    let preds := [x.bv.bits, x.cv.bits]
    match runTry s h fun st => acceptance st (leaderOf st wk) x.av.bits preds (some ind) with
    | (s1, none) => (s1, none)
    | (s1, some (.error e)) => flat (s1, some (.error e))
    | (s1, some (.ok (.reject c _))) => (s1.escape (s1.warp wk).team, some (.ok (launchStatus 0 c 2)))
    | (s1, some (.ok .retry)) => (s1.escape (s1.warp wk).team, some (.ok (launchStatus 0 0 1)))
    | (s1, some (.ok (.go d))) =>
      ((s1.addWalk h.core (mkWalk s1 wk l 1 (.launch d preds) (launchRoots d l))).escape (s1.warp wk).team, none)

/-- The body of LAUNCH and LAUNCHI: lanes other than the leader take OPERAND and read nothing (R62, R309). -/
def launchBody (ind : Bool) : Body := fun s c =>
  let isLead (l : Nat) : Bool := l == 0 && (s.warp c.wk).wix == 0
  let bad := (c.lanes.filter fun l => !isLead l).map fun l => (l, LaneOut.fault (operandFault opLEADER 0))
  if !c.lanes.any isLead then (s, bad)
  else if 10 ≤ (s.teamOf c.wk).depth then (s, (0, .fault (operandFault opNEST 0)) :: bad)
  else
    match readLanes s c [0] with
    | .ok ((_, .error e) :: _) => (s, (0, .fault e) :: bad)
    | .ok ((_, .ok x) :: _) =>
      match launchLane ind s c.wk 0 x with
      | (s1, none) => (s1, bad)
      | (s1, some (.error e)) => (s1, (0, .fault e) :: bad)
      | (s1, some (.ok v)) => (s1, (0, res v) :: bad)
    | _ => (s, bad)

/-- LAUNCH (R309). -/
def execLaunch (f : SyF) (s : State) : Host.Outcome State Fault Refusal := issue s (.launch f) (launchBody false)

/-- LAUNCHI (R309). -/
def execLaunchi (f : SyF) (s : State) : Host.Outcome State Fault Refusal := issue s (.launchi f) (launchBody true)

/-! ### Records written by the dispatcher (R83, R407, R408) -/

/-- The core whose realm table serves the dispatcher's checks: the lowest that is on line (log 18). -/
def dispCore (s : State) : Nat := ((upto 32).find? fun c => !(s.core c).offline).getD 0

/-- The dispatcher as a party that waits, for a grid. -/
def dispWho (s : State) (grid : BitVec 32) : Who := ⟨32, .disp grid, s.pkg.tdef.toNat⟩

/-- The dispatcher as a party that waits, at the take of a page. -/
def pageWho (s : State) (page : Nat) : Who := ⟨32, .core (64 * (4096 + page)), s.pkg.tdef.toNat⟩

/-- The dispatcher as the party that reads a predecessor's record at the take of a page. -/
def pagePred (s : State) (page k : Nat) : Who := ⟨32, .core (64 * (8192 + 2 * page + k)), s.pkg.tdef.toNat⟩

/-- The launcher that the host is, on a page bound to a realm and a world. -/
def hostLauncher (s : State) (realm : Nat) (wld : Bool) : Launcher := ⟨dispCore s, realm, wld, none⟩

/-- Own every line of a record, waiting until no acknowledgement for one of them is owed; at a host home, every half. -/
def recordReady (s : State) (h : Who) (host : Bool) : List (Nat × Nat × Nat) → Acc (Tried Unit)
  | [] => .ok s (some (.ok ()))
  | (u, _, n) :: r =>
    if host then (ownHalf s u (n == 64)).bind fun s1 _ => recordReady s1 h host r
    else
      (takeLine s h u false).bind fun s1 _ =>
        if s1.noAcks u then recordReady s1 h host r
        else .ok (s1.awaitLine h u) none

/-- Write a completion record once its lines are owned and every count is zero (R408 steps 1 and 2, R366). -/
def writeRecord8 (s : State) (h : Who) (a : Nat) (dws : List Word) : Acc (Tried Unit) :=
  (recordReady s h (isHost (a / 2 ^ 40)) (piecesOf a 64)).bind fun s1 r =>
    match r with
    | some (.ok ()) => (pocWrite s1 h a (dws.flatMap fun w => bytesLE 8 w.toNat)).bind fun s2 _ => .ok s2 (some (.ok ()))
    | x => .ok s1 x

/-- Post a user interrupt to the host (R366): a write that the host rejects is counted. -/
def postIrq (s : State) (addr : Word) (data : BitVec 32) : State :=
  let s1 := s.send (.irq addr data)
  if Config.hostRejects addr then { s1 with pkg := { s1.pkg with herrI := s1.pkg.herrI + 1 } } else s1

/-- The place of a completion record. -/
def complPlace (s : State) (ln : Launcher) (d : List Word) : Acc Chk :=
  refCheck s ln (dRealm d) (dWld d) (dCompl d) 64 64 [rR, rW]

/-- Write a record through COMPL of a descriptor copy: false if COMPL fails its check. -/
def putRecord (s : State) (ln : Launcher) (h : Who) (d dws : List Word) : Acc (Tried Bool) :=
  (complPlace s ln d).bind fun s1 c =>
    match c with
    | .stall => .ok s1 none
    | .fault .. => .ok s1 (some (.ok false))
    | .ok p => (writeRecord8 s1 h p.addr dws).bind fun s2 r => .ok s2 (r.map fun x => x.map fun _ => true)

/-! ### Submission (R77) and the take (R79, R80) -/

/-- SUBMIT_DMWR (R77): a DMWr of 64 bytes to offset 0 of a page. -/
def execSubmitDmwr (page : Nat) (rec : List (BitVec 64)) (s : State) : Host.Outcome State Fault Refusal :=
  let p := s.pageOf page
  if rec.length ≠ 8 then .next s
  else if !p.en then .next ((s.setPage page { p with badw := true }).send (.submitUR page))
  else if 64 ≤ p.recs.length || bits (rec.getD 0 0) 7 0 ≠ 1 then .next (s.send (.submit page false))
  else .next ((s.setPage page { p with recs := p.recs ++ [rec] }).send (.submit page true)).wake

/-- SUBMIT_BAD_WRITE (R77): any other write to the submission slot. -/
def execSubmitBadWrite (page : Nat) (wr : BadWrite) (s : State) : Host.Outcome State Fault Refusal :=
  let s1 := s.setPage page { s.pageOf page with badw := true }
  match wr with
  | .posted => .next s1
  | .dmwr n o => if n = 64 && o = 0 && (s.pageOf page).en then .next s else .next (s1.send (.submitUR page))

/-- The record has left its page (R79). -/
def taken (s : State) (page : Nat) : State :=
  s.setPage page { s.pageOf page with recs := (s.pageOf page).recs.drop 1, taken := (s.pageOf page).taken + 1 }

/-- A rejection without a usable completion record (R83): LRSEQ and LRCODE. -/
def lastReject (s : State) (page : Nat) (code : Byte) : State :=
  s.setPage page { s.pageOf page with lrseq := (s.pageOf page).taken, lrcode := code }

/-- A rejection of a host grid (R83): through the record if it is usable. DESIGN CHOICE (log 85): a record whose write fails counts as not usable. -/
def rejectHost (s : State) (page : Nat) (ln : Launcher) (rec : List Word) (code : Byte) (desc : Option (List Word)) : State :=
  let plain := lastReject (taken s page) page code
  match desc with
  | none => plain
  | some d =>
    if code = 0x01 || code = 0x0C then plain
    else
      let h := pageWho s page
      match runTry s h fun st => putRecord st ln h d [BitVec.ofNat 64 (code.toNat * 256 + 2), rec.getD 6 0, 0, 0, 0, 0, 0, 0] with
      | (s1, none) => s1
      | (s1, some (.ok true)) =>
        let s2 := taken s1 page
        if (rec.getD 0 0).getLsbD 8 then postIrq s2 (rec.getD 4 0) ((rec.getD 5 0).truncate 32) else s2
      | (s1, some _) => lastReject (taken s1 page) page code

/-- Steps 5 and 6 for a host grid: the record is zeroed and the grid entered. -/
def acceptHost (s : State) (page : Nat) (ln : Launcher) (rec d : List Word) (h : Who) : Acc (Tried State) :=
  (complPlace s ln d).bind fun s1 c =>
    match c with
    | .ok p =>
      match predLinks s1 (pagePred s1 page) ln d (predsOf [rec.getD 2 0, rec.getD 3 0]) with
      | (s2, none) => .ok s2 none
      | (s2, some ps) =>
        (pocWrite s2 h p.addr (List.replicate 64 0)).bind fun s3 _ =>
          (enterGrid s3 ln d ps rec).bind fun _ r => .ok r.1 (some (.ok (taken r.1 page)))
    | _ => .ok s1 none

/-- Whether a reserved field of a submission record is nonzero (R78). -/
def recReserved (rec : List Word) : Bool :=
  bits (rec.getD 0 0) 63 9 != 0 || bits (rec.getD 5 0) 63 32 != 0 || rec.getD 7 0 != 0

/-- TAKE (R79, R80, R439): the oldest record of a page, while fewer than 4,096 grids are pending; from a page of the secure
world only while the trusted interface is in RUN, and in its state ERROR, where EN is 0, from none. DESIGN CHOICE (log 85): a REMOTE failure of an access
of acceptance rejects the grid with 0x0C, through LRSEQ and LRCODE. -/
def execTake (page : Nat) (s : State) : Host.Outcome State Fault Refusal :=
  let p := s.pageOf page
  match p.recs with
  | [] => .next s
  | rec :: _ =>
    if 4096 ≤ pending s || !p.en || (p.pwld && s.pkg.tdisp != .run) then .next s
    else
      let ln := hostLauncher s p.prealm p.pwld
      let h := pageWho s page
      if recReserved rec then .next (lastReject (taken s page) page 0x02).wake
      else
        match runTry s h fun st =>
            (acceptance st ln (rec.getD 1 0) [rec.getD 2 0, rec.getD 3 0] none).bind fun s1 v =>
              match v with
              | some (.ok (.go d)) =>
                (acceptHost s1 page ln rec d h).bind fun s2 r =>
                  match r with
                  | some (.ok s3) => .ok s3 (some (.ok none))
                  | some (.error e) => .ok s2 (some (.error e))
                  | none => .ok s2 none
              | some (.ok x) => .ok s1 (some (.ok (some x)))
              | some (.error e) => .ok s1 (some (.error e))
              | none => .ok s1 none with
        | (s1, none) => .next s1
        | (s1, some (.ok none)) => .next s1.wake
        | (s1, some (.ok (some (.reject c d)))) => .next (rejectHost s1 page ln rec c d).wake
        | (s1, some (.ok (some _))) => .next s1
        | (s1, some (.error _)) => .next (lastReject (taken s1 page) page 0x0C).wake

/-! ### Predecessors, the count, completion (R86, R87, R408) -/

/-- The launcher of a pending grid, for the checks of its references. -/
def gridLauncher (s : State) (g : Grid) : Launcher :=
  match g.parent with
  | some tk => ⟨(s.team tk).core, dRealm g.desc, dWld g.desc, some tk⟩
  | none => hostLauncher s (dRealm g.desc) (dWld g.desc)

/-- Put back a pending grid. -/
def State.setGrid (s : State) (g : Grid) : State := { s with grids := tset s.grids g.num.toNat (readyNow s g) }

/-- A grid fails after acceptance (R86, R87). -/
def failGrid (s : State) (g : Grid) : State := s.setGrid { g with code := some 0x0E }

/-- PRED_WATCH (R86): one link of a pending grid; a read that fails retires the grid with 0x0E. DESIGN CHOICE (log 86): so does a reference that no longer
passes its check. -/
def execPredWatch (grid which : Nat) (s : State) : Host.Outcome State Fault Refusal :=
  match tfind s.grids grid with
  | none => .next s
  | some g =>
    match g.preds[which]? with
    | some (ref, false) =>
      if g.code.isSome then .next s
      else
        let ln := gridLauncher s g
        match runTry s (dispWho s g.num) fun st =>
            (refCheck st ln (dRealm g.desc) (dWld g.desc) ref 8 64 [rR]).bind fun s1 c =>
              match c with
              | .stall => .ok s1 none
              | .fault .. => .ok s1 (some (.error .poison))
              | .ok p => (pocDwords s1 p.addr 1).bind fun s2 v =>
                .ok s2 (if v.getD 0 0 != 0 && (linesOf p.addr 8).all s2.noAcks then some (.ok ()) else none) with
        | (s1, none) => .next s1
        | (s1, some (.ok ())) => .next (s1.setGrid { g with preds := g.preds.set which (ref, true) }).wake
        | (s1, some (.error .firewall)) => .next s1
        | (s1, some (.error _)) => .next (failGrid s1 g).wake
    | _ => .next s

/-- COUNT_READ (R87): once every predecessor is satisfied, the 4-byte count is read. -/
def execCountRead (grid : Nat) (s : State) : Host.Outcome State Fault Refusal :=
  match tfind s.grids grid with
  | none => .next s
  | some g =>
    if !g.preds.all (·.2) || g.count.isSome || g.code.isSome then .next s
    else
      let ln := gridLauncher s g
      match runTry s (dispWho s g.num) fun st =>
          (refCheck st ln (dRealm g.desc) (dWld g.desc) (dCount g.desc) 4 4 [rR]).bind fun s1 c =>
            match c with
            | .stall => .ok s1 none
            | .fault .. => .ok s1 (some (.ok none))
            | .ok p => (pocRead s1 p.addr 4).bind fun s2 b => .ok s2 (some (.ok (some (ofBytes b)))) with
      | (s1, none) => .next s1
      | (s1, some (.ok (some n))) => .next (s1.setGrid { g with count := some n }).wake
      | (s1, some _) => .next (failGrid s1 g).wake

/-- The completion record of a grid (R407). -/
def gridRecord (g : Grid) : List Word :=
  let status := if g.code.isSome then 2 else if g.nkill = 0 then 1 else 3
  let f := g.first.getD (0, 0, 0)
  [BitVec.ofNat 64 (g.num.toNat * 2 ^ 32 + (g.code.getD 0).toNat * 256 + status), g.cookie,
   BitVec.ofNat 64 (g.nkill % 2 ^ 32 * 2 ^ 32 + min g.nflt (2 ^ 32 - 1)),
   BitVec.ofNat 64 (f.1.toNat * 2 ^ 52 + f.2.1.toNat * 2 ^ 44 + f.2.2.toNat),
   BitVec.ofNat 64 (g.retired % 2 ^ 32), 0, 0, 0]

/-- Whether a grid completes (R70, R408): it failed after acceptance, or its count is known, its predecessors have completed
and all its teams have retired. -/
def Grid.isOver (g : Grid) : Bool := g.code.isSome || (g.isReady && g.count == some g.retired)

/-- A grid leaves the pending state (R408 steps 3 and 4); the interrupt is posted once its record is written (R366). -/
def leavePending (s : State) (g : Grid) (written : Bool) : State :=
  let s1 := if g.uint && written then postIrq s g.uiaddr g.uidata else s
  let s2 := { s1 with grids := tdel s1.grids g.num.toNat }
  match g.parent with
  | some tk => s2.modTeam tk fun t => { t with kids := t.kids - 1 }
  | none => s2

/-- GRID_COMPLETE (R408). A record that cannot be written for a failed request leaves the grid complete (log 18), with no interrupt (R366). -/
def execGridComplete (grid : Nat) (s : State) : Host.Outcome State Fault Refusal :=
  match tfind s.grids grid with
  | none => .next s
  | some g =>
    if !g.isOver then .next s
    else
      let h := dispWho s g.num
      match runTry s h fun st => putRecord st (gridLauncher st g) h g.desc (gridRecord g) with
      | (s1, none) => .next s1
      | (s1, some (.ok b)) => .next (leavePending s1 g b).wake
      | (s1, some (.error _)) => .next (leavePending s1 g false).wake

end Sys2Proof.Machine
end

