-- ==== Sys2Proof/Machine/Sync.lean ====
section
/-! DEFINITION. Group 12 (R295–R302, R310–R312): the team barrier, shed rings, CWAIT, MWAIT, host calls, UINTR; and the events
MWAIT_REREAD, HCALL_REPLY, HCALL_TIMEOUT and MONITOR_REREAD. -/

namespace Sys2Proof.Machine

/-! ### The team barrier (R297, R298) -/

/-- A lane arrives in the current phase; the phase may complete. -/
def arriveLane (s : State) (wk l : Nat) : State :=
  let tk := (s.warp wk).team
  let wix := (s.warp wk).wix
  settleBarrier (s.modTeam tk fun t => { t with barr := tput t.barr wix (t.arrived wix ||| (1#32 <<< l)) 0 }) tk

/-- BAR and BARA in one lane: `wait` says that the lane stays until its phase completes. An arrival is a release at team scope:
the lane's earlier reads come first. -/
def barLane (wait : Bool) (s : State) (c : Ctx) (l : Nat) : State × Option LaneOut :=
  let t := s.teamOf c.wk
  match (s.lane c.wk l).st with
  | .blocked (.bar p) =>
    if p = t.bphase.toNat then (s, none) else (s.modLane c.wk l fun ln => { ln with st := .run }, some done)
  | _ =>
    if (t.arrived (s.warp c.wk).wix).getLsbD l then (s, none)
    else
      match settleAll s c.wk l with
      | (s1, false) => (s1, none)
      | (s1, true) =>
        let s2 := arriveLane s1 c.wk l
        if !wait || (s2.teamOf c.wk).bphase != t.bphase then (s2, some done)
        else (s2.modLane c.wk l fun ln => { ln with st := .blocked (.bar t.bphase.toNat) }, none)

/-- BAR (R297). -/
def execBar (f : SyF) (s : State) : Host.Outcome State Fault Refusal :=
  issue s (.bar f) (seqBody fun s' c l _ => barLane true s' c l)

/-- BARA (R297). -/
def execBara (f : SyF) (s : State) : Host.Outcome State Fault Refusal :=
  issue s (.bara f) (seqBody fun s' c l _ => barLane false s' c l)

/-! ### Shed rings (R299–R301) -/

/-- Read A and B in the lowest-numbered active lane (R145, R445). -/
def leadPair (s : State) (c : Ctx) : Rd (BitVec 32 × BitVec 32) :=
  (leadRead s c c.g.fs.a c.g.fs.btA).both (leadRead s c c.g.fs.b c.g.fs.btB) fun a b => (lo32 a, lo32 b)

/-- The body of an instruction that reads A and B in one lane and acts once. -/
def leadBody (k : State → Ctx → BitVec 32 → BitVec 32 → State × List (Nat × LaneOut)) : Body := fun s c =>
  match leadPair s c with
  | .block => (s, [])
  | .bad e => (s, allFault c e)
  | .ok v => k s c v.1 v.2

/-- Every earlier read of some lanes is performed. -/
def settleLanes (s : State) (wk : Nat) : List Nat → State × Bool
  | [] => (s, true)
  | l :: r =>
    match settleAll s wk l with
    | (s1, true) => settleLanes s1 wk r
    | (s1, false) => (s1, false)

/-- A count of arrivals (R300). -/
def countFault (n : BitVec 32) : Option LaneFault :=
  if n.toNat < 1 ∨ 1024 < n.toNat then some (operandFault opCOUNT (n.zeroExtend 64)) else none

/-- SHARR (R300): the arrival waits for its phase; it is a release at team scope. -/
def execSharr (f : SyF) (s : State) : Host.Outcome State Fault Refusal :=
  issue s (.sharr f) (leadBody fun s' c v n =>
    let rn := f.d.toNat
    let r := (s'.teamOf c.wk).ringOf rn
    match slotOf r v, countFault n with
    | .error e, _ => (s', allFault c e)
    | .ok _, some e => (s', allFault c e)
    | .ok (j, ph), none =>
      if r.phase j ≠ ph then (s', [])
      else
        match settleLanes s' c.wk c.active with
        | (s1, false) => (s1, [])
        | (s1, true) => (s1.arrive (s1.warp c.wk).team rn j n.toNat, allOk c {}))

/-- SHARR with INIT 1 (R300). -/
def execSharrInit (f : SyF) (s : State) : Host.Outcome State Fault Refusal :=
  issue s (.sharrInit f) (leadBody fun s' c d n =>
    if d.toNat < 1 ∨ 16 < d.toNat then (s', allFault c (operandFault opSLOT (d.zeroExtend 64)))
    else
      match countFault n with
      | some e => (s', allFault c e)
      | none =>
        (s'.modTeam (s'.warp c.wk).team fun t => t.setRing f.d.toNat (Ring.init d.toNat n.toNat), allOk c {}))

/-- SHWAIT (R301). -/
def execShwait (f : SyF) (s : State) : Host.Outcome State Fault Refusal :=
  issue s (.shwait f) (fun s' c =>
    match leadRead s' c c.g.fs.a c.g.fs.btA with
    | .block => (s', [])
    | .bad e => (s', allFault c e)
    | .ok w =>
      let r := (s'.teamOf c.wk).ringOf f.d.toNat
      match slotOf r (lo32 w) with
      | .error e => (s', allFault c e)
      | .ok (j, ph) => if r.phase j = ph then (s', []) else (s', allOk c {}))

/-! ### CWAIT and MWAIT (R295, R296) -/

/-- CWAIT (R295). -/
def execCwait (f : SyF) (s : State) : Host.Outcome State Fault Refusal :=
  issue s (.cwait f) (fun s' c =>
    if (s'.warp c.wk).counter f.ci.toNat ≤ f.d.toNat % 32 then (s', allOk c {}) else (s', []))

/-- The read of MWAIT (R296): at the point of coherence of its scope; the satisfying read alone is an acquire. -/
def mwaitAct (wk l n scope : Nat) (least : Word) (s : State) (h : Who) (p : Place) : Acc (Tried Word) :=
  thenOwn s wk l p.addr n fun s0 =>
    (acqGet s0 h p.key p.addr n scope).bind fun s1 b =>
      match b with
      | none => .ok s1 none
      | some (bs, _) =>
        let o := openRead s1 wk p bs
        let v : Word := BitVec.ofNat 64 (ofBytes o.2)
        if v.toNat < least.toNat then .ok o.1 none else thenAcquire o.1 h scope v

/-- Note when an MWAIT that must wait has read its words (R296). -/
def noteWait (b : Body) : Body := fun s c =>
  let r := b s c
  let now := (s.core (wkCore c.wk)).cycle.toNat
  let waits := c.lanes.any fun l => (tfind r.2 l).isNone
  (r.1.modWarp c.wk fun w => { w with mwait := if waits then tset w.mwait c.path now else tdel w.mwait c.path }, r.2)

/-- MWAIT (R296). -/
def execMwait (f : SyF) (s : State) : Host.Outcome State Fault Refusal :=
  issue s (.mwait f) (noteWait (seqBody fun s' c l x =>
    let n := if f.sub.getLsbD 0 then 8 else 4
    let off : Int := offOf x.av.bits + x.bv.bits.toInt
    laneOut (laneTry s' c.wk l x.av off n [rR] n 9 (mwaitAct c.wk l n f.scope.toNat x.cv.bits)) fun s1 v => (s1, res v)))

/-- The instruction that an open bundle issues next. -/
def Bundle.nextWord (b : Bundle) : Option Word := b.words[b.idx]?

/-- Whether an open bundle stands at an MWAIT. -/
def Bundle.atMwait (b : Bundle) : Bool := match b.nextWord.bind decodeShape with | some (.mwait _) => true | _ => false

/-- MWAIT_REREAD (R296): a bundle blocked at MWAIT reads its words again. -/
def execMwaitReread (wk path : Nat) (s : State) : Host.Outcome State Fault Refusal :=
  match (s.warp wk).path path with
  | none => .next s
  | some b =>
    if b.atMwait then .next (s.modWarp wk fun w => w.setPath path (some { b with blocked := none })) else .next s

/-! ### Host calls (R310, R311, R365) -/

/-- The host-call slot of a lane within its core. -/
def callKey (wk l : Nat) : Nat := 32 * wkSlot wk + l

/-- The address of a slot of a core (R310, R365): in the memory of the attached host, under its agent id where 40 bits hold the
host-physical address, else above every agent's. -/
def callAddr (s : State) (core key : Nat) : Nat :=
  let p := s.pkg.hcbase.toNat * 2 ^ 23 + 128 * (2048 * core + key)
  if p < 2 ^ 40 then s.pkg.host.getD 2000 * 2 ^ 40 + p else 2 ^ 51 + p

/-- The next call number: modulo 2^32, skipping 0 (R310). -/
def nextSeq (n : BitVec 32) : BitVec 32 := if n + 1 = 0 then 1 else n + 1

/-- dw0 to dw7 of the call half (R310). -/
def callWords (s : State) (wk : Nat) (seq : BitVec 32) (nb : Bool) (a b : Word) (func : BitVec 32) : List Word :=
  let t := s.teamOf wk
  [BitVec.ofNat 64 (seq.toNat * 2 ^ 32 + bits func 15 0 * 2 ^ 16 + if nb then 2 else 1), a, b,
   BitVec.ofNat 64 (t.grid.toNat * 2 ^ 32 + t.index.toNat), 0, 0, 0, 0]

/-- What a lane's call waits for (R311): its slot free, the release at system scope, ownership of the call half. -/
def callReady (s : State) (wk l : Nat) : State × Tried Unit :=
  if (tfind (s.core (wkCore wk)).hcalls (callKey wk l)).isSome then (s, none)
  else
    let h := whoLane s wk l
    runTry s h fun st => thenRelease st h wk l 3 fun s1 =>
      (ownHalf s1 (callAddr s1 h.core (callKey wk l) / 64) true).bind fun s2 _ => .ok s2 (some (.ok ()))

/-- Write a half that the package owns. -/
def putHalf (s : State) (half o : Nat) (bs : List Byte) : State :=
  match tfind s.halves half with
  | some x => { s with halves := tset s.halves half { x with bytes := splice x.bytes o bs } }
  | none => s

/-- Make the call: write the slot, note the call, and set ESCAPED (R74). -/
def startCall (s : State) (wk l : Nat) (nb : Option Nat) (isNb : Bool) (defer : Option Nat) (x : Srcs) : State :=
  let core := wkCore wk
  let key := callKey wk l
  let seq := tget (s.core core).hseq key 1
  let dws := callWords s wk seq isNb x.av.bits x.bv.bits (lo32 x.cv.bits)
  let s1 := putHalf s (callAddr s core key / 64) 0 (dws.flatMap fun w => bytesLE 8 w.toNat)
  let call : HCall :=
    { seq := seq, wk := wk, lane := l, nb := nb, defer := defer, deadline := s.usec + (s.warp wk).tout.toNat
      since := (s.core core).cycle.toNat }
  (s1.modCore core fun c =>
    { c with hseq := tput c.hseq key (nextSeq seq) 1, hcalls := tset c.hcalls key call }).escape (s.warp wk).team

/-- The fault of a call while no host-call area is configured, or of one whose request fails. -/
def callFault (r : RemoteFail) : LaneOut := .fault (flt .remote r.sub)

/-- HCALL (R311): the destination pair becomes EMPTY until the reply. -/
def execHcall (f : SyF) (s : State) : Host.Outcome State Fault Refusal :=
  issue s (.hcall f) (seqBody fun s' c l x =>
    if !s'.pkg.hcv then (s', some (callFault .timeout))
    else if anyEmpty s' c.wk l (regRange (f.d.toNat - 0x40) 2) then (s', none)
    else
      match callReady s' c.wk l with
      | (s1, none) => (s1, none)
      | (s1, some (.error e)) => (s1, some (callFault e))
      | (s1, some (.ok ())) =>
        let d : Defer :=
          { id := s1.uid, wk := c.wk, lane := l, frame := (s1.lane c.wk l).frame, reg := f.d.toNat - 0x40
            kind := .host (callKey c.wk l), realm := 0, obj := 0, pub := false, addr := 0, base := 0, cmd := none, dead := false
            undef := false }
        let r := addDefer s1 c.path d
        (startCall r.1 c.wk l none false (some r.2.id) x, some done))

/-- The lanes of an HCALL.NB as they become ready: those ready, the faults of others, and whether any must wait. -/
def callsReady (s : State) (wk : Nat) : List (Nat × Except LaneFault Srcs) →
    State × List (Nat × Srcs) × List (Nat × LaneOut) × Bool
  | [] => (s, [], [], false)
  | (l, .error e) :: r => let t := callsReady s wk r; (t.1, t.2.1, (l, .fault e) :: t.2.2.1, t.2.2.2)
  | (l, .ok x) :: r =>
    match callReady s wk l with
    | (s1, none) => let t := callsReady s1 wk r; (t.1, t.2.1, t.2.2.1, true)
    | (s1, some (.error e)) => let t := callsReady s1 wk r; (t.1, t.2.1, (l, callFault e) :: t.2.2.1, t.2.2.2)
    | (s1, some (.ok ())) => let t := callsReady s1 wk r; (t.1, (l, x) :: t.2.1, t.2.2.1, t.2.2.2)

/-- HCALL.NB (R311): the calls of its lanes are made together, on one counter. -/
def execHcallNb (f : SyF) (s : State) : Host.Outcome State Fault Refusal :=
  issue s (.hcallNb f) (fun s' c =>
    if !s'.pkg.hcv then (s', c.lanes.map fun l => (l, callFault .timeout))
    else if f.cv && !counterFree s' c.wk f.ci.toNat then (s', [])
    else
      match readLanes s' c c.lanes with
      | .ok xs =>
        let r := callsReady s' c.wk xs
        if r.2.2.2 then (r.1, r.2.2.1)
        else if r.2.1.isEmpty then (r.1, r.2.2.1)
        else
          let id := r.1.uid
          let s1 := { r.1 with uid := id + 1 }
          let s2 := if f.cv then counterIssue s1 c.wk f.ci.toNat id else s1
          let tag := if f.cv then id * 8 + f.ci.toNat + 1 else 0
          (r.2.1.foldl (fun st e => startCall st c.wk e.1 (some tag) true none e.2) s2,
            r.2.2.1 ++ r.2.1.map fun e => (e.1, done))
      | _ => (s', []))

/-- A call is over: its slot is free; the counter of a non-blocking instruction is decremented with its last call. -/
def endCall (s : State) (core key : Nat) (k : HCall) : State :=
  let s1 := s.modCore core fun c => { c with hcalls := tdel c.hcalls key }
  match k.nb with
  | some (t + 1) =>
    if (s1.core core).hcalls.any fun e => e.2.nb == some (t + 1) then s1 else counterDone s1 k.wk (t % 8) (t / 8)
  | _ => s1

/-- Deliver to the registers of a blocking call (R311). -/
def deliverCall (s : State) (k : HCall) (r : Except RemoteFail (Word × Word)) : State :=
  match k.defer.bind fun id => s.defers.find? fun d => d.id == id with
  | some d => endDefer s d r
  | none => s

/-- The monitor of a core, at one slot, as a party that waits. -/
def monitorWho (s : State) (core key : Nat) : Who := ⟨core, .core (core + 64 * (16 + key)), (s.core core).tdef.toNat⟩

/-- HCALL_REPLY (R311): the monitor reads dw8 and dw9 with an acquire at system scope; a sequence number that matches ends the
call. -/
def execHcallReply (slot : Nat) (s : State) : Host.Outcome State Fault Refusal :=
  let core := slot / 2048
  let key := slot % 2048
  match tfind (s.core core).hcalls key with
  | none => .next s
  | some k =>
    let h := monitorWho s core key
    match runTry s h fun st => (pocDwords st (callAddr st core key + 64) 2).bind fun s1 d =>
        if bits (d.getD 0 0) 63 32 = k.seq.toNat then thenAcquire s1 h 3 (some (d.getD 1 0)) else .ok s1 (some (.ok none)) with
    | (s1, some (.ok (some v))) => .next (endCall (deliverCall s1 k (.ok (v, 0))) core key k).wake
    | (s1, _) => .next s1

/-- HCALL_TIMEOUT (R311): dw0 is written again with KIND 00; then the destination is FAULTED, or the lane takes an asynchronous
fault. -/
def execHcallTimeout (slot : Nat) (s : State) : Host.Outcome State Fault Refusal :=
  let core := slot / 2048
  let key := slot % 2048
  match tfind (s.core core).hcalls key with
  | none => .next s
  | some k =>
    if s.usec < k.deadline then .next s
    else
      let h := monitorWho s core key
      let half := callAddr s core key / 64
      match runTry s h fun st => (ownHalf st half false).bind fun s1 _ => .ok s1 (some (.ok ())) with
      | (s1, none) => .next s1
      | (s1, some r) =>
        let dw0 := match tfind s1.halves half with | some x => ofBytes (x.bytes.take 8) | none => 0
        let s2 := match r with | .ok _ => putHalf s1 half 0 (bytesLE 8 (dw0 / 4 * 4)) | .error _ => s1
        let s3 := match k.nb with
          | some _ => asyncFault s2 k.wk { lane := k.lane, cause := .remote, sub := 3, sherr := false }
          | none => deliverCall s2 k (.error .timeout)
        .next (endCall s3 core key k).wake

/-- MONITOR_REREAD (R365): the reply half is read again. -/
def execMonitorReread (slot : Nat) (s : State) : Host.Outcome State Fault Refusal :=
  let core := slot / 2048
  let key := slot % 2048
  match tfind (s.core core).hcalls key with
  | none => .next s
  | some k =>
    let s1 := (runAcc s (monitorWho s core key) fun st => pocRead st (callAddr st core key + 64) 8).1
    .next (s1.modCore core fun c =>
      { c with hcalls := tset c.hcalls key { k with since := c.cycle.toNat } })

/-! ### UINTR (R312) -/

/-- Post a user interrupt to a live team (R312, R401): the status, and the queue of the team. `realm` confines the search to a
realm. -/
def postUintr (s : State) (handle : BitVec 32) (realm : Option Nat) (src datum : BitVec 32) : State × Nat :=
  if bits handle 31 21 ≠ s.pkg.agent then (s, 1)
  else
    match s.teams.find? fun e => e.2.handle == handle && (match realm with | some r => e.2.realm == r | none => true) with
    | none => (s, 1)
    | some (tk, t) =>
      if 8 ≤ t.uiq.length then (s, 2) else (s.setTeam tk { t with uiq := t.uiq ++ [(src, datum)] }, 0)

/-- UINTR (R312): each lane releases at package scope, then posts. -/
def execUintr (f : SyF) (s : State) : Host.Outcome State Fault Refusal :=
  issue s (.uintr f) (orderedBody fun s' c l x =>
    let h := whoLane s' c.wk l
    match runTry s' h fun st => thenRelease st h c.wk l 1 fun s1 => .ok s1 (some (.ok ())) with
    | (s1, none) => (s1, none)
    | (s1, some (.error e)) => (s1, some (callFault e))
    | (s1, some (.ok ())) =>
      let t := s1.teamOf c.wk
      let r := postUintr s1 (lo32 x.av.bits) (some t.realm) t.handle (lo32 x.bv.bits)
      (r.1.escape (s1.warp c.wk).team, some (res (BitVec.ofNat 64 r.2))))

end Sys2Proof.Machine
end

