-- ==== Sys2Proof/Machine/TrapInstr.lean ====
section
/-! DEFINITION. Group 13 (R375–R381): SRD, SWR, TRAP, TFENCE, RFT, PARK, CLRPSN; and the events ASYNC_TRAP, WARP_PARKED, RESUME,
FORWARD and KILL (R259, R373, R386, R406). -/

namespace Sys2Proof.Machine

/-! ### Control registers (R375) -/

/-- The header dwords of a trap record (R371). -/
def TrapRec.dw (r : TrapRec) (n : Nat) : Word :=
  match n with
  | 0 => BitVec.ofNat 64 (b2n r.v * 2 ^ 63 + b2n r.async * 2 ^ 62 + b2n r.nest * 2 ^ 61 + b2n r.pk * 2 ^ 60
      + r.cause.toNat * 2 ^ 52 + r.sub.toNat * 2 ^ 44 + r.opc.toNat * 2 ^ 32 + r.lmask.toNat)
  | 1 => r.hdr
  | 2 => BitVec.ofNat 64 (r.idx.toNat * 2 ^ 48 + r.clane.toNat * 2 ^ 40 + r.fid.toNat)
  | 3 => BitVec.ofNat 64 (r.ncause.toNat * 2 ^ 52 + r.nsub.toNat * 2 ^ 44 + r.nidx.toNat)
  | 4 => r.nhdr
  | 5 => r.usrc ++ r.udat
  | _ => 0

/-- The two dwords of a lane's trap entry (R371). -/
def TrapLane.dw (t : TrapLane) (n : Nat) : Word := if n = 0 then t.opv else t.reg ++ 0#16 ++ t.eoff

/-- A lane's trap entry. -/
def Warp.tlane (w : Warp) (l : Nat) : TrapLane := tget w.tlanes l {}

/-- SHERR as a word (R260). -/
def ShErr.word (e : ShErr) : Word :=
  BitVec.ofNat 64 (b2n e.v * 2 ^ 63 + b2n e.ovf * 2 ^ 62 + e.minor.toNat * 2 ^ 56 + e.cause.toNat * 2 ^ 52 + e.sub.toNat * 2 ^ 44
    + e.elem.toNat * 2 ^ 12 + b2n e.k * 2 ^ 11 + b2n e.cv * 2 ^ 10 + e.ci.toNat)

/-- UIMASK as a word (R399). -/
def Team.uimask (t : Team) : Word := BitVec.ofNat 64 (t.uiq.length * 2 ^ 16 + t.uiwarp.toNat * 2 ^ 8 + b2n t.uien)

/-- The value of a control register in one lane. -/
def crnRead (s : State) (wk l crn : Nat) : Word :=
  let w := s.warp wk
  let t := s.team w.team
  let ln := s.lane wk l
  let c := s.core (wkCore wk)
  match crn with
  | 0x00 => ln.flags.zeroExtend 64
  | 0x01 => t.tmask.zeroExtend 64
  | 0x02 => w.hbase
  | 0x03 => ln.rpc.word
  | 0x04 => ln.rix.zeroExtend 64
  | 0x10 => (w.tlane l).dw 0
  | 0x11 => (w.tlane l).dw 1
  | 0x20 => BitVec.ofNat 64 (b2n t.imp)
  | 0x21 => w.slip.zeroExtend 64
  | 0x22 => w.bankc.zeroExtend 64
  | 0x23 => w.uni ++ w.dlt
  | 0x24 => w.sherr.word
  | 0x25 => w.tout.zeroExtend 64
  | 0x26 => BitVec.ofNat 64 ((s.part (wkPk wk)).reqs.length % 1024 * 2 ^ 16 + s.freeGran (wkPk wk))
  | 0x27 => t.tot ++ t.done
  | 0x28 => t.uimask
  | 0x30 => c.ocbase
  | 0x31 => c.world.zeroExtend 64
  | n => w.trec.dw (n - 8)

/-- A value of TOUT or TDEF as it is stored (R361). -/
def clampUsec (v : Word) : BitVec 20 := let n := bits v 19 0; if n < 10 then 10 else if 1000000 < n then 1000000 else BitVec.ofNat 20 n

/-- Write a control register from one lane (R376): W1C fields clear; RO and reserved fields are unchanged. -/
def crnWrite (s : State) (wk l crn : Nat) (v : Word) : State :=
  let tk := (s.warp wk).team
  match crn with
  | 0x00 => s.modLane wk l fun ln => { ln with flags := ln.flags &&& ~~~(v.truncate 7) }
  | 0x01 => s.modTeam tk fun t => { t with tmask := v.truncate 7 }
  | 0x02 => s.modWarp wk fun w => { w with hbase := v }
  | 0x03 => s.modLane wk l fun ln => { ln with rpc := pcOf v }
  | 0x04 => s.modLane wk l fun ln => { ln with rix := v.truncate 4 }
  | 0x20 => s.modTeam tk fun t => { t with imp := v.getLsbD 0 }
  | 0x21 => s.modWarp wk fun w => { w with slip := v.truncate 48 }
  | 0x22 => s.modWarp wk fun w => { w with bankc := v.truncate 48 }
  | 0x23 => s.modWarp wk fun w => { w with uni := v.extractLsb' 32 32, dlt := v.truncate 32 }
  | 0x24 => s.modWarp wk fun w =>
      { w with sherr := { w.sherr with v := w.sherr.v && !v.getLsbD 63, ovf := w.sherr.ovf && !v.getLsbD 62 } }
  | 0x25 => s.modWarp wk fun w => { w with tout := clampUsec v }
  | 0x27 => s.modTeam tk fun t => { t with tot := v.extractLsb' 32 32, done := v.truncate 32 }
  | 0x28 => s.modTeam tk fun t =>
      { t with uien := v.getLsbD 0, uiwarp := if bits v 12 8 < t.wpt then v.extractLsb' 8 5 else t.uiwarp }
  | _ => s

/-- The number of the control register that SRD or SWR names. -/
def crnOf (f : BaseF) : Nat := bits f.md 7 0

/-- Registers that only a lane in a handler may use (R376). -/
def handlerOnly (crn : Nat) : Bool := crn == 3 || crn == 4 || (8 ≤ crn && crn ≤ 0x11)

/-- SRD (R376). -/
def execSrd (f : BaseF) (s : State) : Host.Outcome State Fault Refusal :=
  issue s (.srd f) (aluBody fun s' c l _ =>
    if handlerOnly (crnOf f) && !(s'.lane c.wk l).h then .fault (operandFault opNOTRAP 0)
    else res (crnRead s' c.wk l (crnOf f)))

/-- SWR (R376): lanes write in ascending order. -/
def execSwr (f : BaseF) (s : State) : Host.Outcome State Fault Refusal :=
  issue s (.swr f) (seqBody fun s' c l x =>
    let v := x.av.bits
    if handlerOnly (crnOf f) && !(s'.lane c.wk l).h then (s', some (.fault (operandFault opNOTRAP 0)))
    else if crnOf f = 3 && bits v 2 0 != 0 then (s', some (.fault (operandFault opTARGET v)))
    else (crnWrite s' c.wk l (crnOf f) v, some done))

/-! ### Trap-class instructions -/

/-- TRAP (R377). -/
def execTrap (f : BaseF) (s : State) : Host.Outcome State Fault Refusal :=
  issue s (.trap f) (fun s' c => (s', allFault c (flt .software (f.md.truncate 8))))

/-- TFENCE (R378): ARITH with the enabled flags. -/
def execTfence (f : BaseF) (s : State) : Host.Outcome State Fault Refusal :=
  issue s (.tfence f) (aluBody fun s' c l _ =>
    let m := (s'.lane c.wk l).flags &&& (s'.teamOf c.wk).tmask
    if m = 0 then done else .fault (flt .arith (m.zeroExtend 8)))

/-- RFT in one lane (R379): back to its resume point, or it exits. -/
def rftLane (wk : Nat) (m : BitVec 32) (s : State) (l : Nat) : State :=
  if !(s.lane wk l).h then s
  else
    let s1 := s.modLane wk l fun ln => { ln with h := false, pv := false }
    if m.getLsbD l then resumeLane s1 wk l else exitLane s1 wk l

/-- RFT (R379): the mask is read in the lowest-numbered active lane; the trap may end, and a barrier phase may complete. -/
def execRft (f : BaseF) (s : State) : Host.Outcome State Fault Refusal :=
  issue s (.rft f) (fun s' c =>
    match leadRead s' c c.g.fs.a c.g.fs.btA with
    | .block => (s', [])
    | .bad e => (s', allFault c e)
    | .ok v =>
      let s1 := c.lanes.foldl (rftLane c.wk (lo32 v)) s'
      (settleBarrier (settleV s1 c.wk) (s'.warp c.wk).team, c.lanes.map fun l => (l,
        if (s'.lane c.wk l).h then .ok { next := .left } else .fault (operandFault opNOTRAP 0))))

/-- PARK (R380). -/
def execPark (f : BaseF) (s : State) : Host.Outcome State Fault Refusal :=
  issue s (.park f) (fun s' c => (s', allFault c (flt .software (f.md.truncate 8))))

/-- The line's poison is cleared at its home (R381): at once for a local line; a remote home answers (log 16); a host-homed line
is never P. -/
def clrpLine (s : State) (h : Who) (line : Nat) : Acc Unit :=
  let g := agentOf line
  if isHost g then .ok s ()
  else if g = s.pkg.agent then .ok (if s.dir (localOf line) = 3 then s.setDir (localOf line) 0 else s) ()
  else if s.transit.any fun t => t.who == h.who && t.line == line then .ok s ()
  else if s.reaches g then .need .clrp line else .bad .poison

/-- The same for the line of a checked access. -/
def clrpAct (s : State) (h : Who) (p : Place) : Acc Unit := clrpLine s h (p.addr / 128)

/-- CLRPSN (R381). -/
def execClrpsn (f : BaseF) (s : State) : Host.Outcome State Fault Refusal :=
  issue s (.clrpsn f) (seqBody fun s' c l x =>
    let off := offOf x.av.bits
    match laneAccess s' c.wk l x.av off 128 [rW] 0 7 (fun st _ _ => .ok st ()) with
    | (s1, none) => (s1, none)
    | (s1, some (.error e)) => (s1, some (.fault e))
    | (s1, some (.ok ())) =>
      if off % 128 ≠ 0 then (s1, some (.fault (refFault .memory memALIGN x.av.bits off)))
      else laneOut (laneAccess s1 c.wk l x.av off 128 [rW] 0 9 clrpAct) fun s2 _ => (s2, done))

/-! ### Asynchronous traps and parking -/

/-- Whether a warp has no open bundle. -/
def Warp.closed (w : Warp) : Bool := w.path0.isNone && w.path1.isNone

/-- Whether a lane is in an open bundle of its warp. -/
def Warp.inBundle (w : Warp) (l : Nat) : Bool :=
  [w.path0, w.path1].any fun o => match o with | some b => b.lanes.getLsbD l | none => false

/-- Whether a lane stands at a clause boundary (R370, R374): in no open bundle, at a header, running or waiting there for the refill of its
frame. -/
def atBoundary (s : State) (wk l : Nat) : Bool :=
  let ln := s.lane wk l
  !(s.warp wk).inBundle l && ln.cix == 0 && (ln.st == .run || ln.st == .blocked .frame && !(s.frameOf wk l).isRes)

/-- The asynchronous fault that a warp takes next: its command lane stands at a boundary; of one that has exited none is taken (R259). -/
def nextAsync (s : State) (wk : Nat) : Option AsyncFault := (s.warp wk).asyncs.find? fun a => atBoundary s wk a.lane

/-- ASYNC_TRAP (R259, R370, R371): at a clause boundary of the command lane, with V 0; the lane is PARKED there, and its entry holds the
reference and the offset of the access that has failed. -/
def execAsyncTrap (wk : Nat) (s : State) : Host.Outcome State Fault Refusal :=
  match nextAsync s wk with
  | none => .next s
  | some a =>
    let w := s.warp wk
    let ln := s.lane wk a.lane
    if w.trec.v || !w.mayRun then .next s
    else
      let s1 := s.modWarp wk fun x =>
        { x with asyncs := x.asyncs.erase a
                 sherr := if a.sherr && !(x.asyncs.erase a).any (·.sherr) then { x.sherr with taken := true } else x.sherr }
      let s2 := takeTrap s1 wk [a.lane] a.cause a.sub ⟨ln.pc, 0, 0, ln.pc, 0⟩ true false a.lane 0 0
        [(a.lane, { opv := a.opv, eoff := a.eoff })] true
      .next s2.wake

/-- WARP_PARKED (R373, R382): P and the notification, once the last bundle has closed. -/
def execWarpParked (wk : Nat) (s : State) : Host.Outcome State Fault Refusal :=
  let w := s.warp wk
  if !w.parking || !w.closed then .next s
  else
    let s1 := s.modWarp wk fun x => { x with parking := false, parked := true, prun := false, note := true }
    .next (s1.modCore (wkCore wk) fun c =>
      { c with page := { c.page with pend := c.page.pend ||| (1#64 <<< wkSlot wk) } }).wake

/-! ### Commands of the supervisor core (R386) -/

/-- Whether a warp may be commanded: its P is 1, also while it parks again (R386). -/
def commandable (s : State) (wk : Nat) : Bool := (tfind s.warps wk).isSome && (s.warp wk).parked

/-- Any command clears NOTE and the warp's PEND bit. -/
def clearNote (s : State) (wk : Nat) : State :=
  (s.modWarp wk fun w => { w with note := false }).modCore (wkCore wk) fun c =>
    { c with page := { c.page with pend := c.page.pend &&& ~~~(1#64 <<< wkSlot wk) } }

/-- LMASK lanes that are PARKED. -/
def trapped (s : State) (wk : Nat) : List Nat :=
  (upto 32).filter fun l => (s.warp wk).trec.lmask.getLsbD l && (s.lane wk l).st == .parked false

/-- What RESUME does (R386). -/
def resumeCmd (s : State) (wk : Nat) (mask : BitVec 32) : State :=
  if !commandable s wk then s
  else
    let nest := (s.warp wk).trec.nest
    let lm := (s.warp wk).trec.lmask
    let s1 := clearNote s wk
    let go (st : State) (l : Nat) : State := st.modLane wk l fun ln => { ln with st := .run }
    let s2 := (upto 32).foldl (fun st l =>
      if (st.lane wk l).st = .parked false && !lm.getLsbD l then go st l else st) s1
    let s3 := (trapped s2 wk).foldl (fun st l =>
      if mask.getLsbD l then (if nest then go st l else resumeLane st wk l) else st) s2
    if (trapped s3 wk).isEmpty then
      let s4 := s3.modWarp wk fun w => { w with parked := false, prun := false, trec := { w.trec with nest := false } }
      (settleV s4 wk).wake
    else
      let s4 := s3.modWarp wk fun w => { w with prun := true, note := true }
      (s4.modCore (wkCore wk) fun c =>
        { c with page := { c.page with pend := c.page.pend ||| (1#64 <<< wkSlot wk) } }).wake

/-- RESUME (R386). -/
def execResume (wk : Nat) (mask : BitVec 32) (s : State) : Host.Outcome State Fault Refusal := .next (resumeCmd s wk mask)

/-- The cause that a record holds. -/
def causeOf (n : Nat) : Cause :=
  match n with
  | 0 => .illegal | 1 => .operand | 2 => .memory | 3 => .escape | 4 => .arith | 5 => .frame | 6 => .remote
  | 7 => .deferred | 8 => .software | 9 => .userint | _ => .debug

/-- What FORWARD does (R386, R387). -/
def forwardCmd (s : State) (wk : Nat) (prv : Bool) : State :=
  if !commandable s wk || (s.warp wk).trec.nest then s
  else
    let lm := (s.warp wk).trec.lmask
    let s1 := clearNote s wk
    let s2 := (upto 32).foldl (fun st l =>
      if (st.lane wk l).st = .parked false && !lm.getLsbD l then st.modLane wk l fun ln => { ln with st := .run } else st) s1
    let s3 := enterHandler s2 wk (trapped s2 wk) (causeOf (s.warp wk).trec.cause.toNat) prv
    (s3.modWarp wk fun w => { w with parked := false, prun := false }).wake

/-- FORWARD (R386, R387). -/
def execForward (wk : Nat) (prv : Bool) (s : State) : Host.Outcome State Fault Refusal := .next (forwardCmd s wk prv)

/-- End one warp of a killed team (R406): its bundles, waiting lanes and parking go, and every lane exits. -/
def killWarp (s : State) (wk : Nat) : State :=
  let s1 := (clearNote s wk).modWarp wk fun w =>
    { w with path0 := none, path1 := none, parked := false, parking := false, prun := false
             trec := { w.trec with v := false, nest := false } }
  let s2 := s1.modPart (wkPk wk) fun p => { p with reqs := p.reqs.filter fun r => r.wk != wk }
  (upto 32).foldl (fun st l => exitLane (st.unwait (.lane wk l)) wk l) s2

/-- A team ends (R406): it retires under R404 and is counted as killed. A saved team leaves the queue that holds it. -/
def killTeam (s : State) (tk : Nat) : State :=
  let s1 := (s.teamWarps tk).foldl killWarp s
  let saved := (s1.team tk).phase == .saved
  let s2 := s1.modTeam tk fun t => { t with killed := true, barr := [], phase := if saved then .running else t.phase }
  let drop (q : List Run) : List Run := q.filter fun r => r.saved != some tk
  { s2 with
    frames := if saved then s2.frames.filter fun e => e.2.wk < limboWk tk 0 || limboWk tk 64 ≤ e.2.wk else s2.frames
    cores := s2.cores.map fun (e : Nat × Core) => (e.1, { e.2 with queue := drop e.2.queue })
    back := s2.back.filter fun e => e.2.saved != some tk }

/-- What KILL does (R386, R406). -/
def killCmd (s : State) (wk : Nat) : State := if !commandable s wk then s else (killTeam s (s.warp wk).team).wake

/-- KILL (R386, R406). -/
def execKill (wk : Nat) (s : State) : Host.Outcome State Fault Refusal := .next (killCmd s wk)

end Sys2Proof.Machine
end

