-- ==== Sys2Proof/Machine/Place.lean ====
section
/-! DEFINITION. Placement (R89–R101, R437): dealing, the core queues, stealing, the admission test, admission, and the choice
of a victim for a head team that does not fit (R389). -/

namespace Sys2Proof.Machine

/-! ### Queues (R90, R92) -/

/-- Enter a run at the tail of its class. -/
def queueTail (q : List Run) (r : Run) : List Run := q.filter (fun x => r.pri ≤ x.pri) ++ r :: q.filter fun x => x.pri < r.pri

/-- Enter a run at the head of its class. -/
def queueHead (q : List Run) (r : Run) : List Run := q.filter (fun x => r.pri < x.pri) ++ r :: q.filter fun x => x.pri ≤ r.pri

/-- A run has come to a core (R95): it is awake, and its idle loop starts afresh unless it awaits an answer. -/
def enqueue (s : State) (core : Nat) (r : Run) (head : Bool) : State :=
  s.modCore core fun c =>
    { c with queue := if head then queueHead c.queue r else queueTail c.queue r, asleep := false
             tries := if c.asked.isSome then c.tries else 0 }

/-- Wake every sleeping core (R91). -/
def wakeCores (s : State) : State :=
  (upto 32).foldl (fun st c => if (st.core c).asleep then st.modCore c fun x => { x with asleep := false, tries := 0 } else st) s

/-- Runs held in the dispatcher enter queues that have room again (R437). -/
def drainBack (s : State) : State :=
  s.back.foldl (fun st e =>
    if (st.core e.1).queue.length < 4160 then { enqueue st e.1 e.2 false with back := st.back.erase e } else st) s

/-! ### Dealing (R89) -/

/-- The core of a position. -/
def posCore (k : Nat) : Nat := 8 * (k % 4) + k / 4

/-- The cores of the positions that are eligible for a world, in order. -/
def eligible (s : State) (wld : Bool) : List Nat := ((upto 32).map posCore).filter fun c => (s.core c).admitsWld wld

/-- The teams k of a series of n that go to position m of p, starting at position g: the first, and how many. -/
def dealt (n p g m : Nat) : Nat × Nat :=
  let f := (m + p - g % p) % p
  (f, if f < n then (n - f + p - 1) / p else 0)

/-- Deal a series of teams over cores, as runs (R89, R437): team k of the series is index first + stride · k. -/
def dealRuns (s : State) (cores : List Nat) (g : Nat) (r : Run) : State :=
  let p := cores.length
  (cores.zip (upto p)).foldl (fun st e =>
    let d := dealt r.n p g e.2
    let run : Run := { r with first := r.first + r.stride * d.1, n := d.2, stride := r.stride * p }
    if d.2 = 0 then st
    else if (st.core e.1).queue.length < 4160 then enqueue st e.1 run false
    else { st with back := st.back ++ [(e.1, run)] }) s

/-- Teams that no core can take count as killed teams that have retired (R437). -/
def unplaced (s : State) (g : Grid) (n : Nat) : State :=
  s.setGrid { g with dealt := true, retired := g.retired + n, nkill := g.nkill + n }

/-- Deal a run of a grid over the positions that are eligible now. -/
def dealOut (s : State) (g : Grid) (r : Run) : State :=
  let cs := eligible s (dWld g.desc)
  if cs.isEmpty then unplaced s g r.n else dealRuns s cs (bits g.num 4 0) r

/-- Whether a grid is the next to be dealt: the first that became ready, the lowest number first of those that became ready in one cycle,
which has passed, so that all of them are known. -/
def dealsNext (s : State) (g : Grid) : Bool :=
  g.ready.getD 0 < dispCycle s && s.grids.all fun e => !e.2.isReady || e.2.dealt || e.2.count == some 0 || e.2.num == g.num
    || g.ready.getD 0 < e.2.ready.getD 0 || (g.ready == e.2.ready && g.num.toNat < e.2.num.toNat)

/-- DEAL (R89, R91). -/
def execDeal (grid : Nat) (s : State) : Host.Outcome State Fault Refusal :=
  match tfind s.grids grid with
  | none => .next s
  | some g =>
    match g.count with
    | some (n + 1) =>
      if !g.isReady || g.dealt || !dealsNext s g then .next s
      else
        let s1 := s.setGrid { g with dealt := true }
        let r : Run := { grid := g.num, pri := dPri g.desc, aff := dAff g.desc, first := 0, n := n + 1, stride := 1, saved := none }
        .next (wakeCores (dealOut s1 { g with dealt := true } r)).wake
    | _ => .next s

/-! ### Stealing (R95, R96) -/

/-- One step of xorshift (R95). -/
def xorshift (x : BitVec 32) : BitVec 32 :=
  let a := x ^^^ (x <<< 13)
  let b := a ^^^ (a >>> 17)
  b ^^^ (b <<< 5)

/-- Warp slots of a core that are free. -/
def freeSlots (s : State) (core : Nat) : Nat := 64 - (s.coreWarps core).length

/-- IDLE_STEAL (R95): an idle core draws a victim and sends a steal request; its own number is drawn again. -/
def execIdleSteal (core : Nat) (s : State) : Host.Outcome State Fault Refusal :=
  let c := s.core core
  if 32 ≤ core || c.offline || c.dying || !c.queue.isEmpty || freeSlots s core = 0 || c.asleep || c.asked.isSome || 4 ≤ c.tries
  then .next s
  else
    let x := xorshift c.xsh
    let v := x.toNat % 32
    .next (s.modCore core fun k => { k with xsh := x, asked := if v = core then none else some v }).wake

/-- Whether a run may go to a thief (R96, R437). -/
def permits (s : State) (victim thief : Nat) (r : Run) : Bool :=
  (match r.aff with | 0 => true | 1 => dieOf victim == dieOf thief | _ => false)
    && (match tfind s.grids r.grid.toNat with | some g => (s.core thief).admitsWld (dWld g.desc) | none => false)

/-- The run that a victim gives (R96): of the highest class, from its tail. -/
def pickSteal (s : State) (victim thief : Nat) : Option Run :=
  let rs := (s.core victim).queue.filter (permits s victim thief)
  match rs with
  | [] => none
  | r :: _ => (rs.filter fun x => x.pri == r.pri).getLast?

/-- STEAL_REQUEST (R93, R96): the victim answers with the upper half of a run, or NONE. -/
def execStealRequest (thief victim : Nat) (s : State) : Host.Outcome State Fault Refusal :=
  let c := s.core thief
  if c.asked ≠ some victim || c.answer.isSome then .next s
  else
    match pickSteal s victim thief with
    | none => .next (s.modCore thief fun k => { k with answer := some none }).wake
    | some r =>
      let m := max 1 (r.n / 2)
      let keep := { r with n := r.n - m }
      let give := { r with first := r.first + r.stride * (r.n - m), n := m }
      let s1 := s.modCore victim fun k =>
        { k with queue := if keep.n = 0 then k.queue.erase r else k.queue.map fun x => if x = r then keep else x }
      .next (drainBack (s1.modCore thief fun k => { k with answer := some (some give) })).wake

/-- STEAL_ANSWER (R95): the thief takes a run in, or has made one try more; after four it sleeps. With a run in its queue its loop has
ended, and the next starts afresh. -/
def execStealAnswer (core : Nat) (s : State) : Host.Outcome State Fault Refusal :=
  match (s.core core).answer with
  | none => .next s
  | some a =>
    let s1 := s.modCore core fun k =>
      { k with asked := none, answer := none, tries := if k.queue.isEmpty then k.tries + 1 else 0 }
    match a with
    | some r => .next (enqueue s1 core r false).wake
    | none => .next (if 4 ≤ (s1.core core).tries then s1.modCore core fun k => { k with asleep := true } else s1).wake

/-! ### The admission test (R97, R98) -/

/-- A head team that asks for admission: its grid's descriptor and number, its team index, the granules of each warp's frames,
and whether it still needs its pool slots. -/
structure Ask where
  d     : List Word
  grid  : Nat
  index : Nat
  gran  : List Nat
  slots : Bool
  deriving DecidableEq, Repr

/-- Teams resident on a core, but for one. -/
def residents (s : State) (core : Nat) (but : Option Nat) : List (Nat × Team) :=
  s.teams.filter fun e => e.2.core == core && e.2.phase != .saved && some e.1 != but

/-- Warps of a partition, but for those of one team. -/
def partWarps (s : State) (pk : Nat) (but : Option Nat) : List (Nat × Warp) :=
  s.warps.filter fun e => wkPk e.1 == pk && some e.2.team != but

/-- Free granules of a partition, with those of one team's frames. -/
def granFree (s : State) (pk : Nat) (but : Option Nat) : Nat :=
  s.freeGran pk + (((s.resFrames pk).filter fun e => some (s.warp e.2.wk).team == but).map fun e => granules e.2.demand).sum

/-- The base partition (R97): the most free warp slots, the lowest on a tie. -/
def basePart (s : State) (core : Nat) (but : Option Nat) : Nat :=
  let used (p : Nat) : Nat := (partWarps s (core * 4 + p) but).length
  (upto 4).foldl (fun b p => if used p < used b then p else b) 0

/-- Number of a team's warps that go to partition p. -/
def warpsAt (wpt base p : Nat) : Nat := ((upto wpt).filter fun w => (base + w) % 4 == p).length

/-- Tiles taken in a partition. -/
def tilesUsed (s : State) (core p : Nat) (but : Option Nat) : Nat :=
  ((residents s core but).map fun e => if (s.teamWarps e.1).any fun wk => wkPart wk == p then e.2.ntiles else 0).sum

/-- The frame rule over the warps of a team in order (R98): warps and free granules of each partition so far. -/
def frameRule (s : State) (core base gmax : Nat) (but : Option Nat) : List Nat → Nat → List Nat → List Nat → Bool
  | [], _, _, _ => true
  | g :: r, w, used, free =>
    let p := (base + w) % 4
    let top := (partWarps s (core * 4 + p) but).foldl (fun m e => max m (granules (s.team e.2.team).gfmax)) gmax
    let f := free.getD p 0
    let u := used.getD p 0
    (u + 1) * top ≤ f && frameRule s core base gmax but r (w + 1) (used.set p (u + 1)) (free.set p (f - g))

/-- Indices of a pool's slots that are free, taking a victim's own as free. -/
def slotFree (n : Nat) (used : List Nat) (own : Option Nat) : Bool := (used.filter fun i => some i != own).length < n

/-- The rows of R97 that fail, with one team's resources taken as freed: 0 warp slots, 1 tiles, 2 frames, 3 scratchpad,
4 spill slot, 5 arena slot. -/
def failRows (s : State) (core : Nat) (a : Ask) (but : Option Nat) : List Nat :=
  let b := basePart s core but
  let wpt := dWpt a.d
  let used := (upto 4).map fun p => (partWarps s (core * 4 + p) but).length
  let free := (upto 4).map fun p => granFree s (core * 4 + p) but
  let scr := ((residents s core but).map fun e => e.2.scrk).sum
  let own := (but.map fun tk => s.team tk).filter fun t => t.grid.toNat == a.grid
  let g := tfind s.grids a.grid
  let short (pool : Grid → Pool) (taken : Grid → List Nat) (ref : Word) (slot : Option PoolSlot) : Bool :=
    a.slots && ref != 0 && (match g with
      | some x => !slotFree (pool x).n (taken x) (slot.map fun sl => sl.idx)
      | none => true)
  (if (upto 4).any fun p => 16 < used.getD p 0 + warpsAt wpt b p then [0] else [])
    ++ (if (upto 4).any fun p => warpsAt wpt b p != 0 && 256 < tilesUsed s core p but + dTiles a.d then [1] else [])
    ++ (if frameRule s core b (granules (dFmax a.d)) but a.gran 0 used free then [] else [2])
    ++ (if 768 < scr + dScrk a.d then [3] else [])
    ++ (if short Grid.spill Grid.spillU (dSpill a.d) (own.bind fun t => t.spill) then [4] else [])
    ++ (if short Grid.arena Grid.arenaU (dArena a.d) (own.bind fun t => t.arena) then [5] else [])

/-! ### Pre-emption requests (R389, R390) -/

/-- Begin to quiesce a team (R390): bundles that have blocked try once more, and stop. -/
def startQuiesce (s : State) (core tk : Nat) (head : Option (Nat × Nat)) : State :=
  ((s.modTeam tk fun t => { t with phase := .quiescing }).modCore core fun c =>
    { c with preempt := some ⟨tk, head⟩ }).wake

/-- Whether freeing a team would help a head (R389). -/
def helps (s : State) (core : Nat) (a : Ask) (tk : Nat) : Bool :=
  let now := failRows s core a none
  let wo := failRows s core a (some tk)
  wo.isEmpty || now.any fun r => !wo.contains r

/-- Whether a team is skipped for a head (R389). -/
def skipped (s : State) (core tk : Nat) (a : Ask) : Bool :=
  (s.core core).skip.any fun e => e.1 == tk && e.2.1 == (a.grid, a.index) && (s.core core).cycle.toNat < e.2.2

/-- The victim for a head (R389): lowest priority, then most recently admitted. -/
def victimFor (s : State) (core : Nat) (a : Ask) : Option Nat :=
  let cands := (residents s core none).filter fun e => e.2.pri < dPri a.d && !skipped s core e.1 a && helps s core a e.1
  (cands.foldl (fun (b : Option (Nat × Team)) e =>
    match b with
    | none => some e
    | some x => if e.2.pri < x.2.pri || (e.2.pri == x.2.pri && x.2.order < e.2.order) then some e else b) none).map (·.1)

/-- A head that does not fit asks for pre-emption, unless one is in progress (R94, R389). -/
def askPreempt (s : State) (core : Nat) (a : Ask) : State :=
  if (s.core core).preempt.isSome then s
  else match victimFor s core a with
    | none => s
    | some tk => startQuiesce s core tk (some (a.grid, a.index))

/-! ### Admission (R99, R73) -/

/-- The lowest free warp slot of a partition, as a warp key. DESIGN CHOICE (log 94): R99 does not say which free slot a warp takes. -/
def freeWk (s : State) (core p : Nat) : Nat := freshFrom (s.warps.map (·.1)) 16 (core * 64 + p * 16)

/-- Role of a code (R71). -/
def roleOf (n : Nat) : Role := match n with | 0 => .gen | 1 => .copy | 2 => .matrix | _ => .vector

/-- A lane in the entry state (R73). -/
def entryLane (d : List Word) (fk : Nat) : Lane :=
  { Lane.idle with
    pc := pcOf (dEntry d), frame := fk, st := .run
    g := if dArgs d = 0 then [] else [(0, ⟨dArgs d, true⟩)] }

/-- Put one warp of a team into its slot, with its entry frame and its lanes (R73, R99). -/
def placeWarp (d : List Word) (core base tk : Nat) (s : State) (w : Nat) : State :=
  let p := (base + w) % 4
  let wk := freeWk s core p
  let now := (s.core core).cycle.toNat
  let fk := s.uid
  let wp : Warp :=
    { Warp.idle with team := tk, wix := w, role := roleOf (dRole d w), hbase := dHbase d, tout := (s.core core).tdef
                     stamp := now, since := now }
  let f : Frame :=
    { wk := wk, demand := dEfd d, depth := 0, rpc := ⟨0, 0⟩, caller := none, lset := BitVec.allOnes 32
      rem := BitVec.allOnes 32, loc := .resident (s.freeFid (core * 4 + p)), regs := [], ptags := [], listed := none }
  let s1 := { s with uid := fk + 1, warps := tset s.warps wk wp, frames := tset s.frames fk f }
  (upto 32).foldl (fun st l => st.setLane wk l (entryLane d fk)) s1

/-- Take a slot of a pool (R66): none that a team of the grid has retired from (`spent`) while there is another (R414, R417). DESIGN CHOICE
(log 94): of those the lowest. -/
def takeSlot (p : Pool) (used spent : List Nat) (ref : Word) (size : Nat) : Option PoolSlot × List Nat :=
  if ref = 0 then (none, used)
  else
    let had := used ++ spent
    let new := freshFrom had (had.length + 1) 0
    let i := if new < p.n then new else freshFrom used (used.length + 1) 0
    (some ⟨p.obj, p.off + i * size, size, i⟩, used ++ [i])

/-- A team handle (R19): never one that a live team holds, or that owns a view that has survived its team. -/
def newHandle (s : State) : BitVec 32 :=
  let used := (s.teams.map fun e => e.2.handle.toNat % 2 ^ 21) ++ s.pkg.keptH
  BitVec.ofNat 32 (s.pkg.agent * 2 ^ 21 + nextFree used (used.length + 2) (Config.handleSeq s.fresh).toNat)

/-- Admit team `index` of a grid (R99): every resource, the handle, and every warp in its entry state. -/
def admitTeam (s : State) (core : Nat) (g : Grid) (index : Nat) : State :=
  let d := g.desc
  let b := basePart s core none
  let tk := s.uid
  let sp := takeSlot g.spill g.spillU [] (dSpill d) (dSpillSize d)
  let ar := takeSlot g.arena g.arenaU g.spent (dArena d) (dArenaSize d)
  let t : Team :=
    { Team.none with
      handle := newHandle s, grid := g.num, index := BitVec.ofNat 32 index, realm := dRealm d, wld := dWld d, pri := dPri d
      depth := g.depth, core := core, basep := b, wpt := dWpt d, scrk := dScrk d, ntiles := dTiles d, nshed := dShed d
      gfmax := dFmax d, imp := dEscm d, seed := s.fresh, arena := ar.1, bump := (ar.1.map (·.off)).getD 0, spill := sp.1
      order := tk }
  let s1 := { s with uid := tk + 1, fresh := s.fresh + 1, teams := tset s.teams tk t, ended := s.ended.filter fun x => x.team.core != core }
  let s2 := s1.setGrid { g with spillU := sp.2, arenaU := ar.2 }
  (upto (dWpt d)).foldl (placeWarp d core b tk) s2

/-- The queue engine of a core, as a party that waits. -/
def queueWho (s : State) (core : Nat) : Who := ⟨core, .core (core + 64 * 7), (s.core core).tdef.toNat⟩

/-- Whether the queue engine of a core may take a team in (R94): one team every 8 cycles, on a core that is on line. -/
def mayAdmit (s : State) (core : Nat) : Bool :=
  let c := s.core core
  !c.offline && !c.dying && (match c.lastAdm with | none => true | some n => n + 8 ≤ c.cycle.toNat)

/-- The head run of a queue after its head team has gone (R90). -/
def nextOfRun (q : List Run) : List Run :=
  match q with
  | [] => []
  | r :: rest => if r.n ≤ 1 then rest else { r with first := r.first + r.stride, n := r.n - 1 } :: rest

/-- The acquire by which what happened before a team's start becomes visible to its threads (R319): the core's L1 keeps no
published line. -/
def startAcquire (s : State) (core : Nat) : State × Bool :=
  let h := queueWho s core
  match acquireAct s h 1 with
  | (s1, none) => (s1, true)
  | (s1, some _) => (s1.unwait h.who, false)

/-- The core drops every instruction-cache line of the realm that was filled before a grid's acceptance (R104). -/
def dropOldCode (s : State) (core : Nat) (g : Grid) : State :=
  s.modCore core fun c => { c with ic := c.ic.filter fun e => e.realm != dRealm g.desc || g.stamp ≤ e.stamp }

/-- ADMIT (R94, R97–R99): the head team of the head run, if the whole test passes; otherwise it may ask for pre-emption. -/
def execAdmit (core : Nat) (s : State) : Host.Outcome State Fault Refusal :=
  match (s.core core).queue with
  | [] => .next s
  | r :: _ =>
    match tfind s.grids r.grid.toNat with
    | none => .next s
    | some g =>
      if r.saved.isSome || !mayAdmit s core then .next s
      else
        let a : Ask := ⟨g.desc, g.num.toNat, r.first, List.replicate (dWpt g.desc) (granules (dEfd g.desc)), true⟩
        if !(failRows s core a none).isEmpty then .next (askPreempt s core a)
        else
          match startAcquire s core with
          | (s1, false) => .next s1
          | (s1, true) =>
            let s2 := admitTeam (dropOldCode s1 core g) core g r.first
            .next (drainBack (s2.modCore core fun c =>
              { c with queue := nextOfRun c.queue, lastAdm := some c.cycle.toNat })).wake

end Sys2Proof.Machine
end

