-- ==== Sys2Proof/Machine/Retire.lean ====
section
/-! DEFINITION. The end of a team (R240, R404, R405): the reset of its arena, the release of its resources, TEAM_RETIRE, and
the end of a pre-emption of a core (R384, R389). -/

namespace Sys2Proof.Machine

/-! ### The end of a pre-emption -/

/-- Free units of the save pool (R395). -/
def poolFree (s : State) : Nat :=
  if s.pkg.svv then s.pkg.svunits.toNat - (s.pkg.svused.map fun a => a.units).sum else 0

/-- Where the save pool has gained free units, teams skipped may be chosen again (R389); `old` is the state before. -/
def poolGained (old s : State) : State :=
  if poolFree old < poolFree s then { s with cores := s.cores.map fun (e : Nat × Core) => (e.1, { e.2 with skip := [] }) } else s

/-- The engine turns to a request of the supervisor core that waits (R384). -/
def nextRequest (s : State) (core : Nat) : State :=
  let c := s.core core
  if c.preempt.isSome || !c.page.prbusy then s
  else
    match (residents s core none).find? fun e => e.2.handle == c.page.prteam with
    | some (tk, _) => startQuiesce s core tk none
    | none => s.modCore core fun k => { k with page := { k.page with prbusy := false, prres := 5 } }

/-- A pre-emption is over, with its outcome for PRRES. -/
def endPreempt (s : State) (core tk : Nat) (res : BitVec 3) : State :=
  match (s.core core).preempt with
  | some p =>
    if p.team ≠ tk then s
    else
      let s1 := s.modCore core fun k =>
        { k with preempt := none
                 page := if p.head.isNone then { k.page with prbusy := false, prres := res } else k.page }
      (nextRequest s1 core).wake
  | none => s

/-! ### The arena (R240) -/

/-- Make an object's entry invalid, if the team still owns it and `ok` holds of it: true if it did. Its number returns to the realm, whose list
software keeps (log 82). -/
def killEntry (s : State) (h : Who) (core : Nat) (t : Team) (num : Nat) (ok : OcEntry → Bool) : Acc Bool :=
  (findEntry s core t.realm num true).bind fun s1 r =>
    match r with
    | some e =>
      if e.own == t.handle && ok e then
        (putEntry s1 { h with core := core } t.realm num ((e.dw 0 &&& ~~~(1#64 <<< 63)) :: e.dws.drop 1)).bind fun s2 _ =>
          .ok (dropLines s2 core t.realm num) true
      else .ok s1 false
    | none => .ok s1 false

/-- The same for several objects: those that were made invalid. -/
def killEntries (s : State) (h : Who) (core : Nat) (t : Team) (ok : OcEntry → Bool) : List Nat → Acc (List Nat)
  | [] => .ok s []
  | n :: r =>
    (killEntry s h core t n ok).bind fun s1 b =>
      (killEntries s1 h core t ok r).bind fun s2 rest => .ok s2 (if b then n :: rest else rest)

/-- Spans of memory of part of an object, piece by piece in its chunks: address and length. -/
def partSpans (s : State) (core : Nat) (t : OcEntry) : Nat → Nat → Nat → Acc (List (Nat × Nat))
  | 0, _, _ => .ok s []
  | f + 1, off, n =>
    if n = 0 then .ok s []
    else
      let k := if t.hm then min n (t.chunk - off % t.chunk) else n
      (resolveAt s core t off).bind fun s1 a =>
        (partSpans s1 core t f (off + k) (n - k)).bind fun s2 r => .ok s2 ((a.toList.map fun x => (x, k)) ++ r)

/-- Spans of memory of a team's arena slot. -/
def arenaSpans (s : State) (core : Nat) (t : Team) : Acc (List (Nat × Nat)) :=
  match t.arena with
  | none => .ok s []
  | some sl =>
    (findEntry s core t.realm sl.obj false).bind fun s1 r =>
      match r with
      | none => .ok s1 []
      | some e => partSpans s1 core e (sl.size / e.chunk + 2) sl.off sl.size

/-- Reset the arena of a team (R240): private objects, the views whose ultimate parent is one of them (`all`: every view),
their L1 lines, and PTP of the arena's pages (R32). The views that survive are left in the result. DESIGN CHOICE (log 94): PTP is cleared
as R32 has it, also for a page where a published object of the arena survives with tags of 1, against what PTP 0 is to guarantee. -/
def resetArena (s : State) (h : Who) (t : Team) (all : Bool) : Acc (List Nat) :=
  let core := t.core
  (killEntries s h core t (fun e => !e.view && e.vis == 0) (t.objs.map (·.num))).bind fun s1 dead =>
    let vs := (t.views.filter fun v => all || dead.contains v.2).map (·.1)
    (killEntries s1 h core t (·.view) vs).bind fun s2 _ =>
      (arenaSpans s2 core t).bind fun s3 sps =>
        let gone (p : Nat) : Bool := sps.any fun sp =>
          let a := s3.pkg.agent * 2 ^ 40 + p * 4096
          sp.1 ≤ a && a + 4096 ≤ sp.1 + sp.2
        .ok { s3 with hbm := { s3.hbm with ptp := s3.hbm.ptp.filter fun e => !gone e.1 } }
          ((t.views.filter fun v => !vs.contains v.1).map (·.1))

/-- The party that retires or flushes a team. -/
def retireWho (s : State) (tk : Nat) : Who :=
  let c := (s.team tk).core
  ⟨c, .core (c + 64 * (8192 + tk)), (s.core c).tdef.toNat⟩

/-! ### Release -/

/-- A warp leaves its slot. -/
def releaseWarp (s : State) (wk : Nat) : State :=
  let s1 := (upto 32).foldl (fun (st : State) l => { st.unwait (.lane wk l) with lanes := tdel (st.unwait (.lane wk l)).lanes (lkOf wk l) })
    (releaseLatch s wk)
  let s2 := { s1 with warps := tdel s1.warps wk }
  (s2.modCore (wkCore wk) fun c =>
      { c with page := { c.page with pend := c.page.pend &&& ~~~(1#64 <<< wkSlot wk) }
               ofrees := c.ofrees.filter fun e => e.1 / 32 != wk
               walks := c.walks.filter fun (w : Walk) => w.wk != wk || !w.ended }).modPart (wkPk wk) fun p =>
    { p with reqs := p.reqs.filter fun r => r.wk != wk }

/-- A team's slot of a pool is free again. -/
def freeSlot (used : List Nat) (sl : Option PoolSlot) : List Nat := match sl with | some x => used.erase x.idx | none => used

/-- A core keeps a pool of numbers only for realms that have a team resident on it (R237). -/
def dropPool (s : State) (core realm : Nat) : State :=
  if (residents s core none).any fun e => e.2.realm == realm then s
  else s.modCore core fun c => { c with pools := tdel c.pools realm }

/-- Release everything a team holds (R405 step 4): its warps, held arrivals, frames, pool slots and save areas; then the team
itself. -/
def releaseTeam (s : State) (tk : Nat) : State :=
  let t := s.team tk
  let s1 := (s.teamWarps tk).foldl releaseWarp s
  let s2 := s1.modCore t.core fun c => { c with shq := c.shq.filter fun (j : ShJob) => j.team != tk }
  let s3 := { s2 with pkg := { s2.pkg with svused := s2.pkg.svused.filter fun a => !t.saves.contains a } }
  let s4 := poolGained s2 s3
  let s5 := match tfind s4.grids t.grid.toNat with
    | some g =>
      let used := g.spent ++ t.arena.toList.map PoolSlot.idx
      s4.setGrid { g with spillU := freeSlot g.spillU t.spill, arenaU := freeSlot g.arenaU t.arena, spent := used }
    | none => s4
  dropPool { s5 with teams := tdel s5.teams tk } t.core t.realm

/-! ### Retirement (R404, R405) -/

/-- Whether every lane of a team has EXITED. -/
def teamExited (s : State) (tk : Nat) : Bool := (s.teamWarps tk).all fun wk => liveLanes s wk == 0

/-- Whether no shuttle command of a team is left (`held`: but for those whose arrival is held). -/
def noCommands (s : State) (core tk : Nat) (held : Bool) : Bool :=
  (s.core core).shq.all fun j => j.team != tk || (held && j.stage == .held)

/-- Whether no MMA or ACZ entry of a team is queued. -/
def noEntries (s : State) (core tk : Nat) : Bool := (s.core core).mxq.all fun e => e.2.all fun j => j.team != tk

/-- Whether no walk of a team is queued or running. -/
def noWalks (s : State) (core tk : Nat) : Bool := (s.core core).walks.all fun w => w.team != tk || w.ended

/-- Whether no host call of a team is outstanding. -/
def noCalls (s : State) (core tk : Nat) : Bool := (s.core core).hcalls.all fun e => (s.warp e.2.wk).team != tk

/-- The frames of a team that stands on a core. -/
def teamFrames (s : State) (tk : Nat) : List (Nat × Frame) :=
  s.frames.filter fun e => (tfind s.warps e.2.wk).isSome && (s.warp e.2.wk).team == tk

/-- The conditions of R404. -/
def mayRetire (s : State) (tk : Nat) : Bool :=
  let t := s.team tk
  (tfind s.teams tk).isSome && (t.phase == .running || (match t.phase with | .draining _ => true | _ => false))
    && teamExited s tk && (s.teamWarps tk).all (fun wk => (s.warp wk).closed && (upto 8).all fun n => (s.warp wk).counter n == 0)
    && noCommands s t.core tk false && noEntries s t.core tk && noWalks s t.core tk && noCalls s t.core tk
    && t.held.isEmpty && t.kids == 0 && (teamFrames s tk).isEmpty

/-- The asynchronous faults of one warp that no trap has taken (R405 step 1): those of commands, whether or not SHERR still holds them; one
for OVF; those of walks and calls. -/
def warpLost (w : Warp) (lost : BitVec 4 × Byte) : List (BitVec 4 × Byte) :=
  let of (sh : Bool) : List (BitVec 4 × Byte) := (w.asyncs.filter fun a => a.sherr == sh).map fun a => (a.cause.code, a.sub)
  of true ++ (if w.sherr.ovf then [lost] else []) ++ of false

/-- Every fault that retirement counts. -/
def teamLost (s : State) (tk : Nat) : List (BitVec 4 × Byte) :=
  (s.teamWarps tk).flatMap (fun wk => warpLost (s.warp wk) (Config.lostFault (s.fresh + wk)))
    ++ (s.team tk).lost.map fun e => (e.1.code, e.2)

/-- The grid's account of a team that retires (R405 steps 1 and 5, R407). -/
def countTeam (g : Grid) (t : Team) (lost : List (BitVec 4 × Byte)) : Grid :=
  { g with retired := g.retired + 1, nkill := g.nkill + b2n t.killed, nflt := g.nflt + lost.length
           first := match g.first, lost with
             | some f, _ => some f
             | none, e :: _ => some (e.1, e.2, t.index)
             | none, [] => none }

/-- A fault of the retirement itself is counted. -/
def noteLost (s : State) (tk : Nat) (e : RemoteFail) : State := s.modTeam tk fun t => { t with lost := t.lost ++ [(.remote, e.sub)] }

/-- What a team leaves behind in the storage of its core (R412, log 95). -/
def relicOf (s : State) (tk : Nat) : Relic :=
  ⟨s.team tk, s.lanes.filter fun e => (s.warp (e.1 / 32)).team == tk && (tfind s.warps (e.1 / 32)).isSome⟩

/-- The line whose write-back has failed: that of a request, or the first that cannot be written back. -/
def stuckLine (s : State) (h : Who) (ls : List L1Line) : Option Nat :=
  match s.fails.find? fun x => x.who == h.who with
  | some x => some x.line
  | none => (ls.find? fun e => match l1Back s h e with | .bad _ => true | _ => false).map (·.line)

/-- Lines of an L1 that a team's end has still to write back (R405): those that have failed are given up. -/
def toBack (s : State) (tk : Nat) (ls : List L1Line) : List L1Line := ls.filter fun e => !(s.team tk).gaveUp.contains e.line

/-- A write-back has failed: it is counted once, and its line given up (R405). -/
def giveUp (s : State) (h : Who) (tk : Nat) (ls : List L1Line) (e : RemoteFail) : State :=
  let stuck := stuckLine s h ls
  (noteLost (s.unwait h.who) tk e).modTeam tk fun t => { t with gaveUp := t.gaveUp ++ stuck.toList }

/-- The release of a team's end (R405 step 2): as R219 states it, but for lines that have been given up. -/
def endRelease (s : State) (h : Who) (tk : Nat) : State × Option (Option RemoteFail) :=
  match s.fails.find? fun x => x.who == h.who with
  | some x => (s, some (some x.why))
  | none =>
    match backAll s h (toBack s tk (pubLines s h.core)) with
    | (s1, none) => awaitAcks s1 h
    | r => r

/-- Steps 3 to 5 of R405, once the release is done. -/
def retireTeam (s : State) (tk : Nat) (survivors : Bool) : State :=
  let t := s.team tk
  let lost := teamLost s tk
  let s0 := endPreempt s t.core tk 1
  let s1 := { releaseTeam s0 tk with fresh := s.fresh + 4096, ended := s.ended ++ [relicOf s tk] }
  let s2 := if survivors then
      { s1 with pkg := { s1.pkg with keptH := s1.pkg.keptH ++ [t.handle.toNat % 2 ^ 21] } }
    else s1
  match tfind s2.grids t.grid.toNat with
  | some g => s2.setGrid (countTeam g t lost)
  | none => s2

/-- TEAM_RETIRE (R404, R405). A request of the release that fails is counted, once, and retirement goes on. -/
def execTeamRetire (tk : Nat) (s : State) : Host.Outcome State Fault Refusal :=
  if !mayRetire s tk then .next s
  else
    let h := retireWho s tk
    match endRelease s h tk with
    | (s1, some none) => .next s1
    | (s1, some (some e)) => .next (giveUp s1 h tk (toBack s1 tk (pubLines s1 h.core)) e).wake
    | (s1, none) =>
      match runAcc s1 h fun st => resetArena st h (st.team tk) false with
      | (s2, none) => .next s2
      | (s2, some (.ok vs)) => .next (retireTeam s2 tk !vs.isEmpty).wake
      | (s2, some (.error e)) => .next (retireTeam (noteLost s2 tk e) tk true).wake

end Sys2Proof.Machine
end

