-- ==== Sys2Proof/Machine/SaveArea.lean ====
section
/-! DEFINITION. The save area of a team (R395, R396): its layout in 8-byte words, writing it and reading it back. -/

namespace Sys2Proof.Machine

/-! ### Reading back what a word holds -/

/-- A record with one header dword replaced (R371). -/
def TrapRec.setDw (r : TrapRec) (n : Nat) (w : Word) : TrapRec :=
  match n with
  | 0 => { r with v := w.getLsbD 63, async := w.getLsbD 62, nest := w.getLsbD 61, pk := w.getLsbD 60
                  cause := w.extractLsb' 52 4, sub := w.extractLsb' 44 8, opc := w.extractLsb' 32 10, lmask := w.truncate 32 }
  | 1 => { r with hdr := w }
  | 2 => { r with idx := w.extractLsb' 48 4, clane := w.extractLsb' 40 5, fid := w.truncate 9 }
  | 3 => { r with ncause := w.extractLsb' 52 4, nsub := w.extractLsb' 44 8, nidx := w.truncate 4 }
  | 4 => { r with nhdr := w }
  | 5 => { r with usrc := w.extractLsb' 32 32, udat := w.truncate 32 }
  | _ => r

/-- A lane's entry with one dword replaced (R371). -/
def TrapLane.setDw (t : TrapLane) (n : Nat) (w : Word) : TrapLane :=
  if n = 0 then { t with opv := w } else { t with reg := w.extractLsb' 56 8, eoff := w.truncate 40 }

/-- SHERR from its word (R260). -/
def shErrOf (w : Word) (taken : Bool) : ShErr :=
  { v := w.getLsbD 63, ovf := w.getLsbD 62, minor := w.extractLsb' 56 3, cause := w.extractLsb' 52 4, sub := w.extractLsb' 44 8
    elem := w.extractLsb' 12 32, k := w.getLsbD 11, cv := w.getLsbD 10, ci := w.truncate 3, taken := taken }

/-- The tags of g0–g15 of a lane, bit n. -/
def Lane.gTags (ln : Lane) : BitVec 16 := (upto 16).foldl (fun t n => setBits t n 1 (b2n (ln.getG n).tag)) 0

/-- The tags of q0–q15 of a lane, bit n. -/
def Lane.qTags (ln : Lane) : BitVec 16 := (upto 16).foldl (fun t n => setBits t n 1 (b2n (ln.q.getD n Val.zero).tag)) 0

/-- Status of a lane as a code (R385). -/
def LaneSt.code : LaneSt → Nat
  | .run => 0 | .blocked _ => 1 | .parked _ => 2 | .exited => 3

/-- dw2 of a lane in its window and in a save area (R385, R396), with a frame number. -/
def Lane.dw2 (ln : Lane) (fid : Nat) : Word :=
  BitVec.ofNat 64 (b2n ln.h * 2 ^ 63 + b2n ln.pv * 2 ^ 62 + ln.st.code * 2 ^ 56 + ln.cix % 16 * 2 ^ 52 + ln.rix.toNat * 2 ^ 48
    + fid % 512)

/-! ### The parts of an area, as words -/

/-- n words of zero. -/
def zeros (n : Nat) : List Val := List.replicate n Val.zero

/-- Header dwords (R396). -/
def headWords (t : Team) (fcnt : Nat) : List Word :=
  let bar (w : Nat) : Nat := (t.arrived w).toNat
  [BitVec.ofNat 64 (1 + t.wpt * 2 ^ 8 + t.nshed * 2 ^ 14 + t.ntiles * 2 ^ 18 + t.basep * 2 ^ 27 + t.scrk * 2 ^ 29),
   t.handle ++ t.index,
   BitVec.ofNat 64 (t.grid.toNat * 2 ^ 32 + t.held.length % 2 ^ 11 * 2 ^ 20 + fcnt % 2 ^ 20),
   BitVec.ofNat 64 (t.tmask.toNat * 2 ^ 32 + b2n t.escaped * 2 + b2n t.imp),
   t.tot ++ t.done, t.uimask, t.bphase.zeroExtend 64, t.rcc]
    ++ (upto 8).map (fun i => match t.uiq[i]? with | some e => e.1 ++ e.2 | none => 0)
    ++ (upto 16).map fun i => BitVec.ofNat 64 (bar (2 * i) + bar (2 * i + 1) * 2 ^ 32)

/-- A shed ring's eight dwords (R396). -/
def ringWords (r : Ring) : List Word :=
  let phs := (upto 16).foldl (fun n j => n + b2n (r.phase j) * 2 ^ j) 0
  [BitVec.ofNat 64 (r.depth + r.cnt * 2 ^ 16 + phs * 2 ^ 32)]
    ++ (upto 4).map (fun k => BitVec.ofNat 64 ((upto 4).foldl (fun n i => n + r.rem.getD (4 * k + i) 0 % 2 ^ 16 * 2 ^ (16 * i)) 0))
    ++ [0, 0, 0]

/-- A ring from its dwords. -/
def ringOfWords (ws : List Word) : Ring :=
  let w := ws.getD 0 0
  { depth := bits w 4 0, cnt := bits w 26 16, ph := (upto 16).map fun j => w.getLsbD (32 + j)
    rem := (upto 16).map fun j => bits (ws.getD (1 + j / 4) 0) (16 * (j % 4) + 15) (16 * (j % 4)) }

/-- A layout record's eight words (R244). -/
def layoutWords (l : Layout) : List Val := l.base :: (upto 7).map fun i => Val.int (l.dws.getD i 0)

/-- A held arrival's entry (R396). -/
def heldWord (h : HeldArr) : Word := BitVec.ofNat 64 (h.ring + h.slot * 8 + b2n h.phase * 2 ^ 7 + h.wix * 2 ^ 8)

/-- A held arrival from its entry. -/
def heldOfWord (w : Word) : HeldArr := ⟨bits w 2 0, bits w 6 3, w.getLsbD 7, bits w 12 8, none⟩

/-- Two 32-bit values per word. -/
def pairWords (f : Nat → Nat) (n : Nat) : List Val :=
  (upto (n / 2)).map fun i => Val.int (BitVec.ofNat 64 (f (2 * i) % 2 ^ 32 + f (2 * i + 1) % 2 ^ 32 * 2 ^ 32))

/-- A warp's block of 0x3000 bytes (R396); `dirIx` gives the directory index of a frame. -/
def warpWords (s : State) (wk : Nat) (dirIx : Nat → Nat) : List Val :=
  let w := s.warp wk
  let ln (l : Nat) : Lane := s.lane wk l
  (upto 8).map (fun n => Val.int (w.trec.dw n))
    ++ (upto 64).map (fun n => Val.int ((w.tlane (n / 2)).dw (n % 2)))
    ++ [w.hbase, w.slip.zeroExtend 64, w.bankc.zeroExtend 64, w.uni ++ w.dlt, w.sherr.word, w.tout.zeroExtend 64,
        BitVec.ofNat 64 (ofBytes ((upto 8).map fun n => BitVec.ofNat 8 (w.counter n))), 0].map Val.int
    ++ (upto 32).flatMap (fun l => [(ln l).pc.word, (ln l).rpc.word, (ln l).dw2 (dirIx (ln l).frame),
        BitVec.ofNat 64 ((ln l).p.toNat + (ln l).flags.toNat * 2 ^ 16)].map Val.int)
    ++ zeros 48
    ++ (upto 512).map (fun i => Val.int ((ln (i / 16)).getG (i % 16)).bits)
    ++ (upto 512).map (fun i => Val.int ((ln (i / 16)).q.getD (i % 16) Val.zero).bits)
    ++ pairWords (fun l => (ln l).gTags.toNat) 32
    ++ pairWords (fun l => (ln l).qTags.toNat) 32
    ++ zeros 224

/-! ### The layout (R396) -/

/-- Offset of the first record, with n directory entries. -/
def recsOff (t : Team) (n : Nat) : Nat := dirOff t + roundUp (16 * n) 64

/-- Where the records of the resident frames go: frame key and offset. -/
def recPlaces : Nat → List (Nat × Frame) → List (Nat × Nat)
  | _, [] => []
  | o, (k, f) :: r => if f.isRes then (k, o) :: recPlaces (o + recSize f.demand) r else recPlaces o r

/-- Bytes of a save area. -/
def areaSize (s : State) (tk : Nat) : Nat :=
  let t := s.team tk
  let fs := teamFrames s tk
  recsOff t fs.length + ((fs.filter fun e => e.2.isRes).map fun e => recSize e.2.demand).sum

/-- What an area takes of a pool at a base, in units of which findSpan counts 64 each: an area that a team still holds may lie outside a pool
that has been moved since (R395). -/
def spanIn (base : Nat) (a : SaveArea) : Option (Nat × Nat) :=
  let e := a.base + a.units * 65536
  if e ≤ base then none else some ((max a.base base - base) / 65536 * 64, (e - max a.base base) / 65536 * 64)

/-- The lowest free span of the pool that fits (R395). -/
def findArea (s : State) (size : Nat) : Option SaveArea :=
  let p := s.pkg
  let units := (size + 65535) / 65536
  let base := p.svbase.toNat * 2 ^ 16
  if !p.svv then none
  else
    (findSpan (p.svused.filterMap (spanIn base)) (units * 64) (p.svunits.toNat * 64)).map fun o =>
      ⟨base + o / 64 * 65536, units⟩

/-- Write words with their tags to local memory. -/
def putWords (m : Mem) (a : Nat) : List Val → Mem
  | [] => m
  | v :: r => putWords (m.writeWord a v) (a + 8) r

/-- Write blocks of 64 bytes with tags and metadata from a team's scratchpad (R257). -/
def putScratch (m : Mem) (a : Nat) (t : Team) : Nat → Mem
  | 0 => m
  | n + 1 =>
    let m1 := putScratch m a t n
    let m2 := putWords m1 (a + 64 * n) ((upto 8).map fun i =>
      ⟨BitVec.ofNat 64 (ofBytes (t.spRead (64 * n + 8 * i) 8)), t.spTag (8 * n + i)⟩)
    m2.setMeta ((a + 64 * n) / 64) (t.spMeta n)

/-- The tiles of a team as words, in the order of R396. -/
def tileWords (t : Team) : List Val :=
  (upto (min t.wpt 4)).flatMap fun b => (upto t.ntiles).flatMap fun n =>
    pairWords (fun i => (t.tileEl ((t.basep + b) % 4) n (i / 32) (i % 32)).toNat) 1024

/-- A directory entry (R396): frame, index of its caller. -/
def dirWords (f : Frame) (cur : Bool) (place : Option Nat) (area : Nat) (caller : Option Nat) : List Val :=
  let at' : Nat × Nat × Nat := match place, f.loc with
    | some o, _ => (0, o, area)
    | none, .spilled o => (1, o, 0)
    | none, .saved n o => (0, o, n)
    | none, .resident _ => (0, 0, area)
  [Val.int (BitVec.ofNat 64 (at'.1 * 2 ^ 63 + b2n cur * 2 ^ 62 + at'.2.1)),
   Val.int (BitVec.ofNat 64 (b2n caller.isNone * 2 ^ 63 + at'.2.2 * 2 ^ 32 + caller.getD 0))]

/-- Frames of a team as a directory lists them: in the order in which they were made, as R433 has them. -/
def dirFrames (s : State) (tk : Nat) : List (Nat × Frame × Bool) :=
  let cur (k : Nat) (f : Frame) : Bool := (upto 32).any fun l => (s.lane f.wk l).st != .exited && (s.lane f.wk l).frame == k
  (teamFrames s tk).map fun e => (e.1, e.2, cur e.1 e.2)

/-- Write the whole area of a team (R394 step 4, R396); its frames are listed as they stand in it. -/
def writeArea (s : State) (tk area base : Nat) : State :=
  let fs := dirFrames s tk
  let ix (k : Nat) : Nat := (fs.findIdx? fun e => e.1 == k).getD 0
  let s1 := fs.foldl (fun st e => st.modFrame e.1 fun f => { f with listed := some (ix e.1) }) s
  let t := s1.team tk
  let places := recPlaces (recsOff t fs.length) (fs.map fun e => (e.1, e.2.1))
  let head := (headWords t fs.length).map Val.int
  let rings := (upto 8).flatMap fun n => (ringWords (t.ringOf n)).map Val.int
  let lays := (upto 16).flatMap fun n => layoutWords (t.layout n)
  let held := t.held.map fun h => Val.int (heldWord h)
  let dir := fs.flatMap fun e =>
    dirWords e.2.1 e.2.2 (tfind places e.1) area (e.2.1.caller.map ix)
  let m0 := putWords s1.hbm base (head ++ rings ++ lays ++ zeros 32 ++ held)
  let m1 := (s1.teamWarps tk).foldl (fun m wk => putWords m (base + 0x2800 + 0x3000 * (s1.warp wk).wix) (warpWords s1 wk ix)) m0
  let m2 := putWords (putScratch m1 (base + scrOff t) t (t.scrk * 16)) (base + tileOff t) (tileWords t)
  let m3 := putWords m2 (base + dirOff t) dir
  { s1 with hbm := places.foldl (fun m p => putWords m (base + p.2) (recWords s1 (s1.frame p.1))) m3 }

/-! ### Reading an area back (R397) -/

/-- Word n of an area as an integer. -/
def areaWord (s : State) (base off : Nat) : Word := (s.hbm.readWord (base + off)).bits

/-- The team's own registers, rings, layout records and held arrivals. The queue of interrupts has stayed with the queue
engine, which takes posts while the team is saved (R312). -/
def readTeam (s : State) (base : Nat) (t : Team) : Team :=
  let w (n : Nat) : Word := areaWord s base (8 * n)
  let barr := (upto t.wpt).foldl (fun (b : Tab (BitVec 32)) i => tput b i ((w (16 + i / 2)).extractLsb' (32 * (i % 2)) 32) 0) []
  let rings := (upto t.nshed).foldl (fun (b : Tab Ring) n =>
    tput b n (ringOfWords ((upto 8).map fun k => areaWord s base (0x100 + 64 * n + 8 * k))) Ring.reset) []
  let lays := (upto 16).foldl (fun (b : Tab Layout) n =>
    let v (k : Nat) : Val := s.hbm.readWord (base + 0x300 + 64 * n + 8 * k)
    tput b n ⟨v 0, (upto 7).map fun k => (v (k + 1)).bits⟩ Layout.zero) []
  { t with
    tmask := (w 3).extractLsb' 32 7, escaped := (w 3).getLsbD 1, imp := (w 3).getLsbD 0
    tot := (w 4).extractLsb' 32 32, done := (w 4).truncate 32
    uien := (w 5).getLsbD 0, uiwarp := (w 5).extractLsb' 8 5
    bphase := (w 6).truncate 32, rcc := w 7
    barr := barr, rings := rings, layouts := lays
    held := (upto (bits (w 2) 30 20)).map fun i => heldOfWord (areaWord s base (0x800 + 8 * i)) }

/-- The scratchpad, block by block. -/
def readScratch (s : State) (a : Nat) (t : Team) : Nat → Team
  | 0 => t
  | n + 1 =>
    let t1 := readScratch s a t n
    let t2 := t1.spWrite (64 * n) (s.hbm.read (a + 64 * n) 64)
    let tags := spPutTags t2.stags (8 * n) ((upto 8).map fun i => (s.hbm.readWord (a + 64 * n + 8 * i)).tag)
    { t2 with stags := tags }.spSetMeta n (s.hbm.meta ((a + 64 * n) / 64))

/-- The tiles, into the banks of the team's warps under a new base partition. -/
def readTiles (s : State) (a : Nat) (t : Team) (base : Nat) : Team :=
  (upto (min t.wpt 4)).foldl (fun t1 b => (upto t.ntiles).foldl (fun t2 n => (upto 1024).foldl (fun (t3 : Team) i =>
    let o := a + 4096 * (t.ntiles * b + n) + 4 * i
    t3.setTileEl ((base + b) % 4) n (i / 32) (i % 32) (BitVec.ofNat 32 (ofBytes (s.hbm.read o 4)))) t2) t1) { t with tiles := [] }

/-- A lane of a warp's block; `st` is its status. -/
def readLane (s : State) (blk l fk : Nat) (st : Nat → Word → LaneSt) : Lane :=
  let w (n : Nat) : Word := areaWord s blk (0x280 + 32 * l + 8 * n)
  let half (o : Nat) : Word := areaWord s blk (o + 4 * l / 8 * 8) >>> (32 * (l % 2))
  let gs := (upto 16).foldl (fun (g : Tab Val) n =>
    tput g n ⟨areaWord s blk (0x800 + 128 * l + 8 * n), (half 0x2800).getLsbD n⟩ Val.zero) []
  { pc := pcOf (w 0), cix := bits (w 2) 55 52, frame := fk, st := st l (w 2)
    q := (upto 16).map fun n => ⟨areaWord s blk (0x1800 + 128 * l + 8 * n), (half 0x2880).getLsbD n⟩
    g := gs, p := (w 3).truncate 16, flags := (w 3).extractLsb' 16 7, h := (w 2).getLsbD 63, pv := (w 2).getLsbD 62
    rpc := pcOf (w 1), rix := (w 2).extractLsb' 48 4, ret := none }

/-- The registers of a warp from its block. -/
def readWarp (s : State) (blk : Nat) (w : Warp) (taken : Bool) : Warp :=
  let c (n : Nat) : Word := areaWord s blk (0x240 + 8 * n)
  { w with
    trec := (upto 6).foldl (fun r n => r.setDw n (areaWord s blk (8 * n))) {}
    tlanes := (upto 32).foldl (fun (t : Tab TrapLane) l =>
      tput t l (((({} : TrapLane).setDw 0 (areaWord s blk (64 + 16 * l)))).setDw 1 (areaWord s blk (72 + 16 * l))) {}) []
    hbase := c 0, slip := (c 1).truncate 48, bankc := (c 2).truncate 48
    uni := (c 3).extractLsb' 32 32, dlt := (c 3).truncate 32, sherr := shErrOf (c 4) taken, tout := (c 5).truncate 20 }

end Sys2Proof.Machine
end

