-- ==== Sys2Proof/Machine/Preempt.lean ====
section
/-! DEFINITION. Pre-emption (R384, R389–R398): the request registers, the choice of R390, drain, flush-and-restart, save and
restore; and user-level interrupts (R399–R401). -/

namespace Sys2Proof.Machine

/-! ### Requests and the choice (R384, R390, R391) -/

/-- What a write of PRGO does (R384): a handle that names no resident team gives NOTEAM at once. -/
def askPrgo (s : State) (core : Nat) : State :=
  let c := s.core core
  if c.page.prbusy then s
  else if (residents s core none).all fun e => e.2.handle != c.page.prteam then
    s.modCore core fun k => { k with page := { k.page with prres := 5 } }
  else nextRequest (s.modCore core fun k => { k with page := { k.page with prbusy := true, prres := 0 } }) core

/-- PRGO (R384): the supervisor core asks for pre-emption of the team that PRTEAM names. -/
def execPrgo (core : Nat) (s : State) : Host.Outcome State Fault Refusal := .next (askPrgo s core)

/-- Whether less than 1/8 of a team's budget remains (R391). -/
def nearlyDone (t : Team) (budget : Nat) : Bool :=
  if t.tot ≠ 0 then 7 * t.tot.toNat < 8 * min t.done.toNat t.tot.toNat
  else budget != 0 && 7 * budget < 8 * t.rcc.toNat

/-- A team goes on (R390 rows 1 and 5). -/
def resumeTeam (s : State) (tk : Nat) : State := s.modTeam tk fun t => { t with phase := .running }

/-- A victim that could not be saved is skipped for the same head (R389). -/
def skipTeam (s : State) (core tk : Nat) : State :=
  match (s.core core).preempt.bind (·.head) with
  | some h => s.modCore core fun c => { c with skip := c.skip ++ [(tk, h, c.cycle.toNat + 65536)] }
  | none => s

/-- No save area can be had (R390 row 5): the team goes on. -/
def noArea (s : State) (tk : Nat) : State :=
  let core := (s.team tk).core
  endPreempt (resumeTeam (skipTeam s core tk) tk) core tk 4

/-- The first row of R390 that holds, for a team whose bundles have closed. -/
def choose (s : State) (tk : Nat) : State :=
  let t := s.team tk
  let core := t.core
  let g := tfind s.grids t.grid.toNat
  let budget := match g with | some x => dBudget x.desc | none => 0
  let rst := match g with | some x => dRst x.desc | none => false
  if teamExited s tk then endPreempt (resumeTeam s tk) core tk 6
  else if nearlyDone t budget then
    s.modTeam tk fun u => { u with phase := .draining (s.core core).cycle.toNat }
  else if !t.escaped && rst then s.modTeam tk fun u => { u with phase := .flushing }
  else
    if (findArea s (areaSize s tk)).isSome then s.modTeam tk fun u => { u with phase := .saving } else noArea s tk

/-- QUIESCE_DONE (R390): the last bundle of a quiescing team has closed. -/
def execQuiesceDone (tk : Nat) (s : State) : Host.Outcome State Fault Refusal :=
  if (s.team tk).phase ≠ .quiescing || (s.teamWarps tk).any fun wk => !(s.warp wk).closed then .next s
  else .next (choose s tk).wake

/-- DRAIN_REQUIESCE (R392): every 65,536 cycles a drained team is quiesced again. -/
def execDrainRequiesce (tk : Nat) (s : State) : Host.Outcome State Fault Refusal :=
  let t := s.team tk
  match t.phase with
  | .draining n =>
    if (s.core t.core).cycle.toNat < n + 65536 then .next s
    else .next (s.modTeam tk fun u => { u with phase := .quiescing }).wake
  | _ => .next s

/-- VICTIM_SKIP_EXPIRE (R389). -/
def execVictimSkipExpire (core tk : Nat) (s : State) : Host.Outcome State Fault Refusal :=
  let now := (s.core core).cycle.toNat
  if (s.core core).skip.any fun e => e.1 == tk && e.2.2 ≤ now then
    .next (s.modCore core fun c => { c with skip := c.skip.filter fun e => e.1 != tk || now < e.2.2 }).wake
  else .next s

/-! ### Flush-and-restart (R393) -/

/-- Whether the doffer of some partition of a team works, for whichever team (R206). -/
def dofferOn (s : State) (tk : Nat) : Bool := (s.teamWarps tk).any fun wk => (s.part (wkPk wk)).busy.isSome

/-- Every frame of a team is freed, and its deferred producers are cancelled (R393 steps 2 and 3). -/
def dropFrames (s : State) (tk : Nat) : State :=
  let fs := teamFrames s tk
  let s1 := fs.foldl (fun st e => dropDoffer st e.1 e.2) s
  let ds := s1.defers.filter fun d => (s1.warp d.wk).team == tk
  let s2 := ds.foldl (fun (st : State) d => st.unwait (.defer d.id)) s1
  { s2 with defers := s2.defers.filter (fun d => (s2.warp d.wk).team != tk)
            frames := s2.frames.filter fun e => !fs.any fun f => f.1 == e.1 }

/-- The run by which a team enters its queue again. -/
def teamRun (t : Team) (aff : Nat) (saved : Option Nat) : Run :=
  { grid := t.grid, pri := t.pri, aff := aff, first := t.index.toNat, n := 1, stride := 1, saved := saved }

/-- AFF of a team's grid. -/
def teamAff (s : State) (t : Team) : Nat := match tfind s.grids t.grid.toNat with | some g => dAff g.desc | none => 0

/-- Steps 2 to 5 of R393. The arena slot goes back as one that no team has retired from (R414). -/
def flushTeam (s : State) (tk : Nat) (survivors : Bool) : State :=
  let t := s.team tk
  let r := teamRun t (teamAff s t) none
  let s0 := releaseTeam (dropFrames s tk) tk
  let s1 := match tfind s.grids t.grid.toNat, tfind s0.grids t.grid.toNat with
    | some g, some g0 => s0.setGrid { g0 with spent := g.spent }
    | _, _ => s0
  let s2 := if survivors then
      { s1 with pkg := { s1.pkg with keptH := s1.pkg.keptH ++ [t.handle.toNat % 2 ^ 21] } }
    else s1
  endPreempt (enqueue s2 t.core r true) t.core tk 2

/-- FLUSH_DONE (R393): the team's commands and entries have completed. -/
def execFlushDone (tk : Nat) (s : State) : Host.Outcome State Fault Refusal :=
  let t := s.team tk
  if t.phase ≠ .flushing then .next s
  else if teamExited s tk then .next (endPreempt (resumeTeam s tk) t.core tk 6).wake
  else if !noCommands s t.core tk true || !noEntries s t.core tk then .next s
  else
    let h := retireWho s tk
    match runAcc s h fun st => resetArena st h t true with
    | (s1, none) => .next s1
    | (s1, some (.ok vs)) => .next (flushTeam s1 tk !vs.isEmpty).wake
    | (s1, some (.error _)) => .next (flushTeam s1 tk true).wake

/-! ### Save (R394) -/

/-- Whether nothing of a team is in progress (R394 steps 1 to 3). -/
def quiet (s : State) (core tk : Nat) : Bool :=
  s.defers.all (fun d => (s.warp d.wk).team != tk) && noCalls s core tk && noWalks s core tk && noCommands s core tk true
    && noEntries s core tk && !dofferOn s tk

/-- What a save keeps of a warp beside its area. -/
def limboOf (s : State) (wk : Nat) : Limbo :=
  let w := s.warp wk
  { frames := (upto 32).map fun l => (l, (s.lane wk l).frame)
    rets := (upto 32).filterMap fun l => (s.lane wk l).ret.map fun r => (l, r), taken := w.sherr.taken, asyncs := w.asyncs
    waiting := maskOf ((upto 32).filter fun l => (s.lane wk l).st == .parked true), parked := w.parked || w.parking
    prun := w.prun }

/-- The frame requests of a team, in order, by warp index. -/
def teamReqs (s : State) (core tk : Nat) : List FReq :=
  (upto 4).flatMap fun p => ((s.part (core * 4 + p)).reqs.filter fun r => (s.warp r.wk).team == tk).map fun r =>
    { r with wk := (s.warp r.wk).wix }

/-- Frames whose registers now lie in the area, or where they lay (R206). -/
def detach (s : State) (tk area : Nat) (places : List (Nat × Nat)) : State :=
  { s with frames := s.frames.map fun (e : Nat × Frame) =>
      if (tfind s.warps e.2.wk).isSome && (s.warp e.2.wk).team == tk then
        let f := { e.2 with wk := limboWk tk (s.warp e.2.wk).wix }
        (e.1, match tfind places e.1 with
          | some o => { f with loc := .saved area o, regs := [], ptags := [] }
          | none => f)
      else e }

/-- Steps 4 to 6 of R394: the area is given to the team and written, resources are freed, and the team enters the head of its class. -/
def saveTeam (s0 : State) (tk : Nat) (a : SaveArea) : State :=
  let s := { s0 with pkg := { s0.pkg with svused := s0.pkg.svused ++ [a] } }.modTeam tk fun u => { u with saves := u.saves ++ [a] }
  let t := s.team tk
  let core := t.core
  let area := t.saves.length - 1
  let base := a.base
  let fs := dirFrames s tk
  let places := recPlaces (recsOff t fs.length) (fs.map fun e => (e.1, e.2.1))
  let limbo := (s.teamWarps tk).foldl (fun (m : Tab Limbo) wk => tset m (s.warp wk).wix (limboOf s wk)) []
  let reqs := teamReqs s core tk
  let s1 := detach (writeArea s tk area base) tk area places
  let s2 := (s.teamWarps tk).foldl releaseWarp s1
  let s3 := s2.modCore core fun c => { c with shq := c.shq.filter fun (j : ShJob) => j.team != tk }
  let s4 := s3.modTeam tk fun u =>
    { u with phase := .saved, limbo := limbo, reqs := reqs, sbytes := [], stags := [], sblk := [], tiles := []
             rings := [], layouts := [], gaveUp := [] }
  endPreempt (wakeCores (enqueue (dropPool s4 core t.realm) core (teamRun t (teamAff s t) (some tk)) true)) core tk 3

/-- SAVE_DONE (R394): nothing of the team is in progress, and every dirty line of the core's L1 has gone back, so that the team
finds its writes wherever it resumes (R326). The area is allocated now. DESIGN CHOICE (log 87): when another save has taken the room since the choice, the
team goes on, as under row 5 of R390. -/
def execSaveDone (tk : Nat) (s : State) : Host.Outcome State Fault Refusal :=
  let t := s.team tk
  if t.phase ≠ .saving then .next s
  else if teamExited s tk then .next (endPreempt (resumeTeam s tk) t.core tk 6).wake
  else if !quiet s t.core tk then .next s
  else
    let h := retireWho s tk
    let ls := toBack s tk (s.core t.core).l1
    match (s.fails.find? fun x => x.who == h.who).map (·.why), backAll s h ls with
    | some e, _ => .next (giveUp s h tk ls e).wake
    | none, (s1, some none) => .next s1
    | none, (s1, some (some e)) => .next (giveUp s1 h tk ls e).wake
    | none, (s1, none) =>
      match findArea s1 (areaSize s1 tk) with
      | none => .next (noArea s1 tk).wake
      | some a => .next (saveTeam (s1.modCore t.core fun c => { c with l1 := [] }) tk a).wake

/-! ### Restore (R397) -/

/-- What is kept of a warp that does not exist. -/
def Limbo.none : Limbo := ⟨[], [], false, [], 0, false, false⟩

/-- The current frames of a saved warp: those of its lanes that have not exited. -/
def currentFrames (s : State) (base : Nat) (t : Team) (wix : Nat) : List Nat :=
  let lb := tget t.limbo wix Limbo.none
  ((upto 32).filterMap fun l =>
    if bits (areaWord s (base + 0x2800 + 0x3000 * wix) (0x290 + 32 * l)) 57 56 = 3 then none else tfind lb.frames l).eraseDups

/-- Words of the records of frames, wherever they lie. -/
def frameWords (s : State) (core : Nat) (t : Team) : List Nat → Acc (EngRes (List (Nat × List Val)))
  | [] => .ok s (.ok [])
  | k :: r =>
    let f := s.frame k
    let n := recSize f.demand / 8
    let sl := t.spill.getD ⟨0, 0, 0, 0⟩
    (match f.loc with
     | .spilled off => engineRead s core t.realm sl.obj (sl.off + off) n
     | .saved a off => .ok s (.ok (localWords s ((t.saves.getD a ⟨0, 0⟩).base + off) n))
     | .resident _ => .ok s (.ok [])).bind fun s1 x =>
      (frameWords s1 core t r).bind fun s2 y =>
        .ok s2 (match x, y with | .ok v, .ok m => .ok ((k, v) :: m) | .error e, _ => .error e | _, .error e => .error e)

/-- A current frame is resident again, under a fresh id (R397). -/
def bringFrame (tk wk : Nat) (s : State) (e : Nat × List Val) : State :=
  let f := s.frame e.1
  let s1 := match f.loc with
    | .spilled off =>
      let spoilt := (s.team tk).spoilt.contains off
      let s2 := s.modTeam tk fun t =>
        { t with recs := t.recs.filter fun x => x.1 != off, spoilt := t.spoilt.filter (· != off) }
      if spoilt then { s2 with fresh := s2.fresh + 1 }.setFrame e.1 (freeRegs s2.fresh f) else s2.setFrame e.1 (recRestore f e.2)
    | _ => s.setFrame e.1 (recRestore f e.2)
  let fid := s1.freeFid (wkPk wk)
  s1.modFrame e.1 fun g => { g with wk := wk, loc := .resident fid }

/-- Status of a lane of a saved warp. -/
def savedSt (t : Team) (wix : Nat) (lb : Limbo) (l : Nat) (w : Word) : LaneSt :=
  match bits w 57 56 with
  | 0 => .run
  | 1 =>
    if t.reqs.any fun r => r.wk == wix && r.lanes.getLsbD l then .blocked .frame
    else .blocked (.bar (if (t.arrived wix).getLsbD l then t.bphase else t.bphase - 1).toNat)
  | 2 => .parked (lb.waiting.getLsbD l)
  | _ => .exited

/-- One warp is back in a slot of the new core. -/
def restoreWarp (core base tk area : Nat) (d : List Word) (words : List (Nat × List Val)) (s : State) (wix : Nat) : State :=
  let t := s.team tk
  let wk := freeWk s core ((base + wix) % 4)
  let now := (s.core core).cycle.toNat
  let lb := tget t.limbo wix Limbo.none
  let blk := area + 0x2800 + 0x3000 * wix
  let cur := currentFrames s area t wix
  let w0 : Warp := { Warp.idle with team := tk, wix := wix, role := roleOf (dRole d wix), stamp := now, since := now }
  let w1 := readWarp s blk w0 lb.taken
  let w2 : Warp := { w1 with asyncs := lb.asyncs, parked := lb.parked, prun := lb.prun, note := lb.parked }
  let s1 := s.setWarp wk w2
  let s2 := (upto 32).foldl (fun st l => st.setLane wk l { readLane s blk l ((tfind lb.frames l).getD 0) (savedSt t wix lb) with ret := tfind lb.rets l }) s1
  let mine (f : Frame) : Bool := f.wk == limboWk tk wix
  let s3 := (words.filter fun e => cur.contains e.1).foldl (bringFrame tk wk) s2
  let s4 := { s3 with frames := s3.frames.map fun (e : Nat × Frame) => if mine e.2 then (e.1, { e.2 with wk := wk }) else e }
  if lb.parked then
    s4.modCore core fun c => { c with page := { c.page with pend := c.page.pend ||| (1#64 <<< wkSlot wk) } }
  else s4

/-- Requests enter again in their old order, and wait from now on (R204); lanes whose frame has come back with the team run (R206). -/
def reenter (tk : Nat) (s : State) (r : FReq) : State :=
  match (s.teamWarps tk).find? fun wk => (s.warp wk).wix == r.wk with
  | none => s
  | some wk =>
    let back := match r.kind with | .refill fk => (s.frame fk).isRes | _ => false
    if back then enterRefilled s { r with wk := wk }
    else s.modPart (wkPk wk) fun p => { p with reqs := p.reqs ++ [{ r with wk := wk, since := (s.core (wkCore wk)).cycle.toNat }] }

/-- A team that resumes on another core waits there for the acknowledgements of what it wrote before (R326). -/
def moveAcks (s : State) (old new : Nat) : State :=
  { s with acks := s.acks.map fun (a : Acks) =>
      if a.cores.contains old && !a.cores.contains new then { a with cores := a.cores ++ [new] } else a }

/-- The whole team is back (R397). -/
def restoreTeam (s : State) (core tk : Nat) (d : List Word) (words : List (Nat × List Val)) : State :=
  let t := s.team tk
  let b := basePart s core none
  let area := (t.saves.getLast?.getD ⟨0, 0⟩).base
  let t1 := readTiles s (area + tileOff t) (readScratch s (area + scrOff t) (readTeam s area t) (t.scrk * 16)) b
  let s1 := { moveAcks s t.core core with ended := s.ended.filter fun x => x.team.core != core }.setTeam tk { t1 with core := core, basep := b, phase := .running, order := s.uid }
  let s2 := (upto t.wpt).foldl (restoreWarp core b tk area d words) { s1 with uid := s1.uid + 1 }
  (t.reqs.foldl (reenter tk) s2).modTeam tk fun u => { u with reqs := [], limbo := [] }

/-- RESTORE (R397): the head run is a saved team, and the test of R97 passes with its current frames in the frame rule. -/
def execRestore (core : Nat) (s : State) : Host.Outcome State Fault Refusal :=
  match (s.core core).queue with
  | [] => .next s
  | r :: rest =>
    match r.saved, tfind s.grids r.grid.toNat with
    | some tk, some g =>
      if !mayAdmit s core then .next s
      else
        let t := s.team tk
        let area := (t.saves.getLast?.getD ⟨0, 0⟩).base
        let curs := (upto t.wpt).map (currentFrames s area t)
        let gran := curs.map fun ks => (ks.map fun k => granules (s.frame k).demand).sum
        let a : Ask := ⟨g.desc, g.num.toNat, r.first, gran, false⟩
        if !(failRows s core a none).isEmpty then .next (askPreempt s core a)
        else
          match startAcquire s core with
          | (s1, false) => .next s1
          | (s1, true) =>
            match runAcc s1 (queueWho s1 core) fun st => frameWords st core t curs.flatten with
            | (s2, some (.ok (.ok ws))) =>
              let s3 := restoreTeam (dropOldCode s2 core g) core tk g.desc ws
              .next (drainBack (s3.modCore core fun c => { c with queue := rest, lastAdm := some c.cycle.toNat })).wake
            | (s2, _) => .next s2
    | _, _ => .next s

/-! ### User-level interrupts (R399–R401) -/

/-- The warp that receives a team's interrupts (R400): warp WARP, or the lowest that has a lane left. -/
def uiTarget (s : State) (tk : Nat) : Option Nat :=
  let ws := s.teamWarps tk
  match ws.find? fun wk => (s.warp wk).wix == (s.team tk).uiwarp.toNat with
  | none => none
  | some wk =>
    if liveLanes s wk != 0 then some wk
    else
      (ws.filter fun k => liveLanes s k != 0).foldl (fun (b : Option Nat) k =>
        match b with
        | none => some k
        | some x => if (s.warp k).wix < (s.warp x).wix then some k else some x) none

/-- UINTR_DELIVER (R400): the oldest queued interrupt enters the handler of USERINT, with an acquire at package scope. -/
def execUintrDeliver (tk : Nat) (s : State) : Host.Outcome State Fault Refusal :=
  let t := s.team tk
  match t.uiq, uiTarget s tk with
  | (src, dat) :: rest, some wk =>
    let w := s.warp wk
    let lm := (upto 32).filter fun l => (s.lane wk l).st == .run && (s.lane wk l).cix == 0
    let busy := match t.phase with | .running => false | .draining _ => false | _ => true
    match lm with
    | [] => .next s
    | l0 :: _ =>
      if !t.uien || !w.closed || w.parked || w.parking || busy || w.trec.v then .next s
      else
        let h : Who := whoLane s wk l0
        match acquireAct s h 1 with
        | (s1, some none) => .next s1
        | (s1, some (some _)) => .next (s1.unwait h.who)
        | (s1, none) =>
          let pcs := lm.map fun l => (l, (s.lane wk l).pc)
          let pc0 := (s.lane wk l0).pc
          let s2 := (s1.unwait h.who).modTeam tk fun u => { u with uiq := rest }
          let s3 := takeTrap s2 wk lm .userint 0 ⟨pc0, 0, 0, pc0, 0⟩ false false 0 src dat [] false
          .next (pcs.foldl (fun st e => st.modLane wk e.1 fun ln => { ln with rpc := e.2, rix := 0 }) s3).wake
  | _, _ => .next s

/-- UIDB (R401): a post by privileged host software. -/
def execUidb (handle datum : BitVec 32) (s : State) : Host.Outcome State Fault Refusal :=
  let r := postUintr s handle none 0xFFFFFFFF datum
  .next (if r.2 = 0 then r.1.wake else { s with pkg := { s.pkg with uidrop := s.pkg.uidrop + 1 } })

end Sys2Proof.Machine
end

