-- ==== Sys2Proof/Machine/Response.lean ====
section
/-! DEFINITION. Responses and timeouts of memory requests (R142, R223, R225, R340, R346): DEFERRED_RESPONSE,
LOCAL_MEMORY_RESPONSE and REMOTE_TIMEOUT; what a line holds back until its acknowledgements are in (R339); copies that leave the
package (R337, R344). -/

namespace Sys2Proof.Machine

/-- DEFERRED_RESPONSE (R142, R144, R148): the read of deferred result `id` is performed, if what it needs is there; its
registers become FULL, or take a fault note; the result of a cancelled producer is discarded. -/
def execDeferredResponse (id : Nat) (s : State) : Host.Outcome State Fault Refusal :=
  match s.defers.find? fun d => d.id == id && !d.isHost with
  | none => .next s
  | some d =>
    let r := tryDefer s d
    .next (if r.2 then r.1.wake else r.1)

/-- A request that has been answered leaves (R225). -/
def dropReq (s : State) (id : Nat) : State := { s with reqs := s.reqs.filter fun r => r.id != id }

/-- Whether those who wait for a request of a line homed in the package may go on: nothing is asked of its holders any more, or its
owner has answered, the write may go on, and the other answers count in the writer's acknowledgements (R421). -/
def homeReady (s : State) (r : Req) : Bool :=
  match s.txOf (localOf r.line) with
  | none => true
  | some t =>
    r.kind != .copyx && (t.grants none || t.grants s.pkg.host && r.waiters.all fun w => w.1 == hostParty)

/-- LOCAL_MEMORY_RESPONSE (R225, R335, R421): what request `id` of a line homed in the package waits for is over; those who wait for the
line go on. -/
def execLocalMemoryResponse (id : Nat) (s : State) : Host.Outcome State Fault Refusal :=
  match s.reqs.find? fun r => r.id == id && r.line < 2 ^ 50 && agentOf r.line == s.pkg.agent with
  | none => .next s
  | some r => if homeReady s r then .next (dropReq s id).wake else .next s

/-- A request of a waiter has timed out (R346): a deferred result is FAULTED at once; any other waiter takes the failure when
it next looks. -/
def timeOut (s : State) (line : Nat) (w : Waiter) : State :=
  match w with
  | .defer id =>
    match s.defers.find? fun d => d.id == id with
    | some d => endDefer s d (.error .timeout)
    | none => s
  | _ => { s with fails := s.fails ++ [⟨w, line, .timeout⟩] }

/-- The number under which REMOTE_TIMEOUT names the acknowledgement count of a line. -/
def ackName (line : Nat) : Nat := 2 ^ 60 + line

/-- Complete a host write once the counts of all its lines are zero (R323, R364): a host access at the home is an access under the Datre
rules, so no party outside the package learns of it while a stale copy can be read. -/
def State.hostDone (s : State) (addr : Nat) (lines : List Nat) : State :=
  match lines.find? fun l => !s.noAcks l with
  | some l => { s with fwds := s.fwds ++ [(l, .hostDone addr lines)] }
  | none => s.send (.hostMemDone addr false)

/-- The package drops its copy of a remote line (R337), or of a half of a line homed at a host (number + 2^50, R344, R362). No notice goes
to a home that cannot be reached (R356), and a written copy of its line stays. -/
def dropCopy (s : State) (line : Nat) : State :=
  if 2 ^ 50 ≤ line then
    let half := line - 2 ^ 50
    match tfind s.halves half with
    | none => s
    | some h =>
      { s with halves := tdel s.halves half }.send (.hostEvict half (if h.st = LineState.modified && !h.bad then h.bytes else []))
  else
    match tfind s.copies line with
    | none => s
    | some c =>
      let g := agentOf line
      let s1 := { s with copies := tdel s.copies line }
      if !s.noAcks line then s
      else
        match c.st with
        | .inv => s1
        | .shared | .excl => if s.reaches g then s1.request g (.evs line s.ownCell) else s1
        | _ =>
          if s.reaches g then
            { s1.request g (.wbm line s.ownCell c.data) with
              wbuf := s1.wbuf ++ [{ line := line, data := c.data, given := false }] }
          else s

/-- Lines of other homes that the package can hold (R216): four L2s of 96 MiB and the far-line cache (log 81). -/
def State.copyRoom (s : State) : Nat := 4 * 96 * 2 ^ 13 + s.pkg.farGiB * 2 ^ 23

/-- The state after the first of some copies that can be dropped has gone, if there is one. -/
def dropOne (s : State) : List (Nat × Copy) → Option State
  | [] => none
  | e :: r => let t := dropCopy s e.1; if (tfind t.copies e.1).isNone then some t else dropOne s r

/-- Room for the copy of one more line (R2, R216): with the caches full, one that owes nothing goes; none if none can. -/
def roomForCopy (s : State) (line : Nat) : Option State :=
  if (tfind s.copies line).isSome || s.copies.length < s.copyRoom then some s else dropOne s s.copies

/-- The line and the destination of an answer to a forward (R334). -/
def Packet.fwdTo : Packet → Option (Nat × Nat)
  | .fwddata l d _ _ _ | .fwdack l d _ _ | .invack l d | .miss l d => some (l, d)
  | _ => none

/-- The answers to a forward of a home that have gone out since the outbox held `n` packets carry its mark (R358). -/
def fwdMarks (home n : Nat) (s : State) : State :=
  if s.pkg.fmarks.contains home then
    ((s.out.drop n).filterMap Packet.fwdTo).foldl (fun (st : State) e => st.send (.marked e.1 e.2))
      { s with pkg := { s.pkg with fmarks := s.pkg.fmarks.erase home } }
  else s

/-- Note in the outstanding requests to read a line that something has overtaken their Data (R316, R357, log 91). -/
def markReads (s : State) (line : Nat) (f : Req → Req) : State :=
  { s with reqs := s.reqs.map fun (r : Req) => if r.line = line && r.kind == .rds then f r else r }

/-- The line that an Inv, or a write under another request, has overtaken: a Data S to come is stale (log 91). -/
def staleReads (s : State) (line : Nat) : State := markReads s line fun r => { r with inv := true }

/-- Whether a forward serves another agent than the package. -/
def Fwd.forOther (f : Fwd) (self : Nat) : Bool :=
  match f with
  | .fwds q | .fwdx q _ => q != self
  | _ => true

/-- The owner's answers to a forward (R337, R338). One that finds no copy while a Data E may be on its way tells the home that there is
none, so the line of that Data is given to another (log 91). -/
def answerForward (s : State) (line : Nat) (f : Fwd) : State :=
  let home := agentOf line
  let buf := s.wbuf.find? fun e => e.line == line && !e.given
  let own := (tfind s.copies line).filter fun c => c.st == .excl || c.st == .modified || c.st == .owned
  let put (c : Copy) (st : LineState) (x : State) : State :=
    { x with copies := if st = .inv then tdel x.copies line else tset x.copies line { c with st := st } }
  match own, buf with
  | some c, _ =>
    let dirty := c.st == .modified
    match f with
    | .fwds req =>
      put c (if c.st = .excl then .shared else .owned)
        ((s.send (.fwddata line req .shared 0 c.data)).send (.fwdack line home dirty c.data))
    | .fwdx req ac => put c .inv ((s.send (.fwddata line req .modified ac c.data)).send (.fwdack line home false c.data))
    | .wbreq inval => put c (if inval then .inv else .shared) (s.send (.fwdack line home (c.st != .excl) c.data))
    | _ => s
  | none, some b =>
    let give (x : State) : State :=
      { x with wbuf := x.wbuf.map fun (e : WbEntry) => if e.line = line then { e with given := true } else e }
    match f with
    | .fwds req => (s.send (.fwddata line req .shared 0 b.data)).send (.fwdack line home true b.data)
    | .fwdx req ac => give ((s.send (.fwddata line req .modified ac b.data)).send (.fwdack line home false b.data))
    | .wbreq inval => (if inval then give else id) (s.send (.fwdack line home true b.data))
    | _ => s
  | none, none =>
    (if f.forOther s.pkg.agent then markReads s line fun r => { r with gone := true } else s).send (.miss line home)

/-- A forward is answered, with its mark (R337, R358). -/
def serveForward (s : State) (line : Nat) (f : Fwd) : State := fwdMarks (agentOf line) s.out.length (answerForward s line f)

/-- Serve what a line has held, once its count is zero (R322, R339, R364): a forward; a request to this home; the completion of a host
write, which waits for its other lines too. -/
def serveFwd (s : State) (line : Nat) (f : Fwd) : State :=
  match f with
  | .home i => s.serve i
  | .hostDone addr lines => s.hostDone addr lines
  | _ => serveForward s line f

/-- Whether acknowledgements of a line are still to come: early ones, which count against an AC to come, owe nothing (R338, R339). -/
def State.owesAcks (s : State) (line : Nat) : Bool := s.acks.any fun a => a.line == line && decide (0 < a.count)

/-- Serve what a line has held back, in arrival order, once no acknowledgement is owed (R339). -/
def serveHeld (s : State) (line : Nat) : State :=
  if !s.owesAcks line then
    let held := s.fwds.filter fun e => e.1 == line
    held.foldl (fun st e => serveFwd st line e.2) { s with fwds := s.fwds.filter fun e => e.1 != line }
  else s

/-- REMOTE_TIMEOUT (R340, R346): the timeout of request `id` has expired for the waiters whose deadline has passed; or, for
`ackName line`, a count that is still owed is set to zero and what waits for it fails. -/
def execRemoteTimeout (id : Nat) (s : State) : Host.Outcome State Fault Refusal :=
  if 2 ^ 60 ≤ id then
    match s.acks.find? fun a => ackName a.line == id && a.deadline ≤ s.usec with
    | none => .next s
    | some a =>
      let s1 := { s with acks := s.acks.filter fun x => x.line != a.line }
      .next (serveHeld (a.waiters.foldl (fun st w => timeOut st a.line w) s1) a.line).wake
  else
    match s.reqs.find? fun r => r.id == id with
    | none => .next s
    | some r =>
      let late := (r.waiters.filter fun e => e.2 ≤ s.usec).map (·.1)
      if late.isEmpty then .next s
      else
        let rest := r.waiters.filter fun e => s.usec < e.2
        let gone := rest.isEmpty && (r.kind.untracked || r.kind == .clrp)
        let s1 := { s with reqs := (s.reqs.map fun (x : Req) => if x.id = id then { x with waiters := rest } else x).filter
                            fun (x : Req) => !(gone && x.id == id) }
        .next (late.foldl (fun st w => timeOut st r.line w) s1).wake

end Sys2Proof.Machine
end

