-- ==== Sys2Proof/Machine/Datre.lean ====
section
/-! DEFINITION. The rows of the Datre protocol (R334–R351): requests at the home, messages at an agent, changes of the selvedge
table, death and recovery. A packet to another agent is sent into `out`; what other agents send arrives as one of these
rows (log 1). -/

namespace Sys2Proof.Machine

/-! ### Requests at the home (R335, R336, R342, R349, R360, R438) -/

/-- Whether a local line lies in the secure region (R438). -/
def inSecure (s : State) (l : Nat) : Bool := s.pkg.secBase * 2 ^ 30 ≤ 128 * l && 128 * l < s.pkg.secLim * 2 ^ 30

/-- The line and the destination of a response packet of a home. -/
def Packet.answerTo : Packet → Option (Nat × Nat)
  | .data l d _ _ _ | .grant l d _ _ | .wback l d | .dirtyack l d | .refuse l d | .poison l d => some (l, d)
  | .word a d _ => some (a / 128, d)
  | _ => none

/-- The responses that have gone out since the outbox held `n` packets carry the mark of their requests (R358). -/
def echoMarks (n : Nat) (s : State) : State :=
  ((s.out.drop n).filterMap Packet.answerTo).foldl (fun (st : State) e =>
    if st.pkg.marks.contains e.2 then
      { st.send (.marked e.1 e.2) with pkg := { st.pkg with marks := st.pkg.marks.erase e.2 } }
    else st) s

/-- Keep the cell id that a request carries (R329), also that of a block copy. -/
def noteCell (s : State) (src cell : Nat) : State :=
  if isHost src then s else { s with pkg := { s.pkg with seen := tset s.pkg.seen src (cell % noCell) } }

/-- A host's cached access to the secure region (R345, R438): a read gets the poison indicator, a write is discarded and counted in HERR;
a notice has no effect. -/
def hostSecure (s : State) (i : Instr) : State :=
  let line := reqLine i
  let src := reqSrc i
  match i with
  | .wbm .. => { s with pkg := { s.pkg with herrW := s.pkg.herrW + 1 } }.send (.wback line src)
  | .wbu .. => { s with pkg := { s.pkg with herrW := s.pkg.herrW + 1 } }
  | .clrp .. => s.send (.wback line src)
  | .dirty .. => s.send (.dirtyack line src)
  | .evs .. => s
  | _ => s.send (.poison line src)

/-- Serve a request row: messages of fenced agents are dropped (R349); a request for a dead home, which reaches the package
when it is the designated neighbour, gets Poison (R360); so does a request into the secure region from a package without
a secure core, and a read of it by a host (R438); the home serves the rest. -/
def homeRow (s : State) (i : Instr) : Host.Outcome State Fault Refusal :=
  let g := agentOf (reqLine i)
  let n := s.out.length
  if s.pkg.fenced.contains (reqSrc i) then .next s
  else if g ≠ s.pkg.agent then
    .next (if s.pkg.fenced.contains g then echoMarks n (s.send (.poison (reqLine i) (reqSrc i))) else s)
  else
    let s1 := noteCell s (reqSrc i) (cellId i)
    if inSecure s (localOf (reqLine i)) && isHost (reqSrc i) then .next (echoMarks n (hostSecure s1 i)).wake
    else if inSecure s (localOf (reqLine i)) && !Config.secureAgent (reqSrc i) then
      .next (echoMarks n (s1.send (.poison (reqLine i) (reqSrc i))))
    else .next (echoMarks n (s1.serve i)).wake

/-- RDS (R336). -/
def execRds (src : Sender) (line : Nat) (s : State) : Host.Outcome State Fault Refusal := homeRow s (.rds src line)

/-- RDX (R336). -/
def execRdx (src cell line : Nat) (s : State) : Host.Outcome State Fault Refusal := homeRow s (.rdx src cell line)

/-- UPG (R336). -/
def execUpg (src cell line : Nat) (s : State) : Host.Outcome State Fault Refusal := homeRow s (.upg src cell line)

/-- WRFULL (R336, R351). -/
def execWrfull (src cell line : Nat) (s : State) : Host.Outcome State Fault Refusal := homeRow s (.wrfull src cell line)

/-- RDU (R217, R336). -/
def execRdu (src cell line : Nat) (wr : Bool) (s : State) : Host.Outcome State Fault Refusal :=
  homeRow s (.rdu src cell line wr)

/-- WBU (R33, R217, R336). -/
def execWbu (src cell line : Nat) (mask : WbuMask) (dat : LineData) (s : State) : Host.Outcome State Fault Refusal :=
  homeRow s (.wbu src cell line mask dat)

/-- RDNC (R230, R336). -/
def execRdnc (src : Sender) (addr : Nat) (s : State) : Host.Outcome State Fault Refusal := homeRow s (.rdnc src addr)

/-- EVS (R336, R338). -/
def execEvs (src : Sender) (line : Nat) (s : State) : Host.Outcome State Fault Refusal := homeRow s (.evs src line)

/-- WBM (R336, R338). -/
def execWbm (src : Sender) (line : Nat) (dat : LineData) (s : State) : Host.Outcome State Fault Refusal :=
  homeRow s (.wbm src line dat)

/-- DIRTY (R336, R338). -/
def execDirty (src : Sender) (line : Nat) (s : State) : Host.Outcome State Fault Refusal := homeRow s (.dirty src line)

/-- CLRP (R336, R351). -/
def execClrp (src : Sender) (line : Nat) (s : State) : Host.Outcome State Fault Refusal := homeRow s (.clrp src line)

/-! ### Messages at an agent (R337–R339) -/

/-- Whether a message comes from a fenced agent, which is dropped (R349). -/
def isFenced (s : State) (a : Nat) : Bool := s.pkg.fenced.contains a

/-- No L1 of the package keeps a line that it has not written. -/
def dropCleanL1 (s : State) (line : Nat) : State :=
  { s with cores := s.cores.map fun (e : Nat × Core) => (e.1, { e.2 with l1 := e.2.l1.filter fun x => x.line != line || !x.clean }) }

/-- INV (R337, R338): the copy goes, whether there is one or not, and the collector gets its acknowledgement; a Data S on its way is stale
(log 91). An Inv that the home collects itself takes the line back, and it may become P, so that no L1 keeps a clean copy of it either
(R351). An Inv to a dead agent reaches its designated neighbour, which acknowledges it (R349, R360). -/
def execInv (msg : LineMsg) (collector : Nat) (s : State) : Host.Outcome State Fault Refusal :=
  if isFenced s (agentOf msg.line) then .next s
  else if msg.agent = s.pkg.agent then
    let s1 := staleReads { s with copies := tdel s.copies msg.line } msg.line
    let s2 := if collector = agentOf msg.line then dropCleanL1 s1 msg.line else s1
    .next (fwdMarks (agentOf msg.line) s.out.length (s2.send (.invack msg.line collector))).wake
  else .next (if isFenced s msg.agent then fwdMarks (agentOf msg.line) s.out.length (s.send (.invack msg.line collector)) else s)

/-- A forward arrives (R339): it is held while acknowledgements of the line are owed. One to a dead agent gets Miss from its designated
neighbour (R349, R360). -/
def fwdRow (s : State) (msg : LineMsg) (f : Fwd) : Host.Outcome State Fault Refusal :=
  if isFenced s (agentOf msg.line) then .next s
  else if msg.agent = s.pkg.agent then .next (serveHeld { s with fwds := s.fwds ++ [(msg.line, f)] } msg.line).wake
  else .next (if isFenced s msg.agent then fwdMarks (agentOf msg.line) s.out.length (s.send (.miss msg.line (agentOf msg.line))) else s)

/-- FWDS (R337, R339). -/
def execFwds (msg : LineMsg) (req : Nat) (s : State) : Host.Outcome State Fault Refusal := fwdRow s msg (.fwds req)

/-- FWDX (R337, R339). -/
def execFwdx (msg : LineMsg) (req ac : Nat) (s : State) : Host.Outcome State Fault Refusal := fwdRow s msg (.fwdx req ac)

/-- WBREQ (R337). -/
def execWbreq (msg : LineMsg) (inval : Bool) (s : State) : Host.Outcome State Fault Refusal := fwdRow s msg (.wbreq inval)

/-- The oldest request for a line of one of some kinds. -/
def findReq (s : State) (line : Nat) (k : DReq → Bool) : Option Req := s.reqs.find? fun r => r.line == line && k r.kind

/-- Requests for ownership. -/
def DReq.owns : DReq → Bool
  | .rdx | .upg | .wrfull | .copyx => true
  | _ => false

/-- The deadline of the acknowledgements of a request (R340): that of its last waiter, or the default timeout of its core if
all have given up. -/
def ackDeadline (s : State) (r : Req) : Nat :=
  let ds := r.waiters.map (·.2)
  if ds.isEmpty then s.usec + (s.core (r.cores.headD 0)).tdef.toNat else ds.foldl max 0

/-- Hand an answer that no cache keeps to those who asked for it, with what the package has written of the line since (R217). -/
def handOver (s : State) (r : Req) (d : LineData) : State :=
  let w := match r.kind with | .rdu w => w | _ => false
  let d1 := r.newer.foldl (fun x p => lineMerge x p.data p.mask p.words p.blks) d
  let ts := r.waiters.map fun e => ({ who := e.1, line := r.line, w := w, data := d1 } : Transit)
  (dropReq { s with transit := s.transit ++ ts } r.id).wake

/-- The line is in the cache: the acknowledgements that its Data or Grant announces count from now on (R339), and the request is over. -/
def answered (s : State) (r : Req) (ac : Nat) : State :=
  (serveHeld (dropReq (s.addAcks r.line r.cores [] ac (ackDeadline s r)) r.id) r.line).wake

/-- Install a line in the state granted (R339, R347): with no room for it the message waits at the package's own next acts (R2). What it
brings under another request than a read makes the Data of such a read stale. -/
def putCopy (s : State) (r : Req) (st : LineState) (ac : Nat) (d : LineData) : State :=
  match roomForCopy s r.line with
  | none => { s with agenda := s.agenda ++ [.dataHere r.line st ac d] }
  | some s1 =>
    let s2 := { s1 with copies := tset s1.copies r.line { st := st, data := d } }
    answered (if r.kind == .rds then s2 else staleReads s2 r.line) r ac

/-- The Data of a read is stale (R316, log 91): it is not installed, and the line is asked for again if anybody still waits for it. -/
def askAgain (s : State) (r : Req) : State :=
  if r.waiters.isEmpty then (dropReq s r.id).wake
  else
    { s with reqs := s.reqs.map fun (x : Req) => if x.id = r.id then { x with inv := false, gone := false } else x }.post r.kind r.line

/-- A line arrives as the answer to a tracked request (R339, R347): the Data of a read finds a copy that another request has brought in its
place, or is stale, or is installed. -/
def install (s : State) (r : Req) (st : LineState) (ac : Nat) (d : LineData) : State :=
  let reads : Bool := st == .shared || st == .excl
  let held : Bool := match tfind s.copies r.line with | some c => c.st != .inv | none => false
  if reads && held then answered s r ac
  else if st == .shared && r.inv || st == .excl && r.gone then askAgain s r
  else putCopy s r st ac d

/-- Do what a message from an agent asks for, unless the agent is fenced (R349). -/
def fromAgent (s : State) (a : Nat) (t : State) : Host.Outcome State Fault Refusal := .next (if isFenced s a then s else t)

/-- Do it to the oldest request for a line of one of some kinds, if there is one. -/
def withReq (s : State) (line : Nat) (k : DReq → Bool) (f : Req → State) : State :=
  match findReq s line k with
  | some r => f r
  | none => s

/-- DATA (R334, R339, R347): the answer to a request for the line; one with state I answers an untracked read (R217). -/
def execData (line : Nat) (st : LineState) (ac : Nat) (dat : LineData) (s : State) : Host.Outcome State Fault Refusal :=
  fromAgent s (agentOf line) (match st with
    | .inv => withReq s line DReq.untracked fun r => handOver s r dat
    | .shared | .excl => withReq s line (· == .rds) fun r => install s r st ac dat
    | _ => withReq s line DReq.owns fun r => install s r .modified ac dat)

/-- FMT and SCALE of a line as a list of its two blocks. -/
def setMetas (d : LineData) (md : List (Byte × Byte)) : LineData :=
  { d with fmt := md.map (·.1), scale := md.map (·.2) }

/-- A line held M without data: its bytes are what nothing states until they are written (log 21), its metadata is what the home or the
former owner has (log 76). -/
def fillLine (s : State) (r : Req) (ac : Nat) (md : List (Byte × Byte)) : State :=
  let d := setMetas { lineCleared with bytes := (upto 128).map (Config.grantByte s.fresh) } md
  putCopy { s with fresh := s.fresh + 1, fills := s.fills.filter (·.1 != r.line) } r .modified ac d

/-- The metadata that the former owner's answer to a WrFull has brought. -/
def givenMeta (r : Req) : List (Byte × Byte) :=
  match r.given with
  | some d => [lineMeta d 0, lineMeta d 1]
  | none => []

/-- GRANT (R334, R339): ownership without data. With neither the metadata of the home nor those of the former owner at hand, it waits
for the latter's answer (log 76). -/
def execGrant (line : Nat) (own : GrantWith) (s : State) : Host.Outcome State Fault Refusal :=
  fromAgent s (agentOf line) (withReq s line DReq.owns fun r =>
    let md1 := if own.md.isEmpty then givenMeta r else own.md
    let all := own.ac + ((s.fills.find? (·.1 == line)).map (·.2)).getD 0
    match tfind s.copies line with
    | some c => putCopy s r .modified own.ac c.data
    | none => if md1.isEmpty then { s with fills := s.fills ++ [(line, own.ac)] } else fillLine s r all md1)

/-- FWDDATA (R334): the owner's line as the Data of the request; for WrFull the Grant is the answer, and the data are discarded (R336), but
for FMT and SCALE (log 76). -/
def execFwddata (msg : LineMsg) (st : LineState) (ac : Nat) (dat : LineData) (s : State) : Host.Outcome State Fault Refusal :=
  fromAgent s msg.agent (match st with
    | .shared => withReq s msg.line (· == .rds) fun r => install s r .shared ac dat
    | _ =>
      match findReq s msg.line fun k => k.owns && k != .wrfull with
      | some r => install s r .modified ac dat
      | none =>
        withReq s msg.line (· == .wrfull) fun r =>
          match s.fills.find? (·.1 == msg.line) with
          | some e => fillLine s r e.2 [lineMeta dat 0, lineMeta dat 1]
          | none => { s with reqs := s.reqs.map fun (x : Req) => if x.id = r.id then { x with given := some dat } else x })

/-- Count one acknowledgement of a line (R338, R340): before its Data or Grant it counts against the AC to come; for a count
already set to zero it is discarded. -/
def countAck (s : State) (line src : Nat) : State :=
  match s.acks.find? fun a => a.line == line with
  | some _ =>
    let s1 := { s with acks := s.acks.map fun (a : Acks) =>
      if a.line = line then { a with owe := tookAck s.pkg.fenced a.owe src } else a }
    serveHeld (s1.addAcks line [] [] (-1) 0) line
  | none =>
    if agentOf line = s.pkg.agent then s
    else withReq s line DReq.owns fun r => s.addAcks line r.cores [] (-1) (ackDeadline s r)

/-- An acknowledgement of an invalidation arrives (R338): at the home for a line that it recalls, else at the writer. -/
def ackArrives (s : State) (line src : Nat) : State :=
  let l := localOf line
  if agentOf line = s.pkg.agent && (match s.txOf l with | some t => !t.owe.isEmpty | none => false) then s.homeAck l src
  else countAck s line src

/-- A row that may let the home answer requests: their marks go with the answers (R358). -/
def answerRow (s : State) (src : Nat) (t : State) : Host.Outcome State Fault Refusal :=
  fromAgent s src (echoMarks s.out.length t).wake

/-- INVACK (R338). -/
def execInvack (msg : LineMsg) (s : State) : Host.Outcome State Fault Refusal :=
  answerRow s msg.agent (ackArrives s msg.line msg.agent)

/-- FWDACK (R335, R336): the forward has been served, or the line has been written back. -/
def execFwdack (msg : LineMsg) (dirty : Bool) (dat : LineData) (s : State) : Host.Outcome State Fault Refusal :=
  if agentOf msg.line ≠ s.pkg.agent then .next s
  else answerRow s msg.agent (s.ownerReply (localOf msg.line) msg.agent false dirty dat)

/-- MISS (R338): the owner had dropped a clean line. -/
def execMiss (msg : LineMsg) (s : State) : Host.Outcome State Fault Refusal :=
  if agentOf msg.line ≠ s.pkg.agent then .next s
  else answerRow s msg.agent (s.ownerReply (localOf msg.line) msg.agent true false lineCleared)

/-- WBACK (R338): the write-back buffer entry is free; with none, it answers a ClrP (log 16). -/
def execWback (line : Nat) (s : State) : Host.Outcome State Fault Refusal :=
  fromAgent s (agentOf line)
    (if s.wbuf.any fun e => e.line == line then { s with wbuf := dropFirst (fun e => e.line == line) s.wbuf }.wake
     else withReq s line (· == .clrp) fun r => handOver s r lineCleared)

/-- DIRTYACK (R338). -/
def execDirtyack (line : Nat) (s : State) : Host.Outcome State Fault Refusal :=
  if s.acks.any fun a => a.line == line && a.dirties != 0 then
    let s1 := { s with acks := s.acks.map fun (x : Acks) => if x.line = line then { x with dirties := x.dirties - 1 } else x }
    fromAgent s (agentOf line) (serveHeld (s1.addAcks line [] [] (-1) 0) line).wake
  else .next s

/-- Fail a request (R342, R346, R347, R351): its waiters take the failure; with none left, it is discarded. -/
def refuseReq (s : State) (r : Req) (why : RemoteFail) : State :=
  { dropReq s r.id with fails := s.fails ++ r.waiters.map fun (e : Waiter × Nat) => (⟨e.1, r.line, why⟩ : Fail) }.wake

/-- REFUSE (R342): the answer to a request that the selvedge check has refused; a block copy's meets none (R383). -/
def execRefuse (line : Nat) (s : State) : Host.Outcome State Fault Refusal :=
  fromAgent s (agentOf line) (withReq s line (fun k => k.owns && k != .copyx || k == .rdu true) fun r => refuseReq s r .firewall)

/-- A line becomes P at its home (R440, R351): a local line at once, its sharers being invalidated; a remote home is told (log 97).
The package's own copies go; a half of a host's line keeps no bytes that were written. -/
def poisonLine (s : State) (line : Nat) : State :=
  let s0 := { s.dropL1 line with
    copies := tdel s.copies line
    halves := s.halves.map fun (e : Nat × Half) =>
      if e.1 / 2 = line && e.2.st = LineState.modified then (e.1, { e.2 with bad := true }) else e }
  let l := localOf line
  if agentOf line ≠ s.pkg.agent then s0.send (.poison line (agentOf line))
  else
    match s0.holder l with
    | none => s0.setDir l 3
    | some h =>
      let hs := s0.holdersOf h
      let s1 := ((s0.sendInvs line s.pkg.agent hs).freeHolder l).setDir l 3
      if hs.isEmpty || (s1.txOf l).isSome then s1 else s1.startTx l .recall hs false []

/-- POISON (R349, R351): from the home, or from the agent that answers for a dead one; for a line of the package's own, from a holder
that has lost its dirty copy (R440, log 97). -/
def execPoison (line : Nat) (s : State) : Host.Outcome State Fault Refusal :=
  .next (if agentOf line = s.pkg.agent then (poisonLine s line).wake
    else withReq s line (fun _ => true) fun r => refuseReq s r .poison)

/-! ### The selvedge table (R341, R343) -/

/-- The cell of an agent (R329): the package's own for itself and its attached host; for another, the one that its requests have
carried, or, with none so far, one that this package does not know (log 20). -/
def State.cellOf (s : State) (a : Nat) : Nat :=
  if a = s.pkg.agent || s.pkg.host = some a then s.ownCell else (tfind s.pkg.seen a).getD (Config.cellOf a)

/-- Whether the change of a page under way excludes a cell (R343): a set that the page has named before admits it, and the new one does
not. -/
def cellOut (s : State) (page cell : Nat) : Bool :=
  (tget s.pkg.selWas page []).any (fun i => s.inSet i.toNat cell) && !s.inSet (tget s.selPg page 0).toNat cell

/-- The lines of a 64 KiB page that an agent of an excluded cell holds X. -/
def excluded (s : State) (page : Nat) : List Nat :=
  (upto 512).map (fun k => 512 * page + k) |>.filter fun l =>
    s.dir l == 2 && (match (s.holder l).bind Holder.owner with | some q => cellOut s page (s.cellOf q) | none => false)

/-- Write a page byte; the set that it has named is kept until the change is complete (R343, log 68). -/
def setPage (s : State) (page : Nat) (idx : BitVec 8) : State :=
  let old := tget s.selPg page 0
  if old = idx then s
  else
    { s with selPg := tput s.selPg page idx 0
             pkg := { s.pkg with selWas := tset s.pkg.selWas page (tget s.pkg.selWas page [] ++ [old]) } }

/-- SELVEDGE_CHANGE (R343): the byte is written, so that requests from now on meet the new set; lines held X by cells that the page used
to admit and no longer does are taken from their owners, and their sharers stay; the change is reported complete when none is left. -/
def execSelvedgeChange (page : Nat) (idx : BitVec 8) (s : State) : Host.Outcome State Fault Refusal :=
  let s1 := setPage s page idx
  let ls := excluded s1 page
  if ls.isEmpty then
    .next ({ s1 with pkg := { s1.pkg with selWas := tdel s1.pkg.selWas page } }.send (.ocposan "selvedge change complete")).wake
  else .next (ls.foldl (fun st l => if (st.txOf l).isSome then st else st.recallOwner l) s1)

/-! ### Death and recovery (R348–R350, R360) -/

/-- The agents of the cells of some dead packages (R348), but for this package itself. -/
def State.deadCells (s : State) (named : List Nat) : List Nat :=
  let known := (s.pkg.routes.map (·.1)) ++ s.pkg.seen.map (·.1)
  let mates := known.filter fun a => named.any fun d => s.cellOf d == s.cellOf a
  ((named ++ mates).filter fun a => a != s.pkg.agent && !isHost a).eraseDups

/-- Count what dead agents owe as received (R349 step 3): the DirtyAcks of dead homes; the InvAcks of holders that this home has
invalidated itself, and, of lines homed elsewhere, as many as `owed` says, of those that are still to come (log 46). -/
def forgive (s : State) (dead : List Nat) (owed : List (Nat × Nat)) : State :=
  s.acks.foldl (fun st a =>
    let dirties : Nat := if dead.contains (agentOf a.line) then a.dirties else 0
    let acks : Nat := if agentOf a.line = s.pkg.agent then (a.owe.filter dead.contains).length
      else min (((owed.find? (·.1 == a.line)).map (·.2)).getD 0) (a.count.toNat - dirties)
    if dirties + acks = 0 then st
    else
      let s1 := { st with acks := st.acks.map fun (x : Acks) =>
        if x.line = a.line then { x with dirties := x.dirties - dirties, owe := x.owe.filter fun h => !dead.contains h } else x }
      serveHeld (s1.addAcks a.line [] [] (-(dirties + acks : Int)) 0) a.line) s

/-- The designated neighbour of a dead agent (R360): this package, if it is linked to it and has a lower id than the one that the notice
names; none that is dead. -/
def neighbourOf (s : State) (dead : List Nat) (routes : List (Nat × Nat)) (a : Nat) : Option Nat :=
  let told := ((routes.find? (·.1 == a)).map (·.2)).filter fun n => !dead.contains n
  if s.ports.any fun e => e.2.peer == some a then some (min s.pkg.agent (told.getD s.pkg.agent)) else told

/-- The routing entries of dead agents lead to their designated neighbours (R360): NMV 0, and MPORT as toward the neighbour; where that is
the package itself, or there is none, the package answers for the dead one itself. -/
def rerouteDead (s : State) (dead : List Nat) (routes : List (Nat × Nat)) : State :=
  dead.foldl (fun (st : State) a =>
    let w := setBits (tget st.pkg.routes a 0) 44 4 0
    match neighbourOf s dead routes a with
    | none => st.setPkg { st.pkg with routes := tput st.pkg.routes a w 0, desig := tdel st.pkg.desig a }
    | some n =>
      let port := bits (tget st.pkg.routes n 0) 53 48
      let w1 := if n = s.pkg.agent then w else setBits w 48 6 port
      st.setPkg { st.pkg with routes := tput st.pkg.routes a w1 0, desig := tset st.pkg.desig a n }) s

/-- Fence dead agents and let go of what they hold (R349 steps 3 and 4): their messages, the copies of lines homed there with their
dirty bytes, requests and forwards for them; the home's transactions do not wait for them. -/
def fence (s : State) (dead : List Nat) : State :=
  let lost (line : Nat) : Bool := line < 2 ^ 50 && dead.contains (agentOf line)
  let kept (i : Instr) : Bool := !dead.contains (reqSrc i)
  let s1 := { s with
    pkg := { s.pkg with
      fenced := s.pkg.fenced ++ dead.filter fun a => !s.pkg.fenced.contains a
      scanning := true
      heldReq := s.pkg.heldReq.filter fun e => !dead.contains e.1
      marks := s.pkg.marks.filter fun a => !dead.contains a
      fmarks := s.pkg.fmarks.filter fun a => !dead.contains a }
    copies := s.copies.filter fun e => !lost e.1
    fills := s.fills.filter fun e => !lost e.1
    fwds := s.fwds.filter fun e => !lost e.1 && match e.2 with | .home i => kept i | _ => true
    wbuf := s.wbuf.filter fun e => !lost e.line
    homeTx := s.homeTx.map fun (t : HomeTx) => { t with queue := t.queue.filter kept }
    cores := s.cores.map fun (e : Nat × Core) => (e.1, { e.2 with l1 := e.2.l1.filter fun x => !lost x.line }) }
  s1.loseDead dead

/-- Requests to dead homes for which nobody answers meet Poison here (R360). -/
def poisonOrphans (s : State) (dead : List Nat) (routes : List (Nat × Nat)) : State :=
  let alone (a : Nat) : Bool := match neighbourOf s dead routes a with | some n => n == s.pkg.agent | none => true
  let orphan (r : Req) : Bool := r.line < 2 ^ 50 && dead.contains (agentOf r.line) && alone (agentOf r.line)
  (s.reqs.filter orphan).foldl (fun st r => refuseReq st r .poison) s

/-- Whether an entry of the remote-holder table names a dead agent in pointer form. -/
def namesDead (dead : List Nat) (h : Option Holder) : Bool :=
  match h with
  | some (.ptrs _ _ _ ps) => ps.any dead.contains
  | _ => false

/-- The recovery engine reports, once, when no entry names a dead agent in pointer form (R349 step 6). -/
def scanDone (s : State) : State :=
  if !s.pkg.scanning || s.rht.any fun e => e.2.any (namesDead s.pkg.fenced) then s
  else { s with pkg := { s.pkg with scanning := false } }.send (.ocposan "recovery complete")

/-- DEATH_NOTICE (R348, R349 steps 3 to 6, R360): every package of the dead cells is fenced and given up; their routing entries lead to
their designated neighbours. -/
def execDeathNotice (agents : List Nat) (news : DeathNews) (s : State) : Host.Outcome State Fault Refusal :=
  let dead := s.deadCells agents
  if dead.isEmpty then .next s
  else
    let n := s.out.length
    let s1 := poisonOrphans (rerouteDead (fence (forgive s dead news.owed) dead) dead news.routes) dead news.routes
    .next (echoMarks n (scanDone s1)).wake

/-- DEATH_DECLARE (R348, R349, R359): every link to a neighbour has been silent for 50 µs; the notice names it, and the package fences its
cell at once. -/
def execDeathDeclare (seen : DeathSeen) (s : State) : Host.Outcome State Fault Refusal :=
  let links := s.ports.filter fun e => e.2.peer == some seen.agent
  if links.isEmpty || isFenced s seen.agent || links.any (fun e => s.usec < e.2.heard + 50) then .next s
  else
    let dead := s.deadCells [seen.agent]
    .next (scanDone (fence (forgive (s.send (.death [seen.agent])) dead seen.owed) dead)).wake

/-- A fenced agent has booted again (R348): its messages count from now on, and nobody answers for it. -/
def unfence (s : State) (agent : Nat) : State :=
  { s with pkg := { s.pkg with fenced := s.pkg.fenced.filter (· != agent), desig := tdel s.pkg.desig agent } }.wake

/-- RECOVERY_SCAN (R349 steps 5 and 6, R350): the recovery engine applies the rule to one line; when no entry names a dead
agent any more, whichever request or answer has dealt with the last, it reports. A line that is busy is scanned again. -/
def execRecoveryScan (line : Nat) (s : State) : Host.Outcome State Fault Refusal :=
  let l := localOf line
  if !namesDead s.pkg.fenced (s.holder l) || (s.txOf l).isSome then .next (scanDone s)
  else .next (scanDone (s.recover l)).wake

end Sys2Proof.Machine
end

