-- ==== Sys2Proof/Machine/Fabric.lean ====
section
/-! DEFINITION. Fabric ports, routing, congestion and heartbeats (R352–R360), and the host link (R344, R345, R362–R364). -/

namespace Sys2Proof.Machine

/-! ### Ports (R353, R354) -/

/-- Lanes of a port that pass. -/
def Port.goodLanes (p : Port) : Nat := 4 - ((upto 4).filter fun i => p.bad.testBit i).length

/-- The width that training picks (R354): the widest that the lanes which pass allow, and no wider than WCAP. -/
def Port.pick (p : Port) : BitVec 2 :=
  let n := p.goodLanes
  let w : Nat := if n = 4 then 3 else if 2 ≤ n then 2 else n
  BitVec.ofNat 2 (min w p.wcap.toNat)

/-- Whether the package takes part in the fabric (R434, R440). -/
def fabricOn (s : State) : Bool := s.pkg.fwst == .ready && !s.pkg.stopped

/-- A port trains with a neighbour that offers transaction-layer version 1 (R353, R354); its heartbeats start (R359). -/
def trainPort (s : State) (port peer version : Nat) : State :=
  let p := s.port port
  if 36 ≤ port || p.up || p.pick = 0 || version = 0 then s
  else
    (s.setPort port { p with up := true, peer := some peer, tlv := 1, width := p.pick, rtrn := false, hbl := false
                             heard := s.usec, sent := s.usec }).wake

/-- LINK_UP (R353, R354): a link of a package that is ready comes up. -/
def execLinkUp (port peer version : Nat) (s : State) : Host.Outcome State Fault Refusal :=
  .next (if fabricOn s then trainPort s port peer version else s)

/-- LANE_FAILURE (R354): lanes of a port fail; the width follows at the next flit boundary. -/
def execLaneFailure (port lanes : Nat) (s : State) : Host.Outcome State Fault Refusal :=
  .next (s.setPort port { s.port port with bad := (s.port port).bad ||| lanes % 16 }).wake

/-- WIDTH_CHANGE (R354): at a flit boundary a port that has lost lanes, that RTRN retrains or whose WCAP has changed takes the
width that training picks; with none it goes down. -/
def execWidthChange (port : Nat) (s : State) : Host.Outcome State Fault Refusal :=
  let p := s.port port
  if !p.up || !(p.rtrn || p.width != p.pick) then .next s
  else
    let up := p.pick != 0
    .next (s.setPort port { p with width := p.pick, rtrn := false, up := up, tlv := if up then p.tlv else 0 }).wake

/-- RTRN (R354): a write of 1 asks for training at the next flit boundary. -/
def execRtrn (port : Nat) (s : State) : Host.Outcome State Fault Refusal :=
  .next (s.setPort port { s.port port with rtrn := true }).wake

/-- FLIT_REPLAY (R353, R354): link-level replay repeats a corrupted flit; nothing above the link sees it. -/
def execFlitReplay (_port : Nat) (s : State) : Host.Outcome State Fault Refusal := .next s

/-! ### Heartbeats (R359) -/

/-- HEARTBEAT_SEND: every 10 µs on each trained link; a package that has stopped or failed sends none (R434, R440). -/
def execHeartbeatSend (port : Nat) (s : State) : Host.Outcome State Fault Refusal :=
  let p := s.port port
  if !fabricOn s || !p.up || s.usec < p.sent + 10 then .next s
  else .next ((s.setPort port { p with sent := s.usec }).send (.heartbeat port)).wake

/-- HEARTBEAT: the link is heard, unless its neighbour is fenced (R349). -/
def execHeartbeat (port : Nat) (s : State) : Host.Outcome State Fault Refusal :=
  let p := s.port port
  if !p.up || (p.peer.toList.any s.pkg.fenced.contains) then .next s
  else .next (s.setPort port { p with heard := s.usec, hbl := false }).wake

/-- HEARTBEAT_LOSS: a link silent for 50 µs. -/
def execHeartbeatLoss (port : Nat) (s : State) : Host.Outcome State Fault Refusal :=
  let p := s.port port
  if !p.up || p.hbl || s.usec < p.heard + 50 then .next s
  else .next (s.setPort port { p with hbl := true }).wake

/-! ### Routing (R355–R357) -/

/-- A routing entry. -/
def State.route (s : State) (a : Nat) : Word := tget s.pkg.routes a 0

/-- A word of the routing table is written (R356); its reserved bits stay 0. -/
def Pkg.putRoute (p : Pkg) (a : Nat) (w : Word) : Pkg :=
  if a < 1058 then { p with routes := tput p.routes a (w &&& ~~~(BitVec.ofNat 64 (511 * 2 ^ 54))) 0 } else p

/-- The minimal port toward an agent. -/
def State.mport (s : State) (a : Nat) : Nat := bits (s.route a) 53 48

/-- What a queue counts that is full. -/
def queueFull : Nat := 2 ^ 20

/-- Whether packets leave by a port: a silent link is treated as down (R359). -/
def Port.usable (p : Port) : Bool := p.up && !p.hbl

/-- The flits in a port's queues for a class (R355). -/
def Port.held (p : Port) (cls : Nat) : Nat := ((upto 6).map fun c => tget p.depth (8 * cls + c) 0).sum

/-- The depth of a port's queue for a class, in flits; a port that is down or silent counts as full (R357, R359). -/
def State.portDepth (s : State) (p cls : Nat) : Nat := if (s.port p).usable then (s.port p).held cls else queueFull

/-- Intermediate i of a routing entry. -/
def interOf (w : Word) (i : Nat) : Nat := bits w (11 * i + 10) (11 * i)

/-- The intermediate that the source router routes a request through, if any (R357): the one with the shallowest first-hop
queue, when the minimal queue exceeds twice that depth plus 32 flits. -/
def State.detour (s : State) (dst cls : Nat) : Option Nat :=
  let w := s.route dst
  let is := ((upto 4).filter fun i => w.getLsbD (44 + i)).map (interOf w)
  match is with
  | [] => none
  | a :: r =>
    let q (x : Nat) : Nat := s.portDepth (s.mport x) cls
    let best := r.foldl (fun b x => if q x < q b then x else b) a
    if 2 * q best + 32 < s.portDepth (s.mport dst) cls then some best else none

/-- The threshold of a class (R358). -/
def State.threshold (s : State) (cls : Nat) : Nat :=
  if cls = 0 then bits s.pkg.fmark 47 32 else if cls = 1 then bits s.pkg.fmark 31 16 else bits s.pkg.fmark 15 0

/-- The limiter after a marked response from a target (R358): half the rate, not below the floor; the least recently marked
of 256 entries makes room. -/
def markTarget (s : State) (target : Nat) : State :=
  let low := fullRate / 2 ^ min s.pkg.minsh.toNat 10
  let t := s.pkg.rates
  let r := (tfind t target).getD ⟨fullRate, 0, 0, 0⟩
  let t1 :=
    if (tfind t target).isSome || t.length < 256 then t
    else
      match t with
      | [] => t
      | e :: rest => tdel t (rest.foldl (fun (b : Nat × Rate) x => if x.2.marked < b.2.marked then x else b) e).1
  { s with pkg := { s.pkg with rates := tset t1 target ⟨max low (r.rate / 2), s.usec, s.usec, r.credit⟩ } }

/-- The adaptive channel of a port that has room for a packet of a class, if one has (R355): of two, either. -/
def State.adaptive (s : State) (p cls flits : Nat) : Option Nat :=
  let fits (c : Nat) : Bool := tget (s.port p).depth (8 * cls + c) 0 + flits ≤ Config.chanRoom
  let c := (Config.freeByte s.fresh 0).toNat % 2
  if fits c then some c else if fits (1 - c) then some (1 - c) else none

/-- A packet joins the queue of a channel of a port, marked if the class's queue stands above its threshold (R358). -/
def State.enqueue1 (s : State) (src dst : Nat) (via : Option Nat) (p cls chan flits : Nat) (mark : Bool) : State :=
  let q := s.port p
  let k := 8 * cls + chan
  let s1 := s.setPort p { q with depth := tput q.depth k (tget q.depth k 0 + flits) 0 }
  { s1 with fresh := s1.fresh + 1 }.send (.forwarded src dst via p chan (mark || s.threshold cls < q.held cls))

/-- A packet has reached its destination (R358): a mark on a response slows the requests to its sender; one on a request, or on
a forward of a home, is kept for the response. -/
def arrived (s : State) (src cls : Nat) (mark : Bool) : State :=
  if !mark then s
  else if cls = 2 then (markTarget s src).wake
  else if cls = 0 && !s.pkg.marks.contains src then { s with pkg := { s.pkg with marks := s.pkg.marks ++ [src] } }
  else if cls = 1 && !s.pkg.fmarks.contains src then { s with pkg := { s.pkg with fmarks := s.pkg.fmarks ++ [src] } }
  else s

/-- PACKET_FORWARD (R355–R359): a router takes a packet of class `cls` (0 request, 1 forward, 2 response) on its next link, which is
neither down nor silent. The source router chooses the route of a request. The packet takes an adaptive channel that has room; where
neither has, or it is on the escape channel already, it takes the sub-channel of its link on the minimal port toward its destination. -/
def execPacketForward (src dst : Nat) (via : Option Nat) (cls flits hop : Nat) (mark esc : Bool) (s : State) :
    Host.Outcome State Fault Refusal :=
  if s.pkg.fenced.contains src then .next s
  else if dst = s.pkg.agent then .next (arrived s src cls mark)
  else
    let via' : Option Nat := if src = s.pkg.agent then (if cls = 0 then s.detour dst cls else none) else via.filter (· != s.pkg.agent)
    let target := via'.getD dst
    let goes (a : Nat) : Bool := (s.route a).getLsbD 63 && (s.port (s.mport a)).usable
    let p := s.mport target
    match if !esc && goes target then s.adaptive p cls flits else none with
    | some c => .next (s.enqueue1 src dst via' p cls c flits mark).wake
    | none =>
      if (esc || goes target) && goes dst then .next (s.enqueue1 src dst none (s.mport dst) cls (2 + hop % 4) flits mark).wake
      else .next s

/-- RATE_INCREASE (R358): after INCP µs without a mark a target's rate rises by 1/64; an entry at the full rate is freed. -/
def execRateIncrease (target : Nat) (s : State) : Host.Outcome State Fault Refusal :=
  match tfind s.pkg.rates target with
  | none => .next s
  | some e =>
    if s.usec < e.raised + max 1 s.pkg.incp.toNat then .next s
    else
      let r := e.rate + fullRate / 64
      let t := if fullRate ≤ r then tdel s.pkg.rates target else tset s.pkg.rates target { e with rate := r, raised := s.usec }
      .next { s with pkg := { s.pkg with rates := t } }.wake

/-- Requests that the limiter has kept back go, in order, as far as the rates of their targets allow now (R358). -/
def State.sendHeld (s : State) : State :=
  s.pkg.heldReq.foldl (fun (st : State) e => st.request e.1 e.2) { s with pkg := { s.pkg with heldReq := [] } }

/-- Time passes for the limiter (R358): each target's requests may send as much more as its rate gives, and not more than a port sends in
1 µs at once (log 57). -/
def State.refillRates (s : State) (us : Nat) : State :=
  { s with pkg := { s.pkg with
      rates := s.pkg.rates.map fun (e : Nat × Rate) => (e.1, { e.2 with credit := min fullRate (e.2.credit + us * e.2.rate) }) } }

/-! ### The host link (R344, R345, R363, R364) -/

/-- HOST_SNOOP (R344, R363): the half answers with the state that the snoop meets, and with its bytes if it is dirty; data
snoops leave it S, invalidations I, reads of the current value as it was. Bytes that are lost are not given (R440). -/
def execHostSnoop (half : Nat) (kind : SnoopKind) (s : State) : Host.Outcome State Fault Refusal :=
  match tfind s.halves half with
  | none => .next (if fabricOn s then (s.send (.hostSnoopResp half .inv [])).wake else s)
  | some h =>
    let s1 := s.send (.hostSnoopResp half h.st (if !h.bad && (h.st = .modified || kind = .snpCur) then h.bytes else []))
    match kind with
    | .snpCur => .next s1.wake
    | .snpInv => .next { s1 with halves := tdel s1.halves half }.wake
    | .snpData =>
      let hs := if h.st = LineState.inv then s1.halves else tset s1.halves half { h with st := .shared }
      .next { s1 with halves := hs }.wake

/-- HOST_GO (R344): the host's global-observation response: ownership of a half if it was asked for, else the half to share, or
the answer to a non-caching read. -/
def execHostGo (half : Nat) (dat : LineData) (s : State) : Host.Outcome State Fault Refusal :=
  let key := halfKey half
  let put (r : Req) (st : LineState) : State :=
    (dropReq { s with halves := tset s.halves half { st := st, bytes := lineGet dat (64 * (half % 2)) 64 } } r.id).wake
  match findReq s key DReq.owns with
  | some r => .next (put r .excl)
  | none =>
    match findReq s key fun k => k == .rds with
    | some r => .next (put r .shared)
    | none =>
      match findReq s key DReq.untracked with
      | some r => .next (handOver s r dat)
      | none => .next s

/-- HOST_BI_RESPONSE (R345): the answer to a back-invalidate snoop counts as one InvAck to the collector. -/
def execHostBiResponse (agent line : Nat) (s : State) : Host.Outcome State Fault Refusal :=
  if s.pkg.host ≠ some agent then .next s
  else
    match s.biPend.find? fun e => e.1 == line with
    | none => .next s
    | some e =>
      let s1 := { s with biPend := dropFirst (fun x => x == e) s.biPend }
      .next (if e.2 = s.pkg.agent then ackArrives s1 line agent else s1.send (.invack line e.2)).wake

/-- The host as a party at the home's L2 (R364). -/
def hostWho (s : State) : Who := ⟨32, hostParty, s.pkg.tdef.toNat⟩

/-- A host write at the home, as an access of the host agent (R364): every other holder's copy goes, and the host's own stays (R336). -/
def hostWrite (s : State) (a : Nat) (bs : List Byte) : Acc Unit :=
  pocPutBy (fun st u full => takeHome st (hostWho st) (localOf u) full st.pkg.host) s a false bs (piecesOf a bs.length)

/-- HOST_MEM_READ (R364, R438): the bytes at the home, with the poison indicator for P lines, for the secure region, and, with
zero bytes, outside the decoder. A line that another agent owns is written back first, and no line is read while acknowledgements of a
write of it are owed (R339). -/
def execHostMemRead (addr size : Nat) (s : State) : Host.Outcome State Fault Refusal :=
  if !fabricOn s then .next s
  else if usable s < addr + size then .next (s.send (.hostMemData addr (List.replicate size 0) true)).wake
  else
    let ls := linesOf addr size
    let far (l : Nat) : Bool := s.dir l == 2 && (s.holder l).bind Holder.owner != s.pkg.host
    match ls.find? far with
    | some l => .next ((s.unwait (hostWho s).who).ask (hostWho s) .rds (s.lineOf l)).wake
    | none =>
      let bad := ls.any fun l => s.dir l == 3 || inSecure s l
      if ls.any fun l => !s.noAcks (s.lineOf l) then .next s
      else .next ((s.unwait (hostWho s).who).send (.hostMemData addr (s.hbm.read addr size) bad)).wake

/-- HOST_MEM_WRITE (R11, R364, R438): performed at the home with tags cleared; refused by the selvedge check as a member of the
package's cell, or in the secure region, it is discarded and counted in HERR. Outside the decoder, or into a P line, it
is discarded with the error completion. Its completion waits for the acknowledgements that it has caused (R323). CXL.mem answers only once boot has enabled it (R434). -/
def execHostMemWrite (addr : Nat) (bytes : List (BitVec 8)) (s : State) : Host.Outcome State Fault Refusal :=
  let ls := linesOf addr bytes.length
  if !fabricOn s then .next s
  else if usable s < addr + bytes.length then .next (s.send (.hostMemDone addr true)).wake
  else if ls.any fun l => inSecure s l || !s.admits l s.ownCell then
    .next ({ s with pkg := { s.pkg with herrW := s.pkg.herrW + 1 } }.send (.hostMemDone addr true)).wake
  else
    let s0 := s.unwait (hostWho s).who
    match hostWrite s0 (s.pkg.agent * 2 ^ 40 + addr) bytes with
    | .ok s1 _ => .next (s1.hostDone addr (ls.map s.lineOf)).wake
    | .need k l =>
      let s1 := if (s0.txOf (localOf l)).isSome then s0 else s0.takeBack (localOf l) s.pkg.host
      .next (s1.ask (hostWho s) k l).wake
    | .bad _ => .next (s0.send (.hostMemDone addr true)).wake
    | .stall => .next s0

end Sys2Proof.Machine
end

