-- ==== Sys2Proof/Machine/Boot.lean ====
section
/-! DEFINITION. Boot and firmware (R434, R435), the trusted interface (R439), health (R440–R442) and power (R443), the binding of
submission pages (R76), and cores that go off line (R437). -/

namespace Sys2Proof.Machine

/-! ### Boot (R434, R435) -/

/-- POWER_ON (R434 step 1): the boot ROM has run; FWSTAT is WAIT_IMAGE. -/
def execPowerOn (s : State) : Host.Outcome State Fault Refusal :=
  if s.pkg.power then .next s
  else .next { s with pkg := { s.pkg with power := true, fwst := .waitImage, fwcode := 0 } }.wake

/-- Whether the image buffer takes writes and GO starts a verification (R434). -/
def takesImage (s : State) : Bool := s.pkg.power && (s.pkg.fwst == .waitImage || s.pkg.fwst == .failed)

/-- IMAGE_BUFFER_WRITE (R434 step 2): into the 4 MiB of the buffer; at any other time it is discarded. -/
def execImageBufferWrite (off : Nat) (bytes : List (BitVec 8)) (s : State) : Host.Outcome State Fault Refusal :=
  if !takesImage s || 2 ^ 22 < off + bytes.length then .next s
  else .next { s with pkg := { s.pkg with image := putBytes s.pkg.image off bytes } }.wake

/-- What a write of 1 to FWCTL.GO does (R434). -/
def startVerify (s : State) : State :=
  if takesImage s then { s with pkg := { s.pkg with fwst := .verify, fwcode := 0 } }.wake else s

/-- GO (R434 step 2). -/
def execGo (s : State) : Host.Outcome State Fault Refusal := .next (startVerify s)

/-- Bytes of the image buffer. -/
def imageBytes (s : State) (o n : Nat) : List Byte := (upto n).map fun k => tget s.pkg.image (o + k) 0

/-- Length of the body that the header of the image gives (R435). -/
def bodyLen (s : State) : Nat := ofBytes (imageBytes s 4 4)

/-- The checks of R435 in order: the code of the first that fails, or none. An image fits its LEN of 1 to 4,096 KiB, and its
header has version 1. -/
def imageFault (s : State) : Option Byte :=
  let n := bodyLen s
  let len := s.pkg.fwlen.toNat
  if len < 1 || 4096 < len || len * 1024 < 64 + n + 97 + 96 || imageBytes s 0 1 ≠ [1] then some 0x04
  else
    let key := imageBytes s (64 + n) 97
    if sha384 key ≠ Config.keyDigest then some 0x02
    else if !ecdsaVerify (imageBytes s 0 (64 + n + 97)) key (imageBytes s (64 + n + 97) 96) then some 0x01
    else if (tget s.pkg.image 1 0).toNat < Config.minSvn.toNat then some 0x03
    else none

/-- VERIFY_DONE (R434 step 3, R435). -/
def execVerifyDone (s : State) : Host.Outcome State Fault Refusal :=
  if s.pkg.fwst ≠ .verify then .next s
  else
    match imageFault s with
    | some c => .next { s with pkg := { s.pkg with fwst := .failed, fwcode := c } }.wake
    | none => .next { s with pkg := { s.pkg with fwst := .init, fwcode := 0, svn := tget s.pkg.image 1 0 } }.wake

/-- Step 5 of boot (R434): ports train, the routing table is written, heartbeats start, then the package is READY. -/
def bringUp (s : State) (up : BringUp) : State :=
  let s1 := up.links.foldl (fun st e => trainPort st e.1 e.2.1 e.2.2) s
  let p := up.routes.foldl (fun p e => p.putRoute e.1 e.2) s1.pkg
  { s1 with pkg := { p with fwst := .ready, fwcode := 0 } }

/-- INIT_DONE (R434 steps 4 and 5): the configuration block is applied, memory and its metadata are cleared, every selvedge page
byte is 0, and the fabric is brought up; or memory training has failed. A far-line cache that is not 16 or 32 GiB is the default of
8 GiB (R3). -/
def execInitDone (up : BringUp) (s : State) : Host.Outcome State Fault Refusal :=
  if s.pkg.fwst ≠ .init then .next s
  else if !up.trained then .next { s with pkg := { s.pkg with fwst := .failed, fwcode := 0x05 } }.wake
  else
    let b := Config.configBlock (imageBytes s 64 (bodyLen s))
    let s1 := { s with
      pkg := { s.pkg with agent := b.agent, cell := b.cell, host := b.host
                          farGiB := if b.farGiB = 16 || b.farGiB = 32 then b.farGiB else 8
                          secBase := b.secBase, secLim := b.secLim }
      hbm := {}, rht := [], selPg := [], selSet := [] }
    let s2 := (upto 32).foldl (fun st c => st.modCore c fun k => { k with world := b.world.getD c 0 }) s1
    .next (bringUp s2 up).wake

/-! ### The trusted interface (R439) -/

/-- Entry to ERROR: every submission page is disabled, and the resident teams of secure grids are killed. -/
def enterError (s : State) : State :=
  let s1 := { s with pkg := { s.pkg with tdisp := .error }
                     pages := s.pages.map fun (e : Nat × Page) => (e.1, { e.2 with en := false }) }
  let tks := (s1.teams.filter fun e => e.2.wld && e.2.phase != .saved).map (·.1)
  (tks.foldl killTeam s1).wake

/-- A write of an item that LOCK_INTERFACE_REQUEST freezes: what it does while the interface is unlocked; otherwise it is discarded,
and a locked or running interface goes to ERROR. -/
def frozenWrite (s : State) (f : State → State) : State :=
  match s.pkg.tdisp with
  | .unlocked => f s
  | .locked | .run => enterError s
  | .error => s

/-- SUBMISSION_PAGE_BIND (R76, R434 step 6, R439): the driver binds a page to a realm and a world; its counts start again. A
binding is frozen while the interface is locked. -/
def execSubmissionPageBind (page realm : Nat) (wld : Bool) (s : State) : Host.Outcome State Fault Refusal :=
  if realm = 0 || 4096 ≤ realm || s.pkg.fwst != .ready then .next s
  else
    .next (frozenWrite s fun st => st.setPage page
      { en := true, badw := (st.pageOf page).badw, taken := 0, lrseq := 0, lrcode := 0, prealm := realm, pwld := wld
        recs := [] }).wake

/-- Answer a request that the state does not list. -/
def tdispError (s : State) : Host.Outcome State Fault Refusal := .next (s.send .tdispError).wake

/-- LOCK_INTERFACE_REQUEST. -/
def execLockInterfaceRequest (s : State) : Host.Outcome State Fault Refusal :=
  if s.pkg.tdisp = .unlocked then .next { s with pkg := { s.pkg with tdisp := .locked } }.wake else tdispError s

/-- State code of the report. -/
def Tdisp.code : Tdisp → Nat
  | .unlocked => 0 | .locked => 1 | .run => 2 | .error => 3

/-- The interface report: one range for each BAR. -/
def tdispReport (s : State) : List Word :=
  BitVec.ofNat 64 (2 * 2 ^ 24 + b2n s.pkg.repl * 2 ^ 20 + s.pkg.tdisp.code * 2 ^ 16 + s.pkg.svn.toNat * 2 ^ 8 + 1)
    :: [0, 2].flatMap fun b => [tget s.pkg.bars b 0, BitVec.ofNat 3 b ++ Config.barSize b]

/-- GET_DEVICE_INTERFACE_REPORT. -/
def execGetDeviceInterfaceReport (s : State) : Host.Outcome State Fault Refusal :=
  if s.pkg.tdisp = .locked then .next (s.send (.report (tdispReport s))).wake else tdispError s

/-- START_INTERFACE_REQUEST. -/
def execStartInterfaceRequest (s : State) : Host.Outcome State Fault Refusal :=
  if s.pkg.tdisp = .locked then .next { s with pkg := { s.pkg with tdisp := .run } }.wake else tdispError s

/-- The Ocposan processor as a party. -/
def ocposanWho (s : State) : Who := ⟨32, .core (64 * 11), s.pkg.tdef.toNat⟩

/-- Zero some spans of memory (R439). -/
def zeroSpans (s : State) (h : Who) : List (Nat × Nat) → Acc Unit
  | [] => .ok s ()
  | e :: r => (zeroSpan s h 0 e.1 e.2).bind fun s1 _ => zeroSpans s1 h r

/-- Zero the arena slots of secure grids. -/
def zeroArenas (s : State) (h : Who) : List Grid → Acc Unit
  | [] => .ok s ()
  | g :: r =>
    (if g.arena.n = 0 then .ok s []
     else
      (findEntry s (dispCore s) (dRealm g.desc) g.arena.obj false).bind fun s1 e =>
        match e with
        | none => .ok s1 []
        | some t =>
          let n := g.arena.n * dArenaSize g.desc
          partSpans s1 (dispCore s1) t (n / t.chunk + 2) g.arena.off n).bind fun s1 sps =>
      (zeroSpans s1 h sps).bind fun s2 _ => zeroArenas s2 h r

/-- The lines of the secure region that remote holders hold (R439). -/
def secureHeld (s : State) : List Nat :=
  s.rht.flatMap fun e => e.2.filterMap fun w =>
    match w with
    | some h => let l := h.tagOf * 2 ^ 21 + e.1; if inSecure s l then some l else none
    | none => none

/-- Whether a line of the secure region is still held, or on its way back to the home. -/
def secureBusy (s : State) : Bool := !(secureHeld s).isEmpty || s.homeTx.any fun t => inSecure s t.line

/-- Zero the secure region (R439): its bytes and tags, and what L1s hold of it; its lines are written whole, so none stays P (R351). -/
def zeroSecure (s : State) : State :=
  let lo := s.pkg.secBase * 2 ^ 30
  let hi := s.pkg.secLim * 2 ^ 30
  let outB (u k : Nat) : Bool := u * k < lo || hi ≤ u * k
  let lost (line : Nat) : Bool := agentOf line == s.pkg.agent && !outB 128 (localOf line)
  { s with
    hbm := { s.hbm with bytes := s.hbm.bytes.filter fun e => outB 1 e.1
                        tags := s.hbm.tags.filter fun e => outB 8 e.1
                        ltp := s.hbm.ltp.filter fun e => outB 128 e.1
                        dir := s.hbm.dir.filter fun e => outB 128 e.1 }
    cores := s.cores.map fun (e : Nat × Core) => (e.1, { e.2 with l1 := e.2.l1.filter fun x => !lost x.line }) }

/-- STOP_INTERFACE_REQUEST: unlocked once the secure region, which every remote holder gives back first, and the arena slots of secure
grids have been zeroed; until then the request is under way. With memory that cannot be zeroed the interface stays as it is, and the
request is answered with an error (log 98). -/
def execStopInterfaceRequest (s : State) : Host.Outcome State Fault Refusal :=
  if s.pkg.tdisp = .unlocked then tdispError s
  else
    let h := ocposanWho s
    let under (st : State) (b : Bool) : State := { st with pkg := { st.pkg with stopping := b } }
    let s0 := (secureHeld s).foldl (fun st l => st.postHome .copyx l) s
    if secureBusy s0 then .next (under s0 true)
    else
      match runAcc s0 h fun st => zeroArenas st h ((st.grids.map (·.2)).filter fun g => dWld g.desc) with
      | (s1, none) => .next (under s1 true)
      | (s1, some (.error _)) => tdispError (under s1 false)
      | (s1, some (.ok _)) =>
        let s2 := under (zeroSecure s1) false
        .next { s2 with pkg := { s2.pkg with tdisp := .unlocked } }.wake

/-! ### Health (R440–R442) -/

/-- One hour in µs. -/
def hourUs : Nat := 3600 * 10 ^ 6

/-- CORRECTED_ERROR: the count, and REPL when more than 1,024 have come within an hour. -/
def execCorrectedError (s : State) : Host.Outcome State Fault Refusal :=
  let ts := (s.usec :: s.pkg.corrT).take 1025
  let many := ts.length == 1025 && s.usec ≤ ts.getD 1024 0 + hourUs
  .next { s with pkg := { s.pkg with corr := s.pkg.corr + 1, corrT := ts, repl := s.pkg.repl || many } }.wake

/-- The lines of some spans become P. -/
def poisonSpans (s : State) (sps : List (Nat × Nat)) : State :=
  sps.foldl (fun st e => (linesOf e.1 e.2).foldl poisonLine st) s

/-- The raw words of an object's entry (R17), with its place, in any state of its V. -/
def rawEntry (s : State) (core realm obj : Nat) : Acc (Option OcEntry) :=
  (entryAddr s core realm obj true).bind fun s1 a =>
    match a with
    | none => .ok s1 none
    | some (x, sw) => (pocDwords s1 x 4).bind fun s2 d => .ok s2 (some ⟨realm, obj, d, sw⟩)

/-- A stack of the package has raised an uncorrectable error (R441). -/
def State.stackBad (s : State) (n : Nat) : State :=
  { s with pkg := { s.pkg with stk := s.pkg.stk ||| (1#8 <<< n), repl := true } }

/-- The stack of a local line has raised an uncorrectable error (R441); which one it is, the spec does not state (log 96). -/
def stackError (s : State) (line : Nat) : State :=
  if agentOf line = s.pkg.agent then s.stackBad (Config.stackOf (localOf line) % 8) else s

/-- The memory that an entry covers (R440): for a view, its part of its parent. -/
def entrySpans (s : State) (core : Nat) (e : OcEntry) : Acc (List (Nat × Nat)) :=
  if !e.valid then .ok s []
  else if !e.view then partSpans s core e (e.len / e.chunk + 2) 0 e.len
  else
    (findEntry s core e.realm e.parent false).bind fun s1 p =>
      match p with
      | some t => if t.view then .ok s1 [] else partSpans s1 core t (e.len / t.chunk + 2) e.voff e.len
      | none => .ok s1 []

/-- An uncorrectable error in an object's entry (R440): the lines that it covers become P, the entry reads as invalid. -/
def loseObject (s : State) (h : Who) (realm obj : Nat) : Acc Unit :=
  let core := dispCore s
  (rawEntry s core realm obj).bind fun s1 r =>
    match r with
    | none => .ok s1 ()
    | some e =>
      (entrySpans s1 core e).bind fun s2 sps =>
        (entryAddr s2 core realm obj true).bind fun s3 a =>
          (putEntry s3 { h with core := core } realm obj ((e.dw 0 &&& ~~~(1#64 <<< 63)) :: e.dws.drop 1)).bind fun s4 _ =>
            let s5 := match a with | some (x, _) => stackError s4 (x / 128) | none => s4
            .ok ((upto 32).foldl (fun st c => dropEntry st c realm obj) (poisonSpans s5 sps)) ()

/-- An uncorrectable error in an entry of an extent table: its chunk. -/
def loseExtent (s : State) (h : Who) (realm obj chunk : Nat) : Acc Unit :=
  let core := dispCore s
  (findEntry s core realm obj false).bind fun s1 r =>
    match r with
    | none => .ok s1 ()
    | some e =>
      if !e.hm || e.view then .ok s1 ()
      else
        (partSpans s1 core e 1 (chunk * e.chunk) e.chunk).bind fun s2 sps =>
          let at' := bits (e.dw 2) 50 0 + 8 * chunk
          (pocWrite s2 h at' (List.replicate 8 0)).bind fun s3 _ =>
            let s4 := poisonSpans (stackError s3 (at' / 128)) sps
            .ok { s4 with ext := s4.ext.map fun (x : Nat × List ExtEntry) =>
                    (x.1, x.2.filter fun y => !(y.realm == realm && y.obj == obj && y.chunk == chunk)) } ()

/-- A clean copy of a line, or of a host's half line, is dropped (R440): it is fetched again when it is needed. -/
def dropClean (s : State) (line : Nat) : State :=
  let s0 := { s with cores := s.cores.map fun (e : Nat × Core) =>
    (e.1, { e.2 with l1 := e.2.l1.filter fun x => x.line != line || !x.clean }) }
  let halves := s.halves.filter fun e => e.1 / 2 == line && e.2.st != .modified
  let s1 := halves.foldl (fun st e => dropCopy st (2 ^ 50 + e.1)) s0
  match tfind s1.copies line with
  | some c =>
    if c.st = .shared || c.st = .excl then dropCopy s1 line else s1
  | none => s1

/-- The package stops (R440, R443). -/
def stopPackage (s : State) : State := { s with pkg := { s.pkg with stopped := true } }.wake

/-- UNCORRECTABLE_ERROR (R440–R442): counted, and handled by where it lies. -/
def execUncorrectableError (loc : ErrLoc) (s : State) : Host.Outcome State Fault Refusal :=
  let s0 := { s with pkg := { s.pkg with unc := s.pkg.unc + 1 } }
  let h := ocposanWho s
  let table (r : State × Tried Unit) : Host.Outcome State Fault Refusal :=
    match r with
    | (s1, some _) => .next { s1 with pkg := { s1.pkg with unc := s1.pkg.unc + 1 } }.wake
    | (s1, none) => .next s1
  match loc with
  | .clean line => .next (dropClean s0 line).wake
  | .line line => .next (poisonLine s0 line).wake
  | .team tk => .next (if (tfind s.teams tk).isSome then killTeam s0 tk else s0).wake
  | .object realm obj => table (runAcc s h fun st => loseObject st h realm obj)
  | .extent realm obj chunk => table (runAcc s h fun st => loseExtent st h realm obj chunk)
  | .holder line =>
    .next (poisonLine (s0.stackBad (Config.stackOf (2 ^ 33 + rhtSet (localOf line)) % 8)) (s.lineOf (localOf line))).wake
  | .hbm line => .next (poisonLine (stackError s0 (s.lineOf (localOf line))) (s.lineOf (localOf line))).wake
  | .core c =>
    let ts := s.usec :: (s.core c).errs.filter fun t => s.usec < t + 24 * hourUs
    .next (s0.modCore c fun k => { k with errs := ts, dying := k.dying || 3 ≤ ts.length }).wake
  | .stack n => .next (stopPackage (s0.stackBad n))
  | .hub => .next (stopPackage s0)
  | .ocposan => .next (if s0.pkg.tdisp = .locked || s0.pkg.tdisp = .run then enterError s0 else s0).wake

/-- Hand one run back to the dispatcher (R437): it is dealt again over the positions eligible now; a team that no core can
admit counts as killed and retired. -/
def handBack (s : State) (r : Run) : State :=
  match tfind s.grids r.grid.toNat with
  | none => s
  | some g =>
    match r.saved with
    | some tk => if (eligible s (dWld g.desc)).isEmpty then killTeam s tk else dealOut s g r
    | none => dealOut s g r

/-- CORE_OFFLINE (R437, R440, R441): a failing core hands back the runs of its queue and those held for
it, and goes off line once its teams have
retired. -/
def execCoreOffline (core : Nat) (s : State) : Host.Outcome State Fault Refusal :=
  let c := s.core core
  if !c.dying || (c.offline && c.queue.isEmpty) then .next s
  else
    let held := (s.back.filter fun e => e.1 == core).map (·.2)
    let s0 := { s with back := s.back.filter fun e => e.1 != core }
    let s1 := (c.queue ++ held).foldl handBack (s0.modCore core fun k => { k with queue := [] })
    if (residents s1 core none).isEmpty then
      .next { s1.modCore core (fun k => { k with offline := true }) with pkg := { s1.pkg with repl := true } }.wake
    else .next s1.wake

/-! ### Power (R443) -/

/-- THROTTLE_STEP: each millisecond the clock falls by 1/16 while the average draw exceeds LIMIT or the temperature 105 °C, to no less
than 8/16, and rises again. -/
def execThrottleStep (now : PowerSample) (s : State) : Host.Outcome State Fault Refusal :=
  let hot : Bool := s.pkg.limit.toNat < now.draw || 105 < now.celsius
  let d := s.pkg.div.toNat
  .next { s with pkg := { s.pkg with div := BitVec.ofNat 4 (if hot then min 8 (d + 1) else d - 1) } }.wake

/-- THERMAL_STOP: at 115 °C the package stops. -/
def execThermalStop (celsius : Nat) (s : State) : Host.Outcome State Fault Refusal :=
  if celsius < 115 then .next s else .next (stopPackage s)

end Sys2Proof.Machine
end

