-- ==== Sys2Proof/Machine/Heddle.lean ====
section
/-! DEFINITION. Fetching and the heddle (R102–R109, R114, R133–R138, R374): the groups of a warp, the clause of a group and its
header checks, the choice of a warp, opening bundles; and the walker's fills (R22, R28). -/

namespace Sys2Proof.Machine

/-! ### Groups (R133) -/

/-- A group: the header and the position at which its lanes stand, their frame, and the lanes. -/
structure Grp where
  pc    : Pc
  cix   : Nat
  frame : Nat
  lanes : BitVec 32
  deriving DecidableEq, Repr

/-- Whether a lane stands where a bundle may take it in: RUN, or a BAR wait that is over. -/
def standing (s : State) (wk l : Nat) : Bool :=
  ((s.lane wk l).st == .run || barPassed s wk l) && !(s.warp wk).inBundle l

/-- Add a lane to the groups. -/
def addLane (gs : List Grp) (l : Nat) (ln : Lane) : List Grp :=
  match gs with
  | [] => [⟨ln.pc, ln.cix, ln.frame, maskOf [l]⟩]
  | g :: r =>
    if g.pc = ln.pc && g.cix = ln.cix && g.frame = ln.frame then { g with lanes := g.lanes ||| maskOf [l] } :: r
    else g :: addLane r l ln

/-- The key of lanes (R132, R374): the address where they stand, and their frame id. -/
def keyAt (s : State) (pc : Pc) (cix frame : Nat) : Pc × Nat := (if cix = 0 then pc else Pc.instr pc cix, (s.frame frame).fid)

/-- The key of a group. -/
def Grp.key (s : State) (g : Grp) : Pc × Nat := keyAt s g.pc g.cix g.frame

/-- The key of an open bundle: that of the group from which it was opened, whose lanes still stand there. -/
def bundleKey (s : State) (wk : Nat) (b : Bundle) : Pc × Nat :=
  match lanesOf b.lanes with
  | l :: _ => let ln := s.lane wk l; keyAt s ln.pc ln.cix ln.frame
  | [] => (b.hdr, 0)

/-- The order of keys (R132). -/
def keyLt (a b : Pc × Nat) : Bool := a.1.lt b.1 || (a.1 == b.1 && a.2 < b.2)

/-- Put a group among others, lower keys first. -/
def byKey (s : State) (g : Grp) : List Grp → List Grp
  | [] => [g]
  | x :: r => if keyLt (x.key s) (g.key s) then x :: byKey s g r else g :: x :: r

/-- The groups of a warp, lower keys first. -/
def groupsOf (s : State) (wk : Nat) : List Grp :=
  (((upto 32).filter (standing s wk)).foldl (fun gs l => addLane gs l (s.lane wk l)) []).foldr (byKey s) []

/-- Lanes of a group. -/
def Grp.size (g : Grp) : Nat := (lanesOf g.lanes).length

/-! ### Fetching a clause (R103, R114) -/

/-- What a fetch gives: the header and the instruction words; a fault at the header; or a wait. -/
inductive Fetched where
  | go (hword : Word) (words : List Word)
  | fault (f : LaneFault)
  | wait
  deriving DecidableEq, Repr

/-- A group that is ready: its clause, or the fault that its opening raises. -/
structure ReadyGrp where
  g : Grp
  f : Fetched
  deriving DecidableEq, Repr

/-- Who fetches for a group. -/
def fetchWho (s : State) (wk : Nat) (g : Grp) : Who :=
  ⟨wkCore wk, .fetch (lkOf wk ((lanesOf g.lanes).headD 0)), (s.warp wk).tout.toNat⟩

/-- The check of one dword of code (R103): a fault, or a wait for a migration. -/
def codeDword (s : State) (wk obj off : Nat) : Acc (Option (Option LaneFault)) :=
  let t := s.teamOf wk
  (checkRef s (wkCore wk) t.realm t.party obj true off 8 [rX] 8 9).bind fun s1 c =>
    .ok s1 (match c with
      | .ok _ => some none
      | .fault cs sub => some (some (refFault cs sub (refOf obj off) off))
      | .stall => none)

/-- The checks of several dwords in order. -/
def codeDwords (s : State) (wk obj : Nat) : List Nat → Acc (Option (Option LaneFault))
  | [] => .ok s (some none)
  | o :: r =>
    (codeDword s wk obj o).bind fun s1 c =>
      match c with
      | some none => codeDwords s1 wk obj r
      | x => .ok s1 x

/-- An instruction-cache line of a core. -/
def icFind (s : State) (core realm obj line : Nat) : Option ICLine :=
  (s.core core).ic.find? fun e => e.realm == realm && e.obj == obj && e.line == line

/-- A dword of code in the instruction cache. DESIGN CHOICE (log 94): a line is 64 bytes by the object's own offsets, so the lines of a view
need not be lines of memory. -/
def icDword (s : State) (core realm obj off : Nat) : Option Word :=
  (icFind s core realm obj (off / 64)).map fun e => BitVec.ofNat 64 (ofBytes ((e.bytes.drop (off % 64)).take 8))

/-- A miss (R114): it freezes the warp, and counts in SLIPCNT. -/
def missLine (s : State) (wk realm obj line : Nat) : State :=
  s.modWarp wk fun w =>
    if w.frozen.contains (realm, obj, line) then w
    else { w with frozen := w.frozen ++ [(realm, obj, line)], slip := w.slip + 1 }

/-- Check dwords and find them in the cache: all of them, a fault, or a wait. -/
def fetchDwords (s : State) (wk : Nat) (g : Grp) (offs : List Nat) : State × Except Fetched (List Word) :=
  let core := wkCore wk
  let realm := (s.teamOf wk).realm
  let obj := g.pc.obj.toNat
  match runTry s (fetchWho s wk g) fun st => (codeDwords st wk obj offs).bind fun s1 c => .ok s1 (c.map .ok) with
  | (s1, none) => (s1, .error .wait)
  | (s1, some (.error e)) => (s1, .error (.fault (refFault .remote e.sub g.pc.word g.pc.off.toNat)))
  | (s1, some (.ok (some f))) => (s1, .error (.fault f))
  | (s1, some (.ok none)) =>
    match offs.find? fun o => (icDword s1 core realm obj o).isNone with
    | none => (s1, .ok (offs.filterMap (icDword s1 core realm obj)))
    | some o =>
      match (s1.warp wk).ferr.find? fun e => e.1 == (realm, obj, o / 64) with
      | some e => (s1, .error (.fault (refFault .remote e.2.sub (refOf obj o) o)))
      | none => (missLine s1 wk realm obj (o / 64), .error .wait)

/-- Whether a wait of a header holds (R107): its valid bit, counter and threshold. -/
def waitHolds (w : Warp) (h : Word) (v c t : Nat) : Bool := !h.getLsbD v || w.counter (bits h (c + 2) c) ≤ bits h (t + 4) t

/-- The HEADER check (R106). -/
def badHeader (h : Word) : Bool :=
  bits h 63 60 == 0 || 6 ≤ bits h 59 57 || bits h 56 55 == 3 || (!h.getLsbD 54 && bits h 53 46 != 0)
    || (!h.getLsbD 45 && bits h 44 37 != 0) || (!h.getLsbD 36 && bits h 35 20 != 0) || bits h 19 0 != 0

/-- The classes that a role admits (R71). -/
def Role.admits (r : Role) (c : Cls) : Bool :=
  match r, c with
  | .gen, _ | _, .ctrl | _, .sync | _, .any => true
  | .copy, .sht | .matrix, .mtx | .vector, .vec | .vector, .mem => true
  | _, _ => false

/-- The header checks of a clause that has been fetched (R106, R72, R107, R374). -/
def headerChecks (s : State) (wk : Nat) (g : Grp) (h : Word) (ws : List Word) : Fetched :=
  let w := s.warp wk
  if badHeader h || ws.length ≤ g.cix then .fault (flt .illegal 1)
  else
    match clsOf h with
    | none => .fault (flt .illegal 1)
    | some c =>
      if !w.role.admits c then .fault (flt .illegal 2)
      else if waitHolds w h 54 51 46 && waitHolds w h 45 42 37 then .go h ws
      else .wait

/-- The clause of a group: its header, then all of it, then the header checks. DESIGN CHOICE (log 94): a prefetch hint of the header is not
acted on, which R109 allows. -/
def fetchGroup (s : State) (wk : Nat) (g : Grp) : State × Fetched :=
  let o := g.pc.off.toNat
  match fetchDwords s wk g [o] with
  | (s1, .error f) => (s1, f)
  | (s1, .ok hs) =>
    let h := hs.headD 0
    match fetchDwords s1 wk g ((upto (bits h 63 60 + 1)).map fun i => o + 8 * i) with
    | (s2, .error f) => (s2, f)
    | (s2, .ok ws) => (s2, headerChecks s2 wk g h (ws.drop 1))

/-! ### Ready warps (R133, R138) -/

/-- Whether a warp may open bundles: it is not parking, parked, frozen or quiescing. -/
def mayOpen (s : State) (wk : Nat) : Bool :=
  let w := s.warp wk
  w.mayRun && w.frozen.isEmpty && (w.path0.isNone || w.path1.isNone)
    && (match (s.teamOf wk).phase with | .running => true | .draining _ => true | _ => false)

/-- Lanes whose frame is not resident join a refill request before they issue anything; a fault of it names the RET or UNWIND by which the
first of them has come (R207). -/
def refillGroup (wk : Nat) (s : State) (g : Grp) : State :=
  if usableFrame s g.frame then s
  else
    let at' : RetAt := ((s.lane wk ((lanesOf g.lanes).headD 0)).ret).getD ⟨g.pc, g.cix, 0, 0⟩
    let r : FReq := { wk := wk, lanes := g.lanes, kind := .refill g.frame, since := (s.core (wkCore wk)).cycle.toNat
                      hdr := at'.hdr, idx := at'.idx, opc := at'.opc, fid := at'.fid }
    joinRefill s r g.frame

/-- The ready groups of a warp. -/
def readyGroups (s : State) (wk : Nat) : State × List ReadyGrp :=
  if !mayOpen s wk then (s, [])
  else
    let s0 := (groupsOf s wk).foldl (refillGroup wk) s
    (groupsOf s0 wk).foldl (fun acc g =>
      match fetchGroup acc.1 wk g with
      | (s1, .wait) => (s1, acc.2)
      | (s1, f) => (s1, acc.2 ++ [⟨g, f⟩])) (s0, [])

/-- Whether an open bundle can issue its next instruction, as far as is known. -/
def canIssue (s : State) (w : Warp) (n : Nat) : Bool :=
  match w.path n with
  | some b => w.frozen.isEmpty && b.blocked != some s.epoch
  | none => false

/-- The instruction that a bundle issues next, with its signature, if its encoding is in order. -/
def nextInstr (s : State) (wk : Nat) (b : Bundle) : Option (Instr × Sig) :=
  match b.nextWord.bind decodeShape with
  | none => none
  | some i =>
    match sigOf i with
    | none => none
    | some g => if (encodingFault s wk b i g).isSome then none else some (i, g)

/-- Whether the next instruction of an open bundle can issue: no stall is known, and no register interlock holds it (R138); in a quiesce
a lane that an EMPTY source holds stops at its instruction (R390), which is then tried. -/
def pathReady (s : State) (wk : Nat) (w : Warp) (n : Nat) : Bool :=
  canIssue s w n && match w.path n with
    | none => false
    | some b =>
      match nextInstr s wk b with
      | some (i, g) => s.quiescing wk || !interlocked s wk i g ((lanesOf b.lanes).filter fun l => guardOn s wk l g.fs.guard)
      | none => true

/-- Note whether a warp is ready, with its age stamp (R138). -/
def noteReady (s : State) (wk : Nat) (rdy : Bool) : State :=
  let now := (s.core (wkCore wk)).cycle.toNat
  s.modWarp wk fun w =>
    if rdy && !w.wasRdy then { w with wasRdy := true, stamp := now, since := now } else { w with wasRdy := rdy }

/-- The warps of a partition with their ready groups, and whether each is ready. -/
def readyWarps (s : State) : List Nat → State × List (Nat × List ReadyGrp)
  | [] => (s, [])
  | wk :: r =>
    let g := readyGroups s wk
    let w := g.1.warp wk
    let rdy := pathReady g.1 wk w 0 || pathReady g.1 wk w 1 || (!g.2.isEmpty && w.frozen.isEmpty)
    let rest := readyWarps (noteReady g.1 wk rdy) r
    (rest.1, if rdy then (wk, g.2) :: rest.2 else rest.2)

/-- Whether a ready warp has issued nothing for 64 cycles. -/
def isForced (s : State) (wk : Nat) : Bool := (s.warp wk).since + 64 ≤ (s.core (wkCore wk)).cycle.toNat

/-- The warp with the oldest stamp, the lower slot on a tie. -/
def oldest (s : State) : List (Nat × List ReadyGrp) → Option (Nat × List ReadyGrp)
  | [] => none
  | e :: r =>
    match oldest s r with
    | none => some e
    | some x => if (s.warp x.1).stamp < (s.warp e.1).stamp then some x else some e

/-- The choice of the heddle (R138). -/
def chooseWarp (s : State) (ws : List (Nat × List ReadyGrp)) : Option (Nat × List ReadyGrp) :=
  match oldest s (ws.filter fun e => isForced s e.1) with
  | some e => some e
  | none =>
    match ws.find? fun e => e.2.any fun g => g.g.lanes &&& (s.warp e.1).hold != 0 with
    | some e => some e
    | none => oldest s ws

/-! ### Opening (R135) -/

/-- The group with the lowest key. -/
def lowestGrp (s : State) : List ReadyGrp → Option ReadyGrp
  | [] => none
  | g :: r =>
    match lowestGrp s r with
    | none => some g
    | some x => if keyLt (x.g.key s) (g.g.key s) then some x else some g

/-- The most populous group, the lower key on a tie. -/
def biggestGrp (s : State) : List ReadyGrp → Option ReadyGrp
  | [] => none
  | g :: r =>
    match biggestGrp s r with
    | none => some g
    | some x =>
      if g.g.size < x.g.size || (g.g.size == x.g.size && keyLt (x.g.key s) (g.g.key s)) then some x else some g

/-- The groups that open, with their paths. -/
def openings (s : State) (wk : Nat) (gs : List ReadyGrp) : List (Nat × ReadyGrp) :=
  let w := s.warp wk
  match w.path0, w.path1 with
  | none, none =>
    match biggestGrp s gs, lowestGrp s gs with
    | some a, some b => if a.g = b.g then [(0, a)] else [(0, a), (1, b)]
    | _, _ => []
  | some _, some _ => []
  | p0, p1 =>
    let n := if p0.isNone then 0 else 1
    match (match p0 with | some b => some b | none => p1), lowestGrp s gs, biggestGrp s gs with
    | some b, some lo, some big => [(n, if keyLt (lo.g.key s) (bundleKey s wk b) then lo else big)]
    | _, _, _ => []

/-- Raise the header fault of a group in every lane of it (R374): a lane that waits, or whose fault is nested, keeps its position. -/
def headerFault (wk : Nat) (s : State) (g : Grp) (f : LaneFault) : State :=
  let ls := lanesOf g.lanes
  let s1 := faultLanes s wk ⟨g.pc, 0, 0, g.pc, 0⟩ (ls.map fun l => (l, f)) false
  ls.foldl (fun st l => st.modLane wk l fun ln =>
    if ln.st == .parked true || (s.lane wk l).h then { ln with cix := g.cix } else ln) s1

/-- The fault of a header that a bundle has opened at is raised in its turn (R369): its lanes leave it. -/
def raiseHeader (s : State) (wk path : Nat) (b : Bundle) : State :=
  match b.bad with
  | some f => headerFault wk (s.modWarp wk fun w => { (w.setPath path none) with ferr := [] }) ⟨b.hdr, b.idx, 0, b.lanes⟩ f
  | none => s

/-- Open a group on a path; a header that fails its checks is opened too, and its fault raised when the bundle issues, in the order of the
bundles' keys (R369). What SCHED 10 has kept for its lanes (R108) is over. DESIGN CHOICE (log 94): so is a YIELD (R171) of a clause that
its lanes have left before its end and resume after the YIELD. -/
def openGroup (wk : Nat) (s : State) (e : Nat × ReadyGrp) : State :=
  let g := e.2.g
  let s0 := s.modWarp wk fun w => { w with hold := w.hold &&& ~~~g.lanes }
  match e.2.f with
  | .go h ws => s0.modWarp wk fun w => w.setPath e.1 (some ⟨g.lanes, g.pc, h, ws, g.cix, [], [], false, none, none⟩)
  | .fault f => s0.modWarp wk fun w => w.setPath e.1 (some ⟨g.lanes, g.pc, 0, [], g.cix, [], [], false, none, some f⟩)
  | .wait => s

/-- The frames below a frame on its chain of callers (R198), at most `n`. -/
def callersOf (s : State) : Nat → Nat → List Nat
  | 0, _ => []
  | n + 1, fk => match (s.frame fk).caller with | some k => k :: callersOf s n k | none => []

/-- Whether the next instruction of a bundle asks for a refill: a RET or UNWIND by a lane with a frame below it that has been spilled. -/
def refills (s : State) (wk : Nat) (b : Bundle) : Bool :=
  let below (l : Nat) : Bool := (callersOf s (s.frameOf wk l).depth (s.lane wk l).frame).any fun k => !usableFrame s k
  match nextInstr s wk b with
  | some (.ret _, _) | some (.unwind _, _) => (lanesOf b.lanes).any below
  | _ => false

/-- Whether the next instruction of a bundle is a call. -/
def calls (s : State) (wk : Nat) (b : Bundle) : Bool :=
  match nextInstr s wk b with
  | some (.call _, _) | some (.callx _, _) => true
  | _ => false

/-- The paths that issue in a cycle, in order: the lower key first (R150, R152, R189, R231, R277, R369), but a refill before a call
(R201). -/
def issueOrder (s : State) (wk : Nat) : List Nat :=
  let w := s.warp wk
  match (upto 2).filter (canIssue s w), w.path0, w.path1 with
  | [_, _], some a, some b =>
    let first := if refills s wk a && calls s wk b then true else if refills s wk b && calls s wk a then false
      else !keyLt (bundleKey s wk b) (bundleKey s wk a)
    if first then [0, 1] else [1, 0]
  | ns, _, _ => ns

/-- One cycle of a partition's heddle. -/
def heddle (s : State) (pk : Nat) : State :=
  let r := readyWarps s ((s.warps.map (·.1)).filter fun wk => wkPk wk == pk)
  match chooseWarp r.1 r.2 with
  | none => r.1
  | some (wk, gs) =>
    let s1 := (openings r.1 wk gs).foldl (openGroup wk) r.1
    let s2 := s1.modWarp wk fun w => { w with since := (s1.core (wkCore wk)).cycle.toNat }
    { s2 with iq := s2.iq ++ (issueOrder s2 wk).map fun n => (wk, n) }

/-- BUNDLE_OPEN (R103, R135, R138): one cycle of the heddle of a partition; the core's cycles are counted with partition 0. -/
def execBundleOpen (core part : Nat) (s : State) : Host.Outcome State Fault Refusal :=
  let s1 := heddle s (core * 4 + part)
  .next (if part = 0 then s1.modCore core fun c => { c with cycle := c.cycle + 1 } else s1)

/-- FORCED_WARP (R138): the same, when a ready warp that has issued nothing for 64 cycles must be chosen. -/
def execForcedWarp (core part : Nat) (s : State) : Host.Outcome State Fault Refusal :=
  let pk := core * 4 + part
  if (s.warps.filter fun e => wkPk e.1 == pk).any fun e => e.2.wasRdy && isForced s e.1 then .next (heddle s pk) else .next s

/-! ### Fills (R22, R27, R28, R114) -/

/-- The party that fills an instruction-cache line. -/
def fillWho (s : State) (core line : Nat) : Who := ⟨core, .core (core + 64 * (2 ^ 40 + line)), (s.core core).tdef.toNat⟩

/-- Warps of a core that wait for an instruction-cache line. -/
def frozenOn (s : State) (core realm obj line : Nat) : List Nat :=
  (s.coreWarps core).filter fun wk => (s.warp wk).frozen.contains (realm, obj, line)

/-- A line has been fetched, or its fetch has failed: the warps that it froze go on. -/
def thaw (s : State) (core realm obj line : Nat) (err : Option RemoteFail) : State :=
  (frozenOn s core realm obj line).foldl (fun st wk => st.modWarp wk fun w =>
    { w with frozen := w.frozen.filter (· != (realm, obj, line))
             ferr := match err with | some e => w.ferr ++ [((realm, obj, line), e)] | none => w.ferr }) s

/-- The bytes of `n` bytes of an object from an offset on, chunk by chunk; those of a chunk that is not mapped are zero, as no fetch that
passes its checks reads them (R25, R103). -/
def codeSpans (s : State) (core : Nat) (t : OcEntry) : Nat → Nat → Nat → Acc (List Byte)
  | 0, _, _ => .ok s []
  | f + 1, poff, n =>
    if n = 0 then .ok s []
    else
      let k := if t.hm then min n (t.chunk - poff % t.chunk) else n
      (resolveAt s core t poff).bind fun s1 a =>
        (match a with | some x => pocRead s1 x k | none => .ok s1 (List.replicate k 0)).bind fun s2 b =>
          (codeSpans s2 core t f (poff + k) (n - k)).bind fun s3 c => .ok s3 (b ++ c)

/-- The bytes of a line of code as it stands now: those inside the object, the rest as zero; it may lie in two chunks. The fill waits while
the object migrates (R30). -/
def codeLine (s : State) (core realm obj line : Nat) : Acc (Option (List Byte)) :=
  (findPair s core realm obj false).bind fun s1 r =>
    match r with
    | none => .ok s1 none
    | some (e, t) =>
      if s1.moving core t then .stall
      else
        let n := min 64 (e.len - 64 * line)
        (codeSpans s1 core t 3 (64 * line + if e.view then e.voff else 0) n).bind fun s2 b =>
          .ok s2 (some (b ++ List.replicate (64 - n) 0))

/-- Enter a line of code: 256 sets of 8 ways (R114), by the low bits of the line number; the oldest of a full set goes (log 81). -/
def icEnter (ic : List ICLine) (e : ICLine) : List ICLine :=
  let same (x : ICLine) : Bool := x.realm == e.realm && x.obj == e.obj && x.line == e.line
  let rest := ic.filter fun x => !same x
  match rest.filter fun x => x.line % 256 == e.line % 256 with
  | v :: mates => (if mates.length + 1 < 8 then rest else dropFirst (· == v) rest) ++ [e]
  | [] => rest ++ [e]

/-- ICACHE_FILL (R104, R114): a line that some warp waits for comes in whole. -/
def execIcacheFill (core realm obj line : Nat) (s : State) : Host.Outcome State Fault Refusal :=
  if (frozenOn s core realm obj line).isEmpty then .next s
  else
    match runAcc s (fillWho s core (obj * 2 ^ 34 + line)) fun st => codeLine st core realm obj line with
    | (s1, none) => .next s1
    | (s1, some (.error e)) => .next (thaw s1 core realm obj line (some e)).wake
    | (s1, some (.ok none)) => .next (thaw s1 core realm obj line none).wake
    | (s1, some (.ok (some b))) =>
      let s2 := { s1 with uid := s1.uid + 1 }.modCore core fun (c : Core) =>
        { c with ic := icEnter c.ic { realm := realm, obj := obj, line := line, stamp := s1.uid, bytes := b } }
      .next (thaw s2 core realm obj line none).wake

/-- OBJECT_WALK (R28): the walker of a core fills its object cache. -/
def execObjectWalk (core realm obj : Nat) (s : State) : Host.Outcome State Fault Refusal :=
  let h : Who := ⟨core, .core (core + 64 * 8), (s.core core).tdef.toNat⟩
  .next (runAcc s h fun st => findPair st core realm obj true).1

/-- EXTENT_FILL (R22, R27): an extent of an object whose entry a core of the die holds. -/
def execExtentFill (die realm obj chunk : Nat) (s : State) : Host.Outcome State Fault Refusal :=
  let cores := (upto 8).map (8 * die + ·)
  let hit := cores.findSome? fun c => ((s.core c).oc.find? fun (e : OcEntry) => e.realm == realm && e.obj == obj).map fun e => (c, e)
  match hit with
  | none => .next s
  | some (c, e) =>
    if !e.hm || e.len ≤ chunk * e.chunk then .next s
    else
      let h : Who := ⟨c, .core (c + 64 * 9), (s.core c).tdef.toNat⟩
      .next (runAcc s h fun st => resolveAt st c e (chunk * e.chunk)).1

end Sys2Proof.Machine
end

