-- ==== Sys2Proof/Machine/Integer.lean ====
section
/-! DEFINITION. Group 0: integer arithmetic and logic (R155–R161). -/

namespace Sys2Proof.Machine

/-- MOV (R159): A; under .w the value moves with its tag (R157). -/
def execMov (f : BaseF) (s : State) : Host.Outcome State Fault Refusal :=
  issue s (.mov f) (aluBody fun _ _ _ x => if (wBit f) then resV x.av else res x.av.bits)

/-- MOVI (R161): the immediate; sign-extended to 64 bits for a q or g code. -/
def execMovi (f : ImmF) (s : State) : Host.Outcome State Fault Refusal :=
  issue s (.movi f) (aluBody fun _ _ _ _ => res (if f.d.toNat < 0x40 then f.imm.signExtend 64 else f.imm.zeroExtend 64))

/-- MOVH (R161): the immediate above A[31:0]. -/
def execMovh (f : ImmF) (s : State) : Host.Outcome State Fault Refusal :=
  issue s (.movh f) (aluBody fun _ _ _ x => res (f.imm ++ lo32 x.av.bits))

/-- SEL (R159): A if p[PS], else B; under .w with its tag (R157). -/
def execSel (f : BaseF) (s : State) : Host.Outcome State Fault Refusal :=
  issue s (.sel f) (aluBody fun s' c l x =>
    let v := if (s'.lane c.wk l).getP (bits f.md 8 5) then x.av else x.bv
    if (wBit f) then resV v else res v.bits)

/-- ADD (R159): A + B. -/
def execAdd (f : BaseF) (s : State) : Host.Outcome State Fault Refusal :=
  issue s (.add f) (alu2 (fun a b => a + b) f)

/-- SUB (R159): A − B. -/
def execSub (f : BaseF) (s : State) : Host.Outcome State Fault Refusal :=
  issue s (.sub f) (alu2 (fun a b => a - b) f)

/-- MUL (R159): the low half of A · B. -/
def execMul (f : BaseF) (s : State) : Host.Outcome State Fault Refusal :=
  issue s (.mul f) (alu2 (fun a b => a * b) f)

/-- MULH (R159): the high half of the signed product. -/
def execMulh (f : BaseF) (s : State) : Host.Outcome State Fault Refusal :=
  issue s (.mulh f) (alu2 (mulhS) f)

/-- MULHU (R159): the high half of the unsigned product. -/
def execMulhu (f : BaseF) (s : State) : Host.Outcome State Fault Refusal :=
  issue s (.mulhu f) (alu2 (mulhU) f)

/-- MAD (R159): the low half of A · B + C. -/
def execMad (f : BaseF) (s : State) : Host.Outcome State Fault Refusal :=
  issue s (.mad f) (alu3 (fun a b c => a * b + c) f)

/-- DIV (R160). -/
def execDiv (f : BaseF) (s : State) : Host.Outcome State Fault Refusal :=
  issue s (.div f) (alu2f divS divIov f)

/-- DIVU (R160). -/
def execDivu (f : BaseF) (s : State) : Host.Outcome State Fault Refusal :=
  issue s (.divu f) (alu2f divU divuIov f)

/-- REM (R160). -/
def execRem (f : BaseF) (s : State) : Host.Outcome State Fault Refusal :=
  issue s (.rem f) (alu2f remS divIov f)

/-- REMU (R160). -/
def execRemu (f : BaseF) (s : State) : Host.Outcome State Fault Refusal :=
  issue s (.remu f) (alu2f remU divuIov f)

/-- MIN (R159). -/
def execMin (f : BaseF) (s : State) : Host.Outcome State Fault Refusal :=
  issue s (.min f) (alu2 minS f)

/-- MAX (R159). -/
def execMax (f : BaseF) (s : State) : Host.Outcome State Fault Refusal :=
  issue s (.max f) (alu2 maxS f)

/-- MINU (R159). -/
def execMinu (f : BaseF) (s : State) : Host.Outcome State Fault Refusal :=
  issue s (.minu f) (alu2 minU f)

/-- MAXU (R159). -/
def execMaxu (f : BaseF) (s : State) : Host.Outcome State Fault Refusal :=
  issue s (.maxu f) (alu2 maxU f)

/-- ABS (R159, R160): |A|; IOV on the most negative number. -/
def execAbs (f : BaseF) (s : State) : Host.Outcome State Fault Refusal :=
  issue s (.abs f) (alu2f (fun a _ => absV a) absIov f)

/-- NEG (R159): 0 − A. -/
def execNeg (f : BaseF) (s : State) : Host.Outcome State Fault Refusal :=
  issue s (.neg f) (alu1 (fun a => -a) f)

/-- ADDI (R161): 32 bits for a frame register, 64 bits for a q or g code. -/
def execAddi (f : ImmF) (s : State) : Host.Outcome State Fault Refusal :=
  issue s (.addi f) (aluBody fun _ _ _ x =>
    res (if f.d.toNat < 0x40 then x.av.bits + f.imm.signExtend 64 else (lo32 x.av.bits + f.imm).zeroExtend 64))

/-- SHL (R159). -/
def execShl (f : BaseF) (s : State) : Host.Outcome State Fault Refusal :=
  issue s (.shl f) (alu2 shlV f)

/-- SHR (R159). -/
def execShr (f : BaseF) (s : State) : Host.Outcome State Fault Refusal :=
  issue s (.shr f) (alu2 shrV f)

/-- SAR (R159). -/
def execSar (f : BaseF) (s : State) : Host.Outcome State Fault Refusal :=
  issue s (.sar f) (alu2 sarV f)

/-- AND (R159): bitwise. -/
def execAnd (f : BaseF) (s : State) : Host.Outcome State Fault Refusal :=
  issue s (.and f) (alu2 (fun a b => a &&& b) f)

/-- OR (R159): bitwise. -/
def execOr (f : BaseF) (s : State) : Host.Outcome State Fault Refusal :=
  issue s (.or f) (alu2 (fun a b => a ||| b) f)

/-- XOR (R159): bitwise. -/
def execXor (f : BaseF) (s : State) : Host.Outcome State Fault Refusal :=
  issue s (.xor f) (alu2 (fun a b => a ^^^ b) f)

/-- NOT (R159). -/
def execNot (f : BaseF) (s : State) : Host.Outcome State Fault Refusal :=
  issue s (.not f) (alu1 (fun a => ~~~a) f)

/-- ANDN (R159): A AND NOT B. -/
def execAndn (f : BaseF) (s : State) : Host.Outcome State Fault Refusal :=
  issue s (.andn f) (alu2 (fun a b => a &&& ~~~b) f)

/-- LEA (R159): A + (B << SH) + C. -/
def execLea (f : BaseF) (s : State) : Host.Outcome State Fault Refusal :=
  issue s (.lea f) (alu3 (fun a b c => a + (b <<< bits f.md 4 2) + c) f)

end Sys2Proof.Machine
end

