-- ==== Sys2Proof/Machine/MemInstr.lean ====
section
/-! DEFINITION. Group 7 (R220–R232): LD, ST, FLD, SPLD, SPST, PREF. -/

namespace Sys2Proof.Machine

/-! ### Loads -/

/-- The body of LD and FLD in one lane: checks, the wait for an EMPTY destination, then a deferred read of the place (R223, R230); a
read that would exceed the limit of R229 stalls. -/
def deferLane (s : State) (c : Ctx) (l : Nat) (ref : Val) (off : Int) (size : Nat) (rights : List Nat) (kind : DeferKind) :
    State × Option LaneOut :=
  match laneAccess s c.wk l ref off size rights size 9 (fun st _ p => .ok st p) with
  | (s1, none) => (s1, none)
  | (s1, some (.error e)) => (s1, some (.fault e))
  | (s1, some (.ok p)) =>
    let d : Defer :=
      { id := s1.uid, wk := c.wk, lane := l, frame := (s1.lane c.wk l).frame, reg := c.g.fs.d.toNat - 0x40
        kind := kind, realm := p.key.realm, obj := p.key.obj, pub := p.pub, addr := p.addr, base := p.key.base, cmd := none
        dead := false, undef := inSpill s1 c.wk p size }
    if anyEmpty s1 c.wk l (deferRegs d) then (s1, none)
    else
      match deferAcc d s1 with
      | .need k line => if s1.readsFull (deferWho s1 d) k line then (s1, none) else (startDefer s1 c.path d, some done)
      | _ => (startDefer s1 c.path d, some done)

/-- An acquiring LD in one lane (R223, R227, R242): the lane does not retire before it has its data, and the act of its acquire is done;
until then every failure is precise. -/
def acquireLane (s : State) (c : Ctx) (l : Nat) (ref : Val) (off : Int) (n scope : Nat) (sx : Bool) : State × Option LaneOut :=
  let rs := regRange (c.g.fs.d.toNat - 0x40) (max 1 (n / 4))
  laneOut (laneTry s c.wk l ref off n [rR] n 9 fun st h p =>
    if anyEmpty st c.wk l rs then .ok st none else readAct c.wk l n true scope st h p) fun s1 v =>
      (s1, .ok { val := some (Val.int (loadVal n sx v.1)), val2 := some (Val.int (highVal v.1)) })

/-- LD (R223, R227): a deferred load; an acquiring load has its data, and the act of its acquire, before it retires. -/
def execLd (f : MemF) (s : State) : Host.Outcome State Fault Refusal :=
  issue s (.ld f) (seqBody fun s' c l x =>
    let n := memSize f
    let off := memOff f (offOf x.av.bits) x.bv.bits n
    if f.ord = 1 then acquireLane s' c l x.av off n f.scope.toNat f.sx
    else deferLane s' c l x.av off n [rR] (.load n f.sx))

/-- FLD (R230). -/
def execFld (f : MemF) (s : State) : Host.Outcome State Fault Refusal :=
  issue s (.fld f) (seqBody fun s' c l x =>
    deferLane s' c l x.av (memOff f (offOf x.av.bits) x.bv.bits 8) 8 [rR, rNC] .far)

/-! ### Stores -/

/-- The bytes that a store writes (R224). -/
def storeBytes (n : Nat) (d : List Val) : List Byte :=
  if n = 16 then bytesLE 8 (d.getD 0 Val.zero).bits.toNat ++ bytesLE 8 (d.getD 1 Val.zero).bits.toNat
  else bytesLE n (one d).bits.toNat

/-- ST (R224, R225, R227). -/
def execSt (f : MemF) (s : State) : Host.Outcome State Fault Refusal :=
  issue s (.st f) (seqBody fun s' c l x =>
    let n := memSize f
    laneOut (laneTry s' c.wk l x.av (memOff f (offOf x.av.bits) x.bv.bits n) n [rW] n 9
      (storeAct c.wk l f.scope.toNat (f.ord == 2) (storeBytes n x.d) false)) fun s1 _ => (s1, done))

/-! ### Scratchpad (R231) -/

/-- The scratchpad offset of an access, or its fault: beyond SCRK × 1,024, or misaligned. -/
def spOff (f : MemF) (t : Team) (a : Val) (b : Val) : Except LaneFault Nat :=
  let n := memSize f
  let o := memOff f (lo32 a.bits).toNat b.bits n
  let bad (sub : Byte) : LaneFault :=
    { cause := .memory, sub := sub, opv := BitVec.ofInt 64 o, eoff := BitVec.ofInt 40 o }
  if o < 0 || (t.spSize : Int) < o + n then .error (bad memBOUNDS)
  else if o % n ≠ 0 then .error (bad memALIGN)
  else .ok o.toNat

/-- SPLD (R231). -/
def execSpld (f : MemF) (s : State) : Host.Outcome State Fault Refusal :=
  issue s (.spld f) (aluBody fun s' c _ x =>
    let n := memSize f
    let t := s'.teamOf c.wk
    match spOff f t x.av x.bv with
    | .error e => .fault e
    | .ok o =>
      let b := t.spRead o n
      .ok { val := some (Val.int (loadVal n f.sx b)), val2 := if n = 16 then some (Val.int (highVal b)) else none })

/-- SPST (R231). -/
def execSpst (f : MemF) (s : State) : Host.Outcome State Fault Refusal :=
  issue s (.spst f) (seqBody fun s' c _ x =>
    match spOff f (s'.teamOf c.wk) x.av x.bv with
    | .error e => (s', some (.fault e))
    | .ok o => (s'.modTeam (s'.warp c.wk).team fun t => t.spWrite o (storeBytes (memSize f) x.d), some done))

/-! ### Prefetch (R232) -/

/-- A prefetch sends its request with nobody waiting for it; one beyond the limit of R229 stalls. -/
def prefetchAsk (s : State) (h : Who) (k : DReq) (line : Nat) : Option State :=
  if k.untracked || s.reqs.any (fun r => r.line == line && r.kind == k) then some s
  else if s.readsFull h k line then none
  else
    some ({ s with uid := s.uid + 1, reqs := s.reqs ++
      [({ id := s.uid, kind := k, line := line, cores := [h.core], waiters := [], given := none } : Req)] }.post k line)

/-- One lane's prefetch: what would fault, what lies in a private object of another team, and what would stall on MIG is dropped;
SZ 000 takes the line into L1, SZ 001 and 010 into the L2 or the far-line cache, which is one agent's copy here. -/
def prefetchLane (f : MemF) (s : State) (c : Ctx) (l : Nat) (x : Srcs) : Option State :=
  let h := whoLane s c.wk l
  let t := s.teamOf c.wk
  let r := (checkRef s h.core t.realm t.party (objOf x.av.bits) x.av.tag (memOff f (offOf x.av.bits) x.bv.bits 64) 64 [rR]
    0 9).bind fun s1 k =>
      match k with
      | .ok p =>
        let line := p.addr / 128
        if isHost (p.addr / 2 ^ 40) || (f.sz == 2 && agentOf line == s.pkg.agent) then .ok s1 ()
        else if f.sz = 0 then (l1Line s1 h p.key line).bind fun s2 _ => .ok s2 ()
        else if p.pub then (pocLine s1 line).bind fun s2 _ => .ok s2 ()
        else .ok s1 ()
      | _ => .ok s1 ()
  match r with
  | .ok s1 _ => some s1
  | .need k line => prefetchAsk s h k line
  | .bad _ | .stall => some s

/-- PREF (R232): a hint that never faults; a lane whose operands give a fault is dropped, an EMPTY source blocks the bundle (R145). -/
def execPref (f : MemF) (s : State) : Host.Outcome State Fault Refusal :=
  issue s (.pref f) (fun s' c =>
    match readLanes s' c c.lanes with
    | .ok xs =>
      xs.foldl (fun acc e =>
        match e.2 with
        | .error _ => (acc.1, acc.2 ++ [(e.1, done)])
        | .ok x =>
          match prefetchLane f acc.1 c e.1 x with
          | some s1 => (s1, acc.2 ++ [(e.1, done)])
          | none => acc) (s', [])
    | _ => (s', []))

end Sys2Proof.Machine
end

