-- ==== Sys2Proof/Machine/Supervisor.lean ====
section
/-! DEFINITION. The supervisor cores (R29, R237, R314, R382–R386), and reads and writes of registers that have no row of their own (R6,
R15, R76, R341, R352–R365, R395, R401, R434, R438–R443). -/

namespace Sys2Proof.Machine

/-! ### OINV (R29, R382) -/

/-- Change the core page. -/
def State.modPage (s : State) (core : Nat) (f : CorePage → CorePage) : State :=
  s.modCore core fun c => { c with page := f c.page }

/-- What a write of OGO does (R382): OINV goes to every core; OBUSY stands until those that run a team of the realm have
acknowledged. -/
def startOinv (s : State) (core realm obj : Nat) (release : Bool) : State :=
  let s1 := s.modPage core fun p =>
    { p with okind := release, orealm := BitVec.ofNat 12 realm, oobj := BitVec.ofNat 24 obj }
  (sendOinv s1 core realm obj release).wake

/-- OGO_DRAIN (R382). -/
def execOgoDrain (core realm obj : Nat) (s : State) : Host.Outcome State Fault Refusal := .next (startOinv s core realm obj false)

/-- OGO_RELEASE (R382). -/
def execOgoRelease (core realm obj : Nat) (s : State) : Host.Outcome State Fault Refusal := .next (startOinv s core realm obj true)

/-- OBUSY (R382). -/
def obusy (s : State) (core : Nat) : Bool :=
  (upto 32).any fun c => (s.core c).oinv.any fun o =>
    o.src == core && s.teams.any fun t => t.2.core == c && t.2.realm == o.realm && t.2.phase != .saved

/-- The first OINV of a kind that a core has to answer for an object. -/
def oinvOf (s : State) (core realm obj : Nat) (release : Bool) : Option OInv :=
  (s.core core).oinv.find? fun o => o.realm == realm && o.obj == obj && o.release == release

/-- Drop what a core and its port hold of an object's translation. -/
def dropXlat (s : State) (core realm obj : Nat) : State :=
  let s1 := dropEntry s core realm obj
  let die := dieOf core
  { s1 with ext := tput s1.ext die ((tget s1.ext die []).filter fun e => !(e.realm == realm && e.obj == obj)) [] }

/-- Who answers an OINV in a core. -/
def oinvWho (s : State) (core : Nat) : Who := ⟨core, .core (core + 64 * 5), (s.core core).tdef.toNat⟩

/-- Acknowledge an OINV. -/
def ackOinv (s : State) (core : Nat) (o : OInv) : State := s.modCore core fun c => { c with oinv := c.oinv.erase o }

/-- OINV_DRAIN (R29 step 3, R239): the translations go; reads in flight of the object, or of the parent of a view, end; dirty L1
lines go to the point of coherence; the core acknowledges. From then on accesses to an object that migrates stall in this
core until the release (R30). -/
def execOinvDrain (core realm obj : Nat) (s : State) : Host.Outcome State Fault Refusal :=
  match oinvOf s core realm obj false with
  | none => .next s
  | some o =>
    let h := oinvWho s core
    match runAcc (dropXlat s core realm obj) h fun st => rawEntry st core realm obj with
    | (s1, none) => .next s1
    | (s1, some r) =>
      let e : Option OcEntry := match r with | .ok x => x | .error _ => none
      let of (d : Defer) : Bool := !d.isHost && wkCore d.wk == core && d.realm == realm
        && (d.obj == obj || (match e with | some x => x.view && d.obj == x.parent | none => false))
      let s2 := dropXlat s1 core realm obj
      if s2.defers.any of then .next s2
      else
        match backAll s2 h ((s2.core core).l1.filter fun x => x.realm == realm && x.obj == obj) with
        | (s3, none) =>
          let mig := match e with | some x => x.valid && x.mig | none => false
          let s4 := (dropLines s3 core realm obj).modCore core fun c =>
            { c with migOff := if mig && !c.migOff.contains (realm, obj) then c.migOff ++ [(realm, obj)] else c.migOff }
          .next (ackOinv s4 core o).wake
        | (s3, _) => .next s3

/-- OINV_RELEASE (R29 step 6): entries fetched in between go, stalled lanes start again at check 3, the core acknowledges. -/
def execOinvRelease (core realm obj : Nat) (s : State) : Host.Outcome State Fault Refusal :=
  match oinvOf s core realm obj true with
  | none => .next s
  | some o =>
    let s1 := (dropXlat s core realm obj).modCore core fun c => { c with migOff := c.migOff.filter (· != (realm, obj)) }
    .next (ackOinv s1 core o).wake

/-! ### ClrP (R382) -/

/-- Who sends ClrP for a core page. -/
def clrpWho (s : State) (core : Nat) : Who := ⟨core, .core (core + 64 * 12), (s.core core).tdef.toNat⟩

/-- Carry out the ClrP of a core page, if its answer is there: CPRES says how it ended. -/
def tryClrp (s : State) (core : Nat) : State :=
  match (s.core core).page.cpaddr with
  | none => s
  | some line =>
    let fin (st : State) (r : BitVec 2) : State := (st.modPage core fun p => { p with cpaddr := none, cpres := r }).wake
    match runAcc s (clrpWho s core) fun st => clrpLine st (clrpWho s core) line with
    | (s1, none) => s1
    | (s1, some (.ok _)) => fin s1 0
    | (s1, some (.error .timeout)) => fin s1 1
    | (s1, some (.error _)) => fin s1 2

/-- CPADDR (R382): a write sends ClrP for the line at the address; while one is outstanding, the row carries that one on. -/
def execCpaddr (core addr : Nat) (s : State) : Host.Outcome State Fault Refusal :=
  .next (match (s.core core).page.cpaddr with
    | some _ => tryClrp s core
    | none => tryClrp (s.modPage core fun p => { p with cpaddr := some (addr % 2 ^ 51 / 128) }) core)

/-! ### The block copy (R383) -/

/-- What a write of MCGO does (R383). -/
def startCopy (s : State) (core : Nat) : State :=
  let p := (s.core core).page
  if p.mcbusy || p.mcsrc.toNat % 64 ≠ 0 || p.mcdst.toNat % 64 ≠ 0 || p.mclen = 0 then s
  else (s.modPage core fun q => { q with mcbusy := true, mcpos := 0, mcres := 0 }).wake

/-- MCGO (R383). -/
def execMcgo (core : Nat) (s : State) : Host.Outcome State Fault Refusal := .next (startCopy s core)

/-- The block copy of a core as a party. -/
def copyWho (s : State) (core : Nat) : Who := ⟨core, .core (core + 64 * 6), (s.core core).tdef.toNat⟩

/-- The requests of a block copy for ownership: to them no selvedge check applies (R383, log 88). -/
def Acc.forCopy {α : Type} (x : Acc α) : Acc α :=
  match x with
  | .need k l => .need (if k.owns && l < 2 ^ 50 then .copyx else k) l
  | y => y

/-- Recall a source line from every remote holder (R383 step 1): a local line at the home; a line of another home by taking it for
ownership. -/
def recallLine (s : State) (h : Who) (line : Nat) : Acc Unit :=
  if isHost (agentOf line) then .ok s ()
  else if agentOf line = s.pkg.agent then
    let l := localOf line
    if s.dir l = 3 then .bad .poison
    else if s.dir l = 0 then .ok s () else .need .copyx line
  else (takeLine s h line false).forCopy

/-- A source line of another home goes back to it (R383 step 1), so that its DIR becomes 00. -/
def returnLine (s : State) (line : Nat) : State :=
  match tfind s.copies line with
  | some c =>
    { s.request (agentOf line) (.wbm line s.ownCell c.data) with
      copies := tdel s.copies line
      wbuf := s.wbuf ++ [{ line := line, data := c.data, given := false }] }
  | none => s

/-- Write a block of a copy at its destination, without a selvedge check (R383 step 3). -/
def copyPut (s : State) (h : Who) (b : Nat) (bs : List Byte) (tags : List Bool) (m : Byte × Byte) : Acc Unit :=
  if isHost (b / 2 ^ 40) then pocWrite s h b bs
  else (takeLine s h (b / 128) false).forCopy.bind fun s1 _ => .ok (mergeBlock s1 b bs tags m) ()

/-- Copy one block with its metadata and tags as a unit (R46, R383): it is read once every answer of the recall is in. -/
def copyBlock (s : State) (h : Who) (a b : Nat) : Acc (Tried Unit) :=
  (recallLine s h (a / 128)).bind fun s1 _ =>
    if !s1.noAcks (a / 128) then .ok (s1.awaitLine h (a / 128)) none
    else
    (pocBlock s1 a).bind fun s2 d =>
      (copyPut s2 h b d.1 d.2.1 d.2.2).bind fun s3 _ =>
        .ok (if agentOf (a / 128) = s.pkg.agent || isHost (agentOf (a / 128)) || a / 128 = b / 128 then s3
          else returnLine s3 (a / 128)) (some (.ok ()))

/-- BLOCK_COPY_BLOCK (R383): the next block, or the end of the copy. A copy that a P line stops reports TIMEOUT too (log 23). -/
def execBlockCopyBlock (core : Nat) (s : State) : Host.Outcome State Fault Refusal :=
  let p := (s.core core).page
  if !p.mcbusy then .next s
  else
    let a := p.mcsrc.toNat + 64 * p.mcpos
    let b := p.mcdst.toNat + 64 * p.mcpos
    let stop (st : State) (r : BitVec 2) : State := (st.modPage core fun q => { q with mcbusy := false, mcres := r }).wake
    if !addrOk s a || !addrOk s b then .next (stop s 2)
    else
      match runTry s (copyWho s core) fun st => copyBlock st (copyWho s core) a b with
      | (s1, none) => .next s1
      | (s1, some (.error _)) => .next (stop s1 1)
      | (s1, some (.ok _)) =>
        let s2 := s1.modPage core fun q => { q with mcpos := q.mcpos + 1 }
        .next (if p.mclen.toNat ≤ p.mcpos + 1 then stop s2 0 else s2.wake)

/-! ### Object numbers (R237) -/

/-- OBJECT_POOL_REFILL (R237): the numbers join the pool that the core keeps for a realm with a resident team, up to 64; with none the
realm is reported exhausted. -/
def execObjectPoolRefill (core realm : Nat) (nums : List Nat) (s : State) : Host.Outcome State Fault Refusal :=
  let c := s.core core
  if !(residents s core none).any (fun e => e.2.realm == realm) then .next s
  else if nums.isEmpty then
    .next (s.modCore core fun k => { k with noNum := if c.noNum.contains realm then c.noNum else c.noNum ++ [realm] }).wake
  else
    let s1 := s.modCore core fun k => { k with noNum := k.noNum.filter (· != realm) }
    .next (s1.setPool core realm ((tget c.pools realm [] ++ nums).eraseDups.take 64)).wake

/-! ### The window of a warp slot (R385, R386) -/

/-- The frame that FSEL names: a resident frame of one of the warp's lanes. -/
def fselFrame (s : State) (wk : Nat) : Option Nat :=
  (s.frames.find? fun e => e.2.wk == wk && e.2.isRes && e.2.fid == (s.warp wk).fsel.toNat).map (·.1)

/-- Replace the tag of an entry. -/
def Val.withTag (v : Val) (b : Bool) : Val := { v with tag := b }

/-- Write one register of a lane's window: PC with CIX and RIX, RPC. -/
def putLaneDw (s : State) (wk l n : Nat) (v : Word) : State :=
  match n with
  | 0 => s.modLane wk l fun ln => { ln with pc := pcOf v }
  | 1 => s.modLane wk l fun ln => { ln with rpc := pcOf v }
  | 2 => s.modLane wk l fun ln => { ln with cix := bits v 55 52, rix := v.extractLsb' 48 4 }
  | _ => s

/-- Write the trap record: a V that goes to 0 lets the waiting lanes go on (R370). -/
def putTrapDw (s : State) (wk n : Nat) (v : Word) : State :=
  if n < 8 then
    let s1 := s.modWarp wk fun w => { w with trec := w.trec.setDw n v }
    if (s.warp wk).trec.v && !(s1.warp wk).trec.v then clearV s1 wk else s1
  else
    let l := (n - 8) / 2
    s.modWarp wk fun w => { w with tlanes := tput w.tlanes l ((w.tlane l).setDw ((n - 8) % 2) v) {} }

/-- Control registers that the window writes: those of warp, team and core scope. -/
def windowCrn (s : State) (wk n : Nat) (v : Word) : State :=
  if n = 0x30 then s.modCore (wkCore wk) fun c => { c with ocbase := v &&& BitVec.ofNat 64 (2 ^ 51 - 2 ^ 16 + 1) }
  else if n = 0 || n = 3 || n = 4 || n = 0x10 || n = 0x11 || 0x31 ≤ n then s
  else crnWrite s wk 0 n v

/-- A frame register through the window: FULL, as any non-deferred write; a write to an EMPTY register is dropped. -/
def putWindowReg (s : State) (wk n l : Nat) (v : Word) : State :=
  match fselFrame s wk with
  | none => s
  | some fk =>
    if (s.frame fk).demand ≤ n || ((s.frame fk).reg n l).st = .empty then s else putFReg s fk l n (v.truncate 32)

/-- The tags of a pair of frame registers in every lane. -/
def putWindowTags (s : State) (wk k : Nat) (v : Word) : State :=
  match fselFrame s wk with
  | none => s
  | some fk =>
    if (s.frame fk).demand ≤ 2 * k then s
    else s.modFrame fk fun f => (upto 32).foldl (fun x l => x.setPtag (2 * k) l (v.getLsbD l)) f

/-- A write of the window while P is 1. A value written to a g register or a q entry leaves its tag, which has a window of its own. -/
def parkedWrite (s : State) (wk off : Nat) (v : Word) : State :=
  if off < 0x240 then putTrapDw s wk (off / 8) v
  else if off < 0x800 then s
  else if off < 0xC00 then putLaneDw s wk ((off - 0x800) / 32) ((off - 0x800) / 8 % 4) v
  else if off < 0x1000 then s
  else if off < 0x1800 then windowCrn s wk ((off - 0x1000) / 8) v
  else if off < 0x1900 then s.modLane wk ((off - 0x1800) / 8) fun ln => { ln with flags := v.truncate 7 }
  else if off < 0x2000 then s
  else if off < 0x3000 then
    s.modLane wk ((off - 0x2000) / 128) fun ln =>
      let n := (off - 0x2000) / 8 % 16
      ln.setG n { ln.getG n with bits := v }
  else if off < 0x4000 then
    s.modLane wk ((off - 0x3000) / 128) fun ln =>
      let n := (off - 0x3000) / 8 % 16
      { ln with q := ln.q.set n { ln.q.getD n Val.zero with bits := v } }
  else if off < 0x4080 then s.modLane wk ((off - 0x4000) / 4) fun ln => { ln with p := v.truncate 16 }
  else if off < 0x5000 then s
  else if off < 0x5080 then
    s.modLane wk ((off - 0x5000) / 4) fun ln => (upto 16).foldl (fun x n => x.setG n (Val.withTag (x.getG n) (v.getLsbD n))) ln
  else if off < 0x5100 then
    s.modLane wk ((off - 0x5080) / 4) fun ln => { ln with q := ln.q.mapIdx fun n x => Val.withTag x (v.getLsbD n) }
  else if off = 0x6000 then s.modWarp wk fun w => { w with fsel := v.truncate 9 }
  else if off < 0x8000 then s
  else if off < 0xE000 then putWindowReg s wk ((off - 0x8000) / 128) ((off - 0x8000) / 4 % 32) v
  else if 0xE800 ≤ off && off < 0xE980 then putWindowTags s wk ((off - 0xE800) / 4) v
  else s

/-- CMD (R386). -/
def cmdWrite (s : State) (wk : Nat) (v : Word) : State :=
  match bits v 3 0 with
  | 1 => resumeCmd s wk (v.extractLsb' 32 32)
  | 2 => forwardCmd s wk (v.getLsbD 8)
  | 3 => killCmd s wk
  | _ => s

/-- A write of a window (R385): PSTAT and CMD at any time, the rest only while P is 1. -/
def windowWrite (s : State) (wk off : Nat) (v : Word) : State :=
  if (tfind s.warps wk).isNone then s
  else if off = 0x400 then (s.modWarp wk fun w => { w with step := v.getLsbD 1 }).wake
  else if off = 0x408 then cmdWrite s wk v
  else if (s.warp wk).parked then (parkedWrite s wk off v).wake else s

/-! ### Other registers -/

/-- A write of the core page (R382–R384). -/
def pageWrite (s : State) (core off : Nat) (v : Word) : State :=
  let go := v.getLsbD 63
  match off with
  | 0x10 =>
    if go then startOinv s core (bits v 59 48) (bits v 23 0) (v.getLsbD 62)
    else s.modPage core fun p => { p with okind := v.getLsbD 62, orealm := v.extractLsb' 48 12, oobj := v.truncate 24 }
  | 0x20 =>
    if (s.core core).page.cpaddr.isSome then s
    else tryClrp (s.modPage core fun p => { p with cpaddr := some (bits v 50 0 / 128) }) core
  | 0x30 => s.modPage core fun p => { p with mcsrc := v.truncate 51 }
  | 0x38 => s.modPage core fun p => { p with mcdst := v.truncate 51 }
  | 0x40 =>
    if (s.core core).page.mcbusy then s
    else
      let s1 := s.modPage core fun p => { p with mclen := v.truncate 32 }
      if go then startCopy s1 core else s1
  | 0x50 =>
    if (s.core core).page.prbusy then s
    else
      let s1 := s.modPage core fun p => { p with prteam := v.truncate 32 }
      if go then askPrgo s1 core else s1
  | _ => s

/-- A write of the hub register page (R352): RO and reserved fields are unchanged, W1C fields clear. SECRNG, which boot
alone writes (R438), is frozen like the rest (R439). -/
def hubWrite (s : State) (off : Nat) (v : Word) : State :=
  let frozen (f : Pkg → Pkg) : State := frozenWrite s fun st => st.setPkg (f st.pkg)
  if off = 0x400 then frozen fun p => { p with fmark := v.truncate 48 }
  else if off = 0x408 then frozen fun p => { p with minsh := BitVec.ofNat 4 (min 10 (bits v 11 8)), incp := v.truncate 8 }
  else if off = 0x410 then frozen fun p => { p with tdef := clampUsec v }
  else if off = 0x418 then
    s.setPkg { s.pkg with herrI := s.pkg.herrI &&& ~~~(v.extractLsb' 32 32), herrW := s.pkg.herrW &&& ~~~(v.truncate 32) }
  else if off = 0x420 then frozen fun p => { p with hcv := v.getLsbD 63, hcbase := v.extractLsb' 23 29 }
  else if off = 0x430 then
    let s1 := frozen fun p => { p with svv := v.getLsbD 63, svunits := v.extractLsb' 40 16, svbase := v.extractLsb' 16 24 }
    poolGained s s1
  else if off = 0x448 then s.setPkg { s.pkg with uidrop := s.pkg.uidrop &&& ~~~(v.truncate 32) }
  else if off = 0x480 then
    let s1 := s.setPkg { s.pkg with fwlen := v.extractLsb' 8 13 }
    if v.getLsbD 0 then startVerify s1 else s1
  else if off = 0x490 then frozen fun p => p
  else if off = 0x4A8 then s.setPkg { s.pkg with limit := BitVec.ofNat 16 (max 1200 (min 2400 (bits v 15 0))) }
  else if 0x800 ≤ off && off < 0x800 + 0x40 * 36 && off % 0x40 = 0 then
    let n := (off - 0x800) / 0x40
    s.setPort n { s.port n with wcap := v.extractLsb' 6 2, rtrn := (s.port n).rtrn || v.getLsbD 0 }
  else if 0x10000 ≤ off && off < 0x10000 + 8 * 1058 && off % 8 = 0 then
    frozen fun p => p.putRoute ((off - 0x10000) / 8) v
  else s

/-- The cells of an entry of the cell-set table after one of its 64-bit words is written (R341). -/
def cellWord (cs : List Nat) (word : Nat) (v : Word) : List Nat :=
  cs.filter (· < 64 * word) ++ (((upto 64).filter fun i => v.getLsbD i).map fun i => 64 * word + i)
    ++ cs.filter (64 * word + 64 ≤ ·)

/-- REGISTER_WRITE (R6). -/
def execRegisterWrite (reg : RegAddr) (v : BitVec 64) (s : State) : Host.Outcome State Fault Refusal :=
  match reg with
  | .hub off => .next (hubWrite s off v).wake
  | .tdef core => .next (frozenWrite s fun st => st.modCore core fun c => { c with tdef := clampUsec v }).wake
  | .corePage core off => .next (pageWrite s core off v).wake
  | .window core slot off => .next (windowWrite s (64 * core + slot % 64) off v)
  | .ocbase core =>
    .next (s.modCore core fun c => { c with ocbase := v &&& BitVec.ofNat 64 (2 ^ 51 - 2 ^ 16 + 1) }).wake
  | .page page off =>
    .next (if off = 0x40 && v.getLsbD 1 then s.setPage page { s.pageOf page with badw := false } else s)
  | .cellSet idx word =>
    if idx = 0 || 255 ≤ idx || 32 ≤ word then .next s
    else .next { s with selSet := tset s.selSet idx (cellWord ((tfind s.selSet idx).getD [s.ownCell]) word v) }.wake
  | .bar bar => .next (frozenWrite s fun st => st.setPkg { st.pkg with bars := tput st.pkg.bars bar v 0 }).wake

/-! ### Reads of registers -/

/-- A word with one bit set or none. -/
def flagAt (b : Bool) (i : Nat) : Nat := b2n b * 2 ^ i

/-- FWSTAT.STATE (R434). -/
def FwState.code : FwState → Nat
  | .waitImage => 0 | .verify => 1 | .init => 2 | .ready => 3 | .failed => 4

/-- HEALTH (R441). -/
def healthWord (s : State) : Nat :=
  flagAt s.pkg.repl 63 + s.pkg.stk.toNat * 2 ^ 32 + ((upto 32).map fun c => flagAt (s.core c).offline c).sum

/-- PORTCTL and PORTSTAT (R354). -/
def portDw (p : Port) (off : Nat) : Nat :=
  match off with
  | 0 => p.wcap.toNat * 2 ^ 6
  | 8 =>
    if p.up then (p.peer.getD 0) * 2 ^ 29 + p.tlv * 2 ^ 24 + p.width.toNat * 2 ^ 4 + flagAt p.hbl 3 + 1 else flagAt p.hbl 3
  | _ => 0

/-- A dword of the hub register page (R352): WO and reserved fields read as 0 (R6). -/
def hubDw (s : State) (off : Nat) : Word :=
  let p := s.pkg
  if off = 0x400 then p.fmark.zeroExtend 64
  else if off = 0x490 then Config.secRng p.secBase p.secLim
  else if 0x10000 ≤ off && off < 0x10000 + 8 * 1058 then tget p.routes ((off - 0x10000) / 8) 0
  else
    BitVec.ofNat 64 (
      if off = 0x408 then p.minsh.toNat * 2 ^ 8 + max 1 p.incp.toNat
      else if off = 0x410 then p.tdef.toNat
      else if off = 0x418 then p.herrI.toNat * 2 ^ 32 + p.herrW.toNat
      else if off = 0x420 then flagAt p.hcv 63 + p.hcbase.toNat * 2 ^ 23
      else if off = 0x430 then flagAt p.svv 63 + p.svunits.toNat * 2 ^ 40 + p.svbase.toNat * 2 ^ 16
      else if off = 0x448 then p.uidrop.toNat
      else if off = 0x480 then Config.minSvn.toNat * 2 ^ 32 + p.fwlen.toNat * 2 ^ 8
      else if off = 0x488 then p.fwcode.toNat * 2 ^ 8 + p.fwst.code
      else if off = 0x498 then healthWord s
      else if off = 0x4A0 then p.corr.toNat * 2 ^ 32 + p.unc.toNat
      else if off = 0x4A8 then p.div.toNat * 2 ^ 16 + p.limit.toNat
      else if 0x800 ≤ off && off < 0x800 + 0x40 * 36 then portDw (s.port ((off - 0x800) / 0x40)) ((off - 0x800) % 0x40)
      else 0)

/-- A dword of a core page (R382–R384). -/
def pageDw (s : State) (core off : Nat) : Word :=
  let p := (s.core core).page
  if off = 0 then p.pend
  else
    BitVec.ofNat 64 (match off with
      | 0x10 => flagAt p.okind 62 + p.orealm.toNat * 2 ^ 48 + p.oobj.toNat
      | 0x18 => flagAt (obusy s core) 63
      | 0x28 => flagAt p.cpaddr.isSome 63 + p.cpres.toNat
      | 0x30 => p.mcsrc.toNat
      | 0x38 => p.mcdst.toNat
      | 0x40 => p.mclen.toNat
      | 0x48 => flagAt p.mcbusy 63 + p.mcres.toNat
      | 0x50 => p.prteam.toNat
      | 0x58 => flagAt p.prbusy 63 + p.prres.toNat
      | _ => 0)

/-- The interrupts that are pending in a supervisor core (R382): local interrupt 16, mip bit 16, while PEND is not 0. -/
def supMip (s : State) (core : Nat) : Word := BitVec.ofNat 64 (flagAt ((s.core core).page.pend != 0) 16)

/-- A dword of a submission page (R76): DVERS and SVERS admit version 1 alone. -/
def submitDw (p : Page) (off : Nat) : Word :=
  BitVec.ofNat 64 (match off with
    | 0x40 => p.taken.toNat * 2 ^ 32 + p.recs.length * 2 ^ 8 + flagAt p.badw 1 + b2n p.en
    | 0x48 => p.lrseq.toNat * 2 ^ 32 + p.lrcode.toNat
    | 0x50 => p.prealm * 2 ^ 52 + flagAt p.pwld 32 + 0x0002 * 2 ^ 16 + 0x0002
    | _ => 0)

/-- Whether a lane meets an EMPTY source that no operand field names (R132): the register that LDF indexes, or the block of A and the
scale of an MMA. -/
def hiddenEmpty (s : State) (c : Ctx) (i : Instr) (l : Nat) : Bool :=
  match i with
  | .ldf f => ((readAll s c.wk l c.g).bind fun x => ldfRead f s c.wk l x).blocks
  | .mma f => (mmaRow s c f l (latchHit s c.wk f l)).blocks
  | _ => false

/-- Whether a lane of an open bundle is BLOCKED at its next instruction (R132): one that waits and has found that it must, or one with an
EMPTY source, BT 0, which blocks the bundle (R145). -/
def blockedAt (s : State) (wk path : Nat) (b : Bundle) (l : Nat) : Bool :=
  match b.nextWord.bind decodeShape with
  | none => false
  | some i =>
    match sigOf i with
    | none => false
    | some g =>
      let active := (lanesOf b.lanes).filter fun k => guardOn s wk k g.fs.guard
      let c : Ctx := ⟨wk, path, b, g, active, active⟩
      active.contains l && (tfind b.outs l).isNone
        && (waits i && b.blocked.isSome || readsEmpty s wk i g active || active.any (hiddenEmpty s c i))

/-- A lane as its window shows it (R385): in an open bundle, its next instruction is that of the bundle, and it may be BLOCKED there. -/
def shownLane (s : State) (wk l : Nat) : Lane :=
  let ln := s.lane wk l
  match [0, 1].find? fun p => match (s.warp wk).path p with | some b => b.lanes.getLsbD l | none => false with
  | none => ln
  | some p =>
    match (s.warp wk).path p with
    | none => ln
    | some b =>
      let st := match ln.st with | .run => if blockedAt s wk p b l then .blocked (.bar 0) else .run | st => st
      { ln with cix := b.idx, st := st }

/-- One of the four dwords of a lane's window (R385). -/
def laneDw (s : State) (wk l n : Nat) : Word :=
  let ln := shownLane s wk l
  match n with
  | 0 => ln.pc.word
  | 1 => ln.rpc.word
  | 2 => ln.dw2 (match (s.frame ln.frame).loc with | .resident fid => fid | _ => 0)
  | _ => 0

/-- States of a frame register in every lane (R385). -/
def stateWord (f : Frame) (n : Nat) : Word :=
  BitVec.ofNat 64 (((upto 32).map fun l =>
    (match (f.reg n l).st with | .full => 0 | .empty => 1 | .faulted => 2) * 4 ^ l).sum)

/-- A 4-byte register of a window, by its offset (R385). -/
def windowCell (s : State) (wk off : Nat) : Nat :=
  let ln (b k : Nat) : Lane := s.lane wk ((off - b) / k)
  let inFrame (n : Nat) (g : Frame → Nat) : Nat :=
    match fselFrame s wk with
    | some fk => if n < (s.frame fk).demand then g (s.frame fk) else 0
    | none => 0
  if off < 0x4080 then (ln 0x4000 4).p.toNat
  else if off < 0x5080 then (ln 0x5000 4).gTags.toNat
  else if off < 0x5100 then (ln 0x5080 4).qTags.toNat
  else if off < 0xE000 then
    let n := (off - 0x8000) / 128
    inFrame n fun f => (f.reg n ((off - 0x8000) / 4 % 32)).val.toNat
  else
    let k := (off - 0xE800) / 4
    inFrame (2 * k) fun f => ((upto 32).map fun l => flagAt (f.ptag (2 * k) l) l).sum

/-- Whether an offset of a window lies among its 4-byte registers. -/
def isCell (off : Nat) : Bool :=
  (0x4000 ≤ off && off < 0x4080) || (0x5000 ≤ off && off < 0x5100) || (0x8000 ≤ off && off < 0xE000)
    || (0xE800 ≤ off && off < 0xE980)

/-- A dword of a window while P is 1. -/
def parkedDw (s : State) (wk off : Nat) : Word :=
  let w := s.warp wk
  let ln (b k : Nat) : Lane := s.lane wk ((off - b) / k)
  let n := off / 8 % 16
  if isCell off then BitVec.ofNat 64 (windowCell s wk (off + 4) * 2 ^ 32 + windowCell s wk off)
  else if off < 0x40 then w.trec.dw (off / 8)
  else if off < 0x240 then (w.tlane ((off - 0x40) / 16)).dw (off / 8 % 2)
  else if off < 0x800 then 0
  else if off < 0xC00 then laneDw s wk ((off - 0x800) / 32) (off / 8 % 4)
  else if off < 0x1000 then 0
  else if off < 0x1800 then
    let crn := (off - 0x1000) / 8
    if crn = 1 || crn = 2 || (8 ≤ crn && crn < 0x10) || (0x20 ≤ crn && crn ≤ 0x28) || crn = 0x30 || crn = 0x31 then crnRead s wk 0 crn
    else 0
  else if off < 0x1900 then (ln 0x1800 8).flags.zeroExtend 64
  else if off < 0x2000 then 0
  else if off < 0x3000 then ((ln 0x2000 128).getG n).bits
  else if off < 0x4000 then ((ln 0x3000 128).q.getD n Val.zero).bits
  else if 0x4100 ≤ off && off < 0x4140 then BitVec.ofNat 64 (w.counter ((off - 0x4100) / 8))
  else if off = 0x6000 then w.fsel.zeroExtend 64
  else if 0xE000 ≤ off && off < 0xE000 + 8 * 192 then
    match fselFrame s wk with
    | some fk => if (off - 0xE000) / 8 < (s.frame fk).demand then stateWord (s.frame fk) ((off - 0xE000) / 8) else 0
    | none => 0
  else 0

/-- A dword of a window (R385): PSTAT at any time, the rest only while P is 1, and 0 otherwise. -/
def windowDw (s : State) (wk off : Nat) : Word :=
  match tfind s.warps wk with
  | none => 0
  | some w =>
    if off = 0x400 then BitVec.ofNat 64 (flagAt w.parked 63 + flagAt w.step 1 + b2n w.note)
    else if w.parked then parkedDw s wk off else 0

/-- What a read of a register returns. -/
def regRead (s : State) (r : RegAddr) : Word :=
  match r with
  | .hub off => hubDw s off
  | .tdef core => (s.core core).tdef.zeroExtend 64
  | .corePage core off => pageDw s core off
  | .window core slot off => windowDw s (64 * core + slot % 64) (off / 8 * 8)
  | .ocbase core => (s.core core).ocbase
  | .page page off => submitDw (s.pageOf page) off
  | .cellSet idx word =>
    let cs := if idx = 0 then [s.ownCell] else if idx = 255 then upto 2048 else (tfind s.selSet idx).getD [s.ownCell]
    BitVec.ofNat 64 ((upto 64).map fun i => flagAt (cs.contains (64 * word + i)) i).sum
  | .bar bar => tget s.pkg.bars bar 0

/-! ### Accesses of the supervisor core (R314) -/

/-- The supervisor core as a party. -/
def supWho (s : State) (core : Nat) : Who := ⟨core, .core core, (s.core core).tdef.toNat⟩

/-- Its lines in the L1 of its core: by physical address, coherent at the package's point of coherence (log 24). -/
def supKey : Key := ⟨0, 0, true, 0⟩

/-- Where an address of a supervisor core names a register of its core page, or of the window of a slot (R382, R385): log 24. -/
def supReg? (core a : Nat) : Option RegAddr :=
  if 0x0F000000 ≤ a && a < 0x0F001000 then some (.corePage core (a - 0x0F000000))
  else if 0x10000000 ≤ a && a < 0x10400000 then some (.window core ((a - 0x10000000) / 2 ^ 16) ((a - 0x10000000) % 2 ^ 16))
  else none

/-- Bytes of the dwords of a register range. -/
def regBytes (s : State) (core a n : Nat) : List Byte :=
  (upto n).map fun k =>
    let v := match supReg? core ((a + k) / 8 * 8) with | some r => regRead s r | none => 0
    v.extractLsb' (8 * ((a + k) % 8)) 8

/-- A store into the core page or a window: a register takes one of its own width, and two of 4 bytes one of 8; another has no effect. -/
def supRegStore (s : State) (core a : Nat) (bs : List Byte) : State :=
  let v := BitVec.ofNat 64 (ofBytes bs)
  let n := bs.length
  match supReg? core a with
  | some (.corePage c off) => if n = 8 && off % 8 = 0 then pageWrite s c off v else s
  | some (.window c slot off) =>
    let wk := 64 * c + slot
    if isCell off then
      if n = 4 && off % 4 = 0 then windowWrite s wk off v
      else if n = 8 && off % 8 = 0 then windowWrite (windowWrite s wk off (v &&& 0xFFFFFFFF)) wk (off + 4) (v >>> 32) else s
    else if n = 8 && off % 8 = 0 then windowWrite s wk off v else s
  | _ => s

/-- SUPERVISOR_ACCESS (R314, R382, R385): a load, a store, which clears tags (R11), or a full FENCE as a full fence at package scope. An access
whose request fails ends without effect (log 24). -/
def execSupervisorAccess (core : Nat) (acc : SupAccess) (s : State) : Host.Outcome State Fault Refusal :=
  let h := supWho s core
  match acc with
  | .load a n =>
    if (supReg? core a).isSome then .next (s.send (.supLoad core (regBytes s core a n)))
    else if !addrOk s a || !addrOk s (a + n - 1) then .next s
    else
      match runAcc s h fun st => l1Read st h supKey a n with
      | (s1, none) => .next s1
      | (s1, some (.ok bs)) => .next (s1.send (.supLoad core bs)).wake
      | (s1, some (.error _)) => .next s1.wake
  | .store a bs =>
    if (supReg? core a).isSome then .next (supRegStore s core a bs)
    else if !addrOk s a || !addrOk s (a + bs.length - 1) then .next s
    else
      match runAcc s h fun st => l1Write st h supKey a bs false with
      | (s1, none) => .next s1
      | (s1, some _) => .next s1.wake
  | .fence =>
    match releaseAct s h 1 with
    | (s1, none) => .next (acquireAct s1 h 1).1.wake
    | (s1, some _) => .next s1
  | .reg r => .next (s.send (.supReg core (regRead s r)))
  | .mip => .next (s.send (.supReg core (supMip s core)))

end Sys2Proof.Machine
end

