-- ==== Sys2Proof/Machine/Dispatch.lean ====
section
/-! DEFINITION. The dispatch: one arm for each instruction, one direct call of its meaning. -/

namespace Sys2Proof.Machine

/-- The effect of one instruction. -/
def exec (i : Instr) (s : State) : Host.Outcome State Fault Refusal :=
  match i with
  | .mov f => Sys2Proof.Machine.execMov f s
  | .movi f => Sys2Proof.Machine.execMovi f s
  | .movh f => Sys2Proof.Machine.execMovh f s
  | .sel f => Sys2Proof.Machine.execSel f s
  | .add f => Sys2Proof.Machine.execAdd f s
  | .sub f => Sys2Proof.Machine.execSub f s
  | .mul f => Sys2Proof.Machine.execMul f s
  | .mulh f => Sys2Proof.Machine.execMulh f s
  | .mulhu f => Sys2Proof.Machine.execMulhu f s
  | .mad f => Sys2Proof.Machine.execMad f s
  | .div f => Sys2Proof.Machine.execDiv f s
  | .divu f => Sys2Proof.Machine.execDivu f s
  | .rem f => Sys2Proof.Machine.execRem f s
  | .remu f => Sys2Proof.Machine.execRemu f s
  | .min f => Sys2Proof.Machine.execMin f s
  | .max f => Sys2Proof.Machine.execMax f s
  | .minu f => Sys2Proof.Machine.execMinu f s
  | .maxu f => Sys2Proof.Machine.execMaxu f s
  | .abs f => Sys2Proof.Machine.execAbs f s
  | .neg f => Sys2Proof.Machine.execNeg f s
  | .addi f => Sys2Proof.Machine.execAddi f s
  | .shl f => Sys2Proof.Machine.execShl f s
  | .shr f => Sys2Proof.Machine.execShr f s
  | .sar f => Sys2Proof.Machine.execSar f s
  | .and f => Sys2Proof.Machine.execAnd f s
  | .or f => Sys2Proof.Machine.execOr f s
  | .xor f => Sys2Proof.Machine.execXor f s
  | .not f => Sys2Proof.Machine.execNot f s
  | .andn f => Sys2Proof.Machine.execAndn f s
  | .lea f => Sys2Proof.Machine.execLea f s
  | .popc f => Sys2Proof.Machine.execPopc f s
  | .clz f => Sys2Proof.Machine.execClz f s
  | .ctz f => Sys2Proof.Machine.execCtz f s
  | .brev f => Sys2Proof.Machine.execBrev f s
  | .bswap f => Sys2Proof.Machine.execBswap f s
  | .rol f => Sys2Proof.Machine.execRol f s
  | .ror f => Sys2Proof.Machine.execRor f s
  | .bfx f => Sys2Proof.Machine.execBfx f s
  | .bfxu f => Sys2Proof.Machine.execBfxu f s
  | .bfi f => Sys2Proof.Machine.execBfi f s
  | .lxPick f => Sys2Proof.Machine.execLxPick f s
  | .lxShf f => Sys2Proof.Machine.execLxShf f s
  | .lxRot f => Sys2Proof.Machine.execLxRot f s
  | .lxFlip f => Sys2Proof.Machine.execLxFlip f s
  | .prdcOr f => Sys2Proof.Machine.execPrdcOr f s
  | .prdcAnd f => Sys2Proof.Machine.execPrdcAnd f s
  | .prdcMsk f => Sys2Proof.Machine.execPrdcMsk f s
  | .eqmask f => Sys2Proof.Machine.execEqmask f s
  | .partm f => Sys2Proof.Machine.execPartm f s
  | .wredAdd f => Sys2Proof.Machine.execWredAdd f s
  | .wredMin f => Sys2Proof.Machine.execWredMin f s
  | .wredMax f => Sys2Proof.Machine.execWredMax f s
  | .wredAnd f => Sys2Proof.Machine.execWredAnd f s
  | .wredOr f => Sys2Proof.Machine.execWredOr f s
  | .wredXor f => Sys2Proof.Machine.execWredXor f s
  | .icmp f => Sys2Proof.Machine.execIcmp f s
  | .icmpu f => Sys2Proof.Machine.execIcmpu f s
  | .tstb f => Sys2Proof.Machine.execTstb f s
  | .pand f => Sys2Proof.Machine.execPand f s
  | .por f => Sys2Proof.Machine.execPor f s
  | .pxor f => Sys2Proof.Machine.execPxor f s
  | .pnot f => Sys2Proof.Machine.execPnot f s
  | .pmov f => Sys2Proof.Machine.execPmov f s
  | .pset f => Sys2Proof.Machine.execPset f s
  | .pget f => Sys2Proof.Machine.execPget f s
  | .nop f => Sys2Proof.Machine.execNop f s
  | .yield f => Sys2Proof.Machine.execYield f s
  | .br f => Sys2Proof.Machine.execBr f s
  | .brx f => Sys2Proof.Machine.execBrx f s
  | .call f => Sys2Proof.Machine.execCall f s
  | .callx f => Sys2Proof.Machine.execCallx f s
  | .ret f => Sys2Proof.Machine.execRet f s
  | .unwind f => Sys2Proof.Machine.execUnwind f s
  | .exit f => Sys2Proof.Machine.execExit f s
  | .ldf f => Sys2Proof.Machine.execLdf f s
  | .stf f => Sys2Proof.Machine.execStf f s
  | .frq f => Sys2Proof.Machine.execFrq f s
  | .fadd f => Sys2Proof.Machine.execFadd f s
  | .fsub f => Sys2Proof.Machine.execFsub f s
  | .fmul f => Sys2Proof.Machine.execFmul f s
  | .ffma f => Sys2Proof.Machine.execFfma f s
  | .fmin f => Sys2Proof.Machine.execFmin f s
  | .fmax f => Sys2Proof.Machine.execFmax f s
  | .fabs f => Sys2Proof.Machine.execFabs f s
  | .fneg f => Sys2Proof.Machine.execFneg f s
  | .fdiv f => Sys2Proof.Machine.execFdiv f s
  | .fsqrt f => Sys2Proof.Machine.execFsqrt f s
  | .frcp f => Sys2Proof.Machine.execFrcp f s
  | .frsq f => Sys2Proof.Machine.execFrsq f s
  | .fcmp f => Sys2Proof.Machine.execFcmp f s
  | .fclass f => Sys2Proof.Machine.execFclass f s
  | .padd2 f => Sys2Proof.Machine.execPadd2 f s
  | .psub2 f => Sys2Proof.Machine.execPsub2 f s
  | .pmul2 f => Sys2Proof.Machine.execPmul2 f s
  | .pfma2 f => Sys2Proof.Machine.execPfma2 f s
  | .pmin2 f => Sys2Proof.Machine.execPmin2 f s
  | .pmax2 f => Sys2Proof.Machine.execPmax2 f s
  | .dadd f => Sys2Proof.Machine.execDadd f s
  | .dsub f => Sys2Proof.Machine.execDsub f s
  | .dmul f => Sys2Proof.Machine.execDmul f s
  | .dfma f => Sys2Proof.Machine.execDfma f s
  | .ddiv f => Sys2Proof.Machine.execDdiv f s
  | .dsqrt f => Sys2Proof.Machine.execDsqrt f s
  | .dmin f => Sys2Proof.Machine.execDmin f s
  | .dmax f => Sys2Proof.Machine.execDmax f s
  | .dcmp f => Sys2Proof.Machine.execDcmp f s
  | .dclass f => Sys2Proof.Machine.execDclass f s
  | .fexp2 f => Sys2Proof.Machine.execFexp2 f s
  | .flog2 f => Sys2Proof.Machine.execFlog2 f s
  | .fsin f => Sys2Proof.Machine.execFsin f s
  | .fcos f => Sys2Proof.Machine.execFcos f s
  | .ftanh f => Sys2Proof.Machine.execFtanh f s
  | .cvt f => Sys2Proof.Machine.execCvt f s
  | .frnd f => Sys2Proof.Machine.execFrnd f s
  | .qnt f => Sys2Proof.Machine.execQnt f s
  | .dqnt f => Sys2Proof.Machine.execDqnt f s
  | .bmrd f => Sys2Proof.Machine.execBmrd f s
  | .bmwr f => Sys2Proof.Machine.execBmwr f s
  | .amxrd f => Sys2Proof.Machine.execAmxrd f s
  | .amxpsh f => Sys2Proof.Machine.execAmxpsh f s
  | .amxcmt f => Sys2Proof.Machine.execAmxcmt f s
  | .amxclr f => Sys2Proof.Machine.execAmxclr f s
  | .ld f => Sys2Proof.Machine.execLd f s
  | .st f => Sys2Proof.Machine.execSt f s
  | .fld f => Sys2Proof.Machine.execFld f s
  | .spld f => Sys2Proof.Machine.execSpld f s
  | .spst f => Sys2Proof.Machine.execSpst f s
  | .pref f => Sys2Proof.Machine.execPref f s
  | .ldref f => Sys2Proof.Machine.execLdref f s
  | .stref f => Sys2Proof.Machine.execStref f s
  | .rderive f => Sys2Proof.Machine.execRderive f s
  | .refadd f => Sys2Proof.Machine.execRefadd f s
  | .rinfo f => Sys2Proof.Machine.execRinfo f s
  | .oalloc f => Sys2Proof.Machine.execOalloc f s
  | .ofree f => Sys2Proof.Machine.execOfree f s
  | .atom f => Sys2Proof.Machine.execAtom f s
  | .red f => Sys2Proof.Machine.execRed f s
  | .fence f => Sys2Proof.Machine.execFence f s
  | .mma f => Sys2Proof.Machine.execMma f s
  | .acz f => Sys2Proof.Machine.execAcz f s
  | .acrd f => Sys2Proof.Machine.execAcrd f s
  | .acrdQ f => Sys2Proof.Machine.execAcrdQ f s
  | .acwr f => Sys2Proof.Machine.execAcwr f s
  | .acred f => Sys2Proof.Machine.execAcred f s
  | .acscl f => Sys2Proof.Machine.execAcscl f s
  | .scpy f => Sys2Proof.Machine.execScpy f s
  | .sgath f => Sys2Proof.Machine.execSgath f s
  | .sgathSp f => Sys2Proof.Machine.execSgathSp f s
  | .sscat f => Sys2Proof.Machine.execSscat f s
  | .ssadd f => Sys2Proof.Machine.execSsadd f s
  | .sput f => Sys2Proof.Machine.execSput f s
  | .sfill f => Sys2Proof.Machine.execSfill f s
  | .sqcp f => Sys2Proof.Machine.execSqcp f s
  | .lyset f => Sys2Proof.Machine.execLyset f s
  | .bar f => Sys2Proof.Machine.execBar f s
  | .bara f => Sys2Proof.Machine.execBara f s
  | .sharr f => Sys2Proof.Machine.execSharr f s
  | .sharrInit f => Sys2Proof.Machine.execSharrInit f s
  | .shwait f => Sys2Proof.Machine.execShwait f s
  | .cwait f => Sys2Proof.Machine.execCwait f s
  | .mwait f => Sys2Proof.Machine.execMwait f s
  | .pub f => Sys2Proof.Machine.execPub f s
  | .pubw f => Sys2Proof.Machine.execPubw f s
  | .launch f => Sys2Proof.Machine.execLaunch f s
  | .launchi f => Sys2Proof.Machine.execLaunchi f s
  | .hcall f => Sys2Proof.Machine.execHcall f s
  | .hcallNb f => Sys2Proof.Machine.execHcallNb f s
  | .uintr f => Sys2Proof.Machine.execUintr f s
  | .srd f => Sys2Proof.Machine.execSrd f s
  | .swr f => Sys2Proof.Machine.execSwr f s
  | .trap f => Sys2Proof.Machine.execTrap f s
  | .tfence f => Sys2Proof.Machine.execTfence f s
  | .rft f => Sys2Proof.Machine.execRft f s
  | .park f => Sys2Proof.Machine.execPark f s
  | .clrpsn f => Sys2Proof.Machine.execClrpsn f s
  | .bundleOpen core part => Sys2Proof.Machine.execBundleOpen core part s
  | .forcedWarp core part => Sys2Proof.Machine.execForcedWarp core part s
  | .icacheFill core realm obj line => Sys2Proof.Machine.execIcacheFill core realm obj line s
  | .asyncTrap wk => Sys2Proof.Machine.execAsyncTrap wk s
  | .warpParked wk => Sys2Proof.Machine.execWarpParked wk s
  | .resume wk mask => Sys2Proof.Machine.execResume wk mask s
  | .forward wk prv => Sys2Proof.Machine.execForward wk prv s
  | .kill wk => Sys2Proof.Machine.execKill wk s
  | .deferredResponse id => Sys2Proof.Machine.execDeferredResponse id s
  | .remoteTimeout id => Sys2Proof.Machine.execRemoteTimeout id s
  | .frameGrant core part => Sys2Proof.Machine.execFrameGrant core part s
  | .dofferWake core part => Sys2Proof.Machine.execDofferWake core part s
  | .spillDone core part => Sys2Proof.Machine.execSpillDone core part s
  | .refillDone core part => Sys2Proof.Machine.execRefillDone core part s
  | .frameRelease fk => Sys2Proof.Machine.execFrameRelease fk s
  | .objectWalk core realm obj => Sys2Proof.Machine.execObjectWalk core realm obj s
  | .extentFill die realm obj chunk => Sys2Proof.Machine.execExtentFill die realm obj chunk s
  | .shuttleComplete id => Sys2Proof.Machine.execShuttleComplete id s
  | .shuttleAsyncFault id => Sys2Proof.Machine.execShuttleAsyncFault id s
  | .sputIncrement id => Sys2Proof.Machine.execSputIncrement id s
  | .heldArrival tk idx => Sys2Proof.Machine.execHeldArrival tk idx s
  | .mmaPerform core bank => Sys2Proof.Machine.execMmaPerform core bank s
  | .aczPerform core bank => Sys2Proof.Machine.execAczPerform core bank s
  | .walkVisit core => Sys2Proof.Machine.execWalkVisit core s
  | .walkComplete core => Sys2Proof.Machine.execWalkComplete core s
  | .mwaitReread wk path => Sys2Proof.Machine.execMwaitReread wk path s
  | .hcallReply slot => Sys2Proof.Machine.execHcallReply slot s
  | .hcallTimeout slot => Sys2Proof.Machine.execHcallTimeout slot s
  | .monitorReread slot => Sys2Proof.Machine.execMonitorReread slot s
  | .uintrDeliver tk => Sys2Proof.Machine.execUintrDeliver tk s
  | .submitDmwr page rec => Sys2Proof.Machine.execSubmitDmwr page rec s
  | .submitBadWrite page wr => Sys2Proof.Machine.execSubmitBadWrite page wr s
  | .take page => Sys2Proof.Machine.execTake page s
  | .predWatch grid which => Sys2Proof.Machine.execPredWatch grid which s
  | .countRead grid => Sys2Proof.Machine.execCountRead grid s
  | .deal grid => Sys2Proof.Machine.execDeal grid s
  | .admitHead core => Sys2Proof.Machine.execAdmit core s
  | .idleSteal core => Sys2Proof.Machine.execIdleSteal core s
  | .stealRequest thief victim => Sys2Proof.Machine.execStealRequest thief victim s
  | .stealAnswer core => Sys2Proof.Machine.execStealAnswer core s
  | .teamRetire tk => Sys2Proof.Machine.execTeamRetire tk s
  | .gridComplete grid => Sys2Proof.Machine.execGridComplete grid s
  | .prgo core => Sys2Proof.Machine.execPrgo core s
  | .quiesceDone tk => Sys2Proof.Machine.execQuiesceDone tk s
  | .drainRequiesce tk => Sys2Proof.Machine.execDrainRequiesce tk s
  | .victimSkipExpire core tk => Sys2Proof.Machine.execVictimSkipExpire core tk s
  | .flushDone tk => Sys2Proof.Machine.execFlushDone tk s
  | .saveDone tk => Sys2Proof.Machine.execSaveDone tk s
  | .restore core => Sys2Proof.Machine.execRestore core s
  | .ogoDrain core realm obj => Sys2Proof.Machine.execOgoDrain core realm obj s
  | .ogoRelease core realm obj => Sys2Proof.Machine.execOgoRelease core realm obj s
  | .oinvDrain core realm obj => Sys2Proof.Machine.execOinvDrain core realm obj s
  | .oinvRelease core realm obj => Sys2Proof.Machine.execOinvRelease core realm obj s
  | .cpaddr core addr => Sys2Proof.Machine.execCpaddr core addr s
  | .mcgo core => Sys2Proof.Machine.execMcgo core s
  | .blockCopyBlock core => Sys2Proof.Machine.execBlockCopyBlock core s
  | .uidb handle datum => Sys2Proof.Machine.execUidb handle datum s
  | .rds src line => Sys2Proof.Machine.execRds src line s
  | .rdx src cell line => Sys2Proof.Machine.execRdx src cell line s
  | .upg src cell line => Sys2Proof.Machine.execUpg src cell line s
  | .wrfull src cell line => Sys2Proof.Machine.execWrfull src cell line s
  | .rdu src cell line wr => Sys2Proof.Machine.execRdu src cell line wr s
  | .wbu src cell line mask dat => Sys2Proof.Machine.execWbu src cell line mask dat s
  | .rdnc src addr => Sys2Proof.Machine.execRdnc src addr s
  | .evs src line => Sys2Proof.Machine.execEvs src line s
  | .wbm src line dat => Sys2Proof.Machine.execWbm src line dat s
  | .dirty src line => Sys2Proof.Machine.execDirty src line s
  | .clrp src line => Sys2Proof.Machine.execClrp src line s
  | .inv msg collector => Sys2Proof.Machine.execInv msg collector s
  | .fwds msg req => Sys2Proof.Machine.execFwds msg req s
  | .fwdx msg req ac => Sys2Proof.Machine.execFwdx msg req ac s
  | .wbreq msg inval => Sys2Proof.Machine.execWbreq msg inval s
  | .data line st ac dat => Sys2Proof.Machine.execData line st ac dat s
  | .grant line own => Sys2Proof.Machine.execGrant line own s
  | .invack msg => Sys2Proof.Machine.execInvack msg s
  | .fwdack msg dirty dat => Sys2Proof.Machine.execFwdack msg dirty dat s
  | .fwddata msg st ac dat => Sys2Proof.Machine.execFwddata msg st ac dat s
  | .wback line => Sys2Proof.Machine.execWback line s
  | .dirtyack line => Sys2Proof.Machine.execDirtyack line s
  | .miss msg => Sys2Proof.Machine.execMiss msg s
  | .refuse line => Sys2Proof.Machine.execRefuse line s
  | .poison line => Sys2Proof.Machine.execPoison line s
  | .selvedgeChange page idx => Sys2Proof.Machine.execSelvedgeChange page idx s
  | .heartbeatSend port => Sys2Proof.Machine.execHeartbeatSend port s
  | .heartbeat port => Sys2Proof.Machine.execHeartbeat port s
  | .heartbeatLoss port => Sys2Proof.Machine.execHeartbeatLoss port s
  | .deathDeclare seen => Sys2Proof.Machine.execDeathDeclare seen s
  | .deathNotice agents news => Sys2Proof.Machine.execDeathNotice agents news s
  | .recoveryScan line => Sys2Proof.Machine.execRecoveryScan line s
  | .packetForward src dst via cls flits hop mark esc => Sys2Proof.Machine.execPacketForward src dst via cls flits hop mark esc s
  | .rateIncrease target => Sys2Proof.Machine.execRateIncrease target s
  | .linkUp port peer version => Sys2Proof.Machine.execLinkUp port peer version s
  | .laneFailure port lanes => Sys2Proof.Machine.execLaneFailure port lanes s
  | .widthChange port => Sys2Proof.Machine.execWidthChange port s
  | .rtrn port => Sys2Proof.Machine.execRtrn port s
  | .hostSnoop half kind => Sys2Proof.Machine.execHostSnoop half kind s
  | .hostGo half dat => Sys2Proof.Machine.execHostGo half dat s
  | .hostBiResponse agent line => Sys2Proof.Machine.execHostBiResponse agent line s
  | .hostMemRead addr size => Sys2Proof.Machine.execHostMemRead addr size s
  | .hostMemWrite addr bytes => Sys2Proof.Machine.execHostMemWrite addr bytes s
  | .powerOn => Sys2Proof.Machine.execPowerOn s
  | .imageBufferWrite off bytes => Sys2Proof.Machine.execImageBufferWrite off bytes s
  | .go => Sys2Proof.Machine.execGo s
  | .verifyDone => Sys2Proof.Machine.execVerifyDone s
  | .initDone up => Sys2Proof.Machine.execInitDone up s
  | .lockInterfaceRequest => Sys2Proof.Machine.execLockInterfaceRequest s
  | .getDeviceInterfaceReport => Sys2Proof.Machine.execGetDeviceInterfaceReport s
  | .startInterfaceRequest => Sys2Proof.Machine.execStartInterfaceRequest s
  | .stopInterfaceRequest => Sys2Proof.Machine.execStopInterfaceRequest s
  | .correctedError => Sys2Proof.Machine.execCorrectedError s
  | .uncorrectableError loc => Sys2Proof.Machine.execUncorrectableError loc s
  | .coreOffline core => Sys2Proof.Machine.execCoreOffline core s
  | .throttleStep now => Sys2Proof.Machine.execThrottleStep now s
  | .thermalStop celsius => Sys2Proof.Machine.execThermalStop celsius s
  | .registerWrite reg v => Sys2Proof.Machine.execRegisterWrite reg v s
  | .supervisorAccess core acc => Sys2Proof.Machine.execSupervisorAccess core acc s
  | .objectPoolRefill core realm nums => Sys2Proof.Machine.execObjectPoolRefill core realm nums s
  | .submissionPageBind page realm wld => Sys2Proof.Machine.execSubmissionPageBind page realm wld s
  | .flitReplay port => Sys2Proof.Machine.execFlitReplay port s
  | .localMemoryResponse id => Sys2Proof.Machine.execLocalMemoryResponse id s

end Sys2Proof.Machine
end

