-- ==== Sys2Proof/Machine/Fetch.lean ====
section
/-! DEFINITION. What the step does around `exec` (log 2, log 3, log 4): the word that an open bundle issues next, the fault of a
reserved opcode (R124), time that passes, lines that leave caches, the order in which the engines of the package act when
nobody says otherwise, and how an instruction is placed for the next step. -/

namespace Sys2Proof.Machine

/-! ### Issue -/

/-- The bundle on a path that can issue now. -/
def openBundle (s : State) (wk path : Nat) : Option Bundle :=
  if canIssue s (s.warp wk) path then (s.warp wk).path path else none

/-- A reserved opcode (R124): ILLEGAL, OPCODE in every lane of the bundle. -/
def badOpcode (s : State) (wk path : Nat) (b : Bundle) (w : Word) : State :=
  let all := lanesOf b.lanes
  let s1 := faultLanes s wk (faultAt b (w.extractLsb' 48 10)) (all.map fun l => (l, flt .illegal 3)) false
  (advance s1 wk path { b with lanes := 0 }).wake

/-! ### Stalls (R138, log 90) -/

/-- A state without what an attempt that does nothing may touch: the order in which caches of entries have been used, and marks of the
attempt itself. -/
def State.bare (s : State) (wk path : Nat) : State :=
  { s with
    cores := s.cores.map fun (e : Nat × Core) => (e.1, { e.2 with oc := [], l1t := [] })
    ext := [], stalls := [], cur := none }.modWarp wk fun w => { (w.setPath path none) with wasRdy := false }

/-- Whether an attempt to issue has shown that a resource or a register stalls the instruction: its bundle has blocked at once, no lane
has performed it, and nothing else has happened. -/
def stalledTry (s t : State) (wk path : Nat) : Bool :=
  match (s.warp wk).path path, (t.warp wk).path path with
  | some b, some b1 =>
    b1.blocked == some s.epoch && b1 == { b with blocked := b1.blocked } && t.bare wk path == s.bare wk path
  | _, _ => false

/-- Mark the bundle on a path as stalled if an attempt to issue it, of which nothing remains, shows it to be. -/
def probePath (run : State → Nat → Nat → State) (wk : Nat) (s : State) (path : Nat) : State :=
  match openBundle s wk path with
  | none => s
  | some b =>
    if stalledTry s (run s wk path) wk path then
      s.modWarp wk fun w => w.setPath path (some { b with blocked := some s.epoch })
    else s

/-- Find out which open bundles of a partition are stalled before its heddle chooses a warp (R138). -/
def probe (run : State → Nat → Nat → State) (s : State) (pk : Nat) : State :=
  ((s.warps.map (·.1)).filter fun wk => wkPk wk == pk).foldl (fun st wk => [0, 1].foldl (probePath run wk) st) s

/-! ### Time (log 3) -/

/-- Flits that a port sends in some µs (R354): 6.4 ns each at ×4. -/
def flitsIn (p : Port) (us : Nat) : Nat :=
  match p.width.toNat with
  | 3 => us * 10000 / 64 | 2 => us * 10000 / 128 | 1 => us * 10000 / 256 | _ => 0

/-- Take flits from the queues of a port, responses first, and of a class the escape channel's first. -/
def drainQueues (d : Tab Nat) (n : Nat) : Tab Nat :=
  (([2, 1, 0].flatMap fun c => [5, 4, 3, 2, 1, 0].map fun h => 8 * c + h).foldl (fun (acc : Tab Nat × Nat) k =>
    let q := tget acc.1 k 0
    (tput acc.1 k (q - acc.2) 0, acc.2 - q)) (d, n)).1

/-- Cycles of every core and µs pass; requests that the limiter has kept back may go (R358). -/
def passTime (s : State) (cycles us : Nat) : State :=
  let s1 := (upto 32).foldl (fun st c => st.modCore c fun k => { k with cycle := k.cycle + BitVec.ofNat 64 cycles }) s
  let s2 := { s1 with
    usec := s1.usec + us
    ports := s1.ports.map fun (e : Nat × Port) =>
      (e.1, if e.2.up then { e.2 with depth := drainQueues e.2.depth (flitsIn e.2 us) } else e.2) }
  (s2.refillRates us).sendHeld

/-! ### Lines that leave an L1 (R217, R218) -/

/-- A core drops one line of its L1, after writing its dirty bytes back. -/
def evictLine (s : State) (core idx : Nat) : State :=
  match (s.core core).l1[idx]? with
  | none => s
  | some e =>
    match backAll s ⟨core, .core (core + 64 * 13), (s.core core).tdef.toNat⟩ [e] with
    | (s1, none) => s1.l1Drop core e
    | (s1, some _) => s1

/-! ### What the package does by itself -/

/-- Events of the supervisor's works of one core that may be due: copies, drains and releases. -/
def pageEvents (c : Nat) (k : Core) : List Instr :=
  let cp : List Instr := match k.page.cpaddr with | some l => [.cpaddr c (128 * l)] | none => []
  let mc : List Instr := if k.page.mcbusy then [.blockCopyBlock c] else []
  let oi : List Instr := k.oinv.map fun o => if o.release then .oinvRelease c o.realm o.obj else .oinvDrain c o.realm o.obj
  cp ++ (mc ++ oi)

/-- Events of a host-call slot of one core. -/
def slotEvents (c : Nat) (k : Core) (h : Nat × HCall) : List Instr :=
  let two : List Instr := [.hcallReply (2048 * c + h.1), .hcallTimeout (2048 * c + h.1)]
  if h.2.since + 65536 ≤ k.cycle.toNat then two ++ [.monitorReread (2048 * c + h.1)] else two

/-- Events of the engines of one core that may be due. -/
def unitEvents (c : Nat) (k : Core) : List Instr :=
  let wa : List Instr := if k.walks.isEmpty then [] else [.walkComplete c, .walkVisit c]
  let mx : List Instr := k.mxq.flatMap fun m => [.mmaPerform c m.1, .aczPerform c m.1]
  let sh : List Instr := k.shq.flatMap fun j => [.shuttleAsyncFault j.id, .sputIncrement j.id, .shuttleComplete j.id]
  wa ++ (mx ++ (sh ++ k.hcalls.flatMap (slotEvents c k)))

/-- Events of the placement of one core that may be due. -/
def placeEvents (c : Nat) (k : Core) : List Instr :=
  let sk : List Instr := k.skip.map fun x => .victimSkipExpire c x.1
  let dy : List Instr := if k.dying then [.coreOffline c] else []
  let qu : List Instr := match k.queue with
    | [] => []
    | r :: _ => if r.saved.isSome then [.restore c] else [.admitHead c]
  sk ++ (dy ++ qu)

/-- Events of one core that may be due. -/
def coreEvents (e : Nat × Core) : List Instr := pageEvents e.1 e.2 ++ (unitEvents e.1 e.2 ++ placeEvents e.1 e.2)

/-- Steps of one core's steal loop (R95), tried after every admission. -/
def stealEvents (e : Nat × Core) : List Instr :=
  let rq : List Instr := match e.2.asked with | some v => [.stealRequest e.1 v] | none => []
  let an : List Instr := if e.2.answer.isSome then [.stealAnswer e.1] else []
  rq ++ (an ++ [Instr.idleSteal e.1])

/-- Events of one partition. -/
def partEvents (e : Nat × Part) : List Instr :=
  let c := e.1 / 4
  let p := e.1 % 4
  let bz : List Instr := match e.2.busy with
    | some (.spill ..) => [.spillDone c p]
    | some (.refill ..) => [.refillDone c p]
    | none => []
  let rq : List Instr := if e.2.reqs.isEmpty then [] else [.frameGrant c p, .dofferWake c p]
  bz ++ rq

/-- A warp's MWAITs that have not read their words for 65,536 cycles (R296). -/
def mwaitEvents (s : State) (e : Nat × Warp) : List Instr :=
  let now := (s.core (wkCore e.1)).cycle.toNat
  let late (path : Nat) : Bool :=
    ((e.2.path path).filter fun b => b.atMwait && b.blocked.isSome && tget e.2.mwait path 0 + 65536 ≤ now).isSome
  ([0, 1].filter late).map fun path => .mwaitReread e.1 path

/-- Events of one warp. -/
def warpEvents (s : State) (e : Nat × Warp) : List Instr :=
  let ay : List Instr := if e.2.asyncs.isEmpty then [] else [.asyncTrap e.1]
  let pk : List Instr := if e.2.parking then [.warpParked e.1] else []
  let ic : List Instr := e.2.frozen.map fun x => .icacheFill (wkCore e.1) x.1 x.2.1 x.2.2
  ay ++ (pk ++ (ic ++ mwaitEvents s e))

/-- Events of one team. -/
def teamEvents (e : Nat × Team) : List Instr :=
  let ui : List Instr := if e.2.uiq.isEmpty then [] else [.uintrDeliver e.1]
  let he : List Instr := (upto e.2.held.length).map fun i => .heldArrival e.1 i
  let ph : List Instr := match e.2.phase with
    | .quiescing => [.quiesceDone e.1]
    | .draining _ => [.drainRequiesce e.1, .teamRetire e.1]
    | .flushing => [.flushDone e.1]
    | .saving => [.saveDone e.1]
    | .running => [.teamRetire e.1]
    | .saved => []
  ui ++ (he ++ ph)

/-- Events of one outstanding request. -/
def reqEvents (s : State) (r : Req) : List Instr :=
  if r.waiters.any fun w => w.2 ≤ s.usec then [.localMemoryResponse r.id, .remoteTimeout r.id] else [.localMemoryResponse r.id]

/-- Events of requests and counts that are outstanding. -/
def requestEvents (s : State) : List Instr :=
  let ak : List Instr := (s.acks.filter fun a => a.deadline ≤ s.usec).map fun a => .remoteTimeout (ackName a.line)
  let df : List Instr := (s.defers.filter fun d => !d.isHost).map fun d => .deferredResponse d.id
  s.reqs.flatMap (reqEvents s) ++ (ak ++ df)

/-- Events of one pending grid. -/
def gridEvents (e : Nat × Grid) : List Instr :=
  let pw : List Instr := (upto e.2.preds.length).map fun i => .predWatch e.1 i
  let rest : List Instr := [.countRead e.1, .deal e.1, .gridComplete e.1]
  pw ++ rest

/-- Events of the dispatcher. -/
def dispatchEvents (s : State) : List Instr :=
  let tk : List Instr := (s.pages.filter fun e => !e.2.recs.isEmpty).map fun e => .take e.1
  tk ++ s.grids.flatMap gridEvents

/-- Events of the remote-holder entries of one set that name dead agents. -/
def scanEvents (s : State) (e : Nat × List (Option Holder)) : List Instr :=
  (e.2.filter (namesDead s.pkg.fenced)).map fun h =>
    .recoveryScan ((match h with | some x => x.tagOf | none => 0) * 2 ^ 21 + e.1)

/-- Events of the links, of neighbours that have fallen silent, of recovery and of boot; what a dead cell owes is a free value (log 46). -/
def packageEvents (s : State) : List Instr :=
  let po : List Instr := s.ports.flatMap fun e => [.widthChange e.1, .heartbeatLoss e.1, .heartbeatSend e.1]
  let ra : List Instr := s.pkg.rates.map fun e => .rateIncrease e.1
  let bo : List Instr := if s.pkg.fwst = .verify then [.verifyDone] else []
  let st : List Instr := if s.pkg.stopping then [.stopInterfaceRequest] else []
  let owed : List (Nat × Nat) := s.acks.map fun a => (a.line, Config.deadOwes s.fresh a.line)
  let de : List Instr := ((s.ports.filterMap fun e => e.2.peer).eraseDups).map fun a => .deathDeclare ⟨a, owed⟩
  let sc : List Instr := s.rht.flatMap (scanEvents s) ++ (if s.pkg.scanning then [.recoveryScan 0] else [])
  po ++ (de ++ (ra ++ (sc ++ (bo ++ st))))

/-- Everything that an engine of the package may do now, in the order in which it is tried. -/
def engineEvents (s : State) : List Instr :=
  let fr : List Instr := (s.frames.filter fun e => e.2.rem == 0).map fun e => .frameRelease e.1
  List.flatten [requestEvents s, s.cores.flatMap coreEvents, s.parts.flatMap partEvents, s.warps.flatMap (warpEvents s),
    s.teams.flatMap teamEvents, fr, dispatchEvents s, s.cores.flatMap stealEvents, packageEvents s]

/-! ### Placing an instruction (log 4) -/

/-- Code of the class of a clause that may hold an instruction (R105, R110). -/
def clsCode : Cls → Nat
  | .any | .ctrl => 0 | .vec => 1 | .mem => 2 | .mtx => 3 | .sht => 4 | .sync => 5

/-- A header of one instruction without waits whose class admits a word. -/
def headerFor (w : Word) : Word :=
  let c := match (decodeShape w).bind sigOf with | some g => clsCode g.cls | none => 0
  BitVec.ofNat 64 (2 ^ 60 + c * 2 ^ 57)

/-- A team of one warp with room for everything that an immediate handle can name. -/
def hostTeam : Team := { Team.none with handle := 1, realm := 1, wpt := 1, scrk := 768, ntiles := 256, nshed := 8, gfmax := 24, order := 0 }

/-- Lane 0 of the warp in slot 0 of core 0, in a frame of 192 registers; CLRPSN stands in a privileged handler. -/
def hostLane (w : Word) : Lane :=
  let prv := match decodeShape w with | some (.clrpsn _) => true | _ => false
  { Lane.idle with pc := ⟨1, 0⟩, st := .run, h := prv, pv := prv }

/-- The frame of that lane. -/
def hostFrame : Frame := { Frame.none with demand := 192, lset := 1, rem := 1 }

/-- The state with a word as what the next step issues: in the bundle that is about to issue, or, with none, in a team of one warp of
one lane placed for it. -/
def placeWord (s : State) (w : Word) : State :=
  let fresh : State :=
    { s with
      teams := tset s.teams 0 hostTeam
      warps := tset s.warps 0 { Warp.idle with tout := 4000, path0 := some ⟨1, ⟨1, 0⟩, headerFor w, [w], 0, [], [], false, none, none⟩ }
      lanes := tset s.lanes 0 (hostLane w)
      frames := tset s.frames 0 hostFrame
      agenda := [], iq := [(0, 0)], pkg := { s.pkg with stopped := false } }
  if s.pkg.stopped || !s.agenda.isEmpty then fresh
  else
    match s.iq with
    | (wk, path) :: _ =>
      match openBundle s wk path with
      | some b =>
        let h := setBits b.hword 57 3 (bits (headerFor w) 59 57)
        s.modWarp wk fun x => x.setPath path (some { b with hword := h, words := b.words.set b.idx w })
      | none => fresh
    | [] => fresh

end Sys2Proof.Machine
end

