-- ==== Sys2Proof/Machine/Step.lean ====
section
/-! DEFINITION. One step of the machine (log 2): the next act of the agenda; else the next instruction of an open bundle; else
something an engine has to do; else one cycle of one partition's heddle, for which the bundles that a resource
stalls do not count (R138). -/

namespace Sys2Proof.Machine

/-- Issue the next instruction of the bundle on a path, if there is one that can issue. -/
def issueNext (s : State) (wk path : Nat) : Host.Outcome State Fault Refusal :=
  match openBundle s wk path with
  | none => .next s
  | some b =>
    match b.nextWord with
    | none => .next (raiseHeader s wk path b)
    | some w =>
      match decodeShape w with
      | some i => exec i { s with cur := some (wk, path) }
      | none => .next (badOpcode s wk path b w)

/-- The state that an attempt to issue leaves. -/
def tryIssue (s : State) (wk path : Nat) : State :=
  match issueNext s wk path with
  | .next t => t
  | _ => s

/-- Perform a row of the table that is no instruction word. -/
def event (s : State) (i : Instr) : Host.Outcome State Fault Refusal :=
  if (sigOf i).isSome then .next s else exec i { s with cur := none }

/-- Perform an act of the agenda. -/
def perform (s : State) : Action → Host.Outcome State Fault Refusal
  | .event i => event s i
  | .issue wk path => issueNext s wk path
  | .tick cycles us => .next (passTime s cycles us)
  | .evict core idx => .next (evictLine s core idx)
  | .dropCopy line => .next (dropCopy s line)
  | .shuttleUnit id => .next (shuttleUnit s id)
  | .rebooted agent => .next (unfence s agent)
  | .ackHere line => execInvack ⟨line, s.pkg.agent⟩ s
  | .missHere line => execMiss ⟨line, s.pkg.agent⟩ s
  | .dataHere line st ac dat => execData line st ac dat s
  | .pageHere page => if (tfind s.pkg.selWas page).isSome then execSelvedgeChange page (tget s.selPg page 0) s else .next s

/-- Whether an event would change anything. -/
def changes (s : State) (i : Instr) : Bool :=
  match event s i with
  | .next t => t != { s with cur := none }
  | _ => false

/-- One step. -/
def step (s : State) : Host.Outcome State Fault Refusal :=
  if s.pkg.stopped then .next s
  else
    match s.agenda with
    | a :: r => perform { s with agenda := r } a
    | [] =>
      match s.iq with
      | (wk, path) :: r => issueNext { s with iq := r } wk path
      | [] =>
        match (engineEvents s).find? (changes s) with
        | some i => event s i
        | none => event { probe tryIssue s s.turn with turn := (s.turn + 1) % 128 } (.bundleOpen (s.turn / 4) (s.turn % 4))

/-- The state with an instruction as the one that the next step issues; the table's instructions are one 64-bit word, and the bits
above nbits are 0. -/
def State.withFetchWord (s : State) (nbits w : Nat) : State := placeWord s (BitVec.ofNat 64 (w % 2 ^ nbits))

end Sys2Proof.Machine
end

