-- ==== Sys2Proof/Safety.lean ====
section
/-! DEFINITION. The vocabulary of the claims: the canonical form of memory, what it means that an instruction issues, reads its
operands and performs in its lanes, and what it may leave changed. -/

namespace Sys2Proof.Machine

/-- The canonical form of memory: in each of its tables the keys rise strictly and no entry equals what an unlisted key
reads as. -/
def Memory.wf (m : Mem) : Bool :=
  tabWf 0 m.bytes && tabWf false m.tags && tabWf (0x00, 0x7F) m.blk && tabWf false m.ltp && tabWf false m.ptp
    && tabWf 0 m.dir

/-- The instruction word `i` issues for the context `c` (R113, R116, R124, R125): its bundle is the one being issued and is at
its start, the encoding checks pass, and its active lanes, which exist, are those of the bundle whose guard holds. -/
structure Issues (s : State) (i : Instr) (c : Ctx) : Prop where
  cur    : s.cur = some (c.wk, c.path)
  bundle : (s.warp c.wk).path c.path = some c.b
  sig    : sigOf i = some c.g
  fresh  : c.b.outs = []
  legal  : encodingFault s c.wk c.b i c.g = none
  active : c.active = (lanesOf c.b.lanes).filter fun l => guardOn s c.wk l c.g.fs.guard
  lanes  : c.lanes = c.active
  nonempty : c.active ≠ []

/-- Every active lane reads its operands, and `x` is what they are (R120–R122, R145): no register is EMPTY, FAULTED or outside
the demand. -/
def Reads (s : State) (c : Ctx) (x : Nat → Srcs) : Prop := ∀ l ∈ c.active, readAll s c.wk l c.g = .ok (x l)

/-- The state in which an instruction has ended with the result `r l` in each active lane `l`, from the state `s` that its body
left: results written, lanes moved, the bundle advanced. -/
def Ended (s : State) (i : Instr) (c : Ctx) (r : Nat → LaneRes) : State :=
  (finish s i c (c.active.map fun l => (l, .ok (r l)))).wake

/-- The instruction completes whenever it issues and reads its operands, and gives each active lane `l` the result `F s c x l`,
computed from the operands `x` of the active lanes. -/
def Performs (i : Instr) (F : State → Ctx → (Nat → Srcs) → Nat → LaneRes) : Prop :=
  ∀ s c x, Issues s i c → Reads s c x → exec i s = .next (Ended s i c (F s c x))

/-- The instruction performs, and what it writes in a lane is one value and sticky flags that its own operands determine. -/
def Yields (i : Instr) (v : Srcs → Val) (fl : Srcs → BitVec 7) : Prop :=
  Performs i fun _ _ x l => { val := some (v (x l)), flags := fl (x l) }

/-- The instruction performs, and what it writes in a lane is an integer (tag 0) that its own operands determine; it raises no
flag. -/
def Computes (i : Instr) (v : Srcs → Word) : Prop := Yields i (fun x => Val.int (v x)) fun _ => 0

/-- The instruction performs, and its result in a lane is an encoding of at most 64 bits with the flags it raises. -/
def Rounds (i : Instr) (r : Srcs → Nat × BitVec 7) : Prop :=
  Yields i (fun x => Val.int (BitVec.ofNat 64 (r x).1)) fun x => (r x).2

/-- The lanes act one after another (R369): `σ k` is the state before the `k`-th active lane acts, and `R l` relates the
states before and after lane `l`. -/
def Turns (c : Ctx) (s : State) (σ : Nat → State) (R : Nat → State → State → Prop) : Prop :=
  σ 0 = s ∧ ∀ k l, c.active[k]? = some l → R l (σ k) (σ (k + 1))

/-- An access of a lane passes the checks of R25 and goes to the place `p`: OCBASE is enabled, the reference is tagged and names an object whose entry,
which is neither a view nor chunked nor migrating, stands in the object cache of the lane's core; the team's world and the
object's visibility admit it, the rights are held, the bytes lie in the object, the offset is a multiple of `align`, and the
address names memory that the team may reach; and no failure is waiting for the lane. -/
structure Allowed (s : State) (wk l : Nat) (ref : Val) (off : Int) (size : Nat) (rights : List Nat) (align : Nat)
    (p : Place) : Prop where
  enabled : (s.core (wkCore wk)).ocbase.getLsbD 0 = true
  tag    : ref.tag = true
  num    : objOf ref.bits ≠ 0
  entry  : (s.core (wkCore wk)).oc.find? (fun e => e.realm == (s.teamOf wk).realm && e.obj == objOf ref.bits) = some p.ent
  view   : p.ent.view = false
  top    : p.top = p.ent
  world  : p.top.wld = true → (s.teamOf wk).wld = true
  vis    : visFault s (s.teamOf wk).party p.top = none
  right  : ∀ r ∈ rights, p.ent.has r = true
  low    : 0 ≤ off
  high   : off + size ≤ p.ent.len
  mult   : align = 0 ∨ off.toNat % align = 0
  still  : p.top.mig = false ∧ (s.core (wkCore wk)).migOff.contains (p.top.realm, p.top.obj) = false
  whole  : p.top.hm = false
  poff   : p.poff = off.toNat
  addr   : p.addr = (bits (p.top.dw 2) 50 0 + off.toNat) % 2 ^ 51
  exists_ : addrOk s p.addr = true
  secure : secureBad s p.top p.addr = false
  clear  : s.fails.find? (fun f => f.who == .lane wk l) = none

/-- A lane's access is performed: no failure waits for the lane, the checks of R25 up to check `last` pass and give a place, and
the act on that place gives `v` there and then; `b` is the state afterwards, in which the lane waits for nothing. -/
def Acts {α : Type} (a b : State) (wk l : Nat) (ref : Val) (off : Int) (size : Nat) (rights : List Nat) (align last : Nat)
    (act : State → Who → Place → Acc (Tried α)) (v : α) : Prop :=
  a.fails.find? (fun f => f.who == .lane wk l) = none
    ∧ ∃ a1 p a2, checkRef a (wkCore wk) (a.teamOf wk).realm (a.teamOf wk).party (objOf ref.bits) ref.tag off size rights
        align last = .ok a1 (.ok p)
      ∧ act a1 (whoLane a wk l) p = .ok a2 (some (.ok v)) ∧ b = a2.unwait (.lane wk l)

/-- An access of `n` bytes at a place can be performed in the L1 of a core as it is: the object is private and its memory is the
package's own, the bytes lie in one line, which stands in the L1 as `e` and is not poisoned, and none of the lane's earlier loads is
still to be performed. -/
structure Hits (s : State) (wk l : Nat) (k : Key) (addr n : Nat) (e : L1Line) : Prop where
  priv  : k.pub = false
  home  : addr / 2 ^ 40 = s.pkg.agent
  local_ : s.pkg.agent < 2000
  span  : addr % 128 + n ≤ 128
  size  : 0 < n
  line  : s.l1Find (wkCore wk) k (addr / 128) = some e
  clean : s.dir (addr / 128 % 2 ^ 33) ≠ 3
  own   : ∀ d ∈ s.defers, isRead wk l d = false

/-- A lane result that is one value. -/
def LaneRes.value (v : Val) : LaneRes := { val := some v }

/-- What a lane keeps whatever an instruction does with its destination, its predicates, its flags and its place: its frame and
its trap registers. -/
def Lane.rest (ln : Lane) : Nat × Bool × Bool × Pc × BitVec 4 := (ln.frame, ln.h, ln.pv, ln.rpc, ln.rix)

/-- A lane without its place in the code. -/
def Lane.unplaced (ln : Lane) : Lane := { ln with pc := ⟨0, 0⟩, cix := 0, st := .run }

/-- A warp without what the end of an instruction moves: its bundles, its age stamp, HOLD, and the counts of CMPCNT with the deferred
results that they have still to take in. -/
def Warp.unmoved (w : Warp) : Warp :=
  { w with path0 := none, path1 := none, stamp := 0, hold := 0, uni := 0, dlt := 0, landing := [] }

/-- A team without its count of retired clauses. -/
def Team.uncounted (t : Team) : Team := { t with rcc := 0 }

/-- The state without the four tables that the end of an instruction writes. -/
def State.world (s : State) : State := { s with lanes := [], frames := [], warps := [], teams := [] }

end Sys2Proof.Machine
end

