-- ==== Sys2Proof/Certificates/Slice0/Obligations.lean ====
section
/-! DEFINITION. The statements of the model, for the provers. Each says in its docstring which rules of the spec it formalises. -/

open Sys2Proof Sys2Proof.Machine

/-! ### Integer instructions -/

/-- Group 0, arithmetic and moves (R156, R157, R159, R161): each completes whenever it issues and reads its operands, with the
result that the rules give at 32 or 64 bits; none raises a flag. Group 0, shifts and logic (R159): each completes with the
result of its rule at 32 or 64 bits. -/
def Obligations.IntegerResults : Prop :=
  ((∀ f, Yields (.mov f) (fun x => if f.md.getLsbD 0 then x.av else Val.int x.av.bits) fun _ => 0)
     ∧ (∀ f, Computes (.movi f) fun _ => if f.d.toNat < 0x40 then f.imm.signExtend 64 else f.imm.zeroExtend 64)
     ∧ (∀ f, Computes (.movh f) fun x => f.imm ++ lo32 x.av.bits)
     ∧ (∀ f, Performs (.sel f) fun s c x l =>
         let v := if (s.lane c.wk l).getP (bits f.md 8 5) then (x l).av else (x l).bv
         .value (if f.md.getLsbD 0 then v else Val.int v.bits))
     ∧ (∀ f, Computes (.add f) fun x => at2 (wBit f) (fun a b => a + b) x.av.bits x.bv.bits)
     ∧ (∀ f, Computes (.sub f) fun x => at2 (wBit f) (fun a b => a - b) x.av.bits x.bv.bits)
     ∧ (∀ f, Computes (.mul f) fun x => at2 (wBit f) (fun a b => a * b) x.av.bits x.bv.bits)
     ∧ (∀ f, Computes (.mulh f) fun x => at2 (wBit f) mulhS x.av.bits x.bv.bits)
     ∧ (∀ f, Computes (.mulhu f) fun x => at2 (wBit f) mulhU x.av.bits x.bv.bits)
     ∧ (∀ f, Computes (.mad f) fun x => at3 (wBit f) (fun a b c => a * b + c) x.av.bits x.bv.bits x.cv.bits)
     ∧ (∀ f, Computes (.min f) fun x => at2 (wBit f) minS x.av.bits x.bv.bits)
     ∧ (∀ f, Computes (.max f) fun x => at2 (wBit f) maxS x.av.bits x.bv.bits)
     ∧ (∀ f, Computes (.minu f) fun x => at2 (wBit f) minU x.av.bits x.bv.bits)
     ∧ (∀ f, Computes (.maxu f) fun x => at2 (wBit f) maxU x.av.bits x.bv.bits)
     ∧ (∀ f, Computes (.neg f) fun x => at1 (wBit f) (fun a => 0 - a) x.av.bits)
     ∧ (∀ f, Computes (.addi f) fun x =>
         if f.d.toNat < 0x40 then x.av.bits + f.imm.signExtend 64 else (lo32 x.av.bits + f.imm).zeroExtend 64)
     ∧ (∀ f, Computes (.lea f) fun x =>
         at3 (wBit f) (fun a b c => a + (b <<< bits f.md 4 2) + c) x.av.bits x.bv.bits x.cv.bits))
    ∧ ((∀ f, Computes (.shl f) fun x => at2 (wBit f) shlV x.av.bits x.bv.bits)
         ∧ (∀ f, Computes (.shr f) fun x => at2 (wBit f) shrV x.av.bits x.bv.bits)
         ∧ (∀ f, Computes (.sar f) fun x => at2 (wBit f) sarV x.av.bits x.bv.bits)
         ∧ (∀ f, Computes (.and f) fun x => at2 (wBit f) (fun a b => a &&& b) x.av.bits x.bv.bits)
         ∧ (∀ f, Computes (.or f) fun x => at2 (wBit f) (fun a b => a ||| b) x.av.bits x.bv.bits)
         ∧ (∀ f, Computes (.xor f) fun x => at2 (wBit f) (fun a b => a ^^^ b) x.av.bits x.bv.bits)
         ∧ (∀ f, Computes (.not f) fun x => at1 (wBit f) (fun a => ~~~a) x.av.bits)
         ∧ (∀ f, Computes (.andn f) fun x => at2 (wBit f) (fun a b => a &&& ~~~b) x.av.bits x.bv.bits))

/-- Group 0, division and ABS (R160): the quotient truncates toward zero, a division by zero gives all ones (the dividend for
a remainder), and IOV is raised exactly by a zero divisor, by the most negative number divided by −1, and by its ABS. Division
(R160): where the divisor is not zero, quotient and remainder are those of division truncating toward zero, and IOV stands for
the one overflow; a zero divisor gives all ones and the dividend. -/
def Obligations.DivisionResults : Prop :=
  ((∀ f, Yields (.div f) (fun x => Val.int (at2 (wBit f) divS x.av.bits x.bv.bits))
       fun x => iovIf (cmp2 (wBit f) divIov x.av.bits x.bv.bits))
     ∧ (∀ f, Yields (.divu f) (fun x => Val.int (at2 (wBit f) divU x.av.bits x.bv.bits))
       fun x => iovIf (cmp2 (wBit f) (fun _ b => b == 0) x.av.bits x.bv.bits))
     ∧ (∀ f, Yields (.rem f) (fun x => Val.int (at2 (wBit f) remS x.av.bits x.bv.bits))
       fun x => iovIf (cmp2 (wBit f) divIov x.av.bits x.bv.bits))
     ∧ (∀ f, Yields (.remu f) (fun x => Val.int (at2 (wBit f) remU x.av.bits x.bv.bits))
       fun x => iovIf (cmp2 (wBit f) (fun _ b => b == 0) x.av.bits x.bv.bits))
     ∧ (∀ f, Yields (.abs f) (fun x => Val.int (at1 (wBit f) absV x.av.bits))
       fun x => iovIf (cmp2 (wBit f) (fun a _ => isMin a) x.av.bits x.bv.bits)))
    ∧ (∀ (n : Nat) (a b : BitVec n), 0 < n →
         (b = 0 → divS a b = BitVec.allOnes n ∧ divU a b = BitVec.allOnes n ∧ remS a b = a ∧ remU a b = a
             ∧ divIov a b = true ∧ divuIov a b = true)
           ∧ (b ≠ 0 → divuIov a b = false ∧ (divU a b).toNat = a.toNat / b.toNat ∧ (remU a b).toNat = a.toNat % b.toNat)
           ∧ (b ≠ 0 → ¬ (a = BitVec.intMin n ∧ b = BitVec.allOnes n) → divIov a b = false
               ∧ (divS a b).toInt = a.toInt.tdiv b.toInt ∧ (remS a b).toInt = a.toInt.tmod b.toInt)
           ∧ (1 < n → a = BitVec.intMin n → b = BitVec.allOnes n → divIov a b = true ∧ divS a b = a ∧ remS a b = 0)
           ∧ (absIov a b = true ↔ a = BitVec.intMin n) ∧ (a = BitVec.intMin n → absV a = a))

/-- Group 1, bits and fields (R162, R163): each completes with the result of its rule at 32 or 64 bits. Bit counts (R162):
CLZ, CTZ and POPC count what their rows say, and the width where there is no 1 bit. -/
def Obligations.BitFieldResults : Prop :=
  ((∀ f, Computes (.popc f) fun x => at1 (wBit f) popcV x.av.bits)
     ∧ (∀ f, Computes (.clz f) fun x => at1 (wBit f) clzV x.av.bits)
     ∧ (∀ f, Computes (.ctz f) fun x => at1 (wBit f) ctzV x.av.bits)
     ∧ (∀ f, Computes (.brev f) fun x => at1 (wBit f) brevV x.av.bits)
     ∧ (∀ f, Computes (.bswap f) fun x => at1 (wBit f) bswapV x.av.bits)
     ∧ (∀ f, Computes (.rol f) fun x => at2 (wBit f) rolV x.av.bits x.bv.bits)
     ∧ (∀ f, Computes (.ror f) fun x => at2 (wBit f) rorV x.av.bits x.bv.bits)
     ∧ (∀ f, Computes (.bfx f) fun x => at2 (wBit f) bfxV x.av.bits x.bv.bits)
     ∧ (∀ f, Computes (.bfxu f) fun x => at2 (wBit f) bfxuV x.av.bits x.bv.bits)
     ∧ (∀ f, Computes (.bfi f) fun x => at3 (wBit f) bfiV x.av.bits x.bv.bits x.cv.bits))
    ∧ (∀ (n : Nat) (a : BitVec n), n = 32 ∨ n = 64 →
         (popcV a).toNat = ((List.range n).filter fun i => a.getLsbD i).length
           ∧ (a = 0 → (clzV a).toNat = n ∧ (ctzV a).toNat = n)
           ∧ (a ≠ 0 → a.getLsbD (n - 1 - (clzV a).toNat) = true ∧ (clzV a).toNat < n
               ∧ ∀ i, n - 1 - (clzV a).toNat < i → a.getLsbD i = false)
           ∧ (a ≠ 0 → a.getLsbD (ctzV a).toNat = true ∧ ∀ i < (ctzV a).toNat, a.getLsbD i = false)
           ∧ (∀ i < n, (brevV a).getLsbD (n - 1 - i) = a.getLsbD i)
           ∧ (∀ i < n, (bswapV a).getLsbD (8 * (n / 8 - 1 - i / 8) + i % 8) = a.getLsbD i))

/-! ### Lanes together -/

/-- Group 1, lane exchange (R164, R165): a lane receives the value of its source lane if that lane takes part, else keeps its
own; with PW, the predicate says which. The participants are the active lanes. Group 1, votes and reductions (R166, R167):
over the active lanes, in each of them the same. -/
def Obligations.CrossLaneResults : Prop :=
  (let lx (con : BaseF → Instr) (src : Nat → Nat → Word → Option Nat) : Prop := ∀ f, Performs (con f) fun _ c x l =>
     let z := 32 >>> bits f.md 4 2
     let m := (src z l (x l).bv.bits).filter fun m => c.active.contains m
     let v := match m with | some m => (x m).av | none => (x l).av
     { val := some (if f.md.getLsbD 0 then v else Val.int v.bits)
       preds := if f.md.getLsbD 9 then [(bits f.md 8 5, m.isSome)] else [] }
   lx .lxPick pickSrc ∧ lx .lxShf shfSrc ∧ lx .lxRot rotSrc ∧ lx .lxFlip flipSrc)
    ∧ (let hold (s : State) (c : Ctx) (f : BaseF) (l : Nat) : Bool := (s.lane c.wk l).getP (f.a.toNat % 16) != f.md.getLsbD 10
       let red (con : BaseF → Instr) (op : BaseF → {n : Nat} → BitVec n → BitVec n → BitVec n) : Prop :=
         ∀ f, Performs (con f) fun _ c x _ => .value (Val.int
           ((c.active.drop 1).foldl (fun m l => at2 (wBit f) (op f) m (x l).av.bits)
             (at1 (wBit f) (fun a => a) (x (c.active.headD 0)).av.bits)))
       (∀ f, Performs (.prdcOr f) fun s c _ _ => { preds := [(f.d.toNat % 16, c.active.any (hold s c f))] })
         ∧ (∀ f, Performs (.prdcAnd f) fun s c _ _ => { preds := [(f.d.toNat % 16, c.active.all (hold s c f))] })
         ∧ (∀ f, Performs (.prdcMsk f) fun s c _ _ => .value (Val.int ((maskOf (c.active.filter (hold s c f))).zeroExtend 64)))
         ∧ (∀ f, Performs (.eqmask f) fun _ c x l => .value (Val.int ((maskOf (c.active.filter fun m =>
             cmp2 (wBit f) (fun a b => a == b) (x m).av.bits (x l).av.bits)).zeroExtend 64)))
         ∧ (∀ f, Performs (.partm f) fun _ c _ _ => .value (Val.int ((maskOf c.active).zeroExtend 64)))
         ∧ red .wredAdd (fun _ _ a b => a + b) ∧ red .wredMin (fun f _ => if f.md.getLsbD 1 then minU else minS)
         ∧ red .wredMax (fun f _ => if f.md.getLsbD 1 then maxU else maxS) ∧ red .wredAnd (fun _ _ a b => a &&& b)
         ∧ red .wredOr (fun _ _ a b => a ||| b) ∧ red .wredXor (fun _ _ a b => a ^^^ b))

/-! ### Compares and predicates -/

/-- Compares (R168, R169, R181): each active lane writes P1 and P2 from the truth of its condition by the combining type, and
with .zf and .zfn both predicates of the lanes of the bundle that are not active are cleared first. The combining types of a
compare (R169): what P1 and P2 hold afterwards from what they held before and from the truth of the condition, complemented
for the types above 3. -/
def Obligations.CompareResults : Prop :=
  (let cmp (con : BaseF → Instr) (hit : BaseF → Srcs → Bool × BitVec 7) : Prop := ∀ f s c x, Issues s (con f) c → Reads s c x →
     let p1 := f.d.toNat / 16
     let p2 := f.d.toNat % 16
     let s1 := if bits f.md 6 4 % 4 = 3 then
         (idleLanes c).foldl (fun st l => st.modLane c.wk l fun ln => (ln.setP p1 false).setP p2 false) s
       else s
     exec (con f) s = .next (Ended s1 (con f) c fun l =>
       { preds := combine (bits f.md 6 4) p1 p2 ((s.lane c.wk l).getP p1) ((s.lane c.wk l).getP p2) (hit f (x l)).1
         flags := (hit f (x l)).2 })
   cmp .icmp (fun f x => (cmp2 (wBit f) (condS (bits f.md 3 1)) x.av.bits x.bv.bits, 0))
     ∧ cmp .icmpu (fun f x => (cmp2 (wBit f) (condU (bits f.md 3 1)) x.av.bits x.bv.bits, 0))
     ∧ cmp .tstb (fun f x => (cmp2 (wBit f) (fun a b => a &&& b != 0) x.av.bits x.bv.bits, 0))
     ∧ cmp .fcmp (fun f x => condF (bits f.md 3 1) (f.md.getLsbD 9) (fIn (tyFmt (bits f.md 11 10)) f.a x.av)
         (fIn (tyFmt (bits f.md 11 10)) f.b x.bv))
     ∧ cmp .dcmp (fun f x => condF (bits f.md 3 1) (f.md.getLsbD 9) (fIn fFP64 f.a x.av) (fIn fFP64 f.b x.bv)))
    ∧ (∀ (ct p1 p2 : Nat) (o1 o2 hit : Bool), ct < 8 →
         let v := if 4 ≤ ct then !hit else hit
         combine ct p1 p2 o1 o2 hit =
           if ct = 1 ∨ ct = 5 then [(p1, o1 && v), (p2, o2 && !v)]
           else if ct = 2 ∨ ct = 6 then [(p1, o1 || v), (p2, o2 || !v)]
           else [(p1, v), (p2, !v)])

/-- Predicate instructions (R170): each completes with the predicate that its rule gives; PSET writes those that B selects and
PGET gives all sixteen as bits. -/
def Obligations.PredicateResults : Prop :=
  let two (con : BaseF → Instr) (op : Bool → Bool → Bool) : Prop := ∀ f, Performs (con f) fun s c _ l =>
    { preds := [(f.d.toNat % 16, op ((s.lane c.wk l).getP (f.a.toNat % 16) != f.md.getLsbD 7)
                                     ((s.lane c.wk l).getP (f.b.toNat % 16) != f.md.getLsbD 8))] }
  two .pand and ∧ two .por or ∧ two .pxor xor ∧ two .pnot (fun a _ => !a) ∧ two .pmov (fun a _ => a)
    ∧ (∀ f, Performs (.pset f) fun _ _ x l =>
        { preds := ((List.range 16).filter fun i => (x l).bv.bits.getLsbD i).map fun i => (i, (x l).av.bits.getLsbD i) })
    ∧ (∀ f, Performs (.pget f) fun s c _ l => .value (Val.int ((s.lane c.wk l).p.zeroExtend 64)))

/-! ### Floating point -/

/-- Groups 4 and 5, arithmetic of FP32, FP16, BF16 and FP64 (R175, R176, R178, R179, R184): each completes with the result of
its operation in its format on the operands read by R176, rounded by RM with SAT, and with the flags of that one result.
Packed halves (R183): each half is computed as the scalar instruction computes it, by the same RM and SAT; a small integer
stands in both halves; the flags of the halves are ORed and the two results are one value of 32 bits. -/
def Obligations.FloatResults : Prop :=
  ((∀ f, Rounds (.fadd f) fun x => addF (tyOf f) (rmOf f) (satOf f) (fIn (tyOf f) f.a x.av) (fIn (tyOf f) f.b x.bv))
     ∧ (∀ f, Rounds (.fsub f) fun x =>
         addF (tyOf f) (rmOf f) (satOf f) (fIn (tyOf f) f.a x.av) (negFV (fIn (tyOf f) f.b x.bv)))
     ∧ (∀ f, Rounds (.fmul f) fun x => mulF (tyOf f) (rmOf f) (satOf f) (fIn (tyOf f) f.a x.av) (fIn (tyOf f) f.b x.bv))
     ∧ (∀ f, Rounds (.ffma f) fun x => fmaF (tyOf f) (rmOf f) (satOf f) (fIn (tyOf f) f.a x.av) (fIn (tyOf f) f.b x.bv)
         (fIn (tyOf f) f.c x.cv))
     ∧ (∀ f, Rounds (.fdiv f) fun x => divF (tyOf f) (rmOf f) (satOf f) (fIn (tyOf f) f.a x.av) (fIn (tyOf f) f.b x.bv))
     ∧ (∀ f, Rounds (.fsqrt f) fun x => sqrtF (tyOf f) (rmOf f) (satOf f) (fIn (tyOf f) f.a x.av))
     ∧ (∀ f, Rounds (.frcp f) fun x => divF (tyOf f) (rmOf f) (satOf f) (.fin false 1 0) (fIn (tyOf f) f.a x.av))
     ∧ (∀ f, Rounds (.frsq f) fun x => rsqF (tyOf f) (rmOf f) (satOf f) (fIn (tyOf f) f.a x.av))
     ∧ (∀ f, Rounds (.fmin f) fun x => minMaxF (tyOf f) false (encIn (tyOf f) f.a x.av) (encIn (tyOf f) f.b x.bv))
     ∧ (∀ f, Rounds (.fmax f) fun x => minMaxF (tyOf f) true (encIn (tyOf f) f.a x.av) (encIn (tyOf f) f.b x.bv))
     ∧ (∀ f, Rounds (.dadd f) fun x => addF fFP64 (rmOf f) (satOf f) (fIn fFP64 f.a x.av) (fIn fFP64 f.b x.bv))
     ∧ (∀ f, Rounds (.dsub f) fun x => addF fFP64 (rmOf f) (satOf f) (fIn fFP64 f.a x.av) (negFV (fIn fFP64 f.b x.bv)))
     ∧ (∀ f, Rounds (.dmul f) fun x => mulF fFP64 (rmOf f) (satOf f) (fIn fFP64 f.a x.av) (fIn fFP64 f.b x.bv))
     ∧ (∀ f, Rounds (.dfma f) fun x => fmaF fFP64 (rmOf f) (satOf f) (fIn fFP64 f.a x.av) (fIn fFP64 f.b x.bv)
         (fIn fFP64 f.c x.cv))
     ∧ (∀ f, Rounds (.ddiv f) fun x => divF fFP64 (rmOf f) (satOf f) (fIn fFP64 f.a x.av) (fIn fFP64 f.b x.bv))
     ∧ (∀ f, Rounds (.dsqrt f) fun x => sqrtF fFP64 (rmOf f) (satOf f) (fIn fFP64 f.a x.av))
     ∧ (∀ f, Rounds (.dmin f) fun x => minMaxF fFP64 false (encIn fFP64 f.a x.av) (encIn fFP64 f.b x.bv))
     ∧ (∀ f, Rounds (.dmax f) fun x => minMaxF fFP64 true (encIn fFP64 f.a x.av) (encIn fFP64 f.b x.bv)))
    ∧ (let packed (con : BaseF → Instr) (op : BaseF → Fmt → Nat → Nat → Nat → Nat × BitVec 7) : Prop := ∀ f, Rounds (con f) fun x =>
         let half (v : Val) (code : Byte) (h : Nat) : Nat :=
           if 0x30 ≤ code.toNat && code.toNat < 0x40 then smallF (tyOf f) code else v.bits.toNat / 2 ^ (16 * h) % 2 ^ 16
         let r (h : Nat) := op f (tyOf f) (half x.av f.a h) (half x.bv f.b h) (half x.cv f.c h)
         ((r 0).1 + (r 1).1 * 2 ^ 16, (r 0).2 ||| (r 1).2)
       packed .padd2 (fun f F a b _ => addF F (rmOf f) (satOf f) (decodeF F a) (decodeF F b))
         ∧ packed .psub2 (fun f F a b _ => addF F (rmOf f) (satOf f) (decodeF F a) (negFV (decodeF F b)))
         ∧ packed .pmul2 (fun f F a b _ => mulF F (rmOf f) (satOf f) (decodeF F a) (decodeF F b))
         ∧ packed .pfma2 (fun f F a b c => fmaF F (rmOf f) (satOf f) (decodeF F a) (decodeF F b) (decodeF F c))
         ∧ packed .pmin2 (fun _ F a b _ => minMaxF F false a b)
         ∧ packed .pmax2 (fun _ F a b _ => minMaxF F true a b))

/-- Transcendentals and conversions (R185–R188): each completes with the result of its function on the operand read by R176 (CVT:
on the low bits of the source type's width), and with its flags. -/
def Obligations.ConversionResults : Prop :=
  (∀ f, Rounds (.fexp2 f) fun x => exp2F (fIn fFP32 f.a x.av)) ∧ (∀ f, Rounds (.flog2 f) fun x => log2F (fIn fFP32 f.a x.av))
    ∧ (∀ f, Rounds (.fsin f) fun x => sinF (fIn fFP32 f.a x.av)) ∧ (∀ f, Rounds (.fcos f) fun x => cosF (fIn fFP32 f.a x.av))
    ∧ (∀ f, Rounds (.ftanh f) fun x => tanhF (fIn fFP32 f.a x.av))
    ∧ (∀ f, Yields (.cvt f)
        (fun x => Val.int (cvtOut (bits f.md 7 4) (cvtVal (bits f.md 7 4) (bits f.md 3 0) (rmOf f) (satOf f)
          (x.av.bits.toNat % 2 ^ cvtWidth (bits f.md 3 0))).1))
        fun x => (cvtVal (bits f.md 7 4) (bits f.md 3 0) (rmOf f) (satOf f)
          (x.av.bits.toNat % 2 ^ cvtWidth (bits f.md 3 0))).2)
    ∧ (∀ f, Rounds (.frnd f) fun x =>
        let F := if bits f.md 1 0 = 3 then fFP64 else tyOf f
        frndVal F (rmOf f) (encIn F f.a x.av))

/-- R180: FABS and FNEG change only the sign bit: FABS clears it and FNEG inverts it; the other bits, a NaN's included, stay, and
no flag is set; a word with RM or SAT other than zero does not pass the encoding check. -/
def Obligations.SignBitOnly : Prop :=
  ∀ f : BaseF,
    let w := (tyOf f).width
    let sign : BitVec w := BitVec.twoPow w (w - 1)
    let src (x : Srcs) : BitVec w := BitVec.ofNat w (encIn (tyOf f) f.a x.av)
    Computes (.fabs f) (fun x => BitVec.ofNat 64 (src x &&& ~~~sign).toNat)
      ∧ Computes (.fneg f) (fun x => BitVec.ofNat 64 (src x ^^^ sign).toNat)
      ∧ (rmOf f ≠ 0 ∨ satOf f = true → staticCheck (.fabs f) = some 5 ∧ staticCheck (.fneg f) = some 5)

/-- R182: FCLASS and DCLASS deliver a mask with exactly one bit set, of the ten that the table of the rule names, and set no flag; a
word with RM or SAT other than zero does not pass the encoding check. -/
def Obligations.FloatClass : Prop :=
  let mask (F : Fmt) (x : Nat) : Nat :=
    match decodeF F x with
    | .inf true => 0x001 | .inf false => 0x080
    | .nan _ true => 0x100 | .nan _ false => 0x200
    | .fin s m _ => if m = 0 then (if s then 0x008 else 0x010)
      else if m < 2 ^ F.mbits then (if s then 0x004 else 0x020) else (if s then 0x002 else 0x040)
  (∀ F x, ∃ k < 10, mask F x = 2 ^ k)
    ∧ (∀ f, Computes (.fclass f) fun x => BitVec.ofNat 64 (mask (tyOf f) (encIn (tyOf f) f.a x.av)))
    ∧ (∀ f, Computes (.dclass f) fun x => BitVec.ofNat 64 (mask fFP64 (encIn fFP64 f.a x.av)))
    ∧ (∀ f, rmOf f ≠ 0 ∨ satOf f = true → staticCheck (.fclass f) = some 5 ∧ staticCheck (.dclass f) = some 5)

/-- R179: FMIN and FMAX: with two numbers the lesser or the greater, −0 counting as less than +0; with exactly one NaN the other
operand; with two the canonical NaN; a signalling NaN raises NV in every case. The completion is stated with the other arithmetic. -/
def Obligations.MinMaxRules : Prop :=
  ∀ (F : Fmt) (mx : Bool) (x y : Nat),
    let a := decodeF F x
    let b := decodeF F y
    let r := minMaxF F mx x y
    r.2 = (if a.isSig || b.isSig then flagNV else 0)
      ∧ (a.isNaN = true → b.isNaN = false → r.1 = y) ∧ (a.isNaN = false → b.isNaN = true → r.1 = x)
      ∧ (a.isNaN = true → b.isNaN = true → r.1 = canonNaN F a.neg)
      ∧ (a.isNaN = false → b.isNaN = false → cmpFV a b < 0 → r.1 = if mx then y else x)
      ∧ (a.isNaN = false → b.isNaN = false → 0 < cmpFV a b → r.1 = if mx then x else y)
      ∧ (cmpFV a b = 0 → a.isNaN = false → b.isNaN = false → a.neg = true → b.neg = false → r.1 = if mx then y else x)
      ∧ (cmpFV a b = 0 → a.isNaN = false → b.isNaN = false → a.neg = false → b.neg = true → r.1 = if mx then x else y)

/-- Rounding (R47): a number m / 2^k of sign s is rounded to an integer: exactly if it is one, else to one of its two neighbours by
the mode: to nearest with ties to even, toward zero, toward +∞, toward −∞, to nearest with ties away from zero. -/
def Obligations.RoundingModes : Prop :=
  ∀ (s : Bool) (m k : Nat),
    let n (rm : Nat) := (roundAt rm s m 0 k false).1
    (∀ rm, (roundAt rm s m 0 k false).2 = true ↔ m % 2 ^ k = 0)
      ∧ (∀ rm, m % 2 ^ k = 0 → n rm = m / 2 ^ k) ∧ (∀ rm, n rm = m / 2 ^ k ∨ n rm = m / 2 ^ k + 1)
      ∧ (m % 2 ^ k ≠ 0 → (2 * (m % 2 ^ k) < 2 ^ k → n 0 = m / 2 ^ k ∧ n 4 = m / 2 ^ k)
          ∧ (2 ^ k < 2 * (m % 2 ^ k) → n 0 = m / 2 ^ k + 1 ∧ n 4 = m / 2 ^ k + 1)
          ∧ (2 * (m % 2 ^ k) = 2 ^ k → n 0 % 2 = 0 ∧ n 4 = m / 2 ^ k + 1)
          ∧ n 1 = m / 2 ^ k ∧ n 2 = m / 2 ^ k + (if s then 0 else 1) ∧ n 3 = m / 2 ^ k + (if s then 1 else 0))

/-- Invalid operations and zero signs (R37, R48, R178): ∞ − ∞, ∞ · 0, 0/0, ∞/∞ and the root of a negative number give the positive
canonical NaN and NV; a finite number but zero divided by zero gives ∞ and DZ; a NaN operand gives the canonical NaN with its
sign, and NV if a signalling one was read; an exact zero sum of opposite signs is +0, toward −∞ it is −0. -/
def Obligations.InvalidOperations : Prop :=
  ∀ (F : Fmt) (rm : Nat) (sat s t : Bool) (m n : Nat) (e g : Int), m ≠ 0 →
    addF F rm sat (.inf s) (.inf !s) = (canonNaN F false, flagNV)
      ∧ mulF F rm sat (.inf s) (.fin t 0 e) = (canonNaN F false, flagNV)
      ∧ mulF F rm sat (.fin t 0 e) (.inf s) = (canonNaN F false, flagNV)
      ∧ divF F rm sat (.fin s 0 e) (.fin t 0 g) = (canonNaN F false, flagNV)
      ∧ divF F rm sat (.inf s) (.inf t) = (canonNaN F false, flagNV)
      ∧ sqrtF F rm sat (.fin true m e) = (canonNaN F false, flagNV)
      ∧ rsqF F rm sat (.fin true m e) = (canonNaN F false, flagNV)
      ∧ divF F rm sat (.fin s m e) (.fin t 0 g) = (infOf F (s != t), flagDZ)
      ∧ (∀ q, addF F rm sat (.nan s q) (.fin t n g) = (canonNaN F s, if q then flagNV else 0)
          ∧ mulF F rm sat (.fin t n g) (.nan s q) = (canonNaN F s, if q then flagNV else 0)
          ∧ fmaF F rm sat (.inf t) (.fin t 0 g) (.nan s q) = (canonNaN F s, if q then flagNV ||| flagNV else flagNV))
      ∧ addF F rm sat (.fin s m e) (.fin (!s) m e) = (zeroOf F (rm == 3), 0)

/-! ### The end of an instruction -/

/-- Results (R12, R48, R120, R139, R140, R142): a lane's value reaches its destination, a g register or frame registers that become
FULL with the pair's tag; it is pushed unless NQ; predicates are written in order and flags are ORed into the sticky flags. -/
def Obligations.ResultsReachTheirDestination : Prop :=
  ∀ (s : State) (i : Instr) (c : Ctx) (r : Nat → LaneRes), c.active.Nodup → (∀ l ∈ c.active, l < 32) →
    (s.warp c.wk).step = false → ∀ l ∈ c.active,
    let t := Ended s i c r
    let d := resultDst i c.g
    let code := d.2.1.toNat
    let a := s.lane c.wk l
    let z := t.lane c.wk l
    let f := t.frame a.frame
    (∀ v, (r l).val = some v →
        let v2 := (r l).val2.getD Val.zero
        (0x10 ≤ code → code < 0x40 → z.getG (code - 0x10) = pushVal d.1 d.2.1 v)
          ∧ (d.2.2 = true → z.q = pushVal d.1 d.2.1 v :: a.q.take 15)
          ∧ (0x40 ≤ code → match d.1 with
              | .r32 | .i32 | .def32 | .blk8 =>
                f.reg (code - 0x40) l = ⟨v.bits.truncate 32, .full⟩ ∧ f.ptag (code - 0x40) l = false
              | .r64 | .def64 =>
                f.reg (code - 0x40) l = ⟨v.bits.truncate 32, .full⟩ ∧ f.ptag (code - 0x40) l = v.tag
                  ∧ f.reg (code - 0x40 + 1) l = ⟨v.bits.extractLsb' 32 32, .full⟩
              | .defQ | .quad =>
                f.reg (code - 0x40) l = ⟨v.bits.truncate 32, .full⟩ ∧ f.ptag (code - 0x40) l = v.tag
                  ∧ f.reg (code - 0x40 + 1) l = ⟨v.bits.extractLsb' 32 32, .full⟩
                  ∧ f.reg (code - 0x40 + 2) l = ⟨v2.bits.truncate 32, .full⟩ ∧ f.ptag (code - 0x40 + 2) l = v2.tag
                  ∧ f.reg (code - 0x40 + 3) l = ⟨v2.bits.extractLsb' 32 32, .full⟩))
      ∧ ((r l).val = none ∨ d.2.2 = false → z.q = a.q)
      ∧ z.flags = a.flags ||| (r l).flags
      ∧ z.p = ((r l).preds.foldl (fun ln p => ln.setP p.1 p.2) a).p

/-- The frame of every instruction word that ends with a result in each active lane (R112, R134, R140, R154, R391): memory and every
part of the machine but lanes, frames, warps and teams is unchanged; a team changes only in RCC; a warp only in its bundles,
its age stamp, HOLD and CMPCNT; lanes outside the bundle not at all; the bundle's other lanes only in place; an active lane,
beside its place, only in its queue, the g register D names, the predicates and flags it writes; frames only in the registers
and tags of D in the active lanes. -/
def Obligations.InstructionFrame : Prop :=
  ∀ (s : State) (i : Instr) (c : Ctx) (r : Nat → LaneRes), c.active.Nodup → (∀ l ∈ c.active, l ∈ lanesOf c.b.lanes) →
    (s.warp c.wk).step = false →
    let t := Ended s i c r
    let d := resultDst i c.g
    let code := d.2.1.toNat
    t.world = { s.world with epoch := s.epoch + 1 } ∧ (∀ a, t.hbm.byte a = s.hbm.byte a)
      ∧ (∀ tk, (t.team tk).uncounted = (s.team tk).uncounted ∧ (tk ≠ (s.warp c.wk).team → t.team tk = s.team tk))
      ∧ (∀ wk, (t.warp wk).unmoved = (s.warp wk).unmoved ∧ (wk ≠ c.wk → t.warp wk = s.warp wk))
      ∧ (∀ wk l, l < 32 → wk ≠ c.wk ∨ l ∉ lanesOf c.b.lanes → t.lane wk l = s.lane wk l)
      ∧ (∀ l ∈ lanesOf c.b.lanes, l ∉ c.active → (t.lane c.wk l).unplaced = (s.lane c.wk l).unplaced)
      ∧ (∀ l ∈ c.active, (t.lane c.wk l).rest = (s.lane c.wk l).rest
          ∧ (∀ n, code ≠ n + 0x10 ∨ 0x40 ≤ code ∨ (r l).val = none → (t.lane c.wk l).getG n = (s.lane c.wk l).getG n)
          ∧ (∀ n, (∀ p ∈ (r l).preds, p.1 ≠ n) → (t.lane c.wk l).getP n = (s.lane c.wk l).getP n))
      ∧ (∀ fk, { t.frame fk with regs := [], ptags := [] } = { s.frame fk with regs := [], ptags := [] })
      ∧ (∀ fk n l, l < 32 → (l ∈ c.active → (s.lane c.wk l).frame = fk → (r l).val ≠ none → n ∉ dstRegs d.1 d.2.1) →
          (t.frame fk).reg n l = (s.frame fk).reg n l)
      ∧ (∀ fk n l, l < 32 → (l ∈ c.active → (s.lane c.wk l).frame = fk → (r l).val ≠ none →
            ∀ m ∈ dstRegs d.1 d.2.1, m / 2 ≠ n / 2) → (t.frame fk).ptag n l = (s.frame fk).ptag n l)

/-- R125: a word whose guard is false in every lane of its bundle, once it passes the checks of R124, does nothing but move the
bundle on: the next instruction of the same clause is the bundle's next, and lanes, frames, teams, memory and counters are as
before; after the last instruction of the clause the bundle closes. -/
def Obligations.GuardFalseEverywhere : Prop :=
  ∀ (s : State) (i : Instr) (wk path : Nat) (b : Bundle) (g : Sig), s.cur = some (wk, path) →
    (s.warp wk).path path = some b → sigOf i = some g → encodingFault s wk b i g = none →
    (∀ l ∈ lanesOf b.lanes, guardOn s wk l g.fs.guard = false) →
    exec i s = .next (advance s wk path b).wake
      ∧ (b.lanes ≠ 0 → b.idx + 1 < b.words.length →
          let t := (advance s wk path b).wake
          t.world = { s.world with epoch := s.epoch + 1 } ∧ t.lanes = s.lanes ∧ t.frames = s.frames ∧ t.teams = s.teams
            ∧ (t.warp wk).path path = some { b with idx := b.idx + 1, outs := [], blocked := none }
            ∧ (t.warp wk).ctr = (s.warp wk).ctr)

/-- Control (R111, R112, R119, R171, R172): NOP and YIELD complete with no result; BR completes in every lane whose target is
an offset below 2^40, which is counted from its own word, and moves those lanes there when it closes its clause. Where lanes
go when a clause closes (R112): after its last instruction, a lane that a terminator transferred stands at the target's
header, every other lane of the bundle at the dword after the clause, each RUN at the first instruction. -/
def Obligations.ControlResults : Prop :=
  ((∀ f, Performs (.nop f) fun _ _ _ _ => {}) ∧ (∀ f, Performs (.yield f) fun _ _ _ _ => {})
     ∧ (∀ f (s : State) c x, Issues s (.br f) c → Reads s c x →
         let t : Int := ((c.b.hdr.off + BitVec.ofNat 40 (8 + 8 * c.b.idx)).toNat : Int) + f.off.toInt
         (0 ≤ t → t < 2 ^ 40 → exec (.br f) s = .next (Ended s (.br f) c fun _ =>
             { next := .jump ⟨c.b.hdr.obj, BitVec.ofInt 40 t⟩ }))
           ∧ (t < 0 ∨ 2 ^ 40 ≤ t → exec (.br f) s = .next (finish s (.br f) c (c.active.map fun l =>
               (l, .fault { cause := .operand, sub := 2, opv := BitVec.ofInt 64 t }))).wake)))
    ∧ (∀ (s : State) (i : Instr) (c : Ctx) (r : Nat → LaneRes), c.active.Nodup → (∀ l ∈ c.active, l ∈ lanesOf c.b.lanes) →
         (s.warp c.wk).step = false → c.b.moved = [] → c.b.words.length ≤ c.b.idx + 1 → (∀ l ∈ c.active, (r l).next ≠ .left) →
         let t := Ended s i c r
         (t.warp c.wk).path c.path = none
           ∧ ∀ l ∈ lanesOf c.b.lanes,
             let z := t.lane c.wk l
             z.cix = 0 ∧ z.st = .run ∧ z.pc = if l ∈ c.active then
                 (match (r l).next with | .jump pc => pc | _ => c.b.hdr.add (8 + 8 * c.b.words.length))
               else c.b.hdr.add (8 + 8 * c.b.words.length))

/-! ### Traps -/

/-- Encoding faults (R113, R124, R369): a word that fails a check of R124 raises ILLEGAL with that check's sub-cause in every lane of
its bundle, whatever its guard, and the bundle is left. -/
def Obligations.EncodingFaultTraps : Prop :=
  ∀ (s : State) (i : Instr) (wk path : Nat) (b : Bundle) (g : Sig) (sub : Byte), s.cur = some (wk, path) →
    (s.warp wk).path path = some b → sigOf i = some g → encodingFault s wk b i g = some sub →
    exec i s = .next ((faultLanes s wk ⟨b.hdr, b.idx, g.opc, b.hdr, b.idx⟩
      ((lanesOf b.lanes).map fun l => (l, { cause := .illegal, sub := sub })) false).modWarp wk fun w =>
        w.setPath path none).wake

/-- Taking a trap (R367–R374): with V 0 and no lane in a handler, the lanes that fault with the cause and sub-cause of the
lowest one are trapped: the record is valid and names cause, sub-cause, opcode, lanes, header and position; each of them
resumes at the instruction; MEMORY, FRAME and REMOTE park the warp, every other cause enters the handler at 256 times its
number past HBASE with queue, registers, predicates, flags and frame kept. The other faulting lanes wait, PARKED at the
instruction; other lanes and memory are untouched. Nested traps and waiting lanes (R370, R372): a lane that faults in a
handler parks the warp with NEST, and the rest of the record stands; a lane that faults outside one while V is 1 waits at its
instruction, and nothing is recorded for it. -/
def Obligations.TrapEntry : Prop :=
  (∀ (s : State) (wk : Nat) (t : TrapAt) (l0 : Nat) (f0 : LaneFault) (fs : List (Nat × LaneFault)),
     ((l0, f0) :: fs).Pairwise (fun a b => a.1 < b.1) → (∀ e ∈ (l0, f0) :: fs, e.1 < 32 ∧ (s.lane wk e.1).h = false) →
     (s.warp wk).trec.v = false →
     let z := faultLanes s wk t ((l0, f0) :: fs) false
     let same := ((l0, f0) :: fs).filter fun e => e.2.cause == f0.cause && e.2.sub == f0.sub
     let r := (z.warp wk).trec
     r.v = true ∧ r.async = false ∧ r.nest = false ∧ r.pk = false ∧ r.cause = BitVec.ofNat 4 f0.cause.num ∧ r.sub = f0.sub
       ∧ r.opc = t.opc ∧ r.lmask = maskOf (same.map (·.1)) ∧ r.hdr = t.hdr.obj ++ t.hdr.off ∧ r.idx = BitVec.ofNat 4 t.idx
       ∧ r.fid = BitVec.ofNat 9 (s.frameOf wk l0).fid
       ∧ (z.warp wk).ctr = (s.warp wk).ctr ∧ z.hbm = s.hbm
       ∧ (∀ e ∈ same, let a := s.lane wk e.1
           let b := z.lane wk e.1
           b.rpc = t.resume ∧ b.rix = BitVec.ofNat 4 t.rix ∧ b.q = a.q ∧ b.g = a.g ∧ b.p = a.p ∧ b.flags = a.flags
             ∧ b.frame = a.frame
             ∧ (f0.cause.parks = true → b.st = .parked false ∧ b.h = false ∧ (z.warp wk).parking = true)
             ∧ (f0.cause.parks = false → b.st = .run ∧ b.h = true ∧ b.pv = false ∧ b.cix = 0
                 ∧ b.pc = (pcOf (s.warp wk).hbase).add (256 * f0.cause.num)))
       ∧ (∀ e ∈ (l0, f0) :: fs, e ∉ same →
           (z.lane wk e.1).st = .parked true ∧ (z.lane wk e.1).pc = t.hdr ∧ (z.lane wk e.1).cix = t.idx)
       ∧ (∀ k l, l < 32 → k ≠ wk ∨ l ∉ ((l0, f0) :: fs).map (·.1) → z.lane k l = s.lane k l))
    ∧ (∀ (s : State) (wk : Nat) (t : TrapAt) (l : Nat) (f : LaneFault), l < 32 →
         let z := faultLanes s wk t [(l, f)] false
         let r := (s.warp wk).trec
         ((s.lane wk l).h = true → (z.warp wk).parking = true ∧ (z.lane wk l).st = .parked false
             ∧ (z.warp wk).trec = { r with nest := true, ncause := BitVec.ofNat 4 f.cause.num, nsub := f.sub
                                           nidx := BitVec.ofNat 4 t.idx, nhdr := t.hdr.obj ++ t.hdr.off })
           ∧ ((s.lane wk l).h = false → r.v = true →
               z.lane wk l = { s.lane wk l with pc := t.hdr, cix := t.idx, st := .parked true } ∧ z.warps = s.warps
                 ∧ z.world = s.world))

/-- TRAP, PARK and TFENCE (R374, R377, R378, R380): TRAP raises SOFTWARE with its code in every active lane and PARK does the
same with PK and parks the warp, each to resume at the clause after its own; TFENCE raises ARITH with the flags of a lane that
the team enables, in the lanes that have one, and completes where none has. A TRAP code of 0 and any other field set fail the
checks. RFT (R374, R379): every active lane in a handler leaves it; with its bit of the mask set it resumes where its RPC and
RIX say, otherwise it exits; then V ends and the waiting lanes run again if no lane of the warp is left in a handler or
trapped and parked. An active lane outside a handler takes OPERAND, NOTRAP. Poison (R124, R381, R387): CLRPSN in a bundle with
a lane whose PV is 0 raises ILLEGAL, PRIV; in one whose lanes all have PV it completes when every lane's line, checked for a
write and aligned to 128 bytes, is cleared in its turn. -/
def Obligations.TrapInstructions : Prop :=
  ((∀ f (s : State) c x, Issues s (.trap f) c → Reads s c x → exec (.trap f) s =
       let b := { c.b with moved := c.b.moved ++ c.active.map fun l => (l, .left) }
       .next (advance (faultLanes s c.wk ⟨c.b.hdr, c.b.idx, c.g.opc, c.b.hdr.add (8 + 8 * c.b.words.length), 0⟩
         (c.active.map fun l => (l, { cause := .software, sub := f.md.extractLsb' 0 8 })) false) c.wk c.path b).wake)
     ∧ (∀ f (s : State) c x, Issues s (.park f) c → Reads s c x → exec (.park f) s =
       let b := { c.b with moved := c.b.moved ++ c.active.map fun l => (l, .left) }
       .next (advance (faultLanes s c.wk ⟨c.b.hdr, c.b.idx, c.g.opc, c.b.hdr.add (8 + 8 * c.b.words.length), 0⟩
         (c.active.map fun l => (l, { cause := .software, sub := f.md.extractLsb' 0 8 })) true) c.wk c.path b).wake)
     ∧ (∀ f (s : State) c x, Issues s (.tfence f) c → Reads s c x → exec (.tfence f) s = .next (finish s (.tfence f) c (c.active.map fun l =>
         let m := (s.lane c.wk l).flags &&& (s.team (s.warp c.wk).team).tmask
         (l, if m = 0 then .ok {} else .fault { cause := .arith, sub := m.zeroExtend 8 }))).wake)
     ∧ (∀ f (s : State) c x, Issues s (.tfence f) c → Reads s c x →
         (∀ l ∈ c.active, (s.lane c.wk l).flags &&& (s.team (s.warp c.wk).team).tmask = 0) →
         exec (.tfence f) s = .next (Ended s (.tfence f) c fun _ => {}))
     ∧ (∀ f : BaseF, f.md.extractLsb' 0 8 = 0 → staticCheck (.trap f) = some 5)
     ∧ (∀ f : BaseF, f.d ≠ 0 ∨ f.a ≠ 0 ∨ f.b ≠ 0 ∨ f.c ≠ 0 ∨ f.nq = true →
         staticCheck (.trap f) = some 5 ∧ staticCheck (.park f) = some 5 ∧ staticCheck (.tfence f) = some 5)
     ∧ (∀ f : BaseF, f.md ≠ 0 → staticCheck (.tfence f) = some 5))
    ∧ ((∀ f s c m, Issues s (.rft f) c → read32 s c.wk (c.active.headD 0) c.g.fs.a c.g.fs.btA = .ok m →
           (∀ l ∈ c.active, (s.lane c.wk l).h = true) →
           exec (.rft f) s =
             let back (st : State) (l : Nat) : State :=
               let s1 := st.modLane c.wk l fun ln => { ln with h := false, pv := false }
               if m.bits.getLsbD l then s1.modLane c.wk l fun ln => { ln with pc := ln.rpc, cix := ln.rix.toNat, st := .run }
               else exitLane s1 c.wk l
             let s2 := c.active.foldl back s
             .next (Ended (settleBarrier (settleV s2 c.wk) (s.warp c.wk).team) (.rft f) c fun _ => { next := .left }))
         ∧ (∀ f s c m, Issues s (.rft f) c → read32 s c.wk (c.active.headD 0) c.g.fs.a c.g.fs.btA = .ok m →
           (∀ l ∈ c.active, (s.lane c.wk l).h = false) →
           exec (.rft f) s = .next (finish (settleBarrier (settleV s c.wk) (s.warp c.wk).team) (.rft f) c
             (c.active.map fun l => (l, .fault { cause := .operand, sub := 0x11 }))).wake)
         ∧ (∀ (s : State) wk, (s.warp wk).trec.v = true →
             (∀ l < 32, (s.lane wk l).h = false ∧ ¬ ((s.warp wk).trec.lmask.getLsbD l = true ∧ (s.lane wk l).st = .parked false)) →
             ((settleV s wk).warp wk).trec.v = false
               ∧ ∀ l < 32, (s.lane wk l).st = .parked true → ((settleV s wk).lane wk l).st = .run)
         ∧ (∀ (s : State) wk l, l < 32 → (s.lane wk l).h = true → settleV s wk = s))
    ∧ ((∀ (s : State) wk b f g, (∃ l ∈ lanesOf b.lanes, (s.lane wk l).pv = false) → encodingFault s wk b (.clrpsn f) g = some 4)
         ∧ (∀ f (s : State) c x σ, Issues s (.clrpsn f) c → Reads s c x →
           (Turns c s σ fun l a b =>
             let ref := (x l).av
             ((ref.bits.extractLsb' 0 40).toNat % 128 = 0)
               ∧ ∃ a1, laneAccess a c.wk l ref (ref.bits.extractLsb' 0 40).toNat 128 [rW] 0 7 (fun st _ _ => .ok st ()) = (a1, some (.ok ()))
                 ∧ laneAccess a1 c.wk l ref (ref.bits.extractLsb' 0 40).toNat 128 [rW] 0 9 clrpAct = (b, some (.ok ()))) →
           exec (.clrpsn f) s = .next (Ended (σ c.active.length) (.clrpsn f) c fun _ => {}))
         ∧ (∀ (s : State) h line, line / 2 ^ 33 = s.pkg.agent → s.pkg.agent < 2000 → s.dir (line % 2 ^ 33) = 3 →
             clrpLine s h line = .ok (s.setDir (line % 2 ^ 33) 0) ()))

/-- SRD and SWR (R375, R376): SRD gives each active lane the register's value, SWR writes in ascending lane order so that the
highest lane's value stands; RPC, RIX and the trap record are open to lanes in a handler only, to others both raise OPERAND, NOTRAP;
OCBASE and WORLD are written by no warp: SWR of them raises ILLEGAL, PRIV; in a lane whose resume PC is no multiple of 8 SWR raises
OPERAND, TARGET with the value. What control registers hold (R115, R154, R248, R260, R361, R371,
R375): reads of FLAGS, TMASK, HBASE, RPC, RIX and the header of the trap record; a write of FLAGS clears the bits written as
1; TMASK, HBASE, RPC and RIX read back as they were written; TOUT is kept from 10 to 1,000,000 microseconds; registers that
are read-only stay. -/
def Obligations.ControlRegisters : Prop :=
  ((∀ f (s : State) c x, Issues s (.srd f) c → Reads s c x →
       (handlerOnly (bits f.md 7 0) = true → ∀ l ∈ c.active, (s.lane c.wk l).h = true) →
       exec (.srd f) s = .next (Ended s (.srd f) c fun l => .value (Val.int (crnRead s c.wk l (bits f.md 7 0)))))
     ∧ (∀ f (s : State) c x, Issues s (.srd f) c → Reads s c x → handlerOnly (bits f.md 7 0) = true →
       (∀ l ∈ c.active, (s.lane c.wk l).h = false) →
       exec (.srd f) s = .next (finish s (.srd f) c (c.active.map fun l => (l, .fault { cause := .operand, sub := 0x11 }))).wake)
     ∧ (∀ f (s : State) c x, Issues s (.swr f) c → Reads s c x →
       (handlerOnly (bits f.md 7 0) = true → ∀ l ∈ c.active, (s.lane c.wk l).h = true) →
       (bits f.md 7 0 = 3 → ∀ l ∈ c.active, (x l).av.bits.extractLsb' 0 3 = 0) →
       exec (.swr f) s = .next (Ended (c.active.foldl (fun st l => crnWrite st c.wk l (bits f.md 7 0) (x l).av.bits) s)
         (.swr f) c fun _ => {}))
     ∧ (∀ f (s : State) c x, Issues s (.swr f) c → Reads s c x → handlerOnly (bits f.md 7 0) = true →
       (∀ l ∈ c.active, (s.lane c.wk l).h = false) →
       exec (.swr f) s = .next (finish s (.swr f) c (c.active.map fun l => (l, .fault { cause := .operand, sub := 0x11 }))).wake)
     ∧ (∀ f (s : State) c x, Issues s (.swr f) c → Reads s c x → bits f.md 7 0 = 3 → (∀ l ∈ c.active, (s.lane c.wk l).h = true) →
       (∀ l ∈ c.active, (x l).av.bits.extractLsb' 0 3 ≠ 0) →
       exec (.swr f) s = .next (finish s (.swr f) c (c.active.map fun l =>
         (l, .fault { cause := .operand, sub := 0x02, opv := (x l).av.bits }))).wake)
     ∧ (∀ (s : State) wk b f g, bits f.md 7 0 = 0x30 ∨ bits f.md 7 0 = 0x31 → encodingFault s wk b (.swr f) g = some 4))
    ∧ (∀ (s : State) (wk l : Nat) (v : Word), l < 32 →
         let w (n : Nat) := crnWrite s wk l n v
         crnRead s wk l 0x00 = (s.lane wk l).flags.zeroExtend 64
           ∧ ((w 0x00).lane wk l).flags = (s.lane wk l).flags &&& ~~~(v.extractLsb' 0 7)
           ∧ crnRead (w 0x01) wk l 0x01 = (v.extractLsb' 0 7).zeroExtend 64
           ∧ crnRead (w 0x02) wk l 0x02 = v ∧ crnRead (w 0x03) wk l 0x03 = v
           ∧ crnRead (w 0x04) wk l 0x04 = (v.extractLsb' 0 4).zeroExtend 64
           ∧ (crnRead s wk l 0x08).getLsbD 63 = (s.warp wk).trec.v ∧ crnRead s wk l 0x09 = (s.warp wk).trec.hdr
           ∧ 10 ≤ (crnRead (w 0x25) wk l 0x25).toNat ∧ (crnRead (w 0x25) wk l 0x25).toNat ≤ 1000000
           ∧ (∀ n, (8 ≤ n ∧ n ≤ 0x11) ∨ n = 0x26 ∨ n = 0x30 ∨ n = 0x31 → w n = s)
           ∧ (∀ n, (w n).hbm = s.hbm ∧ (w n).frames = s.frames ∧ (w n).pkg = s.pkg
               ∧ ∀ k m, m < 32 → k ≠ wk ∨ m ≠ l → (w n).lane k m = s.lane k m))

/-! ### Memory -/

/-- The checks of R25 in their order on a cached entry that is no view, which becomes the most recently used (R20–R25, R28, R222): NULL, UNTAGGED, WORLD, visibility,
RIGHTS, BOUNDS, ALIGN, each with its cause and sub-cause when the checks before it pass; an access that passes all goes to the
byte of the object's memory that its offset names, and is performed. Rights and visibility (R20, R21): RS and RL count for
nothing when NOREF is 1; a private object is open to its owning team alone, a package object to teams of its package, a cell
object to those of its cell, a system object to all. -/
def Obligations.AccessChecks : Prop :=
  ((∀ (s : State) core realm p tag off size rights align, checkRef s core realm p 0 tag off size rights align 9 = .ok s (.fault .memory 1))
     ∧ (∀ (s : State) core realm p obj off size rights align, obj ≠ 0 →
         checkRef s core realm p obj false off size rights align 9 = .ok s (.fault .memory 2))
     ∧ (∀ (s : State) core p (e : OcEntry) off size rights align, e.wld = true → p.wld = false →
         checkPair s core p e e off size rights align 9 = .ok s (.fault .memory 4))
     ∧ (∀ (s : State) core p (e : OcEntry) off size rights align sub, (e.wld = true → p.wld = true) → visFault s p e = some sub →
         checkPair s core p e e off size rights align 9 = .ok s (.fault .escape sub))
     ∧ (∀ (s : State) core p (e : OcEntry) off size rights align, (e.wld = true → p.wld = true) → visFault s p e = none →
         ((∃ r ∈ rights, e.has r = false) → checkPair s core p e e off size rights align 9 = .ok s (.fault .memory 5))
           ∧ ((∀ r ∈ rights, e.has r = true) → off < 0 ∨ (e.len : Int) < off + size →
               checkPair s core p e e off size rights align 9 = .ok s (.fault .memory 6))
           ∧ (e.view = false → (∀ r ∈ rights, e.has r = true) → 0 ≤ off → off + size ≤ e.len → align ≠ 0 →
               off.toNat % align ≠ 0 → checkPair s core p e e off size rights align 9 = .ok s (.fault .memory 8)))
     ∧ (∀ (s : State) wk l ref off size rights align p, Allowed s wk l ref off size rights align p →
         checkRef s (wkCore wk) (s.teamOf wk).realm (s.teamOf wk).party (objOf ref.bits) ref.tag off size rights align 9
           = .ok (s.useEntry (wkCore wk) p.ent) (.ok p))
     ∧ (∀ (a b : State) wk l ref off size rights align last (act : State → Who → Place → Acc (Tried Unit)),
         Acts a b wk l ref off size rights align last act () →
           laneTry a wk l ref off size rights align last act = (b, some (.ok ()))))
    ∧ (∀ (s : State) (t : OcEntry) (h : BitVec 32) (w : Bool),
         (t.noref = true → t.has rRS = false ∧ t.has rRL = false)
           ∧ (∀ r, r ≠ rRS → r ≠ rRL → t.has r = (t.dws.getD 0 0).getLsbD r)
           ∧ (t.vis = 0 → visFault s ⟨w, some h⟩ t = if (t.dw 1).extractLsb' 32 32 = h then none else some 1)
           ∧ (t.vis = 1 → visFault s ⟨w, some h⟩ t = if ((t.dw 1).extractLsb' 32 11).toNat = s.pkg.agent then none else some 2)
           ∧ (t.vis = 2 → visFault s ⟨w, some h⟩ t = if ((t.dw 1).extractLsb' 32 11).toNat = s.ownCell then none else some 2)
           ∧ (t.vis = 3 → visFault s ⟨w, some h⟩ t = none))

/-- Reads and writes of a line that stands in L1 (R14, R32, R216–R219, R226, R290): a read gives the line's bytes and, for eight
bytes, the word's tag; a write changes those bytes of that line, gives each word it touches its tag, and marks them dirty; the home
notes a tag that is set; nothing else changes. A read-modify-write of a private line is both at once. -/
def Obligations.CachedLineAccess : Prop :=
  ∀ (s : State) (wk l : Nat) (k : Key) (addr n : Nat) (e : L1Line), Hits s wk l k addr n e →
    let h := whoLane s wk l
    let o := addr % 128
    settleOwn s wk l addr n = (s, true)
      ∧ l1Read s h k addr n = .ok s ((e.data.bytes.drop o).take n)
      ∧ (n = 8 → addr % 8 = 0 → l1Get s h k addr n = .ok s ((e.data.bytes.drop o).take 8, e.data.tags.getLsbD (o / 8)))
      ∧ (n ≠ 8 → l1Get s h k addr n = .ok s ((e.data.bytes.drop o).take n, false))
      ∧ (∀ bs tag, bs.length = n → l1Write s h k addr bs tag = .ok ((s.l1Set (wkCore wk) (lineStored e o bs tag)).markTag (addr / 128) tag) ())
      ∧ (∀ upd : List Byte → Word × Option (List Byte), let r := upd ((e.data.bytes.drop o).take n)
          rmw s h k addr n upd =
            .ok (s.l1Set (wkCore wk) (match r.2 with | some w => lineStored e o w false | none => e)) r.1)

/-- The frame of a store into L1 (R12, R32, R218): of the line it writes, the bytes it covers become the bytes stored and every other
byte stays; every word it touches takes the tag given and every other keeps its own; format and scale stay; other lines of the L1, every
byte and every tag of memory, and every part of the machine but that core stay; the home's LTP and PTP of the line become 1 where a
tag is set, and no others change. -/
def Obligations.StoreFrame : Prop :=
  ∀ (s : State) (wk l : Nat) (k : Key) (addr : Nat) (bs : List Byte) (tag : Bool) (e : L1Line),
    Hits s wk l k addr bs.length e → e.data.bytes.length = 128 → (s.core (wkCore wk)).l1.Nodup →
    (∀ x ∈ (s.core (wkCore wk)).l1, isL1 k (addr / 128) x = true → x = e) →
    ∃ t z, l1Write s (whoLane s wk l) k addr bs tag = .ok t () ∧ t.l1Find (wkCore wk) k (addr / 128) = some z
      ∧ (∀ i < 128, z.data.bytes.getD i 0 =
          if addr % 128 ≤ i ∧ i < addr % 128 + bs.length then bs.getD (i - addr % 128) 0 else e.data.bytes.getD i 0)
      ∧ (∀ w < 16, z.data.tags.getLsbD w =
          if addr % 128 / 8 ≤ w ∧ w ≤ (addr % 128 + bs.length - 1) / 8 then tag else e.data.tags.getLsbD w)
      ∧ z.data.fmt = e.data.fmt ∧ z.data.scale = e.data.scale
      ∧ (∀ x ∈ (s.core (wkCore wk)).l1, x ≠ e → x ∈ (t.core (wkCore wk)).l1)
      ∧ (∀ a, t.hbm.byte a = s.hbm.byte a) ∧ t.hbm.tags = s.hbm.tags
      ∧ t.hbm = (if tag then s.hbm.markTag (addr / 128 % 2 ^ 33) else s.hbm)
      ∧ { t with cores := [], hbm := s.hbm } = { s with cores := [] }
      ∧ (∀ c, c ≠ wkCore wk → t.core c = s.core c)

/-- Loads and stores (R220–R232): LD without acquire and FLD mark their registers EMPTY and start a deferred read at the place
that the checks give, where no register of theirs is still EMPTY and the read is not beyond the limit of R229; an acquiring LD
completes with its data in FULL registers; ST completes once its store is performed; PREF completes once each lane whose operands can
be read has made its prefetch. Each access is of 1 to 16 bytes (FLD: 8) at base + index · 2^scale + immediate · size, aligned
to its size. Deferred results (R12, R142–R144, R148, R223): a deferred load empties its registers; when its line can be read, and no
earlier load of its bytes by its lane is still to be performed, they become FULL with the bytes loaded, zero-extended or sign-extended
to 32 bits, their pairs' tags 0; a failed one leaves a note of REMOTE and its sub-cause in registers that become FAULTED; a cancelled one
changes no register. -/
def Obligations.LoadStoreResults : Prop :=
  (let off (f : MemF) (x : Srcs) (n : Nat) : Int :=
     ((x.av.bits.extractLsb' 0 40).toNat : Int) + x.bv.bits.toInt * 2 ^ f.sc.toNat + f.imm.toInt * n
   let start (f : MemF) (c : Ctx) (l : Nat) (kind : DeferKind) (n : Nat) (rights : List Nat) (x : Srcs) (a b : State) : Prop :=
     ∃ a1 p, Acts a a1 c.wk l x.av (off f x n) n rights n 9 (fun st _ p => .ok st (some (.ok p))) p
       ∧ let d : Defer := { id := a1.uid, wk := c.wk, lane := l, frame := (a1.lane c.wk l).frame, reg := f.d.toNat - 0x40
                            kind := kind, realm := p.top.realm, obj := p.top.obj, pub := p.top.vis != 0, addr := p.addr
                            base := (p.addr : Int) - p.poff, cmd := none, dead := false, undef := inSpill a1 c.wk p n }
         anyEmpty a1 c.wk l (deferRegs d) = false
           ∧ (match deferAcc d a1 with | .need k line => a1.readsFull (deferWho a1 d) k line = false | _ => True)
           ∧ b = startDefer a1 c.path d
   (∀ f (s : State) c x σ, Issues s (.ld f) c → Reads s c x → f.ord ≠ 1 →
       Turns c s σ (fun l a b => start f c l (.load (2 ^ f.sz.toNat) f.sx) (2 ^ f.sz.toNat) [rR] (x l) a b) →
       exec (.ld f) s = .next (Ended (σ c.active.length) (.ld f) c fun _ => {}))
     ∧ (∀ f (s : State) c x σ (v : Nat → List Byte × Bool), Issues s (.ld f) c → Reads s c x → f.ord = 1 →
       let n := 2 ^ f.sz.toNat
       Turns c s σ (fun l a b => Acts a b c.wk l (x l).av (off f (x l) n) n [rR] n 9 (fun st h p =>
         if anyEmpty st c.wk l (regRange (f.d.toNat - 0x40) (max 1 (n / 4))) then .ok st none
         else readAct c.wk l n true f.scope.toNat st h p) (v l)) →
       exec (.ld f) s = .next (Ended (σ c.active.length) (.ld f) c fun l =>
         { val := some (Val.int (loadVal n f.sx (v l).1)), val2 := some (Val.int (highVal (v l).1)) }))
     ∧ (∀ f (s : State) c x σ, Issues s (.fld f) c → Reads s c x →
       Turns c s σ (fun l a b => start f c l .far 8 [rR, rNC] (x l) a b) →
       exec (.fld f) s = .next (Ended (σ c.active.length) (.fld f) c fun _ => {}))
     ∧ (∀ f (s : State) c x σ, Issues s (.st f) c → Reads s c x →
       Turns c s σ (fun l a b => let n := 2 ^ f.sz.toNat
         Acts a b c.wk l (x l).av (off f (x l) n) n [rW] n 9
           (storeAct c.wk l f.scope.toNat (f.ord == 2) (storeBytes n (x l).d) false) ()) →
       exec (.st f) s = .next (Ended (σ c.active.length) (.st f) c fun _ => {}))
     ∧ (∀ f s c (xs : List (Nat × Except LaneFault Srcs)) (σ : Nat → State), Issues s (.pref f) c → readLanes s c c.active = .ok xs → σ 0 = s →
       (∀ k (e : Nat × Except LaneFault Srcs), xs[k]? = some e → match e.2 with
         | .ok x => prefetchLane f (σ k) c e.1 x = some (σ (k + 1))
         | .error _ => σ (k + 1) = σ k) →
       exec (.pref f) s = .next (Ended (σ xs.length) (.pref f) c fun _ => {})))
    ∧ ((∀ (s : State) fk l rs, l < 32 → ∀ n, ((emptyRegs s fk l rs).frame fk).reg n l =
           if n ∈ rs then ⟨0, .empty⟩ else (s.frame fk).reg n l)
         ∧ (∀ (s : State) fk l n v, l < 32 → ((fillRegs s fk l [n] v 0).frame fk).reg n l = ⟨v.extractLsb' 0 32, .full⟩
             ∧ ((fillRegs s fk l [n] v 0).frame fk).ptag n l = false)
         ∧ (∀ (s : State) fk l n v v2, l < 32 → let t := (fillRegs s fk l [n, n + 1, n + 2, n + 3] v v2).frame fk
             t.reg n l = ⟨v.extractLsb' 0 32, .full⟩ ∧ t.reg (n + 1) l = ⟨v.extractLsb' 32 32, .full⟩
               ∧ t.reg (n + 2) l = ⟨v2.extractLsb' 0 32, .full⟩ ∧ t.reg (n + 3) l = ⟨v2.extractLsb' 32 32, .full⟩)
         ∧ (∀ (s : State) fk l rs c sub, l < 32 → ∀ n ∈ rs,
             ((noteRegs s fk l rs c sub).frame fk).reg n l = ⟨faultNote c sub, .faulted⟩)
         ∧ (∀ b, loadVal 1 false [b] = b.zeroExtend 64 ∧ loadVal 1 true [b] = (b.signExtend 32).zeroExtend 64)
         ∧ (∀ b0 b1, loadVal 2 true [b0, b1] = ((b1 ++ b0 : BitVec 16).signExtend 32).zeroExtend 64)
         ∧ (∀ (s : State) d, s.defers.find? (fun x => x.id == d.id && !x.isHost) = some d →
             (d.dead = true → exec (.deferredResponse d.id) s = .next (dropDefer s d).wake)
               ∧ (d.dead = false → readAhead s d = false →
                 (∀ x, s.fails.find? (fun f => f.who == .defer d.id) = some x →
                     exec (.deferredResponse d.id) s = .next (endDefer (s.unwait (.defer d.id)) d (.error x.why)).wake)
                   ∧ (s.fails.find? (fun f => f.who == .defer d.id) = none → ∀ s1 v, deferAcc d s = .ok s1 v →
                     exec (.deferredResponse d.id) s = .next (endDefer (s1.unwait (.defer d.id)) d (.ok v)).wake)))
         ∧ (∀ (s : State) d v, d.dead = false → d.undef = false →
             endDefer s d (.ok v) = dropDefer (landRegs s d v.1 v.2) d)
         ∧ (∀ (s : State) d v v2, (landRegs s d v v2).frames = (fillRegs s d.frame d.lane (deferRegs d) v v2).frames)
         ∧ (∀ (s : State) d e, d.dead = false →
             endDefer s d (.error e) = dropDefer (noteRegs s d.frame d.lane (deferRegs d) .remote e.sub) d)
         ∧ (∀ (s : State) d r, d.dead = true → endDefer s d r = dropDefer s d))

/-- Scratchpad (R189, R192, R216, R231): SPLD gives the bytes at its offset, SPST writes them, BMRD gives FMT and SCALE of a
block and BMWR writes them, each inside SCRK · 1,024 bytes at a multiple of its size; the lanes of a writer act in ascending
order. The frame of a scratchpad store (R12, R216, R231): bytes outside those stored, and the tags of words outside those
touched, read as before; the bytes stored read back, and the tags of the words touched are 0; FMT and SCALE stay. -/
def Obligations.ScratchResults : Prop :=
  (let off (f : MemF) (x : Srcs) : Int := ((x.av.bits.extractLsb' 0 32).toNat : Int) + x.bv.bits.toInt * 2 ^ f.sc.toNat
     + f.imm.toInt * (2 ^ f.sz.toNat : Nat)
   let fits (s : State) (c : Ctx) (o : Int) (n : Nat) : Prop :=
     0 ≤ o ∧ o + n ≤ ((s.team (s.warp c.wk).team).scrk * 1024 : Nat) ∧ o % n = 0
   (∀ f (s : State) c x, Issues s (.spld f) c → Reads s c x → (∀ l ∈ c.active, fits s c (off f (x l)) (2 ^ f.sz.toNat)) →
       exec (.spld f) s = .next (Ended s (.spld f) c fun l =>
         let b := (s.team (s.warp c.wk).team).spRead (off f (x l)).toNat (2 ^ f.sz.toNat)
         { val := some (Val.int (loadVal (2 ^ f.sz.toNat) f.sx b))
           val2 := if 2 ^ f.sz.toNat = 16 then some (Val.int (highVal b)) else none }))
     ∧ (∀ f (s : State) c x, Issues s (.spst f) c → Reads s c x → (∀ l ∈ c.active, fits s c (off f (x l)) (2 ^ f.sz.toNat)) →
       exec (.spst f) s = .next (Ended (c.active.foldl (fun st l => st.modTeam (s.warp c.wk).team fun t =>
         t.spWrite (off f (x l)).toNat (storeBytes (2 ^ f.sz.toNat) (x l).d)) s) (.spst f) c fun _ => {}))
     ∧ (∀ f (s : State) c x, Issues s (.bmrd f) c → Reads s c x →
       (∀ l ∈ c.active, fits s c ((x l).av.bits.extractLsb' 0 32).toNat 64) →
       exec (.bmrd f) s = .next (Ended s (.bmrd f) c fun l =>
         let m := (s.team (s.warp c.wk).team).spMeta (((x l).av.bits.extractLsb' 0 32).toNat / 64)
         .value (Val.int (BitVec.ofNat 64 (m.1.toNat * 256 + m.2.toNat)))))
     ∧ (∀ f (s : State) c x, Issues s (.bmwr f) c → Reads s c x →
       (∀ l ∈ c.active, fits s c ((x l).av.bits.extractLsb' 0 32).toNat 64) →
       exec (.bmwr f) s = .next (Ended (c.active.foldl (fun st l => st.modTeam (s.warp c.wk).team fun t =>
         t.spSetMeta (((x l).av.bits.extractLsb' 0 32).toNat / 64) ((x l).bv.bits.extractLsb' 8 8, (x l).bv.bits.extractLsb' 0 8)) s)
         (.bmwr f) c fun _ => {})))
    ∧ (∀ (t : Team) (o : Nat) (bs : List Byte), bs ≠ [] →
         let z := t.spWrite o bs
         (∀ a, z.spByte a = if o ≤ a ∧ a < o + bs.length then bs.getD (a - o) 0 else t.spByte a)
           ∧ (∀ w, z.spTag w = if o / 8 ≤ w ∧ w ≤ (o + bs.length - 1) / 8 then false else t.spTag w)
           ∧ (∀ b, z.spMeta b = t.spMeta b) ∧ z.spSize = t.spSize)

/-- Blocks and rings (R57–R60, R189–R195): QNT writes its block, gives SCALE in every active lane and, without FIX, records the maximum of
its elements; DQNT gives each lane the elements of its place; AMXRD, AMXPSH, AMXCMT and AMXCLR act on the ring that A names,
which no SQCP holds or waits for, as one action. The block's offset is that of the lowest-numbered active lane. The model's choice: AMXPSH of
a signalling NaN raises no flag (log 78), and the actions of a ring come in the order
of their issue (log 93). -/
def Obligations.BlockResults : Prop :=
  let free (s : State) (c : Ctx) (n : Byte) : Prop := s.ringBusy (wkCore c.wk) (n.toNat % 64) = false
  let block (s : State) (c : Ctx) (o : Nat) : Prop :=
    (∃ v, read32 s c.wk (c.active.headD 0) c.g.fs.a c.g.fs.btA = .ok v ∧ (v.bits.extractLsb' 0 32).toNat = o)
      ∧ o % 64 = 0 ∧ o + 64 ≤ (s.team (s.warp c.wk).team).scrk * 1024
  let onlyB (s : State) (c : Ctx) (x : Nat → Srcs) : Prop :=
    ∀ l ∈ c.active, readAll s c.wk l { c.g with a := .none, c := .none } = .ok (x l)
  (∀ f (s : State) c x o fix, Issues s (.qnt f) c → block s c o → onlyB s c x →
      (if f.md.getLsbD 7 then ∃ v, read32 s c.wk (c.active.headD 0) c.g.fs.c c.g.fs.btC = .ok v ∧ fix = some (v.bits.toNat % 256)
       else fix = none ∧ free s c f.c) →
      exec (.qnt f) s =
        let code := bits f.md 3 0
        let rn := f.c.toNat % 64
        let scale := match fix with | some v => v | none => chooseScale code (s.ring (wkCore c.wk) rn).ringmax
        let n := if blkWidth code = 1 then 64 else 32
        let elems := (List.range n).map (qntElem code (c.active.map fun l => (l, x l)))
        let r := if fix = some 0xFF then (List.replicate 64 0, 0xFF, List.replicate n 0)
          else quantBlock code (rmOf f) (satOf f) scale elems
        let s1 := s.putBlock (s.warp c.wk).team o r.1 code r.2.1
        let s2 := if fix.isSome then s1 else s1.modRing (wkCore c.wk) rn fun a => a.record (absMax (elems.filterMap id))
        .next (Ended s2 (.qnt f) c fun l =>
          { val := some (Val.int (BitVec.ofNat 64 r.2.1))
            flags := ((List.range n).filter fun i => qntLane code i = l).foldl (fun m i => m ||| r.2.2.getD i 0) 0 }))
    ∧ (∀ f (s : State) c x o, Issues s (.dqnt f) c → block s c o → onlyB s c x →
      exec (.dqnt f) s =
        let t := s.team (s.warp c.wk).team
        let m := t.spMeta (o / 64)
        let code := if m.1 = 0 then bits f.md 3 0 else m.1.toNat
        let w := if clsBlk code then blkWidth code else 1
        let el (i : Nat) : Nat × BitVec 7 := dqntElem f m ((blkElems w (t.spRead o 64)).getD i 0)
        .next (Ended s (.dqnt f) c fun l =>
          let lo := if w = 1 then el (2 * l) else el l
          let hi := if w = 1 then el (2 * l + 1) else (0, 0)
          { val := some (Val.int (BitVec.ofNat 64 (lo.1 + hi.1 * 2 ^ 32))), flags := lo.2 ||| hi.2 }))
    ∧ (∀ f (s : State) c x, Issues s (.amxrd f) c → Reads s c x → free s c f.a → exec (.amxrd f) s =
        .next (Ended s (.amxrd f) c fun _ =>
          .value (Val.int (((s.ring (wkCore c.wk) (f.a.toNat % 64)).item (bits f.md 4 0)).zeroExtend 64))))
    ∧ (∀ f (s : State) c x, Issues s (.amxpsh f) c → Reads s c x → free s c f.a → exec (.amxpsh f) s =
        .next (Ended (s.modRing (wkCore c.wk) (f.a.toNat % 64) fun a =>
          a.record (absMax (c.active.map fun l => encIn fFP32 f.b (x l).bv))) (.amxpsh f) c fun _ => {}))
    ∧ (∀ f s c, Issues s (.amxcmt f) c → free s c f.a → exec (.amxcmt f) s =
        .next (Ended (s.modRing (wkCore c.wk) (f.a.toNat % 64) Amax.commit) (.amxcmt f) c fun _ => {}))
    ∧ (∀ f s c, Issues s (.amxclr f) c → free s c f.a → exec (.amxclr f) s =
        .next (Ended (s.modRing (wkCore c.wk) (f.a.toNat % 64) fun _ => Amax.reset) (.amxclr f) c fun _ => {}))

/-- R59: AMXCMT commits a ring's pending maximum: if PV is 1, SLOT[HEAD] becomes PEND, HEAD the next slot modulo 16 and CNT one more, up
to 16; PV becomes 0. A quantising instruction between two commits uses what was committed before, since recording changes
neither the slots nor CNT, and the ring of another number or core stays. -/
def Obligations.AmaxCommit : Prop :=
  (∀ f s c, Issues s (.amxcmt f) c → s.ringBusy (wkCore c.wk) (f.a.toNat % 64) = false → exec (.amxcmt f) s =
      .next (Ended (s.modRing (wkCore c.wk) (f.a.toNat % 64) Amax.commit) (.amxcmt f) c fun _ => {}))
  ∧ ∀ (s : State) (core n : Nat) (m : BitVec 32),
    let a := s.ring core n
    let z := (s.modRing core n Amax.commit).ring core n
    (a.pv = true → z.slots = a.slots.set a.head a.pend ∧ z.head = (a.head + 1) % 16 ∧ z.cnt = min (a.cnt + 1) 16)
      ∧ (a.pv = false → z = a) ∧ z.pv = false
      ∧ (a.record m).slots = a.slots ∧ (a.record m).cnt = a.cnt ∧ (a.record m).pv = true
      ∧ ((a.record m).pend = if a.pv then BitVec.ofNat 32 (max a.pend.toNat m.toNat) else m)
      ∧ (∀ c k, c ≠ core ∨ k ≠ n → (s.modRing core n Amax.commit).ring c k = s.ring c k)

/-! ### References -/

/-- R235: REFADD moves a reference inside its object: it completes with the same object and tag 1 where the new offset lies below 2^40,
raises OPERAND, UNTAGGED in a lane whose A carries no tag, and OPERAND, OFFSET in one whose offset falls outside. -/
def Obligations.ReferenceAdd : Prop :=
  let o (x : Srcs) : Int := ((x.av.bits.extractLsb' 0 40).toNat : Int) + x.bv.bits.toInt
  ∀ f s c x, Issues s (.refadd f) c → Reads s c x →
    ((∀ l ∈ c.active, (x l).av.tag = true ∧ 0 ≤ o (x l) ∧ o (x l) < 2 ^ 40) →
        exec (.refadd f) s = .next (Ended s (.refadd f) c fun l =>
          .value ⟨(x l).av.bits.extractLsb' 40 24 ++ BitVec.ofInt 40 (o (x l)), true⟩))
      ∧ (∃ r : Nat → LaneOut, exec (.refadd f) s = .next (finish s (.refadd f) c (c.active.map fun l => (l, r l))).wake
        ∧ ∀ l ∈ c.active,
          ((x l).av.tag = false → r l = .fault { cause := .operand, sub := 7, opv := (x l).av.bits })
          ∧ ((x l).av.tag = true → o (x l) < 0 ∨ 2 ^ 40 ≤ o (x l) →
              r l = .fault { cause := .operand, sub := 8, opv := BitVec.ofInt 64 (o (x l)) })
          ∧ ((x l).av.tag = true → 0 ≤ o (x l) → o (x l) < 2 ^ 40 →
              r l = .ok { val := some ⟨(x l).av.bits.extractLsb' 40 24 ++ BitVec.ofInt 40 (o (x l)), true⟩ }))

/-- Reference loads and stores and what references name (R233, R234, R241): LDREF completes with the word and its tag once its
registers are not EMPTY, its read is performed and the object it names may be seen; STREF completes once its store is performed; RINFO gives tag, object
and offset of any value without an access, and length, rights, visibility and format of an object that checks 1 to 5 let through.
STREF under the visibility rule (R234, R308): with no walk of the lane under way, a plain value or a reference to an object no
narrower than the container is stored like any store; a narrower one raises ESCAPE, STORE under EXPLICIT, and hands a walk to
the walker under IMPLICIT; a target that the team cannot see raises ESCAPE with the sub-cause of the test. -/
def Obligations.ReferenceResults : Prop :=
  (let off (f : MemF) (x : Srcs) : Int :=
     ((x.av.bits.extractLsb' 0 40).toNat : Int) + x.bv.bits.toInt * 2 ^ f.sc.toNat + f.imm.toInt * 8
   (∀ f (s : State) c x σ (v : Nat → Val), Issues s (.ldref f) c → Reads s c x →
       Turns c s σ (fun l a b => Acts a b c.wk l (x l).av (off f (x l)) 8 [rR, rRL] 8 9
         (ldrefAct c.wk l (f.d.toNat - 0x40) (f.ord == 1) f.scope.toNat fun sub =>
           refFault .escape sub (x l).av.bits (off f (x l))) (.ok (v l))) →
       exec (.ldref f) s = .next (Ended (σ c.active.length) (.ldref f) c fun l => .value (v l)))
     ∧ (∀ f (s : State) c x σ, Issues s (.stref f) c → Reads s c x →
       Turns c s σ (fun l a b => Acts a b c.wk l (x l).av (off f (x l)) 8 [rW, rRS] 8 9
         (strefAct c.wk l f.scope.toNat (f.ord == 2) (x l).dv fun cs sub => refFault cs sub (x l).av.bits (off f (x l)))
         (.ok ())) →
       exec (.stref f) s = .next (Ended (σ c.active.length) (.stref f) c fun _ => {}))
     ∧ (∀ f (s : State) c x, Issues s (.rinfo f) c → Reads s c x → 3 ≤ bits f.md 2 0 → bits f.md 2 0 ≤ 5 →
       exec (.rinfo f) s = .next (Ended s (.rinfo f) c fun l => .value (Val.int
         (if bits f.md 2 0 = 3 then (BitVec.ofBool (x l).av.tag).zeroExtend 64
          else if bits f.md 2 0 = 4 then ((x l).av.bits.extractLsb' 40 24).zeroExtend 64
          else ((x l).av.bits.extractLsb' 0 40).zeroExtend 64))))
     ∧ (∀ f (s : State) c x σ (e : Nat → Place), Issues s (.rinfo f) c → Reads s c x → bits f.md 2 0 ∉ [3, 4, 5] →
       Turns c s σ (fun l a b => Acts a b c.wk l (x l).av ((x l).av.bits.extractLsb' 0 40).toNat 0 [] 0 5
         (fun st _ p => .ok st (some (.ok p))) (e l)) →
       exec (.rinfo f) s = .next (Ended (σ c.active.length) (.rinfo f) c fun l => .value (Val.int
         (match bits f.md 2 0 with
           | 0 => BitVec.ofNat 64 (e l).ent.len
           | 1 => rightsWord (e l).ent
           | 2 => BitVec.ofNat 64 (e l).top.vis
           | _ => (e l).ent.dfmt.zeroExtend 64)))))
    ∧ (∀ (s : State) (wk l scope : Nat) (rel : Bool) (v : Val) (bad : Cause → Byte → LaneFault) (h : Who) (p : Place),
         laneWalk s wk l = none →
         let put (st : State) := (storeAct wk l scope rel (bytesLE 8 v.bits.toNat) v.tag st h p).bind fun s1 r =>
           Acc.ok s1 (r.map fun x => x.map fun u => (Except.ok u : Except LaneFault Unit))
         let z := strefAct wk l scope rel v bad s h p
         ((v.tag = false ∨ objOf v.bits = 0) → z = put s)
           ∧ (v.tag = true → objOf v.bits ≠ 0 → ∀ s1 e, targetFor s h.core (s.teamOf wk) p (objOf v.bits) = .ok s1 (some (none, e)) →
               ((p.pub = true → p.top.vis ≤ e.vis) → z = put s1)
                 ∧ (p.pub = true → e.vis < p.top.vis → (s1.teamOf wk).imp = false → z = .ok s1 (some (.ok (.error (bad .escape 3)))))
                 ∧ (p.pub = true → e.vis < p.top.vis → (s1.teamOf wk).imp = true → ∃ t w, z = .ok t none
                     ∧ (t.core h.core).walks = (s1.core h.core).walks ++ [w] ∧ w.work = [(objOf v.bits, l)] ∧ w.wk = wk ∧ w.lane = l))
           ∧ (v.tag = true → objOf v.bits ≠ 0 → ∀ s1 e sub, targetFor s h.core (s.teamOf wk) p (objOf v.bits) = .ok s1 (some (some sub, e)) →
               z = .ok s1 (some (.ok (.error (bad .escape sub))))))

/-- Objects that a thread makes and frees (R236–R239): RDERIVE and OALLOC complete in each lane with a tagged reference to offset 0 of
the number that its allocation took, in ascending order of lanes; OFREE completes once its object is freed. -/
def Obligations.ObjectResults : Prop :=
  (∀ f (s : State) c x σ (num : Nat → Nat), Issues s (.oalloc f) c → Reads s c x →
      Turns c s σ (fun l a b => runTry a (whoLane a c.wk l) (allocLane f c.wk (x l).av.bits.toInt · (whoLane a c.wk l))
        = (b, some (.ok (.ok (num l))))) →
      exec (.oalloc f) s = .next (Ended (σ c.active.length) (.oalloc f) c fun l => .value ⟨refOf (num l) 0, true⟩))
    ∧ (∀ f (s : State) c x σ (num : Nat → Nat), Issues s (.rderive f) c → Reads s c x →
      Turns c s σ (fun l a b => ∃ e,
        let off := ((x l).av.bits.extractLsb' 0 40).toNat
        let start : Int := off + (x l).bv.bits.toInt
        0 ≤ (x l).bv.bits.toInt ∧ 1 ≤ (x l).cv.bits.toInt ∧ start + (x l).cv.bits.toInt ≤ (e : Place).ent.len
          ∧ a.fails.find? (fun f => f.who == .lane c.wk l) = none
          ∧ ∃ a1 a2, checkRef a (wkCore c.wk) (a.teamOf c.wk).realm (a.teamOf c.wk).party (objOf (x l).av.bits) (x l).av.tag
              off 0 [] 0 5 = .ok a1 (.ok e)
            ∧ takeNumber a1 (wkCore c.wk) (a1.teamOf c.wk).realm = some (.ok (.ok (num l)))
            ∧ putEntry a1 (whoLane a c.wk l) (a1.teamOf c.wk).realm (num l)
                (viewEntry e.ent e.top f.md start.toNat (x l).cv.bits.toInt.toNat (a1.teamOf c.wk).handle) = .ok a2 true
            ∧ b = (((a2.setPool (wkCore c.wk) (a1.teamOf c.wk).realm
                  ((tget (a2.core (wkCore c.wk)).pools (a1.teamOf c.wk).realm []).erase (num l))).modTeam
                    (a2.warp c.wk).team fun u => { u with views := u.views ++ [(num l, e.top.obj)] }).unwait (.lane c.wk l))) →
      exec (.rderive f) s = .next (Ended (σ c.active.length) (.rderive f) c fun l => .value ⟨refOf (num l) 0, true⟩))
    ∧ (∀ f (s : State) c x σ, Issues s (.ofree f) c → Reads s c x →
      Turns c s σ (fun l a b => tfind (a.core (wkCore c.wk)).ofrees (lkOf c.wk l) = none
        ∧ Acts a b c.wk l (x l).av ((x l).av.bits.extractLsb' 0 40).toNat 0 [] 0 5 (freeLane c.wk l (x l).av.bits) (.ok ())) →
      exec (.ofree f) s = .next (Ended (σ c.active.length) (.ofree f) c fun _ => {}))
    ∧ (∀ wk l ref s h p, (p : Place).ent.own ≠ (s.teamOf wk).handle ∨ (p.ent.view = false ∧ p.ent.vis ≠ 0) →
        freeLane wk l ref s h p = .ok s (some (.ok (.error (refFault .memory 0x0B ref ((ref.extractLsb' 0 40).toNat : Nat))))))

/-! ### Atomics -/

/-- Atomics and fences (R290–R294): ATOM completes in each lane, in ascending order, with the old value zero-extended, RED
with none, once its read-modify-write is performed with read and write rights on a naturally aligned 4 or 8 bytes; FENCE
completes once the acts of its release and acquire are done in every lane. The operations of an atomic (R291): ADD, signed MIN
and MAX, AND, OR, XOR, SWAP and CAS, which writes only where the old value equals the compare value; a private line that
stands in L1 is changed there as one access and the old value is the result. -/
def Obligations.AtomicResults : Prop :=
  (let act (f : SyF) (c : Ctx) (x : Srcs) (l : Nat) (v : Word) (a b : State) : Prop :=
     let n := if f.sub.getLsbD 3 then 8 else 4
     Acts a b c.wk l x.av (((x.av.bits.extractLsb' 0 40).toNat : Int) + if bits f.sub 2 0 = 7 then 0 else x.bv.bits.toInt) n [rR, rW] n 9
       (atomAct c.wk l n (f.ord.getLsbD 0) (f.ord.getLsbD 1) f.scope.toNat fun old =>
         atomBytes (f.sub.getLsbD 3) (bits f.sub 2 0) old x.cv.bits x.bv.bits) v
   (∀ f (s : State) c x σ (v : Nat → Word), Issues s (.atom f) c → Reads s c x → Turns c s σ (fun l a b => act f c (x l) l (v l) a b) →
       exec (.atom f) s = .next (Ended (σ c.active.length) (.atom f) c fun l => .value (Val.int (v l))))
     ∧ (∀ f (s : State) c x σ (v : Nat → Word), Issues s (.red f) c → Reads s c x → Turns c s σ (fun l a b => act f c (x l) l (v l) a b) →
       exec (.red f) s = .next (Ended (σ c.active.length) (.red f) c fun _ => {}))
     ∧ (∀ f (s : State) c x σ, Issues s (.fence f) c → Reads s c x → Turns c s σ (fun l a b =>
         fenceLane (f.ord.getLsbD 0) (f.ord.getLsbD 1) f.scope.toNat a c.wk l = (b, some (.ok ()))) →
       exec (.fence f) s = .next (Ended (σ c.active.length) (.fence f) c fun _ => {})))
    ∧ ((∀ (n : Nat) (o c b : BitVec n), atomOp 0 o c b = some (o + c) ∧ atomOp 3 o c b = some (o &&& c) ∧ atomOp 4 o c b = some (o ||| c)
           ∧ atomOp 5 o c b = some (o ^^^ c) ∧ atomOp 6 o c b = some c ∧ atomOp 7 o c b = (if o = b then some c else none)
           ∧ (∀ r, atomOp 1 o c b = some r → (r = o ∨ r = c) ∧ r.toInt ≤ o.toInt ∧ r.toInt ≤ c.toInt)
           ∧ (∀ r, atomOp 2 o c b = some r → (r = o ∨ r = c) ∧ o.toInt ≤ r.toInt ∧ c.toInt ≤ r.toInt)
           ∧ (atomOp 1 o c b).isSome = true ∧ (atomOp 2 o c b).isSome = true)
         ∧ (∀ (s : State) (wk l op : Nat) (p : Place) (e : L1Line) (c b : Word), p.addr % 8 = 0 → Hits s wk l p.key p.addr 8 e →
             (s.teamOf wk).spill = none →
             let old : Word := BitVec.ofNat 64 (ofBytes ((e.data.bytes.drop (p.addr % 128)).take 8))
             atomAct wk l 8 false false 0 (fun bs => atomBytes true op bs c b) s (whoLane s wk l) p
               = .ok (s.l1Set (wkCore wk) (match atomOp op old c b with
                   | some v => lineStored e (p.addr % 128) (bytesLE 8 v.toNat) false
                   | none => e)) (some (.ok old))))

/-! ### Call frames -/

/-- Indexed frame registers and frame queries (R122, R145, R154, R213, R214): LDF gives the register that its index names inside the demand,
a pair under .w with its tag, if it is FULL; STF writes it, if it is not EMPTY, and the values written are counted in CMPCNT; FRQ gives demand, frame id, lane set, depth and the
partition's free granules. An index outside the demand raises OPERAND, INDEX. -/
def Obligations.FrameRegisterResults : Prop :=
  let k (x : Srcs) : Nat := (x.av.bits.extractLsb' 0 32).toNat
  let inside (s : State) (c : Ctx) (w : Bool) (l : Nat) (x : Srcs) : Prop :=
    (w = true → k x % 2 = 0 ∧ k x + 1 < (s.frameOf c.wk l).demand) ∧ k x < (s.frameOf c.wk l).demand
  (∀ f (s : State) c x, Issues s (.ldf f) c → Reads s c x →
      (∀ l ∈ c.active, inside s c (wBit f) l (x l) ∧ ((s.frameOf c.wk l).reg (k (x l)) l).st = .full
        ∧ (wBit f = true → ((s.frameOf c.wk l).reg (k (x l) + 1) l).st = .full)) →
      exec (.ldf f) s = .next (Ended s (.ldf f) c fun l =>
        let fr := s.frameOf c.wk l
        .value (if wBit f then ⟨(fr.reg (k (x l) + 1) l).val ++ (fr.reg (k (x l)) l).val, fr.ptag (k (x l)) l⟩
          else Val.int ((fr.reg (k (x l)) l).val.zeroExtend 64))))
    ∧ (∀ f (s : State) c x, Issues s (.stf f) c → Reads s c x →
      (∀ l ∈ c.active, inside s c (wBit f) l (x l) ∧ ((s.frameOf c.wk l).reg (k (x l)) l).st ≠ .empty
        ∧ (wBit f = true → ((s.frameOf c.wk l).reg (k (x l) + 1) l).st ≠ .empty)) →
      exec (.stf f) s = .next (Ended (countWrite (c.active.foldl (fun st l => let fk := (s.lane c.wk l).frame
          if wBit f then putPair st fk l (k (x l)) (x l).bv
          else putFReg st fk l (k (x l)) ((x l).bv.bits.extractLsb' 0 32)) s) c.wk
        (let los := c.active.map fun l => lo32 (x l).bv.bits
         if wBit f then [los, c.active.map fun l => (x l).bv.bits.extractLsb' 32 32] else [los])) (.stf f) c fun _ => {}))
    ∧ (∀ f (s : State) c x, Issues s (.frq f) c → Reads s c x → exec (.frq f) s = .next (Ended s (.frq f) c fun l =>
        let fr := s.frameOf c.wk l
        .value (Val.int (match bits f.md 2 0 with
          | 0 => BitVec.ofNat 64 fr.demand
          | 1 => BitVec.ofNat 64 fr.fid
          | 2 => fr.lset.zeroExtend 64
          | 3 => BitVec.ofNat 64 fr.depth
          | _ => BitVec.ofNat 64 (s.freeGran (c.wk / 16))))))
    ∧ (∀ (s : State) wk l w a, (s.frameOf wk l).demand ≤ (a : Val).bits.toNat % 2 ^ 32 →
        (w = true → a.bits.toNat % 2 = 0) →
        indexOf s wk l w a = .error { cause := .operand, sub := 5, opv := BitVec.ofNat 64 (a.bits.toNat % 2 ^ 32) })

/-- Calls and returns (R198, R199, R210–R212, R403): CALL and CALLX complete with one request for every active lane, whose
return PC is the dword after the clause; RET leaves the current frame for its caller at the return PC; UNWIND leaves the
frames it counts; EXIT leaves the whole chain and the lane is EXITED. A demand above GFMAX raises OPERAND, DEMAND; a RET in a
root frame OPERAND, DEPTH. Entering a frame (R197, R201, R202, R210): a call whose demand is covered by free granules and
before which nothing waits enters at once a new frame of the call's lanes: resident under the lowest free id, one deeper than
the caller, its return PC the dword after the clause, every register 0 and FULL, no tag set; each lane runs at its target.
Otherwise the lanes block and the request joins the partition's queue. -/
def Obligations.CallResults : Prop :=
  (let jump (c : Ctx) (off : BitVec 32) : Int := ((c.b.hdr.off + BitVec.ofNat 40 (8 + 8 * c.b.idx)).toNat : Int) + off.toInt
   let left : Nat → LaneRes := fun _ => { next := .left }
   (∀ f (s : State) c x, Issues s (.call f) c → Reads s c x → 0 ≤ jump c f.off → jump c f.off < 2 ^ 40 →
       f.jd.toNat ≤ (s.team (s.warp c.wk).team).gfmax →
       exec (.call f) s = .next (Ended (requestCall s c f.jd.toNat
         (c.active.map fun l => (l, ⟨c.b.hdr.obj, BitVec.ofInt 40 (jump c f.off)⟩))) (.call f) c left))
     ∧ (∀ f (s : State) c x, Issues s (.call f) c → Reads s c x → (s.team (s.warp c.wk).team).gfmax < f.jd.toNat →
       exec (.call f) s = .next (finish s (.call f) c (c.active.map fun l =>
         (l, .fault { cause := .operand, sub := 3, opv := BitVec.ofNat 64 f.jd.toNat }))).wake)
     ∧ (∀ f (s : State) c x σ (t : Nat → Pc), Issues s (.callx f) c → Reads s c x →
       Turns c s σ (fun l a b => bits f.md 11 4 ≤ (a.team (a.warp c.wk).team).gfmax
         ∧ indirectTarget a c l (f.md.getLsbD 0) (x l).av = (b, some (.ok (t l)))) →
       exec (.callx f) s = .next (Ended (requestCall (σ c.active.length) c (bits f.md 11 4) (c.active.map fun l => (l, t l)))
         (.callx f) c left))
     ∧ (∀ f (s : State) c x σ (t : Nat → Pc), Issues s (.brx f) c → Reads s c x →
       Turns c s σ (fun l a b => indirectTarget a c l (f.md.getLsbD 0) (x l).av = (b, some (.ok (t l)))) →
       exec (.brx f) s = .next (Ended (σ c.active.length) (.brx f) c fun l => { next := .jump (t l) }))
     ∧ (∀ f (s : State) c x σ, Issues s (.ret f) c → Reads s c x →
       Turns c s σ (fun l a b => ∃ k, (a.frameOf c.wk l).caller = some k
         ∧ b = leaveFrame (comeInto a c l k (a.frameOf c.wk l).rpc) (a.lane c.wk l).frame l) →
       exec (.ret f) s = .next (Ended (σ c.active.length) (.ret f) c left))
     ∧ (∀ f (s : State) c x, Issues s (.ret f) c → Reads s c x → (∀ l ∈ c.active, (s.frameOf c.wk l).caller = none) →
       exec (.ret f) s = .next (finish s (.ret f) c (c.active.map fun l => (l, .fault { cause := .operand, sub := 4 }))).wake)
     ∧ (∀ f (s : State) c x σ, Issues s (.unwind f) c → Reads s c x → 0 ≤ jump c f.off → jump c f.off < 2 ^ 40 →
       Turns c s σ (fun l a b => let fk := (a.lane c.wk l).frame
         f.jd.toNat ≤ (a.frame fk).depth ∧ ∃ s1 k, leaveN a fk l f.jd.toNat = (s1, some k)
           ∧ b = let s2 := s1.modLane c.wk l fun ln =>
                   { ln with frame := k, pc := ⟨c.b.hdr.obj, BitVec.ofInt 40 (jump c f.off)⟩, cix := 0, st := .run }
                 if usableFrame s2 k then s2 else joinRefill s2 (mkReq a c (maskOf [l]) (.refill fk)) k) →
       exec (.unwind f) s = .next (Ended (σ c.active.length) (.unwind f) c left))
     ∧ (∀ f s c, Issues s (.exit f) c → exec (.exit f) s = .next (Ended
         (settleBarrier (settleV (c.active.foldl (fun st l => exitLane st c.wk l) s) c.wk) (s.warp c.wk).team)
         (.exit f) c left))
     ∧ (∀ (s : State) wk l, l < 32 → ((exitLane s wk l).lane wk l).st = .exited))
    ∧ (∀ (s : State) (c : Ctx) (demand l0 : Nat) (pc : Pc) (ts : List (Nat × Pc)),
         let all := (l0, pc) :: ts
         let pk := c.wk / 16
         all.Pairwise (fun a b => a.1 < b.1) → (∀ e ∈ all, e.1 < 32) →
         let t := requestCall s c demand all
         ((s.part pk).reqs = [] → (demand + 7) / 8 ≤ s.freeGran pk →
             let f := t.frame s.uid
             f.wk = c.wk ∧ f.demand = demand ∧ f.depth = ((s.frame (s.lane c.wk l0).frame).depth + 1) % 2 ^ 32
               ∧ f.rpc = c.b.hdr.add (8 + 8 * c.b.words.length) ∧ f.caller = some (s.lane c.wk l0).frame
               ∧ f.loc = .resident (s.freeFid pk) ∧ f.rem = maskOf (all.map (·.1)) ∧ f.lset = f.rem
               ∧ (∀ n l, f.reg n l = ⟨0, .full⟩ ∧ f.ptag n l = false)
               ∧ (∀ e ∈ all, let z := t.lane c.wk e.1
                   z.frame = s.uid ∧ z.pc = e.2 ∧ z.cix = 0 ∧ z.st = .run ∧ z.q = (s.lane c.wk e.1).q ∧ z.g = (s.lane c.wk e.1).g))
           ∧ ((s.part pk).reqs ≠ [] ∨ s.freeGran pk < (demand + 7) / 8 →
             (∃ r, (t.part pk).reqs = (s.part pk).reqs ++ [r] ∧ r.wk = c.wk ∧ r.lanes = maskOf (all.map (·.1)))
               ∧ ∀ e ∈ all, (t.lane c.wk e.1).st = .blocked .frame ∧ (t.lane c.wk e.1).pc = c.b.hdr))

/-- Frame engines (R199, R201–R208, R398): FRAME_GRANT serves the head request once the free granules cover it; DOFFER_WAKE
starts a spill of the frame that the doffer picks into free space of the team's slot, or raises FRAME in the head request's lanes:
sub-cause 1 with no slot, 2 with no space; SPILL_DONE frees the granules of a frame whose record is written, and gives the spill up
where the frame has come into use meanwhile; REFILL_DONE brings a frame
back from its slot or a save area and its lanes run; FRAME_RELEASE removes a frame that every lane has left and no response
will reach. Spill records (R208): the record of a frame brings back every register and every tag of a frame none of whose
registers is EMPTY, and FAULTED registers come back FAULTED. -/
def Obligations.FrameEngines : Prop :=
  ((∀ core part s, headFits s (core * 4 + part) = true →
       exec (.frameGrant core part) s = .next (grantHead s (core * 4 + part)).wake)
     ∧ (∀ core part s, dofferWakes s (core * 4 + part) = true →
       exec (.dofferWake core part) s = .next (dofferStep s (core * 4 + part)).wake)
     ∧ (∀ (s : State) pk r rest fk f, (s.part pk).reqs = r :: rest → s.freeGran pk < reqGran s r → (s.teamOf r.wk).phase ≠ .saving →
       pickSpill s pk = some (fk, f) →
       let tk := (s.warp f.wk).team
       let sleep := s.modPart pk fun p => { p with awake := false, busy := none }
       ((s.team tk).spill = none → dofferStep s pk = frameFault sleep pk r 0x01 0)
         ∧ (∀ sl, (s.team tk).spill = some sl →
           (findSpan (s.team tk).recs (recSize f.demand) sl.size = none → dofferStep s pk = frameFault sleep pk r 0x02 0)
             ∧ (∀ off, findSpan (s.team tk).recs (recSize f.demand) sl.size = some off → let t := dofferStep s pk
               (t.part pk).busy = some (.spill fk off) ∧ (t.part pk).awake = true
                 ∧ (t.team tk).recs = (s.team tk).recs ++ [(off, recSize f.demand)] ∧ t.hbm = s.hbm ∧ t.frames = s.frames)))
     ∧ (∀ core part s fk off, let pk := core * 4 + part
       (s.part pk).busy = some (.spill fk off) → spillable s pk (fk, s.frame fk) = false →
       exec (.spillDone core part) s = .next (spillDropped (s.unwait (dofferWho s pk).who) pk
         (s.warp (s.frame fk).wk).team off).wake)
     ∧ (∀ core part s fk off s1, let pk := core * 4 + part
       let tk := (s.warp (s.frame fk).wk).team
       (s.part pk).busy = some (.spill fk off) → spillable s pk (fk, s.frame fk) = true →
       runAcc s (dofferWho s pk) (fun st => engineWrite st (dofferWho s pk) (s.team tk).realm ((s.team tk).spill.getD ⟨0, 0, 0, 0⟩).obj
         (((s.team tk).spill.getD ⟨0, 0, 0, 0⟩).off + off) (recWords st (s.frame fk))) = (s1, some (.ok (.ok ()))) →
       exec (.spillDone core part) s = .next (dofferStep (relist
         (((s1.modFrame fk fun g => { g with loc := .spilled off, regs := [], ptags := [] }).modPart pk fun p =>
           { p with busy := none }).modTeam tk fun u => { u with spoilt := u.spoilt.filter (· != off) }) tk fk off) pk).wake)
     ∧ (∀ core part s r fk area off, let pk := core * 4 + part
       (s.part pk).busy = some (.refill r (.saved area off)) → r.kind = .refill fk →
       exec (.refillDone core part) s = .next (refillEnd s pk fk r (.saved area off)
         (localWords s (((s.teamOf r.wk).saves.getD area ⟨0, 0⟩).base + off) (recSize (s.frame fk).demand / 8))).wake)
     ∧ (∀ core part s r fk off s1 ws, let pk := core * 4 + part
       let sl := (s.teamOf r.wk).spill.getD ⟨0, 0, 0, 0⟩
       (s.part pk).busy = some (.refill r (.spilled off)) → r.kind = .refill fk →
       runAcc s (dofferWho s pk) (fun st => engineRead st (dofferWho s pk).core (s.teamOf r.wk).realm sl.obj (sl.off + off)
         (recSize (s.frame fk).demand / 8)) = (s1, some (.ok (.ok ws))) →
       exec (.refillDone core part) s = .next (refillEnd s1 pk fk r (.spilled off) ws).wake)
     ∧ (∀ fk s, (tfind s.frames fk).isSome = true → (s.frame fk).rem = 0 → (∀ d ∈ s.defers, d.frame ≠ fk) →
       ∃ t, exec (.frameRelease fk) s = .next t ∧ tfind t.frames fk = none ∧ t.lanes = s.lanes
         ∧ ∀ k, k ≠ fk → t.frame k = s.frame k)
     ∧ (∀ (s : State) r l, l < 32 → r.lanes.getLsbD l = true → (s.lane r.wk l).st = .blocked .frame →
       ((enterRefilled s r).lane r.wk l).st = .run))
    ∧ (∀ (s : State) (f g : Frame), g.demand = f.demand → f.demand ≤ 192 →
         (∀ n < f.demand, ∀ l < 32, (f.reg n l).st ≠ .empty) →
         (recWords s f).length * 8 = recSize f.demand
           ∧ (∀ n < f.demand, ∀ l < 32, (recRestore g (recWords s f)).reg n l = f.reg n l)
           ∧ (∀ n < f.demand, n % 2 = 0 → ∀ l < 32, (recRestore g (recWords s f)).ptag n l = f.ptag n l))

/-! ### Matrix unit -/

/-- Matrix instructions (R270–R286): an MMA whose shape, place, A rows and scales pass its checks enters its bank's queue with one row
for each active lane and completes, as does ACZ; MMA_PERFORM and ACZ_PERFORM carry out the head of a queue: each element of
each participant's row is the rounded product sum added to the old element, or zero, other rows stay, and the command leaves
the queue; ACRD, ACWR, ACRED, ACSCL and ACRD.Q read and write each active lane's own row of the tile of the bank that BK
selects. -/
def Obligations.MatrixResults : Prop :=
  let bank (c : Ctx) (f : MxF) : Nat := (wkPart c.wk + bits f.md 11 10) % 4
  let there (s : State) (c : Ctx) (f : MxF) : Prop := (s.teamOf c.wk).inPart (bank c f) = true
  let room (s : State) (c : Ctx) (f : MxF) (b : Nat) : Prop :=
    (s.bankQ (wkCore c.wk) b).length < 64 ∧ (f.cv = true → (s.warp c.wk).counter f.ci.toNat < 31)
  let el (s : State) (c : Ctx) (f : MxF) (l k : Nat) : BitVec 32 := (s.teamOf c.wk).tileEl (bank c f) f.td.toNat l k
  let same (s t : State) : Prop := t.hbm = s.hbm ∧ t.lanes = s.lanes ∧ t.frames = s.frames ∧ t.teams = s.teams
  (∀ f s c (row : Nat → ARow), Issues s (.mma f) c → room s c f (wkPart c.wk) →
      let lay := (s.teamOf c.wk).layout f.lr.toNat
      let rb := mmaRowBytes (mmaCls f)
      let lt := s.latchOf (wkCore c.wk) (wkPart c.wk)
      let mine := lt.own = some (wkSlot c.wk, (s.teamOf c.wk).handle) ∧ lt.cls.toNat = mmaCls f ∧ lt.af.toNat = mmaAf f
      lay.spb % rb = 0 → lay.spp % rb = 0 → lay.spb + (mmaK (mmaCls f) - 1) * lay.spp + rb ≤ (s.teamOf c.wk).spSize →
      (∀ l ∈ c.active, mmaRow s c f l (if mine then tfind lt.rows l else none) = .ok (row l)) →
      ∃ t j, exec (.mma f) s = .next (Ended t (.mma f) c fun _ => {}) ∧ same s t
        ∧ t.bankQ (wkCore c.wk) (wkPart c.wk) = s.bankQ (wkCore c.wk) (wkPart c.wk) ++ [j]
        ∧ j.mma = true ∧ j.rows = c.active.map (fun l => (l, row l)) ∧ j.tile = f.td.toNat ∧ j.ow = f.md.getLsbD 10
        ∧ j.spb = lay.spb ∧ j.spp = lay.spp ∧ j.team = (s.warp c.wk).team
        ∧ (f.cv = true → (t.warp c.wk).counter f.ci.toNat = (s.warp c.wk).counter f.ci.toNat + 1)
        ∧ (f.md.getLsbD 11 = true → ∀ l ∈ c.active, tfind (t.latchOf (wkCore c.wk) (wkPart c.wk)).rows l = some (row l)))
    ∧ (∀ f s c, Issues s (.acz f) c → there s c f → room s c f (bank c f) →
      ∃ t j, exec (.acz f) s = .next (Ended t (.acz f) c fun _ => {}) ∧ same s t
        ∧ t.bankQ (wkCore c.wk) (bank c f) = s.bankQ (wkCore c.wk) (bank c f) ++ [j]
        ∧ j.mma = false ∧ j.tile = f.td.toNat ∧ j.team = (s.warp c.wk).team
        ∧ j.lanes = (if f.md.getLsbD 0 then BitVec.allOnes 32 else maskOf c.active)
        ∧ (f.cv = true → (t.warp c.wk).counter f.ci.toNat = (s.warp c.wk).counter f.ci.toNat + 1))
    ∧ (∀ (s : State) core b j r, s.bankQ core b = j :: r → (j : MxJob).mma = true → (j.rows.map (·.1)).Nodup →
        (∀ e ∈ j.rows, e.1 < 32) →
      ∃ t, exec (.mmaPerform core b) s = .next t ∧ t.bankQ core b = r ∧ t.hbm = s.hbm
        ∧ (∀ e ∈ j.rows, ∀ k < 32, (t.team j.team).tileEl j.bank j.tile e.1 k =
            BitVec.ofNat 32 (mmaElem j.ow ((s.team j.team).tileEl j.bank j.tile e.1 k).toNat (aVals j.cls.toNat j.af.toNat e.2)
              ((bCol (s.team j.team) j k).map (·.1))).1)
        ∧ (∀ l k, l < 32 → k < 32 → l ∉ j.rows.map (·.1) →
            (t.team j.team).tileEl j.bank j.tile l k = (s.team j.team).tileEl j.bank j.tile l k))
    ∧ (∀ (s : State) core b j r, s.bankQ core b = j :: r → (j : MxJob).mma = false →
      ∃ t, exec (.aczPerform core b) s = .next t ∧ t.bankQ core b = r ∧ t.hbm = s.hbm ∧ t.lanes = s.lanes
        ∧ ∀ l k, l < 32 → k < 32 → (t.team j.team).tileEl j.bank j.tile l k =
            if j.lanes.getLsbD l then 0 else (s.team j.team).tileEl j.bank j.tile l k)
    ∧ (∀ f (s : State) c x, Issues s (.acrd f) c → Reads s c x → there s c f →
      ∃ t, exec (.acrd f) s = .next (Ended t (.acrd f) c fun _ => {}) ∧ t.hbm = s.hbm ∧ t.lanes = s.lanes ∧ t.teams = s.teams
        ∧ ∀ l ∈ c.active, ∀ m < 8,
          (t.frameOf c.wk l).reg (f.a.toNat - 0x40 + m) l = ⟨el s c f l (8 * bits f.md 1 0 + m), .full⟩
            ∧ (t.frameOf c.wk l).ptag (f.a.toNat - 0x40 + m) l = false)
    ∧ (∀ f (s : State) c x, Issues s (.acwr f) c → Reads s c x → there s c f →
      ∃ t, exec (.acwr f) s = .next (Ended t (.acwr f) c fun _ => {}) ∧ t.hbm = s.hbm ∧ t.lanes = s.lanes ∧ t.frames = s.frames
        ∧ ∀ l k, l < 32 → k < 32 → el t c f l k =
            if l ∈ c.active ∧ k / 8 = bits f.md 1 0 then lo32 ((x l).a.getD (k % 8) Val.zero).bits else el s c f l k)
    ∧ (∀ f (s : State) c x, Issues s (.acred f) c → Reads s c x → there s c f →
      let r (l : Nat) := reduceRow (bits f.md 1 0) ((List.range 32).map fun k => (el s c f l k).toNat)
      exec (.acred f) s = .next (Ended s (.acred f) c fun l =>
        { val := some (Val.int (BitVec.ofNat 64 (r l).1)), flags := (r l).2 }))
    ∧ (∀ f (s : State) c x, Issues s (.acscl f) c → Reads s c x → there s c f →
      let r (l k : Nat) := mulF fFP32 (bits f.md 9 7) false (decodeF fFP32 (el s c f l k).toNat) (fIn fFP32 f.sb (x l).bv)
      ∃ t, exec (.acscl f) s = .next (Ended t (.acscl f) c fun l =>
            { flags := (List.range 32).foldl (fun m k => m ||| (r l k).2) 0 })
        ∧ t.hbm = s.hbm ∧ t.lanes = s.lanes ∧ t.frames = s.frames
        ∧ ∀ l k, l < 32 → k < 32 →
            el t c f l k = if l ∈ c.active then BitVec.ofNat 32 (r l k).1 else el s c f l k)
    ∧ (∀ f s c (x : Nat → Srcs) fix, Issues s (.acrdQ f) c → there s c f →
      (∀ l ∈ c.active, readAll s c.wk l { c.g with b := .none } = .ok (x l)) →
      (if f.md.getLsbD 4 then ∃ v, read32 s c.wk (c.active.headD 0) f.sb (f.bt.getLsbD 0) = .ok v ∧ fix = some (v.bits.toNat % 256)
       else fix = none ∧ s.ringBusy (wkCore c.wk) (f.sb.toNat % 64) = false) →
      let scale := match fix with
        | some v => v | none => chooseScale (bits f.md 2 0) (s.ring (wkCore c.wk) (f.sb.toNat % 64)).ringmax
      let seg (l : Nat) := acrdqSeg f ((List.range 32).map fun k => (el s c f l k).toNat)
      let q (l : Nat) := quantSeg (bits f.md 2 0) (bits f.md 9 7) (f.md.getLsbD 6) scale fix.isSome (seg l)
      ∃ t, exec (.acrdQ f) s = .next (Ended t (.acrdQ f) c fun l =>
            { val := some (Val.int (BitVec.ofNat 64 (q l).2.1)), flags := (q l).2.2 })
        ∧ t.hbm = s.hbm ∧ t.lanes = s.lanes ∧ t.teams = s.teams
        ∧ (∀ l ∈ c.active, ∀ m < 8, (t.frameOf c.wk l).reg (f.a.toNat - 0x40 + m) l =
            ⟨BitVec.ofNat 32 (ofBytes (((q l).1.drop (4 * m)).take 4)), .full⟩)
        ∧ (fix = none → t.ring (wkCore c.wk) (f.sb.toNat % 64) =
            (s.ring (wkCore c.wk) (f.sb.toNat % 64)).record (absMax (c.active.flatMap seg))))

/-! ### Shuttle -/

/-- Shuttle instructions (R244–R251, R262–R267): LYSET writes the layout record that D names from its image, in memory or,
with .sp, in the scratchpad, and refuses a bad image with OPERAND, RECORD; the commands complete once the command lane's
operands are read and checks 1 to 6 pass, and leave one entry at the tail of their core's queue, counted if their counter is
used; SGATH into registers completes in every lane with its word to come. Element k of a record lies where its four indexes
and strides say. How shuttle commands end (R252, R258–R260, R265, R302): SHUTTLE_COMPLETE ends a command whose units are all
performed, and reports it on its counter; SHUTTLE_ASYNC_FAULT records the first fault of a warp in SHERR and keeps it for the
clause boundary, and marks a second one by OVF alone; SPUT_INCREMENT adds B to the counter word once every acknowledgement of
the written lines is in; HELD_ARRIVAL makes the arrival when the slot's phase has come and discards it when the slot is gone. The model's
choice: a second fault leaves the rest of SHERR, and the fault that is to be taken, as they were (log 17; R260 says OVF alone). -/
def Obligations.ShuttleResults : Prop :=
  (let image (img : List Byte) : List Word := (chunks 8 8 img).map fun w => BitVec.ofNat 64 (ofBytes w)
   let entered (s : State) (f : BaseF) (c : Ctx) (b : Val) (img : List Byte) : State :=
     s.modTeam (s.warp c.wk).team fun t => { t with layouts := tput t.layouts (f.d.toNat % 16) ⟨b, (image img).drop 1⟩ Layout.zero }
   let sh (con : ShF → Instr) (cmd : ShCmd) : Prop := ∀ f s c x slot s0 dsh s1 ps, Issues s (con f) c →
     let t := s.teamOf c.wk
     let la := t.layout f.la.toNat
     let lb := t.layout f.lb.toNat
     let wide := cmd == .sfill && la.esz == 8
     let h := whoLane s c.wk (c.active.headD 0)
     (wide = true → isC64 f.a.toNat = true) →
     leadSrcs s c (if wide then .r64 else .r32) = .ok x → (∀ n ∈ tileHandles cmd f x, n.toNat < t.ntiles) →
     (f.k = true → slotOf (t.ringOf f.ci.toNat) (lo32 x.dv.bits) = .ok slot) → (f.k = false → slot = (0, false)) →
     dstShift cmd f s h.core t lb = .ok s0 dsh →
     shapeOk cmd f la lb (lo32 x.bv.bits).toNat (some dsh) = true →
     (∀ e ∈ spSides cmd f (s0.teamOf c.wk) la lb x, spSideFault e.1 e.2.1 e.2.2 = none) →
     let h0 := whoLane s0 c.wk (c.active.headD 0)
     runTry s0 h0 (fun st => (runSides st (sideChecks cmd f h0.core (s0.teamOf c.wk) la lb x)).bind fun a o =>
       .ok a (o.map fun r => Except.ok r)) = (s1, some (.ok (.ok ps))) →
     (s1.core h.core).shq.length < 1024 → (f.cv = true → f.k = false → (s1.warp c.wk).counter f.ci.toNat < 31) →
     ∃ z j, exec (con f) s = .next (Ended z (con f) c fun _ => {})
       ∧ (z.core h.core).shq = (s1.core h.core).shq ++ [j] ∧ z.hbm = s1.hbm ∧ z.lanes = s1.lanes ∧ z.frames = s1.frames
       ∧ j.cmd = cmd ∧ j.lane = c.active.headD 0 ∧ j.a = x.av ∧ j.b = x.bv ∧ j.c = x.cv ∧ j.la = la ∧ j.lb = lb ∧ j.k = f.k
       ∧ j.ci = f.ci.toNat ∧ j.slot = slot.1 ∧ j.phase = slot.2 ∧ j.pos = 0 ∧ j.fault = none
       ∧ (f.cv = true → f.k = false → (z.warp c.wk).counter f.ci.toNat = (s1.warp c.wk).counter f.ci.toNat + 1)
   (∀ f (s : State) c x, Issues s (.lyset f) c → readAll s c.wk (c.active.headD 0) c.g = .ok x → f.md.getLsbD 0 = true →
       let o := (lo32 x.av.bits).toNat
       let img := (s.teamOf c.wk).spRead o 64
       o % 64 = 0 → o + 64 ≤ (s.teamOf c.wk).spSize →
       (badRecord ((image img).getD 7 0) = false →
           exec (.lyset f) s = .next (Ended (entered s f c x.bv img) (.lyset f) c fun _ => {}))
         ∧ (badRecord ((image img).getD 7 0) = true → exec (.lyset f) s = .next (finish s (.lyset f) c (c.active.map fun l =>
             (l, .fault { cause := .operand, sub := 0x0C, opv := (image img).getD 7 0 }))).wake))
     ∧ (∀ f (s : State) c x a b, Issues s (.lyset f) c → readAll s c.wk (c.active.headD 0) c.g = .ok x → f.md.getLsbD 0 = false →
       Acts s a c.wk (c.active.headD 0) x.av (offOf x.av.bits) 64 [rR] 64 9 (imageAct c.wk (c.active.headD 0)) b →
       badRecord ((image b).getD 7 0) = false →
       exec (.lyset f) s = .next (Ended (entered a f c x.bv b) (.lyset f) c fun _ => {}))
     ∧ sh .scpy .scpy ∧ sh .sgathSp .sgath ∧ sh .sscat .sscat ∧ sh .ssadd .ssadd ∧ sh .sput .sput ∧ sh .sfill .sfill
     ∧ sh .sqcp .sqcp
     ∧ (∀ f (s : State) c x σ (p : Nat → Place), Issues s (.sgath f) c → Reads s c x →
       Turns c s σ (fun l a b => let la := (a.teamOf c.wk).layout f.la.toNat
         Acts a b c.wk l la.base ((offOf la.base.bits : Int) + (x l).av.bits.toInt * la.stride 0) 8 [rR, rNC] 8 9
           (fun st _ q => .ok st (some (.ok q))) (p l)) →
       let z := σ c.active.length
       (∀ l ∈ c.active, anyEmpty z c.wk l [f.d.toNat - 0x40, f.d.toNat - 0x40 + 1] = false) →
       (z.core (wkCore c.wk)).shq.length < 1024 → (f.cv = true → (z.warp c.wk).counter f.ci.toNat < 31) →
       ∃ s1 j, exec (.sgath f) s = .next (Ended (c.active.foldl (fun st l => sgathStart f j.id c.wk c.path st l (some (p l))) s1)
           (.sgath f) c fun _ => {})
         ∧ (s1.core (wkCore c.wk)).shq = (z.core (wkCore c.wk)).shq ++ [j] ∧ j.left = c.active.length ∧ j.cmd = .sgathReg
         ∧ s1.frames = z.frames ∧ s1.hbm = z.hbm)
     ∧ (∀ (l : Layout) i0 i1 i2 i3, i0 < l.ext 0 → i1 < l.ext 1 → i2 < l.ext 2 → i3 < l.ext 3 →
       let k := i0 + l.ext 0 * (i1 + l.ext 1 * (i2 + l.ext 2 * i3))
       k < l.count
         ∧ l.memAt k = (offOf l.base.bits : Int) + i0 * l.stride 0 + i1 * l.stride 1 + i2 * l.stride 2 + i3 * l.stride 3
         ∧ l.spAt k = l.spb + i0 * l.esz + (i1 + l.ext 1 * (i2 + l.ext 2 * i3)) * l.spp))
    ∧ (let queued (s : State) (id : Nat) (j : ShJob) : Prop := s.job id = some j
       (∀ (s : State) id j s1 j1, queued s id j → runJob (2 ^ 33) s j = s1 → queued s1 id j1 → j1.stage = .finished → j1.fault = none →
           exec (.shuttleComplete id) s = .next (finishJob s1 j1).wake)
         ∧ (∀ (s : State) j, j.k = false → let t := finishJob s j
             (∀ x ∈ (t.core j.core).shq, x.id ≠ j.id)
               ∧ (j.cv = true → ∀ r, tget (s.warp j.wk).ctr j.ci [] = ⟨j.id, false⟩ :: r → (∀ x ∈ r, x.id ≠ j.id ∧ x.done = false) →
                   (t.warp j.wk).counter j.ci + 1 = (s.warp j.wk).counter j.ci))
         ∧ (∀ (s : State) id j c sub el, queued s id j → j.fault = some (c, sub, el) →
           ∃ t, exec (.shuttleAsyncFault id) s = .next t ∧ (j.filled = [] → t.hbm = s.hbm)
             ∧ let w := s.warp j.wk
               (w.sherr.v = false → (t.warp j.wk).sherr =
                     { v := true, ovf := w.sherr.ovf, minor := BitVec.ofNat 3 j.cmd.minor, cause := c.code, sub := sub
                       elem := BitVec.ofNat 32 el, k := j.k, cv := j.cv, ci := BitVec.ofNat 3 j.ci, taken := false }
                   ∧ (t.warp j.wk).asyncs = w.asyncs ++ [⟨j.lane, c, sub, true, j.faultAt.1, j.faultAt.2⟩])
               ∧ (w.sherr.v = true → (t.warp j.wk).sherr = { w.sherr with ovf := true } ∧ (t.warp j.wk).asyncs = w.asyncs))
         ∧ (∀ (s : State) id j s1 p s2, queued s id j → j.stage = .counting → j.fault = none → (∀ l ∈ j.lines, s.noAcks l = true) →
           s.fails.find? (fun y => y.who == .shuttle j.id) = none →
           unitPlace s j j.a (offOf j.a.bits) 8 8 [rR, rW] = .ok s1 (some (.ok p)) →
           rmw s1 (shWho j) p.key p.addr 8 (fun b =>
             ((), some (bytesLE 8 (BitVec.ofNat 64 (ofBytes b) + j.b.bits).toNat))) = .ok s2 () →
           exec (.sputIncrement id) s = .next ((s2.unwait (.shuttle j.id)).modJob j fun x => { x with stage := .finished }).wake)
         ∧ (∀ (s : State) tk i h, (s.team tk).held[i]? = some h → let r := (s.team tk).ringOf h.ring
           (h.slot < r.depth → r.phase h.slot = h.phase → ∃ t, exec (.heldArrival tk i) s = .next t
               ∧ (t.team tk).held = (s.team tk).held.eraseIdx i ∧ (t.team tk).ringOf h.ring = r.arrive h.slot 1
               ∧ (∀ id j, h.cmd = some id → queued s id j → ∀ x ∈ (t.core j.core).shq, x.id ≠ j.id))
             ∧ (r.depth ≤ h.slot → ∃ t, exec (.heldArrival tk i) s = .next t
               ∧ (t.team tk).held = (s.team tk).held.eraseIdx i ∧ (t.team tk).ringOf h.ring = r)))

/-! ### Synchronisation -/

/-- Group 12, barrier, shed rings and waits (R295–R301): BARA completes once each lane has arrived, BAR once the phase in which a lane
arrived has completed; the phase advances when every lane that has not exited has arrived; SHARR arrives on its slot once its phase
has come, SHARR with INIT starts the ring afresh, SHWAIT ends once the slot's phase has turned over; CWAIT ends at a counter of at
most T and blocks above it; MWAIT gives each lane the word it read, which is at least C. -/
def Obligations.SyncResults : Prop :=
  let lead (s : State) (c : Ctx) (v : BitVec 32) : Prop :=
    ∃ w, leadRead s c c.g.fs.a c.g.fs.btA = .ok w ∧ lo32 w = v
  let leadB (s : State) (c : Ctx) (v : BitVec 32) : Prop :=
    ∃ w, leadRead s c c.g.fs.b c.g.fs.btB = .ok w ∧ lo32 w = v
  let arrives (c : Ctx) (l : Nat) (a b : State) : Prop :=
    (∀ p, (a.lane c.wk l).st ≠ .blocked (.bar p)) ∧ ((a.teamOf c.wk).arrived (a.warp c.wk).wix).getLsbD l = false
      ∧ ∃ a1, settleAll a c.wk l = (a1, true) ∧ b = arriveLane a1 c.wk l
  let passes (c : Ctx) (l : Nat) (a b : State) : Prop :=
    ∃ p, (a.lane c.wk l).st = .blocked (.bar p) ∧ p ≠ (a.teamOf c.wk).bphase.toNat
      ∧ b = a.modLane c.wk l fun ln => { ln with st := .run }
  (∀ f (s : State) c x σ, Issues s (.bara f) c → Reads s c x → Turns c s σ (fun l a b => arrives c l a b ∨ passes c l a b) →
      exec (.bara f) s = .next (Ended (σ c.active.length) (.bara f) c fun _ => {}))
    ∧ (∀ f (s : State) c x σ, Issues s (.bar f) c → Reads s c x → Turns c s σ (fun l a b => passes c l a b
        ∨ (arrives c l a b ∧ (b.teamOf c.wk).bphase ≠ (a.teamOf c.wk).bphase)) →
      exec (.bar f) s = .next (Ended (σ c.active.length) (.bar f) c fun _ => {}))
    ∧ (∀ (s : State) wk l, l < 32 → let tk := (s.warp wk).team
      let s1 := s.modTeam tk fun t => { t with barr := tput t.barr (s.warp wk).wix (t.arrived (s.warp wk).wix ||| (1#32 <<< l)) 0 }
      let z := (arriveLane s wk l).team tk
      (barrierFull s1 tk = true → z.bphase = (s.team tk).bphase + 1 ∧ ∀ w, z.arrived w = 0)
        ∧ (barrierFull s1 tk = false → z.bphase = (s.team tk).bphase ∧ (z.arrived (s.warp wk).wix).getLsbD l = true
            ∧ ∀ w m, w ≠ (s.warp wk).wix ∨ m ≠ l → (z.arrived w).getLsbD m = ((s.team tk).arrived w).getLsbD m))
    ∧ (∀ f s c v n j ph s1, Issues s (.sharr f) c → lead s c v → leadB s c n →
      slotOf ((s.teamOf c.wk).ringOf f.d.toNat) v = .ok (j, ph) → 1 ≤ n.toNat → n.toNat ≤ 1024 →
      ((s.teamOf c.wk).ringOf f.d.toNat).phase j = ph → settleLanes s c.wk c.active = (s1, true) →
      exec (.sharr f) s = .next (Ended (s1.modTeam (s1.warp c.wk).team fun t =>
        t.setRing f.d.toNat ((t.ringOf f.d.toNat).arrive j n.toNat)) (.sharr f) c fun _ => {}))
    ∧ (∀ (r : Ring) j n, j < r.ph.length → j < r.rem.length → r.rem.getD j 0 ≤ n →
        (r.arrive j n).phase j = !r.phase j ∧ (r.arrive j n).rem.getD j 0 = r.cnt)
    ∧ (∀ (r : Ring) j n, j < r.rem.length → n < r.rem.getD j 0 →
        (r.arrive j n).phase j = r.phase j ∧ (r.arrive j n).rem.getD j 0 = r.rem.getD j 0 - n)
    ∧ (∀ f s c d n, Issues s (.sharrInit f) c → lead s c d → leadB s c n → 1 ≤ d.toNat → d.toNat ≤ 16 →
      1 ≤ n.toNat → n.toNat ≤ 1024 →
      exec (.sharrInit f) s = .next (Ended (s.modTeam (s.warp c.wk).team fun t => t.setRing f.d.toNat
        { depth := d.toNat, cnt := n.toNat, ph := List.replicate 16 false, rem := List.replicate 16 n.toNat })
        (.sharrInit f) c fun _ => {}))
    ∧ (∀ f s c v j ph, Issues s (.shwait f) c → lead s c v → slotOf ((s.teamOf c.wk).ringOf f.d.toNat) v = .ok (j, ph) →
      (((s.teamOf c.wk).ringOf f.d.toNat).phase j ≠ ph → exec (.shwait f) s = .next (Ended s (.shwait f) c fun _ => {}))
        ∧ (((s.teamOf c.wk).ringOf f.d.toNat).phase j = ph → s.quiescing c.wk = false →
            exec (.shwait f) s = .next (blockBundle s c [])))
    ∧ (∀ f s c, Issues s (.cwait f) c →
      ((s.warp c.wk).counter f.ci.toNat ≤ f.d.toNat % 32 → exec (.cwait f) s = .next (Ended s (.cwait f) c fun _ => {}))
        ∧ (f.d.toNat % 32 < (s.warp c.wk).counter f.ci.toNat → s.quiescing c.wk = false →
            exec (.cwait f) s = .next (blockBundle s c [])))
    ∧ (∀ f (s : State) c x σ (v : Nat → Word), Issues s (.mwait f) c → Reads s c x →
      Turns c s σ (fun l a b => let n := if f.sub.getLsbD 0 then 8 else 4
        Acts a b c.wk l (x l).av (offOf (x l).av.bits + (x l).bv.bits.toInt) n [rR] n 9
          (mwaitAct c.wk l n f.scope.toNat (x l).cv.bits) (v l)) →
      exec (.mwait f) s = .next (Ended ((σ c.active.length).modWarp c.wk fun w => { w with mwait := tdel w.mwait c.path })
        (.mwait f) c fun l => .value (Val.int (v l))))
    ∧ (∀ wk l n scope least s h p t v, mwaitAct wk l n scope least s h p = .ok t (some (.ok v)) → least.toNat ≤ v.toNat)
    ∧ (∀ wk path s b w f, (s.warp wk).path path = some b → b.nextWord = some w → decodeShape w = some (.mwait f) →
      exec (.mwaitReread wk path) s = .next (s.modWarp wk fun x => x.setPath path (some { b with blocked := none })))

/-- Host calls and user interrupts (R310–R312, R365): HCALL makes a call of each lane whose slot is free and owned, and empties its
destination pair; HCALL.NB makes the calls of its lanes together, on one counter; a matching reply delivers its word and frees
the slot; a timeout frees it with a REMOTE, TIMEOUT fault; the monitor reads again; UINTR answers 0 and posts its datum to a
live team of its realm with room, 2 to a full one and 1 to none. -/
def Obligations.HostCallResults : Prop :=
  (∀ f (s : State) c x σ, Issues s (.hcall f) c → Reads s c x →
      Turns c s σ (fun l a b => a.pkg.hcv = true ∧ anyEmpty a c.wk l (regRange (f.d.toNat - 0x40) 2) = false
        ∧ ∃ a1, callReady a c.wk l = (a1, some (.ok ()))
        ∧ let d : Defer := { id := a1.uid, wk := c.wk, lane := l, frame := (a1.lane c.wk l).frame, reg := f.d.toNat - 0x40
                             kind := .host (callKey c.wk l), realm := 0, obj := 0, pub := false, addr := 0, base := 0, cmd := none
                             dead := false, undef := false }
          b = startCall (addDefer a1 c.path d).1 c.wk l none false (some (addDefer a1 c.path d).2.id) (x l)) →
      exec (.hcall f) s = .next (Ended (σ c.active.length) (.hcall f) c fun _ => {}))
    ∧ (∀ f (s : State) c x σ, Issues s (.hcallNb f) c → Reads s c x → s.pkg.hcv = true →
      (f.cv = true → (s.warp c.wk).counter f.ci.toNat < 31) →
      Turns c s σ (fun l a b => callReady a c.wk l = (b, some (.ok ()))) →
      let z := σ c.active.length
      let s1 := { z with uid := z.uid + 1 }
      let s2 := if f.cv then counterIssue s1 c.wk f.ci.toNat z.uid else s1
      exec (.hcallNb f) s = .next (Ended (c.active.foldl (fun st l => startCall st c.wk l
        (some (if f.cv then z.uid * 8 + f.ci.toNat + 1 else 0)) true none (x l)) s2) (.hcallNb f) c fun _ => {}))
    ∧ (∀ (s : State) wk l nb isNb defer x, let core := wkCore wk
      let seq := tget (s.core core).hseq (callKey wk l) 1
      let t := startCall s wk l nb isNb defer x
      (∃ k, tfind (t.core core).hcalls (callKey wk l) = some k ∧ k.seq = seq ∧ k.wk = wk ∧ k.lane = l ∧ k.nb = nb
          ∧ k.defer = defer)
        ∧ tget (t.core core).hseq (callKey wk l) 1 = (if seq + 1 = 0 then 1 else seq + 1) ∧ (t.teamOf wk).escaped = true
        ∧ (∀ h, tfind s.halves (callAddr s core (callKey wk l) / 64) = some h → h.bytes.length = 64 →
            ∃ h', tfind t.halves (callAddr s core (callKey wk l) / 64) = some h'
              ∧ BitVec.ofNat 64 (ofBytes (h'.bytes.take 8)) =
                seq ++ ((BitVec.ofNat 16 (bits (lo32 x.cv.bits) 15 0)) ++ (if isNb then 2#16 else 1#16))))
    ∧ (∀ slot s k s1 v, let core := slot / 2048
      let key := slot % 2048
      let h := monitorWho s core key
      tfind (s.core core).hcalls key = some k →
      runTry s h (fun st => (pocDwords st (callAddr st core key + 64) 2).bind fun a d =>
        if bits (d.getD 0 0) 63 32 = k.seq.toNat then thenAcquire a h 3 (some (d.getD 1 0)) else .ok a (some (.ok none)))
          = (s1, some (.ok (some v))) →
      ∃ t, exec (.hcallReply slot) s = .next t ∧ tfind (t.core core).hcalls key = none
        ∧ t = (endCall (deliverCall s1 k (.ok (v, 0))) core key k).wake)
    ∧ (∀ slot s k s1, let core := slot / 2048
      let key := slot % 2048
      let half := callAddr s core key / 64
      tfind (s.core core).hcalls key = some k → k.deadline ≤ s.usec →
      runTry s (monitorWho s core key) (fun st => (ownHalf st half false).bind fun a _ => .ok a (some (.ok ()))) = (s1, some (.ok ())) →
      ∃ t, exec (.hcallTimeout slot) s = .next t ∧ tfind (t.core core).hcalls key = none
        ∧ (∀ n, k.nb = some n → (t.warp k.wk).asyncs = (s1.warp k.wk).asyncs ++ [⟨k.lane, .remote, 3, false, 0, 0⟩])
        ∧ (∀ x, tfind s1.halves half = some x → x.bytes.length = 64 → k.nb.isSome = true →
            ∃ y, tfind t.halves half = some y ∧ ofBytes (y.bytes.take 8) = ofBytes (x.bytes.take 8) / 4 * 4))
    ∧ (∀ slot s k, tfind (s.core (slot / 2048)).hcalls (slot % 2048) = some k →
      ∃ t n, exec (.monitorReread slot) s = .next t
        ∧ tfind (t.core (slot / 2048)).hcalls (slot % 2048) = some { k with since := n } ∧ n = (t.core (slot / 2048)).cycle.toNat)
    ∧ (∀ f (s : State) c x σ (v : Nat → Nat), Issues s (.uintr f) c → Reads s c x →
      Turns c s σ (fun l a b => ∃ a1, runTry a (whoLane a c.wk l) (fun st => thenRelease st (whoLane a c.wk l) c.wk l 1 fun s1 =>
          .ok s1 (some (.ok ()))) = (a1, some (.ok ()))
        ∧ let t := a1.teamOf c.wk
          let r := postUintr a1 (lo32 (x l).av.bits) (some t.realm) t.handle (lo32 (x l).bv.bits)
          v l = r.2 ∧ b = r.1.escape (a1.warp c.wk).team) →
      exec (.uintr f) s = .next (Ended (σ c.active.length) (.uintr f) c fun l => .value (Val.int (BitVec.ofNat 64 (v l)))))
    ∧ (∀ (s : State) h realm src datum, (bits h 31 21 ≠ s.pkg.agent ∨ ∀ e ∈ s.teams, e.2.handle = h → e.2.realm ≠ realm) →
        postUintr s h (some realm) src datum = (s, 1))
    ∧ (∀ (s : State) h realm src datum tk t, bits h 31 21 = s.pkg.agent →
        s.teams.find? (fun e => e.2.handle == h && e.2.realm == realm) = some (tk, t) →
        (8 ≤ t.uiq.length → postUintr s h (some realm) src datum = (s, 2))
          ∧ (t.uiq.length < 8 → (postUintr s h (some realm) src datum).2 = 0
              ∧ ((postUintr s h (some realm) src datum).1.team tk).uiq = t.uiq ++ [(src, datum)]))

/-- Publication (R303–R306): PUB hands the roots of its lanes to the core's walker as one walk, counted on its counter, and completes;
PUBW starts its walk and completes once it has ended without a fault; WALK_VISIT works off the head of the walk's list, each object
found is visited once, and an object already wide enough is skipped; widening sets VIS; WALK_COMPLETE reports an exhausted walk. -/
def Obligations.PublishResults : Prop :=
  let roots (c : Ctx) (x : Nat → Srcs) : List (Nat × Nat) := rootList (c.active.map fun l => (l, (x l).av.bits))
  (∀ f (s : State) c x σ, Issues s (.pub f) c → Reads s c x → Turns c s σ (fun l a b => rootLane a c.wk l (x l) = (b, some (.ok ()))) →
      let z := σ c.active.length
      (f.cv = true → (z.warp c.wk).counter f.ci.toNat < 31) →
      ∃ t w, exec (.pub f) s = .next (Ended t (.pub f) c fun _ => {})
        ∧ (t.core (wkCore c.wk)).walks = (z.core (wkCore c.wk)).walks ++ [w] ∧ w.work = roots c x ∧ w.scope.toNat = f.scope.toNat % 4
        ∧ w.why = .pub f.cv f.ci.toNat ∧ w.team = (z.warp c.wk).team ∧ w.visited = [] ∧ (t.team (z.warp c.wk).team).escaped = true
        ∧ (f.cv = true → (t.warp c.wk).counter f.ci.toNat = (z.warp c.wk).counter f.ci.toNat + 1) ∧ t.hbm = z.hbm)
    ∧ (∀ f (s : State) c x w, Issues s (.pubw f) c → Reads s c x → pubwWalk s c.wk c.active = some w → w.ended = true → w.fault = none →
      exec (.pubw f) s = .next (Ended (s.dropWalk (wkCore c.wk) w.id) (.pubw f) c fun _ => {}))
    ∧ (∀ f (s : State) c x σ, Issues s (.pubw f) c → Reads s c x → pubwWalk s c.wk c.active = none →
      Turns c s σ (fun l a b => rootLane a c.wk l (x l) = (b, some (.ok ()))) →
      let z := σ c.active.length
      z.quiescing c.wk = false →
      exec (.pubw f) s = .next (blockBundle ((z.addWalk (wkCore c.wk)
        (mkWalk z c.wk (c.active.headD 0) f.scope.toNat .pubw (roots c x))).escape (z.warp c.wk).team) c []))
    ∧ (∀ l w r, (rootList r).Pairwise (fun a b => a.1 ≠ b.1) ∧ (rootList ((l, w) :: r)).headD (0, 0) = (objOf w, l))
    ∧ (∀ (s : State) core w obj lane rest s1 v, curWalk s core = some w → w.work = (obj, lane) :: rest →
      runTry s (walkWho core w) (fun st => visitAct w obj st (walkWho core w)) = (s1, some (.ok v)) →
      exec (.walkVisit core) s = .next (s1.modWalk core w.id fun x => match v with
        | .skip => { x with work := rest }
        | .fault c sub => { x with work := [], fault := some (lane, c, sub) }
        | .seen o found => { x with work := rest ++ (newEntries w found).map fun n => (n, lane)
                                    visited := x.visited ++ [o], listed := x.listed ++ newEntries w found }).wake)
    ∧ (∀ w found, (newEntries w found).Nodup ∧ ∀ o, o ∈ newEntries w found ↔ o ∈ found ∧ o ∉ w.listed ∧ o ∉ w.visited)
    ∧ (∀ w obj s h s1 e p, findPair s h.core (s.team w.team).realm obj false = .ok s1 (some (e, p)) → p.vis ≠ 0 →
        w.scope.toNat ≤ p.vis → visitAct w obj s h = .ok s1 (some (.ok .skip)))
    ∧ (∀ (s : State) h t scope s1 a s2, scope < 4 → entryAddr s h.core t.realm t.obj true = .ok s1 (some a) →
        pocWrite s1 h a.1 (bytesLE 8 (setBits (t.dw 0) 60 2 scope).toNat
          ++ bytesLE 8 (setBits (t.dw 1) 32 32 (ownAt s scope)).toNat) = .ok s2 () →
        ∃ z, widen s h t scope = .ok z () ∧ ∀ e ∈ (z.core h.core).oc, e.realm = t.realm → e.obj = t.obj → e.vis = scope)
    ∧ (∀ (s : State) core w cv ci, curWalk s core = some w → w.work = [] → w.why = .pub cv ci →
      ∃ t, exec (.walkComplete core) s = .next t ∧ (∀ x ∈ (t.core core).walks, x.id ≠ w.id)
        ∧ (t.warp w.wk).asyncs = (s.warp w.wk).asyncs ++ (match w.fault with
            | some (l, c, sub) => [⟨l, c, sub, false, tget w.refs l 0, BitVec.ofNat 40 (offOf (tget w.refs l 0))⟩]
            | none => []))
    ∧ (∀ (s : State) core w, curWalk s core = some w → w.work = [] → (∀ cv ci, w.why ≠ .pub cv ci) →
      ∃ t, exec (.walkComplete core) s = .next t ∧ ∀ x ∈ (t.core core).walks, x.id = w.id → x.ended = true)

/-- Asynchronous traps, parking and the supervisor core's commands (R259, R370–R374, R382, R386, R387, R406): ASYNC_TRAP, at a clause
boundary of the command lane, writes the record with ASYNC for that one lane, stops it there and starts to park; WARP_PARKED sets P, NOTE and the core's pending bit; RESUME brings trapped lanes back to their
resume points, FORWARD takes them to the handler, with PV as asked; KILL exits every lane of the team. -/
def Obligations.TrapEvents : Prop :=
  let pend (s : State) (wk : Nat) : Bool := (s.core (wkCore wk)).page.pend.getLsbD (wkSlot wk)
  (∀ (s : State) wk a, nextAsync s wk = some a → (s.warp wk).trec.v = false → (s.warp wk).mayRun = true → a.lane < 32 →
      ∃ t, exec (.asyncTrap wk) s = .next t ∧ (t.warp wk).asyncs = (s.warp wk).asyncs.erase a ∧ (t.warp wk).parking = true
        ∧ (t.warp wk).trec.v = true ∧ (t.warp wk).trec.async = true ∧ (t.warp wk).trec.cause = a.cause.code
        ∧ (t.warp wk).trec.sub = a.sub ∧ (t.warp wk).trec.lmask = 1#32 <<< a.lane ∧ (t.warp wk).trec.clane.toNat = a.lane
        ∧ (a.sherr = true → ((s.warp wk).asyncs.erase a).any (·.sherr) = false → (t.warp wk).sherr.taken = true)
        ∧ (t.lane wk a.lane).rpc = (s.lane wk a.lane).pc ∧ (t.lane wk a.lane).rix = 0
        ∧ (t.lane wk a.lane).st = .parked false ∧ t.hbm = s.hbm)
    ∧ (∀ (s : State) wk, (s.warp wk).parking = true → (s.warp wk).closed = true →
      ∃ t, exec (.warpParked wk) s = .next t ∧ (t.warp wk).parked = true ∧ (t.warp wk).parking = false ∧ (t.warp wk).note = true
        ∧ pend t wk = true ∧ t.lanes = s.lanes ∧ t.hbm = s.hbm)
    ∧ (∀ (s : State) wk mask, commandable s wk = true → (s.warp wk).trec.nest = false →
      (∀ l < 32, (s.warp wk).trec.lmask.getLsbD l = true → (s.lane wk l).st = .parked false → mask.getLsbD l = true) →
      ∃ t, exec (.resume wk mask) s = .next t ∧ (t.warp wk).parked = false ∧ (t.warp wk).note = false ∧ pend t wk = false
        ∧ (∀ l < 32, (s.lane wk l).st = .parked false → (t.lane wk l).st = .run
            ∧ ((s.warp wk).trec.lmask.getLsbD l = true → (t.lane wk l).pc = (s.lane wk l).rpc ∧ (t.lane wk l).cix = (s.lane wk l).rix.toNat))
        ∧ ((∀ l < 32, (s.lane wk l).h = false) → (t.warp wk).trec.v = false))
    ∧ (∀ (s : State) wk prv, commandable s wk = true → (s.warp wk).trec.nest = false → (s.warp wk).trec.cause.toNat ≤ 10 →
      ∃ t, exec (.forward wk prv) s = .next t ∧ (t.warp wk).parked = false ∧ (t.warp wk).note = false ∧ pend t wk = false
        ∧ ∀ l < 32, (s.lane wk l).st = .parked false → (t.lane wk l).st = .run
            ∧ ((s.warp wk).trec.lmask.getLsbD l = true → (t.lane wk l).h = true ∧ (t.lane wk l).pv = prv ∧ (t.lane wk l).cix = 0
                ∧ (t.lane wk l).pc = (pcOf (s.warp wk).hbase).add (256 * (s.warp wk).trec.cause.toNat)))
    ∧ (∀ (s : State) wk, commandable s wk = true →
      ∃ t, exec (.kill wk) s = .next t ∧ (t.team (s.warp wk).team).killed = true
        ∧ ∀ k ∈ s.teamWarps (s.warp wk).team, ∀ l < 32, (t.lane k l).st = .exited)

/-! ### Fetching -/

/-- The heddle (R106, R107, R114, R133–R138, R369): one cycle opens the groups of the warp it chooses and lets its bundles issue; with both
paths free the most populous group takes path 0 and the lowest path 1; of two bundles that issue in one cycle the one with the lower key
comes first; a warp that has waited 64 cycles comes first; a header that fails its checks raises ILLEGAL, in its turn among the bundles of
the cycle; a clause opens when its waits hold. Fills bring in lines of code, entries and extents. -/
def Obligations.FetchEvents : Prop :=
  (∀ core part s s1 ws wk gs, let pk := core * 4 + part
      readyWarps s ((s.warps.map (·.1)).filter fun k => wkPk k == pk) = (s1, ws) → chooseWarp s1 ws = some (wk, gs) →
      let z := (openings s1 wk gs).foldl (openGroup wk) s1
      let z2 := z.modWarp wk fun w => { w with since := (z.core (wkCore wk)).cycle.toNat }
      ∃ t, exec (.bundleOpen core part) s = .next t ∧ (∀ n, (t.warp wk).path n = (z.warp wk).path n)
        ∧ t.iq = z.iq ++ (issueOrder z2 wk).map (fun n => (wk, n)) ∧ t.lanes = z.lanes
        ∧ (t.core core).cycle = (z.core core).cycle + (if part = 0 then 1 else 0))
    ∧ (∀ (s : State) wk a b, let w := s.warp wk
      w.path0 = some a → w.path1 = some b → canIssue s w 0 = true → canIssue s w 1 = true → calls s wk a = false → calls s wk b = false →
      issueOrder s wk = if keyLt (bundleKey s wk b) (bundleKey s wk a) then [1, 0] else [0, 1])
    ∧ (∀ core part s e, e ∈ s.warps → wkPk e.1 = core * 4 + part → e.2.wasRdy = true → isForced s e.1 = true →
      exec (.forcedWarp core part) s = .next (heddle s (core * 4 + part)))
    ∧ (∀ (s : State) wk n (g : Grp) h ws, n < 2 → ((openGroup wk s (n, ⟨g, .go h ws⟩)).warp wk).path n =
        some { lanes := g.lanes, hdr := g.pc, hword := h, words := ws, idx := g.cix, outs := [], moved := [], yielded := false
               blocked := none, bad := none })
    ∧ (∀ (s : State) wk n (g : Grp) f, n < 2 → ∃ b, ((openGroup wk s (n, ⟨g, .fault f⟩)).warp wk).path n = some b
        ∧ b.lanes = g.lanes ∧ b.hdr = g.pc ∧ b.nextWord = none ∧ b.bad = some f)
    ∧ (∀ (s : State) wk path b f, openBundle s wk path = some b → b.nextWord = none → b.bad = some f →
      ∃ t, issueNext s wk path = .next t ∧ t = raiseHeader s wk path b ∧ (t.warp wk).path path = none ∧ t.hbm = s.hbm
        ∧ ((s.warp wk).trec.v = false → (∀ l ∈ lanesOf b.lanes, (s.lane wk l).h = false) → (lanesOf b.lanes) ≠ [] →
            (t.warp wk).trec.v = true ∧ (t.warp wk).trec.cause = f.cause.code ∧ (t.warp wk).trec.sub = f.sub
              ∧ (t.warp wk).trec.lmask = b.lanes ∧ (t.warp wk).trec.hdr = b.hdr.word ∧ (t.warp wk).trec.idx = 0))
    ∧ (∀ (s : State) wk gs, (s.warp wk).path0 = none → (s.warp wk).path1 = none → gs ≠ [] →
      ∃ a b, openings s wk gs = (if a.g = b.g then [(0, a)] else [(0, a), (1, b)]) ∧ a ∈ gs ∧ b ∈ gs
        ∧ (∀ g ∈ gs, g.g.size ≤ a.g.size) ∧ ∀ g ∈ gs, keyLt (g.g.key s) (b.g.key s) = false)
    ∧ (∀ (s : State) ws e, chooseWarp s ws = some e → e ∈ ws ∧ ∀ x ∈ ws, isForced s x.1 = true →
        isForced s e.1 = true ∧ (s.warp e.1).stamp ≤ (s.warp x.1).stamp)
    ∧ (∀ (s : State) wk (g : Grp) h ws c, clsOf h = some c →
        (badHeader h = true → headerChecks s wk g h ws = .fault { cause := .illegal, sub := 1 })
          ∧ (badHeader h = false → g.cix < ws.length → (s.warp wk).role.admits c = false →
              headerChecks s wk g h ws = .fault { cause := .illegal, sub := 2 })
          ∧ (badHeader h = false → g.cix < ws.length → (s.warp wk).role.admits c = true → headerChecks s wk g h ws =
              if waitHolds (s.warp wk) h 54 51 46 = true ∧ waitHolds (s.warp wk) h 45 42 37 = true then .go h ws else .wait))
    ∧ (∀ core realm obj line s s1 b, frozenOn s core realm obj line ≠ [] →
      runAcc s (fillWho s core (obj * 2 ^ 34 + line)) (fun st => codeLine st core realm obj line) = (s1, some (.ok (some b))) →
      ∃ t e, exec (.icacheFill core realm obj line) s = .next t ∧ icFind t core realm obj line = some e ∧ e.bytes = b
        ∧ frozenOn t core realm obj line = [])
    ∧ (∀ core realm obj s, let h : Who := ⟨core, .core (core + 64 * 8), (s.core core).tdef.toNat⟩
      let r := runAcc s h fun st => findPair st core realm obj true
      exec (.objectWalk core realm obj) s = .next r.1
        ∧ (∀ e t, r.2 = some (.ok (some (e, t))) → e.view = false →
            (r.1.core core).oc.find? (fun x => x.realm == realm && x.obj == obj) = some e))
    ∧ (∀ die realm obj chunk s c e, (List.range 8).findSome? (fun k => ((s.core (8 * die + k)).oc.find? fun (x : OcEntry) =>
          x.realm == realm && x.obj == obj).map fun x => (8 * die + k, x)) = some (c, e) → e.hm = true → chunk * e.chunk < e.len →
      exec (.extentFill die realm obj chunk) s =
        .next (runAcc s ⟨c, .core (c + 64 * 9), (s.core c).tdef.toNat⟩ fun st => resolveAt st c e (chunk * e.chunk)).1)
    ∧ (∀ (s : State) c (e : OcEntry) k s1 a, e.hm = true → l1Addr s c e k = none → resolveAt s c e k = .ok s1 (some a) → addrOk s1 a = true
        ∧ ∃ x ∈ tget s1.ext (dieOf c) [], x.realm = e.realm ∧ x.obj = e.obj ∧ x.chunk = k / e.chunk)
    ∧ (∀ id s r, s.reqs.find? (fun x => x.id == id && x.line < 2 ^ 50 && agentOf x.line == s.pkg.agent) = some r →
      s.txOf (localOf r.line) = none →
      exec (.localMemoryResponse id) s = .next { s with reqs := s.reqs.filter (fun x => x.id != id), epoch := s.epoch + 1 })
    ∧ (∀ id s r, id < 2 ^ 60 → s.reqs.find? (fun x => x.id == id) = some r → (∃ e ∈ r.waiters, e.2 ≤ s.usec) →
      (∀ e ∈ r.waiters, ∀ d, e.1 ≠ .defer d) →
      ∃ t, exec (.remoteTimeout id) s = .next t ∧ t.hbm = s.hbm
        ∧ t.fails = s.fails ++ ((r.waiters.filter fun e => e.2 ≤ s.usec).map fun e => ⟨e.1, r.line, .timeout⟩)
        ∧ ∀ x ∈ t.reqs, x.id = id → x.waiters = r.waiters.filter fun e => s.usec < e.2)

/-! ### Launching, placement and pre-emption -/

/-- Launching (R69, R77–R88, R309, R407, R408): LAUNCH and LAUNCHI of the leader complete with RETRY or REJECT when acceptance says so,
and with the new grid's number once their walk has ended; a submission is entered, sent back for want of room, or refused; TAKE
accepts the oldest record of a page; PRED_WATCH and COUNT_READ complete what a pending grid waits for; GRID_COMPLETE writes its
record, posts its interrupt and leaves the pending state. -/
def Obligations.LaunchResults : Prop :=
  let leader (s : State) (c : Ctx) (x : Srcs) : Prop :=
    c.active = [0] ∧ (s.warp c.wk).wix = 0 ∧ (s.teamOf c.wk).depth < 10 ∧ readAll s c.wk 0 c.g = .ok x
  let launch (con : SyF → Instr) (ind : Bool) : Prop := ∀ f s c x, Issues s (con f) c → leader s c x →
    (∀ w d p t v, launchWalk s c.wk 0 = some (w, d, p) → w.ended = true → w.fault = none →
        runTry s (whoLane s c.wk 0) (fun st => launchEnd c.wk 0 w d p st (whoLane s c.wk 0)) = (t, some (.ok v)) →
        exec (con f) s = .next (Ended t (con f) c fun _ => .value (Val.int v)))
      ∧ (∀ t r code desc, launchWalk s c.wk 0 = none → r = .retry ∧ code = 0 ∨ r = .reject code desc →
        runTry s (whoLane s c.wk 0) (fun st => acceptance st (leaderOf st c.wk) x.av.bits [x.bv.bits, x.cv.bits] (some ind))
          = (t, some (.ok r)) →
        exec (con f) s = .next (Ended (t.escape (t.warp c.wk).team) (con f) c fun _ =>
          .value (Val.int (launchStatus 0 code (if r = .retry then 1 else 2)))))
  launch .launch false ∧ launch .launchi true
    ∧ (∀ (s : State) ln d preds rec sp ar, ∃ g, tfind (addGrid s ln d preds rec sp ar).1.grids (addGrid s ln d preds rec sp ar).2.toNat = some g
        ∧ g.num = (addGrid s ln d preds rec sp ar).2 ∧ g.desc = d ∧ g.retired = 0 ∧ g.nkill = 0 ∧ g.dealt = false ∧ g.code = none
        ∧ g.parent = ln.team ∧ g.preds = preds
        ∧ g.count = if dIcnt d then none else some (bits (dCount d) 31 0))
    ∧ (∀ d, (dVer d ≠ 1 → descCode d = some 1) ∧ (dVer d = 1 → descReserved d = true → descCode d = some 2)
        ∧ (descCode d = none → 1 ≤ dWpt d ∧ dWpt d ≤ 32 ∧ 8 ≤ dEfd d ∧ dEfd d ≤ dFmax d ∧ dFmax d ≤ 192 ∧ dScrk d ≤ 768))
    ∧ (∀ (s : State) page rec, (rec : List Word).length = 8 → let p := s.pageOf page
      (p.en = true → p.recs.length < 64 → bits (rec.getD 0 0) 7 0 = 1 → ∃ t, exec (.submitDmwr page rec) s = .next t
          ∧ (t.pageOf page).recs = p.recs ++ [rec] ∧ t.out = s.out ++ ([.submit page true] : List Packet) ∧ t.grids = s.grids)
        ∧ (p.en = true → 64 ≤ p.recs.length → exec (.submitDmwr page rec) s = .next (s.send (.submit page false)))
        ∧ (p.en = false → ∃ t, exec (.submitDmwr page rec) s = .next t ∧ (t.pageOf page).badw = true
            ∧ (t.pageOf page).recs = p.recs ∧ t.out = s.out ++ ([.submitUR page] : List Packet)))
    ∧ (∀ (s : State) page, ∃ t, exec (.submitBadWrite page .posted) s = .next t ∧ (t.pageOf page).badw = true
        ∧ (t.pageOf page).recs = (s.pageOf page).recs ∧ t.out = s.out)
    ∧ (∀ (s : State) page rec r, (s.pageOf page).recs = rec :: r → pending s < 4096 → (s.pageOf page).en = true →
      ((s.pageOf page).pwld = true → s.pkg.tdisp = .run) →
      let ln := hostLauncher s (s.pageOf page).prealm (s.pageOf page).pwld
      let h := pageWho s page
      (recReserved rec = true → ∃ t, exec (.take page) s = .next t ∧ (t.pageOf page).recs = r ∧ (t.pageOf page).lrcode = 2
          ∧ (t.pageOf page).taken = (s.pageOf page).taken + 1 ∧ t.grids = s.grids)
        ∧ (∀ s1 d s2 s3, recReserved rec = false → s.fails.find? (fun y => y.who == h.who) = none →
          acceptance s ln (rec.getD 1 0) [rec.getD 2 0, rec.getD 3 0] none = .ok s1 (some (.ok (.go d))) →
          acceptHost s1 page ln rec d h = .ok s2 (some (.ok s3)) → exec (.take page) s = .next (s3.unwait h.who).wake))
    ∧ (∀ (s : State) grid which g ref s1, tfind s.grids grid = some g → g.preds[which]? = some (ref, false) → g.code = none →
      runTry s (dispWho s g.num) (fun st =>
        (refCheck st (gridLauncher s g) (dRealm g.desc) (dWld g.desc) ref 8 64 [rR]).bind fun a c =>
          match c with
          | .stall => .ok a none
          | .fault .. => .ok a (some (.error .poison))
          | .ok p => (pocDwords a p.addr 1).bind fun b v =>
            .ok b (if v.getD 0 0 != 0 && (linesOf p.addr 8).all b.noAcks then some (.ok ()) else none)) = (s1, some (.ok ())) →
      ∃ t x, exec (.predWatch grid which) s = .next t ∧ tfind t.grids g.num.toNat = some x ∧ x.preds = g.preds.set which (ref, true)
        ∧ x.code = none)
    ∧ (∀ (s : State) grid g s1 n, tfind s.grids grid = some g → (∀ e ∈ g.preds, e.2 = true) → g.count = none → g.code = none →
      runTry s (dispWho s g.num) (fun st =>
        (refCheck st (gridLauncher s g) (dRealm g.desc) (dWld g.desc) (dCount g.desc) 4 4 [rR]).bind fun a c =>
          match c with
          | .stall => .ok a none
          | .fault .. => .ok a (some (.ok none))
          | .ok p => (pocRead a p.addr 4).bind fun b v => .ok b (some (.ok (some (ofBytes v))))) = (s1, some (.ok (some n))) →
      ∃ t x, exec (.countRead grid) s = .next t ∧ tfind t.grids g.num.toNat = some x ∧ x.count = some n)
    ∧ (∀ (s : State) grid g s1, tfind s.grids grid = some g → g.isOver = true →
      runTry s (dispWho s g.num) (fun st => putRecord st (gridLauncher st g) (dispWho s g.num) g.desc (gridRecord g)) = (s1, some (.ok true)) →
      ∃ t, exec (.gridComplete grid) s = .next t ∧ tfind t.grids g.num.toNat = none
        ∧ t.out = s1.out ++ (if g.uint then [.irq g.uiaddr g.uidata] else []))
    ∧ (∀ g, g.code = none → g.nkill = 0 → (gridRecord g).headD 0 = g.num ++ 1#32 ∧ (gridRecord g).length = 8)

/-- Placement and retirement (R73, R89–R99, R404, R405): DEAL deals the next ready grid over the eligible positions: team k of n goes to the
k-th of them from the grid's own, modulo their number; an idle core draws a victim, which gives the upper half of a run, or none, and the
thief takes it in or has made one try more; ADMIT makes a team of the head run's first index, and each of its warps stands in its
entry state; TEAM_RETIRE releases a team whose release and arena are done. -/
def Obligations.PlacementResults : Prop :=
  (∀ (s : State) grid g n, tfind s.grids grid = some g → g.count = some (n + 1) → g.isReady = true → g.dealt = false →
      dealsNext s g = true →
      exec (.deal grid) s = .next (wakeCores (dealOut (s.setGrid { g with dealt := true }) { g with dealt := true }
        { grid := g.num, pri := dPri g.desc, aff := dAff g.desc, first := 0, n := n + 1, stride := 1, saved := none })).wake)
    ∧ (∀ n p g m k, m < p → k < n → ((g + k) % p = m ↔ ∃ j < (dealt n p g m).2, k = (dealt n p g m).1 + p * j))
    ∧ (∀ (s : State) core, core < 32 → let c := s.core core
      c.offline = false → c.dying = false → c.queue = [] → 0 < freeSlots s core → c.asleep = false → c.asked = none → c.tries < 4 →
      let v := (xorshift c.xsh).toNat % 32
      ∃ t, exec (.idleSteal core) s = .next t ∧ (t.core core).xsh = xorshift c.xsh
        ∧ (t.core core).asked = (if v = core then none else some v) ∧ ∀ k, k ≠ core → t.core k = s.core k)
    ∧ (∀ (s : State) thief victim, thief ≠ victim → (s.core thief).asked = some victim → (s.core thief).answer = none →
      (pickSteal s victim thief = none → ∃ t, exec (.stealRequest thief victim) s = .next t ∧ (t.core thief).answer = some none
          ∧ (t.core victim) = s.core victim)
        ∧ (∀ r, pickSteal s victim thief = some r → s.back = [] → let m := max 1 (r.n / 2)
          ∃ t, exec (.stealRequest thief victim) s = .next t
            ∧ (t.core thief).answer = some (some { r with first := r.first + r.stride * (r.n - m), n := m })
            ∧ (1 < r.n → (t.core victim).queue = (s.core victim).queue.map fun x => if x = r then { r with n := r.n - m } else x)))
    ∧ (∀ (s : State) core a, (s.core core).answer = some a →
      ∃ t, exec (.stealAnswer core) s = .next t ∧ (t.core core).asked = none ∧ (t.core core).answer = none
        ∧ (∀ r, a = some r → (t.core core).queue = queueTail (s.core core).queue r ∧ (t.core core).tries = 0)
        ∧ (a = none → (t.core core).queue = (s.core core).queue
            ∧ (t.core core).tries = if (s.core core).queue.isEmpty then (s.core core).tries + 1 else 0))
    ∧ (∀ q r, (r : Run) ∈ queueTail q r ∧ ∀ x ∈ q, x ∈ queueTail q r)
    ∧ (∀ (s : State) core r rest g s1, (s.core core).queue = r :: rest → tfind s.grids r.grid.toNat = some g → r.saved = none →
      mayAdmit s core = true →
      failRows s core ⟨g.desc, g.num.toNat, r.first, List.replicate (dWpt g.desc) (granules (dEfd g.desc)), true⟩ none = [] →
      startAcquire s core = (s1, true) →
      ∃ t, exec (.admitHead core) s = .next t ∧ let u := t.team s1.uid
        u.grid = g.num ∧ u.index = BitVec.ofNat 32 r.first ∧ u.core = core ∧ u.realm = dRealm g.desc ∧ u.wld = dWld g.desc
          ∧ u.gfmax = dFmax g.desc ∧ u.bphase = 0 ∧ u.rcc = 0)
    ∧ (∀ d core base tk s w l, l < 32 → let p := (base + w) % 4
      let wk := freeWk s core p
      let t := placeWarp d core base tk s w
      (t.lane wk l).st = .run ∧ (t.lane wk l).pc = pcOf (dEntry d) ∧ (t.lane wk l).cix = 0 ∧ (t.lane wk l).p = 0
        ∧ (t.lane wk l).q = List.replicate 16 Val.zero ∧ (t.lane wk l).h = false ∧ (t.lane wk l).getG 0 = (if dArgs d = 0 then Val.zero else ⟨dArgs d, true⟩)
        ∧ (t.frameOf wk l).demand = dEfd d ∧ (t.frameOf wk l).depth = 0 ∧ (t.frameOf wk l).loc = .resident (s.freeFid (core * 4 + p))
        ∧ (∀ n, (t.frameOf wk l).reg n l = ⟨0, .full⟩) ∧ (t.warp wk).team = tk ∧ (t.warp wk).wix = w ∧ (t.warp wk).hbase = dHbase d
        ∧ (∀ k m, m < 32 → k ≠ wk → t.lane k m = s.lane k m))
    ∧ (∀ (s : State) tk s1 s2 vs, mayRetire s tk = true → endRelease s (retireWho s tk) tk = (s1, none) →
      runAcc s1 (retireWho s tk) (fun st => resetArena st (retireWho s tk) (st.team tk) false) = (s2, some (.ok vs)) →
      exec (.teamRetire tk) s = .next (retireTeam s2 tk (!vs.isEmpty)).wake ∧ tfind (retireTeam s2 tk (!vs.isEmpty)).teams tk = none)

/-- Pre-emption and user interrupts (R384, R389–R394, R397, R399–R401): PRGO quiesces the team that PRTEAM names, or gives NOTEAM;
QUIESCE_DONE takes rows 2 to 4 of R390 in order for a team that has not exited; DRAIN_REQUIESCE and VICTIM_SKIP_EXPIRE act once their
cycles have passed; FLUSH_DONE and SAVE_DONE release the team and put it at the head of its class, RESTORE brings it back; UINTR_DELIVER
takes the oldest interrupt to the USERINT handler; UIDB posts one or counts it as dropped. The model's choice: SAVE_DONE leaves the core's L1
empty once it has written it back (log 41), and RESTORE begins with an acquire at package scope (log 40). -/
def Obligations.PreemptResults : Prop :=
  (∀ (s : State) core, (s.core core).page.prbusy = false →
      (∀ e ∈ residents s core none, e.2.handle ≠ (s.core core).page.prteam) →
      ∃ t, exec (.prgo core) s = .next t ∧ (t.core core).page.prres = 5 ∧ (t.core core).page.prbusy = false ∧ t.teams = s.teams)
    ∧ (∀ (s : State) core tk u, (s.core core).page.prbusy = false → (s.core core).preempt = none →
      (residents s core none).find? (fun e => e.2.handle == (s.core core).page.prteam) = some (tk, u) →
      ∃ t, exec (.prgo core) s = .next t ∧ (t.core core).page.prbusy = true ∧ (t.team tk).phase = .quiescing
        ∧ (t.core core).preempt = some ⟨tk, none⟩)
    ∧ (∀ (s : State) tk, (s.team tk).phase = .quiescing → (∀ wk ∈ s.teamWarps tk, (s.warp wk).closed = true) →
      exec (.quiesceDone tk) s = .next (choose s tk).wake)
    ∧ (∀ (s : State) tk g, let t := s.team tk
      tfind s.grids t.grid.toNat = some g → teamExited s tk = false →
      (nearlyDone t (dBudget g.desc) = true → ((choose s tk).team tk).phase = .draining (s.core t.core).cycle.toNat)
        ∧ (nearlyDone t (dBudget g.desc) = false → t.escaped = false → dRst g.desc = true →
            ((choose s tk).team tk).phase = .flushing)
        ∧ (∀ a, nearlyDone t (dBudget g.desc) = false → t.escaped = true ∨ dRst g.desc = false →
            findArea s (areaSize s tk) = some a →
            ((choose s tk).team tk).phase = .saving))
    ∧ (∀ (s : State) tk n, (s.team tk).phase = .draining n → n + 65536 ≤ (s.core (s.team tk).core).cycle.toNat →
      ∃ t, exec (.drainRequiesce tk) s = .next t ∧ (t.team tk).phase = .quiescing)
    ∧ (∀ (s : State) core tk e, e ∈ (s.core core).skip → e.1 = tk → e.2.2 ≤ (s.core core).cycle.toNat →
      ∃ t, exec (.victimSkipExpire core tk) s = .next t
        ∧ ∀ x, x ∈ (t.core core).skip ↔ x ∈ (s.core core).skip ∧ (x.1 = tk → (s.core core).cycle.toNat < x.2.2))
    ∧ (∀ (s : State) tk s1 vs, (s.team tk).phase = .flushing → teamExited s tk = false → noCommands s (s.team tk).core tk true = true →
      noEntries s (s.team tk).core tk = true →
      runAcc s (retireWho s tk) (fun st => resetArena st (retireWho s tk) (s.team tk) true) = (s1, some (.ok vs)) →
      exec (.flushDone tk) s = .next (flushTeam s1 tk (!vs.isEmpty)).wake ∧ tfind (flushTeam s1 tk (!vs.isEmpty)).teams tk = none)
    ∧ (∀ (s : State) tk s1 a, (s.team tk).phase = .saving → teamExited s tk = false → quiet s (s.team tk).core tk = true →
      s.fails.find? (fun x => x.who == (retireWho s tk).who) = none →
      backAll s (retireWho s tk) (toBack s tk (s.core (s.team tk).core).l1) = (s1, none) → findArea s1 (areaSize s1 tk) = some a →
      exec (.saveDone tk) s = .next (saveTeam (s1.modCore (s.team tk).core fun c => { c with l1 := [] }) tk a).wake)
    ∧ (∀ (s : State) tk b, let t := s.team tk
      ((flushTeam s tk b).core t.core).queue = queueHead (s.core t.core).queue (teamRun t (teamAff s t) none))
    ∧ (∀ (s : State) tk a, let t := s.team tk
      ((saveTeam s tk a).core t.core).queue = queueHead (s.core t.core).queue (teamRun t (teamAff s t) (some tk)))
    ∧ (∀ (s : State) core r rest tk g s1 s2 ws, (s.core core).queue = r :: rest → r.saved = some tk → tfind s.grids r.grid.toNat = some g →
      mayAdmit s core = true →
      let t := s.team tk
      let curs := (List.range t.wpt).map (currentFrames s (t.saves.getLast?.getD ⟨0, 0⟩).base t)
      failRows s core ⟨g.desc, g.num.toNat, r.first, curs.map (fun ks => (ks.map fun k => granules (s.frame k).demand).sum), false⟩
        none = [] →
      startAcquire s core = (s1, true) →
      runAcc s1 (queueWho s1 core) (fun st => frameWords st core t curs.flatten) = (s2, some (.ok (.ok ws))) →
      exec (.restore core) s = .next (drainBack ((restoreTeam (dropOldCode s2 core g) core tk g.desc ws).modCore core fun c =>
        { c with queue := rest, lastAdm := some c.cycle.toNat })).wake)
    ∧ (∀ (s : State) core tk d ws, (s.team tk).reqs = [] → let z := (restoreTeam s core tk d ws).team tk
        z.phase = .running ∧ z.core = core ∧ z.reqs = [] ∧ z.limbo = [])
    ∧ (∀ (s : State) tk src dat rest wk l0 ls s1, (s.team tk).uiq = (src, dat) :: rest → uiTarget s tk = some wk →
      (List.range 32).filter (fun l => (s.lane wk l).st == .run && (s.lane wk l).cix == 0) = l0 :: ls →
      (s.team tk).uien = true → (s.team tk).phase = .running → (s.warp wk).closed = true → (s.warp wk).parked = false →
      (s.warp wk).parking = false → (s.warp wk).trec.v = false → acquireAct s (whoLane s wk l0) 1 = (s1, none) →
      ∃ t, exec (.uintrDeliver tk) s = .next t ∧ (t.team tk).uiq = rest ∧ (t.warp wk).trec.v = true
        ∧ (t.warp wk).trec.cause = 9 ∧ (t.warp wk).trec.usrc = src ∧ (t.warp wk).trec.udat = dat
        ∧ (t.warp wk).trec.lmask = maskOf (l0 :: ls)
        ∧ ∀ l ∈ l0 :: ls, (t.lane wk l).h = true ∧ (t.lane wk l).pv = false ∧ (t.lane wk l).rpc = (s.lane wk l).pc
            ∧ (t.lane wk l).rix = 0 ∧ (t.lane wk l).cix = 0)
    ∧ (∀ (s : State) h dat tk t, bits h 31 21 = s.pkg.agent → s.teams.find? (fun e => e.2.handle == h) = some (tk, t) → t.uiq.length < 8 →
      ∃ z, exec (.uidb h dat) s = .next z ∧ (z.team tk).uiq = t.uiq ++ [(0xFFFFFFFF, dat)] ∧ z.pkg = s.pkg)
    ∧ (∀ (s : State) h dat, bits h 31 21 ≠ s.pkg.agent →
      exec (.uidb h dat) s = .next { s with pkg := { s.pkg with uidrop := s.pkg.uidrop + 1 } })

/-! ### Coherence -/

/-- Requests at the home (R329, R331–R336, R342, R349, R351, R438): what the home of an idle line answers in each of its states, what its
directory says afterwards, and which bytes of memory stay; requests of a fenced agent are dropped, those of a cell outside the
selvedge set are refused with no other effect, those behind a busy line wait, but for the write-back of a host that owns it, and those
into the secure region from a package that keeps no secure world get Poison; a host's read of that region gets the poison indicator, and
its write is discarded and counted. Of every request served or refused the home keeps the cell id that it carries. The model's choice: WbAck
answers ClrP (log 16), Grant carries FMT and SCALE of the line (log 76), a block copy's request is marked above its cell id (log 88), and
which package keeps a secure world, and what is kept of a cell id (log 20). -/
def Obligations.HomeRequests : Prop :=
  let kept (s : State) (i : Instr) : State := noteCell s (reqSrc i) (cellId i)
  let home (s : State) (i : Instr) (l : Nat) : Prop :=
    reqSrc i ∉ s.pkg.fenced ∧ reqSrc i ∉ s.pkg.marks ∧ agentOf (reqLine i) = s.pkg.agent ∧ localOf (reqLine i) = l
      ∧ inSecure s l = false
  let idle (s : State) (i : Instr) (l : Nat) : Prop := home s i l ∧ s.txOf l = none ∧ (kept s i).recover l = kept s i
    ∧ (∀ c, reqCell i = some c → noCell ≤ c ∨ s.admits l c = true)
    ∧ (needsEntry i = true → s.noAcks (reqLine i) = true) ∧ s.holdsReq (reqLine i) = false ∧ s.hostOwns i l = false
    ∧ (needsEntry i = true → s.setFull l = false ∨ s.dir l = 3 ∧ ∀ src cell line, i ≠ .wrfull src cell line)
  let owned (s t : State) (l src : Nat) (drt : Bool) : Prop :=
    t.dir l = 2 ∧ t.holder l = some (.ptrs (rhtTag l) (some 0) drt [src]) ∧ ∀ a, t.hbm.byte a = s.hbm.byte a
  let answers (s : State) (i : Instr) (p : List Packet) (post : State → Prop) : Prop :=
    ∃ t, exec i s = .next t ∧ t.out = s.out ++ p ∧ t.pkg = (kept s i).pkg ∧ post t
  let busy (s : State) (l : Nat) (t : State) : Prop := (t.txOf l).isSome = true ∧ t.hbm = s.hbm ∧ t.rht = s.rht
  let same (s t : State) : Prop := t.hbm = s.hbm ∧ t.rht = s.rht
  (∀ (s : State) src cell line l, idle s (.rds ⟨src, cell⟩ line) l → let i : Instr := .rds ⟨src, cell⟩ line
      (s.dir l = 0 → answers s i [.data line src .excl 0 (s.hbm.line l)] fun t => owned s t l src false)
        ∧ (∀ tg o d ps, s.dir l = 1 → s.holder l = some (.ptrs tg o d ps) → src ∉ ps → ps.length < 4 →
            answers s i [.data line src .shared 0 (s.hbm.line l)] fun t =>
              t.holder l = some (.ptrs tg o d (ps ++ [src])) ∧ t.hbm = s.hbm)
        ∧ (∀ tg d q, s.dir l = 2 → s.holder l = some (.ptrs tg (some 0) d [q]) → answers s i [.fwds line q src] (busy s l))
        ∧ (s.dir l = 3 → answers s i [.poison line src] (same s)))
    ∧ (∀ (s : State) src cell line l (con : Nat → Nat → Nat → Instr), con = .rdx ∨ con = .upg → idle s (con src cell line) l →
      let i := con src cell line
      (s.dir l = 0 → answers s i [.data line src .modified 0 (s.hbm.line l)] fun t => owned s t l src true)
        ∧ (∀ tg d q, s.dir l = 2 → s.holder l = some (.ptrs tg (some 0) d [q]) → answers s i [.fwdx line q src 0] (busy s l))
        ∧ (∀ tg d ps, s.dir l = 1 → s.holder l = some (.ptrs tg none d ps) → (∀ a ∈ ps, a < 2000) →
            let others := ps.filter (· != src)
            answers s i (others.map (fun a => .inv line a src)
                ++ [if i = .upg src cell line ∧ src ∈ ps then .grant line src others.length (s.metaOf l)
                    else .data line src .modified others.length (s.hbm.line l)]) fun t => owned s t l src true)
        ∧ (s.dir l = 3 → answers s i [.poison line src] (same s)))
    ∧ (∀ (s : State) src cell line l, idle s (.wrfull src cell line) l → let i : Instr := .wrfull src cell line
      (s.dir l = 0 ∨ s.dir l = 3 → answers s i [.grant line src 0 (s.metaOf l)] fun t => owned s t l src true)
        ∧ (∀ tg d ps, s.dir l = 1 → s.holder l = some (.ptrs tg none d ps) → (∀ a ∈ ps, a < 2000) →
            let others := ps.filter (· != src)
            answers s i (others.map (fun a => .inv line a src) ++ [.grant line src others.length (s.metaOf l)]) fun t =>
              owned s t l src true)
        ∧ (∀ tg d q, s.dir l = 2 → s.holder l = some (.ptrs tg (some 0) d [q]) →
            answers s i [.fwdx line q src 0, .grant line src 0 []] (busy s l)))
    ∧ (∀ (s : State) src cell line l wr, idle s (.rdu src cell line wr) l →
      answers s (.rdu src cell line wr) [if s.dir l = 3 then .poison line src else .data line src .inv 0 (s.hbm.line l)] (same s))
    ∧ (∀ (s : State) src cell a l, idle s (.rdnc ⟨src, cell⟩ a) l → answers s (.rdnc ⟨src, cell⟩ a)
        [if s.dir l = 3 then .poison (a / 128) src else .word a src (s.hbm.readWord (a % 2 ^ 40 / 8 * 8))] (same s))
    ∧ (∀ (s : State) src cell line l m k d, idle s (.wbu src cell line ⟨m, k⟩ d) l → answers s (.wbu src cell line ⟨m, k⟩ d) [] fun t =>
        t.rht = s.rht ∧ ∀ a, (a / 128 ≠ l ∨ m.getLsbD (a % 128) = false) → t.hbm.byte a = s.hbm.byte a)
    ∧ (∀ (s : State) src cell line l tg o d, idle s (.evs ⟨src, cell⟩ line) l → s.dir l = 1 → s.holder l = some (.ptrs tg o d [src]) →
      answers s (.evs ⟨src, cell⟩ line) [] fun t => t.dir l = 0 ∧ t.holder l = none ∧ ∀ a, t.hbm.byte a = s.hbm.byte a)
    ∧ (∀ (s : State) src cell line l tg d dat, idle s (.wbm ⟨src, cell⟩ line dat) l → s.dir l = 2 →
      s.holder l = some (.ptrs tg (some 0) d [src]) →
      answers s (.wbm ⟨src, cell⟩ line dat) [.wback line src] fun t => t.dir l = 0 ∧ t.holder l = none
        ∧ ∀ a, a / 128 ≠ l → t.hbm.byte a = s.hbm.byte a)
    ∧ (∀ (s : State) src cell line l tg d, idle s (.dirty ⟨src, cell⟩ line) l → s.dir l = 2 → s.holder l = some (.ptrs tg (some 0) d [src]) →
      answers s (.dirty ⟨src, cell⟩ line) [.dirtyack line src] fun t =>
        t.holder l = some (.ptrs tg (some 0) true [src]) ∧ t.hbm = s.hbm)
    ∧ (∀ (s : State) src cell line l, idle s (.clrp ⟨src, cell⟩ line) l → answers s (.clrp ⟨src, cell⟩ line) [.wback line src] fun t =>
        t.dir l = (if s.dir l = 3 then 0 else s.dir l) ∧ ∀ a, t.hbm.byte a = s.hbm.byte a)
    ∧ (∀ (s : State) i c l, home s i l → s.txOf l = none → reqCell i = some c → c < noCell → s.admits l c = false →
      homeRow s i = .next ((kept s i).send (.refuse (reqLine i) (reqSrc i))).wake)
    ∧ (∀ (s : State) i l x, home s i l → s.txOf l = some x → s.hostWb i l = false →
      homeRow s i = .next ((kept s i).queueTx l i).wake)
    ∧ (∀ (s : State) src cell line l x tg o d ps dat, let i : Instr := .wbm ⟨src, cell⟩ line dat
      home s i l → s.txOf l = some x → 2000 ≤ src → s.holder l = some (.ptrs tg (some o) d ps) → ps[o]? = some src →
      s.dir l = 2 → answers s i [.wback line src] fun t => (t.txOf l).isSome = true ∧ (∀ k < 128, dat.bytes.length = 128 →
          t.hbm.byte (128 * l + k) = dat.bytes.getD k 0) ∧ ∀ a, a / 128 ≠ l → t.hbm.byte a = s.hbm.byte a)
    ∧ (∀ (s : State) i, reqSrc i ∈ s.pkg.fenced → homeRow s i = .next s)
    ∧ (∀ (s : State) i, reqSrc i ∉ s.pkg.fenced → agentOf (reqLine i) = s.pkg.agent → inSecure s (localOf (reqLine i)) = true → reqSrc i < 2000 →
      (Config.secureAgent (reqSrc i) = true → homeRow s i = .next (echoMarks s.out.length ((kept s i).serve i)).wake)
        ∧ (Config.secureAgent (reqSrc i) = false → reqSrc i ∉ s.pkg.marks →
          homeRow s i = .next ((kept s i).send (.poison (reqLine i) (reqSrc i)))))
    ∧ (∀ (s : State) src cell line dat, src ∉ s.pkg.fenced → src ∉ s.pkg.marks → agentOf line = s.pkg.agent →
      inSecure s (localOf line) = true → 2000 ≤ src →
      exec (.rds ⟨src, cell⟩ line) s = .next (s.send (.poison line src)).wake
        ∧ exec (.wbm ⟨src, cell⟩ line dat) s =
          .next ({ s with pkg := { s.pkg with herrW := s.pkg.herrW + 1 } }.send (.wback line src)).wake)

/-- Messages at an agent (R334–R340, R342, R346, R347, R349, R351, R360): an invalidation drops the copy and is acknowledged; a forward is
answered by the owner's copy, E or M, and held while acknowledgements are owed; a designated neighbour answers both for a dead agent;
Data, forwarded data, and the Grant of a line of which a copy is held, install the line and end the request, with the acknowledgements
still to come; each acknowledgement counts; a refusal or a poison fails the request for its waiters; a message of a fenced agent counts
for nothing. The model's choice: WBReq is held like a forward (log 48), FwdAck answers an invalidating one with data (log 49), Grant carries
FMT and SCALE (log 76), Data that an Inv or a forward has overtaken is asked for again (log 91), a Miss of an owner with DRT 1 is
answered by the same forward (log 92), and a holder that loses a dirty line tells its home with Poison (log 97). -/
def Obligations.AgentMessages : Prop :=
  let copy (s : State) (line : Nat) : Option Copy := tfind s.copies line
  let live (s : State) (line : Nat) : Prop := agentOf line ∉ s.pkg.fenced
  let plain (s : State) (line : Nat) : Prop := live s line ∧ agentOf line ∉ s.pkg.fmarks
  let none_ (s : State) (line : Nat) : Prop := ∀ f ∈ s.fwds, f.1 ≠ line
  let own (s : State) (line : Nat) (st : LineState) (c : Copy) : Prop := copy s line = some c ∧ c.st = st ∧ none_ s line
  let sent (s : State) (i : Instr) (line : Nat) (p : List Packet) (st : Option LineState) : Prop :=
    ∃ t, exec i s = .next t ∧ t.out = s.out ++ p ∧ (copy t line).map Copy.st = st ∧ t.hbm = s.hbm
      ∧ ∀ k, k ≠ line → copy t k = copy s k
  let got (s : State) (i : Instr) (r : Req) (st : LineState) (ac : Nat) (d : LineData) : Prop :=
    ∃ t, exec i s = .next t ∧ copy t r.line = some ⟨st, d⟩ ∧ (∀ x ∈ t.reqs, x.id ≠ r.id)
      ∧ (s.noAcks r.line = true → ac ≠ 0 → ∃ a ∈ t.acks, a.line = r.line ∧ a.count = ac)
  let fails (s : State) (i : Instr) (line : Nat) (r : Req) (why : RemoteFail) : Prop :=
    ∃ t, exec i s = .next t ∧ t.fails = s.fails ++ r.waiters.map (fun e => ⟨e.1, line, why⟩) ∧ (∀ x ∈ t.reqs, x.id ≠ r.id)
  (∀ (s : State) line col, live s line →
      (agentOf line ∉ s.pkg.fmarks → sent s (.inv ⟨line, s.pkg.agent⟩ col) line [.invack line col] none)
        ∧ (agentOf line ∈ s.pkg.fmarks → sent s (.inv ⟨line, s.pkg.agent⟩ col) line [.invack line col, .marked line col] none))
    ∧ (∀ (s : State) line req c, s.owesAcks line = false → plain s line →
      (own s line .excl c → sent s (.fwds ⟨line, s.pkg.agent⟩ req) line
          [.fwddata line req .shared 0 c.data, .fwdack line (agentOf line) false c.data] (some .shared))
        ∧ (own s line .modified c → sent s (.fwds ⟨line, s.pkg.agent⟩ req) line
          [.fwddata line req .shared 0 c.data, .fwdack line (agentOf line) true c.data] (some .owned))
        ∧ (own s line .owned c → sent s (.fwds ⟨line, s.pkg.agent⟩ req) line
          [.fwddata line req .shared 0 c.data, .fwdack line (agentOf line) false c.data] (some .owned)))
    ∧ (∀ (s : State) line req ac c st, s.owesAcks line = false → plain s line → st = .excl ∨ st = .modified ∨ st = .owned → own s line st c →
      sent s (.fwdx ⟨line, s.pkg.agent⟩ req ac) line
        [.fwddata line req .modified ac c.data, .fwdack line (agentOf line) false c.data] none)
    ∧ (∀ (s : State) line c, s.owesAcks line = false → plain s line → own s line .modified c →
      sent s (.wbreq ⟨line, s.pkg.agent⟩ true) line [.fwdack line (agentOf line) true c.data] none)
    ∧ (∀ (s : State) line f, s.owesAcks line = true → live s line →
      fwdRow s ⟨line, s.pkg.agent⟩ f = .next { s with fwds := s.fwds ++ [(line, f)], epoch := s.epoch + 1 })
    ∧ (∀ (s : State) line col dst f, plain s line → dst ≠ s.pkg.agent → dst ∈ s.pkg.fenced →
      exec (.inv ⟨line, dst⟩ col) s = .next (s.send (.invack line col)) ∧ fwdRow s ⟨line, dst⟩ f = .next (s.send (.miss line (agentOf line))))
    ∧ (∀ (s : State) line ac d r src, live s line → src ∉ s.pkg.fenced → none_ s line → (roomForCopy s line).isSome = true →
      let free : Prop := ∀ c, copy s line = some c → c.st = .inv
      (∀ st, st = .shared ∧ r.inv = false ∨ st = .excl ∧ r.gone = false → free → findReq s line (fun k => k == .rds) = some r →
          got s (.data line st ac d) r st ac d)
        ∧ (free → r.inv = false → findReq s line (fun k => k == .rds) = some r →
          got s (.fwddata ⟨line, src⟩ .shared ac d) r .shared ac d)
        ∧ (∀ c st, copy s line = some c → c.st ≠ .inv → st = .shared ∨ st = .excl → findReq s line (fun k => k == .rds) = some r →
          ∃ t, exec (.data line st ac d) s = .next t ∧ copy t line = some c ∧ ∀ x ∈ t.reqs, x.id ≠ r.id)
        ∧ (free → r.inv = true → r.waiters ≠ [] → findReq s line (fun k => k == .rds) = some r →
          ∃ t, exec (.data line .shared ac d) s = .next t ∧ copy t line = copy s line
            ∧ ∃ x ∈ t.reqs, x.id = r.id ∧ x.line = line ∧ x.inv = false ∧ x.waiters = r.waiters)
        ∧ (findReq s line DReq.owns = some r → got s (.data line .modified ac d) r .modified ac d
          ∧ ∀ c md, copy s line = some c → got s (.grant line ⟨ac, md⟩) r .modified ac c.data)
        ∧ (findReq s line (fun k => k.owns && k != .wrfull) = some r →
          got s (.fwddata ⟨line, src⟩ .modified ac d) r .modified ac d)
        ∧ (findReq s line DReq.untracked = some r → ∃ t, exec (.data line .inv ac d) s = .next t ∧ copy t line = copy s line
          ∧ (∀ e ∈ r.waiters, ∃ x ∈ t.transit, x.who = e.1 ∧ x.line = r.line
              ∧ x.data = r.newer.foldl (fun y p => lineMerge y p.data p.mask p.words p.blks) d)))
    ∧ (∀ (s : State) line a src, agentOf line ≠ s.pkg.agent → src ∉ s.pkg.fenced → none_ s line →
      s.acks.find? (fun x => x.line == line) = some a → a.count = 1 →
      ∃ t, exec (.invack ⟨line, src⟩) s = .next t ∧ t.noAcks line = true)
    ∧ (∀ (s : State) line a, live s line → none_ s line →
      s.acks.find? (fun x => x.line == line && x.dirties != 0) = some a → s.acks = [a] → a.count = 1 →
      ∃ t, exec (.dirtyack line) s = .next t ∧ t.noAcks line = true)
    ∧ (∀ (s : State) line cell d tg o dr q src me, let l := localOf line
      agentOf line = s.pkg.agent → q ≠ src → me ∉ s.pkg.fenced → q ∉ s.pkg.fenced →
      s.homeTx = [{ line := l, what := .request (.rds ⟨src, cell⟩ line), owe := [], reply := true, queue := [] }] →
      s.dir l = 2 → s.holder l = some (.ptrs tg (some o) dr [q]) →
      (∃ t, exec (.fwdack ⟨line, me⟩ true d) s = .next t ∧ t.txOf l = none ∧ t.holder l = some (.ptrs tg (some o) true [q, src]))
        ∧ (dr = false → ∃ t, exec (.miss ⟨line, me⟩) s = .next t ∧ t.txOf l = none ∧ t.dir l = 2)
        ∧ (dr = true → o = 0 → ∃ t, exec (.miss ⟨line, me⟩) s = .next t ∧ t.txOf l = s.txOf l ∧ t.dir l = 2
            ∧ t.out = s.out ++ ([.fwds line q src] : List Packet)))
    ∧ (∀ (s : State) line e, live s line → s.wbuf = [e] → e.line = line →
      ∃ t, exec (.wback line) s = .next t ∧ t.wbuf = [] ∧ t.copies = s.copies)
    ∧ (∀ (s : State) line r, (live s line → findReq s line (fun k => k.owns && k != .copyx || k == .rdu true) = some r →
          fails s (.refuse line) line r .firewall)
        ∧ (agentOf line ≠ s.pkg.agent → findReq s line (fun _ => true) = some r → fails s (.poison line) line r .poison)
        ∧ (agentOf line = s.pkg.agent → ∃ t, exec (.poison line) s = .next t ∧ t.dir (localOf line) = 3 ∧ t.holder (localOf line) = none
            ∧ copy t line = none ∧ ∀ a, t.hbm.byte a = s.hbm.byte a))
    ∧ (∀ (s : State) line st ac d md dirty src, (agentOf line ∈ s.pkg.fenced → exec (.data line st ac d) s = .next s
          ∧ exec (.grant line ⟨ac, md⟩) s = .next s ∧ exec (.inv ⟨line, s.pkg.agent⟩ ac) s = .next s)
        ∧ (src ∈ s.pkg.fenced → exec (.fwddata ⟨line, src⟩ st ac d) s = .next s ∧ exec (.invack ⟨line, src⟩) s = .next s
          ∧ exec (.fwdack ⟨line, src⟩ dirty d) s = .next s ∧ exec (.miss ⟨line, src⟩) s = .next s))

/-- Selvedge, death and recovery (R341, R343, R348–R351): SELVEDGE_CHANGE writes the page's byte and takes every line of the page that a
cell which it now excludes owns from its owner, or reports that there is none; a neighbour silent for 50 µs on every link is declared dead; the
packages of the cells of those that a notice names are fenced, and this package gives up its copies, write-backs and L1 lines of lines
homed there; the scan makes a line of a dead owner that may have been written P, and takes it out of every L1, and frees any other. The model's choice:
the packages of a dead cell are those routed or seen with its cell id (log 20), a change counts against every set since the last complete
one (log 68), and the notice says how many acknowledgements of lines
homed elsewhere the dead owe (log 46). -/
def Obligations.DeathRecovery : Prop :=
  (∀ (s : State) page idx, let z := setPage s page idx
    ∃ t, exec (.selvedgeChange page idx) s = .next t ∧ tget t.selPg page 0 = idx
      ∧ (excluded z page = [] → t.out = s.out ++ ([.ocposan "selvedge change complete"] : List Packet))
      ∧ (∀ l ∈ excluded z page, (t.txOf l).isSome = true) ∧ t.hbm = s.hbm ∧ t.rht = s.rht)
    ∧ (∀ (s : State) a owed, (∃ e ∈ s.ports, e.2.peer = some a) → a ∉ s.pkg.fenced →
      (∀ e ∈ s.ports, e.2.peer = some a → e.2.heard + 50 ≤ s.usec) →
      let dead := s.deadCells [a]
      exec (.deathDeclare ⟨a, owed⟩) s = .next (scanDone (fence (forgive (s.send (.death [a])) dead owed) dead)).wake)
    ∧ (∀ (s : State) agents routes owed, s.deadCells agents ≠ [] →
      ∃ t, exec (.deathNotice agents ⟨routes, owed⟩) s = .next t
        ∧ (∀ b, b ∈ t.pkg.fenced ↔ b ∈ s.pkg.fenced ∨ b ∈ s.deadCells agents)
        ∧ (∀ a ∈ s.deadCells agents,
          (∀ e ∈ t.copies, e.1 < 2 ^ 50 → agentOf e.1 ≠ a) ∧ (∀ e ∈ t.wbuf, e.line < 2 ^ 50 → agentOf e.line ≠ a)
            ∧ (∀ e ∈ t.cores, ∀ x ∈ e.2.l1, x.line < 2 ^ 50 → agentOf x.line ≠ a))
        ∧ (s.homeTx = [] → s.acks = [] → t.hbm = s.hbm))
    ∧ (∀ (s : State) agents a, a ∈ s.deadCells agents ↔ a ≠ s.pkg.agent ∧ a < 2000
        ∧ (a ∈ agents ∨ (a ∈ s.pkg.routes.map (·.1) ∨ a ∈ s.pkg.seen.map (·.1)) ∧ ∃ d ∈ agents, s.cellOf d = s.cellOf a))
    ∧ (∀ (s : State) line tg d q, let l := localOf line
      s.holder l = some (.ptrs tg (some 0) d [q]) → q ∈ s.pkg.fenced → s.txOf l = none →
      ∃ t, exec (.recoveryScan line) s = .next t ∧ t.holder l = none ∧ t.dir l = (if d then 3 else 0)
        ∧ (d = true → ∀ e ∈ t.cores, ∀ x ∈ e.2.l1, x.line ≠ s.lineOf l) ∧ ∀ a, t.hbm.byte a = s.hbm.byte a)

/-! ### Fabric, host link, boot and the supervisor cores -/

/-- Ports and the host link (R344, R345, R353–R359, R362–R364): a port trains to the width that its lanes and WCAP allow; heartbeats are
sent every 10 µs and a link silent for 50 is marked; a packet for which no detour is taken leaves by the port that its route names, on
an adaptive channel that has room or else on the escape sub-channel of its hop, and is marked over a deep queue; a detour needs a queue
more than twice as deep and 32 flits over; rates rise by 1/64; a snoop gives the half's state, and its bytes if it is dirty; the host's
answer installs a half that was asked for ownership; the host reads memory at its home, and its writes, which clear tags, are performed
there and answered when no acknowledgement of them is owed. The model's choice: the unit and the step of a rate (log 57), and that the room
of an adaptive channel is a free value (log 55). -/
def Obligations.FabricResults : Prop :=
  let on (s : State) : Prop := s.pkg.fwst = .ready ∧ s.pkg.stopped = false
  let port (s : State) (i : Instr) (n : Nat) (q : Port → Prop) : Prop := ∃ t, exec i s = .next t ∧ q (t.port n)
    ∧ (∀ k, k ≠ n → t.port k = s.port k) ∧ t.hbm = s.hbm ∧ t.pkg = s.pkg
  (∀ (s : State) n peer ver, on s → n < 36 → (s.port n).up = false → (s.port n).pick ≠ 0 → ver ≠ 0 → port s (.linkUp n peer ver) n fun p =>
      p.up = true ∧ p.peer = some peer ∧ p.tlv = 1 ∧ p.width = (s.port n).pick ∧ p.heard = s.usec)
    ∧ (∀ (p : Port), p.pick.toNat ≤ p.wcap.toNat ∧ (p.goodLanes = 4 → p.wcap = 3 → p.pick = 3)
        ∧ (p.goodLanes = 3 ∨ p.goodLanes = 2 → 2 ≤ p.wcap.toNat → p.pick = 2) ∧ (p.goodLanes = 0 → p.pick = 0))
    ∧ (∀ (s : State) n lanes, port s (.laneFailure n lanes) n fun p => p.bad = (s.port n).bad ||| lanes % 16)
    ∧ (∀ (s : State) n, (s.port n).up = true → (s.port n).rtrn = true ∨ (s.port n).width ≠ (s.port n).pick →
      port s (.widthChange n) n fun p => p.width = (s.port n).pick ∧ p.rtrn = false ∧ (p.up = true ↔ (s.port n).pick ≠ 0))
    ∧ (∀ (s : State) n, port s (.rtrn n) n fun p => p = { s.port n with rtrn := true })
    ∧ (∀ (s : State) n, exec (.flitReplay n) s = .next s)
    ∧ (∀ (s : State) n, on s → (s.port n).up = true → (s.port n).sent + 10 ≤ s.usec →
      ∃ t, exec (.heartbeatSend n) s = .next t ∧ t.out = s.out ++ ([.heartbeat n] : List Packet) ∧ (t.port n).sent = s.usec)
    ∧ (∀ (s : State) n, (s.port n).up = true → (∀ a, (s.port n).peer = some a → a ∉ s.pkg.fenced) → port s (.heartbeat n) n fun p =>
      p.heard = s.usec ∧ p.hbl = false)
    ∧ (∀ (s : State) n, (s.port n).up = true → (s.port n).hbl = false → (s.port n).heard + 50 ≤ s.usec →
      port s (.heartbeatLoss n) n fun p => p.hbl = true)
    ∧ (∀ (s : State) src dst cls flits hop mark, src ∉ s.pkg.fenced → dst ≠ s.pkg.agent → (s.route dst).getLsbD 63 = true →
      (s.port (s.mport dst)).usable = true →
      let p := s.mport dst
      let leaves (esc : Bool) (chan : Nat) : Prop := ∃ t, exec (.packetForward src dst none cls flits hop mark esc) s = .next t
        ∧ t.out = s.out ++ ([.forwarded src dst none p chan (mark || decide (s.threshold cls < (s.port p).held cls))] : List Packet)
        ∧ tget (t.port p).depth (8 * cls + chan) 0 = tget (s.port p).depth (8 * cls + chan) 0 + flits
      leaves true (2 + hop % 4)
        ∧ (src ≠ s.pkg.agent → (∀ c, s.adaptive p cls flits = some c → leaves false c)
          ∧ (s.adaptive p cls flits = none → leaves false (2 + hop % 4))))
    ∧ (∀ (s : State) dst cls x, s.detour dst cls = some x → 2 * s.portDepth (s.mport x) cls + 32 < s.portDepth (s.mport dst) cls)
    ∧ (∀ (s : State) g e, tfind s.pkg.rates g = some e → e.raised + max 1 s.pkg.incp.toNat ≤ s.usec →
      ∃ t, exec (.rateIncrease g) s = .next t ∧ tfind t.pkg.rates g =
        if fullRate ≤ e.rate + 1024 then none else some { e with rate := e.rate + 1024, raised := s.usec })
    ∧ (∀ (s : State) half h kind, tfind s.halves half = some h → h.st ≠ .inv →
      ∃ t, exec (.hostSnoop half kind) s = .next t
        ∧ t.out = s.out ++ ([.hostSnoopResp half h.st (if h.bad = false ∧ (h.st = .modified ∨ kind = .snpCur) then h.bytes else [])] : List Packet)
        ∧ tfind t.halves half = match kind with | .snpCur => some h | .snpInv => none | .snpData => some { h with st := .shared })
    ∧ (∀ (s : State) half d r, findReq s (halfKey half) DReq.owns = some r →
      ∃ t, exec (.hostGo half d) s = .next t ∧ tfind t.halves half = some ⟨.excl, lineGet d (64 * (half % 2)) 64, false⟩
        ∧ ∀ x ∈ t.reqs, x.id ≠ r.id)
    ∧ (∀ (s : State) agent line col, s.pkg.host = some agent → s.biPend = [(line, col)] → col ≠ s.pkg.agent →
      ∃ t, exec (.hostBiResponse agent line) s = .next t ∧ t.biPend = [] ∧ t.out = s.out ++ ([.invack line col] : List Packet))
    ∧ (∀ (s : State) a n, on s → a + n ≤ usable s → (∀ l ∈ linesOf a n, s.dir l ≠ 2 ∧ s.noAcks (s.lineOf l) = true) →
      ∃ t, exec (.hostMemRead a n) s = .next t ∧ t.hbm = s.hbm
        ∧ t.out = s.out ++ ([.hostMemData a (s.hbm.read a n) ((linesOf a n).any fun l => s.dir l == 3 || inSecure s l)] : List Packet))
    ∧ (∀ (s : State) a bs s1, on s → a + bs.length ≤ usable s → (∀ l ∈ linesOf a bs.length, inSecure s l = false ∧ s.admits l s.ownCell = true) →
      hostWrite (s.unwait (hostWho s).who) (s.pkg.agent * 2 ^ 40 + a) bs = .ok s1 () →
      exec (.hostMemWrite a bs) s = .next (s1.hostDone a ((linesOf a bs.length).map s.lineOf)).wake)

/-- Boot, the trusted interface, health and power (R76, R434, R435, R437, R439–R443): POWER_ON, the image, GO, the verification and the
initialisation in their order; binding a page; the four requests of the interface, refused outside their states; corrected errors are
counted, and more than 1,024 in an hour set REPL; an uncorrectable error makes its line P, kills its team or stops the package; a
failing core goes off line; the clock is throttled between 16/16 and 8/16, and at 115 °C the package stops. The model's choice: binding a page
empties its queue (log 44), the hour of the corrected errors slides (log 59), a bad length or version has code 0x04 (log 60), the key
digest, MINSVN and configuration block are free and SHA-384 and ECDSA are those of the standards (log 7), the stack of a line is free (log
96), a holder that loses a dirty line tells its home (log 97), and a stop that cannot zero is refused (log 98). -/
def Obligations.BootResults : Prop :=
  let upd (s : State) (i : Instr) (f : Pkg → Pkg) : Prop := exec i s = .next { s with pkg := f s.pkg, epoch := s.epoch + 1 }
  let takes (s : State) : Prop := s.pkg.power = true ∧ (s.pkg.fwst = .waitImage ∨ s.pkg.fwst = .failed)
  (∀ (s : State), s.pkg.power = false → upd s .powerOn fun p => { p with power := true, fwst := .waitImage, fwcode := 0 })
    ∧ (∀ (s : State) off bs, takes s → off + bs.length ≤ 2 ^ 22 →
      upd s (.imageBufferWrite off bs) fun p => { p with image := putBytes p.image off bs })
    ∧ (∀ (s : State), takes s → upd s .go fun p => { p with fwst := .verify, fwcode := 0 })
    ∧ (∀ (s : State), s.pkg.fwst = .verify → match imageFault s with
      | some c => upd s .verifyDone fun p => { p with fwst := .failed, fwcode := c }
      | none => upd s .verifyDone fun p => { p with fwst := .init, fwcode := 0, svn := tget p.image 1 0 })
    ∧ (∀ (s : State), imageFault s = none ↔ 1 ≤ s.pkg.fwlen.toNat ∧ s.pkg.fwlen.toNat ≤ 4096
        ∧ 64 + bodyLen s + 97 + 96 ≤ s.pkg.fwlen.toNat * 1024 ∧ imageBytes s 0 1 = [1]
        ∧ sha384 (imageBytes s (64 + bodyLen s) 97) = Config.keyDigest
        ∧ ecdsaVerify (imageBytes s 0 (64 + bodyLen s + 97)) (imageBytes s (64 + bodyLen s) 97)
            (imageBytes s (64 + bodyLen s + 97) 96) = true
        ∧ Config.minSvn.toNat ≤ (tget s.pkg.image 1 0).toNat)
    ∧ (∀ (s : State) up, s.pkg.fwst = .init →
      (up.trained = false → upd s (.initDone up) fun p => { p with fwst := .failed, fwcode := 5 })
        ∧ (up.trained = true → ∃ t, exec (.initDone up) s = .next t ∧ t.pkg.fwst = .ready ∧ (∀ a, t.hbm.byte a = 0) ∧ (∀ l, t.dir l = 0)
          ∧ (∀ p, tget t.selPg p 0 = 0) ∧ t.pkg.agent = (Config.configBlock (imageBytes s 64 (bodyLen s))).agent
          ∧ (∀ n peer ver, up.links = [(n, peer, ver)] → n < 36 → (s.port n).up = false → (s.port n).pick ≠ 0 → ver ≠ 0 →
              (t.port n).up = true ∧ (t.port n).peer = some peer ∧ (t.port n).width = (s.port n).pick ∧ (t.port n).sent = s.usec)
          ∧ (∀ a w, up.routes = [(a, w)] → a < 1058 → t.route a = w &&& ~~~(BitVec.ofNat 64 (511 * 2 ^ 54)))))
    ∧ (∀ (s : State) page realm wld, realm ≠ 0 → realm < 4096 → s.pkg.fwst = .ready → s.pkg.tdisp = .unlocked →
      ∃ t, exec (.submissionPageBind page realm wld) s = .next t ∧ (t.pageOf page).en = true ∧ (t.pageOf page).prealm = realm
        ∧ (t.pageOf page).pwld = wld ∧ (t.pageOf page).recs = [] ∧ (t.pageOf page).taken = 0)
    ∧ (∀ (s : State), (s.pkg.tdisp = .unlocked → upd s .lockInterfaceRequest fun p => { p with tdisp := .locked })
        ∧ (s.pkg.tdisp ≠ .unlocked → exec .lockInterfaceRequest s = .next (s.send .tdispError).wake)
        ∧ (s.pkg.tdisp = .locked → exec .getDeviceInterfaceReport s = .next (s.send (.report (tdispReport s))).wake)
        ∧ (s.pkg.tdisp ≠ .locked → exec .getDeviceInterfaceReport s = .next (s.send .tdispError).wake)
        ∧ (s.pkg.tdisp = .locked → upd s .startInterfaceRequest fun p => { p with tdisp := .run })
        ∧ (s.pkg.tdisp ≠ .locked → exec .startInterfaceRequest s = .next (s.send .tdispError).wake)
        ∧ (s.pkg.tdisp = .unlocked → exec .stopInterfaceRequest s = .next (s.send .tdispError).wake))
    ∧ (∀ (s : State), s.pkg.tdisp ≠ .unlocked → secureHeld s = [] →
      (secureBusy s = true → exec .stopInterfaceRequest s = .next { s with pkg := { s.pkg with stopping := true } })
        ∧ (∀ s1 x, secureBusy s = false →
          runAcc s (ocposanWho s) (fun st => zeroArenas st (ocposanWho s) ((st.grids.map (·.2)).filter fun g => dWld g.desc))
            = (s1, some x) →
          ∃ t, exec .stopInterfaceRequest s = .next t ∧ t.pkg.stopping = false
            ∧ (x = .ok () → t.pkg.tdisp = .unlocked
                ∧ ∀ a, s1.pkg.secBase * 2 ^ 30 ≤ a → a < s1.pkg.secLim * 2 ^ 30 → t.hbm.byte a = 0)
            ∧ (∀ e, x = .error e → t.pkg.tdisp = s1.pkg.tdisp ∧ t.out = s1.out ++ ([.tdispError] : List Packet))))
    ∧ (∀ (s : State), ∃ t, exec .correctedError s = .next t ∧ t.pkg.corr = s.pkg.corr + 1
        ∧ (s.pkg.corrT.length < 1024 → t.pkg.repl = s.pkg.repl)
        ∧ (1024 ≤ s.pkg.corrT.length → s.usec ≤ s.pkg.corrT.getD 1023 0 + 3600000000 → t.pkg.repl = true))
    ∧ (∀ (s : State) line, (agentOf line = s.pkg.agent → s.holder (localOf line) = none →
        ∃ t, exec (.uncorrectableError (.line line)) s = .next t ∧ t.pkg.unc = s.pkg.unc + 1 ∧ t.dir (localOf line) = 3)
      ∧ (agentOf line ≠ s.pkg.agent → ∃ t, exec (.uncorrectableError (.line line)) s = .next t
          ∧ t.out = s.out ++ ([.poison line (agentOf line)] : List Packet) ∧ tfind t.copies line = none)
      ∧ (s.holder (localOf line) = none → ∃ t, exec (.uncorrectableError (.hbm line)) s = .next t ∧ t.pkg.unc = s.pkg.unc + 1
          ∧ t.dir (localOf line) = 3 ∧ t.pkg.repl = true ∧ t.pkg.stk = s.pkg.stk ||| (1#8 <<< (Config.stackOf (localOf line) % 8))))
    ∧ (∀ (s : State) n, (∃ t, exec (.uncorrectableError .hub) s = .next t ∧ t.pkg.stopped = true ∧ t.pkg.unc = s.pkg.unc + 1)
      ∧ (∃ t, exec (.uncorrectableError (.stack n)) s = .next t ∧ t.pkg.stopped = true ∧ t.pkg.stk = s.pkg.stk ||| (1#8 <<< n)
          ∧ t.pkg.repl = true))
    ∧ (∀ (s : State) tk, (tfind s.teams tk).isSome = true → ∃ t, exec (.uncorrectableError (.team tk)) s = .next t ∧ (t.team tk).killed = true)
    ∧ (∀ (s : State) core, (s.core core).dying = true → (s.core core).offline = false → (s.core core).queue = [] → (∀ e ∈ s.back, e.1 ≠ core) →
      residents s core none = [] → ∃ t, exec (.coreOffline core) s = .next t ∧ (t.core core).offline = true ∧ t.pkg.repl = true)
    ∧ (∀ (s : State) draw celsius, s.pkg.div.toNat ≤ 8 → ∃ t, exec (.throttleStep ⟨draw, celsius⟩) s = .next t
        ∧ t.pkg.div.toNat = if s.pkg.limit.toNat < draw ∨ 105 < celsius then min 8 (s.pkg.div.toNat + 1) else s.pkg.div.toNat - 1)
    ∧ (∀ (s : State) c, 115 ≤ c → upd s (.thermalStop c) fun p => { p with stopped := true })

/-- Supervisor cores (R6, R29, R237, R314, R352, R382–R386): OGO sends OINV, and a core that drains or releases it drops the translation
and acknowledges; CPADDR clears a local line's poison; a block copy takes its blocks in turn; the supervisor core's stores, loads
and fence are performed, and its loads of registers give what they hold; a refill joins the pool that a core keeps for a realm with a
resident team; writes of the registers named have their effect, and a window takes writes only while its warp is parked. The model's choice:
a g register written through the window keeps its tag (log 63), and a pool keeps its first 64 numbers without repeats (log 82). -/
def Obligations.SupervisorResults : Prop :=
  let gone (t : State) (core realm obj : Nat) : Prop := ∀ e ∈ (t.core core).oc, e.realm = realm → e.obj ≠ obj
  (∀ (s : State) core realm obj, exec (.ogoDrain core realm obj) s = .next (startOinv s core realm obj false)
        ∧ exec (.ogoRelease core realm obj) s = .next (startOinv s core realm obj true))
    ∧ (∀ (s : State) core realm obj rel, let p := ((startOinv s core realm obj rel).core core).page
        p.okind = rel ∧ p.orealm = BitVec.ofNat 12 realm ∧ p.oobj = BitVec.ofNat 24 obj)
    ∧ (∀ (s : State) core realm obj o s1 r s3, oinvOf s core realm obj false = some o →
      runAcc (dropXlat s core realm obj) (oinvWho s core) (fun st => rawEntry st core realm obj) = (s1, some r) → s1.defers = [] →
      backAll (dropXlat s1 core realm obj) (oinvWho s core)
        (((dropXlat s1 core realm obj).core core).l1.filter fun x => x.realm == realm && x.obj == obj) = (s3, none) →
      ∃ t, exec (.oinvDrain core realm obj) s = .next t ∧ (t.core core).oinv = (s3.core core).oinv.erase o)
    ∧ (∀ (s : State) core realm obj o, oinvOf s core realm obj true = some o →
      ∃ t, exec (.oinvRelease core realm obj) s = .next t ∧ (t.core core).oinv = (s.core core).oinv.erase o ∧ gone t core realm obj
        ∧ (realm, obj) ∉ (t.core core).migOff)
    ∧ (∀ (s : State) core a, let line := a % 2 ^ 51 / 128
      (s.core core).page.cpaddr = none → s.fails.find? (fun f => f.who == (clrpWho s core).who) = none →
      agentOf line = s.pkg.agent → s.pkg.agent < 2000 →
      ∃ t, exec (.cpaddr core a) s = .next t ∧ (t.core core).page.cpaddr = none ∧ (t.core core).page.cpres = 0
        ∧ t.dir (localOf line) = if s.dir (localOf line) = 3 then 0 else s.dir (localOf line))
    ∧ (∀ (s : State) core, let p := (s.core core).page
      p.mcbusy = false → p.mcsrc.toNat % 64 = 0 → p.mcdst.toNat % 64 = 0 → p.mclen ≠ 0 →
      ∃ t, exec (.mcgo core) s = .next t ∧ (t.core core).page.mcbusy = true ∧ (t.core core).page.mcpos = 0)
    ∧ (∀ (s : State) core s1, let p := (s.core core).page
      let a := p.mcsrc.toNat + 64 * p.mcpos
      let b := p.mcdst.toNat + 64 * p.mcpos
      p.mcbusy = true → addrOk s a = true → addrOk s b = true →
      runTry s (copyWho s core) (fun st => copyBlock st (copyWho s core) a b) = (s1, some (.ok ())) →
      ∃ t, exec (.blockCopyBlock core) s = .next t ∧ t.hbm = s1.hbm
        ∧ (p.mclen.toNat ≤ p.mcpos + 1 → (t.core core).page.mcbusy = false ∧ (t.core core).page.mcres = 0)
        ∧ (p.mcpos + 1 < p.mclen.toNat → (t.core core).page.mcpos = (s1.core core).page.mcpos + 1))
    ∧ (∀ (s : State) core a n s1 bs, (supReg? core a).isSome = false → addrOk s a = true → addrOk s (a + n - 1) = true →
      runAcc s (supWho s core) (fun st => l1Read st (supWho s core) supKey a n) = (s1, some (.ok bs)) →
      exec (.supervisorAccess core (.load a n)) s = .next (s1.send (.supLoad core bs)).wake)
    ∧ (∀ (s : State) core a n r, exec (.supervisorAccess core (.reg r)) s = .next (s.send (.supReg core (regRead s r)))
      ∧ exec (.supervisorAccess core .mip) s
          = .next (s.send (.supReg core (if (s.core core).page.pend = 0 then 0 else 0x10000)))
      ∧ ((supReg? core a).isSome = true →
          exec (.supervisorAccess core (.load a n)) s = .next (s.send (.supLoad core (regBytes s core a n)))))
    ∧ (∀ (s : State) core a bs s1, (supReg? core a).isSome = false → addrOk s a = true → addrOk s (a + bs.length - 1) = true →
      runAcc s (supWho s core) (fun st => l1Write st (supWho s core) supKey a bs false) = (s1, some (.ok ())) →
      exec (.supervisorAccess core (.store a bs)) s = .next s1.wake)
    ∧ (∀ (s : State) core s1, releaseAct s (supWho s core) 1 = (s1, none) →
      exec (.supervisorAccess core .fence) s = .next (acquireAct s1 (supWho s core) 1).1.wake)
    ∧ (∀ (s : State) core realm nums, (residents s core none).any (fun e => e.2.realm == realm) = true → ∃ t, exec (.objectPoolRefill core realm nums) s = .next t
        ∧ (nums ≠ [] → tget (t.core core).pools realm [] = (tget (s.core core).pools realm [] ++ nums).eraseDups.take 64
            ∧ realm ∉ (t.core core).noNum)
        ∧ (nums = [] → realm ∈ (t.core core).noNum))
    ∧ (∀ (s : State) v core idx word off, (∃ t, exec (.registerWrite (.ocbase core) v) s = .next t
          ∧ (t.core core).ocbase = v &&& BitVec.ofNat 64 (2 ^ 51 - 2 ^ 16 + 1))
        ∧ (s.pkg.tdisp = .unlocked → ∃ t, exec (.registerWrite (.tdef core) v) s = .next t ∧ (t.core core).tdef = clampUsec v)
        ∧ (s.pkg.tdisp = .unlocked → ∃ t, exec (.registerWrite (.bar idx) v) s = .next t ∧ tget t.pkg.bars idx 0 = v)
        ∧ (s.pkg.tdisp = .locked ∨ s.pkg.tdisp = .run → ∃ t, exec (.registerWrite (.hub 0x490) v) s = .next t
            ∧ t.pkg.tdisp = .error ∧ t.pkg.secBase = s.pkg.secBase ∧ t.pkg.secLim = s.pkg.secLim)
        ∧ (∃ t, exec (.registerWrite (.hub 0x4A8) v) s = .next t ∧ 1200 ≤ t.pkg.limit.toNat ∧ t.pkg.limit.toNat ≤ 2400)
        ∧ (1 ≤ idx → idx < 255 → word < 32 → ∃ t cs, exec (.registerWrite (.cellSet idx word) v) s = .next t
            ∧ tfind t.selSet idx = some cs ∧ ∀ k < 64, 64 * word + k ∈ cs ↔ v.getLsbD k = true)
        ∧ (∀ slot, slot < 64 → let wk := 64 * core + slot
            (s.warp wk).parked = false → off ≠ 0x400 → off ≠ 0x408 →
            exec (.registerWrite (.window core slot off) v) s = .next s)
        ∧ (∀ slot l n, slot < 64 → l < 32 → n < 16 → let wk := 64 * core + slot
            (tfind s.warps wk).isSome = true → (s.warp wk).parked = true →
            ∃ t, exec (.registerWrite (.window core slot (0x2000 + 128 * l + 8 * n)) v) s = .next t
              ∧ (t.lane wk l).getG n = ⟨v, ((s.lane wk l).getG n).tag⟩))

/-! ### Encoding, the step, reset and memory -/

/-- Words of the seven formats (R116–R119, R126) decode to the instructions they stand for, and a reserved opcode, a non-zero
reserved bit and a destination that is no register are rejected by name (R124). -/
def Obligations.DecodeSpecWords : Prop :=
  let z : Guard := ⟨false, false, 0⟩
  decode 0x01004A4849000000 = .ok (.fadd ⟨z, 0x4A, 0x48, 0x49, 0, false, 0, 0⟩)
    ∧ decode 0x000148000000001D = .ok (.movi ⟨z, 0x48, 0, 0x1D⟩)
    ∧ decode 0x84C20000FFFFFFE0 = .ok (.br ⟨⟨true, false, 1⟩, 0, 0, 0xFFFFFFE0⟩)
    ∧ decode 0x84C40D00000000F0 = .ok (.call ⟨⟨true, false, 1⟩, 0x0D, 0, 0xF0⟩)
    ∧ decode 0x01C0541248780002 = .ok (.ld ⟨z, 0x54, 0x12, 0x48, 3, 3, 0, false, false, 0, 0, 0, 2⟩)
    ∧ decode 0x0280036872290008 = .ok (.mma ⟨z, 3, 0x68, 0x72, 2, true, 1, false, 0, false, 8⟩)
    ∧ decode 0x02C4001431010118 = .ok (.sput ⟨z, 0, 0x14, 0x31, 1, false, 0, 1, 1, true, 0⟩)
    ∧ decode 0x0305541430310501 = .ok (.mwait ⟨z, 0x54, 0x14, 0x30, 0x31, false, 0, 1, 1, false, 0, 1⟩)
    ∧ decode 0x03FF000000000000 = .error .opcode
    ∧ decode 0x00C8000000000001 = .error .reserved
    ∧ decode 0x000130000000001D = .error .dest

/-- Decoding undoes encoding: every well-formed instruction word of every format, with every operand at every value that its
encoding admits (R116–R118, R124, R126). -/
def Obligations.DecodeEncode : Prop :=
  ∀ i : Instr, i.wf = true → decode (encode i) = .ok i

/-- Encoding undoes decoding: no two words decode to one instruction, so that no bit of a word is dropped (R116–R118, R126); the
instruction stands under the constructor that its fields select (R262, R300). -/
def Obligations.EncodeDecode : Prop :=
  ∀ (w : Word) (i : Instr), decodeShape w = some i → encode i = w ∧ i.isWord = true ∧ i.formOk = true

/-- A step runs the decoded instruction (R113, R116, R124): where a bundle that can issue stands at the head of the issue order and
the next word of its clause decodes, the step is that instruction's; where it does not decode, the lanes of the bundle raise
ILLEGAL, OPCODE; where its clause has none because its header is at fault, they raise that fault (R103, R104). An act due earlier is
performed first; where no engine has anything to do, a heddle has its cycle, after what its stalled bundles cannot do has shown
(R138, log 90); a stopped package stands still (log 2). -/
def Obligations.StepRunsDecodedWord : Prop :=
  (∀ (s : State) wk path r b w i, s.pkg.stopped = false → s.agenda = [] → s.iq = (wk, path) :: r →
      openBundle { s with iq := r } wk path = some b → b.nextWord = some w → decodeShape w = some i →
      step s = exec i { s with iq := r, cur := some (wk, path) })
    ∧ (∀ (s : State) wk path r b w, s.pkg.stopped = false → s.agenda = [] → s.iq = (wk, path) :: r →
      openBundle { s with iq := r } wk path = some b → b.nextWord = some w → decodeShape w = none →
      step s = .next (badOpcode { s with iq := r } wk path b w))
    ∧ (∀ (s : State) wk path r b, s.pkg.stopped = false → s.agenda = [] → s.iq = (wk, path) :: r →
      openBundle { s with iq := r } wk path = some b → b.nextWord = none →
      step s = .next (raiseHeader { s with iq := r } wk path b))
    ∧ (∀ (s : State) i r, s.pkg.stopped = false → s.agenda = .event i :: r → i.isWord = false →
      step s = exec i { s with agenda := r, cur := none })
    ∧ (∀ (s : State) i, s.pkg.stopped = false → s.agenda = [] → s.iq = [] → (engineEvents s).find? (changes s) = some i →
      i.isWord = false → step s = exec i { s with cur := none })
    ∧ (∀ (s : State), s.pkg.stopped = false → s.agenda = [] → s.iq = [] → (engineEvents s).find? (changes s) = none →
      step s = exec (.bundleOpen (s.turn / 4) (s.turn % 4))
        { probe tryIssue s s.turn with turn := (s.turn + 1) % 128, cur := none })
    ∧ (∀ (s : State), s.pkg.stopped = true → step s = .next s)

/-- Reset (R434 step 1, with R15, R19, R57, R76, R95, R310, R332, R336, R361, R424): nothing is resident, memory reads as zero
without tags, every directory entry, page byte and submission page is clear, the boot waits for an image, TDISP is unlocked, and
the registers of cores and hub stand at the values that the rules give. The package's agent id, its clock limit and the
values that logs 5 and 6 name are the model's own choice. -/
def Obligations.ResetState : Prop :=
  let s := State.reset
  s.pkg.fwst = .waitImage ∧ s.pkg.fwcode = 0 ∧ s.pkg.fwlen = 0 ∧ s.pkg.svn = 0 ∧ s.pkg.tdisp = .unlocked
    ∧ s.pkg.stk = 0 ∧ s.pkg.corr = 0 ∧ s.pkg.unc = 0 ∧ s.pkg.repl = false ∧ s.pkg.hcv = false
    ∧ (∀ a, s.hbm.byte a = 0) ∧ (∀ w, s.hbm.tag w = false) ∧ (∀ l, s.dir l = 0) ∧ s.rht = [] ∧ s.selPg = []
    ∧ (∀ c, (s.core c).ocbase = 0 ∧ (s.core c).xsh = BitVec.ofNat 32 (c + 1) ∧ (s.core c).tdef = 4000
        ∧ (s.core c).queue = [] ∧ (s.core c).oc = [] ∧ (s.core c).l1 = [] ∧ (s.core c).amax = []
        ∧ (s.core c).preempt = none)
    ∧ (∀ k, (s.pageOf k).en = false ∧ (s.pageOf k).badw = false ∧ (s.pageOf k).taken = 0)
    ∧ (∀ wk l, (s.lane wk l).st = .exited) ∧ s.teams = [] ∧ s.grids = [] ∧ s.frames = []

/-- The canonical form of memory determines it (log 6): two memories in the canonical form that read alike at every byte, tag, block,
tag page, line and directory entry are equal. -/
def Obligations.CanonicalMemoryDetermined : Prop :=
  ∀ m n : Mem, Memory.wf m = true → Memory.wf n = true →
    (∀ a, m.byte a = n.byte a) → (∀ w, m.tag w = n.tag w) → (∀ b, m.meta b = n.meta b)
      → (∀ l, tget m.ltp l false = tget n.ltp l false) → (∀ p, tget m.ptp p false = tget n.ptp p false)
      → (∀ l, m.dirOf l = n.dirOf l) → m = n

/-- Memory keeps its canonical form in every step from every state (log 6). -/
def Obligations.StepKeepsCanonicalMemory : Prop :=
  ∀ s t : State, Memory.wf s.hbm = true → step s = .next t → Memory.wf t.hbm = true

/-! ### Completion under conditions on the state and the operands alone -/

/-- Loads, stores, prefetches, accesses of control registers, deferred results and frame engines complete (R25, R142, R199, R201–R204,
R208, R218, R222–R226, R230, R232, R375, R376): LD and FLD of places that the checks of R25 allow in the package's own memory start a
deferred read in each active lane, whose registers are not EMPTY; an acquiring LD at team scope gives the bytes of the L1 lines that it
hits, and ST at team scope, or without release, writes into those that it hits; PREF of such places, or of
references that name no object, leaves lanes, frames and teams as they are; SRD and SWR complete in lanes that may access their register; a
deferred result is dropped if it is cancelled, and else given the bytes of the L1 line that it hits. A frame request that the free
granules cover is granted; the doffer starts a spill into free space of the slot; a spill or a refill whose record lies in lines of the
package's own memory without remote holders ends, as does a refill from a save area; a frame that every lane has left and no response will
reach goes. -/
def Obligations.LoadStoreCompletion : Prop :=
  let ref (f : MemF) (x : Srcs) (n : Nat) : Int := memOff f (offOf x.av.bits) x.bv.bits n
  let near (s : State) (p : Place) (n : Nat) : Prop :=
    p.addr / 2 ^ 40 = s.pkg.agent ∧ s.pkg.agent < 2000 ∧ p.addr % 128 + n ≤ 128
  let read (c : Ctx) (reg : Nat) (kind : DeferKind) (n : Nat) (p : Nat → Place) (s : State) (l : Nat) : Defer :=
    { id := s.uid, wk := c.wk, lane := l, frame := (s.lane c.wk l).frame, reg := reg, kind := kind, realm := (p l).top.realm
      obj := (p l).top.obj, pub := (p l).top.vis != 0, addr := (p l).addr, base := ((p l).addr : Int) - (p l).poff, cmd := none
      dead := false, undef := inSpill s c.wk (p l) n }
  let start (c : Ctx) (reg : Nat) (kind : DeferKind) (n : Nat) (p : Nat → Place) (s : State) (l : Nat) : State :=
    let a := (s.useEntry (wkCore c.wk) (p l).ent).unwait (.lane c.wk l)
    startDefer a c.path (read c reg kind n p a l)
  let slot (s : State) (core tk o n : Nat) : Prop := ∃ e sl, (s.core core).ocbase.getLsbD 0 = true ∧ (s.team tk).spill = some sl
    ∧ (s.core core).oc.find? (fun y => y.realm == (s.team tk).realm && y.obj == sl.obj) = some e ∧ e.view = false ∧ e.hm = false ∧ s.moving core e = false
    ∧ sl.off + o + n ≤ e.len ∧ (bits (e.dw 2) 50 0 + sl.off + o) / 2 ^ 40 = s.pkg.agent ∧ s.pkg.agent < 2000
    ∧ (bits (e.dw 2) 50 0 + sl.off + o) % 2 ^ 40 + n ≤ usable s ∧ s.pkg.secLim ≤ s.pkg.secBase
    ∧ (∀ l, s.dir l = 0)
  (∀ f (s : State) c x (p : Nat → Place), Issues s (.ld f) c → Reads s c x → f.ord ≠ 1 → let n := 2 ^ f.sz.toNat
      let reg := f.d.toNat - 0x40
      (∀ l ∈ c.active, Allowed s c.wk l (x l).av (ref f (x l) n) n [rR] n (p l) ∧ near s (p l) n
        ∧ anyEmpty s c.wk l (deferRegs (read c reg (.load n f.sx) n p s l)) = false) →
      exec (.ld f) s = .next (Ended (c.active.foldl (start c reg (.load n f.sx) n p) s) (.ld f) c fun _ => {}))
    ∧ (∀ f (s : State) c x (p : Nat → Place) (e : Nat → L1Line), Issues s (.ld f) c → Reads s c x → f.ord = 1 → f.scope = 0 → let n := 2 ^ f.sz.toNat
      let rs := regRange (f.d.toNat - 0x40) (max 1 (n / 4))
      (∀ l ∈ c.active, Allowed s c.wk l (x l).av (ref f (x l) n) n [rR] n (p l) ∧ Hits s c.wk l (p l).key (p l).addr n (e l)
        ∧ inSpill s c.wk (p l) n = false ∧ anyEmpty s c.wk l rs = false) →
      exec (.ld f) s = .next (Ended (c.active.foldl (fun st l =>
        (st.useEntry (wkCore c.wk) (p l).ent).unwait (.lane c.wk l)) s) (.ld f) c fun l =>
          let b := lineGet (e l).data ((p l).addr % 128) n
          { val := some (Val.int (loadVal n f.sx b)), val2 := some (Val.int (highVal b)) }))
    ∧ (∀ f (s : State) c x (p : Nat → Place), Issues s (.fld f) c → Reads s c x → let reg := f.d.toNat - 0x40
      (∀ l ∈ c.active, Allowed s c.wk l (x l).av (ref f (x l) 8) 8 [rR, rNC] 8 (p l) ∧ near s (p l) 8
        ∧ anyEmpty s c.wk l [reg, reg + 1] = false) →
      exec (.fld f) s = .next (Ended (c.active.foldl (start c reg .far 8 p) s) (.fld f) c fun _ => {}))
    ∧ (∀ f (s : State) c x (p : Nat → Place) (e : Nat → L1Line), Issues s (.st f) c → Reads s c x → f.ord ≠ 2 ∨ f.scope = 0 → let n := 2 ^ f.sz.toNat
      (∀ l ∈ c.active, Allowed s c.wk l (x l).av (ref f (x l) n) n [rW] n (p l) ∧ Hits s c.wk l (p l).key (p l).addr n (e l)
        ∧ inSpill s c.wk (p l) n = false) →
      exec (.st f) s = .next (Ended (c.active.foldl (fun st l =>
        let old := (st.l1Find (wkCore c.wk) (p l).key ((p l).addr / 128)).getD (e l)
        ((st.useEntry (wkCore c.wk) (p l).ent).l1Set (wkCore c.wk)
          (lineStored old ((p l).addr % 128) (storeBytes n (x l).d) false)).unwait (.lane c.wk l)) s)
        (.st f) c fun _ => {}))
    ∧ (∀ f (s : State) c x (p : Nat → Place), Issues s (.pref f) c → Reads s c x →
      (∀ l ∈ c.active, Allowed s c.wk l (x l).av (ref f (x l) 64) 64 [rR] 0 (p l) ∧ near s (p l) 0) →
      ∃ t, exec (.pref f) s = .next (Ended t (.pref f) c fun _ => {}) ∧ t.lanes = s.lanes ∧ t.frames = s.frames ∧ t.teams = s.teams)
    ∧ (∀ f (s : State) c x, Issues s (.pref f) c → Reads s c x → (∀ l ∈ c.active, objOf (x l).av.bits = 0) →
      exec (.pref f) s = .next (Ended s (.pref f) c fun _ => {}))
    ∧ (∀ f (s : State) c x, Issues s (.srd f) c → Reads s c x → let n := bits f.md 7 0
      (handlerOnly n = true → ∀ l ∈ c.active, (s.lane c.wk l).h = true) →
      exec (.srd f) s = .next (Ended s (.srd f) c fun l => .value (Val.int (crnRead s c.wk l n))))
    ∧ (∀ f (s : State) c x, Issues s (.swr f) c → Reads s c x → let n := bits f.md 7 0
      (handlerOnly n = true → ∀ l ∈ c.active, (s.lane c.wk l).h = true) →
      (n = 3 → ∀ l ∈ c.active, (x l).av.bits.extractLsb' 0 3 = 0) →
      exec (.swr f) s = .next (Ended (c.active.foldl (fun st l => crnWrite st c.wk l n (x l).av.bits) s) (.swr f) c fun _ => {}))
    ∧ (∀ (s : State) d, s.defers.find? (fun y => y.id == d.id && !y.isHost) = some d → d.dead = true →
      exec (.deferredResponse d.id) s = .next (dropDefer s d).wake)
    ∧ (∀ (s : State) d n sx e, s.defers.find? (fun y => y.id == d.id && !y.isHost) = some d → d.dead = false → d.undef = false →
      d.kind = .load n sx → readAhead s d = false → s.fails.find? (fun f => f.who == .defer d.id) = none →
      d.addr / 2 ^ 40 < 2000 → 0 < n → d.addr % 128 + n ≤ 128 →
      s.l1Find (wkCore d.wk) ⟨d.realm, d.obj, d.pub, d.base⟩ (d.addr / 128) = some e →
      let b := lineGet e.data (d.addr % 128) n
      exec (.deferredResponse d.id) s = .next (dropDefer (landRegs (s.unwait (.defer d.id)) d (loadVal n sx b) (highVal b)) d).wake)
    ∧ (∀ core part s r rest, let pk := core * 4 + part
      headFits s pk = true → (s.part pk).reqs = r :: rest →
      ∃ t, exec (.frameGrant core part) s = .next t ∧ (t.part pk).reqs = rest
        ∧ (∀ d rpc k ts, r.kind = .call d rpc k ts → (t.frame s.uid).demand = d
            ∧ ∀ l ∈ lanesOf r.lanes, (t.lane r.wk l).frame = s.uid ∧ (t.lane r.wk l).st = .run)
        ∧ (∀ fk, r.kind = .refill fk → (t.part pk).busy = some (.refill r (s.frame fk).loc) ∧ (t.frame fk).isRes = true))
    ∧ (∀ core part s r rest fk f sl off, let pk := core * 4 + part
      let tk := (s.warp f.wk).team
      dofferWakes s pk = true → (s.part pk).reqs = r :: rest → (s.teamOf r.wk).phase ≠ .saving → pickSpill s pk = some (fk, f) →
      (s.team tk).spill = some sl → findSpan (s.team tk).recs (recSize f.demand) sl.size = some off →
      ∃ t, exec (.dofferWake core part) s = .next t ∧ (t.part pk).busy = some (.spill fk off) ∧ (t.part pk).awake = true
        ∧ (t.team tk).recs = (s.team tk).recs ++ [(off, recSize f.demand)])
    ∧ (∀ core part s fk off, let pk := core * 4 + part
      let f := s.frame fk
      (s.part pk).busy = some (.spill fk off) → spillable s pk (fk, f) = true →
      s.fails.find? (fun y => y.who == (dofferWho s pk).who) = none →
      slot s (pk / 4) (s.warp f.wk).team off (8 * (recWords s f).length) →
      ∃ t, exec (.spillDone core part) s = .next t ∧ (t.frame fk).loc = .spilled off)
    ∧ (∀ core part s r fk src, let pk := core * 4 + part
      (s.part pk).busy = some (.refill r src) → r.kind = .refill fk →
      (∃ a o, src = .saved a o) ∨ (∃ o, src = .spilled o ∧ s.fails.find? (fun y => y.who == (dofferWho s pk).who) = none
        ∧ slot s (pk / 4) (s.warp r.wk).team o (recSize (s.frame fk).demand)) →
      ∃ t, exec (.refillDone core part) s = .next t ∧ (t.part pk).busy = none
        ∧ ∀ l ∈ lanesOf r.lanes, (s.lane r.wk l).st = .blocked .frame → (t.lane r.wk l).st = .run)
    ∧ (∀ fk s, (tfind s.frames fk).isSome = true → (s.frame fk).rem = 0 → (∀ d ∈ s.defers, d.frame ≠ fk) →
      ∃ t, exec (.frameRelease fk) s = .next t ∧ tfind t.frames fk = none ∧ ∀ k, k ≠ fk → t.frame k = s.frame k)

/-- Events of placement, pre-emption, the supervisor cores, coherence and recovery complete (R29, R89–R99, R237, R314, R329–R343,
R348–R351, R382–R385, R389–R401, R404, R405). Of the teams: a grid is dealt; an idle core draws a victim, which answers; an admitted team
holds its grid's number; a team retires, quiesces, drains, is flushed, saved and restored; its oldest interrupt enters the handler. Of the
supervisor cores: OGO, CPADDR, MCGO and PRGO take effect, object invalidations are acknowledged, a block is copied, a register is written
or read, numbers join a pool. Of the lines: the home of a line without copies elsewhere answers each request, an agent each message; a
changed selvedge page is read back; a silent neighbour and the packages of a notice are fenced; a line of a dead owner is free or P. The
model's choice: WbAck answers ClrP (log 16), Grant carries FMT and SCALE (log 76), FwdAck answers an invalidating WBReq with data (log 49),
and a pool keeps its first 64 numbers without repeats (log 82). -/
def Obligations.EventCompletion : Prop :=
  let done (i : Instr) (s : State) (q : State → Prop) : Prop := ∃ t, exec i s = .next t ∧ q t
  let sent (s t : State) (p : List Packet) : Prop := t.out = s.out ++ p
  let clean (s : State) (core : Nat) : Prop := ∀ e ∈ (s.core core).l1, e.dirty = 0 ∧ e.mdirty = 0 ∧ e.tdirty = 0
  let open_ (s : State) (w : Waiter) : Prop := s.fails.find? (fun f => f.who == w) = none
  let bare (s : State) (tk : Nat) : Prop := (s.team tk).objs = [] ∧ (s.team tk).views = [] ∧ (s.team tk).arena = none
  let alone (s : State) (i : Instr) (l : Nat) : Prop := s.pkg.fenced = [] ∧ s.pkg.marks = [] ∧ reqSrc i < 2000
    ∧ agentOf (reqLine i) = s.pkg.agent ∧ localOf (reqLine i) = l ∧ inSecure s l = false ∧ s.homeTx = [] ∧ s.acks = []
    ∧ s.fwds = [] ∧ s.admits l (cellId i) = true
  let calm (s : State) (line : Nat) : Prop := s.pkg.fenced = [] ∧ s.pkg.fmarks = [] ∧ s.acks = [] ∧ s.fwds = []
    ∧ agentOf line ≠ s.pkg.agent
  let asked (s : State) (line : Nat) (k : DReq) (r : Req) : Prop := calm s line ∧ s.reqs = [r] ∧ r.line = line ∧ r.kind = k
    ∧ r.inv = false ∧ s.copies = []
  let teams : Prop :=
    (∀ (s : State) (grid : Nat) (g : Grid) (n : Nat), tfind s.grids grid = some g → g.count = some (n + 1) → g.isReady = true → g.dealt = false → dealsNext s g = true →
      done (.deal grid) s fun t => ∃ x, tfind t.grids g.num.toNat = some x ∧ x.dealt = true)
    ∧ (∀ (s : State) (core : Nat) (r : Run) (rest : List Run) (g : Grid), (s.core core).queue = r :: rest → tfind s.grids r.grid.toNat = some g → r.saved = none →
      mayAdmit s core = true →
      failRows s core ⟨g.desc, g.num.toNat, r.first, List.replicate (dWpt g.desc) (granules (dEfd g.desc)), true⟩ none = [] →
      pubLines s core = [] → done (.admitHead core) s fun t => (t.team s.uid).grid = g.num ∧ (t.team s.uid).core = core)
    ∧ (∀ (s : State) (core : Nat), core < 32 → let c := s.core core
      c.offline = false → c.dying = false → c.queue = [] → 0 < freeSlots s core → c.asleep = false → c.asked = none → c.tries < 4 →
      done (.idleSteal core) s fun t => (t.core core).xsh = xorshift c.xsh)
    ∧ (∀ (s : State) (thief victim : Nat), (s.core thief).asked = some victim → (s.core thief).answer = none →
      done (.stealRequest thief victim) s fun t => (t.core thief).answer.isSome = true)
    ∧ (∀ (s : State) (core : Nat) (a : Option Run), (s.core core).answer = some a →
      done (.stealAnswer core) s fun t => (t.core core).asked = none ∧ (t.core core).answer = none)
    ∧ (∀ (s : State) (tk : Nat), let core := (s.team tk).core
      mayRetire s tk = true → open_ s (retireWho s tk).who → pubLines s core = [] → (∀ a ∈ s.acks, core ∉ a.cores) → bare s tk →
      done (.teamRetire tk) s fun t => tfind t.teams tk = none)
  let preemption : Prop :=
    (∀ (s : State) (core : Nat), (s.core core).page.prbusy = false → (∀ e ∈ residents s core none, e.2.handle ≠ (s.core core).page.prteam) →
      done (.prgo core) s fun t => (t.core core).page.prres = 5)
    ∧ (∀ (s : State) (core tk : Nat) (u : Team), (s.core core).page.prbusy = false → (s.core core).preempt = none →
      (residents s core none).find? (fun e => e.2.handle == (s.core core).page.prteam) = some (tk, u) →
      done (.prgo core) s fun t => (t.team tk).phase = .quiescing ∧ (t.core core).page.prbusy = true)
    ∧ (∀ (s : State) (tk : Nat) (g : Grid), tfind s.grids (s.team tk).grid.toNat = some g → (s.team tk).phase = .quiescing →
      (∀ wk ∈ s.teamWarps tk, (s.warp wk).closed = true) → teamExited s tk = false →
      nearlyDone (s.team tk) (dBudget g.desc) = false → (s.team tk).escaped = false → dRst g.desc = true →
      done (.quiesceDone tk) s fun t => (t.team tk).phase = .flushing)
    ∧ (∀ (s : State) (tk n : Nat), (s.team tk).phase = .draining n → n + 65536 ≤ (s.core (s.team tk).core).cycle.toNat →
      done (.drainRequiesce tk) s fun t => (t.team tk).phase = .quiescing)
    ∧ (∀ (s : State) (core tk : Nat) (e : Nat × (Nat × Nat) × Nat), e ∈ (s.core core).skip → e.1 = tk → e.2.2 ≤ (s.core core).cycle.toNat →
      done (.victimSkipExpire core tk) s fun t => e ∉ (t.core core).skip)
    ∧ (∀ (s : State) (tk : Nat), let u := s.team tk
      u.phase = .flushing → teamExited s tk = false → noCommands s u.core tk true = true → noEntries s u.core tk = true →
      open_ s (retireWho s tk).who → bare s tk →
      done (.flushDone tk) s fun t => teamRun u (teamAff s u) none ∈ (t.core u.core).queue)
    ∧ (∀ (s : State) (tk : Nat) (a : SaveArea), let u := s.team tk
      u.phase = .saving → teamExited s tk = false → quiet s u.core tk = true → open_ s (retireWho s tk).who → clean s u.core → findArea s (areaSize s tk) = some a →
      done (.saveDone tk) s fun t => teamRun u (teamAff s u) (some tk) ∈ (t.core u.core).queue)
    ∧ (∀ (s : State) (core : Nat) (r : Run) (rest : List Run) (tk : Nat) (g : Grid), let u := s.team tk
      let curs := (List.range u.wpt).map (currentFrames s (u.saves.getLast?.getD ⟨0, 0⟩).base u)
      (s.core core).queue = r :: rest → r.saved = some tk → tfind s.grids r.grid.toNat = some g → mayAdmit s core = true →
      failRows s core ⟨g.desc, g.num.toNat, r.first, curs.map (fun ks => (ks.map fun k => granules (s.frame k).demand).sum), false⟩
        none = [] →
      pubLines s core = [] → open_ s (queueWho s core).who → (∀ k ∈ curs.flatten, ∀ o, (s.frame k).loc ≠ .spilled o) →
      done (.restore core) s fun t => (t.team tk).phase = .running ∧ (t.team tk).core = core)
    ∧ (∀ (s : State) (tk : Nat) (src dat : BitVec 32) (rest : List (BitVec 32 × BitVec 32)) (wk l0 : Nat) (ls : List Nat), (s.team tk).uiq = (src, dat) :: rest → uiTarget s tk = some wk →
      (List.range 32).filter (fun l => (s.lane wk l).st == .run && (s.lane wk l).cix == 0) = l0 :: ls →
      (s.team tk).uien = true → (s.team tk).phase = .running → (s.warp wk).closed = true → (s.warp wk).parked = false →
      (s.warp wk).parking = false → (s.warp wk).trec.v = false → pubLines s (wkCore wk) = [] →
      done (.uintrDeliver tk) s fun t => (t.team tk).uiq = rest ∧ (t.warp wk).trec.v = true ∧ (t.warp wk).trec.udat = dat)
    ∧ (∀ (s : State) (h dat : BitVec 32) (tk : Nat) (u : Team), bits h 31 21 = s.pkg.agent → s.teams.find? (fun e => e.2.handle == h) = some (tk, u) → u.uiq.length < 8 →
      done (.uidb h dat) s fun t => (t.team tk).uiq = u.uiq ++ [(0xFFFFFFFF, dat)])
  let supervisor : Prop :=
    (∀ (s : State) (core realm obj : Nat), (done (.ogoDrain core realm obj) s fun t => (t.core core).page.okind = false
          ∧ (t.core core).page.oobj = BitVec.ofNat 24 obj)
        ∧ done (.ogoRelease core realm obj) s fun t => (t.core core).page.okind = true ∧ (t.core core).page.oobj = BitVec.ofNat 24 obj)
    ∧ (∀ (s : State) (core realm obj : Nat) (o : OInv) (z : State) (r : Option OcEntry), oinvOf s core realm obj false = some o → open_ s (oinvWho s core).who →
      rawEntry (dropXlat s core realm obj) core realm obj = .ok z r → s.defers = [] → z.defers = [] → clean z core →
      done (.oinvDrain core realm obj) s fun t => (t.core core).oinv = (z.core core).oinv.erase o)
    ∧ (∀ (s : State) (core realm obj : Nat) (o : OInv), oinvOf s core realm obj true = some o →
      done (.oinvRelease core realm obj) s fun t => (t.core core).oinv = (s.core core).oinv.erase o)
    ∧ (∀ (s : State) (core a : Nat), (s.core core).page.cpaddr = none → open_ s (clrpWho s core).who → a % 2 ^ 51 / 2 ^ 40 = s.pkg.agent →
      s.pkg.agent < 2000 → done (.cpaddr core a) s fun t => (t.core core).page.cpaddr = none ∧ (t.core core).page.cpres = 0
        ∧ t.dir (a % 2 ^ 40 / 128) ≠ 3)
    ∧ (∀ (s : State) (core : Nat), let p := (s.core core).page
      p.mcbusy = false → p.mcsrc.toNat % 64 = 0 → p.mcdst.toNat % 64 = 0 → p.mclen ≠ 0 →
      done (.mcgo core) s fun t => (t.core core).page.mcbusy = true)
    ∧ (∀ (s : State) (core : Nat), let p := (s.core core).page
      let a := p.mcsrc.toNat + 64 * p.mcpos
      let b := p.mcdst.toNat + 64 * p.mcpos
      p.mcbusy = true → open_ s (copyWho s core).who → s.noAcks (a / 128) = true → a % 64 = 0 → b % 64 = 0 → s.pkg.agent < 2000 →
      (∀ x, x = a ∨ x = b → x / 2 ^ 40 = s.pkg.agent ∧ x % 2 ^ 40 < usable s ∧ s.dir (x % 2 ^ 40 / 128) = 0) →
      done (.blockCopyBlock core) s fun t => t.hbm.read (b % 2 ^ 40) 64 = s.hbm.read (a % 2 ^ 40) 64
        ∧ (p.mclen.toNat ≤ p.mcpos + 1 → (t.core core).page.mcbusy = false ∧ (t.core core).page.mcres = 0))
    ∧ (∀ (s : State) (core : Nat) (v : Word), done (.registerWrite (.ocbase core) v) s fun t =>
      (t.core core).ocbase = v &&& BitVec.ofNat 64 (2 ^ 51 - 2 ^ 16 + 1))
    ∧ (∀ (s : State) (core : Nat) (r : RegAddr), done (.supervisorAccess core (.reg r)) s fun t => sent s t [.supReg core (regRead s r)])
    ∧ (∀ (s : State) (core a n : Nat) (e : L1Line), (supReg? core a).isSome = false → addrOk s a = true → addrOk s (a + n - 1) = true → a / 2 ^ 40 < 2000 →
      0 < n → a % 128 + n ≤ 128 → open_ s (supWho s core).who → s.l1Find core supKey (a / 128) = some e →
      done (.supervisorAccess core (.load a n)) s fun t => sent s t [.supLoad core (lineGet e.data (a % 128) n)])
    ∧ (∀ (s : State) (core realm : Nat) (nums : List Nat), nums ≠ [] → (residents s core none).any (fun e => e.2.realm == realm) = true →
      done (.objectPoolRefill core realm nums) s fun t =>
        tget (t.core core).pools realm [] = (tget (s.core core).pools realm [] ++ nums).eraseDups.take 64)
  let home : Prop :=
    (∀ (s : State) (src cell line l : Nat), s.rht = [] → s.dir l = 0 → let gives (p : Packet) (t : State) : Prop := sent s t [p] ∧ t.dir l = 2
      (alone s (.rds ⟨src, cell⟩ line) l → done (.rds ⟨src, cell⟩ line) s (gives (.data line src .excl 0 (s.hbm.line l))))
        ∧ (alone s (.rdx src cell line) l → done (.rdx src cell line) s (gives (.data line src .modified 0 (s.hbm.line l))))
        ∧ (alone s (.upg src cell line) l → done (.upg src cell line) s (gives (.data line src .modified 0 (s.hbm.line l))))
        ∧ (alone s (.wrfull src cell line) l → done (.wrfull src cell line) s (gives (.grant line src 0 (s.metaOf l)))))
    ∧ (∀ (s : State) (src cell line l : Nat) (wr : Bool), s.rht = [] → s.dir l = 0 → alone s (.rdu src cell line wr) l →
      done (.rdu src cell line wr) s fun t => sent s t [.data line src .inv 0 (s.hbm.line l)])
    ∧ (∀ (s : State) (src cell a l : Nat), s.rht = [] → s.dir l = 0 → alone s (.rdnc ⟨src, cell⟩ a) l →
      done (.rdnc ⟨src, cell⟩ a) s fun t => sent s t [.word a src (s.hbm.readWord (a % 2 ^ 40 / 8 * 8))])
    ∧ (∀ (s : State) (src cell line l : Nat) (m : BitVec 128) (md : BitVec 2) (d : LineData), s.rht = [] → s.dir l = 0 → alone s (.wbu src cell line ⟨m, md⟩ d) l →
      done (.wbu src cell line ⟨m, md⟩ d) s fun t => ∀ k < 128, t.hbm.byte (128 * l + k) =
        if m.getLsbD k then d.bytes.getD k 0 else s.hbm.byte (128 * l + k))
    ∧ (∀ (s : State) (src cell line l tg : Nat) (dr : Bool), alone s (.evs ⟨src, cell⟩ line) l → s.dir l = 1 → s.holder l = some (.ptrs tg none dr [src]) →
      done (.evs ⟨src, cell⟩ line) s fun t => t.dir l = 0 ∧ t.holder l = none)
    ∧ (∀ (s : State) (src cell line l tg : Nat) (dr : Bool) (d : LineData), s.dir l = 2 → s.holder l = some (.ptrs tg (some 0) dr [src]) →
      (alone s (.wbm ⟨src, cell⟩ line d) l → done (.wbm ⟨src, cell⟩ line d) s fun t => t.dir l = 0 ∧ sent s t [.wback line src])
        ∧ (alone s (.dirty ⟨src, cell⟩ line) l → done (.dirty ⟨src, cell⟩ line) s fun t =>
          t.holder l = some (.ptrs tg (some 0) true [src]) ∧ sent s t [.dirtyack line src]))
    ∧ (∀ (s : State) (src cell line l : Nat), s.rht = [] → s.dir l = 3 → alone s (.clrp ⟨src, cell⟩ line) l →
      done (.clrp ⟨src, cell⟩ line) s fun t => t.dir l = 0 ∧ sent s t [.wback line src])
  let agent : Prop :=
    (∀ (s : State) (line col : Nat), calm s line → done (.inv ⟨line, s.pkg.agent⟩ col) s fun t =>
      tfind t.copies line = none ∧ sent s t [.invack line col])
    ∧ (∀ (s : State) (line req ac : Nat) (d : LineData), calm s line → tfind s.copies line = some ⟨.modified, d⟩ → let home := agentOf line
      (done (.fwds ⟨line, s.pkg.agent⟩ req) s fun t => sent s t [.fwddata line req .shared 0 d, .fwdack line home true d]
          ∧ tfind t.copies line = some ⟨.owned, d⟩)
        ∧ (done (.fwdx ⟨line, s.pkg.agent⟩ req ac) s fun t =>
          sent s t [.fwddata line req .modified ac d, .fwdack line home false d] ∧ tfind t.copies line = none)
        ∧ done (.wbreq ⟨line, s.pkg.agent⟩ true) s fun t => sent s t [.fwdack line home true d] ∧ tfind t.copies line = none)
    ∧ (∀ (s : State) (line : Nat) (r : Req) (d : LineData) (src : Nat), asked s line .rds r →
      (done (.data line .shared 0 d) s fun t => tfind t.copies line = some ⟨.shared, d⟩ ∧ t.reqs = [])
        ∧ done (.fwddata ⟨line, src⟩ .shared 0 d) s fun t => tfind t.copies line = some ⟨.shared, d⟩ ∧ t.reqs = [])
    ∧ (∀ (s : State) (line : Nat) (r : Req) (c : Copy) (md : List (Byte × Byte)), calm s line → s.reqs = [r] → r.line = line → r.kind = .upg → tfind s.copies line = some c →
      done (.grant line ⟨0, md⟩) s fun t => tfind t.copies line = some ⟨.modified, c.data⟩ ∧ t.reqs = [])
    ∧ (∀ (s : State) (line : Nat) (a : Acks) (src : Nat), s.pkg.fenced = [] → s.fwds = [] → agentOf line ≠ s.pkg.agent → s.acks = [a] → a.line = line → a.count = 1 →
      (done (.invack ⟨line, src⟩) s fun t => t.acks = []) ∧ (a.dirties = 1 → done (.dirtyack line) s fun t => t.acks = []))
    ∧ (∀ (s : State) (line cell : Nat) (d : LineData) (tg : Nat) (dr : Bool) (q src : Nat), let l := localOf line
      agentOf line = s.pkg.agent → s.pkg.fenced = [] → q ≠ src → s.holder l = some (.ptrs tg (some 0) dr [q]) →
      s.homeTx = [{ line := l, what := .request (.rds ⟨src, cell⟩ line), owe := [], reply := true, queue := [] }] →
      (done (.fwdack ⟨line, q⟩ true d) s fun t => t.homeTx = [] ∧ t.holder l = some (.ptrs tg (some 0) true [q, src]))
        ∧ (dr = false → done (.miss ⟨line, q⟩) s fun t => t.homeTx = [] ∧ t.dir l = 2))
    ∧ (∀ (s : State) (line : Nat) (e : WbEntry), s.pkg.fenced = [] → s.wbuf = [e] → e.line = line → done (.wback line) s fun t => t.wbuf = [])
    ∧ (∀ (s : State) (line : Nat) (r : Req), s.pkg.fenced = [] → agentOf line ≠ s.pkg.agent → s.reqs = [r] → r.line = line →
      r.kind = .rdx →
      (done (.refuse line) s fun t => t.reqs = [] ∧ t.fails = s.fails ++ r.waiters.map fun e => ⟨e.1, line, .firewall⟩)
        ∧ done (.poison line) s fun t => t.reqs = [] ∧ t.fails = s.fails ++ r.waiters.map fun e => ⟨e.1, line, .poison⟩)
  let recovery : Prop :=
    (∀ (s : State) (page : Nat) (idx : BitVec 8), done (.selvedgeChange page idx) s fun t => tget t.selPg page 0 = idx)
    ∧ (∀ (s : State) (a : Nat) (owed : List (Nat × Nat)), (∃ e ∈ s.ports, e.2.peer = some a) → a ∉ s.pkg.fenced → a < 2000 → a ≠ s.pkg.agent →
      (∀ e ∈ s.ports, e.2.peer = some a → e.2.heard + 50 ≤ s.usec) → done (.deathDeclare ⟨a, owed⟩) s fun t => a ∈ t.pkg.fenced)
    ∧ (∀ (s : State) (a : Nat) (routes : List (Nat × Nat)) (owed : List (Nat × Nat)), a < 2000 → a ≠ s.pkg.agent → done (.deathNotice [a] ⟨routes, owed⟩) s fun t => a ∈ t.pkg.fenced)
    ∧ (∀ (s : State) (line tg : Nat) (dr : Bool) (q : Nat), let l := localOf line
      s.holder l = some (.ptrs tg (some 0) dr [q]) → q ∈ s.pkg.fenced → s.txOf l = none →
      done (.recoveryScan line) s fun t => t.holder l = none ∧ t.dir l = (if dr then 3 else 0))
  teams ∧ preemption ∧ supervisor ∧ home ∧ agent ∧ recovery
end

