-- ==== Sys2Proof/Laws/Table.lean ====
section
/-! SUPPORT. Laws of sparse tables: reading after writing, and that writing keeps the canonical form. -/

namespace Sys2Proof.Machine

variable {α : Type}

/-- The keys of a table rise strictly, and all lie above a bound. -/
def tabAbove (b : Nat) : Tab α → Prop
  | [] => True
  | (j, _) :: r => b < j ∧ tabAbove j r

/-- The keys of a table rise strictly. -/
def tabRising : Tab α → Prop
  | [] => True
  | (j, _) :: r => tabAbove j r

theorem tabAbove_mono {a b : Nat} (h : a ≤ b) : ∀ {t : Tab α}, tabAbove b t → tabAbove a t
  | [], _ => trivial
  | (_, _) :: _, hr => ⟨Nat.lt_of_le_of_lt h hr.1, hr.2⟩

theorem tabAbove_rising {b : Nat} : ∀ {t : Tab α}, tabAbove b t → tabRising t
  | [], _ => trivial
  | (_, _) :: _, h => h.2

theorem tabAbove_mem {b : Nat} : ∀ {t : Tab α}, tabAbove b t → ∀ e ∈ t, b < e.1
  | [], _, _, he => absurd he (by simp)
  | (j, v) :: r, h, e, he => by
    rcases List.mem_cons.1 he with rfl | he
    · exact h.1
    · exact Nat.lt_trans h.1 (tabAbove_mem h.2 e he)

theorem tabAbove_iff {b : Nat} : ∀ {t : Tab α}, tabAbove b t ↔ tabRising t ∧ ∀ e ∈ t, b < e.1
  | [] => by simp [tabAbove, tabRising]
  | (j, v) :: r => by
    constructor
    · exact fun h => ⟨h.2, tabAbove_mem h⟩
    · exact fun h => ⟨h.2 (j, v) (by simp), h.1⟩

/-! ### Reading after writing -/

theorem tfind_tset (t : Tab α) (k j : Nat) (v : α) :
    tfind (tset t k v) j = if k = j then some v else tfind t j := by
  induction t with
  | nil => simp [tset, tfind]
  | cons e r ih =>
    obtain ⟨i, w⟩ := e
    simp only [tset]
    split
    · simp [tfind]
    · split
      · rename_i hik; subst hik; by_cases h : k = j <;> simp [tfind, h]
      · by_cases h : i = j
        · have : k ≠ j := by omega
          simp [tfind, h, this]
        · simp [tfind, h, ih]

@[simp] theorem tfind_tset_self (t : Tab α) (k : Nat) (v : α) : tfind (tset t k v) k = some v := by
  simp [tfind_tset]

theorem tfind_tset_ne (t : Tab α) {k j : Nat} (h : k ≠ j) (v : α) : tfind (tset t k v) j = tfind t j := by
  simp [tfind_tset, h]

@[simp] theorem tget_tset_self (t : Tab α) (k : Nat) (v d : α) : tget (tset t k v) k d = v := by simp [tget]

theorem tget_tset_ne (t : Tab α) {k j : Nat} (h : k ≠ j) (v d : α) : tget (tset t k v) j d = tget t j d := by
  simp [tget, tfind_tset_ne t h]

theorem tfind_tdel (t : Tab α) (k j : Nat) : tfind (tdel t k) j = if k = j then none else tfind t j := by
  induction t with
  | nil => simp [tdel, tfind]
  | cons e r ih =>
    obtain ⟨i, w⟩ := e
    have hr : tdel ((i, w) :: r) k = if i = k then tdel r k else (i, w) :: tdel r k := by
      by_cases h : i = k <;> simp [tdel, h]
    rw [hr]
    by_cases hik : i = k
    · rw [if_pos hik, ih]
      by_cases hkj : k = j
      · simp [hkj]
      · have : i ≠ j := by omega
        simp [tfind, hkj, this]
    · rw [if_neg hik]
      by_cases hij : i = j
      · have : k ≠ j := by omega
        simp [tfind, hij, this]
      · simp [tfind, hij, ih]

theorem tget_tput [DecidableEq α] (t : Tab α) (k j : Nat) (v d : α) :
    tget (tput t k v d) j d = if k = j then v else tget t j d := by
  unfold tput tget
  split
  · rw [tfind_tdel]; split
    · subst_vars; simp
    · rfl
  · rw [tfind_tset]; split <;> simp

@[simp] theorem tget_tput_self [DecidableEq α] (t : Tab α) (k : Nat) (v d : α) : tget (tput t k v d) k d = v := by
  simp [tget_tput]

theorem tget_tput_ne [DecidableEq α] (t : Tab α) {k j : Nat} (h : k ≠ j) (v d : α) :
    tget (tput t k v d) j d = tget t j d := by
  simp [tget_tput, h]

/-! ### The canonical form -/

theorem tabAbove_tset {b : Nat} (v : α) : ∀ {t : Tab α} {k : Nat}, tabAbove b t → b < k → tabAbove b (tset t k v)
  | [], _, _, hk => ⟨hk, trivial⟩
  | (j, w) :: r, k, h, hk => by
    simp only [tset]
    split
    · exact ⟨hk, by assumption, h.2⟩
    · split
      · subst_vars; exact ⟨hk, h.2⟩
      · exact ⟨h.1, tabAbove_tset v h.2 (by omega)⟩

theorem tabRising_tset (t : Tab α) (k : Nat) (v : α) (h : tabRising t) : tabRising (tset t k v) := by
  cases t with
  | nil => trivial
  | cons e r =>
    obtain ⟨j, w⟩ := e
    simp only [tset]
    split
    · exact ⟨by assumption, h⟩
    · split
      · subst_vars; exact h
      · exact tabAbove_tset v h (by omega)

theorem tabAbove_filter {b : Nat} (p : Nat × α → Bool) : ∀ {t : Tab α}, tabAbove b t → tabAbove b (t.filter p)
  | [], _ => trivial
  | (j, w) :: r, h => by
    rw [List.filter_cons]
    split
    · exact ⟨h.1, tabAbove_filter p h.2⟩
    · exact tabAbove_mono (Nat.le_of_lt h.1) (tabAbove_filter p h.2)

theorem tabRising_filter (p : Nat × α → Bool) {t : Tab α} (h : tabRising t) : tabRising (t.filter p) := by
  cases t with
  | nil => trivial
  | cons e r =>
    obtain ⟨j, w⟩ := e
    rw [List.filter_cons]
    split
    · exact tabAbove_filter p h
    · exact tabAbove_rising (tabAbove_filter p h)

/-- The canonical form says two things: keys rise strictly, and no entry is the default. -/
theorem tabWf_iff [DecidableEq α] (d : α) : ∀ t : Tab α, tabWf d t = true ↔ tabRising t ∧ ∀ e ∈ t, e.2 ≠ d
  | [] => by simp [tabWf, tabRising]
  | [(j, v)] => by simp [tabWf, tabRising, tabAbove]
  | (j, v) :: (k, w) :: r => by
    have ih := tabWf_iff d ((k, w) :: r)
    simp only [tabWf, Bool.and_eq_true, bne_iff_ne, decide_eq_true_eq, ih]
    simp only [tabRising, tabAbove, List.mem_cons, forall_eq_or_imp]
    tauto

theorem tabWf_nil [DecidableEq α] (d : α) : tabWf d ([] : Tab α) = true := rfl

theorem tabWf_filter [DecidableEq α] {d : α} {t : Tab α} (p : Nat × α → Bool) (h : tabWf d t = true) :
    tabWf d (t.filter p) = true := by
  rw [tabWf_iff] at h ⊢
  exact ⟨tabRising_filter p h.1, fun e he => h.2 e (List.mem_filter.1 he).1⟩

theorem mem_tset {t : Tab α} {k : Nat} {v : α} {e : Nat × α} (h : e ∈ tset t k v) : e = (k, v) ∨ e ∈ t := by
  induction t with
  | nil => simpa [tset] using h
  | cons f r ih =>
    obtain ⟨j, w⟩ := f
    simp only [tset] at h
    split at h
    · simpa using h
    · split at h
      · simp only [List.mem_cons] at h ⊢; tauto
      · rcases List.mem_cons.1 h with h | h
        · simp [h]
        · rcases ih h with h | h <;> simp [h]

theorem tabWf_tset [DecidableEq α] {d : α} {t : Tab α} (k : Nat) {v : α} (hv : v ≠ d) (h : tabWf d t = true) :
    tabWf d (tset t k v) = true := by
  rw [tabWf_iff] at h ⊢
  refine ⟨tabRising_tset t k v h.1, fun e he => ?_⟩
  rcases mem_tset he with rfl | he
  · exact hv
  · exact h.2 e he

theorem tabWf_tput [DecidableEq α] {d : α} {t : Tab α} (k : Nat) (v : α) (h : tabWf d t = true) :
    tabWf d (tput t k v d) = true := by
  unfold tput
  split
  · exact tabWf_filter _ h
  · exact tabWf_tset k (by assumption) h

theorem tfind_above {b k : Nat} {t : Tab α} (h : tabAbove b t) (hk : k ≤ b) : tfind t k = none := by
  induction t generalizing b with
  | nil => rfl
  | cons e r ih =>
    obtain ⟨j, w⟩ := e
    have h1 : b < j := h.1
    have : j ≠ k := by omega
    simp only [tfind, this, if_false]
    exact ih h.2 (by omega)

end Sys2Proof.Machine
end

