-- ==== Sys2Proof/Laws/State.lean ====
section
/-! SUPPORT. Laws of the state's setters: each leaves every other field alone, and what is read after it. -/

namespace Sys2Proof.Machine

variable (s : State)

/-! ### setCore -/

@[simp] theorem State.setCore_pkg (c : Nat) (v : Core) : (s.setCore c v).pkg = s.pkg := rfl
@[simp] theorem State.setCore_ports (c : Nat) (v : Core) : (s.setCore c v).ports = s.ports := rfl
@[simp] theorem State.setCore_hbm (c : Nat) (v : Core) : (s.setCore c v).hbm = s.hbm := rfl
@[simp] theorem State.setCore_rht (c : Nat) (v : Core) : (s.setCore c v).rht = s.rht := rfl
@[simp] theorem State.setCore_selPg (c : Nat) (v : Core) : (s.setCore c v).selPg = s.selPg := rfl
@[simp] theorem State.setCore_selSet (c : Nat) (v : Core) : (s.setCore c v).selSet = s.selSet := rfl
@[simp] theorem State.setCore_homeTx (c : Nat) (v : Core) : (s.setCore c v).homeTx = s.homeTx := rfl
@[simp] theorem State.setCore_copies (c : Nat) (v : Core) : (s.setCore c v).copies = s.copies := rfl
@[simp] theorem State.setCore_halves (c : Nat) (v : Core) : (s.setCore c v).halves = s.halves := rfl
@[simp] theorem State.setCore_transit (c : Nat) (v : Core) : (s.setCore c v).transit = s.transit := rfl
@[simp] theorem State.setCore_biPend (c : Nat) (v : Core) : (s.setCore c v).biPend = s.biPend := rfl
@[simp] theorem State.setCore_wbuf (c : Nat) (v : Core) : (s.setCore c v).wbuf = s.wbuf := rfl
@[simp] theorem State.setCore_reqs (c : Nat) (v : Core) : (s.setCore c v).reqs = s.reqs := rfl
@[simp] theorem State.setCore_fails (c : Nat) (v : Core) : (s.setCore c v).fails = s.fails := rfl
@[simp] theorem State.setCore_acks (c : Nat) (v : Core) : (s.setCore c v).acks = s.acks := rfl
@[simp] theorem State.setCore_fwds (c : Nat) (v : Core) : (s.setCore c v).fwds = s.fwds := rfl
@[simp] theorem State.setCore_fills (c : Nat) (v : Core) : (s.setCore c v).fills = s.fills := rfl
@[simp] theorem State.setCore_ext (c : Nat) (v : Core) : (s.setCore c v).ext = s.ext := rfl
@[simp] theorem State.setCore_out (c : Nat) (v : Core) : (s.setCore c v).out = s.out := rfl
@[simp] theorem State.setCore_parts (c : Nat) (v : Core) : (s.setCore c v).parts = s.parts := rfl
@[simp] theorem State.setCore_warps (c : Nat) (v : Core) : (s.setCore c v).warps = s.warps := rfl
@[simp] theorem State.setCore_lanes (c : Nat) (v : Core) : (s.setCore c v).lanes = s.lanes := rfl
@[simp] theorem State.setCore_frames (c : Nat) (v : Core) : (s.setCore c v).frames = s.frames := rfl
@[simp] theorem State.setCore_teams (c : Nat) (v : Core) : (s.setCore c v).teams = s.teams := rfl
@[simp] theorem State.setCore_ended (c : Nat) (v : Core) : (s.setCore c v).ended = s.ended := rfl
@[simp] theorem State.setCore_defers (c : Nat) (v : Core) : (s.setCore c v).defers = s.defers := rfl
@[simp] theorem State.setCore_pages (c : Nat) (v : Core) : (s.setCore c v).pages = s.pages := rfl
@[simp] theorem State.setCore_grids (c : Nat) (v : Core) : (s.setCore c v).grids = s.grids := rfl
@[simp] theorem State.setCore_back (c : Nat) (v : Core) : (s.setCore c v).back = s.back := rfl
@[simp] theorem State.setCore_agenda (c : Nat) (v : Core) : (s.setCore c v).agenda = s.agenda := rfl
@[simp] theorem State.setCore_iq (c : Nat) (v : Core) : (s.setCore c v).iq = s.iq := rfl
@[simp] theorem State.setCore_cur (c : Nat) (v : Core) : (s.setCore c v).cur = s.cur := rfl
@[simp] theorem State.setCore_stalls (c : Nat) (v : Core) : (s.setCore c v).stalls = s.stalls := rfl
@[simp] theorem State.setCore_epoch (c : Nat) (v : Core) : (s.setCore c v).epoch = s.epoch := rfl
@[simp] theorem State.setCore_fresh (c : Nat) (v : Core) : (s.setCore c v).fresh = s.fresh := rfl
@[simp] theorem State.setCore_uid (c : Nat) (v : Core) : (s.setCore c v).uid = s.uid := rfl
@[simp] theorem State.setCore_usec (c : Nat) (v : Core) : (s.setCore c v).usec = s.usec := rfl
@[simp] theorem State.setCore_turn (c : Nat) (v : Core) : (s.setCore c v).turn = s.turn := rfl

/-! ### setPart -/

@[simp] theorem State.setPart_pkg (p : Nat) (v : Part) : (s.setPart p v).pkg = s.pkg := rfl
@[simp] theorem State.setPart_ports (p : Nat) (v : Part) : (s.setPart p v).ports = s.ports := rfl
@[simp] theorem State.setPart_hbm (p : Nat) (v : Part) : (s.setPart p v).hbm = s.hbm := rfl
@[simp] theorem State.setPart_rht (p : Nat) (v : Part) : (s.setPart p v).rht = s.rht := rfl
@[simp] theorem State.setPart_selPg (p : Nat) (v : Part) : (s.setPart p v).selPg = s.selPg := rfl
@[simp] theorem State.setPart_selSet (p : Nat) (v : Part) : (s.setPart p v).selSet = s.selSet := rfl
@[simp] theorem State.setPart_homeTx (p : Nat) (v : Part) : (s.setPart p v).homeTx = s.homeTx := rfl
@[simp] theorem State.setPart_copies (p : Nat) (v : Part) : (s.setPart p v).copies = s.copies := rfl
@[simp] theorem State.setPart_halves (p : Nat) (v : Part) : (s.setPart p v).halves = s.halves := rfl
@[simp] theorem State.setPart_transit (p : Nat) (v : Part) : (s.setPart p v).transit = s.transit := rfl
@[simp] theorem State.setPart_biPend (p : Nat) (v : Part) : (s.setPart p v).biPend = s.biPend := rfl
@[simp] theorem State.setPart_wbuf (p : Nat) (v : Part) : (s.setPart p v).wbuf = s.wbuf := rfl
@[simp] theorem State.setPart_reqs (p : Nat) (v : Part) : (s.setPart p v).reqs = s.reqs := rfl
@[simp] theorem State.setPart_fails (p : Nat) (v : Part) : (s.setPart p v).fails = s.fails := rfl
@[simp] theorem State.setPart_acks (p : Nat) (v : Part) : (s.setPart p v).acks = s.acks := rfl
@[simp] theorem State.setPart_fwds (p : Nat) (v : Part) : (s.setPart p v).fwds = s.fwds := rfl
@[simp] theorem State.setPart_fills (p : Nat) (v : Part) : (s.setPart p v).fills = s.fills := rfl
@[simp] theorem State.setPart_ext (p : Nat) (v : Part) : (s.setPart p v).ext = s.ext := rfl
@[simp] theorem State.setPart_out (p : Nat) (v : Part) : (s.setPart p v).out = s.out := rfl
@[simp] theorem State.setPart_cores (p : Nat) (v : Part) : (s.setPart p v).cores = s.cores := rfl
@[simp] theorem State.setPart_warps (p : Nat) (v : Part) : (s.setPart p v).warps = s.warps := rfl
@[simp] theorem State.setPart_lanes (p : Nat) (v : Part) : (s.setPart p v).lanes = s.lanes := rfl
@[simp] theorem State.setPart_frames (p : Nat) (v : Part) : (s.setPart p v).frames = s.frames := rfl
@[simp] theorem State.setPart_teams (p : Nat) (v : Part) : (s.setPart p v).teams = s.teams := rfl
@[simp] theorem State.setPart_ended (p : Nat) (v : Part) : (s.setPart p v).ended = s.ended := rfl
@[simp] theorem State.setPart_defers (p : Nat) (v : Part) : (s.setPart p v).defers = s.defers := rfl
@[simp] theorem State.setPart_pages (p : Nat) (v : Part) : (s.setPart p v).pages = s.pages := rfl
@[simp] theorem State.setPart_grids (p : Nat) (v : Part) : (s.setPart p v).grids = s.grids := rfl
@[simp] theorem State.setPart_back (p : Nat) (v : Part) : (s.setPart p v).back = s.back := rfl
@[simp] theorem State.setPart_agenda (p : Nat) (v : Part) : (s.setPart p v).agenda = s.agenda := rfl
@[simp] theorem State.setPart_iq (p : Nat) (v : Part) : (s.setPart p v).iq = s.iq := rfl
@[simp] theorem State.setPart_cur (p : Nat) (v : Part) : (s.setPart p v).cur = s.cur := rfl
@[simp] theorem State.setPart_stalls (p : Nat) (v : Part) : (s.setPart p v).stalls = s.stalls := rfl
@[simp] theorem State.setPart_epoch (p : Nat) (v : Part) : (s.setPart p v).epoch = s.epoch := rfl
@[simp] theorem State.setPart_fresh (p : Nat) (v : Part) : (s.setPart p v).fresh = s.fresh := rfl
@[simp] theorem State.setPart_uid (p : Nat) (v : Part) : (s.setPart p v).uid = s.uid := rfl
@[simp] theorem State.setPart_usec (p : Nat) (v : Part) : (s.setPart p v).usec = s.usec := rfl
@[simp] theorem State.setPart_turn (p : Nat) (v : Part) : (s.setPart p v).turn = s.turn := rfl

/-! ### setWarp -/

@[simp] theorem State.setWarp_pkg (wk : Nat) (v : Warp) : (s.setWarp wk v).pkg = s.pkg := rfl
@[simp] theorem State.setWarp_ports (wk : Nat) (v : Warp) : (s.setWarp wk v).ports = s.ports := rfl
@[simp] theorem State.setWarp_hbm (wk : Nat) (v : Warp) : (s.setWarp wk v).hbm = s.hbm := rfl
@[simp] theorem State.setWarp_rht (wk : Nat) (v : Warp) : (s.setWarp wk v).rht = s.rht := rfl
@[simp] theorem State.setWarp_selPg (wk : Nat) (v : Warp) : (s.setWarp wk v).selPg = s.selPg := rfl
@[simp] theorem State.setWarp_selSet (wk : Nat) (v : Warp) : (s.setWarp wk v).selSet = s.selSet := rfl
@[simp] theorem State.setWarp_homeTx (wk : Nat) (v : Warp) : (s.setWarp wk v).homeTx = s.homeTx := rfl
@[simp] theorem State.setWarp_copies (wk : Nat) (v : Warp) : (s.setWarp wk v).copies = s.copies := rfl
@[simp] theorem State.setWarp_halves (wk : Nat) (v : Warp) : (s.setWarp wk v).halves = s.halves := rfl
@[simp] theorem State.setWarp_transit (wk : Nat) (v : Warp) : (s.setWarp wk v).transit = s.transit := rfl
@[simp] theorem State.setWarp_biPend (wk : Nat) (v : Warp) : (s.setWarp wk v).biPend = s.biPend := rfl
@[simp] theorem State.setWarp_wbuf (wk : Nat) (v : Warp) : (s.setWarp wk v).wbuf = s.wbuf := rfl
@[simp] theorem State.setWarp_reqs (wk : Nat) (v : Warp) : (s.setWarp wk v).reqs = s.reqs := rfl
@[simp] theorem State.setWarp_fails (wk : Nat) (v : Warp) : (s.setWarp wk v).fails = s.fails := rfl
@[simp] theorem State.setWarp_acks (wk : Nat) (v : Warp) : (s.setWarp wk v).acks = s.acks := rfl
@[simp] theorem State.setWarp_fwds (wk : Nat) (v : Warp) : (s.setWarp wk v).fwds = s.fwds := rfl
@[simp] theorem State.setWarp_fills (wk : Nat) (v : Warp) : (s.setWarp wk v).fills = s.fills := rfl
@[simp] theorem State.setWarp_ext (wk : Nat) (v : Warp) : (s.setWarp wk v).ext = s.ext := rfl
@[simp] theorem State.setWarp_out (wk : Nat) (v : Warp) : (s.setWarp wk v).out = s.out := rfl
@[simp] theorem State.setWarp_cores (wk : Nat) (v : Warp) : (s.setWarp wk v).cores = s.cores := rfl
@[simp] theorem State.setWarp_parts (wk : Nat) (v : Warp) : (s.setWarp wk v).parts = s.parts := rfl
@[simp] theorem State.setWarp_lanes (wk : Nat) (v : Warp) : (s.setWarp wk v).lanes = s.lanes := rfl
@[simp] theorem State.setWarp_frames (wk : Nat) (v : Warp) : (s.setWarp wk v).frames = s.frames := rfl
@[simp] theorem State.setWarp_teams (wk : Nat) (v : Warp) : (s.setWarp wk v).teams = s.teams := rfl
@[simp] theorem State.setWarp_ended (wk : Nat) (v : Warp) : (s.setWarp wk v).ended = s.ended := rfl
@[simp] theorem State.setWarp_defers (wk : Nat) (v : Warp) : (s.setWarp wk v).defers = s.defers := rfl
@[simp] theorem State.setWarp_pages (wk : Nat) (v : Warp) : (s.setWarp wk v).pages = s.pages := rfl
@[simp] theorem State.setWarp_grids (wk : Nat) (v : Warp) : (s.setWarp wk v).grids = s.grids := rfl
@[simp] theorem State.setWarp_back (wk : Nat) (v : Warp) : (s.setWarp wk v).back = s.back := rfl
@[simp] theorem State.setWarp_agenda (wk : Nat) (v : Warp) : (s.setWarp wk v).agenda = s.agenda := rfl
@[simp] theorem State.setWarp_iq (wk : Nat) (v : Warp) : (s.setWarp wk v).iq = s.iq := rfl
@[simp] theorem State.setWarp_cur (wk : Nat) (v : Warp) : (s.setWarp wk v).cur = s.cur := rfl
@[simp] theorem State.setWarp_stalls (wk : Nat) (v : Warp) : (s.setWarp wk v).stalls = s.stalls := rfl
@[simp] theorem State.setWarp_epoch (wk : Nat) (v : Warp) : (s.setWarp wk v).epoch = s.epoch := rfl
@[simp] theorem State.setWarp_fresh (wk : Nat) (v : Warp) : (s.setWarp wk v).fresh = s.fresh := rfl
@[simp] theorem State.setWarp_uid (wk : Nat) (v : Warp) : (s.setWarp wk v).uid = s.uid := rfl
@[simp] theorem State.setWarp_usec (wk : Nat) (v : Warp) : (s.setWarp wk v).usec = s.usec := rfl
@[simp] theorem State.setWarp_turn (wk : Nat) (v : Warp) : (s.setWarp wk v).turn = s.turn := rfl

/-! ### setLane -/

@[simp] theorem State.setLane_pkg (wk l : Nat) (v : Lane) : (s.setLane wk l v).pkg = s.pkg := rfl
@[simp] theorem State.setLane_ports (wk l : Nat) (v : Lane) : (s.setLane wk l v).ports = s.ports := rfl
@[simp] theorem State.setLane_hbm (wk l : Nat) (v : Lane) : (s.setLane wk l v).hbm = s.hbm := rfl
@[simp] theorem State.setLane_rht (wk l : Nat) (v : Lane) : (s.setLane wk l v).rht = s.rht := rfl
@[simp] theorem State.setLane_selPg (wk l : Nat) (v : Lane) : (s.setLane wk l v).selPg = s.selPg := rfl
@[simp] theorem State.setLane_selSet (wk l : Nat) (v : Lane) : (s.setLane wk l v).selSet = s.selSet := rfl
@[simp] theorem State.setLane_homeTx (wk l : Nat) (v : Lane) : (s.setLane wk l v).homeTx = s.homeTx := rfl
@[simp] theorem State.setLane_copies (wk l : Nat) (v : Lane) : (s.setLane wk l v).copies = s.copies := rfl
@[simp] theorem State.setLane_halves (wk l : Nat) (v : Lane) : (s.setLane wk l v).halves = s.halves := rfl
@[simp] theorem State.setLane_transit (wk l : Nat) (v : Lane) : (s.setLane wk l v).transit = s.transit := rfl
@[simp] theorem State.setLane_biPend (wk l : Nat) (v : Lane) : (s.setLane wk l v).biPend = s.biPend := rfl
@[simp] theorem State.setLane_wbuf (wk l : Nat) (v : Lane) : (s.setLane wk l v).wbuf = s.wbuf := rfl
@[simp] theorem State.setLane_reqs (wk l : Nat) (v : Lane) : (s.setLane wk l v).reqs = s.reqs := rfl
@[simp] theorem State.setLane_fails (wk l : Nat) (v : Lane) : (s.setLane wk l v).fails = s.fails := rfl
@[simp] theorem State.setLane_acks (wk l : Nat) (v : Lane) : (s.setLane wk l v).acks = s.acks := rfl
@[simp] theorem State.setLane_fwds (wk l : Nat) (v : Lane) : (s.setLane wk l v).fwds = s.fwds := rfl
@[simp] theorem State.setLane_fills (wk l : Nat) (v : Lane) : (s.setLane wk l v).fills = s.fills := rfl
@[simp] theorem State.setLane_ext (wk l : Nat) (v : Lane) : (s.setLane wk l v).ext = s.ext := rfl
@[simp] theorem State.setLane_out (wk l : Nat) (v : Lane) : (s.setLane wk l v).out = s.out := rfl
@[simp] theorem State.setLane_cores (wk l : Nat) (v : Lane) : (s.setLane wk l v).cores = s.cores := rfl
@[simp] theorem State.setLane_parts (wk l : Nat) (v : Lane) : (s.setLane wk l v).parts = s.parts := rfl
@[simp] theorem State.setLane_warps (wk l : Nat) (v : Lane) : (s.setLane wk l v).warps = s.warps := rfl
@[simp] theorem State.setLane_frames (wk l : Nat) (v : Lane) : (s.setLane wk l v).frames = s.frames := rfl
@[simp] theorem State.setLane_teams (wk l : Nat) (v : Lane) : (s.setLane wk l v).teams = s.teams := rfl
@[simp] theorem State.setLane_ended (wk l : Nat) (v : Lane) : (s.setLane wk l v).ended = s.ended := rfl
@[simp] theorem State.setLane_defers (wk l : Nat) (v : Lane) : (s.setLane wk l v).defers = s.defers := rfl
@[simp] theorem State.setLane_pages (wk l : Nat) (v : Lane) : (s.setLane wk l v).pages = s.pages := rfl
@[simp] theorem State.setLane_grids (wk l : Nat) (v : Lane) : (s.setLane wk l v).grids = s.grids := rfl
@[simp] theorem State.setLane_back (wk l : Nat) (v : Lane) : (s.setLane wk l v).back = s.back := rfl
@[simp] theorem State.setLane_agenda (wk l : Nat) (v : Lane) : (s.setLane wk l v).agenda = s.agenda := rfl
@[simp] theorem State.setLane_iq (wk l : Nat) (v : Lane) : (s.setLane wk l v).iq = s.iq := rfl
@[simp] theorem State.setLane_cur (wk l : Nat) (v : Lane) : (s.setLane wk l v).cur = s.cur := rfl
@[simp] theorem State.setLane_stalls (wk l : Nat) (v : Lane) : (s.setLane wk l v).stalls = s.stalls := rfl
@[simp] theorem State.setLane_epoch (wk l : Nat) (v : Lane) : (s.setLane wk l v).epoch = s.epoch := rfl
@[simp] theorem State.setLane_fresh (wk l : Nat) (v : Lane) : (s.setLane wk l v).fresh = s.fresh := rfl
@[simp] theorem State.setLane_uid (wk l : Nat) (v : Lane) : (s.setLane wk l v).uid = s.uid := rfl
@[simp] theorem State.setLane_usec (wk l : Nat) (v : Lane) : (s.setLane wk l v).usec = s.usec := rfl
@[simp] theorem State.setLane_turn (wk l : Nat) (v : Lane) : (s.setLane wk l v).turn = s.turn := rfl

/-! ### setFrame -/

@[simp] theorem State.setFrame_pkg (fk : Nat) (v : Frame) : (s.setFrame fk v).pkg = s.pkg := rfl
@[simp] theorem State.setFrame_ports (fk : Nat) (v : Frame) : (s.setFrame fk v).ports = s.ports := rfl
@[simp] theorem State.setFrame_hbm (fk : Nat) (v : Frame) : (s.setFrame fk v).hbm = s.hbm := rfl
@[simp] theorem State.setFrame_rht (fk : Nat) (v : Frame) : (s.setFrame fk v).rht = s.rht := rfl
@[simp] theorem State.setFrame_selPg (fk : Nat) (v : Frame) : (s.setFrame fk v).selPg = s.selPg := rfl
@[simp] theorem State.setFrame_selSet (fk : Nat) (v : Frame) : (s.setFrame fk v).selSet = s.selSet := rfl
@[simp] theorem State.setFrame_homeTx (fk : Nat) (v : Frame) : (s.setFrame fk v).homeTx = s.homeTx := rfl
@[simp] theorem State.setFrame_copies (fk : Nat) (v : Frame) : (s.setFrame fk v).copies = s.copies := rfl
@[simp] theorem State.setFrame_halves (fk : Nat) (v : Frame) : (s.setFrame fk v).halves = s.halves := rfl
@[simp] theorem State.setFrame_transit (fk : Nat) (v : Frame) : (s.setFrame fk v).transit = s.transit := rfl
@[simp] theorem State.setFrame_biPend (fk : Nat) (v : Frame) : (s.setFrame fk v).biPend = s.biPend := rfl
@[simp] theorem State.setFrame_wbuf (fk : Nat) (v : Frame) : (s.setFrame fk v).wbuf = s.wbuf := rfl
@[simp] theorem State.setFrame_reqs (fk : Nat) (v : Frame) : (s.setFrame fk v).reqs = s.reqs := rfl
@[simp] theorem State.setFrame_fails (fk : Nat) (v : Frame) : (s.setFrame fk v).fails = s.fails := rfl
@[simp] theorem State.setFrame_acks (fk : Nat) (v : Frame) : (s.setFrame fk v).acks = s.acks := rfl
@[simp] theorem State.setFrame_fwds (fk : Nat) (v : Frame) : (s.setFrame fk v).fwds = s.fwds := rfl
@[simp] theorem State.setFrame_fills (fk : Nat) (v : Frame) : (s.setFrame fk v).fills = s.fills := rfl
@[simp] theorem State.setFrame_ext (fk : Nat) (v : Frame) : (s.setFrame fk v).ext = s.ext := rfl
@[simp] theorem State.setFrame_out (fk : Nat) (v : Frame) : (s.setFrame fk v).out = s.out := rfl
@[simp] theorem State.setFrame_cores (fk : Nat) (v : Frame) : (s.setFrame fk v).cores = s.cores := rfl
@[simp] theorem State.setFrame_parts (fk : Nat) (v : Frame) : (s.setFrame fk v).parts = s.parts := rfl
@[simp] theorem State.setFrame_warps (fk : Nat) (v : Frame) : (s.setFrame fk v).warps = s.warps := rfl
@[simp] theorem State.setFrame_lanes (fk : Nat) (v : Frame) : (s.setFrame fk v).lanes = s.lanes := rfl
@[simp] theorem State.setFrame_teams (fk : Nat) (v : Frame) : (s.setFrame fk v).teams = s.teams := rfl
@[simp] theorem State.setFrame_ended (fk : Nat) (v : Frame) : (s.setFrame fk v).ended = s.ended := rfl
@[simp] theorem State.setFrame_defers (fk : Nat) (v : Frame) : (s.setFrame fk v).defers = s.defers := rfl
@[simp] theorem State.setFrame_pages (fk : Nat) (v : Frame) : (s.setFrame fk v).pages = s.pages := rfl
@[simp] theorem State.setFrame_grids (fk : Nat) (v : Frame) : (s.setFrame fk v).grids = s.grids := rfl
@[simp] theorem State.setFrame_back (fk : Nat) (v : Frame) : (s.setFrame fk v).back = s.back := rfl
@[simp] theorem State.setFrame_agenda (fk : Nat) (v : Frame) : (s.setFrame fk v).agenda = s.agenda := rfl
@[simp] theorem State.setFrame_iq (fk : Nat) (v : Frame) : (s.setFrame fk v).iq = s.iq := rfl
@[simp] theorem State.setFrame_cur (fk : Nat) (v : Frame) : (s.setFrame fk v).cur = s.cur := rfl
@[simp] theorem State.setFrame_stalls (fk : Nat) (v : Frame) : (s.setFrame fk v).stalls = s.stalls := rfl
@[simp] theorem State.setFrame_epoch (fk : Nat) (v : Frame) : (s.setFrame fk v).epoch = s.epoch := rfl
@[simp] theorem State.setFrame_fresh (fk : Nat) (v : Frame) : (s.setFrame fk v).fresh = s.fresh := rfl
@[simp] theorem State.setFrame_uid (fk : Nat) (v : Frame) : (s.setFrame fk v).uid = s.uid := rfl
@[simp] theorem State.setFrame_usec (fk : Nat) (v : Frame) : (s.setFrame fk v).usec = s.usec := rfl
@[simp] theorem State.setFrame_turn (fk : Nat) (v : Frame) : (s.setFrame fk v).turn = s.turn := rfl

/-! ### setTeam -/

@[simp] theorem State.setTeam_pkg (tk : Nat) (v : Team) : (s.setTeam tk v).pkg = s.pkg := rfl
@[simp] theorem State.setTeam_ports (tk : Nat) (v : Team) : (s.setTeam tk v).ports = s.ports := rfl
@[simp] theorem State.setTeam_hbm (tk : Nat) (v : Team) : (s.setTeam tk v).hbm = s.hbm := rfl
@[simp] theorem State.setTeam_rht (tk : Nat) (v : Team) : (s.setTeam tk v).rht = s.rht := rfl
@[simp] theorem State.setTeam_selPg (tk : Nat) (v : Team) : (s.setTeam tk v).selPg = s.selPg := rfl
@[simp] theorem State.setTeam_selSet (tk : Nat) (v : Team) : (s.setTeam tk v).selSet = s.selSet := rfl
@[simp] theorem State.setTeam_homeTx (tk : Nat) (v : Team) : (s.setTeam tk v).homeTx = s.homeTx := rfl
@[simp] theorem State.setTeam_copies (tk : Nat) (v : Team) : (s.setTeam tk v).copies = s.copies := rfl
@[simp] theorem State.setTeam_halves (tk : Nat) (v : Team) : (s.setTeam tk v).halves = s.halves := rfl
@[simp] theorem State.setTeam_transit (tk : Nat) (v : Team) : (s.setTeam tk v).transit = s.transit := rfl
@[simp] theorem State.setTeam_biPend (tk : Nat) (v : Team) : (s.setTeam tk v).biPend = s.biPend := rfl
@[simp] theorem State.setTeam_wbuf (tk : Nat) (v : Team) : (s.setTeam tk v).wbuf = s.wbuf := rfl
@[simp] theorem State.setTeam_reqs (tk : Nat) (v : Team) : (s.setTeam tk v).reqs = s.reqs := rfl
@[simp] theorem State.setTeam_fails (tk : Nat) (v : Team) : (s.setTeam tk v).fails = s.fails := rfl
@[simp] theorem State.setTeam_acks (tk : Nat) (v : Team) : (s.setTeam tk v).acks = s.acks := rfl
@[simp] theorem State.setTeam_fwds (tk : Nat) (v : Team) : (s.setTeam tk v).fwds = s.fwds := rfl
@[simp] theorem State.setTeam_fills (tk : Nat) (v : Team) : (s.setTeam tk v).fills = s.fills := rfl
@[simp] theorem State.setTeam_ext (tk : Nat) (v : Team) : (s.setTeam tk v).ext = s.ext := rfl
@[simp] theorem State.setTeam_out (tk : Nat) (v : Team) : (s.setTeam tk v).out = s.out := rfl
@[simp] theorem State.setTeam_cores (tk : Nat) (v : Team) : (s.setTeam tk v).cores = s.cores := rfl
@[simp] theorem State.setTeam_parts (tk : Nat) (v : Team) : (s.setTeam tk v).parts = s.parts := rfl
@[simp] theorem State.setTeam_warps (tk : Nat) (v : Team) : (s.setTeam tk v).warps = s.warps := rfl
@[simp] theorem State.setTeam_lanes (tk : Nat) (v : Team) : (s.setTeam tk v).lanes = s.lanes := rfl
@[simp] theorem State.setTeam_frames (tk : Nat) (v : Team) : (s.setTeam tk v).frames = s.frames := rfl
@[simp] theorem State.setTeam_ended (tk : Nat) (v : Team) : (s.setTeam tk v).ended = s.ended := rfl
@[simp] theorem State.setTeam_defers (tk : Nat) (v : Team) : (s.setTeam tk v).defers = s.defers := rfl
@[simp] theorem State.setTeam_pages (tk : Nat) (v : Team) : (s.setTeam tk v).pages = s.pages := rfl
@[simp] theorem State.setTeam_grids (tk : Nat) (v : Team) : (s.setTeam tk v).grids = s.grids := rfl
@[simp] theorem State.setTeam_back (tk : Nat) (v : Team) : (s.setTeam tk v).back = s.back := rfl
@[simp] theorem State.setTeam_agenda (tk : Nat) (v : Team) : (s.setTeam tk v).agenda = s.agenda := rfl
@[simp] theorem State.setTeam_iq (tk : Nat) (v : Team) : (s.setTeam tk v).iq = s.iq := rfl
@[simp] theorem State.setTeam_cur (tk : Nat) (v : Team) : (s.setTeam tk v).cur = s.cur := rfl
@[simp] theorem State.setTeam_stalls (tk : Nat) (v : Team) : (s.setTeam tk v).stalls = s.stalls := rfl
@[simp] theorem State.setTeam_epoch (tk : Nat) (v : Team) : (s.setTeam tk v).epoch = s.epoch := rfl
@[simp] theorem State.setTeam_fresh (tk : Nat) (v : Team) : (s.setTeam tk v).fresh = s.fresh := rfl
@[simp] theorem State.setTeam_uid (tk : Nat) (v : Team) : (s.setTeam tk v).uid = s.uid := rfl
@[simp] theorem State.setTeam_usec (tk : Nat) (v : Team) : (s.setTeam tk v).usec = s.usec := rfl
@[simp] theorem State.setTeam_turn (tk : Nat) (v : Team) : (s.setTeam tk v).turn = s.turn := rfl

/-! ### setPage -/

@[simp] theorem State.setPage_pkg (p : Nat) (v : Page) : (s.setPage p v).pkg = s.pkg := rfl
@[simp] theorem State.setPage_ports (p : Nat) (v : Page) : (s.setPage p v).ports = s.ports := rfl
@[simp] theorem State.setPage_hbm (p : Nat) (v : Page) : (s.setPage p v).hbm = s.hbm := rfl
@[simp] theorem State.setPage_rht (p : Nat) (v : Page) : (s.setPage p v).rht = s.rht := rfl
@[simp] theorem State.setPage_selPg (p : Nat) (v : Page) : (s.setPage p v).selPg = s.selPg := rfl
@[simp] theorem State.setPage_selSet (p : Nat) (v : Page) : (s.setPage p v).selSet = s.selSet := rfl
@[simp] theorem State.setPage_homeTx (p : Nat) (v : Page) : (s.setPage p v).homeTx = s.homeTx := rfl
@[simp] theorem State.setPage_copies (p : Nat) (v : Page) : (s.setPage p v).copies = s.copies := rfl
@[simp] theorem State.setPage_halves (p : Nat) (v : Page) : (s.setPage p v).halves = s.halves := rfl
@[simp] theorem State.setPage_transit (p : Nat) (v : Page) : (s.setPage p v).transit = s.transit := rfl
@[simp] theorem State.setPage_biPend (p : Nat) (v : Page) : (s.setPage p v).biPend = s.biPend := rfl
@[simp] theorem State.setPage_wbuf (p : Nat) (v : Page) : (s.setPage p v).wbuf = s.wbuf := rfl
@[simp] theorem State.setPage_reqs (p : Nat) (v : Page) : (s.setPage p v).reqs = s.reqs := rfl
@[simp] theorem State.setPage_fails (p : Nat) (v : Page) : (s.setPage p v).fails = s.fails := rfl
@[simp] theorem State.setPage_acks (p : Nat) (v : Page) : (s.setPage p v).acks = s.acks := rfl
@[simp] theorem State.setPage_fwds (p : Nat) (v : Page) : (s.setPage p v).fwds = s.fwds := rfl
@[simp] theorem State.setPage_fills (p : Nat) (v : Page) : (s.setPage p v).fills = s.fills := rfl
@[simp] theorem State.setPage_ext (p : Nat) (v : Page) : (s.setPage p v).ext = s.ext := rfl
@[simp] theorem State.setPage_out (p : Nat) (v : Page) : (s.setPage p v).out = s.out := rfl
@[simp] theorem State.setPage_cores (p : Nat) (v : Page) : (s.setPage p v).cores = s.cores := rfl
@[simp] theorem State.setPage_parts (p : Nat) (v : Page) : (s.setPage p v).parts = s.parts := rfl
@[simp] theorem State.setPage_warps (p : Nat) (v : Page) : (s.setPage p v).warps = s.warps := rfl
@[simp] theorem State.setPage_lanes (p : Nat) (v : Page) : (s.setPage p v).lanes = s.lanes := rfl
@[simp] theorem State.setPage_frames (p : Nat) (v : Page) : (s.setPage p v).frames = s.frames := rfl
@[simp] theorem State.setPage_teams (p : Nat) (v : Page) : (s.setPage p v).teams = s.teams := rfl
@[simp] theorem State.setPage_ended (p : Nat) (v : Page) : (s.setPage p v).ended = s.ended := rfl
@[simp] theorem State.setPage_defers (p : Nat) (v : Page) : (s.setPage p v).defers = s.defers := rfl
@[simp] theorem State.setPage_grids (p : Nat) (v : Page) : (s.setPage p v).grids = s.grids := rfl
@[simp] theorem State.setPage_back (p : Nat) (v : Page) : (s.setPage p v).back = s.back := rfl
@[simp] theorem State.setPage_agenda (p : Nat) (v : Page) : (s.setPage p v).agenda = s.agenda := rfl
@[simp] theorem State.setPage_iq (p : Nat) (v : Page) : (s.setPage p v).iq = s.iq := rfl
@[simp] theorem State.setPage_cur (p : Nat) (v : Page) : (s.setPage p v).cur = s.cur := rfl
@[simp] theorem State.setPage_stalls (p : Nat) (v : Page) : (s.setPage p v).stalls = s.stalls := rfl
@[simp] theorem State.setPage_epoch (p : Nat) (v : Page) : (s.setPage p v).epoch = s.epoch := rfl
@[simp] theorem State.setPage_fresh (p : Nat) (v : Page) : (s.setPage p v).fresh = s.fresh := rfl
@[simp] theorem State.setPage_uid (p : Nat) (v : Page) : (s.setPage p v).uid = s.uid := rfl
@[simp] theorem State.setPage_usec (p : Nat) (v : Page) : (s.setPage p v).usec = s.usec := rfl
@[simp] theorem State.setPage_turn (p : Nat) (v : Page) : (s.setPage p v).turn = s.turn := rfl

/-! ### setPort -/

@[simp] theorem State.setPort_pkg (p : Nat) (v : Port) : (s.setPort p v).pkg = s.pkg := rfl
@[simp] theorem State.setPort_hbm (p : Nat) (v : Port) : (s.setPort p v).hbm = s.hbm := rfl
@[simp] theorem State.setPort_rht (p : Nat) (v : Port) : (s.setPort p v).rht = s.rht := rfl
@[simp] theorem State.setPort_selPg (p : Nat) (v : Port) : (s.setPort p v).selPg = s.selPg := rfl
@[simp] theorem State.setPort_selSet (p : Nat) (v : Port) : (s.setPort p v).selSet = s.selSet := rfl
@[simp] theorem State.setPort_homeTx (p : Nat) (v : Port) : (s.setPort p v).homeTx = s.homeTx := rfl
@[simp] theorem State.setPort_copies (p : Nat) (v : Port) : (s.setPort p v).copies = s.copies := rfl
@[simp] theorem State.setPort_halves (p : Nat) (v : Port) : (s.setPort p v).halves = s.halves := rfl
@[simp] theorem State.setPort_transit (p : Nat) (v : Port) : (s.setPort p v).transit = s.transit := rfl
@[simp] theorem State.setPort_biPend (p : Nat) (v : Port) : (s.setPort p v).biPend = s.biPend := rfl
@[simp] theorem State.setPort_wbuf (p : Nat) (v : Port) : (s.setPort p v).wbuf = s.wbuf := rfl
@[simp] theorem State.setPort_reqs (p : Nat) (v : Port) : (s.setPort p v).reqs = s.reqs := rfl
@[simp] theorem State.setPort_fails (p : Nat) (v : Port) : (s.setPort p v).fails = s.fails := rfl
@[simp] theorem State.setPort_acks (p : Nat) (v : Port) : (s.setPort p v).acks = s.acks := rfl
@[simp] theorem State.setPort_fwds (p : Nat) (v : Port) : (s.setPort p v).fwds = s.fwds := rfl
@[simp] theorem State.setPort_fills (p : Nat) (v : Port) : (s.setPort p v).fills = s.fills := rfl
@[simp] theorem State.setPort_ext (p : Nat) (v : Port) : (s.setPort p v).ext = s.ext := rfl
@[simp] theorem State.setPort_out (p : Nat) (v : Port) : (s.setPort p v).out = s.out := rfl
@[simp] theorem State.setPort_cores (p : Nat) (v : Port) : (s.setPort p v).cores = s.cores := rfl
@[simp] theorem State.setPort_parts (p : Nat) (v : Port) : (s.setPort p v).parts = s.parts := rfl
@[simp] theorem State.setPort_warps (p : Nat) (v : Port) : (s.setPort p v).warps = s.warps := rfl
@[simp] theorem State.setPort_lanes (p : Nat) (v : Port) : (s.setPort p v).lanes = s.lanes := rfl
@[simp] theorem State.setPort_frames (p : Nat) (v : Port) : (s.setPort p v).frames = s.frames := rfl
@[simp] theorem State.setPort_teams (p : Nat) (v : Port) : (s.setPort p v).teams = s.teams := rfl
@[simp] theorem State.setPort_ended (p : Nat) (v : Port) : (s.setPort p v).ended = s.ended := rfl
@[simp] theorem State.setPort_defers (p : Nat) (v : Port) : (s.setPort p v).defers = s.defers := rfl
@[simp] theorem State.setPort_pages (p : Nat) (v : Port) : (s.setPort p v).pages = s.pages := rfl
@[simp] theorem State.setPort_grids (p : Nat) (v : Port) : (s.setPort p v).grids = s.grids := rfl
@[simp] theorem State.setPort_back (p : Nat) (v : Port) : (s.setPort p v).back = s.back := rfl
@[simp] theorem State.setPort_agenda (p : Nat) (v : Port) : (s.setPort p v).agenda = s.agenda := rfl
@[simp] theorem State.setPort_iq (p : Nat) (v : Port) : (s.setPort p v).iq = s.iq := rfl
@[simp] theorem State.setPort_cur (p : Nat) (v : Port) : (s.setPort p v).cur = s.cur := rfl
@[simp] theorem State.setPort_stalls (p : Nat) (v : Port) : (s.setPort p v).stalls = s.stalls := rfl
@[simp] theorem State.setPort_epoch (p : Nat) (v : Port) : (s.setPort p v).epoch = s.epoch := rfl
@[simp] theorem State.setPort_fresh (p : Nat) (v : Port) : (s.setPort p v).fresh = s.fresh := rfl
@[simp] theorem State.setPort_uid (p : Nat) (v : Port) : (s.setPort p v).uid = s.uid := rfl
@[simp] theorem State.setPort_usec (p : Nat) (v : Port) : (s.setPort p v).usec = s.usec := rfl
@[simp] theorem State.setPort_turn (p : Nat) (v : Port) : (s.setPort p v).turn = s.turn := rfl

/-! ### setPkg -/

@[simp] theorem State.setPkg_ports (v : Pkg) : (s.setPkg v).ports = s.ports := rfl
@[simp] theorem State.setPkg_hbm (v : Pkg) : (s.setPkg v).hbm = s.hbm := rfl
@[simp] theorem State.setPkg_rht (v : Pkg) : (s.setPkg v).rht = s.rht := rfl
@[simp] theorem State.setPkg_selPg (v : Pkg) : (s.setPkg v).selPg = s.selPg := rfl
@[simp] theorem State.setPkg_selSet (v : Pkg) : (s.setPkg v).selSet = s.selSet := rfl
@[simp] theorem State.setPkg_homeTx (v : Pkg) : (s.setPkg v).homeTx = s.homeTx := rfl
@[simp] theorem State.setPkg_copies (v : Pkg) : (s.setPkg v).copies = s.copies := rfl
@[simp] theorem State.setPkg_halves (v : Pkg) : (s.setPkg v).halves = s.halves := rfl
@[simp] theorem State.setPkg_transit (v : Pkg) : (s.setPkg v).transit = s.transit := rfl
@[simp] theorem State.setPkg_biPend (v : Pkg) : (s.setPkg v).biPend = s.biPend := rfl
@[simp] theorem State.setPkg_wbuf (v : Pkg) : (s.setPkg v).wbuf = s.wbuf := rfl
@[simp] theorem State.setPkg_reqs (v : Pkg) : (s.setPkg v).reqs = s.reqs := rfl
@[simp] theorem State.setPkg_fails (v : Pkg) : (s.setPkg v).fails = s.fails := rfl
@[simp] theorem State.setPkg_acks (v : Pkg) : (s.setPkg v).acks = s.acks := rfl
@[simp] theorem State.setPkg_fwds (v : Pkg) : (s.setPkg v).fwds = s.fwds := rfl
@[simp] theorem State.setPkg_fills (v : Pkg) : (s.setPkg v).fills = s.fills := rfl
@[simp] theorem State.setPkg_ext (v : Pkg) : (s.setPkg v).ext = s.ext := rfl
@[simp] theorem State.setPkg_out (v : Pkg) : (s.setPkg v).out = s.out := rfl
@[simp] theorem State.setPkg_cores (v : Pkg) : (s.setPkg v).cores = s.cores := rfl
@[simp] theorem State.setPkg_parts (v : Pkg) : (s.setPkg v).parts = s.parts := rfl
@[simp] theorem State.setPkg_warps (v : Pkg) : (s.setPkg v).warps = s.warps := rfl
@[simp] theorem State.setPkg_lanes (v : Pkg) : (s.setPkg v).lanes = s.lanes := rfl
@[simp] theorem State.setPkg_frames (v : Pkg) : (s.setPkg v).frames = s.frames := rfl
@[simp] theorem State.setPkg_teams (v : Pkg) : (s.setPkg v).teams = s.teams := rfl
@[simp] theorem State.setPkg_ended (v : Pkg) : (s.setPkg v).ended = s.ended := rfl
@[simp] theorem State.setPkg_defers (v : Pkg) : (s.setPkg v).defers = s.defers := rfl
@[simp] theorem State.setPkg_pages (v : Pkg) : (s.setPkg v).pages = s.pages := rfl
@[simp] theorem State.setPkg_grids (v : Pkg) : (s.setPkg v).grids = s.grids := rfl
@[simp] theorem State.setPkg_back (v : Pkg) : (s.setPkg v).back = s.back := rfl
@[simp] theorem State.setPkg_agenda (v : Pkg) : (s.setPkg v).agenda = s.agenda := rfl
@[simp] theorem State.setPkg_iq (v : Pkg) : (s.setPkg v).iq = s.iq := rfl
@[simp] theorem State.setPkg_cur (v : Pkg) : (s.setPkg v).cur = s.cur := rfl
@[simp] theorem State.setPkg_stalls (v : Pkg) : (s.setPkg v).stalls = s.stalls := rfl
@[simp] theorem State.setPkg_epoch (v : Pkg) : (s.setPkg v).epoch = s.epoch := rfl
@[simp] theorem State.setPkg_fresh (v : Pkg) : (s.setPkg v).fresh = s.fresh := rfl
@[simp] theorem State.setPkg_uid (v : Pkg) : (s.setPkg v).uid = s.uid := rfl
@[simp] theorem State.setPkg_usec (v : Pkg) : (s.setPkg v).usec = s.usec := rfl
@[simp] theorem State.setPkg_turn (v : Pkg) : (s.setPkg v).turn = s.turn := rfl

/-! ### modCore -/

@[simp] theorem State.modCore_pkg (c : Nat) (f : Core → Core) : (s.modCore c f).pkg = s.pkg := rfl
@[simp] theorem State.modCore_ports (c : Nat) (f : Core → Core) : (s.modCore c f).ports = s.ports := rfl
@[simp] theorem State.modCore_hbm (c : Nat) (f : Core → Core) : (s.modCore c f).hbm = s.hbm := rfl
@[simp] theorem State.modCore_rht (c : Nat) (f : Core → Core) : (s.modCore c f).rht = s.rht := rfl
@[simp] theorem State.modCore_selPg (c : Nat) (f : Core → Core) : (s.modCore c f).selPg = s.selPg := rfl
@[simp] theorem State.modCore_selSet (c : Nat) (f : Core → Core) : (s.modCore c f).selSet = s.selSet := rfl
@[simp] theorem State.modCore_homeTx (c : Nat) (f : Core → Core) : (s.modCore c f).homeTx = s.homeTx := rfl
@[simp] theorem State.modCore_copies (c : Nat) (f : Core → Core) : (s.modCore c f).copies = s.copies := rfl
@[simp] theorem State.modCore_halves (c : Nat) (f : Core → Core) : (s.modCore c f).halves = s.halves := rfl
@[simp] theorem State.modCore_transit (c : Nat) (f : Core → Core) : (s.modCore c f).transit = s.transit := rfl
@[simp] theorem State.modCore_biPend (c : Nat) (f : Core → Core) : (s.modCore c f).biPend = s.biPend := rfl
@[simp] theorem State.modCore_wbuf (c : Nat) (f : Core → Core) : (s.modCore c f).wbuf = s.wbuf := rfl
@[simp] theorem State.modCore_reqs (c : Nat) (f : Core → Core) : (s.modCore c f).reqs = s.reqs := rfl
@[simp] theorem State.modCore_fails (c : Nat) (f : Core → Core) : (s.modCore c f).fails = s.fails := rfl
@[simp] theorem State.modCore_acks (c : Nat) (f : Core → Core) : (s.modCore c f).acks = s.acks := rfl
@[simp] theorem State.modCore_fwds (c : Nat) (f : Core → Core) : (s.modCore c f).fwds = s.fwds := rfl
@[simp] theorem State.modCore_fills (c : Nat) (f : Core → Core) : (s.modCore c f).fills = s.fills := rfl
@[simp] theorem State.modCore_ext (c : Nat) (f : Core → Core) : (s.modCore c f).ext = s.ext := rfl
@[simp] theorem State.modCore_out (c : Nat) (f : Core → Core) : (s.modCore c f).out = s.out := rfl
@[simp] theorem State.modCore_parts (c : Nat) (f : Core → Core) : (s.modCore c f).parts = s.parts := rfl
@[simp] theorem State.modCore_warps (c : Nat) (f : Core → Core) : (s.modCore c f).warps = s.warps := rfl
@[simp] theorem State.modCore_lanes (c : Nat) (f : Core → Core) : (s.modCore c f).lanes = s.lanes := rfl
@[simp] theorem State.modCore_frames (c : Nat) (f : Core → Core) : (s.modCore c f).frames = s.frames := rfl
@[simp] theorem State.modCore_teams (c : Nat) (f : Core → Core) : (s.modCore c f).teams = s.teams := rfl
@[simp] theorem State.modCore_ended (c : Nat) (f : Core → Core) : (s.modCore c f).ended = s.ended := rfl
@[simp] theorem State.modCore_defers (c : Nat) (f : Core → Core) : (s.modCore c f).defers = s.defers := rfl
@[simp] theorem State.modCore_pages (c : Nat) (f : Core → Core) : (s.modCore c f).pages = s.pages := rfl
@[simp] theorem State.modCore_grids (c : Nat) (f : Core → Core) : (s.modCore c f).grids = s.grids := rfl
@[simp] theorem State.modCore_back (c : Nat) (f : Core → Core) : (s.modCore c f).back = s.back := rfl
@[simp] theorem State.modCore_agenda (c : Nat) (f : Core → Core) : (s.modCore c f).agenda = s.agenda := rfl
@[simp] theorem State.modCore_iq (c : Nat) (f : Core → Core) : (s.modCore c f).iq = s.iq := rfl
@[simp] theorem State.modCore_cur (c : Nat) (f : Core → Core) : (s.modCore c f).cur = s.cur := rfl
@[simp] theorem State.modCore_stalls (c : Nat) (f : Core → Core) : (s.modCore c f).stalls = s.stalls := rfl
@[simp] theorem State.modCore_epoch (c : Nat) (f : Core → Core) : (s.modCore c f).epoch = s.epoch := rfl
@[simp] theorem State.modCore_fresh (c : Nat) (f : Core → Core) : (s.modCore c f).fresh = s.fresh := rfl
@[simp] theorem State.modCore_uid (c : Nat) (f : Core → Core) : (s.modCore c f).uid = s.uid := rfl
@[simp] theorem State.modCore_usec (c : Nat) (f : Core → Core) : (s.modCore c f).usec = s.usec := rfl
@[simp] theorem State.modCore_turn (c : Nat) (f : Core → Core) : (s.modCore c f).turn = s.turn := rfl

/-! ### modPart -/

@[simp] theorem State.modPart_pkg (p : Nat) (f : Part → Part) : (s.modPart p f).pkg = s.pkg := rfl
@[simp] theorem State.modPart_ports (p : Nat) (f : Part → Part) : (s.modPart p f).ports = s.ports := rfl
@[simp] theorem State.modPart_hbm (p : Nat) (f : Part → Part) : (s.modPart p f).hbm = s.hbm := rfl
@[simp] theorem State.modPart_rht (p : Nat) (f : Part → Part) : (s.modPart p f).rht = s.rht := rfl
@[simp] theorem State.modPart_selPg (p : Nat) (f : Part → Part) : (s.modPart p f).selPg = s.selPg := rfl
@[simp] theorem State.modPart_selSet (p : Nat) (f : Part → Part) : (s.modPart p f).selSet = s.selSet := rfl
@[simp] theorem State.modPart_homeTx (p : Nat) (f : Part → Part) : (s.modPart p f).homeTx = s.homeTx := rfl
@[simp] theorem State.modPart_copies (p : Nat) (f : Part → Part) : (s.modPart p f).copies = s.copies := rfl
@[simp] theorem State.modPart_halves (p : Nat) (f : Part → Part) : (s.modPart p f).halves = s.halves := rfl
@[simp] theorem State.modPart_transit (p : Nat) (f : Part → Part) : (s.modPart p f).transit = s.transit := rfl
@[simp] theorem State.modPart_biPend (p : Nat) (f : Part → Part) : (s.modPart p f).biPend = s.biPend := rfl
@[simp] theorem State.modPart_wbuf (p : Nat) (f : Part → Part) : (s.modPart p f).wbuf = s.wbuf := rfl
@[simp] theorem State.modPart_reqs (p : Nat) (f : Part → Part) : (s.modPart p f).reqs = s.reqs := rfl
@[simp] theorem State.modPart_fails (p : Nat) (f : Part → Part) : (s.modPart p f).fails = s.fails := rfl
@[simp] theorem State.modPart_acks (p : Nat) (f : Part → Part) : (s.modPart p f).acks = s.acks := rfl
@[simp] theorem State.modPart_fwds (p : Nat) (f : Part → Part) : (s.modPart p f).fwds = s.fwds := rfl
@[simp] theorem State.modPart_fills (p : Nat) (f : Part → Part) : (s.modPart p f).fills = s.fills := rfl
@[simp] theorem State.modPart_ext (p : Nat) (f : Part → Part) : (s.modPart p f).ext = s.ext := rfl
@[simp] theorem State.modPart_out (p : Nat) (f : Part → Part) : (s.modPart p f).out = s.out := rfl
@[simp] theorem State.modPart_cores (p : Nat) (f : Part → Part) : (s.modPart p f).cores = s.cores := rfl
@[simp] theorem State.modPart_warps (p : Nat) (f : Part → Part) : (s.modPart p f).warps = s.warps := rfl
@[simp] theorem State.modPart_lanes (p : Nat) (f : Part → Part) : (s.modPart p f).lanes = s.lanes := rfl
@[simp] theorem State.modPart_frames (p : Nat) (f : Part → Part) : (s.modPart p f).frames = s.frames := rfl
@[simp] theorem State.modPart_teams (p : Nat) (f : Part → Part) : (s.modPart p f).teams = s.teams := rfl
@[simp] theorem State.modPart_ended (p : Nat) (f : Part → Part) : (s.modPart p f).ended = s.ended := rfl
@[simp] theorem State.modPart_defers (p : Nat) (f : Part → Part) : (s.modPart p f).defers = s.defers := rfl
@[simp] theorem State.modPart_pages (p : Nat) (f : Part → Part) : (s.modPart p f).pages = s.pages := rfl
@[simp] theorem State.modPart_grids (p : Nat) (f : Part → Part) : (s.modPart p f).grids = s.grids := rfl
@[simp] theorem State.modPart_back (p : Nat) (f : Part → Part) : (s.modPart p f).back = s.back := rfl
@[simp] theorem State.modPart_agenda (p : Nat) (f : Part → Part) : (s.modPart p f).agenda = s.agenda := rfl
@[simp] theorem State.modPart_iq (p : Nat) (f : Part → Part) : (s.modPart p f).iq = s.iq := rfl
@[simp] theorem State.modPart_cur (p : Nat) (f : Part → Part) : (s.modPart p f).cur = s.cur := rfl
@[simp] theorem State.modPart_stalls (p : Nat) (f : Part → Part) : (s.modPart p f).stalls = s.stalls := rfl
@[simp] theorem State.modPart_epoch (p : Nat) (f : Part → Part) : (s.modPart p f).epoch = s.epoch := rfl
@[simp] theorem State.modPart_fresh (p : Nat) (f : Part → Part) : (s.modPart p f).fresh = s.fresh := rfl
@[simp] theorem State.modPart_uid (p : Nat) (f : Part → Part) : (s.modPart p f).uid = s.uid := rfl
@[simp] theorem State.modPart_usec (p : Nat) (f : Part → Part) : (s.modPart p f).usec = s.usec := rfl
@[simp] theorem State.modPart_turn (p : Nat) (f : Part → Part) : (s.modPart p f).turn = s.turn := rfl

/-! ### modWarp -/

@[simp] theorem State.modWarp_pkg (wk : Nat) (f : Warp → Warp) : (s.modWarp wk f).pkg = s.pkg := rfl
@[simp] theorem State.modWarp_ports (wk : Nat) (f : Warp → Warp) : (s.modWarp wk f).ports = s.ports := rfl
@[simp] theorem State.modWarp_hbm (wk : Nat) (f : Warp → Warp) : (s.modWarp wk f).hbm = s.hbm := rfl
@[simp] theorem State.modWarp_rht (wk : Nat) (f : Warp → Warp) : (s.modWarp wk f).rht = s.rht := rfl
@[simp] theorem State.modWarp_selPg (wk : Nat) (f : Warp → Warp) : (s.modWarp wk f).selPg = s.selPg := rfl
@[simp] theorem State.modWarp_selSet (wk : Nat) (f : Warp → Warp) : (s.modWarp wk f).selSet = s.selSet := rfl
@[simp] theorem State.modWarp_homeTx (wk : Nat) (f : Warp → Warp) : (s.modWarp wk f).homeTx = s.homeTx := rfl
@[simp] theorem State.modWarp_copies (wk : Nat) (f : Warp → Warp) : (s.modWarp wk f).copies = s.copies := rfl
@[simp] theorem State.modWarp_halves (wk : Nat) (f : Warp → Warp) : (s.modWarp wk f).halves = s.halves := rfl
@[simp] theorem State.modWarp_transit (wk : Nat) (f : Warp → Warp) : (s.modWarp wk f).transit = s.transit := rfl
@[simp] theorem State.modWarp_biPend (wk : Nat) (f : Warp → Warp) : (s.modWarp wk f).biPend = s.biPend := rfl
@[simp] theorem State.modWarp_wbuf (wk : Nat) (f : Warp → Warp) : (s.modWarp wk f).wbuf = s.wbuf := rfl
@[simp] theorem State.modWarp_reqs (wk : Nat) (f : Warp → Warp) : (s.modWarp wk f).reqs = s.reqs := rfl
@[simp] theorem State.modWarp_fails (wk : Nat) (f : Warp → Warp) : (s.modWarp wk f).fails = s.fails := rfl
@[simp] theorem State.modWarp_acks (wk : Nat) (f : Warp → Warp) : (s.modWarp wk f).acks = s.acks := rfl
@[simp] theorem State.modWarp_fwds (wk : Nat) (f : Warp → Warp) : (s.modWarp wk f).fwds = s.fwds := rfl
@[simp] theorem State.modWarp_fills (wk : Nat) (f : Warp → Warp) : (s.modWarp wk f).fills = s.fills := rfl
@[simp] theorem State.modWarp_ext (wk : Nat) (f : Warp → Warp) : (s.modWarp wk f).ext = s.ext := rfl
@[simp] theorem State.modWarp_out (wk : Nat) (f : Warp → Warp) : (s.modWarp wk f).out = s.out := rfl
@[simp] theorem State.modWarp_cores (wk : Nat) (f : Warp → Warp) : (s.modWarp wk f).cores = s.cores := rfl
@[simp] theorem State.modWarp_parts (wk : Nat) (f : Warp → Warp) : (s.modWarp wk f).parts = s.parts := rfl
@[simp] theorem State.modWarp_lanes (wk : Nat) (f : Warp → Warp) : (s.modWarp wk f).lanes = s.lanes := rfl
@[simp] theorem State.modWarp_frames (wk : Nat) (f : Warp → Warp) : (s.modWarp wk f).frames = s.frames := rfl
@[simp] theorem State.modWarp_teams (wk : Nat) (f : Warp → Warp) : (s.modWarp wk f).teams = s.teams := rfl
@[simp] theorem State.modWarp_ended (wk : Nat) (f : Warp → Warp) : (s.modWarp wk f).ended = s.ended := rfl
@[simp] theorem State.modWarp_defers (wk : Nat) (f : Warp → Warp) : (s.modWarp wk f).defers = s.defers := rfl
@[simp] theorem State.modWarp_pages (wk : Nat) (f : Warp → Warp) : (s.modWarp wk f).pages = s.pages := rfl
@[simp] theorem State.modWarp_grids (wk : Nat) (f : Warp → Warp) : (s.modWarp wk f).grids = s.grids := rfl
@[simp] theorem State.modWarp_back (wk : Nat) (f : Warp → Warp) : (s.modWarp wk f).back = s.back := rfl
@[simp] theorem State.modWarp_agenda (wk : Nat) (f : Warp → Warp) : (s.modWarp wk f).agenda = s.agenda := rfl
@[simp] theorem State.modWarp_iq (wk : Nat) (f : Warp → Warp) : (s.modWarp wk f).iq = s.iq := rfl
@[simp] theorem State.modWarp_cur (wk : Nat) (f : Warp → Warp) : (s.modWarp wk f).cur = s.cur := rfl
@[simp] theorem State.modWarp_stalls (wk : Nat) (f : Warp → Warp) : (s.modWarp wk f).stalls = s.stalls := rfl
@[simp] theorem State.modWarp_epoch (wk : Nat) (f : Warp → Warp) : (s.modWarp wk f).epoch = s.epoch := rfl
@[simp] theorem State.modWarp_fresh (wk : Nat) (f : Warp → Warp) : (s.modWarp wk f).fresh = s.fresh := rfl
@[simp] theorem State.modWarp_uid (wk : Nat) (f : Warp → Warp) : (s.modWarp wk f).uid = s.uid := rfl
@[simp] theorem State.modWarp_usec (wk : Nat) (f : Warp → Warp) : (s.modWarp wk f).usec = s.usec := rfl
@[simp] theorem State.modWarp_turn (wk : Nat) (f : Warp → Warp) : (s.modWarp wk f).turn = s.turn := rfl

/-! ### modLane -/

@[simp] theorem State.modLane_pkg (wk l : Nat) (f : Lane → Lane) : (s.modLane wk l f).pkg = s.pkg := rfl
@[simp] theorem State.modLane_ports (wk l : Nat) (f : Lane → Lane) : (s.modLane wk l f).ports = s.ports := rfl
@[simp] theorem State.modLane_hbm (wk l : Nat) (f : Lane → Lane) : (s.modLane wk l f).hbm = s.hbm := rfl
@[simp] theorem State.modLane_rht (wk l : Nat) (f : Lane → Lane) : (s.modLane wk l f).rht = s.rht := rfl
@[simp] theorem State.modLane_selPg (wk l : Nat) (f : Lane → Lane) : (s.modLane wk l f).selPg = s.selPg := rfl
@[simp] theorem State.modLane_selSet (wk l : Nat) (f : Lane → Lane) : (s.modLane wk l f).selSet = s.selSet := rfl
@[simp] theorem State.modLane_homeTx (wk l : Nat) (f : Lane → Lane) : (s.modLane wk l f).homeTx = s.homeTx := rfl
@[simp] theorem State.modLane_copies (wk l : Nat) (f : Lane → Lane) : (s.modLane wk l f).copies = s.copies := rfl
@[simp] theorem State.modLane_halves (wk l : Nat) (f : Lane → Lane) : (s.modLane wk l f).halves = s.halves := rfl
@[simp] theorem State.modLane_transit (wk l : Nat) (f : Lane → Lane) : (s.modLane wk l f).transit = s.transit := rfl
@[simp] theorem State.modLane_biPend (wk l : Nat) (f : Lane → Lane) : (s.modLane wk l f).biPend = s.biPend := rfl
@[simp] theorem State.modLane_wbuf (wk l : Nat) (f : Lane → Lane) : (s.modLane wk l f).wbuf = s.wbuf := rfl
@[simp] theorem State.modLane_reqs (wk l : Nat) (f : Lane → Lane) : (s.modLane wk l f).reqs = s.reqs := rfl
@[simp] theorem State.modLane_fails (wk l : Nat) (f : Lane → Lane) : (s.modLane wk l f).fails = s.fails := rfl
@[simp] theorem State.modLane_acks (wk l : Nat) (f : Lane → Lane) : (s.modLane wk l f).acks = s.acks := rfl
@[simp] theorem State.modLane_fwds (wk l : Nat) (f : Lane → Lane) : (s.modLane wk l f).fwds = s.fwds := rfl
@[simp] theorem State.modLane_fills (wk l : Nat) (f : Lane → Lane) : (s.modLane wk l f).fills = s.fills := rfl
@[simp] theorem State.modLane_ext (wk l : Nat) (f : Lane → Lane) : (s.modLane wk l f).ext = s.ext := rfl
@[simp] theorem State.modLane_out (wk l : Nat) (f : Lane → Lane) : (s.modLane wk l f).out = s.out := rfl
@[simp] theorem State.modLane_cores (wk l : Nat) (f : Lane → Lane) : (s.modLane wk l f).cores = s.cores := rfl
@[simp] theorem State.modLane_parts (wk l : Nat) (f : Lane → Lane) : (s.modLane wk l f).parts = s.parts := rfl
@[simp] theorem State.modLane_warps (wk l : Nat) (f : Lane → Lane) : (s.modLane wk l f).warps = s.warps := rfl
@[simp] theorem State.modLane_frames (wk l : Nat) (f : Lane → Lane) : (s.modLane wk l f).frames = s.frames := rfl
@[simp] theorem State.modLane_teams (wk l : Nat) (f : Lane → Lane) : (s.modLane wk l f).teams = s.teams := rfl
@[simp] theorem State.modLane_ended (wk l : Nat) (f : Lane → Lane) : (s.modLane wk l f).ended = s.ended := rfl
@[simp] theorem State.modLane_defers (wk l : Nat) (f : Lane → Lane) : (s.modLane wk l f).defers = s.defers := rfl
@[simp] theorem State.modLane_pages (wk l : Nat) (f : Lane → Lane) : (s.modLane wk l f).pages = s.pages := rfl
@[simp] theorem State.modLane_grids (wk l : Nat) (f : Lane → Lane) : (s.modLane wk l f).grids = s.grids := rfl
@[simp] theorem State.modLane_back (wk l : Nat) (f : Lane → Lane) : (s.modLane wk l f).back = s.back := rfl
@[simp] theorem State.modLane_agenda (wk l : Nat) (f : Lane → Lane) : (s.modLane wk l f).agenda = s.agenda := rfl
@[simp] theorem State.modLane_iq (wk l : Nat) (f : Lane → Lane) : (s.modLane wk l f).iq = s.iq := rfl
@[simp] theorem State.modLane_cur (wk l : Nat) (f : Lane → Lane) : (s.modLane wk l f).cur = s.cur := rfl
@[simp] theorem State.modLane_stalls (wk l : Nat) (f : Lane → Lane) : (s.modLane wk l f).stalls = s.stalls := rfl
@[simp] theorem State.modLane_epoch (wk l : Nat) (f : Lane → Lane) : (s.modLane wk l f).epoch = s.epoch := rfl
@[simp] theorem State.modLane_fresh (wk l : Nat) (f : Lane → Lane) : (s.modLane wk l f).fresh = s.fresh := rfl
@[simp] theorem State.modLane_uid (wk l : Nat) (f : Lane → Lane) : (s.modLane wk l f).uid = s.uid := rfl
@[simp] theorem State.modLane_usec (wk l : Nat) (f : Lane → Lane) : (s.modLane wk l f).usec = s.usec := rfl
@[simp] theorem State.modLane_turn (wk l : Nat) (f : Lane → Lane) : (s.modLane wk l f).turn = s.turn := rfl

/-! ### modFrame -/

@[simp] theorem State.modFrame_pkg (fk : Nat) (f : Frame → Frame) : (s.modFrame fk f).pkg = s.pkg := rfl
@[simp] theorem State.modFrame_ports (fk : Nat) (f : Frame → Frame) : (s.modFrame fk f).ports = s.ports := rfl
@[simp] theorem State.modFrame_hbm (fk : Nat) (f : Frame → Frame) : (s.modFrame fk f).hbm = s.hbm := rfl
@[simp] theorem State.modFrame_rht (fk : Nat) (f : Frame → Frame) : (s.modFrame fk f).rht = s.rht := rfl
@[simp] theorem State.modFrame_selPg (fk : Nat) (f : Frame → Frame) : (s.modFrame fk f).selPg = s.selPg := rfl
@[simp] theorem State.modFrame_selSet (fk : Nat) (f : Frame → Frame) : (s.modFrame fk f).selSet = s.selSet := rfl
@[simp] theorem State.modFrame_homeTx (fk : Nat) (f : Frame → Frame) : (s.modFrame fk f).homeTx = s.homeTx := rfl
@[simp] theorem State.modFrame_copies (fk : Nat) (f : Frame → Frame) : (s.modFrame fk f).copies = s.copies := rfl
@[simp] theorem State.modFrame_halves (fk : Nat) (f : Frame → Frame) : (s.modFrame fk f).halves = s.halves := rfl
@[simp] theorem State.modFrame_transit (fk : Nat) (f : Frame → Frame) : (s.modFrame fk f).transit = s.transit := rfl
@[simp] theorem State.modFrame_biPend (fk : Nat) (f : Frame → Frame) : (s.modFrame fk f).biPend = s.biPend := rfl
@[simp] theorem State.modFrame_wbuf (fk : Nat) (f : Frame → Frame) : (s.modFrame fk f).wbuf = s.wbuf := rfl
@[simp] theorem State.modFrame_reqs (fk : Nat) (f : Frame → Frame) : (s.modFrame fk f).reqs = s.reqs := rfl
@[simp] theorem State.modFrame_fails (fk : Nat) (f : Frame → Frame) : (s.modFrame fk f).fails = s.fails := rfl
@[simp] theorem State.modFrame_acks (fk : Nat) (f : Frame → Frame) : (s.modFrame fk f).acks = s.acks := rfl
@[simp] theorem State.modFrame_fwds (fk : Nat) (f : Frame → Frame) : (s.modFrame fk f).fwds = s.fwds := rfl
@[simp] theorem State.modFrame_fills (fk : Nat) (f : Frame → Frame) : (s.modFrame fk f).fills = s.fills := rfl
@[simp] theorem State.modFrame_ext (fk : Nat) (f : Frame → Frame) : (s.modFrame fk f).ext = s.ext := rfl
@[simp] theorem State.modFrame_out (fk : Nat) (f : Frame → Frame) : (s.modFrame fk f).out = s.out := rfl
@[simp] theorem State.modFrame_cores (fk : Nat) (f : Frame → Frame) : (s.modFrame fk f).cores = s.cores := rfl
@[simp] theorem State.modFrame_parts (fk : Nat) (f : Frame → Frame) : (s.modFrame fk f).parts = s.parts := rfl
@[simp] theorem State.modFrame_warps (fk : Nat) (f : Frame → Frame) : (s.modFrame fk f).warps = s.warps := rfl
@[simp] theorem State.modFrame_lanes (fk : Nat) (f : Frame → Frame) : (s.modFrame fk f).lanes = s.lanes := rfl
@[simp] theorem State.modFrame_teams (fk : Nat) (f : Frame → Frame) : (s.modFrame fk f).teams = s.teams := rfl
@[simp] theorem State.modFrame_ended (fk : Nat) (f : Frame → Frame) : (s.modFrame fk f).ended = s.ended := rfl
@[simp] theorem State.modFrame_defers (fk : Nat) (f : Frame → Frame) : (s.modFrame fk f).defers = s.defers := rfl
@[simp] theorem State.modFrame_pages (fk : Nat) (f : Frame → Frame) : (s.modFrame fk f).pages = s.pages := rfl
@[simp] theorem State.modFrame_grids (fk : Nat) (f : Frame → Frame) : (s.modFrame fk f).grids = s.grids := rfl
@[simp] theorem State.modFrame_back (fk : Nat) (f : Frame → Frame) : (s.modFrame fk f).back = s.back := rfl
@[simp] theorem State.modFrame_agenda (fk : Nat) (f : Frame → Frame) : (s.modFrame fk f).agenda = s.agenda := rfl
@[simp] theorem State.modFrame_iq (fk : Nat) (f : Frame → Frame) : (s.modFrame fk f).iq = s.iq := rfl
@[simp] theorem State.modFrame_cur (fk : Nat) (f : Frame → Frame) : (s.modFrame fk f).cur = s.cur := rfl
@[simp] theorem State.modFrame_stalls (fk : Nat) (f : Frame → Frame) : (s.modFrame fk f).stalls = s.stalls := rfl
@[simp] theorem State.modFrame_epoch (fk : Nat) (f : Frame → Frame) : (s.modFrame fk f).epoch = s.epoch := rfl
@[simp] theorem State.modFrame_fresh (fk : Nat) (f : Frame → Frame) : (s.modFrame fk f).fresh = s.fresh := rfl
@[simp] theorem State.modFrame_uid (fk : Nat) (f : Frame → Frame) : (s.modFrame fk f).uid = s.uid := rfl
@[simp] theorem State.modFrame_usec (fk : Nat) (f : Frame → Frame) : (s.modFrame fk f).usec = s.usec := rfl
@[simp] theorem State.modFrame_turn (fk : Nat) (f : Frame → Frame) : (s.modFrame fk f).turn = s.turn := rfl

/-! ### modTeam -/

@[simp] theorem State.modTeam_pkg (tk : Nat) (f : Team → Team) : (s.modTeam tk f).pkg = s.pkg := rfl
@[simp] theorem State.modTeam_ports (tk : Nat) (f : Team → Team) : (s.modTeam tk f).ports = s.ports := rfl
@[simp] theorem State.modTeam_hbm (tk : Nat) (f : Team → Team) : (s.modTeam tk f).hbm = s.hbm := rfl
@[simp] theorem State.modTeam_rht (tk : Nat) (f : Team → Team) : (s.modTeam tk f).rht = s.rht := rfl
@[simp] theorem State.modTeam_selPg (tk : Nat) (f : Team → Team) : (s.modTeam tk f).selPg = s.selPg := rfl
@[simp] theorem State.modTeam_selSet (tk : Nat) (f : Team → Team) : (s.modTeam tk f).selSet = s.selSet := rfl
@[simp] theorem State.modTeam_homeTx (tk : Nat) (f : Team → Team) : (s.modTeam tk f).homeTx = s.homeTx := rfl
@[simp] theorem State.modTeam_copies (tk : Nat) (f : Team → Team) : (s.modTeam tk f).copies = s.copies := rfl
@[simp] theorem State.modTeam_halves (tk : Nat) (f : Team → Team) : (s.modTeam tk f).halves = s.halves := rfl
@[simp] theorem State.modTeam_transit (tk : Nat) (f : Team → Team) : (s.modTeam tk f).transit = s.transit := rfl
@[simp] theorem State.modTeam_biPend (tk : Nat) (f : Team → Team) : (s.modTeam tk f).biPend = s.biPend := rfl
@[simp] theorem State.modTeam_wbuf (tk : Nat) (f : Team → Team) : (s.modTeam tk f).wbuf = s.wbuf := rfl
@[simp] theorem State.modTeam_reqs (tk : Nat) (f : Team → Team) : (s.modTeam tk f).reqs = s.reqs := rfl
@[simp] theorem State.modTeam_fails (tk : Nat) (f : Team → Team) : (s.modTeam tk f).fails = s.fails := rfl
@[simp] theorem State.modTeam_acks (tk : Nat) (f : Team → Team) : (s.modTeam tk f).acks = s.acks := rfl
@[simp] theorem State.modTeam_fwds (tk : Nat) (f : Team → Team) : (s.modTeam tk f).fwds = s.fwds := rfl
@[simp] theorem State.modTeam_fills (tk : Nat) (f : Team → Team) : (s.modTeam tk f).fills = s.fills := rfl
@[simp] theorem State.modTeam_ext (tk : Nat) (f : Team → Team) : (s.modTeam tk f).ext = s.ext := rfl
@[simp] theorem State.modTeam_out (tk : Nat) (f : Team → Team) : (s.modTeam tk f).out = s.out := rfl
@[simp] theorem State.modTeam_cores (tk : Nat) (f : Team → Team) : (s.modTeam tk f).cores = s.cores := rfl
@[simp] theorem State.modTeam_parts (tk : Nat) (f : Team → Team) : (s.modTeam tk f).parts = s.parts := rfl
@[simp] theorem State.modTeam_warps (tk : Nat) (f : Team → Team) : (s.modTeam tk f).warps = s.warps := rfl
@[simp] theorem State.modTeam_lanes (tk : Nat) (f : Team → Team) : (s.modTeam tk f).lanes = s.lanes := rfl
@[simp] theorem State.modTeam_frames (tk : Nat) (f : Team → Team) : (s.modTeam tk f).frames = s.frames := rfl
@[simp] theorem State.modTeam_ended (tk : Nat) (f : Team → Team) : (s.modTeam tk f).ended = s.ended := rfl
@[simp] theorem State.modTeam_defers (tk : Nat) (f : Team → Team) : (s.modTeam tk f).defers = s.defers := rfl
@[simp] theorem State.modTeam_pages (tk : Nat) (f : Team → Team) : (s.modTeam tk f).pages = s.pages := rfl
@[simp] theorem State.modTeam_grids (tk : Nat) (f : Team → Team) : (s.modTeam tk f).grids = s.grids := rfl
@[simp] theorem State.modTeam_back (tk : Nat) (f : Team → Team) : (s.modTeam tk f).back = s.back := rfl
@[simp] theorem State.modTeam_agenda (tk : Nat) (f : Team → Team) : (s.modTeam tk f).agenda = s.agenda := rfl
@[simp] theorem State.modTeam_iq (tk : Nat) (f : Team → Team) : (s.modTeam tk f).iq = s.iq := rfl
@[simp] theorem State.modTeam_cur (tk : Nat) (f : Team → Team) : (s.modTeam tk f).cur = s.cur := rfl
@[simp] theorem State.modTeam_stalls (tk : Nat) (f : Team → Team) : (s.modTeam tk f).stalls = s.stalls := rfl
@[simp] theorem State.modTeam_epoch (tk : Nat) (f : Team → Team) : (s.modTeam tk f).epoch = s.epoch := rfl
@[simp] theorem State.modTeam_fresh (tk : Nat) (f : Team → Team) : (s.modTeam tk f).fresh = s.fresh := rfl
@[simp] theorem State.modTeam_uid (tk : Nat) (f : Team → Team) : (s.modTeam tk f).uid = s.uid := rfl
@[simp] theorem State.modTeam_usec (tk : Nat) (f : Team → Team) : (s.modTeam tk f).usec = s.usec := rfl
@[simp] theorem State.modTeam_turn (tk : Nat) (f : Team → Team) : (s.modTeam tk f).turn = s.turn := rfl

/-! ### send -/

@[simp] theorem State.send_pkg (p : Packet) : (s.send p).pkg = s.pkg := rfl
@[simp] theorem State.send_ports (p : Packet) : (s.send p).ports = s.ports := rfl
@[simp] theorem State.send_hbm (p : Packet) : (s.send p).hbm = s.hbm := rfl
@[simp] theorem State.send_rht (p : Packet) : (s.send p).rht = s.rht := rfl
@[simp] theorem State.send_selPg (p : Packet) : (s.send p).selPg = s.selPg := rfl
@[simp] theorem State.send_selSet (p : Packet) : (s.send p).selSet = s.selSet := rfl
@[simp] theorem State.send_homeTx (p : Packet) : (s.send p).homeTx = s.homeTx := rfl
@[simp] theorem State.send_copies (p : Packet) : (s.send p).copies = s.copies := rfl
@[simp] theorem State.send_halves (p : Packet) : (s.send p).halves = s.halves := rfl
@[simp] theorem State.send_transit (p : Packet) : (s.send p).transit = s.transit := rfl
@[simp] theorem State.send_biPend (p : Packet) : (s.send p).biPend = s.biPend := rfl
@[simp] theorem State.send_wbuf (p : Packet) : (s.send p).wbuf = s.wbuf := rfl
@[simp] theorem State.send_reqs (p : Packet) : (s.send p).reqs = s.reqs := rfl
@[simp] theorem State.send_fails (p : Packet) : (s.send p).fails = s.fails := rfl
@[simp] theorem State.send_acks (p : Packet) : (s.send p).acks = s.acks := rfl
@[simp] theorem State.send_fwds (p : Packet) : (s.send p).fwds = s.fwds := rfl
@[simp] theorem State.send_fills (p : Packet) : (s.send p).fills = s.fills := rfl
@[simp] theorem State.send_ext (p : Packet) : (s.send p).ext = s.ext := rfl
@[simp] theorem State.send_cores (p : Packet) : (s.send p).cores = s.cores := rfl
@[simp] theorem State.send_parts (p : Packet) : (s.send p).parts = s.parts := rfl
@[simp] theorem State.send_warps (p : Packet) : (s.send p).warps = s.warps := rfl
@[simp] theorem State.send_lanes (p : Packet) : (s.send p).lanes = s.lanes := rfl
@[simp] theorem State.send_frames (p : Packet) : (s.send p).frames = s.frames := rfl
@[simp] theorem State.send_teams (p : Packet) : (s.send p).teams = s.teams := rfl
@[simp] theorem State.send_ended (p : Packet) : (s.send p).ended = s.ended := rfl
@[simp] theorem State.send_defers (p : Packet) : (s.send p).defers = s.defers := rfl
@[simp] theorem State.send_pages (p : Packet) : (s.send p).pages = s.pages := rfl
@[simp] theorem State.send_grids (p : Packet) : (s.send p).grids = s.grids := rfl
@[simp] theorem State.send_back (p : Packet) : (s.send p).back = s.back := rfl
@[simp] theorem State.send_agenda (p : Packet) : (s.send p).agenda = s.agenda := rfl
@[simp] theorem State.send_iq (p : Packet) : (s.send p).iq = s.iq := rfl
@[simp] theorem State.send_cur (p : Packet) : (s.send p).cur = s.cur := rfl
@[simp] theorem State.send_stalls (p : Packet) : (s.send p).stalls = s.stalls := rfl
@[simp] theorem State.send_epoch (p : Packet) : (s.send p).epoch = s.epoch := rfl
@[simp] theorem State.send_fresh (p : Packet) : (s.send p).fresh = s.fresh := rfl
@[simp] theorem State.send_uid (p : Packet) : (s.send p).uid = s.uid := rfl
@[simp] theorem State.send_usec (p : Packet) : (s.send p).usec = s.usec := rfl
@[simp] theorem State.send_turn (p : Packet) : (s.send p).turn = s.turn := rfl

/-! ### wake -/

@[simp] theorem State.wake_pkg : (s.wake).pkg = s.pkg := rfl
@[simp] theorem State.wake_ports : (s.wake).ports = s.ports := rfl
@[simp] theorem State.wake_hbm : (s.wake).hbm = s.hbm := rfl
@[simp] theorem State.wake_rht : (s.wake).rht = s.rht := rfl
@[simp] theorem State.wake_selPg : (s.wake).selPg = s.selPg := rfl
@[simp] theorem State.wake_selSet : (s.wake).selSet = s.selSet := rfl
@[simp] theorem State.wake_homeTx : (s.wake).homeTx = s.homeTx := rfl
@[simp] theorem State.wake_copies : (s.wake).copies = s.copies := rfl
@[simp] theorem State.wake_halves : (s.wake).halves = s.halves := rfl
@[simp] theorem State.wake_transit : (s.wake).transit = s.transit := rfl
@[simp] theorem State.wake_biPend : (s.wake).biPend = s.biPend := rfl
@[simp] theorem State.wake_wbuf : (s.wake).wbuf = s.wbuf := rfl
@[simp] theorem State.wake_reqs : (s.wake).reqs = s.reqs := rfl
@[simp] theorem State.wake_fails : (s.wake).fails = s.fails := rfl
@[simp] theorem State.wake_acks : (s.wake).acks = s.acks := rfl
@[simp] theorem State.wake_fwds : (s.wake).fwds = s.fwds := rfl
@[simp] theorem State.wake_fills : (s.wake).fills = s.fills := rfl
@[simp] theorem State.wake_ext : (s.wake).ext = s.ext := rfl
@[simp] theorem State.wake_out : (s.wake).out = s.out := rfl
@[simp] theorem State.wake_cores : (s.wake).cores = s.cores := rfl
@[simp] theorem State.wake_parts : (s.wake).parts = s.parts := rfl
@[simp] theorem State.wake_warps : (s.wake).warps = s.warps := rfl
@[simp] theorem State.wake_lanes : (s.wake).lanes = s.lanes := rfl
@[simp] theorem State.wake_frames : (s.wake).frames = s.frames := rfl
@[simp] theorem State.wake_teams : (s.wake).teams = s.teams := rfl
@[simp] theorem State.wake_ended : (s.wake).ended = s.ended := rfl
@[simp] theorem State.wake_defers : (s.wake).defers = s.defers := rfl
@[simp] theorem State.wake_pages : (s.wake).pages = s.pages := rfl
@[simp] theorem State.wake_grids : (s.wake).grids = s.grids := rfl
@[simp] theorem State.wake_back : (s.wake).back = s.back := rfl
@[simp] theorem State.wake_agenda : (s.wake).agenda = s.agenda := rfl
@[simp] theorem State.wake_iq : (s.wake).iq = s.iq := rfl
@[simp] theorem State.wake_cur : (s.wake).cur = s.cur := rfl
@[simp] theorem State.wake_stalls : (s.wake).stalls = s.stalls := rfl
@[simp] theorem State.wake_fresh : (s.wake).fresh = s.fresh := rfl
@[simp] theorem State.wake_uid : (s.wake).uid = s.uid := rfl
@[simp] theorem State.wake_usec : (s.wake).usec = s.usec := rfl
@[simp] theorem State.wake_turn : (s.wake).turn = s.turn := rfl

/-! ### unwait -/

@[simp] theorem State.unwait_pkg (w : Waiter) : (s.unwait w).pkg = s.pkg := rfl
@[simp] theorem State.unwait_ports (w : Waiter) : (s.unwait w).ports = s.ports := rfl
@[simp] theorem State.unwait_hbm (w : Waiter) : (s.unwait w).hbm = s.hbm := rfl
@[simp] theorem State.unwait_rht (w : Waiter) : (s.unwait w).rht = s.rht := rfl
@[simp] theorem State.unwait_selPg (w : Waiter) : (s.unwait w).selPg = s.selPg := rfl
@[simp] theorem State.unwait_selSet (w : Waiter) : (s.unwait w).selSet = s.selSet := rfl
@[simp] theorem State.unwait_homeTx (w : Waiter) : (s.unwait w).homeTx = s.homeTx := rfl
@[simp] theorem State.unwait_copies (w : Waiter) : (s.unwait w).copies = s.copies := rfl
@[simp] theorem State.unwait_halves (w : Waiter) : (s.unwait w).halves = s.halves := rfl
@[simp] theorem State.unwait_biPend (w : Waiter) : (s.unwait w).biPend = s.biPend := rfl
@[simp] theorem State.unwait_wbuf (w : Waiter) : (s.unwait w).wbuf = s.wbuf := rfl
@[simp] theorem State.unwait_fwds (w : Waiter) : (s.unwait w).fwds = s.fwds := rfl
@[simp] theorem State.unwait_fills (w : Waiter) : (s.unwait w).fills = s.fills := rfl
@[simp] theorem State.unwait_ext (w : Waiter) : (s.unwait w).ext = s.ext := rfl
@[simp] theorem State.unwait_out (w : Waiter) : (s.unwait w).out = s.out := rfl
@[simp] theorem State.unwait_cores (w : Waiter) : (s.unwait w).cores = s.cores := rfl
@[simp] theorem State.unwait_parts (w : Waiter) : (s.unwait w).parts = s.parts := rfl
@[simp] theorem State.unwait_warps (w : Waiter) : (s.unwait w).warps = s.warps := rfl
@[simp] theorem State.unwait_lanes (w : Waiter) : (s.unwait w).lanes = s.lanes := rfl
@[simp] theorem State.unwait_frames (w : Waiter) : (s.unwait w).frames = s.frames := rfl
@[simp] theorem State.unwait_teams (w : Waiter) : (s.unwait w).teams = s.teams := rfl
@[simp] theorem State.unwait_ended (w : Waiter) : (s.unwait w).ended = s.ended := rfl
@[simp] theorem State.unwait_defers (w : Waiter) : (s.unwait w).defers = s.defers := rfl
@[simp] theorem State.unwait_pages (w : Waiter) : (s.unwait w).pages = s.pages := rfl
@[simp] theorem State.unwait_grids (w : Waiter) : (s.unwait w).grids = s.grids := rfl
@[simp] theorem State.unwait_back (w : Waiter) : (s.unwait w).back = s.back := rfl
@[simp] theorem State.unwait_agenda (w : Waiter) : (s.unwait w).agenda = s.agenda := rfl
@[simp] theorem State.unwait_iq (w : Waiter) : (s.unwait w).iq = s.iq := rfl
@[simp] theorem State.unwait_cur (w : Waiter) : (s.unwait w).cur = s.cur := rfl
@[simp] theorem State.unwait_stalls (w : Waiter) : (s.unwait w).stalls = s.stalls := rfl
@[simp] theorem State.unwait_epoch (w : Waiter) : (s.unwait w).epoch = s.epoch := rfl
@[simp] theorem State.unwait_fresh (w : Waiter) : (s.unwait w).fresh = s.fresh := rfl
@[simp] theorem State.unwait_uid (w : Waiter) : (s.unwait w).uid = s.uid := rfl
@[simp] theorem State.unwait_usec (w : Waiter) : (s.unwait w).usec = s.usec := rfl
@[simp] theorem State.unwait_turn (w : Waiter) : (s.unwait w).turn = s.turn := rfl

/-! ### What a setter wrote -/

@[simp] theorem State.setPkg_pkg (v : Pkg) : (s.setPkg v).pkg = v := rfl
@[simp] theorem State.send_out (p : Packet) : (s.send p).out = s.out ++ [p] := rfl
@[simp] theorem State.wake_epoch : s.wake.epoch = s.epoch + 1 := rfl

theorem State.warp_setWarp (k j : Nat) (v : Warp) : (s.setWarp k v).warp j = if k = j then v else s.warp j := by
  simp only [State.warp, State.setWarp, tget, tfind_tset]; split <;> rfl
theorem State.frame_setFrame (k j : Nat) (v : Frame) : (s.setFrame k v).frame j = if k = j then v else s.frame j := by
  simp only [State.frame, State.setFrame, tget, tfind_tset]; split <;> rfl
theorem State.team_setTeam (k j : Nat) (v : Team) : (s.setTeam k v).team j = if k = j then v else s.team j := by
  simp only [State.team, State.setTeam, tget, tfind_tset]; split <;> rfl
theorem State.core_setCore (k j : Nat) (v : Core) (h : k = j) : (s.setCore k v).core j = v := by
  subst h; simp [State.core, State.setCore]

theorem State.core_setCore_ne {k j : Nat} (v : Core) (h : k ≠ j) : (s.setCore k v).core j = s.core j := by
  simp only [State.core, State.setCore, tget, tput]
  split
  · rw [tfind_tdel]; simp [h]
  · rw [tfind_tset]; simp [h]

/-- Two lanes of warps have the same key only if they are the same lane. -/
theorem lkOf_inj {a b l m : Nat} (hl : l < 32) (hm : m < 32) : lkOf a l = lkOf b m ↔ a = b ∧ l = m := by
  unfold lkOf; omega

theorem State.lane_setLane (a b l m : Nat) (v : Lane) :
    (s.setLane a l v).lane b m = if lkOf a l = lkOf b m then v else s.lane b m := by
  simp only [State.lane, State.setLane, tget, tfind_tset]; split <;> rfl

@[simp] theorem State.lane_setLane_self (a l : Nat) (v : Lane) : (s.setLane a l v).lane a l = v := by
  simp [State.lane_setLane]

theorem State.lane_modLane (a b l m : Nat) (f : Lane → Lane) :
    (s.modLane a l f).lane b m = if lkOf a l = lkOf b m then f (s.lane a l) else s.lane b m := by
  simp [State.modLane, State.lane_setLane]

theorem State.warp_modWarp (k j : Nat) (f : Warp → Warp) :
    (s.modWarp k f).warp j = if k = j then f (s.warp k) else s.warp j := by
  simp [State.modWarp, State.warp_setWarp]

theorem State.frame_modFrame (k j : Nat) (f : Frame → Frame) :
    (s.modFrame k f).frame j = if k = j then f (s.frame k) else s.frame j := by
  simp [State.modFrame, State.frame_setFrame]

theorem State.team_modTeam (k j : Nat) (f : Team → Team) :
    (s.modTeam k f).team j = if k = j then f (s.team k) else s.team j := by
  simp [State.modTeam, State.team_setTeam]

/-! ### Entries through the setters of other tables -/

@[simp] theorem State.warp_of_setCore (c : Nat) (v : Core) (j : Nat) : (s.setCore c v).warp j = s.warp j := rfl
@[simp] theorem State.lane_of_setCore (c : Nat) (v : Core) (a b : Nat) : (s.setCore c v).lane a b = s.lane a b := rfl
@[simp] theorem State.frame_of_setCore (c : Nat) (v : Core) (j : Nat) : (s.setCore c v).frame j = s.frame j := rfl
@[simp] theorem State.team_of_setCore (c : Nat) (v : Core) (j : Nat) : (s.setCore c v).team j = s.team j := rfl
@[simp] theorem State.warp_of_setPart (p : Nat) (v : Part) (j : Nat) : (s.setPart p v).warp j = s.warp j := rfl
@[simp] theorem State.lane_of_setPart (p : Nat) (v : Part) (a b : Nat) : (s.setPart p v).lane a b = s.lane a b := rfl
@[simp] theorem State.frame_of_setPart (p : Nat) (v : Part) (j : Nat) : (s.setPart p v).frame j = s.frame j := rfl
@[simp] theorem State.team_of_setPart (p : Nat) (v : Part) (j : Nat) : (s.setPart p v).team j = s.team j := rfl
@[simp] theorem State.core_of_setPart (p : Nat) (v : Part) (j : Nat) : (s.setPart p v).core j = s.core j := rfl
@[simp] theorem State.lane_of_setWarp (wk : Nat) (v : Warp) (a b : Nat) : (s.setWarp wk v).lane a b = s.lane a b := rfl
@[simp] theorem State.frame_of_setWarp (wk : Nat) (v : Warp) (j : Nat) : (s.setWarp wk v).frame j = s.frame j := rfl
@[simp] theorem State.team_of_setWarp (wk : Nat) (v : Warp) (j : Nat) : (s.setWarp wk v).team j = s.team j := rfl
@[simp] theorem State.core_of_setWarp (wk : Nat) (v : Warp) (j : Nat) : (s.setWarp wk v).core j = s.core j := rfl
@[simp] theorem State.warp_of_setLane (wk l : Nat) (v : Lane) (j : Nat) : (s.setLane wk l v).warp j = s.warp j := rfl
@[simp] theorem State.frame_of_setLane (wk l : Nat) (v : Lane) (j : Nat) : (s.setLane wk l v).frame j = s.frame j := rfl
@[simp] theorem State.team_of_setLane (wk l : Nat) (v : Lane) (j : Nat) : (s.setLane wk l v).team j = s.team j := rfl
@[simp] theorem State.core_of_setLane (wk l : Nat) (v : Lane) (j : Nat) : (s.setLane wk l v).core j = s.core j := rfl
@[simp] theorem State.warp_of_setFrame (fk : Nat) (v : Frame) (j : Nat) : (s.setFrame fk v).warp j = s.warp j := rfl
@[simp] theorem State.lane_of_setFrame (fk : Nat) (v : Frame) (a b : Nat) : (s.setFrame fk v).lane a b = s.lane a b := rfl
@[simp] theorem State.team_of_setFrame (fk : Nat) (v : Frame) (j : Nat) : (s.setFrame fk v).team j = s.team j := rfl
@[simp] theorem State.core_of_setFrame (fk : Nat) (v : Frame) (j : Nat) : (s.setFrame fk v).core j = s.core j := rfl
@[simp] theorem State.warp_of_setTeam (tk : Nat) (v : Team) (j : Nat) : (s.setTeam tk v).warp j = s.warp j := rfl
@[simp] theorem State.lane_of_setTeam (tk : Nat) (v : Team) (a b : Nat) : (s.setTeam tk v).lane a b = s.lane a b := rfl
@[simp] theorem State.frame_of_setTeam (tk : Nat) (v : Team) (j : Nat) : (s.setTeam tk v).frame j = s.frame j := rfl
@[simp] theorem State.core_of_setTeam (tk : Nat) (v : Team) (j : Nat) : (s.setTeam tk v).core j = s.core j := rfl
@[simp] theorem State.warp_of_setPage (p : Nat) (v : Page) (j : Nat) : (s.setPage p v).warp j = s.warp j := rfl
@[simp] theorem State.lane_of_setPage (p : Nat) (v : Page) (a b : Nat) : (s.setPage p v).lane a b = s.lane a b := rfl
@[simp] theorem State.frame_of_setPage (p : Nat) (v : Page) (j : Nat) : (s.setPage p v).frame j = s.frame j := rfl
@[simp] theorem State.team_of_setPage (p : Nat) (v : Page) (j : Nat) : (s.setPage p v).team j = s.team j := rfl
@[simp] theorem State.core_of_setPage (p : Nat) (v : Page) (j : Nat) : (s.setPage p v).core j = s.core j := rfl
@[simp] theorem State.warp_of_setPort (p : Nat) (v : Port) (j : Nat) : (s.setPort p v).warp j = s.warp j := rfl
@[simp] theorem State.lane_of_setPort (p : Nat) (v : Port) (a b : Nat) : (s.setPort p v).lane a b = s.lane a b := rfl
@[simp] theorem State.frame_of_setPort (p : Nat) (v : Port) (j : Nat) : (s.setPort p v).frame j = s.frame j := rfl
@[simp] theorem State.team_of_setPort (p : Nat) (v : Port) (j : Nat) : (s.setPort p v).team j = s.team j := rfl
@[simp] theorem State.core_of_setPort (p : Nat) (v : Port) (j : Nat) : (s.setPort p v).core j = s.core j := rfl
@[simp] theorem State.warp_of_setPkg (v : Pkg) (j : Nat) : (s.setPkg v).warp j = s.warp j := rfl
@[simp] theorem State.lane_of_setPkg (v : Pkg) (a b : Nat) : (s.setPkg v).lane a b = s.lane a b := rfl
@[simp] theorem State.frame_of_setPkg (v : Pkg) (j : Nat) : (s.setPkg v).frame j = s.frame j := rfl
@[simp] theorem State.team_of_setPkg (v : Pkg) (j : Nat) : (s.setPkg v).team j = s.team j := rfl
@[simp] theorem State.core_of_setPkg (v : Pkg) (j : Nat) : (s.setPkg v).core j = s.core j := rfl
@[simp] theorem State.warp_of_modCore (c : Nat) (f : Core → Core) (j : Nat) : (s.modCore c f).warp j = s.warp j := rfl
@[simp] theorem State.lane_of_modCore (c : Nat) (f : Core → Core) (a b : Nat) : (s.modCore c f).lane a b = s.lane a b := rfl
@[simp] theorem State.frame_of_modCore (c : Nat) (f : Core → Core) (j : Nat) : (s.modCore c f).frame j = s.frame j := rfl
@[simp] theorem State.team_of_modCore (c : Nat) (f : Core → Core) (j : Nat) : (s.modCore c f).team j = s.team j := rfl
@[simp] theorem State.warp_of_modPart (p : Nat) (f : Part → Part) (j : Nat) : (s.modPart p f).warp j = s.warp j := rfl
@[simp] theorem State.lane_of_modPart (p : Nat) (f : Part → Part) (a b : Nat) : (s.modPart p f).lane a b = s.lane a b := rfl
@[simp] theorem State.frame_of_modPart (p : Nat) (f : Part → Part) (j : Nat) : (s.modPart p f).frame j = s.frame j := rfl
@[simp] theorem State.team_of_modPart (p : Nat) (f : Part → Part) (j : Nat) : (s.modPart p f).team j = s.team j := rfl
@[simp] theorem State.core_of_modPart (p : Nat) (f : Part → Part) (j : Nat) : (s.modPart p f).core j = s.core j := rfl
@[simp] theorem State.lane_of_modWarp (wk : Nat) (f : Warp → Warp) (a b : Nat) : (s.modWarp wk f).lane a b = s.lane a b := rfl
@[simp] theorem State.frame_of_modWarp (wk : Nat) (f : Warp → Warp) (j : Nat) : (s.modWarp wk f).frame j = s.frame j := rfl
@[simp] theorem State.team_of_modWarp (wk : Nat) (f : Warp → Warp) (j : Nat) : (s.modWarp wk f).team j = s.team j := rfl
@[simp] theorem State.core_of_modWarp (wk : Nat) (f : Warp → Warp) (j : Nat) : (s.modWarp wk f).core j = s.core j := rfl
@[simp] theorem State.warp_of_modLane (wk l : Nat) (f : Lane → Lane) (j : Nat) : (s.modLane wk l f).warp j = s.warp j := rfl
@[simp] theorem State.frame_of_modLane (wk l : Nat) (f : Lane → Lane) (j : Nat) : (s.modLane wk l f).frame j = s.frame j := rfl
@[simp] theorem State.team_of_modLane (wk l : Nat) (f : Lane → Lane) (j : Nat) : (s.modLane wk l f).team j = s.team j := rfl
@[simp] theorem State.core_of_modLane (wk l : Nat) (f : Lane → Lane) (j : Nat) : (s.modLane wk l f).core j = s.core j := rfl
@[simp] theorem State.warp_of_modFrame (fk : Nat) (f : Frame → Frame) (j : Nat) : (s.modFrame fk f).warp j = s.warp j := rfl
@[simp] theorem State.lane_of_modFrame (fk : Nat) (f : Frame → Frame) (a b : Nat) : (s.modFrame fk f).lane a b = s.lane a b := rfl
@[simp] theorem State.team_of_modFrame (fk : Nat) (f : Frame → Frame) (j : Nat) : (s.modFrame fk f).team j = s.team j := rfl
@[simp] theorem State.core_of_modFrame (fk : Nat) (f : Frame → Frame) (j : Nat) : (s.modFrame fk f).core j = s.core j := rfl
@[simp] theorem State.warp_of_modTeam (tk : Nat) (f : Team → Team) (j : Nat) : (s.modTeam tk f).warp j = s.warp j := rfl
@[simp] theorem State.lane_of_modTeam (tk : Nat) (f : Team → Team) (a b : Nat) : (s.modTeam tk f).lane a b = s.lane a b := rfl
@[simp] theorem State.frame_of_modTeam (tk : Nat) (f : Team → Team) (j : Nat) : (s.modTeam tk f).frame j = s.frame j := rfl
@[simp] theorem State.core_of_modTeam (tk : Nat) (f : Team → Team) (j : Nat) : (s.modTeam tk f).core j = s.core j := rfl
@[simp] theorem State.warp_of_send (p : Packet) (j : Nat) : (s.send p).warp j = s.warp j := rfl
@[simp] theorem State.lane_of_send (p : Packet) (a b : Nat) : (s.send p).lane a b = s.lane a b := rfl
@[simp] theorem State.frame_of_send (p : Packet) (j : Nat) : (s.send p).frame j = s.frame j := rfl
@[simp] theorem State.team_of_send (p : Packet) (j : Nat) : (s.send p).team j = s.team j := rfl
@[simp] theorem State.core_of_send (p : Packet) (j : Nat) : (s.send p).core j = s.core j := rfl
@[simp] theorem State.warp_of_wake (j : Nat) : (s.wake).warp j = s.warp j := rfl
@[simp] theorem State.lane_of_wake (a b : Nat) : (s.wake).lane a b = s.lane a b := rfl
@[simp] theorem State.frame_of_wake (j : Nat) : (s.wake).frame j = s.frame j := rfl
@[simp] theorem State.team_of_wake (j : Nat) : (s.wake).team j = s.team j := rfl
@[simp] theorem State.core_of_wake (j : Nat) : (s.wake).core j = s.core j := rfl
@[simp] theorem State.warp_of_unwait (w : Waiter) (j : Nat) : (s.unwait w).warp j = s.warp j := rfl
@[simp] theorem State.lane_of_unwait (w : Waiter) (a b : Nat) : (s.unwait w).lane a b = s.lane a b := rfl
@[simp] theorem State.frame_of_unwait (w : Waiter) (j : Nat) : (s.unwait w).frame j = s.frame j := rfl
@[simp] theorem State.team_of_unwait (w : Waiter) (j : Nat) : (s.unwait w).team j = s.team j := rfl
@[simp] theorem State.core_of_unwait (w : Waiter) (j : Nat) : (s.unwait w).core j = s.core j := rfl

end Sys2Proof.Machine
end

