-- ==== Sys2Proof/Laws/Issue.lean ====
section
/-! SUPPORT. Laws of the skeleton of an instruction word: what `issue` answers, once for every body. -/

namespace Sys2Proof.Machine

/-! ### Lanes in order -/

theorem lanesOf_sorted (m : BitVec 32) : (lanesOf m).Pairwise (· < ·) := by
  unfold lanesOf upto
  exact List.Pairwise.filter _ List.pairwise_lt_range

theorem mem_lanesOf {m : BitVec 32} {l : Nat} : l ∈ lanesOf m ↔ l < 32 ∧ m.getLsbD l = true := by
  simp [lanesOf, upto]

theorem Issues.sorted {s : State} {i : Instr} {c : Ctx} (h : Issues s i c) : c.active.Pairwise (· < ·) := by
  rw [h.active]; exact (lanesOf_sorted _).filter _

theorem Issues.nodup {s : State} {i : Instr} {c : Ctx} (h : Issues s i c) : c.active.Nodup :=
  h.sorted.imp fun h => Nat.ne_of_lt h

theorem Issues.lt32 {s : State} {i : Instr} {c : Ctx} (h : Issues s i c) {l : Nat} (hl : l ∈ c.active) : l < 32 := by
  rw [h.active] at hl; exact (mem_lanesOf.1 (List.mem_filter.1 hl).1).1

theorem Issues.mem_bundle {s : State} {i : Instr} {c : Ctx} (h : Issues s i c) {l : Nat} (hl : l ∈ c.active) :
    l ∈ lanesOf c.b.lanes := by
  rw [h.active] at hl; exact (List.mem_filter.1 hl).1

/-- Outcomes in ascending lane order stay as they are. -/
theorem sortOuts_sorted : ∀ {outs : List (Nat × LaneOut)}, outs.Pairwise (fun a b => a.1 < b.1) → sortOuts outs = outs
  | [], _ => rfl
  | e :: r, h => by
    rw [List.pairwise_cons] at h
    rw [sortOuts, sortOuts_sorted h.2]
    cases r with
    | nil => rfl
    | cons f r => simp [tset, h.1 f (by simp)]

theorem tfind_isSome_of_mem {α : Type} {t : Tab α} {k : Nat} {v : α} (h : (k, v) ∈ t) : (tfind t k).isSome = true := by
  induction t with
  | nil => simp at h
  | cons e r ih =>
    obtain ⟨j, w⟩ := e
    by_cases hj : j = k
    · simp [tfind, hj]
    · have : (k, v) ∈ r := by
        rcases List.mem_cons.1 h with h | h
        · exact absurd (congrArg Prod.fst h).symm hj
        · exact h
      simpa [tfind, hj] using ih this

theorem tfind_map {α : Type} (ls : List Nat) (f : Nat → α) (l : Nat) :
    tfind (ls.map fun m => (m, f m)) l = if l ∈ ls then some (f l) else none := by
  induction ls with
  | nil => rfl
  | cons m r ih =>
    by_cases h : m = l
    · subst h; simp [tfind]
    · have : ¬ l = m := fun e => h e.symm
      simp [tfind, h, ih, this]

theorem pairwise_map_fst {α : Type} {ls : List Nat} (h : ls.Pairwise (· < ·)) (f : Nat → α) :
    (ls.map fun l => (l, f l)).Pairwise (fun a b => a.1 < b.1) := by
  rw [List.pairwise_map]; exact h

/-! ### What `issue` answers -/

/-- The context that `issue` gives a body is the one that `Issues` names. -/
theorem Issues.ctx {s : State} {i : Instr} {c : Ctx} (h : Issues s i c) :
    c = ⟨c.wk, c.path, c.b, c.g, c.active, c.active⟩ := by
  obtain ⟨wk, path, b, g, lanes, active⟩ := c
  have : lanes = active := h.lanes
  subst this; rfl

theorem issue_body {s : State} {i : Instr} {c : Ctx} (h : Issues s i c) (body : Body) :
    issue s i body =
      (let r := body s c
       let outs := sortOuts r.2
       if c.active.all fun l => (tfind outs l).isSome then .next (finish r.1 i c outs).wake
       else if r.1.quiescing c.wk then
         let all := waits i || readsEmpty r.1 c.wk i c.g c.active
         let stop := c.active.filter fun l => (tfind outs l).isNone && (all || r.1.stalls.contains (c.wk, l))
         let c1 : Ctx := { c with b := { c.b with lanes := stop.foldl dropLane c.b.lanes }, active := c.active.filter fun l => !stop.contains l }
         let s1 := stopLanes r.1 c.wk c.b.hdr c.b.idx stop
         if c1.active.all fun l => (tfind outs l).isSome then .next (finish { s1 with stalls := [] } i c1 outs).wake
         else .next (blockBundle s1 c1 outs)
       else .next (blockBundle r.1 c outs)) := by
  have hne : ((lanesOf c.b.lanes).filter fun l => guardOn s c.wk l c.g.fs.guard).isEmpty = false := by
    have := h.nonempty
    rw [h.active] at this
    simpa [List.isEmpty_iff] using this
  have hc := h.ctx
  unfold issue
  rw [h.cur, h.sig]
  simp only [h.bundle, h.legal, hne, Bool.false_eq_true, if_false, h.fresh, List.isEmpty_nil, if_true, List.nil_append]
  simp only [← h.active]
  rw [← hc]
  simp only [h.lanes]

/-- An instruction whose body gives every active lane an outcome ends. -/
theorem issue_ends {s : State} {i : Instr} {c : Ctx} (h : Issues s i c) {body : Body} {t : State}
    {r : Nat → LaneOut} (hb : body s c = (t, c.active.map fun l => (l, r l))) :
    issue s i body = .next (finish t i c (c.active.map fun l => (l, r l))).wake := by
  rw [issue_body h]
  simp only [hb]
  rw [sortOuts_sorted (pairwise_map_fst h.sorted r), if_pos]
  rw [List.all_eq_true]
  intro l hl
  simp [tfind_map, hl]

/-- The same for results. -/
theorem issue_ended {s : State} {i : Instr} {c : Ctx} (h : Issues s i c) {body : Body} {t : State}
    {r : Nat → LaneRes} (hb : body s c = (t, c.active.map fun l => (l, .ok (r l)))) :
    issue s i body = .next (Ended t i c r) :=
  issue_ends h hb

theorem readLanes_ok {s : State} {c : Ctx} {x : Nat → Srcs} : ∀ {ls : List Nat},
    (∀ l ∈ ls, readAll s c.wk l c.g = .ok (x l)) → readLanes s c ls = .ok (ls.map fun l => (l, .ok (x l)))
  | [], _ => rfl
  | l :: r, h => by
    have ih := readLanes_ok (ls := r) fun m hm => h m (List.mem_cons_of_mem l hm)
    simp only [readLanes, h l List.mem_cons_self, ih, Rd.bind, List.map_cons]

theorem Reads.lanes {s : State} {i : Instr} {c : Ctx} {x : Nat → Srcs} (h : Issues s i c) (hr : Reads s c x) :
    readLanes s c c.lanes = .ok (c.active.map fun l => (l, .ok (x l))) := by
  rw [h.lanes]; exact readLanes_ok hr

/-- An instruction that computes each lane's result from its operands performs. -/
theorem issue_alu {s : State} {i : Instr} {c : Ctx} {x : Nat → Srcs} (h : Issues s i c) (hr : Reads s c x)
    {f : State → Ctx → Nat → Srcs → LaneOut} {F : Nat → LaneRes} (hf : ∀ l ∈ c.active, f s c l (x l) = .ok (F l)) :
    issue s i (aluBody f) = .next (Ended s i c F) := by
  refine issue_ended h ?_
  simp only [aluBody, hr.lanes h, List.map_map]
  congr 1
  exact List.map_congr_left fun l hl => by simp [hf l hl]

/-- What an instruction that works lane by lane answers when every lane gives an outcome in its turn. -/
theorem foldl_turns {c : Ctx} {x : Nat → Srcs} {f : State → Ctx → Nat → Srcs → State × Option LaneOut} {r : Nat → LaneOut} :
    ∀ (ls : List Nat) (s : State) (σ : Nat → State) (acc : List (Nat × LaneOut)), σ 0 = s →
      (∀ k l, ls[k]? = some l → f (σ k) c l (x l) = (σ (k + 1), some (r l))) →
      (ls.map fun l => ((l, .ok (x l)) : Nat × Except LaneFault Srcs)).foldl (fun acc e =>
        match e.2 with
        | .error e' => (acc.1, acc.2 ++ [(e.1, .fault e')])
        | .ok x =>
          let r := f acc.1 c e.1 x
          match r.2 with
          | some o => (r.1, acc.2 ++ [(e.1, o)])
          | none => (r.1, acc.2)) (s, acc) = (σ ls.length, acc ++ ls.map fun l => (l, r l))
  | [], s, σ, acc, h0, _ => by simp [h0]
  | l :: ls, s, σ, acc, h0, h => by
    have hl := h 0 l (by simp)
    rw [h0] at hl
    rw [List.map_cons, List.foldl_cons]
    simp only [hl]
    have := foldl_turns (c := c) (x := x) (f := f) (r := r) ls (σ 1) (fun k => σ (k + 1)) (acc ++ [(l, r l)]) rfl
      (fun k m hm => h (k + 1) m (by simpa using hm))
    simpa using this

/-- An instruction that works lane by lane ends once every lane has acted in its turn. -/
theorem issue_seq {s : State} {i : Instr} {c : Ctx} {x : Nat → Srcs} (h : Issues s i c) (hr : Reads s c x)
    {f : State → Ctx → Nat → Srcs → State × Option LaneOut} {σ : Nat → State} {r : Nat → LaneOut}
    (hσ : Turns c s σ fun l a b => f a c l (x l) = (b, some (r l))) :
    issue s i (seqBody f) = .next (finish (σ c.active.length) i c (c.active.map fun l => (l, r l))).wake := by
  refine issue_ends h ?_
  simp only [seqBody, hr.lanes h]
  have := foldl_turns (c := c) (x := x) (f := f) (r := r) c.active s σ [] hσ.1 hσ.2
  rw [List.nil_append] at this
  exact this

/-- What a body whose lanes act one after another ends in, from a run of the lanes. -/
theorem seq_ended {s : State} {i : Instr} {c : Ctx} {x : Nat → Srcs} (h : Issues s i c) (hr : Reads s c x)
    {f : State → Ctx → Nat → Srcs → State × Option LaneOut} {σ : Nat → State} {r : Nat → LaneRes}
    {R : Nat → State → State → Prop} (hσ : Turns c s σ R)
    (hf : ∀ l a b, R l a b → f a c l (x l) = (b, some (.ok (r l)))) :
    issue s i (seqBody f) = .next (Ended (σ c.active.length) i c r) :=
  issue_seq h hr ⟨hσ.1, fun k l hk => hf _ _ _ (hσ.2 k l hk)⟩

/-- The lanes of an ordered body that all complete, folded over a list of lanes. -/
theorem foldl_ordered {c : Ctx} {x : Nat → Srcs} {f : State → Ctx → Nat → Srcs → State × Option LaneOut} {r : Nat → LaneOut} :
    ∀ {ls : List Nat} {σ : Nat → State} {outs : List (Nat × LaneOut)},
      (∀ k l, ls[k]? = some l → f (σ k) c l (x l) = (σ (k + 1), some (r l))) →
      (ls.map fun l => (l, (Except.ok (x l) : Except LaneFault Srcs))).foldl (fun (acc : State × List (Nat × LaneOut) × Bool) e =>
        if acc.2.2 then acc
        else
          match e.2 with
          | .error e' => (acc.1, acc.2.1 ++ [(e.1, .fault e')], false)
          | .ok x =>
            let r := f acc.1 c e.1 x
            match r.2 with
            | some o => (r.1, acc.2.1 ++ [(e.1, o)], false)
            | none => (r.1, acc.2.1, true)) (σ 0, outs, false)
        = (σ ls.length, outs ++ ls.map fun l => (l, r l), false)
  | [], _, _, _ => by simp
  | l :: ls, σ, outs, h => by
    have h0 := h 0 l rfl
    rw [List.map_cons, List.foldl_cons]
    simp only [h0, Bool.false_eq_true, if_false]
    rw [foldl_ordered (σ := fun k => σ (k + 1)) (ls := ls) fun k l hk => h (k + 1) l hk]
    simp

/-- An instruction whose lanes act in ascending order ends once every lane has acted in its turn. -/
theorem issue_ordered {s : State} {i : Instr} {c : Ctx} {x : Nat → Srcs} (h : Issues s i c) (hr : Reads s c x)
    {f : State → Ctx → Nat → Srcs → State × Option LaneOut} {σ : Nat → State} {r : Nat → LaneOut}
    (hσ : Turns c s σ fun l a b => f a c l (x l) = (b, some (r l))) :
    issue s i (orderedBody f) = .next (finish (σ c.active.length) i c (c.active.map fun l => (l, r l))).wake := by
  refine issue_ends h ?_
  simp only [orderedBody, hr.lanes h]
  have := foldl_ordered (c := c) (x := x) (f := f) (r := r) (ls := c.active) (σ := σ) (outs := []) hσ.2
  rw [hσ.1, List.nil_append] at this
  exact congrArg (fun r => (r.1, r.2.1)) this

/-- The same for an ordered body. -/
theorem ordered_ended {s : State} {i : Instr} {c : Ctx} {x : Nat → Srcs} (h : Issues s i c) (hr : Reads s c x)
    {f : State → Ctx → Nat → Srcs → State × Option LaneOut} {σ : Nat → State} {r : Nat → LaneRes}
    {R : Nat → State → State → Prop} (hσ : Turns c s σ R)
    (hf : ∀ l a b, R l a b → f a c l (x l) = (b, some (.ok (r l)))) :
    issue s i (orderedBody f) = .next (Ended (σ c.active.length) i c r) :=
  issue_ordered h hr ⟨hσ.1, fun k l hk => hf _ _ _ (hσ.2 k l hk)⟩

end Sys2Proof.Machine
end

