-- ==== Sys2Proof/Laws/Bodies.lean ====
section
/-! SUPPORT. Laws of the bodies that instructions share: what an instruction with such a body answers. -/

namespace Sys2Proof.Machine

/-- An instruction that computes a value and flags from each lane's own operands yields them. -/
theorem yields_alu {i : Instr} {f : State → Ctx → Nat → Srcs → LaneOut} {v : Srcs → Val} {fl : Srcs → BitVec 7}
    (he : ∀ s, exec i s = issue s i (aluBody f)) (hf : ∀ s c l x, f s c l x = .ok { val := some (v x), flags := fl x }) :
    Yields i v fl := fun s c x h hr => (he s).trans (issue_alu h hr fun l _ => hf s c l (x l))

/-- An instruction that computes each lane's result from its operands and the state performs. -/
theorem performs_alu {i : Instr} {f : State → Ctx → Nat → Srcs → LaneOut} {F : State → Ctx → (Nat → Srcs) → Nat → LaneRes}
    (he : ∀ s, exec i s = issue s i (aluBody f)) (hf : ∀ s c l x, f s c l (x l) = .ok (F s c x l)) :
    Performs i F := fun s c x h hr => (he s).trans (issue_alu h hr fun l _ => hf s c l x)

/-- What a cross-lane instruction answers (R164): the participants are the active lanes, each with its operands. -/
theorem issue_cross {s : State} {i : Instr} {c : Ctx} {x : Nat → Srcs} (h : Issues s i c) (hr : Reads s c x)
    {f : State → Ctx → List (Nat × Srcs) → Nat → Srcs → LaneOut} {F : Nat → LaneRes}
    (hf : ∀ l ∈ c.active, f s c (c.active.map fun l => (l, x l)) l (x l) = .ok (F l)) :
    issue s i (crossBody f) = .next (Ended s i c F) := by
  refine issue_ended h ?_
  simp only [crossBody, hr.lanes h, List.map_map, List.filterMap_map]
  have e : ∀ ls : List Nat, List.filterMap (fun e : Nat × Except LaneFault Srcs => match e.2 with | .ok x => some (e.1, x) | .error _ => none)
      (ls.map fun l => (l, .ok (x l))) = ls.map fun l => (l, x l) := by
    intro ls; induction ls with
    | nil => rfl
    | cons l r ih => simp [ih]
  have e' := e c.active
  simp only [List.filterMap_map] at e'
  congr 1
  refine List.map_congr_left fun l hl => ?_
  rw [Function.comp_apply]
  exact congrArg (Prod.mk l) ((congrArg (fun ps => f s c ps l (x l)) e').trans (hf l hl))

/-- A cross-lane instruction performs. -/
theorem performs_cross {i : Instr} {f : State → Ctx → List (Nat × Srcs) → Nat → Srcs → LaneOut} {F : State → Ctx → (Nat → Srcs) → Nat → LaneRes}
    (he : ∀ s, exec i s = issue s i (crossBody f)) (hf : ∀ s c x l, l ∈ c.active → f s c (c.active.map fun l => (l, x l)) l (x l) = .ok (F s c x l)) :
    Performs i F := fun s c x h hr => (he s).trans (issue_cross h hr fun l hl => hf s c x l hl)

/-- What a compare answers (R168, R169). -/
theorem issue_compare {s : State} {i : Instr} {c : Ctx} {x : Nat → Srcs} (h : Issues s i c) (hr : Reads s c x)
    (f : BaseF) (hit : Srcs → Bool × BitVec 7) :
    issue s i (compareBody f hit) = .next (Ended (if bits f.md 6 4 % 4 = 3 then
        (idleLanes c).foldl (fun st l => st.modLane c.wk l fun ln => (ln.setP (cmpP1 f) false).setP (cmpP2 f) false) s
      else s) i c fun l =>
      { preds := combine (bits f.md 6 4) (cmpP1 f) (cmpP2 f) ((s.lane c.wk l).getP (cmpP1 f)) ((s.lane c.wk l).getP (cmpP2 f)) (hit (x l)).1
        flags := (hit (x l)).2 }) := by
  refine issue_ended h ?_
  simp only [compareBody, hr.lanes h, List.map_map]
  congr 1

end Sys2Proof.Machine
end

