-- ==== Sys2Proof/Laws/Encoding.lean ====
section
/-! SUPPORT. Laws of the encoding: every field of every format stands where the decoder reads it, and the fields of a word are the
word. -/

namespace Sys2Proof.Laws

open Sys2Proof

/-! ### Fields of an appended word -/

/-- A field above the lowest part. -/
theorem fld_high {n m : Nat} (x : BitVec n) (y : BitVec m) (k j l : Nat) (h : k = m + j) :
    BitVec.extractLsb' (n := n + m) k l (x ++ y) = x.extractLsb' j l := by
  subst h; ext i hi; simp [BitVec.getLsbD_append, Nat.add_assoc]

/-- The lowest part is a field. -/
theorem fld_low {n m : Nat} (x : BitVec n) (y : BitVec m) : BitVec.extractLsb' (n := n + m) 0 m (x ++ y) = y := by
  ext i hi; simp [BitVec.getLsbD_append, hi]

/-- Two neighbouring fields are one field. -/
theorem fld_join {n : Nat} (w : BitVec n) (k a b j : Nat) (h : j = k + b) :
    (w.extractLsb' j a ++ w.extractLsb' k b : BitVec (a + b)) = w.extractLsb' k (a + b) := by
  subst h
  ext i hi
  simp only [BitVec.getElem_append, BitVec.getElem_extractLsb']
  split
  · rfl
  · rw [Nat.add_assoc, Nat.add_sub_cancel' (by omega)]

/-- A bit is a field of width 1. -/
theorem bit1_flag (w : Word) (n : Nat) : bit1 (flag w n) = w.extractLsb' n 1 := by
  ext i hi
  have : i = 0 := by omega
  subst this
  simp [bit1, flag]

/-- A field of width 1 is a bit. -/
theorem flag_of {w : Word} {n : Nat} {b : Bool} (h : w.extractLsb' n 1 = bit1 b) : flag w n = b := by
  have := congrArg (fun v => BitVec.getLsbD v 0) h
  simpa [bit1, flag] using this

theorem head_opc (g : Guard) (opc : BitVec 10) : (headOf g opc).extractLsb' 0 10 = opc := fld_low _ _
theorem head_gp (g : Guard) (opc : BitVec 10) : (headOf g opc).extractLsb' 10 4 = g.gp :=
  (fld_high _ opc 10 0 4 rfl).trans (fld_low _ _)
theorem head_gs (g : Guard) (opc : BitVec 10) : (headOf g opc).extractLsb' 14 1 = bit1 g.gs :=
  (fld_high _ opc 14 4 1 rfl).trans <| (fld_high _ g.gp 4 0 1 rfl).trans (fld_low _ _)
theorem head_ge (g : Guard) (opc : BitVec 10) : (headOf g opc).extractLsb' 15 1 = bit1 g.ge :=
  (fld_high _ opc 15 5 1 rfl).trans <| (fld_high _ g.gp 5 1 1 rfl).trans <| (fld_high _ (bit1 g.gs) 1 0 1 rfl).trans (by
    ext i hi; simp)

/-- The head of a word from its fields. -/
theorem head_of (w : Word) : headOf (guardOf w) (fld w 48 10) = w.extractLsb' 48 16 := by
  simp only [headOf, guardOf, fld, bit1_flag]
  rw [fld_join w 62 1 1 63 rfl, fld_join w 58 2 4 62 rfl, fld_join w 48 6 10 58 rfl]

/-! ### The formats -/

theorem opcode_ofBase (opc : BitVec 10) (f : BaseF) : fld (ofBase opc f) 48 10 = opc :=
  (fld_high _ f.md 48 36 10 rfl).trans <| (fld_high _ f.bt 36 33 10 rfl).trans <| (fld_high _ (bit1 f.nq) 33 32 10 rfl).trans
    <| (fld_high _ f.c 32 24 10 rfl).trans <| (fld_high _ f.b 24 16 10 rfl).trans <| (fld_high _ f.a 16 8 10 rfl).trans <|
    (fld_high _ f.d 8 0 10 rfl).trans <| head_opc f.guard opc

theorem guardOf_ofBase (opc : BitVec 10) (f : BaseF) : guardOf (ofBase opc f) = f.guard := by
  have h1 : flag (ofBase opc f) 63 = f.guard.ge :=
    flag_of ((fld_high _ f.md 63 51 1 rfl).trans <| (fld_high _ f.bt 51 48 1 rfl).trans <| (fld_high _ (bit1 f.nq) 48 47 1
      rfl).trans <| (fld_high _ f.c 47 39 1 rfl).trans <| (fld_high _ f.b 39 31 1 rfl).trans <| (fld_high _ f.a 31 23 1
      rfl).trans <| (fld_high _ f.d 23 15 1 rfl).trans <| head_ge f.guard opc)
  have h2 : flag (ofBase opc f) 62 = f.guard.gs :=
    flag_of ((fld_high _ f.md 62 50 1 rfl).trans <| (fld_high _ f.bt 50 47 1 rfl).trans <| (fld_high _ (bit1 f.nq) 47 46 1
      rfl).trans <| (fld_high _ f.c 46 38 1 rfl).trans <| (fld_high _ f.b 38 30 1 rfl).trans <| (fld_high _ f.a 30 22 1
      rfl).trans <| (fld_high _ f.d 22 14 1 rfl).trans <| head_gs f.guard opc)
  have h3 : fld (ofBase opc f) 58 4 = f.guard.gp :=
    (fld_high _ f.md 58 46 4 rfl).trans <| (fld_high _ f.bt 46 43 4 rfl).trans <| (fld_high _ (bit1 f.nq) 43 42 4 rfl).trans
      <| (fld_high _ f.c 42 34 4 rfl).trans <| (fld_high _ f.b 34 26 4 rfl).trans <| (fld_high _ f.a 26 18 4 rfl).trans <|
      (fld_high _ f.d 18 10 4 rfl).trans <| head_gp f.guard opc
  simp only [guardOf, h1, h2, h3]

/-- Reading the fields back. -/
theorem baseOf_ofBase (opc : BitVec 10) (f : BaseF) : baseOf (ofBase opc f) = f := by
  have h_d : fld (ofBase opc f) 40 8 = f.d :=
    (fld_high _ f.md 40 28 8 rfl).trans <| (fld_high _ f.bt 28 25 8 rfl).trans <| (fld_high _ (bit1 f.nq) 25 24 8 rfl).trans
      <| (fld_high _ f.c 24 16 8 rfl).trans <| (fld_high _ f.b 16 8 8 rfl).trans <| (fld_high _ f.a 8 0 8 rfl).trans <|
      fld_low _ _
  have h_a : fld (ofBase opc f) 32 8 = f.a :=
    (fld_high _ f.md 32 20 8 rfl).trans <| (fld_high _ f.bt 20 17 8 rfl).trans <| (fld_high _ (bit1 f.nq) 17 16 8 rfl).trans
      <| (fld_high _ f.c 16 8 8 rfl).trans <| (fld_high _ f.b 8 0 8 rfl).trans <| fld_low _ _
  have h_b : fld (ofBase opc f) 24 8 = f.b :=
    (fld_high _ f.md 24 12 8 rfl).trans <| (fld_high _ f.bt 12 9 8 rfl).trans <| (fld_high _ (bit1 f.nq) 9 8 8 rfl).trans <|
      (fld_high _ f.c 8 0 8 rfl).trans <| fld_low _ _
  have h_c : fld (ofBase opc f) 16 8 = f.c :=
    (fld_high _ f.md 16 4 8 rfl).trans <| (fld_high _ f.bt 4 1 8 rfl).trans <| (fld_high _ (bit1 f.nq) 1 0 8 rfl).trans <|
      fld_low _ _
  have h_nq : flag (ofBase opc f) 15 = f.nq :=
    flag_of ((fld_high _ f.md 15 3 1 rfl).trans <| (fld_high _ f.bt 3 0 1 rfl).trans <| fld_low _ _)
  have h_bt : fld (ofBase opc f) 12 3 = f.bt :=
    (fld_high _ f.md 12 0 3 rfl).trans <| fld_low _ _
  have h_md : fld (ofBase opc f) 0 12 = f.md :=
    fld_low _ _
  simp only [baseOf, guardOf_ofBase, h_d, h_a, h_b, h_c, h_nq, h_bt, h_md]

/-- The fields of a word are the word. -/
theorem ofBase_baseOf (w : Word) : ofBase (fld w 48 10) (baseOf w) = w := by
  simp only [ofBase, baseOf, head_of, bit1_flag]
  simp only [fld]
  rw [fld_join w 40 16 8 48 rfl, fld_join w 32 24 8 40 rfl, fld_join w 24 32 8 32 rfl, fld_join w 16 40 8 24 rfl, fld_join w
    15 48 1 16 rfl, fld_join w 12 49 3 15 rfl, fld_join w 0 52 12 12 rfl]
  exact BitVec.extractLsb'_eq_self

theorem opcode_ofImm (opc : BitVec 10) (f : ImmF) : fld (ofImm opc f) 48 10 = opc :=
  (fld_high _ f.imm 48 16 10 rfl).trans <| (fld_high _ f.a 16 8 10 rfl).trans <| (fld_high _ f.d 8 0 10 rfl).trans <|
    head_opc f.guard opc

theorem guardOf_ofImm (opc : BitVec 10) (f : ImmF) : guardOf (ofImm opc f) = f.guard := by
  have h1 : flag (ofImm opc f) 63 = f.guard.ge :=
    flag_of ((fld_high _ f.imm 63 31 1 rfl).trans <| (fld_high _ f.a 31 23 1 rfl).trans <| (fld_high _ f.d 23 15 1 rfl).trans
      <| head_ge f.guard opc)
  have h2 : flag (ofImm opc f) 62 = f.guard.gs :=
    flag_of ((fld_high _ f.imm 62 30 1 rfl).trans <| (fld_high _ f.a 30 22 1 rfl).trans <| (fld_high _ f.d 22 14 1 rfl).trans
      <| head_gs f.guard opc)
  have h3 : fld (ofImm opc f) 58 4 = f.guard.gp :=
    (fld_high _ f.imm 58 26 4 rfl).trans <| (fld_high _ f.a 26 18 4 rfl).trans <| (fld_high _ f.d 18 10 4 rfl).trans <|
      head_gp f.guard opc
  simp only [guardOf, h1, h2, h3]

/-- Reading the fields back. -/
theorem immOf_ofImm (opc : BitVec 10) (f : ImmF) : immOf (ofImm opc f) = f := by
  have h_d : fld (ofImm opc f) 40 8 = f.d :=
    (fld_high _ f.imm 40 8 8 rfl).trans <| (fld_high _ f.a 8 0 8 rfl).trans <| fld_low _ _
  have h_a : fld (ofImm opc f) 32 8 = f.a :=
    (fld_high _ f.imm 32 0 8 rfl).trans <| fld_low _ _
  have h_imm : fld (ofImm opc f) 0 32 = f.imm :=
    fld_low _ _
  simp only [immOf, guardOf_ofImm, h_d, h_a, h_imm]

/-- The fields of a word are the word. -/
theorem ofImm_immOf (w : Word) : ofImm (fld w 48 10) (immOf w) = w := by
  simp only [ofImm, immOf, head_of]
  simp only [fld]
  rw [fld_join w 40 16 8 48 rfl, fld_join w 32 24 8 40 rfl, fld_join w 0 32 32 32 rfl]
  exact BitVec.extractLsb'_eq_self

theorem opcode_ofJump (opc : BitVec 10) (f : JumpF) : fld (ofJump opc f) 48 10 = opc :=
  (fld_high _ f.off 48 16 10 rfl).trans <| (fld_high _ f.a 16 8 10 rfl).trans <| (fld_high _ f.jd 8 0 10 rfl).trans <|
    head_opc f.guard opc

theorem guardOf_ofJump (opc : BitVec 10) (f : JumpF) : guardOf (ofJump opc f) = f.guard := by
  have h1 : flag (ofJump opc f) 63 = f.guard.ge :=
    flag_of ((fld_high _ f.off 63 31 1 rfl).trans <| (fld_high _ f.a 31 23 1 rfl).trans <| (fld_high _ f.jd 23 15 1
      rfl).trans <| head_ge f.guard opc)
  have h2 : flag (ofJump opc f) 62 = f.guard.gs :=
    flag_of ((fld_high _ f.off 62 30 1 rfl).trans <| (fld_high _ f.a 30 22 1 rfl).trans <| (fld_high _ f.jd 22 14 1
      rfl).trans <| head_gs f.guard opc)
  have h3 : fld (ofJump opc f) 58 4 = f.guard.gp :=
    (fld_high _ f.off 58 26 4 rfl).trans <| (fld_high _ f.a 26 18 4 rfl).trans <| (fld_high _ f.jd 18 10 4 rfl).trans <|
      head_gp f.guard opc
  simp only [guardOf, h1, h2, h3]

/-- Reading the fields back. -/
theorem jumpOf_ofJump (opc : BitVec 10) (f : JumpF) : jumpOf (ofJump opc f) = f := by
  have h_jd : fld (ofJump opc f) 40 8 = f.jd :=
    (fld_high _ f.off 40 8 8 rfl).trans <| (fld_high _ f.a 8 0 8 rfl).trans <| fld_low _ _
  have h_a : fld (ofJump opc f) 32 8 = f.a :=
    (fld_high _ f.off 32 0 8 rfl).trans <| fld_low _ _
  have h_off : fld (ofJump opc f) 0 32 = f.off :=
    fld_low _ _
  simp only [jumpOf, guardOf_ofJump, h_jd, h_a, h_off]

/-- The fields of a word are the word. -/
theorem ofJump_jumpOf (w : Word) : ofJump (fld w 48 10) (jumpOf w) = w := by
  simp only [ofJump, jumpOf, head_of]
  simp only [fld]
  rw [fld_join w 40 16 8 48 rfl, fld_join w 32 24 8 40 rfl, fld_join w 0 32 32 32 rfl]
  exact BitVec.extractLsb'_eq_self

theorem opcode_ofMem (opc : BitVec 10) (f : MemF) : fld (ofMem opc f) 48 10 = opc :=
  (fld_high _ f.imm 48 40 10 rfl).trans <| (fld_high _ f.scope 40 38 10 rfl).trans <| (fld_high _ f.ord 38 36 10 rfl).trans
    <| (fld_high _ f.bt 36 33 10 rfl).trans <| (fld_high _ (bit1 f.nq) 33 32 10 rfl).trans <| (fld_high _ (bit1 f.sx) 32 31
    10 rfl).trans <| (fld_high _ f.rh 31 29 10 rfl).trans <| (fld_high _ f.sc 29 27 10 rfl).trans <| (fld_high _ f.sz 27 24
    10 rfl).trans <| (fld_high _ f.b 24 16 10 rfl).trans <| (fld_high _ f.a 16 8 10 rfl).trans <| (fld_high _ f.d 8 0 10
    rfl).trans <| head_opc f.guard opc

theorem guardOf_ofMem (opc : BitVec 10) (f : MemF) : guardOf (ofMem opc f) = f.guard := by
  have h1 : flag (ofMem opc f) 63 = f.guard.ge :=
    flag_of ((fld_high _ f.imm 63 55 1 rfl).trans <| (fld_high _ f.scope 55 53 1 rfl).trans <| (fld_high _ f.ord 53 51 1
      rfl).trans <| (fld_high _ f.bt 51 48 1 rfl).trans <| (fld_high _ (bit1 f.nq) 48 47 1 rfl).trans <| (fld_high _ (bit1
      f.sx) 47 46 1 rfl).trans <| (fld_high _ f.rh 46 44 1 rfl).trans <| (fld_high _ f.sc 44 42 1 rfl).trans <| (fld_high _
      f.sz 42 39 1 rfl).trans <| (fld_high _ f.b 39 31 1 rfl).trans <| (fld_high _ f.a 31 23 1 rfl).trans <| (fld_high _ f.d
      23 15 1 rfl).trans <| head_ge f.guard opc)
  have h2 : flag (ofMem opc f) 62 = f.guard.gs :=
    flag_of ((fld_high _ f.imm 62 54 1 rfl).trans <| (fld_high _ f.scope 54 52 1 rfl).trans <| (fld_high _ f.ord 52 50 1
      rfl).trans <| (fld_high _ f.bt 50 47 1 rfl).trans <| (fld_high _ (bit1 f.nq) 47 46 1 rfl).trans <| (fld_high _ (bit1
      f.sx) 46 45 1 rfl).trans <| (fld_high _ f.rh 45 43 1 rfl).trans <| (fld_high _ f.sc 43 41 1 rfl).trans <| (fld_high _
      f.sz 41 38 1 rfl).trans <| (fld_high _ f.b 38 30 1 rfl).trans <| (fld_high _ f.a 30 22 1 rfl).trans <| (fld_high _ f.d
      22 14 1 rfl).trans <| head_gs f.guard opc)
  have h3 : fld (ofMem opc f) 58 4 = f.guard.gp :=
    (fld_high _ f.imm 58 50 4 rfl).trans <| (fld_high _ f.scope 50 48 4 rfl).trans <| (fld_high _ f.ord 48 46 4 rfl).trans <|
      (fld_high _ f.bt 46 43 4 rfl).trans <| (fld_high _ (bit1 f.nq) 43 42 4 rfl).trans <| (fld_high _ (bit1 f.sx) 42 41 4
      rfl).trans <| (fld_high _ f.rh 41 39 4 rfl).trans <| (fld_high _ f.sc 39 37 4 rfl).trans <| (fld_high _ f.sz 37 34 4
      rfl).trans <| (fld_high _ f.b 34 26 4 rfl).trans <| (fld_high _ f.a 26 18 4 rfl).trans <| (fld_high _ f.d 18 10 4
      rfl).trans <| head_gp f.guard opc
  simp only [guardOf, h1, h2, h3]

/-- Reading the fields back. -/
theorem memOf_ofMem (opc : BitVec 10) (f : MemF) : memOf (ofMem opc f) = f := by
  have h_d : fld (ofMem opc f) 40 8 = f.d :=
    (fld_high _ f.imm 40 32 8 rfl).trans <| (fld_high _ f.scope 32 30 8 rfl).trans <| (fld_high _ f.ord 30 28 8 rfl).trans <|
      (fld_high _ f.bt 28 25 8 rfl).trans <| (fld_high _ (bit1 f.nq) 25 24 8 rfl).trans <| (fld_high _ (bit1 f.sx) 24 23 8
      rfl).trans <| (fld_high _ f.rh 23 21 8 rfl).trans <| (fld_high _ f.sc 21 19 8 rfl).trans <| (fld_high _ f.sz 19 16 8
      rfl).trans <| (fld_high _ f.b 16 8 8 rfl).trans <| (fld_high _ f.a 8 0 8 rfl).trans <| fld_low _ _
  have h_a : fld (ofMem opc f) 32 8 = f.a :=
    (fld_high _ f.imm 32 24 8 rfl).trans <| (fld_high _ f.scope 24 22 8 rfl).trans <| (fld_high _ f.ord 22 20 8 rfl).trans <|
      (fld_high _ f.bt 20 17 8 rfl).trans <| (fld_high _ (bit1 f.nq) 17 16 8 rfl).trans <| (fld_high _ (bit1 f.sx) 16 15 8
      rfl).trans <| (fld_high _ f.rh 15 13 8 rfl).trans <| (fld_high _ f.sc 13 11 8 rfl).trans <| (fld_high _ f.sz 11 8 8
      rfl).trans <| (fld_high _ f.b 8 0 8 rfl).trans <| fld_low _ _
  have h_b : fld (ofMem opc f) 24 8 = f.b :=
    (fld_high _ f.imm 24 16 8 rfl).trans <| (fld_high _ f.scope 16 14 8 rfl).trans <| (fld_high _ f.ord 14 12 8 rfl).trans <|
      (fld_high _ f.bt 12 9 8 rfl).trans <| (fld_high _ (bit1 f.nq) 9 8 8 rfl).trans <| (fld_high _ (bit1 f.sx) 8 7 8
      rfl).trans <| (fld_high _ f.rh 7 5 8 rfl).trans <| (fld_high _ f.sc 5 3 8 rfl).trans <| (fld_high _ f.sz 3 0 8
      rfl).trans <| fld_low _ _
  have h_sz : fld (ofMem opc f) 21 3 = f.sz :=
    (fld_high _ f.imm 21 13 3 rfl).trans <| (fld_high _ f.scope 13 11 3 rfl).trans <| (fld_high _ f.ord 11 9 3 rfl).trans <|
      (fld_high _ f.bt 9 6 3 rfl).trans <| (fld_high _ (bit1 f.nq) 6 5 3 rfl).trans <| (fld_high _ (bit1 f.sx) 5 4 3
      rfl).trans <| (fld_high _ f.rh 4 2 3 rfl).trans <| (fld_high _ f.sc 2 0 3 rfl).trans <| fld_low _ _
  have h_sc : fld (ofMem opc f) 19 2 = f.sc :=
    (fld_high _ f.imm 19 11 2 rfl).trans <| (fld_high _ f.scope 11 9 2 rfl).trans <| (fld_high _ f.ord 9 7 2 rfl).trans <|
      (fld_high _ f.bt 7 4 2 rfl).trans <| (fld_high _ (bit1 f.nq) 4 3 2 rfl).trans <| (fld_high _ (bit1 f.sx) 3 2 2
      rfl).trans <| (fld_high _ f.rh 2 0 2 rfl).trans <| fld_low _ _
  have h_rh : fld (ofMem opc f) 17 2 = f.rh :=
    (fld_high _ f.imm 17 9 2 rfl).trans <| (fld_high _ f.scope 9 7 2 rfl).trans <| (fld_high _ f.ord 7 5 2 rfl).trans <|
      (fld_high _ f.bt 5 2 2 rfl).trans <| (fld_high _ (bit1 f.nq) 2 1 2 rfl).trans <| (fld_high _ (bit1 f.sx) 1 0 2
      rfl).trans <| fld_low _ _
  have h_sx : flag (ofMem opc f) 16 = f.sx :=
    flag_of ((fld_high _ f.imm 16 8 1 rfl).trans <| (fld_high _ f.scope 8 6 1 rfl).trans <| (fld_high _ f.ord 6 4 1
      rfl).trans <| (fld_high _ f.bt 4 1 1 rfl).trans <| (fld_high _ (bit1 f.nq) 1 0 1 rfl).trans <| fld_low _ _)
  have h_nq : flag (ofMem opc f) 15 = f.nq :=
    flag_of ((fld_high _ f.imm 15 7 1 rfl).trans <| (fld_high _ f.scope 7 5 1 rfl).trans <| (fld_high _ f.ord 5 3 1
      rfl).trans <| (fld_high _ f.bt 3 0 1 rfl).trans <| fld_low _ _)
  have h_bt : fld (ofMem opc f) 12 3 = f.bt :=
    (fld_high _ f.imm 12 4 3 rfl).trans <| (fld_high _ f.scope 4 2 3 rfl).trans <| (fld_high _ f.ord 2 0 3 rfl).trans <|
      fld_low _ _
  have h_ord : fld (ofMem opc f) 10 2 = f.ord :=
    (fld_high _ f.imm 10 2 2 rfl).trans <| (fld_high _ f.scope 2 0 2 rfl).trans <| fld_low _ _
  have h_scope : fld (ofMem opc f) 8 2 = f.scope :=
    (fld_high _ f.imm 8 0 2 rfl).trans <| fld_low _ _
  have h_imm : fld (ofMem opc f) 0 8 = f.imm :=
    fld_low _ _
  simp only [memOf, guardOf_ofMem, h_d, h_a, h_b, h_sz, h_sc, h_rh, h_sx, h_nq, h_bt, h_ord, h_scope, h_imm]

/-- The fields of a word are the word. -/
theorem ofMem_memOf (w : Word) : ofMem (fld w 48 10) (memOf w) = w := by
  simp only [ofMem, memOf, head_of, bit1_flag]
  simp only [fld]
  rw [fld_join w 40 16 8 48 rfl, fld_join w 32 24 8 40 rfl, fld_join w 24 32 8 32 rfl, fld_join w 21 40 3 24 rfl, fld_join w
    19 43 2 21 rfl, fld_join w 17 45 2 19 rfl, fld_join w 16 47 1 17 rfl, fld_join w 15 48 1 16 rfl, fld_join w 12 49 3 15
    rfl, fld_join w 10 52 2 12 rfl, fld_join w 8 54 2 10 rfl, fld_join w 0 56 8 8 rfl]
  exact BitVec.extractLsb'_eq_self

theorem opcode_ofMx (opc : BitVec 10) (f : MxF) : fld (ofMx opc f) 48 10 = opc :=
  (fld_high _ f.md 48 36 10 rfl).trans <| (fld_high _ (bit1 f.r12) 36 35 10 rfl).trans <| (fld_high _ f.bt 35 33 10
    rfl).trans <| (fld_high _ (bit1 f.r15) 33 32 10 rfl).trans <| (fld_high _ f.ci 32 29 10 rfl).trans <| (fld_high _ (bit1
    f.cv) 29 28 10 rfl).trans <| (fld_high _ f.lr 28 24 10 rfl).trans <| (fld_high _ f.sb 24 16 10 rfl).trans <| (fld_high _
    f.a 16 8 10 rfl).trans <| (fld_high _ f.td 8 0 10 rfl).trans <| head_opc f.guard opc

theorem guardOf_ofMx (opc : BitVec 10) (f : MxF) : guardOf (ofMx opc f) = f.guard := by
  have h1 : flag (ofMx opc f) 63 = f.guard.ge :=
    flag_of ((fld_high _ f.md 63 51 1 rfl).trans <| (fld_high _ (bit1 f.r12) 51 50 1 rfl).trans <| (fld_high _ f.bt 50 48 1
      rfl).trans <| (fld_high _ (bit1 f.r15) 48 47 1 rfl).trans <| (fld_high _ f.ci 47 44 1 rfl).trans <| (fld_high _ (bit1
      f.cv) 44 43 1 rfl).trans <| (fld_high _ f.lr 43 39 1 rfl).trans <| (fld_high _ f.sb 39 31 1 rfl).trans <| (fld_high _
      f.a 31 23 1 rfl).trans <| (fld_high _ f.td 23 15 1 rfl).trans <| head_ge f.guard opc)
  have h2 : flag (ofMx opc f) 62 = f.guard.gs :=
    flag_of ((fld_high _ f.md 62 50 1 rfl).trans <| (fld_high _ (bit1 f.r12) 50 49 1 rfl).trans <| (fld_high _ f.bt 49 47 1
      rfl).trans <| (fld_high _ (bit1 f.r15) 47 46 1 rfl).trans <| (fld_high _ f.ci 46 43 1 rfl).trans <| (fld_high _ (bit1
      f.cv) 43 42 1 rfl).trans <| (fld_high _ f.lr 42 38 1 rfl).trans <| (fld_high _ f.sb 38 30 1 rfl).trans <| (fld_high _
      f.a 30 22 1 rfl).trans <| (fld_high _ f.td 22 14 1 rfl).trans <| head_gs f.guard opc)
  have h3 : fld (ofMx opc f) 58 4 = f.guard.gp :=
    (fld_high _ f.md 58 46 4 rfl).trans <| (fld_high _ (bit1 f.r12) 46 45 4 rfl).trans <| (fld_high _ f.bt 45 43 4 rfl).trans
      <| (fld_high _ (bit1 f.r15) 43 42 4 rfl).trans <| (fld_high _ f.ci 42 39 4 rfl).trans <| (fld_high _ (bit1 f.cv) 39 38
      4 rfl).trans <| (fld_high _ f.lr 38 34 4 rfl).trans <| (fld_high _ f.sb 34 26 4 rfl).trans <| (fld_high _ f.a 26 18 4
      rfl).trans <| (fld_high _ f.td 18 10 4 rfl).trans <| head_gp f.guard opc
  simp only [guardOf, h1, h2, h3]

/-- Reading the fields back. -/
theorem mxOf_ofMx (opc : BitVec 10) (f : MxF) : mxOf (ofMx opc f) = f := by
  have h_td : fld (ofMx opc f) 40 8 = f.td :=
    (fld_high _ f.md 40 28 8 rfl).trans <| (fld_high _ (bit1 f.r12) 28 27 8 rfl).trans <| (fld_high _ f.bt 27 25 8 rfl).trans
      <| (fld_high _ (bit1 f.r15) 25 24 8 rfl).trans <| (fld_high _ f.ci 24 21 8 rfl).trans <| (fld_high _ (bit1 f.cv) 21 20
      8 rfl).trans <| (fld_high _ f.lr 20 16 8 rfl).trans <| (fld_high _ f.sb 16 8 8 rfl).trans <| (fld_high _ f.a 8 0 8
      rfl).trans <| fld_low _ _
  have h_a : fld (ofMx opc f) 32 8 = f.a :=
    (fld_high _ f.md 32 20 8 rfl).trans <| (fld_high _ (bit1 f.r12) 20 19 8 rfl).trans <| (fld_high _ f.bt 19 17 8 rfl).trans
      <| (fld_high _ (bit1 f.r15) 17 16 8 rfl).trans <| (fld_high _ f.ci 16 13 8 rfl).trans <| (fld_high _ (bit1 f.cv) 13 12
      8 rfl).trans <| (fld_high _ f.lr 12 8 8 rfl).trans <| (fld_high _ f.sb 8 0 8 rfl).trans <| fld_low _ _
  have h_sb : fld (ofMx opc f) 24 8 = f.sb :=
    (fld_high _ f.md 24 12 8 rfl).trans <| (fld_high _ (bit1 f.r12) 12 11 8 rfl).trans <| (fld_high _ f.bt 11 9 8 rfl).trans
      <| (fld_high _ (bit1 f.r15) 9 8 8 rfl).trans <| (fld_high _ f.ci 8 5 8 rfl).trans <| (fld_high _ (bit1 f.cv) 5 4 8
      rfl).trans <| (fld_high _ f.lr 4 0 8 rfl).trans <| fld_low _ _
  have h_lr : fld (ofMx opc f) 20 4 = f.lr :=
    (fld_high _ f.md 20 8 4 rfl).trans <| (fld_high _ (bit1 f.r12) 8 7 4 rfl).trans <| (fld_high _ f.bt 7 5 4 rfl).trans <|
      (fld_high _ (bit1 f.r15) 5 4 4 rfl).trans <| (fld_high _ f.ci 4 1 4 rfl).trans <| (fld_high _ (bit1 f.cv) 1 0 4
      rfl).trans <| fld_low _ _
  have h_cv : flag (ofMx opc f) 19 = f.cv :=
    flag_of ((fld_high _ f.md 19 7 1 rfl).trans <| (fld_high _ (bit1 f.r12) 7 6 1 rfl).trans <| (fld_high _ f.bt 6 4 1
      rfl).trans <| (fld_high _ (bit1 f.r15) 4 3 1 rfl).trans <| (fld_high _ f.ci 3 0 1 rfl).trans <| fld_low _ _)
  have h_ci : fld (ofMx opc f) 16 3 = f.ci :=
    (fld_high _ f.md 16 4 3 rfl).trans <| (fld_high _ (bit1 f.r12) 4 3 3 rfl).trans <| (fld_high _ f.bt 3 1 3 rfl).trans <|
      (fld_high _ (bit1 f.r15) 1 0 3 rfl).trans <| fld_low _ _
  have h_r15 : flag (ofMx opc f) 15 = f.r15 :=
    flag_of ((fld_high _ f.md 15 3 1 rfl).trans <| (fld_high _ (bit1 f.r12) 3 2 1 rfl).trans <| (fld_high _ f.bt 2 0 1
      rfl).trans <| fld_low _ _)
  have h_bt : fld (ofMx opc f) 13 2 = f.bt :=
    (fld_high _ f.md 13 1 2 rfl).trans <| (fld_high _ (bit1 f.r12) 1 0 2 rfl).trans <| fld_low _ _
  have h_r12 : flag (ofMx opc f) 12 = f.r12 :=
    flag_of ((fld_high _ f.md 12 0 1 rfl).trans <| fld_low _ _)
  have h_md : fld (ofMx opc f) 0 12 = f.md :=
    fld_low _ _
  simp only [mxOf, guardOf_ofMx, h_td, h_a, h_sb, h_lr, h_cv, h_ci, h_r15, h_bt, h_r12, h_md]

/-- The fields of a word are the word. -/
theorem ofMx_mxOf (w : Word) : ofMx (fld w 48 10) (mxOf w) = w := by
  simp only [ofMx, mxOf, head_of, bit1_flag]
  simp only [fld]
  rw [fld_join w 40 16 8 48 rfl, fld_join w 32 24 8 40 rfl, fld_join w 24 32 8 32 rfl, fld_join w 20 40 4 24 rfl, fld_join w
    19 44 1 20 rfl, fld_join w 16 45 3 19 rfl, fld_join w 15 48 1 16 rfl, fld_join w 13 49 2 15 rfl, fld_join w 12 51 1 13
    rfl, fld_join w 0 52 12 12 rfl]
  exact BitVec.extractLsb'_eq_self

theorem opcode_ofSh (opc : BitVec 10) (f : ShF) : fld (ofSh opc f) 48 10 = opc :=
  (fld_high _ f.ci 48 45 10 rfl).trans <| (fld_high _ (bit1 f.cv) 45 44 10 rfl).trans <| (fld_high _ f.lb 44 40 10 rfl).trans
    <| (fld_high _ f.la 40 36 10 rfl).trans <| (fld_high _ f.bt 36 33 10 rfl).trans <| (fld_high _ (bit1 f.k) 33 32 10
    rfl).trans <| (fld_high _ f.c 32 24 10 rfl).trans <| (fld_high _ f.b 24 16 10 rfl).trans <| (fld_high _ f.a 16 8 10
    rfl).trans <| (fld_high _ f.d 8 0 10 rfl).trans <| head_opc f.guard opc

theorem guardOf_ofSh (opc : BitVec 10) (f : ShF) : guardOf (ofSh opc f) = f.guard := by
  have h1 : flag (ofSh opc f) 63 = f.guard.ge :=
    flag_of ((fld_high _ f.ci 63 60 1 rfl).trans <| (fld_high _ (bit1 f.cv) 60 59 1 rfl).trans <| (fld_high _ f.lb 59 55 1
      rfl).trans <| (fld_high _ f.la 55 51 1 rfl).trans <| (fld_high _ f.bt 51 48 1 rfl).trans <| (fld_high _ (bit1 f.k) 48
      47 1 rfl).trans <| (fld_high _ f.c 47 39 1 rfl).trans <| (fld_high _ f.b 39 31 1 rfl).trans <| (fld_high _ f.a 31 23 1
      rfl).trans <| (fld_high _ f.d 23 15 1 rfl).trans <| head_ge f.guard opc)
  have h2 : flag (ofSh opc f) 62 = f.guard.gs :=
    flag_of ((fld_high _ f.ci 62 59 1 rfl).trans <| (fld_high _ (bit1 f.cv) 59 58 1 rfl).trans <| (fld_high _ f.lb 58 54 1
      rfl).trans <| (fld_high _ f.la 54 50 1 rfl).trans <| (fld_high _ f.bt 50 47 1 rfl).trans <| (fld_high _ (bit1 f.k) 47
      46 1 rfl).trans <| (fld_high _ f.c 46 38 1 rfl).trans <| (fld_high _ f.b 38 30 1 rfl).trans <| (fld_high _ f.a 30 22 1
      rfl).trans <| (fld_high _ f.d 22 14 1 rfl).trans <| head_gs f.guard opc)
  have h3 : fld (ofSh opc f) 58 4 = f.guard.gp :=
    (fld_high _ f.ci 58 55 4 rfl).trans <| (fld_high _ (bit1 f.cv) 55 54 4 rfl).trans <| (fld_high _ f.lb 54 50 4 rfl).trans
      <| (fld_high _ f.la 50 46 4 rfl).trans <| (fld_high _ f.bt 46 43 4 rfl).trans <| (fld_high _ (bit1 f.k) 43 42 4
      rfl).trans <| (fld_high _ f.c 42 34 4 rfl).trans <| (fld_high _ f.b 34 26 4 rfl).trans <| (fld_high _ f.a 26 18 4
      rfl).trans <| (fld_high _ f.d 18 10 4 rfl).trans <| head_gp f.guard opc
  simp only [guardOf, h1, h2, h3]

/-- Reading the fields back. -/
theorem shOf_ofSh (opc : BitVec 10) (f : ShF) : shOf (ofSh opc f) = f := by
  have h_d : fld (ofSh opc f) 40 8 = f.d :=
    (fld_high _ f.ci 40 37 8 rfl).trans <| (fld_high _ (bit1 f.cv) 37 36 8 rfl).trans <| (fld_high _ f.lb 36 32 8 rfl).trans
      <| (fld_high _ f.la 32 28 8 rfl).trans <| (fld_high _ f.bt 28 25 8 rfl).trans <| (fld_high _ (bit1 f.k) 25 24 8
      rfl).trans <| (fld_high _ f.c 24 16 8 rfl).trans <| (fld_high _ f.b 16 8 8 rfl).trans <| (fld_high _ f.a 8 0 8
      rfl).trans <| fld_low _ _
  have h_a : fld (ofSh opc f) 32 8 = f.a :=
    (fld_high _ f.ci 32 29 8 rfl).trans <| (fld_high _ (bit1 f.cv) 29 28 8 rfl).trans <| (fld_high _ f.lb 28 24 8 rfl).trans
      <| (fld_high _ f.la 24 20 8 rfl).trans <| (fld_high _ f.bt 20 17 8 rfl).trans <| (fld_high _ (bit1 f.k) 17 16 8
      rfl).trans <| (fld_high _ f.c 16 8 8 rfl).trans <| (fld_high _ f.b 8 0 8 rfl).trans <| fld_low _ _
  have h_b : fld (ofSh opc f) 24 8 = f.b :=
    (fld_high _ f.ci 24 21 8 rfl).trans <| (fld_high _ (bit1 f.cv) 21 20 8 rfl).trans <| (fld_high _ f.lb 20 16 8 rfl).trans
      <| (fld_high _ f.la 16 12 8 rfl).trans <| (fld_high _ f.bt 12 9 8 rfl).trans <| (fld_high _ (bit1 f.k) 9 8 8 rfl).trans
      <| (fld_high _ f.c 8 0 8 rfl).trans <| fld_low _ _
  have h_c : fld (ofSh opc f) 16 8 = f.c :=
    (fld_high _ f.ci 16 13 8 rfl).trans <| (fld_high _ (bit1 f.cv) 13 12 8 rfl).trans <| (fld_high _ f.lb 12 8 8 rfl).trans
      <| (fld_high _ f.la 8 4 8 rfl).trans <| (fld_high _ f.bt 4 1 8 rfl).trans <| (fld_high _ (bit1 f.k) 1 0 8 rfl).trans <|
      fld_low _ _
  have h_k : flag (ofSh opc f) 15 = f.k :=
    flag_of ((fld_high _ f.ci 15 12 1 rfl).trans <| (fld_high _ (bit1 f.cv) 12 11 1 rfl).trans <| (fld_high _ f.lb 11 7 1
      rfl).trans <| (fld_high _ f.la 7 3 1 rfl).trans <| (fld_high _ f.bt 3 0 1 rfl).trans <| fld_low _ _)
  have h_bt : fld (ofSh opc f) 12 3 = f.bt :=
    (fld_high _ f.ci 12 9 3 rfl).trans <| (fld_high _ (bit1 f.cv) 9 8 3 rfl).trans <| (fld_high _ f.lb 8 4 3 rfl).trans <|
      (fld_high _ f.la 4 0 3 rfl).trans <| fld_low _ _
  have h_la : fld (ofSh opc f) 8 4 = f.la :=
    (fld_high _ f.ci 8 5 4 rfl).trans <| (fld_high _ (bit1 f.cv) 5 4 4 rfl).trans <| (fld_high _ f.lb 4 0 4 rfl).trans <|
      fld_low _ _
  have h_lb : fld (ofSh opc f) 4 4 = f.lb :=
    (fld_high _ f.ci 4 1 4 rfl).trans <| (fld_high _ (bit1 f.cv) 1 0 4 rfl).trans <| fld_low _ _
  have h_cv : flag (ofSh opc f) 3 = f.cv :=
    flag_of ((fld_high _ f.ci 3 0 1 rfl).trans <| fld_low _ _)
  have h_ci : fld (ofSh opc f) 0 3 = f.ci :=
    fld_low _ _
  simp only [shOf, guardOf_ofSh, h_d, h_a, h_b, h_c, h_k, h_bt, h_la, h_lb, h_cv, h_ci]

/-- The fields of a word are the word. -/
theorem ofSh_shOf (w : Word) : ofSh (fld w 48 10) (shOf w) = w := by
  simp only [ofSh, shOf, head_of, bit1_flag]
  simp only [fld]
  rw [fld_join w 40 16 8 48 rfl, fld_join w 32 24 8 40 rfl, fld_join w 24 32 8 32 rfl, fld_join w 16 40 8 24 rfl, fld_join w
    15 48 1 16 rfl, fld_join w 12 49 3 15 rfl, fld_join w 8 52 4 12 rfl, fld_join w 4 56 4 8 rfl, fld_join w 3 60 1 4 rfl,
    fld_join w 0 61 3 3 rfl]
  exact BitVec.extractLsb'_eq_self

theorem opcode_ofSy (opc : BitVec 10) (f : SyF) : fld (ofSy opc f) 48 10 = opc :=
  (fld_high _ f.sub 48 44 10 rfl).trans <| (fld_high _ f.ci 44 41 10 rfl).trans <| (fld_high _ (bit1 f.cv) 41 40 10
    rfl).trans <| (fld_high _ f.scope 40 38 10 rfl).trans <| (fld_high _ f.ord 38 36 10 rfl).trans <| (fld_high _ f.bt 36 33
    10 rfl).trans <| (fld_high _ (bit1 f.nq) 33 32 10 rfl).trans <| (fld_high _ f.c 32 24 10 rfl).trans <| (fld_high _ f.b 24
    16 10 rfl).trans <| (fld_high _ f.a 16 8 10 rfl).trans <| (fld_high _ f.d 8 0 10 rfl).trans <| head_opc f.guard opc

theorem guardOf_ofSy (opc : BitVec 10) (f : SyF) : guardOf (ofSy opc f) = f.guard := by
  have h1 : flag (ofSy opc f) 63 = f.guard.ge :=
    flag_of ((fld_high _ f.sub 63 59 1 rfl).trans <| (fld_high _ f.ci 59 56 1 rfl).trans <| (fld_high _ (bit1 f.cv) 56 55 1
      rfl).trans <| (fld_high _ f.scope 55 53 1 rfl).trans <| (fld_high _ f.ord 53 51 1 rfl).trans <| (fld_high _ f.bt 51 48
      1 rfl).trans <| (fld_high _ (bit1 f.nq) 48 47 1 rfl).trans <| (fld_high _ f.c 47 39 1 rfl).trans <| (fld_high _ f.b 39
      31 1 rfl).trans <| (fld_high _ f.a 31 23 1 rfl).trans <| (fld_high _ f.d 23 15 1 rfl).trans <| head_ge f.guard opc)
  have h2 : flag (ofSy opc f) 62 = f.guard.gs :=
    flag_of ((fld_high _ f.sub 62 58 1 rfl).trans <| (fld_high _ f.ci 58 55 1 rfl).trans <| (fld_high _ (bit1 f.cv) 55 54 1
      rfl).trans <| (fld_high _ f.scope 54 52 1 rfl).trans <| (fld_high _ f.ord 52 50 1 rfl).trans <| (fld_high _ f.bt 50 47
      1 rfl).trans <| (fld_high _ (bit1 f.nq) 47 46 1 rfl).trans <| (fld_high _ f.c 46 38 1 rfl).trans <| (fld_high _ f.b 38
      30 1 rfl).trans <| (fld_high _ f.a 30 22 1 rfl).trans <| (fld_high _ f.d 22 14 1 rfl).trans <| head_gs f.guard opc)
  have h3 : fld (ofSy opc f) 58 4 = f.guard.gp :=
    (fld_high _ f.sub 58 54 4 rfl).trans <| (fld_high _ f.ci 54 51 4 rfl).trans <| (fld_high _ (bit1 f.cv) 51 50 4 rfl).trans
      <| (fld_high _ f.scope 50 48 4 rfl).trans <| (fld_high _ f.ord 48 46 4 rfl).trans <| (fld_high _ f.bt 46 43 4
      rfl).trans <| (fld_high _ (bit1 f.nq) 43 42 4 rfl).trans <| (fld_high _ f.c 42 34 4 rfl).trans <| (fld_high _ f.b 34 26
      4 rfl).trans <| (fld_high _ f.a 26 18 4 rfl).trans <| (fld_high _ f.d 18 10 4 rfl).trans <| head_gp f.guard opc
  simp only [guardOf, h1, h2, h3]

/-- Reading the fields back. -/
theorem syOf_ofSy (opc : BitVec 10) (f : SyF) : syOf (ofSy opc f) = f := by
  have h_d : fld (ofSy opc f) 40 8 = f.d :=
    (fld_high _ f.sub 40 36 8 rfl).trans <| (fld_high _ f.ci 36 33 8 rfl).trans <| (fld_high _ (bit1 f.cv) 33 32 8 rfl).trans
      <| (fld_high _ f.scope 32 30 8 rfl).trans <| (fld_high _ f.ord 30 28 8 rfl).trans <| (fld_high _ f.bt 28 25 8
      rfl).trans <| (fld_high _ (bit1 f.nq) 25 24 8 rfl).trans <| (fld_high _ f.c 24 16 8 rfl).trans <| (fld_high _ f.b 16 8
      8 rfl).trans <| (fld_high _ f.a 8 0 8 rfl).trans <| fld_low _ _
  have h_a : fld (ofSy opc f) 32 8 = f.a :=
    (fld_high _ f.sub 32 28 8 rfl).trans <| (fld_high _ f.ci 28 25 8 rfl).trans <| (fld_high _ (bit1 f.cv) 25 24 8 rfl).trans
      <| (fld_high _ f.scope 24 22 8 rfl).trans <| (fld_high _ f.ord 22 20 8 rfl).trans <| (fld_high _ f.bt 20 17 8
      rfl).trans <| (fld_high _ (bit1 f.nq) 17 16 8 rfl).trans <| (fld_high _ f.c 16 8 8 rfl).trans <| (fld_high _ f.b 8 0 8
      rfl).trans <| fld_low _ _
  have h_b : fld (ofSy opc f) 24 8 = f.b :=
    (fld_high _ f.sub 24 20 8 rfl).trans <| (fld_high _ f.ci 20 17 8 rfl).trans <| (fld_high _ (bit1 f.cv) 17 16 8 rfl).trans
      <| (fld_high _ f.scope 16 14 8 rfl).trans <| (fld_high _ f.ord 14 12 8 rfl).trans <| (fld_high _ f.bt 12 9 8 rfl).trans
      <| (fld_high _ (bit1 f.nq) 9 8 8 rfl).trans <| (fld_high _ f.c 8 0 8 rfl).trans <| fld_low _ _
  have h_c : fld (ofSy opc f) 16 8 = f.c :=
    (fld_high _ f.sub 16 12 8 rfl).trans <| (fld_high _ f.ci 12 9 8 rfl).trans <| (fld_high _ (bit1 f.cv) 9 8 8 rfl).trans <|
      (fld_high _ f.scope 8 6 8 rfl).trans <| (fld_high _ f.ord 6 4 8 rfl).trans <| (fld_high _ f.bt 4 1 8 rfl).trans <|
      (fld_high _ (bit1 f.nq) 1 0 8 rfl).trans <| fld_low _ _
  have h_nq : flag (ofSy opc f) 15 = f.nq :=
    flag_of ((fld_high _ f.sub 15 11 1 rfl).trans <| (fld_high _ f.ci 11 8 1 rfl).trans <| (fld_high _ (bit1 f.cv) 8 7 1
      rfl).trans <| (fld_high _ f.scope 7 5 1 rfl).trans <| (fld_high _ f.ord 5 3 1 rfl).trans <| (fld_high _ f.bt 3 0 1
      rfl).trans <| fld_low _ _)
  have h_bt : fld (ofSy opc f) 12 3 = f.bt :=
    (fld_high _ f.sub 12 8 3 rfl).trans <| (fld_high _ f.ci 8 5 3 rfl).trans <| (fld_high _ (bit1 f.cv) 5 4 3 rfl).trans <|
      (fld_high _ f.scope 4 2 3 rfl).trans <| (fld_high _ f.ord 2 0 3 rfl).trans <| fld_low _ _
  have h_ord : fld (ofSy opc f) 10 2 = f.ord :=
    (fld_high _ f.sub 10 6 2 rfl).trans <| (fld_high _ f.ci 6 3 2 rfl).trans <| (fld_high _ (bit1 f.cv) 3 2 2 rfl).trans <|
      (fld_high _ f.scope 2 0 2 rfl).trans <| fld_low _ _
  have h_scope : fld (ofSy opc f) 8 2 = f.scope :=
    (fld_high _ f.sub 8 4 2 rfl).trans <| (fld_high _ f.ci 4 1 2 rfl).trans <| (fld_high _ (bit1 f.cv) 1 0 2 rfl).trans <|
      fld_low _ _
  have h_cv : flag (ofSy opc f) 7 = f.cv :=
    flag_of ((fld_high _ f.sub 7 3 1 rfl).trans <| (fld_high _ f.ci 3 0 1 rfl).trans <| fld_low _ _)
  have h_ci : fld (ofSy opc f) 4 3 = f.ci :=
    (fld_high _ f.sub 4 0 3 rfl).trans <| fld_low _ _
  have h_sub : fld (ofSy opc f) 0 4 = f.sub :=
    fld_low _ _
  simp only [syOf, guardOf_ofSy, h_d, h_a, h_b, h_c, h_nq, h_bt, h_ord, h_scope, h_cv, h_ci, h_sub]

/-- The fields of a word are the word. -/
theorem ofSy_syOf (w : Word) : ofSy (fld w 48 10) (syOf w) = w := by
  simp only [ofSy, syOf, head_of, bit1_flag]
  simp only [fld]
  rw [fld_join w 40 16 8 48 rfl, fld_join w 32 24 8 40 rfl, fld_join w 24 32 8 32 rfl, fld_join w 16 40 8 24 rfl, fld_join w
    15 48 1 16 rfl, fld_join w 12 49 3 15 rfl, fld_join w 10 52 2 12 rfl, fld_join w 8 54 2 10 rfl, fld_join w 7 56 1 8 rfl,
    fld_join w 4 57 3 7 rfl, fld_join w 0 60 4 4 rfl]
  exact BitVec.extractLsb'_eq_self

end Sys2Proof.Laws
end

