-- ==== Sys2Proof/Laws/Memory.lean ====
section
/-! SUPPORT. Laws of memory: every operation keeps its canonical form, and reads after writes. -/

namespace Sys2Proof.Machine

/-- The six parts of the canonical form. -/
theorem Memory.wf_iff (m : Mem) : Memory.wf m = true ↔
    tabWf 0 m.bytes = true ∧ tabWf false m.tags = true ∧ tabWf (0x00, 0x7F) m.blk = true ∧ tabWf false m.ltp = true
      ∧ tabWf false m.ptp = true ∧ tabWf 0 m.dir = true := by
  simp [Memory.wf, and_assoc]

theorem Memory.wf_empty : Memory.wf {} = true := rfl

/-- Reset memory lists nothing. -/
theorem Memory.wf_reset : Memory.wf State.reset.hbm = true := rfl

theorem tabWf_putBytes (bs : List Byte) : ∀ {m : List Host.Cell} (a : Nat), tabWf 0 m = true →
    tabWf 0 (putBytes m a bs) = true := by
  induction bs with
  | nil => exact fun a h => h
  | cons b r ih => exact fun a h => ih (a + 1) (tabWf_tput a b h)

theorem tabWf_foldl {β γ : Type} [DecidableEq β] {d : β} (f : Tab β → γ → Tab β)
    (hf : ∀ t x, tabWf d t = true → tabWf d (f t x) = true) (l : List γ) :
    ∀ {t : Tab β}, tabWf d t = true → tabWf d (l.foldl f t) = true := by
  induction l with
  | nil => exact fun h => h
  | cons x r ih => exact fun h => ih (hf _ x h)

theorem Memory.wf_foldl {γ : Type} (f : Mem → γ → Mem) (hf : ∀ m x, Memory.wf m = true → Memory.wf (f m x) = true)
    (l : List γ) : ∀ {m : Mem}, Memory.wf m = true → Memory.wf (l.foldl f m) = true := by
  induction l with
  | nil => exact fun h => h
  | cons x r ih => exact fun h => ih (hf _ x h)

theorem Memory.wf_settleLtp {m : Mem} (l : Nat) (h : Memory.wf m = true) : Memory.wf (m.settleLtp l) = true := by
  unfold Mem.settleLtp
  split
  · exact h
  · rw [Memory.wf_iff] at h ⊢
    exact ⟨h.1, h.2.1, h.2.2.1, tabWf_tput l false h.2.2.2.1, h.2.2.2.2⟩

theorem Memory.wf_write {m : Mem} (a : Nat) (bs : List Byte) (h : Memory.wf m = true) :
    Memory.wf (m.write a bs) = true := by
  refine Memory.wf_foldl _ (fun m l h => Memory.wf_settleLtp l h) _ ?_
  rw [Memory.wf_iff] at h ⊢
  exact ⟨tabWf_putBytes bs a h.1, tabWf_foldl _ (fun t w ht => tabWf_tput w false ht) _ h.2.1, h.2.2⟩

theorem Memory.wf_setTag {m : Mem} (w : Nat) (b : Bool) (h : Memory.wf m = true) :
    Memory.wf (m.setTag w b) = true := by
  have h1 : Memory.wf { m with tags := tput m.tags w b false } = true := by
    rw [Memory.wf_iff] at h ⊢
    exact ⟨h.1, tabWf_tput w b h.2.1, h.2.2⟩
  unfold Mem.setTag
  split
  · rw [Memory.wf_iff] at h1 ⊢
    exact ⟨h1.1, h1.2.1, h1.2.2.1, tabWf_tput _ true h1.2.2.2.1, tabWf_tput _ true h1.2.2.2.2.1, h1.2.2.2.2.2⟩
  · exact Memory.wf_settleLtp _ h1

theorem Memory.wf_writeWord {m : Mem} (a : Nat) (v : Val) (h : Memory.wf m = true) :
    Memory.wf (m.writeWord a v) = true :=
  Memory.wf_setTag _ _ (Memory.wf_write _ _ h)

theorem Memory.wf_setMeta {m : Mem} (b : Nat) (v : Byte × Byte) (h : Memory.wf m = true) :
    Memory.wf (m.setMeta b v) = true := by
  rw [Memory.wf_iff] at h ⊢
  exact ⟨h.1, h.2.1, tabWf_tput b v h.2.2.1, h.2.2.2⟩

theorem Memory.wf_setDir {m : Mem} (l : Nat) (v : BitVec 2) (h : Memory.wf m = true) :
    Memory.wf (m.setDir l v) = true := by
  rw [Memory.wf_iff] at h ⊢
  exact ⟨h.1, h.2.1, h.2.2.1, h.2.2.2.1, h.2.2.2.2.1, tabWf_tput l v h.2.2.2.2.2⟩

theorem Memory.wf_setLine {m : Mem} (l : Nat) (d : LineData) (h : Memory.wf m = true) :
    Memory.wf (m.setLine l d) = true := by
  have h1 : Memory.wf { m with bytes := putBytes m.bytes (128 * l) (d.bytes.take 128)
                               tags := (upto 16).foldl (fun t k => tput t (16 * l + k) (d.tags.getLsbD k) false) m.tags } = true := by
    rw [Memory.wf_iff] at h ⊢
    exact ⟨tabWf_putBytes _ _ h.1, tabWf_foldl _ (fun t k ht => tabWf_tput _ _ ht) _ h.2.1, h.2.2⟩
  have h2 := Memory.wf_setMeta (2 * l + 1) (lineMeta d 1) (Memory.wf_setMeta (2 * l) (lineMeta d 0) h1)
  unfold Mem.setLine
  split
  · exact Memory.wf_settleLtp l h2
  · rw [Memory.wf_iff] at h2 ⊢
    exact ⟨h2.1, h2.2.1, h2.2.2.1, tabWf_tput _ true h2.2.2.2.1, tabWf_tput _ true h2.2.2.2.2.1, h2.2.2.2.2.2⟩

theorem Memory.wf_markTag {m : Mem} (l : Nat) (h : Memory.wf m = true) : Memory.wf (m.markTag l) = true := by
  rw [Memory.wf_iff] at h ⊢
  exact ⟨h.1, h.2.1, h.2.2.1, tabWf_tput l true h.2.2.2.1, tabWf_tput (l / 32) true h.2.2.2.2.1, h.2.2.2.2.2⟩

/-- A line written at its home keeps the canonical form. -/
theorem Memory.wf_putLine {s : State} (l : Nat) (d : LineData) (h : Memory.wf s.hbm = true) :
    Memory.wf (s.putLine l d).hbm = true := by
  unfold State.putLine
  dsimp only
  split
  · exact Memory.wf_markTag l (Memory.wf_setLine l d h)
  · exact Memory.wf_setLine l d h

/-- A line written at its home changes nothing of the home but its memory. -/
theorem State.putLine_eq (s : State) (l : Nat) (d : LineData) : s.putLine l d = { s with hbm := (s.putLine l d).hbm } := rfl

theorem Memory.wf_putWords (vs : List Val) : ∀ {m : Mem} (a : Nat), Memory.wf m = true →
    Memory.wf (putWords m a vs) = true := by
  induction vs with
  | nil => exact fun a h => h
  | cons v r ih => exact fun a h => ih (a + 8) (Memory.wf_writeWord a v h)

theorem Memory.wf_putScratch (a : Nat) (t : Team) : ∀ (n : Nat) {m : Mem}, Memory.wf m = true →
    Memory.wf (putScratch m a t n) = true
  | 0, _, h => h
  | n + 1, _, h => Memory.wf_setMeta _ _ (Memory.wf_putWords _ _ (Memory.wf_putScratch a t n h))

/-! ### Reading after writing -/

theorem tget_putBytes (bs : List Byte) : ∀ (m : List Host.Cell) (a x : Nat),
    tget (putBytes m a bs) x 0 = if a ≤ x ∧ x < a + bs.length then bs.getD (x - a) 0 else tget m x 0 := by
  induction bs with
  | nil => intro m a x; rw [if_neg (by simp)]; rfl
  | cons b r ih =>
    intro m a x
    rw [putBytes, ih, tget_tput]
    simp only [List.length_cons]
    by_cases h1 : a + 1 ≤ x ∧ x < a + 1 + r.length
    · rw [if_pos h1, if_pos (by omega), show x - a = (x - (a + 1)) + 1 by omega, List.getD_cons_succ]
    · rw [if_neg h1]
      by_cases h2 : a = x
      · subst h2; simp
      · rw [if_neg h2, if_neg (by omega)]

theorem Mem.settleLtp_bytes (m : Mem) (l : Nat) : (m.settleLtp l).bytes = m.bytes := by
  unfold Mem.settleLtp; split <;> rfl

theorem foldl_settleLtp_bytes (ls : List Nat) : ∀ m : Mem, (ls.foldl (fun st l => st.settleLtp l) m).bytes = m.bytes := by
  induction ls with
  | nil => exact fun m => rfl
  | cons l r ih => exact fun m => (ih _).trans (Mem.settleLtp_bytes m l)

/-- A write changes the bytes it covers and no other. -/
theorem Mem.byte_write (m : Mem) (a : Nat) (bs : List Byte) (x : Nat) :
    (m.write a bs).byte x = if a ≤ x ∧ x < a + bs.length then bs.getD (x - a) 0 else m.byte x := by
  unfold Mem.byte Mem.write
  rw [foldl_settleLtp_bytes]
  exact tget_putBytes bs m.bytes a x

end Sys2Proof.Machine
end

