-- ==== Sys2Proof/Laws/Object.lean ====
section
/-! SUPPORT. Laws of the object cache (R28): what the use of an entry changes, and what is found afterwards. -/

namespace Sys2Proof.Machine

variable (s : State) (core : Nat) (e : OcEntry)

@[simp] theorem State.useEntry_hbm : (s.useEntry core e).hbm = s.hbm := rfl
@[simp] theorem State.useEntry_pkg : (s.useEntry core e).pkg = s.pkg := rfl
@[simp] theorem State.useEntry_lanes : (s.useEntry core e).lanes = s.lanes := rfl
@[simp] theorem State.useEntry_frames : (s.useEntry core e).frames = s.frames := rfl
@[simp] theorem State.useEntry_warps : (s.useEntry core e).warps = s.warps := rfl
@[simp] theorem State.useEntry_teams : (s.useEntry core e).teams = s.teams := rfl
@[simp] theorem State.useEntry_defers : (s.useEntry core e).defers = s.defers := rfl
@[simp] theorem State.useEntry_reqs : (s.useEntry core e).reqs = s.reqs := rfl
@[simp] theorem State.useEntry_fails : (s.useEntry core e).fails = s.fails := rfl
@[simp] theorem State.useEntry_acks : (s.useEntry core e).acks = s.acks := rfl
@[simp] theorem State.useEntry_copies : (s.useEntry core e).copies = s.copies := rfl

/-- The cache of the core after the use of an entry: the entry stands last, every other where it stood. -/
theorem State.useEntry_oc : ((s.useEntry core e).core core).oc =
    ((s.core core).oc.filter fun x => !(x.realm == e.realm && x.obj == e.obj)) ++ [e] := by
  rw [State.useEntry, State.modCore, State.core_setCore _ _ _ _ rfl]

/-- Of the core that has used an entry, the L1 stays. -/
theorem State.useEntry_l1 : ((s.useEntry core e).core core).l1 = (s.core core).l1 := by
  rw [State.useEntry, State.modCore, State.core_setCore _ _ _ _ rfl]

/-- An entry that has been used is found under its name. -/
theorem State.useEntry_find : ((s.useEntry core e).core core).oc.find? (fun x => x.realm == e.realm && x.obj == e.obj) = some e := by
  rw [State.useEntry_oc, List.find?_append, List.find?_eq_none.mpr fun x hx => ?_]
  · simp
  · simpa [imp_iff_not_or] using (List.mem_filter.mp hx).2

/-- Under every other name the cache answers as before. -/
theorem State.useEntry_find_other {realm obj : Nat} (h : ¬(e.realm = realm ∧ e.obj = obj)) :
    ((s.useEntry core e).core core).oc.find? (fun x => x.realm == realm && x.obj == obj)
      = (s.core core).oc.find? fun x => x.realm == realm && x.obj == obj := by
  rw [State.useEntry_oc, List.find?_append, List.find?_filter]
  have hn : [e].find? (fun x => x.realm == realm && x.obj == obj) = none := by simpa using h
  rw [hn, Option.or_none]
  refine List.find?_congr fun x _ => ?_
  rw [Bool.eq_iff_iff]
  simp only [decide_eq_true_eq, Bool.and_eq_true, Bool.not_eq_true', Bool.and_eq_false_iff, beq_iff_eq, beq_eq_false_iff_ne]
  exact ⟨fun hx => hx.2, fun hx => ⟨not_and_or.mp fun hy => h ⟨hy.1.symm.trans hx.1, hy.2.symm.trans hx.2⟩, hx⟩⟩

end Sys2Proof.Machine
end

