-- ==== Sys2Proof/Laws/PerInstr.lean ====
section
/-! SUPPORT. Per instruction: an instruction word carries its opcode and its guard where R116 puts them; a step that is no word has
the encoding 0. -/

namespace Sys2Proof.Laws

open Sys2Proof Sys2Proof.Machine

/-- The opcode stands in bits 57 to 48 of an instruction's word and its guard in bits 63 to 58 (R116, R126); what is no word
encodes as 0. -/
def WordForm.Statement (i : Instr) : Prop :=
  (∀ g, sigOf i = some g → fld (encode i) 48 10 = g.opc ∧ guardOf (encode i) = g.fs.guard)
    ∧ (sigOf i = none → encode i = 0)

theorem wordForm_of {i : Instr} {g : Sig} (h : sigOf i = some g) (h1 : fld (encode i) 48 10 = g.opc)
    (h2 : guardOf (encode i) = g.fs.guard) : WordForm.Statement i :=
  ⟨fun _ h' => Option.some.inj (h.symm.trans h') ▸ ⟨h1, h2⟩, fun h' => absurd (h.symm.trans h') (Option.some_ne_none g)⟩

theorem wordForm_none {i : Instr} (h : sigOf i = none) (h1 : encode i = 0) : WordForm.Statement i :=
  ⟨fun g h' => absurd (h'.symm.trans h) (Option.some_ne_none g), fun _ => h1⟩

theorem WordForm.mov (f : BaseF) : WordForm.Statement (.mov f) := wordForm_of rfl (opcode_ofBase _ f) (guardOf_ofBase _ f)
theorem WordForm.movi (f : ImmF) : WordForm.Statement (.movi f) := wordForm_of rfl (opcode_ofImm _ f) (guardOf_ofImm _ f)
theorem WordForm.movh (f : ImmF) : WordForm.Statement (.movh f) := wordForm_of rfl (opcode_ofImm _ f) (guardOf_ofImm _ f)
theorem WordForm.sel (f : BaseF) : WordForm.Statement (.sel f) := wordForm_of rfl (opcode_ofBase _ f) (guardOf_ofBase _ f)
theorem WordForm.add (f : BaseF) : WordForm.Statement (.add f) := wordForm_of rfl (opcode_ofBase _ f) (guardOf_ofBase _ f)
theorem WordForm.sub (f : BaseF) : WordForm.Statement (.sub f) := wordForm_of rfl (opcode_ofBase _ f) (guardOf_ofBase _ f)
theorem WordForm.mul (f : BaseF) : WordForm.Statement (.mul f) := wordForm_of rfl (opcode_ofBase _ f) (guardOf_ofBase _ f)
theorem WordForm.mulh (f : BaseF) : WordForm.Statement (.mulh f) := wordForm_of rfl (opcode_ofBase _ f) (guardOf_ofBase _ f)
theorem WordForm.mulhu (f : BaseF) : WordForm.Statement (.mulhu f) := wordForm_of rfl (opcode_ofBase _ f) (guardOf_ofBase _ f)
theorem WordForm.mad (f : BaseF) : WordForm.Statement (.mad f) := wordForm_of rfl (opcode_ofBase _ f) (guardOf_ofBase _ f)
theorem WordForm.div (f : BaseF) : WordForm.Statement (.div f) := wordForm_of rfl (opcode_ofBase _ f) (guardOf_ofBase _ f)
theorem WordForm.divu (f : BaseF) : WordForm.Statement (.divu f) := wordForm_of rfl (opcode_ofBase _ f) (guardOf_ofBase _ f)
theorem WordForm.rem (f : BaseF) : WordForm.Statement (.rem f) := wordForm_of rfl (opcode_ofBase _ f) (guardOf_ofBase _ f)
theorem WordForm.remu (f : BaseF) : WordForm.Statement (.remu f) := wordForm_of rfl (opcode_ofBase _ f) (guardOf_ofBase _ f)
theorem WordForm.min (f : BaseF) : WordForm.Statement (.min f) := wordForm_of rfl (opcode_ofBase _ f) (guardOf_ofBase _ f)
theorem WordForm.max (f : BaseF) : WordForm.Statement (.max f) := wordForm_of rfl (opcode_ofBase _ f) (guardOf_ofBase _ f)
theorem WordForm.minu (f : BaseF) : WordForm.Statement (.minu f) := wordForm_of rfl (opcode_ofBase _ f) (guardOf_ofBase _ f)
theorem WordForm.maxu (f : BaseF) : WordForm.Statement (.maxu f) := wordForm_of rfl (opcode_ofBase _ f) (guardOf_ofBase _ f)
theorem WordForm.abs (f : BaseF) : WordForm.Statement (.abs f) := wordForm_of rfl (opcode_ofBase _ f) (guardOf_ofBase _ f)
theorem WordForm.neg (f : BaseF) : WordForm.Statement (.neg f) := wordForm_of rfl (opcode_ofBase _ f) (guardOf_ofBase _ f)
theorem WordForm.addi (f : ImmF) : WordForm.Statement (.addi f) := wordForm_of rfl (opcode_ofImm _ f) (guardOf_ofImm _ f)
theorem WordForm.shl (f : BaseF) : WordForm.Statement (.shl f) := wordForm_of rfl (opcode_ofBase _ f) (guardOf_ofBase _ f)
theorem WordForm.shr (f : BaseF) : WordForm.Statement (.shr f) := wordForm_of rfl (opcode_ofBase _ f) (guardOf_ofBase _ f)
theorem WordForm.sar (f : BaseF) : WordForm.Statement (.sar f) := wordForm_of rfl (opcode_ofBase _ f) (guardOf_ofBase _ f)
theorem WordForm.and (f : BaseF) : WordForm.Statement (.and f) := wordForm_of rfl (opcode_ofBase _ f) (guardOf_ofBase _ f)
theorem WordForm.or (f : BaseF) : WordForm.Statement (.or f) := wordForm_of rfl (opcode_ofBase _ f) (guardOf_ofBase _ f)
theorem WordForm.xor (f : BaseF) : WordForm.Statement (.xor f) := wordForm_of rfl (opcode_ofBase _ f) (guardOf_ofBase _ f)
theorem WordForm.not (f : BaseF) : WordForm.Statement (.not f) := wordForm_of rfl (opcode_ofBase _ f) (guardOf_ofBase _ f)
theorem WordForm.andn (f : BaseF) : WordForm.Statement (.andn f) := wordForm_of rfl (opcode_ofBase _ f) (guardOf_ofBase _ f)
theorem WordForm.lea (f : BaseF) : WordForm.Statement (.lea f) := wordForm_of rfl (opcode_ofBase _ f) (guardOf_ofBase _ f)
theorem WordForm.popc (f : BaseF) : WordForm.Statement (.popc f) := wordForm_of rfl (opcode_ofBase _ f) (guardOf_ofBase _ f)
theorem WordForm.clz (f : BaseF) : WordForm.Statement (.clz f) := wordForm_of rfl (opcode_ofBase _ f) (guardOf_ofBase _ f)
theorem WordForm.ctz (f : BaseF) : WordForm.Statement (.ctz f) := wordForm_of rfl (opcode_ofBase _ f) (guardOf_ofBase _ f)
theorem WordForm.brev (f : BaseF) : WordForm.Statement (.brev f) := wordForm_of rfl (opcode_ofBase _ f) (guardOf_ofBase _ f)
theorem WordForm.bswap (f : BaseF) : WordForm.Statement (.bswap f) := wordForm_of rfl (opcode_ofBase _ f) (guardOf_ofBase _ f)
theorem WordForm.rol (f : BaseF) : WordForm.Statement (.rol f) := wordForm_of rfl (opcode_ofBase _ f) (guardOf_ofBase _ f)
theorem WordForm.ror (f : BaseF) : WordForm.Statement (.ror f) := wordForm_of rfl (opcode_ofBase _ f) (guardOf_ofBase _ f)
theorem WordForm.bfx (f : BaseF) : WordForm.Statement (.bfx f) := wordForm_of rfl (opcode_ofBase _ f) (guardOf_ofBase _ f)
theorem WordForm.bfxu (f : BaseF) : WordForm.Statement (.bfxu f) := wordForm_of rfl (opcode_ofBase _ f) (guardOf_ofBase _ f)
theorem WordForm.bfi (f : BaseF) : WordForm.Statement (.bfi f) := wordForm_of rfl (opcode_ofBase _ f) (guardOf_ofBase _ f)
theorem WordForm.lxPick (f : BaseF) : WordForm.Statement (.lxPick f) := wordForm_of rfl (opcode_ofBase _ f) (guardOf_ofBase _ f)
theorem WordForm.lxShf (f : BaseF) : WordForm.Statement (.lxShf f) := wordForm_of rfl (opcode_ofBase _ f) (guardOf_ofBase _ f)
theorem WordForm.lxRot (f : BaseF) : WordForm.Statement (.lxRot f) := wordForm_of rfl (opcode_ofBase _ f) (guardOf_ofBase _ f)
theorem WordForm.lxFlip (f : BaseF) : WordForm.Statement (.lxFlip f) := wordForm_of rfl (opcode_ofBase _ f) (guardOf_ofBase _ f)
theorem WordForm.prdcOr (f : BaseF) : WordForm.Statement (.prdcOr f) := wordForm_of rfl (opcode_ofBase _ f) (guardOf_ofBase _ f)
theorem WordForm.prdcAnd (f : BaseF) : WordForm.Statement (.prdcAnd f) := wordForm_of rfl (opcode_ofBase _ f) (guardOf_ofBase _ f)
theorem WordForm.prdcMsk (f : BaseF) : WordForm.Statement (.prdcMsk f) := wordForm_of rfl (opcode_ofBase _ f) (guardOf_ofBase _ f)
theorem WordForm.eqmask (f : BaseF) : WordForm.Statement (.eqmask f) := wordForm_of rfl (opcode_ofBase _ f) (guardOf_ofBase _ f)
theorem WordForm.partm (f : BaseF) : WordForm.Statement (.partm f) := wordForm_of rfl (opcode_ofBase _ f) (guardOf_ofBase _ f)
theorem WordForm.wredAdd (f : BaseF) : WordForm.Statement (.wredAdd f) := wordForm_of rfl (opcode_ofBase _ f) (guardOf_ofBase _ f)
theorem WordForm.wredMin (f : BaseF) : WordForm.Statement (.wredMin f) := wordForm_of rfl (opcode_ofBase _ f) (guardOf_ofBase _ f)
theorem WordForm.wredMax (f : BaseF) : WordForm.Statement (.wredMax f) := wordForm_of rfl (opcode_ofBase _ f) (guardOf_ofBase _ f)
theorem WordForm.wredAnd (f : BaseF) : WordForm.Statement (.wredAnd f) := wordForm_of rfl (opcode_ofBase _ f) (guardOf_ofBase _ f)
theorem WordForm.wredOr (f : BaseF) : WordForm.Statement (.wredOr f) := wordForm_of rfl (opcode_ofBase _ f) (guardOf_ofBase _ f)
theorem WordForm.wredXor (f : BaseF) : WordForm.Statement (.wredXor f) := wordForm_of rfl (opcode_ofBase _ f) (guardOf_ofBase _ f)
theorem WordForm.icmp (f : BaseF) : WordForm.Statement (.icmp f) := wordForm_of rfl (opcode_ofBase _ f) (guardOf_ofBase _ f)
theorem WordForm.icmpu (f : BaseF) : WordForm.Statement (.icmpu f) := wordForm_of rfl (opcode_ofBase _ f) (guardOf_ofBase _ f)
theorem WordForm.tstb (f : BaseF) : WordForm.Statement (.tstb f) := wordForm_of rfl (opcode_ofBase _ f) (guardOf_ofBase _ f)
theorem WordForm.pand (f : BaseF) : WordForm.Statement (.pand f) := wordForm_of rfl (opcode_ofBase _ f) (guardOf_ofBase _ f)
theorem WordForm.por (f : BaseF) : WordForm.Statement (.por f) := wordForm_of rfl (opcode_ofBase _ f) (guardOf_ofBase _ f)
theorem WordForm.pxor (f : BaseF) : WordForm.Statement (.pxor f) := wordForm_of rfl (opcode_ofBase _ f) (guardOf_ofBase _ f)
theorem WordForm.pnot (f : BaseF) : WordForm.Statement (.pnot f) := wordForm_of rfl (opcode_ofBase _ f) (guardOf_ofBase _ f)
theorem WordForm.pmov (f : BaseF) : WordForm.Statement (.pmov f) := wordForm_of rfl (opcode_ofBase _ f) (guardOf_ofBase _ f)
theorem WordForm.pset (f : BaseF) : WordForm.Statement (.pset f) := wordForm_of rfl (opcode_ofBase _ f) (guardOf_ofBase _ f)
theorem WordForm.pget (f : BaseF) : WordForm.Statement (.pget f) := wordForm_of rfl (opcode_ofBase _ f) (guardOf_ofBase _ f)
theorem WordForm.nop (f : BaseF) : WordForm.Statement (.nop f) := wordForm_of rfl (opcode_ofBase _ f) (guardOf_ofBase _ f)
theorem WordForm.yield (f : BaseF) : WordForm.Statement (.yield f) := wordForm_of rfl (opcode_ofBase _ f) (guardOf_ofBase _ f)
theorem WordForm.br (f : JumpF) : WordForm.Statement (.br f) := wordForm_of rfl (opcode_ofJump _ f) (guardOf_ofJump _ f)
theorem WordForm.brx (f : BaseF) : WordForm.Statement (.brx f) := wordForm_of rfl (opcode_ofBase _ f) (guardOf_ofBase _ f)
theorem WordForm.call (f : JumpF) : WordForm.Statement (.call f) := wordForm_of rfl (opcode_ofJump _ f) (guardOf_ofJump _ f)
theorem WordForm.callx (f : BaseF) : WordForm.Statement (.callx f) := wordForm_of rfl (opcode_ofBase _ f) (guardOf_ofBase _ f)
theorem WordForm.ret (f : BaseF) : WordForm.Statement (.ret f) := wordForm_of rfl (opcode_ofBase _ f) (guardOf_ofBase _ f)
theorem WordForm.unwind (f : JumpF) : WordForm.Statement (.unwind f) := wordForm_of rfl (opcode_ofJump _ f) (guardOf_ofJump _ f)
theorem WordForm.exit (f : BaseF) : WordForm.Statement (.exit f) := wordForm_of rfl (opcode_ofBase _ f) (guardOf_ofBase _ f)
theorem WordForm.ldf (f : BaseF) : WordForm.Statement (.ldf f) := wordForm_of rfl (opcode_ofBase _ f) (guardOf_ofBase _ f)
theorem WordForm.stf (f : BaseF) : WordForm.Statement (.stf f) := wordForm_of rfl (opcode_ofBase _ f) (guardOf_ofBase _ f)
theorem WordForm.frq (f : BaseF) : WordForm.Statement (.frq f) := wordForm_of rfl (opcode_ofBase _ f) (guardOf_ofBase _ f)
theorem WordForm.fadd (f : BaseF) : WordForm.Statement (.fadd f) := wordForm_of rfl (opcode_ofBase _ f) (guardOf_ofBase _ f)
theorem WordForm.fsub (f : BaseF) : WordForm.Statement (.fsub f) := wordForm_of rfl (opcode_ofBase _ f) (guardOf_ofBase _ f)
theorem WordForm.fmul (f : BaseF) : WordForm.Statement (.fmul f) := wordForm_of rfl (opcode_ofBase _ f) (guardOf_ofBase _ f)
theorem WordForm.ffma (f : BaseF) : WordForm.Statement (.ffma f) := wordForm_of rfl (opcode_ofBase _ f) (guardOf_ofBase _ f)
theorem WordForm.fmin (f : BaseF) : WordForm.Statement (.fmin f) := wordForm_of rfl (opcode_ofBase _ f) (guardOf_ofBase _ f)
theorem WordForm.fmax (f : BaseF) : WordForm.Statement (.fmax f) := wordForm_of rfl (opcode_ofBase _ f) (guardOf_ofBase _ f)
theorem WordForm.fabs (f : BaseF) : WordForm.Statement (.fabs f) := wordForm_of rfl (opcode_ofBase _ f) (guardOf_ofBase _ f)
theorem WordForm.fneg (f : BaseF) : WordForm.Statement (.fneg f) := wordForm_of rfl (opcode_ofBase _ f) (guardOf_ofBase _ f)
theorem WordForm.fdiv (f : BaseF) : WordForm.Statement (.fdiv f) := wordForm_of rfl (opcode_ofBase _ f) (guardOf_ofBase _ f)
theorem WordForm.fsqrt (f : BaseF) : WordForm.Statement (.fsqrt f) := wordForm_of rfl (opcode_ofBase _ f) (guardOf_ofBase _ f)
theorem WordForm.frcp (f : BaseF) : WordForm.Statement (.frcp f) := wordForm_of rfl (opcode_ofBase _ f) (guardOf_ofBase _ f)
theorem WordForm.frsq (f : BaseF) : WordForm.Statement (.frsq f) := wordForm_of rfl (opcode_ofBase _ f) (guardOf_ofBase _ f)
theorem WordForm.fcmp (f : BaseF) : WordForm.Statement (.fcmp f) := wordForm_of rfl (opcode_ofBase _ f) (guardOf_ofBase _ f)
theorem WordForm.fclass (f : BaseF) : WordForm.Statement (.fclass f) := wordForm_of rfl (opcode_ofBase _ f) (guardOf_ofBase _ f)
theorem WordForm.padd2 (f : BaseF) : WordForm.Statement (.padd2 f) := wordForm_of rfl (opcode_ofBase _ f) (guardOf_ofBase _ f)
theorem WordForm.psub2 (f : BaseF) : WordForm.Statement (.psub2 f) := wordForm_of rfl (opcode_ofBase _ f) (guardOf_ofBase _ f)
theorem WordForm.pmul2 (f : BaseF) : WordForm.Statement (.pmul2 f) := wordForm_of rfl (opcode_ofBase _ f) (guardOf_ofBase _ f)
theorem WordForm.pfma2 (f : BaseF) : WordForm.Statement (.pfma2 f) := wordForm_of rfl (opcode_ofBase _ f) (guardOf_ofBase _ f)
theorem WordForm.pmin2 (f : BaseF) : WordForm.Statement (.pmin2 f) := wordForm_of rfl (opcode_ofBase _ f) (guardOf_ofBase _ f)
theorem WordForm.pmax2 (f : BaseF) : WordForm.Statement (.pmax2 f) := wordForm_of rfl (opcode_ofBase _ f) (guardOf_ofBase _ f)
theorem WordForm.dadd (f : BaseF) : WordForm.Statement (.dadd f) := wordForm_of rfl (opcode_ofBase _ f) (guardOf_ofBase _ f)
theorem WordForm.dsub (f : BaseF) : WordForm.Statement (.dsub f) := wordForm_of rfl (opcode_ofBase _ f) (guardOf_ofBase _ f)
theorem WordForm.dmul (f : BaseF) : WordForm.Statement (.dmul f) := wordForm_of rfl (opcode_ofBase _ f) (guardOf_ofBase _ f)
theorem WordForm.dfma (f : BaseF) : WordForm.Statement (.dfma f) := wordForm_of rfl (opcode_ofBase _ f) (guardOf_ofBase _ f)
theorem WordForm.ddiv (f : BaseF) : WordForm.Statement (.ddiv f) := wordForm_of rfl (opcode_ofBase _ f) (guardOf_ofBase _ f)
theorem WordForm.dsqrt (f : BaseF) : WordForm.Statement (.dsqrt f) := wordForm_of rfl (opcode_ofBase _ f) (guardOf_ofBase _ f)
theorem WordForm.dmin (f : BaseF) : WordForm.Statement (.dmin f) := wordForm_of rfl (opcode_ofBase _ f) (guardOf_ofBase _ f)
theorem WordForm.dmax (f : BaseF) : WordForm.Statement (.dmax f) := wordForm_of rfl (opcode_ofBase _ f) (guardOf_ofBase _ f)
theorem WordForm.dcmp (f : BaseF) : WordForm.Statement (.dcmp f) := wordForm_of rfl (opcode_ofBase _ f) (guardOf_ofBase _ f)
theorem WordForm.dclass (f : BaseF) : WordForm.Statement (.dclass f) := wordForm_of rfl (opcode_ofBase _ f) (guardOf_ofBase _ f)
theorem WordForm.fexp2 (f : BaseF) : WordForm.Statement (.fexp2 f) := wordForm_of rfl (opcode_ofBase _ f) (guardOf_ofBase _ f)
theorem WordForm.flog2 (f : BaseF) : WordForm.Statement (.flog2 f) := wordForm_of rfl (opcode_ofBase _ f) (guardOf_ofBase _ f)
theorem WordForm.fsin (f : BaseF) : WordForm.Statement (.fsin f) := wordForm_of rfl (opcode_ofBase _ f) (guardOf_ofBase _ f)
theorem WordForm.fcos (f : BaseF) : WordForm.Statement (.fcos f) := wordForm_of rfl (opcode_ofBase _ f) (guardOf_ofBase _ f)
theorem WordForm.ftanh (f : BaseF) : WordForm.Statement (.ftanh f) := wordForm_of rfl (opcode_ofBase _ f) (guardOf_ofBase _ f)
theorem WordForm.cvt (f : BaseF) : WordForm.Statement (.cvt f) := wordForm_of rfl (opcode_ofBase _ f) (guardOf_ofBase _ f)
theorem WordForm.frnd (f : BaseF) : WordForm.Statement (.frnd f) := wordForm_of rfl (opcode_ofBase _ f) (guardOf_ofBase _ f)
theorem WordForm.qnt (f : BaseF) : WordForm.Statement (.qnt f) := wordForm_of rfl (opcode_ofBase _ f) (guardOf_ofBase _ f)
theorem WordForm.dqnt (f : BaseF) : WordForm.Statement (.dqnt f) := wordForm_of rfl (opcode_ofBase _ f) (guardOf_ofBase _ f)
theorem WordForm.bmrd (f : BaseF) : WordForm.Statement (.bmrd f) := wordForm_of rfl (opcode_ofBase _ f) (guardOf_ofBase _ f)
theorem WordForm.bmwr (f : BaseF) : WordForm.Statement (.bmwr f) := wordForm_of rfl (opcode_ofBase _ f) (guardOf_ofBase _ f)
theorem WordForm.amxrd (f : BaseF) : WordForm.Statement (.amxrd f) := wordForm_of rfl (opcode_ofBase _ f) (guardOf_ofBase _ f)
theorem WordForm.amxpsh (f : BaseF) : WordForm.Statement (.amxpsh f) := wordForm_of rfl (opcode_ofBase _ f) (guardOf_ofBase _ f)
theorem WordForm.amxcmt (f : BaseF) : WordForm.Statement (.amxcmt f) := wordForm_of rfl (opcode_ofBase _ f) (guardOf_ofBase _ f)
theorem WordForm.amxclr (f : BaseF) : WordForm.Statement (.amxclr f) := wordForm_of rfl (opcode_ofBase _ f) (guardOf_ofBase _ f)
theorem WordForm.ld (f : MemF) : WordForm.Statement (.ld f) := wordForm_of rfl (opcode_ofMem _ f) (guardOf_ofMem _ f)
theorem WordForm.st (f : MemF) : WordForm.Statement (.st f) := wordForm_of rfl (opcode_ofMem _ f) (guardOf_ofMem _ f)
theorem WordForm.fld (f : MemF) : WordForm.Statement (.fld f) := wordForm_of rfl (opcode_ofMem _ f) (guardOf_ofMem _ f)
theorem WordForm.spld (f : MemF) : WordForm.Statement (.spld f) := wordForm_of rfl (opcode_ofMem _ f) (guardOf_ofMem _ f)
theorem WordForm.spst (f : MemF) : WordForm.Statement (.spst f) := wordForm_of rfl (opcode_ofMem _ f) (guardOf_ofMem _ f)
theorem WordForm.pref (f : MemF) : WordForm.Statement (.pref f) := wordForm_of rfl (opcode_ofMem _ f) (guardOf_ofMem _ f)
theorem WordForm.ldref (f : MemF) : WordForm.Statement (.ldref f) := wordForm_of rfl (opcode_ofMem _ f) (guardOf_ofMem _ f)
theorem WordForm.stref (f : MemF) : WordForm.Statement (.stref f) := wordForm_of rfl (opcode_ofMem _ f) (guardOf_ofMem _ f)
theorem WordForm.rderive (f : BaseF) : WordForm.Statement (.rderive f) := wordForm_of rfl (opcode_ofBase _ f) (guardOf_ofBase _ f)
theorem WordForm.refadd (f : BaseF) : WordForm.Statement (.refadd f) := wordForm_of rfl (opcode_ofBase _ f) (guardOf_ofBase _ f)
theorem WordForm.rinfo (f : BaseF) : WordForm.Statement (.rinfo f) := wordForm_of rfl (opcode_ofBase _ f) (guardOf_ofBase _ f)
theorem WordForm.oalloc (f : BaseF) : WordForm.Statement (.oalloc f) := wordForm_of rfl (opcode_ofBase _ f) (guardOf_ofBase _ f)
theorem WordForm.ofree (f : BaseF) : WordForm.Statement (.ofree f) := wordForm_of rfl (opcode_ofBase _ f) (guardOf_ofBase _ f)
theorem WordForm.atom (f : SyF) : WordForm.Statement (.atom f) := wordForm_of rfl (opcode_ofSy _ f) (guardOf_ofSy _ f)
theorem WordForm.red (f : SyF) : WordForm.Statement (.red f) := wordForm_of rfl (opcode_ofSy _ f) (guardOf_ofSy _ f)
theorem WordForm.fence (f : SyF) : WordForm.Statement (.fence f) := wordForm_of rfl (opcode_ofSy _ f) (guardOf_ofSy _ f)
theorem WordForm.mma (f : MxF) : WordForm.Statement (.mma f) := wordForm_of rfl (opcode_ofMx _ f) (guardOf_ofMx _ f)
theorem WordForm.acz (f : MxF) : WordForm.Statement (.acz f) := wordForm_of rfl (opcode_ofMx _ f) (guardOf_ofMx _ f)
theorem WordForm.acrd (f : MxF) : WordForm.Statement (.acrd f) := wordForm_of rfl (opcode_ofMx _ f) (guardOf_ofMx _ f)
theorem WordForm.acrdQ (f : MxF) : WordForm.Statement (.acrdQ f) := wordForm_of rfl (opcode_ofMx _ f) (guardOf_ofMx _ f)
theorem WordForm.acwr (f : MxF) : WordForm.Statement (.acwr f) := wordForm_of rfl (opcode_ofMx _ f) (guardOf_ofMx _ f)
theorem WordForm.acred (f : MxF) : WordForm.Statement (.acred f) := wordForm_of rfl (opcode_ofMx _ f) (guardOf_ofMx _ f)
theorem WordForm.acscl (f : MxF) : WordForm.Statement (.acscl f) := wordForm_of rfl (opcode_ofMx _ f) (guardOf_ofMx _ f)
theorem WordForm.scpy (f : ShF) : WordForm.Statement (.scpy f) := wordForm_of rfl (opcode_ofSh _ f) (guardOf_ofSh _ f)
theorem WordForm.sgath (f : ShF) : WordForm.Statement (.sgath f) := wordForm_of rfl (opcode_ofSh _ f) (guardOf_ofSh _ f)
theorem WordForm.sgathSp (f : ShF) : WordForm.Statement (.sgathSp f) := wordForm_of rfl (opcode_ofSh _ f) (guardOf_ofSh _ f)
theorem WordForm.sscat (f : ShF) : WordForm.Statement (.sscat f) := wordForm_of rfl (opcode_ofSh _ f) (guardOf_ofSh _ f)
theorem WordForm.ssadd (f : ShF) : WordForm.Statement (.ssadd f) := wordForm_of rfl (opcode_ofSh _ f) (guardOf_ofSh _ f)
theorem WordForm.sput (f : ShF) : WordForm.Statement (.sput f) := wordForm_of rfl (opcode_ofSh _ f) (guardOf_ofSh _ f)
theorem WordForm.sfill (f : ShF) : WordForm.Statement (.sfill f) := wordForm_of rfl (opcode_ofSh _ f) (guardOf_ofSh _ f)
theorem WordForm.sqcp (f : ShF) : WordForm.Statement (.sqcp f) := wordForm_of rfl (opcode_ofSh _ f) (guardOf_ofSh _ f)
theorem WordForm.lyset (f : BaseF) : WordForm.Statement (.lyset f) := wordForm_of rfl (opcode_ofBase _ f) (guardOf_ofBase _ f)
theorem WordForm.bar (f : SyF) : WordForm.Statement (.bar f) := wordForm_of rfl (opcode_ofSy _ f) (guardOf_ofSy _ f)
theorem WordForm.bara (f : SyF) : WordForm.Statement (.bara f) := wordForm_of rfl (opcode_ofSy _ f) (guardOf_ofSy _ f)
theorem WordForm.sharr (f : SyF) : WordForm.Statement (.sharr f) := wordForm_of rfl (opcode_ofSy _ f) (guardOf_ofSy _ f)
theorem WordForm.sharrInit (f : SyF) : WordForm.Statement (.sharrInit f) := wordForm_of rfl (opcode_ofSy _ f) (guardOf_ofSy _ f)
theorem WordForm.shwait (f : SyF) : WordForm.Statement (.shwait f) := wordForm_of rfl (opcode_ofSy _ f) (guardOf_ofSy _ f)
theorem WordForm.cwait (f : SyF) : WordForm.Statement (.cwait f) := wordForm_of rfl (opcode_ofSy _ f) (guardOf_ofSy _ f)
theorem WordForm.mwait (f : SyF) : WordForm.Statement (.mwait f) := wordForm_of rfl (opcode_ofSy _ f) (guardOf_ofSy _ f)
theorem WordForm.pub (f : SyF) : WordForm.Statement (.pub f) := wordForm_of rfl (opcode_ofSy _ f) (guardOf_ofSy _ f)
theorem WordForm.pubw (f : SyF) : WordForm.Statement (.pubw f) := wordForm_of rfl (opcode_ofSy _ f) (guardOf_ofSy _ f)
theorem WordForm.launch (f : SyF) : WordForm.Statement (.launch f) := wordForm_of rfl (opcode_ofSy _ f) (guardOf_ofSy _ f)
theorem WordForm.launchi (f : SyF) : WordForm.Statement (.launchi f) := wordForm_of rfl (opcode_ofSy _ f) (guardOf_ofSy _ f)
theorem WordForm.hcall (f : SyF) : WordForm.Statement (.hcall f) := wordForm_of rfl (opcode_ofSy _ f) (guardOf_ofSy _ f)
theorem WordForm.hcallNb (f : SyF) : WordForm.Statement (.hcallNb f) := wordForm_of rfl (opcode_ofSy _ f) (guardOf_ofSy _ f)
theorem WordForm.uintr (f : SyF) : WordForm.Statement (.uintr f) := wordForm_of rfl (opcode_ofSy _ f) (guardOf_ofSy _ f)
theorem WordForm.srd (f : BaseF) : WordForm.Statement (.srd f) := wordForm_of rfl (opcode_ofBase _ f) (guardOf_ofBase _ f)
theorem WordForm.swr (f : BaseF) : WordForm.Statement (.swr f) := wordForm_of rfl (opcode_ofBase _ f) (guardOf_ofBase _ f)
theorem WordForm.trap (f : BaseF) : WordForm.Statement (.trap f) := wordForm_of rfl (opcode_ofBase _ f) (guardOf_ofBase _ f)
theorem WordForm.tfence (f : BaseF) : WordForm.Statement (.tfence f) := wordForm_of rfl (opcode_ofBase _ f) (guardOf_ofBase _ f)
theorem WordForm.rft (f : BaseF) : WordForm.Statement (.rft f) := wordForm_of rfl (opcode_ofBase _ f) (guardOf_ofBase _ f)
theorem WordForm.park (f : BaseF) : WordForm.Statement (.park f) := wordForm_of rfl (opcode_ofBase _ f) (guardOf_ofBase _ f)
theorem WordForm.clrpsn (f : BaseF) : WordForm.Statement (.clrpsn f) := wordForm_of rfl (opcode_ofBase _ f) (guardOf_ofBase _ f)
theorem WordForm.bundleOpen (core : Nat) (part : Nat) : WordForm.Statement (.bundleOpen core part) := wordForm_none rfl rfl
theorem WordForm.forcedWarp (core : Nat) (part : Nat) : WordForm.Statement (.forcedWarp core part) := wordForm_none rfl rfl
theorem WordForm.icacheFill (core : Nat) (realm : Nat) (obj : Nat) (line : Nat) :
    WordForm.Statement (.icacheFill core realm obj line) := wordForm_none rfl rfl
theorem WordForm.asyncTrap (wk : Nat) : WordForm.Statement (.asyncTrap wk) := wordForm_none rfl rfl
theorem WordForm.warpParked (wk : Nat) : WordForm.Statement (.warpParked wk) := wordForm_none rfl rfl
theorem WordForm.deferredResponse (id : Nat) : WordForm.Statement (.deferredResponse id) := wordForm_none rfl rfl
theorem WordForm.remoteTimeout (id : Nat) : WordForm.Statement (.remoteTimeout id) := wordForm_none rfl rfl
theorem WordForm.frameGrant (core : Nat) (part : Nat) : WordForm.Statement (.frameGrant core part) := wordForm_none rfl rfl
theorem WordForm.dofferWake (core : Nat) (part : Nat) : WordForm.Statement (.dofferWake core part) := wordForm_none rfl rfl
theorem WordForm.spillDone (core : Nat) (part : Nat) : WordForm.Statement (.spillDone core part) := wordForm_none rfl rfl
theorem WordForm.refillDone (core : Nat) (part : Nat) : WordForm.Statement (.refillDone core part) := wordForm_none rfl rfl
theorem WordForm.frameRelease (fk : Nat) : WordForm.Statement (.frameRelease fk) := wordForm_none rfl rfl
theorem WordForm.objectWalk (core : Nat) (realm : Nat) (obj : Nat) : WordForm.Statement (.objectWalk core realm obj) :=
  wordForm_none rfl rfl
theorem WordForm.extentFill (die : Nat) (realm : Nat) (obj : Nat) (chunk : Nat) :
    WordForm.Statement (.extentFill die realm obj chunk) := wordForm_none rfl rfl
theorem WordForm.shuttleComplete (id : Nat) : WordForm.Statement (.shuttleComplete id) := wordForm_none rfl rfl
theorem WordForm.shuttleAsyncFault (id : Nat) : WordForm.Statement (.shuttleAsyncFault id) := wordForm_none rfl rfl
theorem WordForm.sputIncrement (id : Nat) : WordForm.Statement (.sputIncrement id) := wordForm_none rfl rfl
theorem WordForm.heldArrival (tk : Nat) (idx : Nat) : WordForm.Statement (.heldArrival tk idx) := wordForm_none rfl rfl
theorem WordForm.mmaPerform (core : Nat) (bank : Nat) : WordForm.Statement (.mmaPerform core bank) := wordForm_none rfl rfl
theorem WordForm.aczPerform (core : Nat) (bank : Nat) : WordForm.Statement (.aczPerform core bank) := wordForm_none rfl rfl
theorem WordForm.walkVisit (core : Nat) : WordForm.Statement (.walkVisit core) := wordForm_none rfl rfl
theorem WordForm.walkComplete (core : Nat) : WordForm.Statement (.walkComplete core) := wordForm_none rfl rfl
theorem WordForm.mwaitReread (wk : Nat) (path : Nat) : WordForm.Statement (.mwaitReread wk path) := wordForm_none rfl rfl
theorem WordForm.hcallReply (slot : Nat) : WordForm.Statement (.hcallReply slot) := wordForm_none rfl rfl
theorem WordForm.hcallTimeout (slot : Nat) : WordForm.Statement (.hcallTimeout slot) := wordForm_none rfl rfl
theorem WordForm.monitorReread (slot : Nat) : WordForm.Statement (.monitorReread slot) := wordForm_none rfl rfl
theorem WordForm.uintrDeliver (tk : Nat) : WordForm.Statement (.uintrDeliver tk) := wordForm_none rfl rfl
theorem WordForm.take (page : Nat) : WordForm.Statement (.take page) := wordForm_none rfl rfl
theorem WordForm.predWatch (grid : Nat) (which : Nat) : WordForm.Statement (.predWatch grid which) := wordForm_none rfl rfl
theorem WordForm.countRead (grid : Nat) : WordForm.Statement (.countRead grid) := wordForm_none rfl rfl
theorem WordForm.deal (grid : Nat) : WordForm.Statement (.deal grid) := wordForm_none rfl rfl
theorem WordForm.admitHead (core : Nat) : WordForm.Statement (.admitHead core) := wordForm_none rfl rfl
theorem WordForm.idleSteal (core : Nat) : WordForm.Statement (.idleSteal core) := wordForm_none rfl rfl
theorem WordForm.stealRequest (thief : Nat) (victim : Nat) : WordForm.Statement (.stealRequest thief victim) :=
  wordForm_none rfl rfl
theorem WordForm.stealAnswer (core : Nat) : WordForm.Statement (.stealAnswer core) := wordForm_none rfl rfl
theorem WordForm.teamRetire (tk : Nat) : WordForm.Statement (.teamRetire tk) := wordForm_none rfl rfl
theorem WordForm.gridComplete (grid : Nat) : WordForm.Statement (.gridComplete grid) := wordForm_none rfl rfl
theorem WordForm.quiesceDone (tk : Nat) : WordForm.Statement (.quiesceDone tk) := wordForm_none rfl rfl
theorem WordForm.drainRequiesce (tk : Nat) : WordForm.Statement (.drainRequiesce tk) := wordForm_none rfl rfl
theorem WordForm.victimSkipExpire (core : Nat) (tk : Nat) : WordForm.Statement (.victimSkipExpire core tk) :=
  wordForm_none rfl rfl
theorem WordForm.flushDone (tk : Nat) : WordForm.Statement (.flushDone tk) := wordForm_none rfl rfl
theorem WordForm.saveDone (tk : Nat) : WordForm.Statement (.saveDone tk) := wordForm_none rfl rfl
theorem WordForm.restore (core : Nat) : WordForm.Statement (.restore core) := wordForm_none rfl rfl
theorem WordForm.oinvDrain (core : Nat) (realm : Nat) (obj : Nat) : WordForm.Statement (.oinvDrain core realm obj) :=
  wordForm_none rfl rfl
theorem WordForm.oinvRelease (core : Nat) (realm : Nat) (obj : Nat) : WordForm.Statement (.oinvRelease core realm obj) :=
  wordForm_none rfl rfl
theorem WordForm.cpaddr (core : Nat) (addr : Nat) : WordForm.Statement (.cpaddr core addr) := wordForm_none rfl rfl
theorem WordForm.blockCopyBlock (core : Nat) : WordForm.Statement (.blockCopyBlock core) := wordForm_none rfl rfl
theorem WordForm.rds (src : Sender) (line : Nat) : WordForm.Statement (.rds src line) :=
  wordForm_none rfl rfl
theorem WordForm.rdx (src : Nat) (cell : Nat) (line : Nat) : WordForm.Statement (.rdx src cell line) := wordForm_none rfl rfl
theorem WordForm.upg (src : Nat) (cell : Nat) (line : Nat) : WordForm.Statement (.upg src cell line) := wordForm_none rfl rfl
theorem WordForm.wrfull (src : Nat) (cell : Nat) (line : Nat) : WordForm.Statement (.wrfull src cell line) :=
  wordForm_none rfl rfl
theorem WordForm.rdu (src : Nat) (cell : Nat) (line : Nat) (wr : Bool) : WordForm.Statement (.rdu src cell line wr) :=
  wordForm_none rfl rfl
theorem WordForm.wbu (src : Nat) (cell : Nat) (line : Nat) (mask : WbuMask) (dat : LineData) : WordForm.Statement (.wbu src cell line mask dat) :=
  wordForm_none rfl rfl
theorem WordForm.rdnc (src : Sender) (addr : Nat) : WordForm.Statement (.rdnc src addr) :=
  wordForm_none rfl rfl
theorem WordForm.evs (src : Sender) (line : Nat) : WordForm.Statement (.evs src line) :=
  wordForm_none rfl rfl
theorem WordForm.wbm (src : Sender) (line : Nat) (dat : LineData) : WordForm.Statement (.wbm src line dat) :=
  wordForm_none rfl rfl
theorem WordForm.dirty (src : Sender) (line : Nat) : WordForm.Statement (.dirty src line) :=
  wordForm_none rfl rfl
theorem WordForm.clrp (src : Sender) (line : Nat) : WordForm.Statement (.clrp src line) :=
  wordForm_none rfl rfl
theorem WordForm.heartbeatSend (port : Nat) : WordForm.Statement (.heartbeatSend port) := wordForm_none rfl rfl
theorem WordForm.heartbeatLoss (port : Nat) : WordForm.Statement (.heartbeatLoss port) := wordForm_none rfl rfl
theorem WordForm.recoveryScan (line : Nat) : WordForm.Statement (.recoveryScan line) := wordForm_none rfl rfl
theorem WordForm.rateIncrease (target : Nat) : WordForm.Statement (.rateIncrease target) := wordForm_none rfl rfl
theorem WordForm.widthChange (port : Nat) : WordForm.Statement (.widthChange port) := wordForm_none rfl rfl
theorem WordForm.verifyDone : WordForm.Statement .verifyDone := wordForm_none rfl rfl
theorem WordForm.coreOffline (core : Nat) : WordForm.Statement (.coreOffline core) := wordForm_none rfl rfl
theorem WordForm.localMemoryResponse (id : Nat) : WordForm.Statement (.localMemoryResponse id) := wordForm_none rfl rfl
theorem WordForm.powerOn : WordForm.Statement .powerOn := wordForm_none rfl rfl
theorem WordForm.imageBufferWrite (off : Nat) (bytes : List (BitVec 8)) : WordForm.Statement (.imageBufferWrite off bytes) :=
  wordForm_none rfl rfl
theorem WordForm.go : WordForm.Statement .go := wordForm_none rfl rfl
theorem WordForm.initDone (up : BringUp) : WordForm.Statement (.initDone up) := wordForm_none rfl rfl
theorem WordForm.lockInterfaceRequest : WordForm.Statement .lockInterfaceRequest := wordForm_none rfl rfl
theorem WordForm.getDeviceInterfaceReport : WordForm.Statement .getDeviceInterfaceReport := wordForm_none rfl rfl
theorem WordForm.startInterfaceRequest : WordForm.Statement .startInterfaceRequest := wordForm_none rfl rfl
theorem WordForm.stopInterfaceRequest : WordForm.Statement .stopInterfaceRequest := wordForm_none rfl rfl
theorem WordForm.correctedError : WordForm.Statement .correctedError := wordForm_none rfl rfl
theorem WordForm.uncorrectableError (loc : ErrLoc) : WordForm.Statement (.uncorrectableError loc) := wordForm_none rfl rfl
theorem WordForm.throttleStep (now : PowerSample) : WordForm.Statement (.throttleStep now) := wordForm_none rfl rfl
theorem WordForm.thermalStop (celsius : Nat) : WordForm.Statement (.thermalStop celsius) := wordForm_none rfl rfl
theorem WordForm.registerWrite (reg : RegAddr) (v : BitVec 64) : WordForm.Statement (.registerWrite reg v) :=
  wordForm_none rfl rfl
theorem WordForm.supervisorAccess (core : Nat) (acc : SupAccess) : WordForm.Statement (.supervisorAccess core acc) :=
  wordForm_none rfl rfl
theorem WordForm.objectPoolRefill (core : Nat) (realm : Nat) (nums : List Nat) :
    WordForm.Statement (.objectPoolRefill core realm nums) := wordForm_none rfl rfl
theorem WordForm.submissionPageBind (page : Nat) (realm : Nat) (wld : Bool) :
    WordForm.Statement (.submissionPageBind page realm wld) := wordForm_none rfl rfl
theorem WordForm.flitReplay (port : Nat) : WordForm.Statement (.flitReplay port) := wordForm_none rfl rfl
theorem WordForm.hostSnoop (half : Nat) (kind : SnoopKind) : WordForm.Statement (.hostSnoop half kind) := wordForm_none rfl rfl
theorem WordForm.hostGo (half : Nat) (dat : LineData) : WordForm.Statement (.hostGo half dat) := wordForm_none rfl rfl
theorem WordForm.hostBiResponse (agent : Nat) (line : Nat) : WordForm.Statement (.hostBiResponse agent line) :=
  wordForm_none rfl rfl
theorem WordForm.hostMemRead (addr : Nat) (size : Nat) : WordForm.Statement (.hostMemRead addr size) := wordForm_none rfl rfl
theorem WordForm.hostMemWrite (addr : Nat) (bytes : List (BitVec 8)) : WordForm.Statement (.hostMemWrite addr bytes) :=
  wordForm_none rfl rfl
theorem WordForm.linkUp (port : Nat) (peer : Nat) (version : Nat) : WordForm.Statement (.linkUp port peer version) :=
  wordForm_none rfl rfl
theorem WordForm.laneFailure (port : Nat) (lanes : Nat) : WordForm.Statement (.laneFailure port lanes) := wordForm_none rfl rfl
theorem WordForm.rtrn (port : Nat) : WordForm.Statement (.rtrn port) := wordForm_none rfl rfl
theorem WordForm.heartbeat (port : Nat) : WordForm.Statement (.heartbeat port) := wordForm_none rfl rfl
theorem WordForm.packetForward (src : Nat) (dst : Nat) (via : Option Nat) (cls : Nat) (flits : Nat) (hop : Nat) (mark : Bool) (esc : Bool) :
    WordForm.Statement (.packetForward src dst via cls flits hop mark esc) := wordForm_none rfl rfl
theorem WordForm.deathDeclare (seen : DeathSeen) : WordForm.Statement (.deathDeclare seen) := wordForm_none rfl rfl
theorem WordForm.deathNotice (agents : List Nat) (news : DeathNews) : WordForm.Statement (.deathNotice agents news) :=
  wordForm_none rfl rfl
theorem WordForm.selvedgeChange (page : Nat) (idx : BitVec 8) : WordForm.Statement (.selvedgeChange page idx) :=
  wordForm_none rfl rfl
theorem WordForm.inv (msg : LineMsg) (collector : Nat) : WordForm.Statement (.inv msg collector) :=
  wordForm_none rfl rfl
theorem WordForm.fwds (msg : LineMsg) (req : Nat) : WordForm.Statement (.fwds msg req) :=
  wordForm_none rfl rfl
theorem WordForm.fwdx (msg : LineMsg) (req : Nat) (ac : Nat) : WordForm.Statement (.fwdx msg req ac) :=
  wordForm_none rfl rfl
theorem WordForm.wbreq (msg : LineMsg) (inval : Bool) : WordForm.Statement (.wbreq msg inval) :=
  wordForm_none rfl rfl
theorem WordForm.data (line : Nat) (st : LineState) (ac : Nat) (dat : LineData) : WordForm.Statement (.data line st ac dat) :=
  wordForm_none rfl rfl
theorem WordForm.grant (line : Nat) (own : GrantWith) : WordForm.Statement (.grant line own) :=
  wordForm_none rfl rfl
theorem WordForm.invack (msg : LineMsg) : WordForm.Statement (.invack msg) :=
  wordForm_none rfl rfl
theorem WordForm.fwdack (msg : LineMsg) (dirty : Bool) (dat : LineData) : WordForm.Statement (.fwdack msg dirty dat) :=
  wordForm_none rfl rfl
theorem WordForm.fwddata (msg : LineMsg) (st : LineState) (ac : Nat) (dat : LineData) : WordForm.Statement (.fwddata msg st ac dat) :=
  wordForm_none rfl rfl
theorem WordForm.wback (line : Nat) : WordForm.Statement (.wback line) := wordForm_none rfl rfl
theorem WordForm.dirtyack (line : Nat) : WordForm.Statement (.dirtyack line) := wordForm_none rfl rfl
theorem WordForm.miss (msg : LineMsg) : WordForm.Statement (.miss msg) :=
  wordForm_none rfl rfl
theorem WordForm.refuse (line : Nat) : WordForm.Statement (.refuse line) := wordForm_none rfl rfl
theorem WordForm.poison (line : Nat) : WordForm.Statement (.poison line) := wordForm_none rfl rfl
theorem WordForm.submitDmwr (page : Nat) (rec : List (BitVec 64)) : WordForm.Statement (.submitDmwr page rec) :=
  wordForm_none rfl rfl
theorem WordForm.submitBadWrite (page : Nat) (wr : BadWrite) : WordForm.Statement (.submitBadWrite page wr) :=
  wordForm_none rfl rfl
theorem WordForm.uidb (handle : BitVec 32) (datum : BitVec 32) : WordForm.Statement (.uidb handle datum) :=
  wordForm_none rfl rfl
theorem WordForm.ogoDrain (core : Nat) (realm : Nat) (obj : Nat) : WordForm.Statement (.ogoDrain core realm obj) :=
  wordForm_none rfl rfl
theorem WordForm.ogoRelease (core : Nat) (realm : Nat) (obj : Nat) : WordForm.Statement (.ogoRelease core realm obj) :=
  wordForm_none rfl rfl
theorem WordForm.prgo (core : Nat) : WordForm.Statement (.prgo core) := wordForm_none rfl rfl
theorem WordForm.mcgo (core : Nat) : WordForm.Statement (.mcgo core) := wordForm_none rfl rfl
theorem WordForm.resume (wk : Nat) (mask : BitVec 32) : WordForm.Statement (.resume wk mask) := wordForm_none rfl rfl
theorem WordForm.forward (wk : Nat) (prv : Bool) : WordForm.Statement (.forward wk prv) := wordForm_none rfl rfl
theorem WordForm.kill (wk : Nat) : WordForm.Statement (.kill wk) := wordForm_none rfl rfl

end Sys2Proof.Laws
end

