-- ==== Sys2Proof/Tests/Slice0.lean ====
section
/-! SUPPORT. Tests: ill-formed terms are refused, words written out from the spec decode, small results worked by hand from the
spec's rules and examples, and for every statement states and operands that meet its hypotheses. -/

set_option maxRecDepth 20000

namespace Sys2Proof.Tests

open Sys2Proof Sys2Proof.Machine

/-! ### Building instructions and states -/

def uncond : Guard := ⟨false, false, 0⟩
/-- Instructions of the formats with the fields not named 0. -/
def base (d a b c : Byte) (md : BitVec 12 := 0) : BaseF := ⟨uncond, d, a, b, c, false, 0, md⟩
def immf (d a : Byte) (imm : BitVec 32) : ImmF := ⟨uncond, d, a, imm⟩
def jumpf (jd : Byte) (off : BitVec 32) : JumpF := ⟨uncond, jd, 0, off⟩
def memf (d a b : Byte) (sz : BitVec 3) (ord scope : BitVec 2 := 0) (imm : Byte := 0) : MemF :=
  ⟨uncond, d, a, b, sz, 0, 0, false, false, 0, ord, scope, imm⟩
def mxf (td a sb : Byte) (lr : BitVec 4) (md : BitVec 12 := 0) (cv : Bool := false) : MxF :=
  ⟨uncond, td, a, sb, lr, cv, 0, false, 0, false, md⟩
def shf (d a b c : Byte) (la lb : BitVec 4) (k cv : Bool := false) (ci : BitVec 3 := 0) : ShF :=
  ⟨uncond, d, a, b, c, k, 0, la, lb, cv, ci⟩
def syf (d a b c : Byte) (ord scope : BitVec 2 := 0) (cv : Bool := false) (ci : BitVec 3 := 0) (sub : BitVec 4 := 0) : SyF :=
  ⟨uncond, d, a, b, c, false, 0, ord, scope, cv, ci, sub⟩

/-- Right after reset, one team of one warp whose lane 0 is about to issue an instruction, with the g registers given. -/
def seat (i : Instr) (g : Tab Val := []) : State :=
  let s := State.reset.withFetchWord 64 (encode i).toNat
  { s.modLane 0 0 (fun l => { l with g := g }) with iq := [], cur := some (0, 0) }

/-- An untagged value in a g register. -/
def gi (n : Nat) (v : Word) : Nat × Val := (n, Val.int v)
/-- A reference in a g register. -/
def gr (n obj off : Nat) : Nat × Val := (n, ⟨refOf obj off, true⟩)

/-- The context in which an instruction issues, if it does. -/
def issued (s : State) (i : Instr) : Option Ctx :=
  match s.cur with
  | none => none
  | some e =>
    match sigOf i, (s.warp e.1).path e.2 with
    | some g, some b =>
      let act := (lanesOf b.lanes).filter fun l => guardOn s e.1 l g.fs.guard
      if b.outs = [] ∧ encodingFault s e.1 b i g = none ∧ act ≠ [] then some ⟨e.1, e.2, b, g, act, act⟩ else none
    | _, _ => none

theorem issued_issues {s : State} {i : Instr} {c : Ctx} (h : issued s i = some c) : Issues s i c := by
  unfold issued at h
  split at h
  · exact absurd h (by simp)
  · split at h
    · dsimp only at h
      split at h
      · cases h
        exact ⟨by assumption, by assumption, by assumption, by simp_all, by simp_all, rfl, rfl, by simp_all⟩
      · exact absurd h (by simp)
    · exact absurd h (by simp)

/-- The operands of a lane. -/
def srcs (s : State) (c : Ctx) (l : Nat) : Srcs := match readAll s c.wk l c.g with | .ok x => x | _ => ⟨[], [], [], []⟩

/-- Whether an instruction issues and its active lanes read their operands. -/
def starts (s : State) (i : Instr) : Bool :=
  match issued s i with
  | some c => c.active.all fun l => match readAll s c.wk l c.g with | .ok _ => true | _ => false
  | none => false

/-- What `starts` finds meets the hypotheses of every statement about an instruction that issues and reads its operands. -/
theorem starts_witness {s : State} {i : Instr} (h : starts s i = true) : ∃ c, Issues s i c ∧ Reads s c (srcs s c) := by
  unfold starts at h
  split at h
  · refine ⟨_, issued_issues (by assumption), fun l hl => ?_⟩
    have := List.all_eq_true.mp h l hl
    unfold srcs
    split at this
    · simp_all
    · exact absurd this (by simp)
  · exact absurd h (by simp)

/-- What an instruction gives in its state: the next state, if there is one. -/
def after (s : State) (i : Instr) : State := match exec i s with | .next t => t | _ => State.reset
/-- The newest entry of lane 0's queue. -/
def top (s : State) : Val := (s.lane 0 0).q.headD Val.zero
/-- The value that an instruction pushes in lane 0. -/
def result (i : Instr) (g : Tab Val := []) : Word := (top (after (seat i g) i)).bits
/-- The sticky flags that it raises there. -/
def raised (i : Instr) (g : Tab Val := []) : BitVec 7 := ((after (seat i g) i).lane 0 0).flags
/-- The trap that it takes there: cause and sub-cause of the trap record. -/
def trap (s : State) : Option (Nat × Byte) :=
  let r := (s.warp 0).trec
  if r.v then some (r.cause.toNat, r.sub) else none

/-- A turn of one lane. -/
theorem turns_one {c : Ctx} {s b : State} {R : Nat → State → State → Prop} {l : Nat} (hc : c.active = [l]) (h : R l s b) :
    Turns c s (fun k => if k = 0 then s else b) R := by
  refine ⟨rfl, fun k m hm => ?_⟩
  rw [hc] at hm
  match k, hm with
  | 0, hm => cases hm; exact h
  | k + 1, hm => simp at hm

/-- What a lane's access gives at once, if it does. -/
def acts {α : Type} (a : State) (wk l : Nat) (ref : Val) (off : Int) (size : Nat) (rights : List Nat) (align last : Nat)
    (act : State → Who → Place → Acc (Tried α)) : Option (State × α) :=
  if a.fails.find? (fun f => f.who == .lane wk l) = none then
    match checkRef a (wkCore wk) (a.teamOf wk).realm (a.teamOf wk).party (objOf ref.bits) ref.tag off size rights align last with
    | .ok a1 (.ok p) =>
      match act a1 (whoLane a wk l) p with
      | .ok a2 (some (.ok v)) => some (a2.unwait (.lane wk l), v)
      | _ => none
    | _ => none
  else none

theorem acts_acts {α : Type} {a b : State} {wk l : Nat} {ref : Val} {off : Int} {size : Nat} {rights : List Nat} {align last : Nat}
    {act : State → Who → Place → Acc (Tried α)} {v : α} (h : acts a wk l ref off size rights align last act = some (b, v)) :
    Acts a b wk l ref off size rights align last act v := by
  unfold acts at h
  split at h
  · refine ⟨by assumption, ?_⟩
    split at h
    · split at h
      · cases h
        exact ⟨_, _, _, by assumption, by assumption, rfl⟩
      · exact absurd h (by simp)
    · exact absurd h (by simp)
  · exact absurd h (by simp)

/-! ### Every instruction word issues somewhere

For every constructor that is a word, a word with its opcode that passes the encoding checks, in a state in which it issues and
reads its operands (`starts_witness`). -/

/-- Whether a word decodes, and its instruction issues and reads its operands. -/
def wordStarts (w : Word) : Bool := match decode w with | .ok i => starts (seat i) i | .error _ => false

/-- Group 0: mov, movi, movh, sel, add, sub, mul, mulh, mulhu, mad, div, divu, rem, remu, min, max, minu, maxu, abs, neg,
addi, shl, shr, sar, and, or, xor, not, andn, lea. -/
def words0 : List Word :=
  [0x0000000000000000, 0x0001000000000000, 0x0002000000000000, 0x0003000000000000, 0x0004000000000000,
   0x0005000000000000, 0x0006000000000000, 0x0007000000000000, 0x0008000000000000, 0x0009000000000000,
   0x000A000000000000, 0x000B000000000000, 0x000C000000000000, 0x000D000000000000, 0x000E000000000000,
   0x000F000000000000, 0x0010000000000000, 0x0011000000000000, 0x0012000000000000, 0x0013000000000000,
   0x0014000000000000, 0x0015000000000000, 0x0016000000000000, 0x0017000000000000, 0x0018000000000000,
   0x0019000000000000, 0x001A000000000000, 0x001B000000000000, 0x001C000000000000, 0x001D000000000000]
theorem test_group0_issues : words0.all wordStarts = true := by decide

/-- Group 1: popc, clz, ctz, brev, bswap, rol, ror, bfx, bfxu, bfi, lxPick, lxShf, lxRot, lxFlip, prdcOr, prdcAnd,
prdcMsk, eqmask, partm, wredAdd, wredMin, wredMax, wredAnd, wredOr, wredXor. -/
def words1 : List Word :=
  [0x0040000000000000, 0x0041000000000000, 0x0042000000000000, 0x0043000000000000, 0x0044000000000000,
   0x0045000000000000, 0x0046000000000000, 0x0047000000000000, 0x0048000000000000, 0x0049000000000000,
   0x004A000000000000, 0x004B000000000000, 0x004C000000000000, 0x004D000000000000, 0x004E000000000000,
   0x004F000000000000, 0x0050000000000000, 0x0051000000000000, 0x0052000000000000, 0x0053000000000000,
   0x0054000000000000, 0x0055000000000000, 0x0056000000000000, 0x0057000000000000, 0x0058000000000000]
theorem test_group1_issues : words1.all wordStarts = true := by decide

/-- Group 2: icmp, icmpu, tstb, pand, por, pxor, pnot, pmov, pset, pget. -/
def words2 : List Word :=
  [0x0080000000000000, 0x0081000000000000, 0x0082000000000000, 0x0083000000000000, 0x0084000000000000,
   0x0085000000000000, 0x0086000000000000, 0x0087000000000000, 0x0088000000000000, 0x0089000000000000]
theorem test_group2_issues : words2.all wordStarts = true := by decide

/-- Group 3: nop, yield, br, brx, call, callx, ret, unwind, exit, ldf, stf, frq. -/
def words3 : List Word :=
  [0x00C0000000000000, 0x00C1000000000000, 0x00C2000000000000, 0x00C3000000000000, 0x00C4440000000000,
   0x00C5000000000080, 0x00C6000000000000, 0x00C7440000000000, 0x00C8000000000000, 0x00C9000000000000,
   0x00CA000000000000, 0x00CB000000000000]
theorem test_group3_issues : words3.all wordStarts = true := by decide

/-- Group 4: fadd, fsub, fmul, ffma, fmin, fmax, fabs, fneg, fdiv, fsqrt, frcp, frsq, fcmp, fclass, padd2, psub2, pmul2,
pfma2, pmin2, pmax2. -/
def words4 : List Word :=
  [0x0100000000000000, 0x0101000000000000, 0x0102000000000000, 0x0103000000000000, 0x0104000000000000,
   0x0105000000000000, 0x0106000000000000, 0x0107000000000000, 0x0108000000000000, 0x0109000000000000,
   0x010A000000000000, 0x010B000000000000, 0x010C000000000000, 0x010D000000000000, 0x0110000000000001,
   0x0111000000000001, 0x0112000000000001, 0x0113000000000001, 0x0114000000000001, 0x0115000000000001]
theorem test_group4_issues : words4.all wordStarts = true := by decide

/-- Group 5: dadd, dsub, dmul, dfma, ddiv, dsqrt, dmin, dmax, dcmp, dclass, fexp2, flog2, fsin, fcos, ftanh, cvt, frnd. -/
def words5 : List Word :=
  [0x0140000000000000, 0x0141000000000000, 0x0142000000000000, 0x0143000000000000, 0x0144000000000000,
   0x0145000000000000, 0x0146000000000000, 0x0147000000000000, 0x0148000000000000, 0x0149000000000000,
   0x0150000000000000, 0x0151000000000000, 0x0152000000000000, 0x0153000000000000, 0x0154000000000000,
   0x0160000000000000, 0x0161000000000000]
theorem test_group5_issues : words5.all wordStarts = true := by decide

/-- Group 6: qnt, dqnt, bmrd, bmwr, amxrd, amxpsh, amxcmt, amxclr. -/
def words6 : List Word :=
  [0x0180000000000001, 0x0181000000000001, 0x0182000000000000, 0x0183000000000000, 0x0184000000000000,
   0x0185000000000000, 0x0186000000000000, 0x0187000000000000]
theorem test_group6_issues : words6.all wordStarts = true := by decide

/-- Group 7: ld, st, fld, spld, spst, pref. -/
def words7 : List Word :=
  [0x01C0440000000000, 0x01C1000000000000, 0x01C2440000600000, 0x01C3000000000000, 0x01C4000000000000,
   0x01C5000000000000]
theorem test_group7_issues : words7.all wordStarts = true := by decide

/-- Group 8: ldref, stref, rderive, refadd, rinfo, oalloc, ofree. -/
def words8 : List Word :=
  [0x0200440000600000, 0x0201440000600000, 0x0202000000000000, 0x0203000000000000, 0x0204000000000000,
   0x0205000000000000, 0x0206000000000000]
theorem test_group8_issues : words8.all wordStarts = true := by decide

/-- Group 9: atom, red, fence. -/
def words9 : List Word :=
  [0x0240000000000000, 0x0241000000000000, 0x0242000000000C00]
theorem test_group9_issues : words9.all wordStarts = true := by decide

/-- Group 10: mma, acz, acrd, acrdQ, acwr, acred, acscl. -/
def words10 : List Word :=
  [0x0280004400000010, 0x0281000000000000, 0x0282004400000000, 0x0283004400000001, 0x0284004400000000,
   0x0285000000000000, 0x0286000000000000]
theorem test_group10_issues : words10.all wordStarts = true := by decide

/-- Group 11: scpy, sgathSp, sgath, sscat, ssadd, sput, sfill, sqcp, lyset. -/
def words11 : List Word :=
  [0x02C0000000000000, 0x02C1000000000000, 0x02C1440000000000, 0x02C2000000000000, 0x02C3000000000000,
   0x02C4000000000000, 0x02C5000000000000, 0x02C6000000000000, 0x02C7000000000000]
theorem test_group11_issues : words11.all wordStarts = true := by decide

/-- Group 12: bar, bara, sharr, sharrInit, shwait, cwait, mwait, pub, pubw, launch, launchi, hcall, hcallNb, uintr. -/
def words12 : List Word :=
  [0x0300000000000000, 0x0301000000000000, 0x0302000000000000, 0x0302000000000001, 0x0303000000000000,
   0x0304000000000080, 0x0305541430310501, 0x0306000000000100, 0x0307000000000100, 0x0308000000000000,
   0x0309000000000000, 0x030A440000000000, 0x030B000000000000, 0x030C000000000000]
theorem test_group12_issues : words12.all wordStarts = true := by decide

/-- Group 13: srd, swr, trap, tfence, rft, park, clrpsn. -/
def words13 : List Word :=
  [0x0340000000000000, 0x0341000000000000, 0x0342000000000001, 0x0343000000000000, 0x0344000000000000,
   0x0345000000000000, 0x0346000000000000]
theorem test_group13_issues : words13.all wordStarts = true := by decide

/-! ### Ill-formed terms are refused -/

/-- A step that has no word is no well-formed instruction word. -/
theorem test_wf_no_word : Instr.wf (.powerOn) = false := by decide
/-- SGATH's register form asks for K 0 and a destination (R262). -/
theorem test_wf_form : Instr.wf (.sgath (shf 0 0x10 0 0 0 0)) = false := by decide
/-- A reserved bit set (R124, RESERVED). -/
theorem test_wf_reserved : Instr.wf (.exit (base 0 0 0 0 1)) = false := by decide
/-- A destination that is no register (R119, DEST). -/
theorem test_wf_dest : Instr.wf (.movi (immf 0x30 0 0)) = false := by decide
/-- An odd frame register for a 64-bit source (R121, OPERAND). -/
theorem test_wf_operand : Instr.wf (.add (base 0 0x41 0x44 0 1)) = false := by decide
/-- A word that passes them all. -/
theorem test_wf_good : Instr.wf (.add (base 0 0x42 0x44 0 1)) = true := by decide

/-! ### Words written out from the spec's encodings -/

theorem test_decode_add : decode 0x00044C4C31000000 = .ok (.add (base 0x4C 0x4C 0x31 0)) := by decide
theorem test_decode_movi : decode 0x000148000000001D = .ok (.movi (immf 0x48 0 0x1D)) := by decide
theorem test_decode_icmp : decode 0x008012443600000A = .ok (.icmp (base 0x12 0x44 0x36 0 0x00A)) := by decide
theorem test_decode_br :
    decode 0x84C20000FFFFFFE0 = .ok (.br { jumpf 0 0xFFFFFFE0 with guard := ⟨true, false, 1⟩ }) := by decide
theorem test_decode_call :
    decode 0x84C40D00000000F0 = .ok (.call { jumpf 0x0D 0xF0 with guard := ⟨true, false, 1⟩ }) := by decide
theorem test_decode_exit : decode 0x00C8000000000000 = .ok (.exit (base 0 0 0 0)) := by decide
theorem test_decode_fadd : decode 0x01004A4849000000 = .ok (.fadd (base 0x4A 0x48 0x49 0)) := by decide
theorem test_decode_qnt : decode 0x01805E424A050101 = .ok (.qnt (base 0x5E 0x42 0x4A 5 0x101)) := by decide
theorem test_decode_ld : decode 0x01C0541248780002 = .ok (.ld { memf 0x54 0x12 0x48 3 (imm := 2) with sc := 3 }) := by decide
theorem test_decode_mma : decode 0x0280036872290008 = .ok (.mma { mxf 3 0x68 0x72 2 8 true with ci := 1 }) := by decide
theorem test_decode_acz : decode 0x0281030000090000 = .ok (.acz { mxf 3 0 0 0 0 true with ci := 1 }) := by decide
theorem test_decode_acred : decode 0x028503007C000001 = .ok (.acred (mxf 3 0 0x7C 0 1)) := by decide
theorem test_decode_acrdq : decode 0x0283038007000001 = .ok (.acrdQ (mxf 3 0x80 7 0 1)) := by decide
theorem test_decode_sput : decode 0x02C4001431010118 = .ok (.sput (shf 0 0x14 0x31 1 1 1 (cv := true))) := by decide
theorem test_decode_mwait : decode 0x0305541430310501 = .ok (.mwait (syf 0x54 0x14 0x30 0x31 1 1 (sub := 1))) := by decide
theorem test_decode_pubw : decode 0x0307001300000100 = .ok (.pubw (syf 0 0x13 0 0 0 1)) := by decide
theorem test_decode_srd : decode 0x03405E0000000000 = .ok (.srd (base 0x5E 0 0 0)) := by decide
theorem test_decode_rft : decode 0x0344003F00000000 = .ok (.rft (base 0 0x3F 0 0)) := by decide
/-- A reserved opcode is rejected by name (R126). -/
theorem test_decode_reserved_opcode : decode 0x03FF000000000000 = .error .opcode := by decide
/-- The bytes of a word stand in ascending addresses, the least significant first (R5). -/
theorem test_decode_bytes : decodeTableWord 64 0x00C8000000000000 = some (.exit (base 0 0 0 0)) := by decide
/-- A step runs the word that `withFetchWord` lays before it. -/
theorem test_fetch_word :
    (match step (State.reset.withFetchWord 64 0x0001000080000000) with | .next t => (top t).bits | _ => 0)
      = 0xFFFFFFFF80000000 := by decide

/-! ### Results worked by hand -/

/-- R161's example: the immediate is sign-extended. -/
theorem test_movi : result (.movi (immf 0 0 0x80000000)) = 0xFFFFFFFF80000000 := by decide
/-- R161's example, second line. -/
theorem test_movh : result (.movh (immf 0 0x13 1)) [gi 3 0xFFFFFFFF80000000] = 0x0000000180000000 := by decide
/-- A 32-bit sum wraps (R159). -/
theorem test_add_wraps : result (.add (base 0 0x10 0x11 0)) [gi 0 0xFFFFFFFF, gi 1 2] = 1 := by decide
/-- −7 / 2 truncates toward zero (R160). -/
theorem test_div_truncates : result (.div (base 0 0x10 0x11 0 1)) [gi 0 (-7), gi 1 2] = -3 := by decide
/-- A zero divisor gives all ones and IOV (R160). -/
theorem test_div_zero : result (.div (base 0 0x10 0x11 0 1)) [gi 0 5] = -1
    ∧ raised (.div (base 0 0x10 0x11 0 1)) [gi 0 5] = flagIOV := by decide
/-- The most negative number over −1 (R160). -/
theorem test_rem_overflow : result (.rem (base 0 0x10 0x11 0 1)) [gi 0 (1 <<< 63), gi 1 (-1)] = 0
    ∧ raised (.rem (base 0 0x10 0x11 0 1)) [gi 0 (1 <<< 63), gi 1 (-1)] = flagIOV := by decide
/-- R163's example. -/
theorem test_bfx : result (.bfx (base 0 0x10 0x11 0 1)) [gi 0 0xA50000, gi 1 0x0810] = 0xFFFFFFFFFFFFFFA5 := by decide
theorem test_bfxu : result (.bfxu (base 0 0x10 0x11 0 1)) [gi 0 0xA50000, gi 1 0x0810] = 0xA5 := by decide
/-- CLZ counts the width where there is no 1 bit (R162). -/
theorem test_clz_zero : result (.clz (base 0 0x10 0 0)) [gi 0 0xFF00000000] = 32 := by decide
theorem test_bswap : result (.bswap (base 0 0x10 0 0)) [gi 0 0x11223344] = 0x44332211 := by decide
/-- 1.5 + 2.25 = 3.75 in FP32. -/
theorem test_fadd : result (.fadd (base 0 0x10 0x11 0)) [gi 0 0x3FC00000, gi 1 0x40100000] = 0x40700000 := by decide
/-- ∞ − ∞ is the canonical NaN and NV (R178). -/
theorem test_fsub_invalid : result (.fsub (base 0 0x10 0x11 0)) [gi 0 0x7F800000, gi 1 0x7F800000] = 0x7FC00000
    ∧ raised (.fsub (base 0 0x10 0x11 0)) [gi 0 0x7F800000, gi 1 0x7F800000] = flagNV := by decide
/-- 1/3 is inexact and rounds to nearest (R47). -/
theorem test_fdiv : result (.fdiv (base 0 0x10 0x11 0)) [gi 0 0x3F800000, gi 1 0x40400000] = 0x3EAAAAAB
    ∧ raised (.fdiv (base 0 0x10 0x11 0)) [gi 0 0x3F800000, gi 1 0x40400000] = flagNX := by decide
/-- One NaN gives the other operand (R179). -/
theorem test_fmin_nan : result (.fmin (base 0 0x10 0x11 0)) [gi 0 0x7FC00000, gi 1 0x40400000] = 0x40400000 := by decide
/-- The root of 9 is 3. -/
theorem test_fsqrt : result (.fsqrt (base 0 0x10 0 0)) [gi 0 0x41100000] = 0x40400000 := by decide
/-- FNEG changes only the sign, of a NaN too, and raises nothing (R180). -/
theorem test_fneg_nan : result (.fneg (base 0 0x10 0 0)) [gi 0 0x7F800001] = 0xFF800001
    ∧ raised (.fneg (base 0 0x10 0 0)) [gi 0 0x7F800001] = 0 := by decide
/-- R183's example: two halves. -/
theorem test_padd2 : result (.padd2 (base 0 0x10 0x11 0 1)) [gi 0 0x3C004000, gi 1 0x3C003C00] = 0x40004200 := by decide
/-- R49's example: 0.3 converted to E4M3 rounds to 0.3125 with NX. -/
theorem test_cvt_e4m3 : result (.cvt (base 0 0x10 0 0 0x40)) [gi 0 0x3E99999A] = 0x2A
    ∧ raised (.cvt (base 0 0x10 0 0 0x40)) [gi 0 0x3E99999A] = flagNX := by decide
/-- ICMP.lt of −1 and 0 writes p1 true and p2 false (R168, R169). -/
theorem test_icmp_lt : (let t := after (seat (.icmp (base 0x12 0x10 0x11 0 0x004)) [gi 0 (-1)]) (.icmp (base 0x12 0x10 0x11 0 0x004))
    ((t.lane 0 0).getP 1, (t.lane 0 0).getP 2)) = (true, false) := by decide
/-- PNOT complements (R170). -/
theorem test_pnot : ((after (seat (.pnot (base 3 2 0 0))) (.pnot (base 3 2 0 0))).lane 0 0).getP 3 = true := by decide

/-! ### An object in the caches -/

/-- The entry of object 5 of realm 1: 4,096 bytes at local 0x10000, all rights, open to the team with handle 1 alone (R18). -/
def entry (num : Nat) (vis : Nat := 0) (rights : Nat := 0x3F) (own : Nat := 1) : OcEntry :=
  ⟨1, num, [BitVec.ofNat 64 (2 ^ 63 + vis * 2 ^ 60 + rights * 2 ^ 54 + 4095), BitVec.ofNat 64 (own * 2 ^ 32),
    BitVec.ofNat 64 (0x10000 * (num - 4)), 0], false⟩
/-- The first line of object 5 in L1; its bytes rise from 0. -/
def l1line (num : Nat := 5) (pub : Bool := false) : L1Line :=
  { realm := 1, obj := num, line := 512 * (num - 4), pub := pub, base := 0x10000 * (num - 4)
    data := { lineCleared with bytes := (List.range 128).map (BitVec.ofNat 8) }, dirty := 0, tdirty := 0, mdirty := 0 }
/-- Objects 5 (the own of one team) and 6 (open to the system) in the caches of core 0. -/
def withObj (s : State) : State := s.modCore 0 fun c => { c with ocbase := 1, oc := [entry 5, entry 6 3], l1 := [l1line, l1line 6 true] }

/-- Tables in memory (R15–R18): OCBASE 0, realm 1's level-1 table at 0x2000, its first level-2 table at 0x4000, with the entries of
objects 5 and 6. -/
def withTables (s : State) : State :=
  let put (m : Mem) (a : Nat) (ws : List Word) : Mem := m.write a (ws.flatMap fun w => bytesLE 8 w.toNat)
  let m := put (put (put (put s.hbm 16 [0, BitVec.ofNat 64 (2 ^ 63 + 0x2000)]) 0x2000 [BitVec.ofNat 64 (2 ^ 63 + 0x4000)])
    0x40A0 (entry 5).dws) 0x40C0 (entry 6 3).dws
  { s.modCore 0 (fun c => { c with ocbase := 1 }) with hbm := m }

def seatM (i : Instr) (g : Tab Val := [gr 0 5 0]) : State := withObj (seat i g)

/-- A lane that is about to issue NOP, with those objects. -/
def memS : State := seatM (.nop (base 0 0 0 0))

/-! ### Witnesses: loads, stores, references and atomics

In each, the instruction issues and reads its operands (`starts_witness`), it has one active lane (`turns_one`), and that lane's
access is performed (`acts_acts`). -/

/-- Whether an access of lane 0 to offset `off` of object `num` is performed. -/
def hit {α : Type} (s : State) (num : Nat) (off : Int) (n : Nat) (rights : List Nat) (align last : Nat)
    (act : State → Who → Place → Acc (Tried α)) : Bool := (acts s 0 0 ⟨refOf num 0, true⟩ off n rights align last act).isSome

def ldI : MemF := memf 0x44 0x10 0x11 3
theorem witness_ld : starts (seatM (.ld ldI)) (.ld ldI) = true ∧ ldI.ord ≠ 1
    ∧ hit (seatM (.ld ldI)) 5 0 8 [rR] 8 9 (fun st _ p => .ok st (some (.ok p))) = true := by decide
def ldAcq : MemF := memf 0x44 0x10 0x11 3 1 1
theorem witness_ld_acquire : starts (seatM (.ld ldAcq)) (.ld ldAcq) = true ∧ ldAcq.ord = 1
    ∧ hit (seatM (.ld ldAcq)) 5 0 8 [rR] 8 9 (fun st h p =>
        if anyEmpty st 0 0 (regRange 4 2) then .ok st none else readAct 0 0 8 true 1 st h p) = true := by decide
def fldI : MemF := { memf 0x54 0x10 0x11 3 with sc := 0 }
theorem witness_fld : starts (seatM (.fld fldI)) (.fld fldI) = true
    ∧ hit (seatM (.fld fldI)) 5 0 8 [rR, rNC] 8 9 (fun st _ p => .ok st (some (.ok p))) = true := by decide
/-- The last 8 bytes of the object. -/
def stI : MemF := memf 0x44 0x10 0x11 3
theorem witness_st : starts (seatM (.st stI) [gr 0 5 0, gi 1 120]) (.st stI) = true
    ∧ hit (seatM (.st stI)) 5 120 8 [rW] 8 9 (storeAct 0 0 0 false (storeBytes 8 [Val.int 7]) false) = true := by decide
theorem witness_pref : starts (seatM (.pref (memf 0 0x10 0x11 0))) (.pref (memf 0 0x10 0x11 0)) = true := by decide
def ldrefI : MemF := memf 0x44 0x10 0x11 3
theorem witness_ldref : starts (seatM (.ldref ldrefI)) (.ldref ldrefI) = true
    ∧ hit (seatM (.ldref ldrefI)) 5 0 8 [rR, rRL] 8 9 (ldrefAct 0 0 4 false 0 fun sub => refFault .escape sub 0 0) = true := by decide
theorem witness_stref : starts (seatM (.stref ldrefI)) (.stref ldrefI) = true
    ∧ hit (seatM (.stref ldrefI)) 5 0 8 [rW, rRS] 8 9 (strefAct 0 0 0 false ⟨refOf 5 0, true⟩ fun c sub => refFault c sub 0 0)
      = true := by decide
theorem witness_rinfo_tag : starts (seatM (.rinfo (base 0 0x10 0 0 3))) (.rinfo (base 0 0x10 0 0 3)) = true
    ∧ 3 ≤ bits (3#12) 2 0 ∧ bits (5#12) 2 0 ≤ 5 := by decide
theorem witness_rinfo_length : starts (seatM (.rinfo (base 0 0x10 0 0))) (.rinfo (base 0 0x10 0 0)) = true
    ∧ hit (seatM (.rinfo (base 0 0x10 0 0))) 5 0 0 [] 0 5 (fun st _ p => .ok st (some (.ok p))) = true := by decide
def atomI : SyF := syf 0 0x10 0x11 0x12 (sub := 8)
theorem witness_atom : starts (seatM (.atom atomI)) (.atom atomI) = true
    ∧ hit (seatM (.atom atomI)) 5 8 8 [rR, rW] 8 9 (atomAct 0 0 8 false false 0 fun o => atomBytes true 0 o 1 0) = true := by decide
theorem witness_red : starts (seatM (.red (syf 0 0x10 0x11 0x12))) (.red (syf 0 0x10 0x11 0x12)) = true
    ∧ hit (seatM (.red (syf 0 0x10 0x11 0x12))) 5 124 4 [rR, rW] 4 9 (atomAct 0 0 4 false false 0 fun o => atomBytes false 0 o 1 0)
      = true := by decide
theorem witness_fence : starts (seatM (.fence (syf 0 0 0 0 3 1))) (.fence (syf 0 0 0 0 3 1)) = true
    ∧ (fenceLane true true 1 (seatM (.fence (syf 0 0 0 0 3 1))) 0 0).2 = some (.ok ()) := by decide
theorem witness_clrpsn : starts (seatM (.clrpsn (base 0 0x10 0 0))) (.clrpsn (base 0 0x10 0 0)) = true
    ∧ (laneAccess (seatM (.clrpsn (base 0 0x10 0 0))) 0 0 ⟨refOf 5 128, true⟩ 128 128 [rW] 0 9 clrpAct).2 = some (.ok ())
    ∧ (128 % 128 = 0) := by decide
/-- In an ordinary lane its encoding check fails. -/
theorem witness_clrpsn_priv : ∃ l ∈ lanesOf 1, ((seat (.nop (base 0 0 0 0))).lane 0 l).pv = false := by decide
theorem witness_clrp_line : (0 : Nat) / 2 ^ 33 = (seat (.nop (base 0 0 0 0))).pkg.agent
    ∧ ((seat (.nop (base 0 0 0 0))).setDir 0 3).dir 0 = 3 := by decide

/-- The last byte of the object: `Allowed` (AccessChecks). -/
theorem witness_allowed : Allowed memS 0 0 ⟨refOf 5 4095, true⟩ 4095 1 [rR, rW] 1
    ⟨entry 5, entry 5, 4095, 0x10FFF⟩ :=
  ⟨by decide, rfl, by decide, rfl, rfl, rfl, by decide, by decide, by decide, by decide, by decide, by decide, by decide, rfl, rfl, by decide,
    by decide, by decide, rfl⟩
/-- The refusals of AccessChecks: the world, the visibility, the rights and the bounds at the object's end. -/
theorem witness_refusals : (⟨1, 5, [2 ^ 62, 0, 0, 0], true⟩ : OcEntry).wld = true
    ∧ visFault memS ⟨false, some 2⟩ (entry 5) = some 1
    ∧ visFault memS ⟨false, some 1⟩ (entry 5) = none
    ∧ (entry 5 0 0).has rR = false ∧ (entry 5).has rR = true ∧ ((entry 5).len : Int) < 4092 + 8
    ∧ (entry 5).view = false ∧ 4092 % 8 ≠ 0 := by decide
/-- RightsAndVisibility: every visibility, and NOREF. -/
theorem witness_visibility : (entry 5).vis = 0 ∧ (entry 5 1).vis = 1 ∧ (entry 5 2).vis = 2 ∧ (entry 5 3).vis = 3
    ∧ (⟨1, 5, [2 ^ 53], false⟩ : OcEntry).noref = true ∧ rR ≠ rRS ∧ rR ≠ rRL := by decide

/-- The last four bytes of a line that stands in L1 (CachedLineAccess, StoreFrame, AtomicOperations). -/
theorem witness_hits : Hits memS 0 0 ⟨1, 5, false, 0x10000⟩ 0x1007C 4 l1line
    ∧ Hits memS 0 0 ⟨1, 5, false, 0x10000⟩ 0x10078 8 l1line ∧ 0x10078 % 8 = 0
    ∧ (memS.teamOf 0).spill = none :=
  ⟨⟨rfl, by decide, by decide, by decide, by decide, rfl, by decide, by decide⟩,
    ⟨rfl, by decide, by decide, by decide, by decide, rfl, by decide, by decide⟩, by decide, rfl⟩
theorem witness_store_frame : l1line.data.bytes.length = 128 ∧ ((memS.core 0).l1).Nodup
    ∧ (∀ x ∈ (memS.core 0).l1, isL1 ⟨1, 5, false, 0x10000⟩ (0x1007C / 128) x = true → x = l1line)
    ∧ (⟨1, 5, false, 0x10000⟩ : Key) = ⟨l1line.realm, l1line.obj, l1line.pub, l1line.base⟩ ∧ l1line.line = 0x1007C / 128 := by decide

/-- StoreReferenceRule: a plain word; a reference to an object as wide, to a narrower one with and without IMPLICIT, and to one that
the team cannot see, into the published object 6. -/
def place6 : Place := ⟨entry 6 3, entry 6 3, 0, 0x20000⟩
theorem witness_stref_rule : laneWalk memS 0 0 = none ∧ place6.pub = true
    ∧ (entry 5).vis < place6.top.vis ∧ place6.top.vis ≤ (entry 6 3).vis
    ∧ (memS.teamOf 0).imp = false
    ∧ ((memS.modTeam 0 fun t => { t with imp := true }).teamOf 0).imp = true
    ∧ (match targetOf memS 0 (memS.teamOf 0) 5 with | .ok _ (some (none, e)) => decide (e = entry 5) | _ => false) = true
    ∧ (match targetOf (withTables memS) 0 { memS.teamOf 0 with handle := 2 } 5 with | .ok _ (some (some _, _)) => true | _ => false)
      = true := by decide

/-! Results of memory instructions -/

/-- A store, then its bytes in the line (R221, little-endian). -/
theorem test_st_bytes : (let s := seatM (.st stI) [gr 0 5 0, gi 1 120]
    let t := after s (.st stI)
    (((t.l1Find 0 ⟨1, 5, false, 0x10000⟩ 512).map fun e => e.data.bytes.drop 118).getD [])) = [118, 119, 0, 0, 0, 0, 0, 0, 0, 0] := by decide
/-- A deferred load empties its registers (R142). -/
theorem test_ld_empties : ((after (seatM (.ld ldI)) (.ld ldI)).frameOf 0 0).reg 4 0 = ⟨0, .empty⟩ := by decide
/-- An atomic ADD gives the old value (R291): bytes 8 to 15 of the line. -/
theorem test_atom_old : (top (after (seatM (.atom { atomI with a := 0x10, b := 0x11 }) [gr 0 5 0, gi 1 8]) (.atom atomI))).bits
    = 0x0F0E0D0C0B0A0908 := by decide
/-- An untagged value used as a reference (R25, UNTAGGED): MEMORY, 2. -/
theorem test_ld_untagged : trap (after (seatM (.ld ldI) [gi 0 (refOf 5 0)]) (.ld ldI)) = some (2, 2) := by decide

/-! ### Witnesses: arithmetic statements -/

/-- DivisionResults, BitFieldResults, CompareResults: the corners of their functions. -/
theorem witness_integer_corners : (0 < 32) ∧ (0#32 = 0) ∧ (5#32 ≠ 0) ∧ ¬ (5#32 = BitVec.intMin 32 ∧ 2#32 = BitVec.allOnes 32)
    ∧ BitVec.intMin 32 = 0x80000000#32 ∧ 0xFFFFFFFF#32 = BitVec.allOnes 32 ∧ (1#32 ≠ 0) ∧ 7 < 8 := by decide
/-- SignBitOnly and FloatClass: a word with RM or SAT set. -/
theorem witness_float_rm : rmOf (base 0 0x10 0 0 0x200) ≠ 0 ∧ staticCheck (.fabs (base 0 0x10 0 0 0x010)) = some 5
    ∧ staticCheck (.fclass (base 0 0x10 0 0 0x200)) = some 5 := by decide
/-- MinMaxRules: a signalling and a quiet NaN, two numbers in either order, and the two zeros. -/
theorem witness_minmax : (decodeF fFP32 0x7F800001).isSig = true ∧ (decodeF fFP32 0x7FC00000).isNaN = true
    ∧ (decodeF fFP32 0x3F800000).isNaN = false ∧ cmpFV (decodeF fFP32 0x3F800000) (decodeF fFP32 0x40000000) < 0
    ∧ 0 < cmpFV (decodeF fFP32 0x40000000) (decodeF fFP32 0x3F800000)
    ∧ cmpFV (decodeF fFP32 0x80000000) (decodeF fFP32 0) = 0 ∧ (decodeF fFP32 0x80000000).neg = true
    ∧ (decodeF fFP32 0).neg = false := by decide
/-- RoundingModes: exact, below the tie, above it and the tie; InvalidOperations: a mantissa that is not 0. -/
theorem witness_rounding : 4 % 2 ^ 2 = 0 ∧ (5 % 2 ^ 2 ≠ 0 ∧ 2 * (5 % 2 ^ 2) < 2 ^ 2) ∧ 2 ^ 2 < 2 * (7 % 2 ^ 2)
    ∧ 2 * (6 % 2 ^ 2) = 2 ^ 2 ∧ (1 : Nat) ≠ 0 := by decide

/-! ### Witnesses: the end of an instruction, control and traps -/

def nop : Instr := .nop (base 0 0 0 0)
def addI : Instr := .add (base 0x48 0x10 0x11 0)

/-- ResultsReachTheirDestination, InstructionFrame, ControlResults: an ADD into f8 in lane 0 of a bundle of one clause. -/
theorem witness_end : (match issued (seat addI) addI with
    | some c => decide (c.active.Nodup ∧ (∀ l ∈ c.active, l < 32) ∧ (∀ l ∈ c.active, l ∈ lanesOf c.b.lanes)
        ∧ ((seat addI).warp c.wk).step = false ∧ c.b.moved = [] ∧ c.b.words.length ≤ c.b.idx + 1)
    | none => false) = true := by decide
/-- The same for a destination in g: its code. -/
theorem witness_end_codes : (0x10 ≤ 0x3F ∧ 0x3F < 0x40) ∧ 0x40 ≤ 0x48 := by decide

/-- GuardFalseEverywhere: a guard on p1, which is false, before another word of the clause. -/
def guarded : Instr := .nop { base 0 0 0 0 with guard := ⟨true, false, 1⟩ }
def guardedS : State := (seat guarded).modWarp 0 fun w =>
  { w with path0 := w.path0.map fun b => { b with words := b.words ++ [encode nop] } }
theorem witness_guard_false : guardedS.cur = some (0, 0) ∧ (sigOf guarded).isSome = true
    ∧ (match (guardedS.warp 0).path 0, sigOf guarded with
        | some b, some g => decide (encodingFault guardedS 0 b guarded g = none ∧ b.lanes ≠ 0 ∧ b.idx + 1 < b.words.length
            ∧ ∀ l ∈ lanesOf b.lanes, guardOn guardedS 0 l g.fs.guard = false)
        | _, _ => false) = true := by decide

/-- ControlResults: branches to the last dword below 2^40 counted from 0, back before 0 and beyond. -/
theorem witness_branch : starts (seat (.br (jumpf 0 8))) (.br (jumpf 0 8)) = true
    ∧ (0 : Int) ≤ 8 + 8 ∧ (8 : Int) + (0xFFFFFFE0#32).toInt < 0 ∧ (2 : Int) ^ 40 ≤ 2 ^ 40 - 8 + 8 := by decide

/-- EncodingFaultTraps: a word with a reserved bit. -/
theorem witness_encoding_fault : (let i : Instr := .exit (base 0 0 0 0 1)
    let s := seat i
    match (s.warp 0).path 0, sigOf i with
    | some b, some g => decide (s.cur = some (0, 0) ∧ encodingFault s 0 b i g = some 5)
    | _, _ => false) = true := by decide

/-- A warp of three running lanes. -/
def three : State := ((seat nop).modLane 0 1 fun _ => hostLane 0).modLane 0 2 fun _ => hostLane 0
/-- TrapEntry: lanes 0 and 2 with one fault, lane 1 with another. -/
theorem witness_trap_entry :
    ([(0, flt .memory 6), (1, flt .operand 7), (2, flt .memory 6)] : List (Nat × LaneFault)).Pairwise (fun a b => a.1 < b.1)
    ∧ (∀ e ∈ [0, 1, 2], e < 32 ∧ (three.lane 0 e).h = false) ∧ (three.warp 0).trec.v = false
    ∧ (flt .memory 6).cause.parks = true ∧ (flt .operand 7).cause.parks = false := by decide
/-- TrapEntry: a lane that faults while V is 1, and one that faults in a handler. -/
theorem witness_nested : ((three.modWarp 0 fun w => { w with trec := { w.trec with v := true } }).warp 0).trec.v = true
    ∧ (three.lane 0 1).h = false ∧ ((three.modLane 0 1 fun l => { l with h := true }).lane 0 1).h = true := by decide

/-- TrapInstructions: TFENCE with a flag that the team enables, and without. -/
theorem witness_tfence : starts (seat (.tfence (base 0 0 0 0))) (.tfence (base 0 0 0 0)) = true
    ∧ ((seat nop).lane 0 0).flags &&& ((seat nop).teamOf 0).tmask = 0 := by decide
theorem witness_static : (base 0 0 0 0 0).md.extractLsb' 0 8 = (0 : Byte) ∧ (base 1 0 0 0).d ≠ 0 ∧ (base 0 0 0 0 1).md ≠ 0 := by
  decide
/-- In a handler, RFT with lane 0 in its mask; a trap record with no lane left in a handler. -/
def rftI : Instr := .rft (base 0 0x10 0 0)
def inHandler (s : State) : State := s.modLane 0 0 fun l => { l with h := true, rpc := ⟨7, 64⟩, rix := 2 }
theorem witness_rft : (match issued (inHandler (seat rftI [gi 0 1])) rftI with
    | some c => (match read32 (inHandler (seat rftI [gi 0 1])) 0 0 c.g.fs.a c.g.fs.btA with
        | .ok m => decide (m = Val.int 1 ∧ ∀ l ∈ c.active, ((inHandler (seat rftI [gi 0 1])).lane 0 l).h = true)
        | _ => false)
    | none => false) = true := by decide
theorem witness_settle : (let s := three.modWarp 0 fun w => { w with trec := { w.trec with v := true, lmask := 2 } }
    decide ((s.warp 0).trec.v = true ∧ ∀ l ∈ List.range 32, (s.lane 0 l).h = false
      ∧ ¬ ((s.warp 0).trec.lmask.getLsbD l = true ∧ (s.lane 0 l).st = .parked false))) = true
    ∧ ((inHandler three).lane 0 0).h = true := by decide
/-- RFT resumes where RPC and RIX say (R379). -/
theorem test_rft_resumes : (let t := after (inHandler (seat rftI [gi 0 1])) rftI
    ((t.lane 0 0).pc, (t.lane 0 0).cix, (t.lane 0 0).h, (t.lane 0 0).st)) = (⟨7, 64⟩, 2, false, .run) := by decide
/-- TRAP raises SOFTWARE with its code (R378). -/
theorem test_trap_code : trap (after (seat (.trap (base 0 0 0 0 5))) (.trap (base 0 0 0 0 5))) = some (8, 5) := by decide
/-- SWR of OCBASE is ILLEGAL, PRIV (R15). -/
theorem test_swr_ocbase : trap (after (seat (.swr (base 0 0x10 0 0 0x30))) (.swr (base 0 0x10 0 0 0x30))) = some (0, 4) := by decide

/-- ControlRegisters: an open register, and RPC in and outside a handler. -/
theorem witness_control_registers : handlerOnly (bits (0#12) 7 0) = false ∧ handlerOnly (bits (3#12) 7 0) = true
    ∧ starts (inHandler (seat (.srd (base 0 0 0 0 3)))) (.srd (base 0 0 0 0 3)) = true
    ∧ ((inHandler (seat nop)).lane 0 0).h = true ∧ ((seat nop).lane 0 0).h = false
    ∧ starts (inHandler (seat (.swr (base 0 0x10 0 0 3)) [gi 0 64])) (.swr (base 0 0x10 0 0 3)) = true
    ∧ (64 : Word).extractLsb' 0 3 = 0 ∧ bits (0x30#12) 7 0 = 0x30 ∧ bits (0x31#12) 7 0 = 0x31 := by decide

/-! ### Witnesses: scratchpad, blocks and rings -/

/-- ScratchResults: the last eight bytes of the scratchpad, and a block at its end. -/
theorem witness_scratch : starts (seat (.spld (memf 0x44 0x10 0x11 3)) [gi 0 0xBFFF8]) (.spld (memf 0x44 0x10 0x11 3)) = true
    ∧ (let sz := ((seat nop).team ((seat nop).warp 0).team).scrk * 1024
       (0xBFFF8 : Int) + 8 ≤ (sz : Nat) ∧ (0xBFFF8 : Int) % 8 = 0 ∧ (0xBFFC0 : Int) + 64 ≤ (sz : Nat) ∧ (0xBFFC0 : Int) % 64 = 0)
    ∧ starts (seat (.bmwr (base 0 0x10 0x11 0)) [gi 0 0xBFFC0]) (.bmwr (base 0 0x10 0x11 0)) = true
    ∧ ([1] : List Byte) ≠ [] := by decide
/-- A block of a quantised instruction of lane 0, free rings, and a FIX scale in C. -/
def qntI : BaseF := base 0 0x10 0x11 5 0x101
theorem witness_qnt : (match issued (seat (.qnt qntI) [gi 0 0x40]) (.qnt qntI) with
    | some c => (match read32 (seat (.qnt qntI) [gi 0 0x40]) 0 0 c.g.fs.a c.g.fs.btA with
        | .ok v => decide (v = Val.int 0x40 ∧ qntI.md.getLsbD 7 = false ∧ (seat (.qnt qntI)).ringBusy 0 5 = false)
        | _ => false)
      && (match readAll (seat (.qnt qntI) [gi 0 0x40]) 0 0 { c.g with a := .none, c := .none } with | .ok _ => true | _ => false)
    | none => false) = true := by decide
def qntFix : BaseF := base 0 0x10 0x11 0x12 0x181
theorem witness_qnt_fix : (match issued (seat (.qnt qntFix) [gi 2 0xFF]) (.qnt qntFix) with
    | some c => (match read32 (seat (.qnt qntFix) [gi 2 0xFF]) 0 0 c.g.fs.c c.g.fs.btC with
        | .ok v => decide (qntFix.md.getLsbD 7 = true ∧ v.bits.toNat % 256 = 0xFF)
        | _ => false)
    | none => false) = true := by decide
theorem witness_dqnt : starts (seat (.dqnt (base 0 0x10 0 0 1))) (.dqnt (base 0 0x10 0 0 1)) = true := by decide
/-- AmaxCommit: a ring with a pending maximum, and an empty one. -/
theorem witness_amax : (Amax.reset.record 5).pv = true ∧ Amax.reset.pv = false ∧ (seat nop).ringBusy 0 63 = false
    ∧ starts (seat (.amxcmt (base 0 0x3F 0 0))) (.amxcmt (base 0 0x3F 0 0)) = true := by decide
/-- A commit puts the pending maximum into the slot and counts it (R59). -/
theorem test_amxcmt : (let s := (seat (.amxcmt (base 0 5 0 0))).modRing 0 5 fun a => a.record 0x42C80000
    let r := (after s (.amxcmt (base 0 5 0 0))).ring 0 5
    (r.slots.headD 0, r.cnt, r.head, r.pv)) = (0x42C80000, 1, 1, false) := by decide

/-! ### Witnesses: references and objects that a thread makes -/

theorem witness_refadd : starts (seat (.refadd (base 0 0x10 0x11 0)) [gr 0 5 8]) (.refadd (base 0 0x10 0x11 0)) = true
    ∧ (0 : Int) ≤ 8 + -8 ∧ (8 : Int) + -9 < 0 ∧ (2 ^ 40 : Int) ≤ 8 + (2 ^ 40 - 8) := by decide
/-- R235: a reference moves inside its object, and its tag stays. -/
theorem test_refadd : top (after (seat (.refadd (base 0 0x10 0x11 0)) [gr 0 5 8, gi 1 (-8)]) (.refadd (base 0 0x10 0x11 0)))
    = ⟨refOf 5 0, true⟩ := by decide
/-- R235: below offset 0 it raises OPERAND, OFFSET. -/
theorem test_refadd_offset : trap (after (seat (.refadd (base 0 0x10 0x11 0)) [gr 0 5 8, gi 1 (-9)]) (.refadd (base 0 0x10 0x11 0)))
    = some (1, 8) := by decide
/-- An arena slot of the team in object 6, a pool of numbers, and the tables. -/
def ownS (i : Instr) (g : Tab Val) : State :=
  (((withTables (seatM i g)).modTeam 0 fun t => { t with arena := some ⟨6, 0, 4096, 0⟩ }).modCore 0 fun c =>
    { c with pools := [(1, [9, 10])] })
def oallocI : BaseF := base 0 0x10 0 0
theorem witness_oalloc : starts (ownS (.oalloc oallocI) [gi 0 64]) (.oalloc oallocI) = true
    ∧ (match (runTry (ownS (.oalloc oallocI) [gi 0 64]) (whoLane (ownS (.oalloc oallocI) [gi 0 64]) 0 0)
        (allocLane oallocI 0 64 · (whoLane (ownS (.oalloc oallocI) [gi 0 64]) 0 0))).2 with
      | some (.ok (.ok n)) => n == 9 | _ => false) = true := by decide
def rderiveI : BaseF := base 0 0x10 0x11 0x12
def rderiveS : State := ownS (.rderive rderiveI) [gr 0 5 0, gi 1 64, gi 2 4032]
theorem witness_rderive : starts rderiveS (.rderive rderiveI) = true ∧ (0 : Int) ≤ 64 ∧ (1 : Int) ≤ 4032
    ∧ (0 : Int) + 64 + 4032 ≤ (entry 5).len
    ∧ (match checkRef rderiveS 0 1 (rderiveS.teamOf 0).party 5 true 0 0 [] 0 5 with
        | .ok a1 (.ok e) => e.ent == entry 5
          && (match takeNumber a1 0 1 with | some (.ok (.ok n)) => n == 9 | _ => false)
          && (match putEntry a1 (whoLane rderiveS 0 0) 1 9 (viewEntry e.ent e.top rderiveI.md 64 4032 1) with
              | .ok _ true => true | _ => false)
        | _ => false) = true := by decide
theorem test_rderive : top (after rderiveS (.rderive rderiveI)) = ⟨refOf 9 0, true⟩ := by decide

/-- OFREE of object 9, which the team owns and nobody else sees. -/
def ofreeI : BaseF := base 0 0x10 0 0
def ofreeS : State := (ownS (.ofree ofreeI) [gr 0 9 0]).modCore 0 fun c => { c with oc := c.oc ++ [entry 9] }
theorem witness_ofree : starts ofreeS (.ofree ofreeI) = true ∧ tfind (ofreeS.core 0).ofrees (lkOf 0 0) = none
    ∧ (acts ofreeS 0 0 ⟨refOf 9 0, true⟩ 0 0 [] 0 5 (freeLane 0 0 (refOf 9 0))).isSome = true
    ∧ (match freeLane 0 0 (refOf 9 0) ofreeS (whoLane ofreeS 0 0) ⟨entry 9, entry 9, 0, 0⟩ with
        | .ok _ (some (.ok (.ok _))) => true | _ => false) = true
    ∧ (entry 6 3).own = (ofreeS.teamOf 0).handle ∧ (entry 6 3).view = false ∧ (entry 6 3).vis ≠ 0 := by decide

/-! ### Witnesses: call frames -/

/-- Lane 0 in frame 1 of 40 registers, called from the root frame 0, to return to dword 80 of object 1. -/
def called (s : State) : State :=
  (s.modLane 0 0 fun l => { l with frame := 1 }).setFrame 1
    { Frame.none with demand := 40, depth := 1, rpc := ⟨1, 80⟩, caller := some 0, lset := 1, rem := 1, loc := .resident 1 }
/-- FrameRegisterResults: the last register and the last pair, an index beyond them, and an odd one. -/
theorem witness_frame_registers : starts (called (seat (.ldf (base 0 0x10 0 0)) [gi 0 39])) (.ldf (base 0 0x10 0 0)) = true
    ∧ starts (called (seat (.stf (base 0 0x10 0x11 0 1)) [gi 0 38])) (.stf (base 0 0x10 0x11 0 1)) = true
    ∧ 39 < ((called (seat nop)).frameOf 0 0).demand ∧ 38 % 2 = 0 ∧ 38 + 1 < ((called (seat nop)).frameOf 0 0).demand
    ∧ (((called (seat nop)).frameOf 0 0).reg 39 0).st = .full
    ∧ ((called (seat nop)).frameOf 0 0).demand ≤ (Val.int 40).bits.toNat % 2 ^ 32 ∧ (40 : Nat) % 2 = 0 := by decide
/-- CallResults: a demand at GFMAX and one above it, a target in and beyond the code object, a root and a called frame. -/
theorem witness_calls : starts (seat (.call (jumpf 24 0xF0))) (.call (jumpf 24 0xF0)) = true
    ∧ (24#8).toNat ≤ ((seat nop).team ((seat nop).warp 0).team).gfmax ∧ ((seat nop).team ((seat nop).warp 0).team).gfmax < (25#8).toNat
    ∧ (0 : Int) ≤ 8 + (0xF0#32).toInt
    ∧ (match issued (seatM nop) nop with
        | some c => decide ((indirectTarget (seatM nop) c 0 true (Val.int 64)).2 = some (.ok ⟨1, 64⟩)
            ∧ (indirectTarget (seatM nop) c 0 false ⟨refOf 5 64, true⟩).2 = some (.ok ⟨5, 64⟩))
        | none => false) = true
    ∧ starts (seat (.callx (base 0 0x10 0 0 0x081)) [gi 0 64]) (.callx (base 0 0x10 0 0 0x081)) = true
    ∧ bits (0x081#12) 11 4 ≤ ((seat nop).teamOf 0).gfmax
    ∧ starts (seat (.brx (base 0 0x10 0 0)) [gr 0 5 64]) (.brx (base 0 0x10 0 0)) = true
    ∧ ((called (seat nop)).frameOf 0 0).caller = some 0 ∧ ((seat nop).frameOf 0 0).caller = none := by decide
theorem witness_unwind : starts (called (seat (.unwind (jumpf 1 8)))) (.unwind (jumpf 1 8)) = true
    ∧ (1#8).toNat ≤ ((called (seat nop)).frame 1).depth ∧ (leaveN (called (seat nop)) 1 0 1).2 = some 0 := by decide
/-- RET comes back to the caller's frame at the return PC (R211). -/
theorem test_ret : (let t := after (called (seat (.ret (base 0 0 0 0)))) (.ret (base 0 0 0 0))
    ((t.lane 0 0).pc, (t.lane 0 0).frame, (t.lane 0 0).cix)) = (⟨1, 80⟩, 0, 0) := by decide
/-- CALL enters a frame one deeper, at the target, to return behind the clause (R210). -/
theorem test_call : (let t := after (seat (.call (jumpf 16 0x20))) (.call (jumpf 16 0x20))
    ((t.lane 0 0).pc, (t.frameOf 0 0).demand, (t.frameOf 0 0).depth, (t.frameOf 0 0).rpc)) = (⟨1, 0x28⟩, 16, 1, ⟨1, 16⟩) := by decide

/-- Frames of 192 registers under a current frame, so that 8 granules are left; a call of 192 waits. Only frame 3 has no
EMPTY register and may be spilled (R203). -/
def waiting : FReq :=
  { wk := 0, lanes := 1, kind := .call 192 ⟨1, 16⟩ 20 [(0, ⟨1, 64⟩)], since := 0, hdr := ⟨1, 0⟩, idx := 0, opc := 0, fid := 0 }
def tight : State :=
  let s := (seat nop).modTeam 0 fun t => { t with spill := some ⟨6, 0, 4096, 0⟩ }
  let f (k : Nat) : Nat × Frame := (k, { Frame.none with demand := 192, depth := k, caller := if k = 0 then none else some (k - 1), lset := 1
                                                         rem := 1, loc := .resident k
                                                         regs := if k = 3 then [] else [(0, ⟨0, .empty⟩)] })
  { (s.modLane 0 0 fun l => { l with frame := 20, st := .blocked .frame }) with
    frames := (List.range 21).map f, parts := [(0, ⟨[waiting], false, none⟩)] }
/-- CallEntersFrame: two lanes in order; granules for them and too few; FrameEngines: a head that fits and one that does not. -/
theorem witness_granules : ([(0, ⟨1, 64⟩), (1, ⟨1, 64⟩)] : List (Nat × Pc)).Pairwise (fun a b => a.1 < b.1)
    ∧ ((seat nop).part 0).reqs = [] ∧ (192 + 7) / 8 ≤ (seat nop).freeGran 0 ∧ tight.freeGran 0 < (192 + 7) / 8
    ∧ (tight.part 0).reqs ≠ [] ∧ headFits tight (0 * 4 + 0) = false ∧ dofferWakes tight (0 * 4 + 0) = true
    ∧ headFits { tight with frames := tight.frames.drop 18 } (0 * 4 + 0) = true := by decide +kernel

/-- A small frame whose record goes to object 6, and the same frame on its way back. -/
def spilling : State :=
  let s := (called (seatM nop)).modTeam 0 fun t => { t with spill := some ⟨6, 0, 4096, 0⟩ }
  (s.modFrame 1 fun f => { f with demand := 8 }).modPart 0 fun p => { p with busy := some (.spill 1 0) }
theorem witness_spill_done : (spilling.part 0).busy = some (.spill 1 0)
    ∧ spillable spilling 0 (1, spilling.frame 1) = false
    ∧ spillable (spilling.modLane 0 0 fun l => { l with st := .blocked .frame }) 0 (1, spilling.frame 1) = true
    ∧ (match (runAcc spilling (dofferWho spilling 0) (fun st => engineWrite st (dofferWho spilling 0) (spilling.team 0).realm 6 0
        (recWords st (spilling.frame 1)))).2 with | some (.ok (.ok _)) => true | _ => false) = true := by decide +kernel
def refillR : FReq := { waiting with kind := .refill 1 }
def refilling' (src : FrameLoc) : State := spilling.modPart 0 fun p => { p with busy := some (.refill refillR src) }
theorem witness_refill_done : ((refilling' (.spilled 0)).part 0).busy = some (.refill refillR (.spilled 0))
    ∧ ((refilling' (.saved 0 0)).part 0).busy = some (.refill refillR (.saved 0 0)) ∧ refillR.kind = .refill 1
    ∧ (match (runAcc (refilling' (.spilled 0)) (dofferWho (refilling' (.spilled 0)) 0) (fun st => engineRead st 0 1 6 0
        (recSize ((refilling' (.spilled 0)).frame 1).demand / 8))).2 with | some (.ok (.ok _)) => true | _ => false) = true := by decide +kernel
theorem witness_frame_release : (let s := (called (seat nop)).modFrame 1 fun f => { f with rem := 0 }
    decide ((tfind s.frames 1).isSome = true ∧ (s.frame 1).rem = 0 ∧ ∀ d ∈ s.defers, d.frame ≠ 1)) = true
    ∧ refillR.lanes.getLsbD 0 = true ∧ (tight.lane refillR.wk 0).st = .blocked .frame := by decide
/-- SpillRecordRoundTrip: the largest frame, with no register EMPTY. -/
theorem witness_spill_record : ((seat nop).frame 0).demand ≤ 192
    ∧ (∀ n ∈ List.range 192, (((seat nop).frame 0).reg n 31).st ≠ .empty) := by decide +kernel

/-- DeferredResults: a load in flight whose line stands in L1. -/
def loading : State := after (seatM (.ld ldI)) (.ld ldI)
theorem witness_deferred : (match loading.defers with
    | [d] => decide (loading.defers.find? (fun x => x.id == d.id && !x.isHost) = some d ∧ d.dead = false
        ∧ loading.fails.find? (fun f => f.who == .defer d.id) = none)
      && (match deferAcc d loading with | .ok _ _ => true | _ => false)
    | _ => false) = true := by decide
/-- Its response fills the pair with the bytes of the line (R142, R221). -/
theorem test_ld_fills : (match loading.defers with
    | [d] => let f := (after loading (.deferredResponse d.id)).frameOf 0 0
      decide (f.reg 4 0 = ⟨0x03020100, .full⟩ ∧ f.reg 5 0 = ⟨0x07060504, .full⟩)
    | _ => false) = true := by decide

/-! ### Witnesses: shuttle -/

/-- Layout records 1 and 2: four elements of 8 bytes, side by side, in object 5 and in the scratchpad; 3 and 4: 64 elements, of 4
bytes in the scratchpad and of 1 byte in a block of E4M3. -/
def rec4 (off spb : Nat) : Layout := ⟨⟨refOf 5 off, true⟩, [3, 8, 0, 0, 0, BitVec.ofNat 64 spb, 3]⟩
def rec64 (spb stride esz more : Nat) : Layout :=
  ⟨⟨refOf 5 0, true⟩, [63, BitVec.ofNat 64 stride, 0, 0, 0, BitVec.ofNat 64 spb, BitVec.ofNat 64 (esz + more)]⟩
def layS (s : State) : State :=
  s.modTeam 0 fun t => { t with layouts := [(1, rec4 0 0x100), (2, rec4 64 0x200), (3, rec64 0x400 4 2 0), (4, rec64 0x600 1 0 (1 * 2 ^ 14))] }

/-- Whether a shuttle command passes its checks in a state, as the statement asks. -/
def shReady (con : ShF → Instr) (cmd : ShCmd) (f : ShF) (s : State) : Bool :=
  match issued s (con f) with
  | none => false
  | some c =>
    let t := s.teamOf c.wk
    let la := t.layout f.la.toNat
    let lb := t.layout f.lb.toNat
    let wide := cmd == .sfill && la.esz == 8
    match leadSrcs s c (if wide then .r64 else .r32) with
    | .ok x =>
      let h := whoLane s c.wk (c.active.headD 0)
      (!wide || isC64 f.a.toNat) && (tileHandles cmd f x).all (fun n => decide (n.toNat < t.ntiles))
        && (!f.k || (match slotOf (t.ringOf f.ci.toNat) (lo32 x.dv.bits) with | .ok _ => true | _ => false))
        && (match dstShift cmd f s h.core t lb with
            | .ok s0 dsh => shapeOk cmd f la lb (lo32 x.bv.bits).toNat (some dsh)
              && (spSides cmd f (s0.teamOf c.wk) la lb x).all (fun e => spSideFault e.1 e.2.1 e.2.2 == none)
              && (match runTry s0 (whoLane s0 c.wk (c.active.headD 0)) (fun st =>
                    (runSides st (sideChecks cmd f (whoLane s0 c.wk (c.active.headD 0)).core (s0.teamOf c.wk) la lb x)).bind fun a o =>
                      .ok a (o.map fun r => Except.ok r)) with
                  | (s1, some (.ok (.ok _))) =>
                    decide ((s1.core 0).shq.length < 1024 ∧ (s1.warp c.wk).counter f.ci.toNat < 31)
                  | _ => false)
            | _ => false)
    | _ => false
def shTry (con : ShF → Instr) (cmd : ShCmd) (f : ShF) (g : Tab Val := []) : Bool := shReady con cmd f (layS (seatM (con f) g))


/-- ShuttleResults: every command, one of them on a shed ring; SFILL of a memory side with a 64-bit value. -/
theorem witness_scpy : shTry .scpy .scpy (shf 0 0 0 4 1 2 false true) = true
    ∧ shTry .scpy .scpy (shf 0x10 0 0 4 1 2 true true) = true := by decide
theorem witness_sgath_sp : shTry .sgathSp .sgath (shf 0 0x10 0x11 0x12 1 0 false true) [gi 1 2, gi 2 0x40] = true := by decide
theorem witness_sscat : shTry .sscat .sscat (shf 0 0x10 0x11 0x12 1 0 false true) [gi 1 2, gi 2 0x40] = true := by decide
theorem witness_ssadd : shTry .ssadd .ssadd (shf 0 0x10 0x11 0x12 1 0 false true) [gi 1 2, gi 2 0x40] = true := by decide
theorem witness_sput : shTry .sput .sput (shf 0 0x10 0x11 1 1 2 false true) [gr 0 5 120, gi 1 1] = true := by decide
theorem witness_sfill : shTry .sfill .sfill (shf 0 0x10 0 1 2 0 false true) [gi 0 7] = true
    ∧ shTry .sfill .sfill (shf 0 0x10 0 0 2 0 false true) [gi 0 7] = true := by decide +kernel
theorem witness_sqcp : shTry .sqcp .sqcp (shf 0 0 0 5 3 4 false true) = true := by decide +kernel

/-- LYSET: an image in the scratchpad's last line and one in memory, a good and a bad record. -/
def lysetI (sp : BitVec 12) : BaseF := base 2 0x10 0x11 0 sp
theorem witness_lyset : starts (seatM (.lyset (lysetI 1)) [gi 0 0xBFFC0]) (.lyset (lysetI 1)) = true
    ∧ 0xBFFC0 % 64 = 0 ∧ 0xBFFC0 + 64 ≤ ((seatM nop).teamOf 0).spSize ∧ badRecord 3 = false ∧ badRecord (1 <<< 40) = true
    ∧ starts (seatM (.lyset (lysetI 0))) (.lyset (lysetI 0)) = true
    ∧ hit (seatM (.lyset (lysetI 0))) 5 64 64 [rR] 64 9 (imageAct 0 0) = true := by decide
/-- SGATH's register form: the word at index 2 of record 1. -/
def sgathI : ShF := shf 0x44 0x10 0 0 1 0 false true
theorem witness_sgath : starts (layS (seatM (.sgath sgathI) [gi 0 2])) (.sgath sgathI) = true
    ∧ ((layS (seatM nop)).teamOf 0).layout 1 = rec4 0 0x100 ∧ (rec4 0 0x100).stride 0 = 8
    ∧ hit (layS (seatM (.sgath sgathI) [gi 0 2])) 5 16 8 [rR, rNC] 8 9 (fun st _ q => .ok st (some (.ok q))) = true
    ∧ anyEmpty (layS (seatM nop)) 0 0 [4, 5] = false
    ∧ ((layS (seatM nop)).core 0).shq.length < 1024 ∧ ((layS (seatM nop)).warp 0).counter 0 < 31 := by decide
/-- The place of the last element of a record. -/
theorem witness_record : 3 < (rec4 0 0x100).ext 0 ∧ 0 < (rec4 0 0x100).ext 1 ∧ 0 < (rec4 0 0x100).ext 3 := by decide
/-- R245: element 3 of four elements of 8 bytes lies 24 bytes on, in both sides. -/
theorem test_layout : (rec4 64 0x200).memAt 3 = 88 ∧ (rec4 64 0x200).spAt 3 = 0x218 := by decide

/-- A shuttle command of lane 0 on counter 0. -/
def job (stage : ShStage) (fault : Option (Cause × Byte × Nat) := none) : ShJob :=
  { id := 7, core := 0, wk := 0, lane := 0, team := 0, cmd := .scpy, src := 0, dst := 1, la := rec4 0 0x100, lb := rec4 64 0x200
    a := Val.zero, b := Val.zero, c := Val.zero, k := false, cv := true, ci := 0, slot := 0, phase := false, bank := 0, pos := 0
    flags := 0, amax := 0, exp := 0, scale := 0, stage := stage, fault := fault, left := 0, tout := 4000, lines := [], ssh := 0, dsh := 0 }
def jobS (j : ShJob) : State := ((seatM nop).modCore 0 fun c => { c with shq := [j] }).modWarp 0 fun w =>
  { w with ctr := [(0, [⟨7, false⟩, ⟨8, false⟩])] }
theorem witness_shuttle_complete : (jobS (job .finished)).job 7 = some (job .finished)
    ∧ ((runJob 8 (jobS (job .finished)) (job .finished)).job 7).map (fun j => (j.stage, j.fault)) = some (.finished, none)
    ∧ tget ((jobS (job .finished)).warp 0).ctr 0 [] = [⟨7, false⟩, ⟨8, false⟩] := by decide
theorem witness_shuttle_fault : (jobS (job .moving (some (.memory, 6, 2)))).job 7 = some (job .moving (some (.memory, 6, 2)))
    ∧ ((jobS (job .moving)).warp 0).sherr.v = false
    ∧ (((jobS (job .moving)).modWarp 0 fun w => { w with sherr := { w.sherr with v := true } }).warp 0).sherr.v = true := by decide
def sputJ : ShJob := { job .counting with cmd := .sput, a := ⟨refOf 5 120, true⟩, b := Val.int 1 }
theorem witness_sput_increment : (jobS sputJ).job 7 = some sputJ ∧ sputJ.stage = .counting ∧ sputJ.fault = none
    ∧ (∀ l ∈ sputJ.lines, (jobS sputJ).noAcks l = true) ∧ (jobS sputJ).fails.find? (fun y => y.who == .shuttle 7) = none
    ∧ (match unitPlace (jobS sputJ) sputJ sputJ.a (offOf sputJ.a.bits) 8 8 [rR, rW] with
        | .ok s1 (some (.ok p)) => (match rmw s1 (shWho sputJ) p.key p.addr 8 (fun b =>
            ((), some (bytesLE 8 (BitVec.ofNat 64 (ofBytes b) + sputJ.b.bits).toNat))) with | .ok _ _ => true | _ => false)
        | _ => false) = true := by decide
/-- An arrival held for slot 0 of a ring whose phase has come, and one for a slot that is gone. -/
def heldS (slot : Nat) (cmd : Option Nat) : State :=
  (jobS (job .held)).modTeam 0 fun t => { t with held := [⟨0, slot, false, 0, cmd⟩] }
theorem witness_held : ((heldS 0 (some 7)).team 0).held[0]? = some ⟨0, 0, false, 0, some 7⟩
    ∧ 0 < (((heldS 0 (some 7)).team 0).ringOf 0).depth ∧ (((heldS 0 (some 7)).team 0).ringOf 0).phase 0 = false
    ∧ (((heldS 15 none).team 0).ringOf 0).depth ≤ 15 := by decide

/-! ### Witnesses: matrix unit -/

/-- A layout of 32 columns of 32 bytes (class 0). -/
def mmaS (i : Instr) (g : Tab Val := []) : State :=
  (seat i g).modTeam 0 fun t => { t with layouts := [(2, ⟨Val.zero, [0, 0, 0, 0, 0, BitVec.ofNat 64 (32 * 2 ^ 32), 0]⟩)] }
def mmaI : MxF := { mxf 3 0x48 0x58 2 0x810 true with ci := 1 }
theorem witness_mma : (match issued (mmaS (.mma mmaI)) (.mma mmaI) with
    | some c => decide (((mmaS (.mma mmaI)).bankQ 0 0).length < 64 ∧ ((mmaS (.mma mmaI)).warp 0).counter 1 < 31
        ∧ mmaI.md.getLsbD 11 = true ∧ mmaRowBytes (mmaCls mmaI) = 32
        ∧ (((mmaS nop).teamOf 0).layout 2).spb % 32 = 0 ∧ (((mmaS nop).teamOf 0).layout 2).spp % 32 = 0
        ∧ (((mmaS nop).teamOf 0).layout 2).spb + (mmaK (mmaCls mmaI) - 1) * (((mmaS nop).teamOf 0).layout 2).spp + 32
            ≤ ((mmaS nop).teamOf 0).spSize)
      && c.active.all fun l => (match mmaRow (mmaS (.mma mmaI)) c mmaI l none with | .ok _ => true | _ => false)
    | none => false) = true := by decide
/-- The other matrix instructions reach the warp's own bank. -/
theorem witness_bank : ((seat nop).teamOf 0).inPart ((wkPart 0 + bits (0x000#12) 11 10) % 4) = true
    ∧ starts (seat (.acz (mxf 3 0 0 0 0 true))) (.acz (mxf 3 0 0 0 0 true)) = true
    ∧ starts (seat (.acrd (mxf 3 0x48 0 0 1))) (.acrd (mxf 3 0x48 0 0 1)) = true
    ∧ starts (seat (.acwr (mxf 3 0x48 0 0 3))) (.acwr (mxf 3 0x48 0 0 3)) = true
    ∧ starts (seat (.acscl (mxf 3 0 0x10 0))) (.acscl (mxf 3 0 0x10 0)) = true := by decide
/-- ACRD.Q through a ring, and with a scale in S. -/
theorem witness_acrdq : (match issued (seat (.acrdQ (mxf 3 0x80 7 0 1))) (.acrdQ (mxf 3 0x80 7 0 1)) with
      | some c => (match readAll (seat (.acrdQ (mxf 3 0x80 7 0 1))) 0 0 { c.g with b := .none } with | .ok _ => true | _ => false)
      | none => false) = true
    ∧ (seat nop).ringBusy 0 7 = false ∧ (mxf 3 0x80 7 0 1).md.getLsbD 4 = false ∧ (mxf 3 0x80 0x10 0 0x011).md.getLsbD 4 = true
    ∧ (match read32 (seat (.acrdQ (mxf 3 0x80 0x10 0 0x011)) [gi 0 0x81]) 0 0 0x10 false with
        | .ok v => decide (v.bits.toNat % 256 = 0x81) | _ => false) = true := by decide
/-- A queue with an MMA of lane 31's row, and one with an ACZ of every row. -/
def mxJob (mma : Bool) : MxJob :=
  { id := 3, wk := 0, team := 0, bank := 0, tile := 3, mma := mma, cls := 0, af := 2, br := 0, ow := true, spb := 0, spp := 32
    rows := [(31, ⟨List.replicate 32 0, false, 0⟩)], lanes := BitVec.allOnes 32, cv := false, ci := 0 }
def mxS (mma : Bool) : State := (mmaS nop).modCore 0 fun c => { c with mxq := [(0, [mxJob mma])] }
theorem witness_matrix_queue : (mxS true).bankQ 0 0 = [mxJob true] ∧ (mxJob true).mma = true
    ∧ ((mxJob true).rows.map (·.1)).Nodup ∧ (∀ e ∈ (mxJob true).rows, e.1 < 32) ∧ (mxS false).bankQ 0 0 = [mxJob false]
    ∧ (mxJob false).mma = false := by decide
/-- ACRD of the second eight columns brings column 8 of the lane's own row into its first register (R283). -/
theorem test_acrd : (let s := (seat (.acrd (mxf 3 0x48 0 0 1))).modTeam 0 fun t =>
      (List.range 8).foldl (fun u k => u.setTileEl 0 3 0 (8 + k) (BitVec.ofNat 32 (0x3F800000 + k))) t
    ((after s (.acrd (mxf 3 0x48 0 0 1))).frameOf 0 0).reg 8 0) = ⟨0x3F800000, .full⟩ := by decide

/-! ### Witnesses: synchronisation -/

/-- SyncResults: an arrival in a team of one lane completes the phase, and in one of three lanes it does not; a lane that waited for
an older phase goes on. -/
theorem witness_barrier : starts (seat (.bar (syf 0 0 0 0))) (.bar (syf 0 0 0 0)) = true
    ∧ ((seat nop).lane 0 0).st = .run ∧ (((seat nop).teamOf 0).arrived ((seat nop).warp 0).wix).getLsbD 0 = false
    ∧ (settleAll (seat nop) 0 0).2 = true
    ∧ ((arriveLane (seat nop) 0 0).teamOf 0).bphase = 1 ∧ ((arriveLane three 0 0).teamOf 0).bphase = 0
    ∧ ((seat nop).modLane 0 0 fun l => { l with st := .blocked (.bar 7) }).lane 0 0
        = { (seat nop).lane 0 0 with st := .blocked (.bar 7) } ∧ 7 ≠ ((seat nop).teamOf 0).bphase.toNat := by decide
def ringOps (a b : Byte) : SyF := syf 0 a b 0
theorem witness_sharr : starts (seat (.sharr (ringOps 0x10 0x11)) [gi 1 1024]) (.sharr (ringOps 0x10 0x11)) = true
    ∧ (match slotOf (((seat nop).teamOf 0).ringOf 0) 0 with | .ok (0, false) => true | _ => false) = true
    ∧ (((seat nop).teamOf 0).ringOf 0).phase 0 = false ∧ (settleLanes (seat nop) 0 [0]).2 = true
    ∧ 1 ≤ (1024#32).toNat ∧ (1024#32).toNat ≤ 1024
    ∧ 15 < Ring.reset.ph.length ∧ 15 < Ring.reset.rem.length ∧ Ring.reset.rem.getD 15 0 ≤ 1
    ∧ 1 < ({ Ring.reset with rem := List.replicate 16 3 }).rem.getD 15 0 := by decide
theorem witness_sharr_init : starts (seat (.sharrInit { ringOps 0x10 0x11 with sub := 1 }) [gi 0 16, gi 1 1024])
      (.sharrInit { ringOps 0x10 0x11 with sub := 1 }) = true ∧ 1 ≤ (16#32).toNat ∧ (16#32).toNat ≤ 16 := by decide
/-- SHWAIT on a phase that has turned over (slot value 0x10) and on one that has not. -/
theorem witness_shwait : starts (seat (.shwait (ringOps 0x10 0)) [gi 0 0x10]) (.shwait (ringOps 0x10 0)) = true
    ∧ (match slotOf (((seat nop).teamOf 0).ringOf 0) 0x10 with | .ok (0, true) => true | _ => false) = true
    ∧ (((seat nop).teamOf 0).ringOf 0).phase 0 ≠ true ∧ (((seat nop).teamOf 0).ringOf 0).phase 0 = false
    ∧ (seat nop).quiescing 0 = false := by decide
/-- CWAIT at a counter of T and above it. -/
theorem witness_cwait : starts (seat (.cwait (syf 0 0 0 0 (cv := true)))) (.cwait (syf 0 0 0 0 (cv := true))) = true
    ∧ ((seat nop).warp 0).counter 0 ≤ 0 % 32 ∧ 1 % 32 < ((jobS (job .moving)).warp 0).counter 0 := by decide
def mwaitI : SyF := syf 0 0x10 0x11 0x12 1 1 (sub := 1)
theorem witness_mwait : starts (seatM (.mwait mwaitI)) (.mwait mwaitI) = true
    ∧ hit (seatM (.mwait mwaitI)) 5 8 8 [rR] 8 9 (mwaitAct 0 0 8 1 8) = true
    ∧ decodeShape (encode (.mwait mwaitI)) = some (.mwait mwaitI) := by decide
/-- SHARR that brings the count to 0 turns the phase over and reloads it (R300). -/
theorem test_sharr : (let t := after (seat (.sharr (ringOps 0x10 0x11)) [gi 1 1]) (.sharr (ringOps 0x10 0x11))
    ((t.teamOf 0).ringOf 0).phase 0) = true := by decide

/-! ### Witnesses: host calls and user interrupts -/

/-- Host calls on, and the call half of lane 0's slot owned. -/
def hostS (s : State) : State :=
  let s1 := { s with pkg := { s.pkg with hcv := true, host := some 2000 } }
  { s1 with halves := [(callAddr s1 0 0 / 64, ⟨.excl, List.replicate 64 0, false⟩)] }
def hcallI : SyF := syf 0x44 0x10 0x11 0x12
theorem witness_hcall : starts (hostS (seatM (.hcall hcallI))) (.hcall hcallI) = true ∧ (hostS (seatM nop)).pkg.hcv = true
    ∧ (callReady (hostS (seatM nop)) 0 0).2 = some (.ok ()) := by decide
theorem witness_hcall_nb : starts (hostS (seatM (.hcallNb (syf 0 0x10 0x11 0x12 (cv := true))))) (.hcallNb (syf 0 0x10 0x11 0x12 (cv := true)))
      = true ∧ ((hostS (seatM nop)).warp 0).counter 0 < 31 := by decide
theorem witness_call_half : (match tfind (hostS (seatM nop)).halves (callAddr (hostS (seatM nop)) 0 0 / 64) with
    | some h => decide (h.bytes.length = 64) | none => false) = true := by decide
/-- A call outstanding whose reply half holds its sequence number, and whose time is over. -/
def calledS : State :=
  let s := startCall (hostS (seatM nop)) 0 0 (some 1) true none ⟨[Val.zero], [Val.zero], [Val.zero], []⟩
  { s with halves := s.halves ++ [(callAddr s 0 0 / 64 + 1, ⟨.excl, [0, 0, 0, 0, 1, 0, 0, 0, 42] ++ List.replicate 55 0, false⟩)], usec := 4000 }
theorem witness_reply : (match tfind (calledS.core 0).hcalls 0 with
    | some k => decide (k.deadline ≤ calledS.usec ∧ k.nb = some 1)
      && (match (runTry calledS (monitorWho calledS 0 0) (fun st => (pocDwords st (callAddr st 0 0 + 64) 2).bind fun a d =>
            if bits (d.getD 0 0) 63 32 = k.seq.toNat then thenAcquire a (monitorWho calledS 0 0) 3 (some (d.getD 1 0))
            else .ok a (some (.ok none)))).2 with
          | some (.ok (some v)) => v == 42
          | _ => false)
    | none => false) = true := by decide
theorem witness_timeout : (match (runTry calledS (monitorWho calledS 0 0) (fun st =>
    (ownHalf st (callAddr calledS 0 0 / 64) false).bind fun a _ => .ok a (some (.ok ())))).2 with
      | some (.ok ()) => true | _ => false) = true := by decide
theorem witness_uintr : starts (seat (.uintr (syf 0 0x10 0x11 0))) (.uintr (syf 0 0x10 0x11 0)) = true
    ∧ (match (runTry (seat nop) (whoLane (seat nop) 0 0) (fun st => thenRelease st (whoLane (seat nop) 0 0) 0 0 1 fun s1 =>
        .ok s1 (some (.ok ())))).2 with | some (.ok ()) => true | _ => false) = true
    ∧ bits (1 : BitVec 32) 31 21 = (seat nop).pkg.agent ∧ bits (0x00200001 : BitVec 32) 31 21 ≠ (seat nop).pkg.agent
    ∧ ((seat nop).teams.find? fun e => e.2.handle == 1 && e.2.realm == 1).map (·.1) = some 0
    ∧ ((seat nop).team 0).uiq.length < 8 ∧ 8 ≤ (List.replicate 8 ((0, 0) : BitVec 32 × BitVec 32)).length
    ∧ (∀ e ∈ (seat nop).teams, e.2.handle = 1 → e.2.realm ≠ 2) := by decide
/-- UINTR to the own team posts its datum and answers 0 (R399). -/
theorem test_uintr : (let t := after (seat (.uintr (syf 0 0x10 0x11 0)) [gi 0 1, gi 1 77]) (.uintr (syf 0 0x10 0x11 0))
    ((top t).bits, (t.team 0).uiq)) = (0, [(1, 77)]) := by decide

/-! ### Witnesses: publication -/

def pubI : SyF := syf 0 0x10 0 0 0 1 (cv := true)
theorem witness_pub : starts (seatM (.pub pubI)) (.pub pubI) = true
    ∧ (rootLane (seatM nop) 0 0 ⟨[⟨refOf 5 0, true⟩], [], [], []⟩).2 = some (.ok ()) ∧ ((seatM nop).warp 0).counter 0 < 31 := by decide
def pubwI : SyF := syf 0 0x10 0 0 0 1
def walkOf (why : WalkFor) (work : List (Nat × Nat)) (ended : Bool) : Walk :=
  { id := 5, wk := 0, lane := 0, team := 0, scope := 1, why := why, work := work, visited := [], listed := [5], tout := 4000
    ended := ended, fault := none }
def walkS (w : Walk) : State := (withTables (seatM (.pubw pubwI))).modCore 0 fun c => { c with walks := [w] }
theorem witness_pubw : starts (walkS (walkOf .pubw [] true)) (.pubw pubwI) = true
    ∧ pubwWalk (walkS (walkOf .pubw [] true)) 0 [0] = some (walkOf .pubw [] true) ∧ (walkOf .pubw [] true).fault = none
    ∧ pubwWalk (seatM (.pubw pubwI)) 0 [0] = none ∧ (seatM nop).quiescing 0 = false := by decide
/-- WALK_VISIT at object 5; WALK_COMPLETE of a PUB and of a PUBW; an object wide enough; widening to the cell. -/
theorem witness_walk : curWalk (walkS (walkOf .pubw [(5, 0)] false)) 0 = some (walkOf .pubw [(5, 0)] false)
    ∧ (match (runTry (walkS (walkOf .pubw [(5, 0)] false)) (walkWho 0 (walkOf .pubw [(5, 0)] false)) (fun st =>
          visitAct (walkOf .pubw [(5, 0)] false) 5 st (walkWho 0 (walkOf .pubw [(5, 0)] false)))).2 with
        | some (.ok _) => true | _ => false) = true
    ∧ curWalk (walkS (walkOf (.pub true 0) [] false)) 0 = some (walkOf (.pub true 0) [] false)
    ∧ (match findPair (walkS (walkOf .pubw [] false)) 0 1 6 false with
        | .ok _ (some (_, p)) => decide (p.vis ≠ 0 ∧ (walkOf .pubw [] false).scope.toNat ≤ p.vis) | _ => false) = true
    ∧ (match entryAddr (walkS (walkOf .pubw [] false)) 0 1 5 true with
        | .ok s1 (some a) => a.1 == 0x40A0 && (match pocWrite s1 (walkWho 0 (walkOf .pubw [] false)) a.1 (List.replicate 16 0) with
            | .ok _ _ => true | _ => false)
        | _ => false) = true := by decide

/-! ### Witnesses: traps taken at clause boundaries, the supervisor core's commands -/

def af : AsyncFault := ⟨0, .memory, 6, true, 0, 0⟩
def asyncS : State := (seat nop).modWarp 0 fun w => { w with path0 := none, asyncs := [af] }
theorem witness_async : nextAsync asyncS 0 = some af ∧ (asyncS.warp 0).closed = true ∧ (asyncS.warp 0).trec.v = false
    ∧ (asyncS.warp 0).mayRun = true ∧ af.lane < 32 ∧ af.sherr = true
    ∧ ((asyncS.warp 0).asyncs.erase af).any (·.sherr) = false := by decide
def parkS : State := ((asyncS.modWarp 0 fun w =>
  { w with parked := true, note := true, trec := { w.trec with v := true, lmask := 1, cause := 2 } }).modLane 0 0 fun l =>
    { l with st := .parked false, rpc := ⟨1, 64⟩, rix := 3 })
theorem witness_parked : (let s := asyncS.modWarp 0 fun w => { w with parking := true }
      decide ((s.warp 0).parking = true ∧ (s.warp 0).closed = true)) = true
    ∧ commandable parkS 0 = true ∧ (parkS.warp 0).trec.nest = false ∧ (parkS.warp 0).trec.cause.toNat ≤ 10
    ∧ (∀ l ∈ List.range 32, (parkS.warp 0).trec.lmask.getLsbD l = true → (parkS.lane 0 l).st = .parked false → (1#32).getLsbD l = true)
    ∧ (∀ l ∈ List.range 32, (parkS.lane 0 l).h = false) := by decide
/-- RESUME brings the lane back to its resume point (R386). -/
theorem test_resume : (let t := after parkS (.resume 0 1)
    ((t.lane 0 0).pc, (t.lane 0 0).cix, (t.lane 0 0).st, (t.warp 0).parked)) = (⟨1, 64⟩, 3, .run, false) := by decide
/-- FORWARD enters the handler at 256 times the cause (R386, R372). -/
theorem test_forward : (let t := after parkS (.forward 0 true)
    ((t.lane 0 0).pc.off, (t.lane 0 0).h, (t.lane 0 0).pv)) = (512, true, true) := by decide

/-! ### Witnesses: fetching -/

/-- A warp with both paths free, whose group of one lane stands at a header that an instruction-cache line holds. -/
def fetchS : State :=
  let s := (withObj (seat nop)).modWarp 0 fun w => { w with path0 := none }
  s.modCore 0 fun c => { c with
    oc := [entry 1]
    ic := [⟨1, 1, 0, 0, bytesLE 8 (headerFor (encode nop)).toNat ++ bytesLE 8 (encode nop).toNat ++ List.replicate 48 0⟩] }
theorem witness_bundle_open : (chooseWarp fetchS (readyWarps fetchS ((fetchS.warps.map (·.1)).filter fun k => wkPk k == 0)).2).isSome
    = true := by decide
/-- BUNDLE_OPEN opens it on path 0. -/
theorem test_bundle_open : (((after fetchS (.bundleOpen 0 0)).warp 0).path 0).map (fun b => (b.lanes, b.words)) = some (1, [encode nop]) := by
  decide
/-- A warp that has waited its 64 cycles. -/
def forcedS : State := (fetchS.modWarp 0 fun w => { w with wasRdy := true }).modCore 0 fun c => { c with cycle := 64 }
theorem witness_forced : (∃ e ∈ forcedS.warps, wkPk e.1 = 0 * 4 + 0 ∧ e.2.wasRdy = true ∧ isForced forcedS e.1 = true) := by decide
theorem witness_headers : clsOf (headerFor (encode nop)) = some .ctrl ∧ badHeader (headerFor (encode nop)) = false := by decide

/-- The open bundle's place of a fetch: a warp frozen on a line of code, whose bytes are in memory. -/
def frozenS : State := (withObj (seat nop)).modWarp 0 fun w => { w with path0 := none, frozen := [(1, 5, 0)] }
/-- Object 8, of two chunks of 2 MiB, whose first extent says that the chunk lies at 0x30000 (R18, R27). -/
def chunked : OcEntry := ⟨1, 8, [BitVec.ofNat 64 (2 ^ 63 + 2 ^ 51 + 0x3F * 2 ^ 54 + 2 ^ 22 - 1), BitVec.ofNat 64 (2 ^ 32), 0x6000, 0], false⟩
def chunkedS : State := { (seat nop).modCore 0 (fun c => { c with oc := [chunked] }) with
  hbm := ({} : Mem).write 0x6000 (bytesLE 8 (2 ^ 63 + 0x30000)) }
def waitingReq (line : Nat) (d : Nat) : Req := { id := 9, kind := .rds, line := line, cores := [0], waiters := [(.core 3, d)], given := none }
/-- FetchEvents: an open path pair with a group, a header, a line of code, an entry, an extent, and requests for lines. -/
theorem witness_fetch : (fetchS.warp 0).path0 = none ∧ (fetchS.warp 0).path1 = none ∧ frozenOn frozenS 0 1 5 0 ≠ []
    ∧ (match (runAcc frozenS (fillWho frozenS 0 (5 * 2 ^ 34 + 0)) (fun st => codeLine st 0 1 5 0)).2 with
        | some (.ok (some _)) => true | _ => false) = true
    ∧ (fetchS.warp 0).role.admits .vec = true ∧ Role.copy.admits .mtx = false
    ∧ (match findPair (withObj (seat nop)) 0 1 5 true with | .ok _ none => true | _ => false) = true
    ∧ (match findPair (withTables (seat nop)) 0 1 5 true with | .ok _ (some (e, t)) => e == entry 5 && t == entry 5 | _ => false) = true
    ∧ chunked.hm = true ∧ 1 * chunked.chunk < chunked.len
    ∧ l1Addr chunkedS 0 chunked 0 = none
    ∧ (match resolveAt chunkedS 0 chunked 0 with | .ok s1 (some a) => a == 0x30000 && addrOk s1 a | _ => false) = true := by decide
/-- Both paths of a warp hold a bundle that can issue: the lower key stands on path 1. -/
def bothS : State := three.modWarp 0 fun w =>
  { w with path0 := w.path0.map fun b => { b with lanes := 6, hdr := ⟨1, 64⟩ }, path1 := w.path0.map fun b => { b with lanes := 1 } }
theorem witness_issue_order : (match (bothS.warp 0).path0, (bothS.warp 0).path1 with
    | some a, some b => decide (canIssue bothS (bothS.warp 0) 0 = true ∧ canIssue bothS (bothS.warp 0) 1 = true
        ∧ calls bothS 0 a = false ∧ calls bothS 0 b = false)
    | _, _ => false) = true := by decide
theorem witness_requests : (({ (seat nop) with reqs := [waitingReq 5 0] }).reqs.find? fun x => x.id == 9 && x.line < 2 ^ 50
      && agentOf x.line == (seat nop).pkg.agent) = some (waitingReq 5 0)
    ∧ (seat nop).txOf (localOf 5) = none ∧ (∃ e ∈ (waitingReq 5 0).waiters, e.2 ≤ (seat nop).usec)
    ∧ (∀ e ∈ (waitingReq 5 0).waiters, e.1 = .core 3) := by decide

/-! ### Witnesses: launching -/

/-- A descriptor of a grid of one team of one warp: code, handlers and completion record in object 6 (R65–R68). -/
def desc : List Word :=
  [BitVec.ofNat 64 (1 + 2 ^ 9 + 2 ^ 32), refOf 6 0, refOf 6 0, 1, BitVec.ofNat 64 (1 + 8 * 2 ^ 32 + 8 * 2 ^ 40), 0, 0, 0, 0, 0, refOf 6 0x400,
    0, 0, 0, 0, 0]
/-- It stands at offset 0x200 of object 6; core 0 is open to the non-secure world. -/
def launchS (s : State) : State :=
  let t := (withTables s).modCore 0 fun c => { c with oc := [entry 5, entry 6 3], world := 1, asleep := false }
  { t with hbm := t.hbm.write 0x20200 (desc.flatMap fun w => bytesLE 8 w.toNat) }
def launchI : SyF := syf 0x44 0x10 0x11 0x12
def ledS (i : Instr) (off : Nat := 0x200) : State := launchS (seat i [gr 0 6 off])
def launchW : Walk := ⟨1, 0, 0, (State.warp State.reset 0).team, 1, .launch desc [0, 0], [], [], [], 0, true, none, []⟩
def decided (s : State) (ln : Launcher) (off : Nat) (ind : Option Bool) : Nat :=
  match acceptance s ln (refOf 6 off) [0, 0] ind with
  | .ok _ (some (.ok (.go _))) => 1
  | .ok _ (some (.ok .retry)) => 2
  | .ok _ (some (.ok (.reject c _))) => 16 + c.toNat
  | _ => 0
/-- LAUNCH and LAUNCHI by a leader: the walk has ended and the launch ends with a status; the descriptor is rejected. -/
theorem witness_launch : starts (ledS (.launch launchI)) (.launch launchI) = true ∧ starts (ledS (.launchi launchI)) (.launchi launchI) = true
    ∧ ((ledS nop).warp 0).wix = 0 ∧ ((ledS nop).teamOf 0).depth < 10 ∧ launchWalk (ledS nop) 0 0 = none
    ∧ decided (ledS nop) (leaderOf (ledS nop) 0) 0x200 (some true) = 16 + 0x0A
    ∧ decided (ledS nop) (leaderOf (ledS nop) 0) 0x280 (some false) = 16 + 1 := by decide
def walkedS : State := (ledS nop).modCore 0 fun c => { c with walks := [launchW] }
theorem witness_launch_end : launchWalk walkedS 0 0 = some (launchW, desc, [0, 0]) ∧ launchW.ended = true ∧ launchW.fault = none
    ∧ (match (runTry walkedS (whoLane walkedS 0 0) (fun st => launchEnd 0 0 launchW desc [0, 0] st (whoLane walkedS 0 0))).2 with
        | some (.ok _) => true | _ => false) = true := by decide
/-- Page 0 is bound to realm 1; it holds a record. -/
def record8 : List Word := [1, refOf 6 0x200, 0, 0, 0, 0, 7, 0]
def pageS (n : Nat) : State := (ledS nop).setPage 0 { Page.reset with en := true, prealm := 1, recs := List.replicate n record8 }
/-- SUBMIT_DMWR into a page with room, a full one and one that is not enabled. -/
theorem witness_submit : record8.length = 8 ∧ ((pageS 1).pageOf 0).en = true ∧ ((pageS 1).pageOf 0).recs.length < 64
    ∧ bits (record8.getD 0 0) 7 0 = 1 ∧ 64 ≤ ((pageS 64).pageOf 0).recs.length ∧ ((pageS 1).pageOf 1).en = false := by decide
/-- TAKE of a record with a reserved field set, and of one whose grid is accepted. -/
theorem witness_take : ((pageS 1).pageOf 0).recs = record8 :: [] ∧ pending (pageS 1) < 4096 ∧ ((pageS 1).pageOf 0).en = true
    ∧ ((pageS 1).pageOf 0).pwld = false ∧ recReserved record8 = false ∧ recReserved (record8.set 7 1) = true
    ∧ (match acceptance (pageS 1) (hostLauncher (pageS 1) 1 false) (refOf 6 0x200) [0, 0] none with
        | .ok s1 (some (.ok (.go d))) => (match acceptHost s1 0 (hostLauncher (pageS 1) 1 false) record8 d (pageWho (pageS 1) 0) with
          | .ok _ (some (.ok _)) => true | _ => false)
        | _ => false) = true := by decide
/-- Grid 9, of one team, with a predecessor whose record stands at offset 0x240, of which the count's bytes lie at 0x200. -/
def grid9 : Grid :=
  { desc := desc.set 3 (refOf 6 0x200), num := 9, host := true, cookie := 7, uint := false, uiaddr := 0, uidata := 0, parent := none, depth := 0
    preds := [(refOf 6 0x200, false)], count := none, stamp := 0, ready := none, dealt := false, retired := 0, nkill := 0, nflt := 0
    first := none, spill := ⟨0, 0, 0⟩, arena := ⟨0, 0, 0⟩, spillU := [], arenaU := [], spent := [], code := none }
def gridS (g : Grid) : State := { ledS nop with grids := [(9, g)] }
def counted (g : Grid) (n : Nat) : Grid := { g with preds := [], count := some n }
theorem witness_pred : tfind (gridS grid9).grids 9 = some grid9 ∧ grid9.preds[0]? = some (refOf 6 0x200, false) ∧ grid9.code = none
    ∧ (match (runTry (gridS grid9) (dispWho (gridS grid9) 9) (fun st =>
        (refCheck st (gridLauncher (gridS grid9) grid9) 1 false (refOf 6 0x200) 8 64 [rR]).bind fun a c =>
          match c with
          | .stall => .ok a none
          | .fault .. => .ok a (some (.error .poison))
          | .ok p => (pocDwords a p.addr 1).bind fun b v =>
            .ok b (if v.getD 0 0 != 0 && (linesOf p.addr 8).all b.noAcks then some (.ok ()) else none))).2 with
        | some (.ok ()) => true | _ => false) = true := by decide
theorem witness_count : ({ grid9 with preds := [] }).preds = [] ∧ grid9.count = none
    ∧ (match (runTry (gridS { grid9 with preds := [] }) (dispWho (gridS grid9) 9) (fun st =>
        (refCheck st (gridLauncher (gridS grid9) grid9) (dRealm grid9.desc) (dWld grid9.desc) (dCount grid9.desc) 4 4 [rR]).bind fun a c =>
          match c with
          | .stall => .ok a none
          | .fault .. => .ok a (some (.ok none))
          | .ok p => (pocRead a p.addr 4).bind fun b v => .ok b (some (.ok (some (ofBytes v)))))).2 with
        | some (.ok (some _)) => true | _ => false) = true := by decide
theorem witness_complete : tfind (gridS (counted grid9 0)).grids 9 = some (counted grid9 0) ∧ (counted grid9 0).isOver = true
    ∧ (match (runTry (gridS (counted grid9 0)) (dispWho (gridS (counted grid9 0)) 9) (fun st =>
        putRecord st (gridLauncher st (counted grid9 0)) (dispWho (gridS (counted grid9 0)) 9) (counted grid9 0).desc
          (gridRecord (counted grid9 0)))).2 with
        | some (.ok true) => true | _ => false) = true
    ∧ (counted grid9 0).code = none ∧ (counted grid9 0).nkill = 0 := by decide

/-! ### Witnesses: placement -/

/-- The cycle in which the grid became ready has passed. -/
def dealS : State := (gridS (counted grid9 1)).modCore 0 fun c => { c with cycle := 1 }
theorem witness_deal : tfind dealS.grids 9 = some (counted grid9 1) ∧ (counted grid9 1).isReady = true
    ∧ (counted grid9 1).dealt = false ∧ dealsNext dealS (counted grid9 1) = true ∧ (0 : Nat) < 32 := by decide
/-- Core 1 is awake and idle, and has asked core 0, which holds a run of four teams of grid 9, or none. -/
def run9 (n : Nat) : Run := { grid := 9, pri := 0, aff := 0, first := 0, n := n, stride := 1, saved := none }
def stealS (q : List Run) (asked : Option Nat) (answer : Option (Option Run)) : State :=
  ((gridS (counted grid9 8)).modCore 0 fun c => { c with queue := q }).modCore 1 fun c =>
    { c with asleep := false, world := 1, asked := asked, answer := answer }
theorem witness_steal : (let c := (stealS [] none none).core 1
      c.offline = false ∧ c.dying = false ∧ c.queue = [] ∧ 0 < freeSlots (stealS [] none none) 1 ∧ c.asleep = false ∧ c.asked = none
        ∧ c.tries < 4)
    ∧ ((stealS [run9 4] (some 0) none).core 1).asked = some 0 ∧ ((stealS [run9 4] (some 0) none).core 1).answer = none
    ∧ pickSteal (stealS [] (some 0) none) 0 1 = none ∧ pickSteal (stealS [run9 4] (some 0) none) 0 1 = some (run9 4)
    ∧ (stealS [run9 4] (some 0) none).back = [] ∧ 1 < (run9 4).n
    ∧ ((stealS [] (some 0) (some (some (run9 2)))).core 1).answer = some (some (run9 2)) := by decide
theorem witness_admit : (let s := stealS [run9 4] none none
      (s.core 0).queue = [run9 4] ∧ tfind s.grids 9 = some (counted grid9 8) ∧ (run9 4).saved = none ∧ mayAdmit s 0 = true
        ∧ failRows s 0 ⟨grid9.desc, 9, 0, List.replicate (dWpt grid9.desc) (granules (dEfd grid9.desc)), true⟩ none = []
        ∧ (startAcquire s 0).2 = true) := by decide
/-- A team whose only lane has exited. -/
def exitedS : State := { ((seat nop).modLane 0 0 fun l => { l with st := .exited }).modWarp 0 (fun w => { w with path0 := none }) with frames := [] }
def team0 : Nat := ((seat nop).warp 0).team
theorem witness_retire : mayRetire exitedS team0 = true ∧ (endRelease exitedS (retireWho exitedS team0) team0).2 = none
    ∧ (match (runAcc (endRelease exitedS (retireWho exitedS team0) team0).1 (retireWho exitedS team0)
          (fun st => resetArena st (retireWho exitedS team0) (st.team team0) false)).2 with
        | some (.ok _) => true | _ => false) = true := by decide

/-! ### Witnesses: pre-emption and user interrupts -/

/-- The team with no open bundle, in a phase; grid 9 is its grid, with flush-and-restart as asked. -/
def phased (p : TeamPhase) (esc : Bool := false) (rst : Bool := true) (tot : BitVec 32 := 0) : State :=
  ({ (seat nop).modWarp 0 (fun w => { w with path0 := none }) with
      grids := [(9, { grid9 with desc := desc.set 0 (BitVec.ofNat 64 (1 + 2 ^ 32 + (if rst then 2 ^ 9 else 0))) })] }).modTeam team0
    fun t => { t with phase := p, grid := 9, escaped := esc, tot := tot, done := tot }
def grown (s : State) : State := { s with pkg := { s.pkg with svv := true, svunits := 256, svbase := 1 } }
theorem witness_prgo : ((seat nop).core 0).page.prbusy = false
    ∧ ((residents (seat nop) 0 none).all fun e => e.2.handle != 77) = true ∧ ((seat nop).core 0).preempt = none
    ∧ ((residents (seat nop) 0 none).find? fun e => e.2.handle == ((seat nop).team team0).handle).map (·.1) = some team0 := by decide
theorem witness_choose : ((phased .quiescing).team team0).phase = .quiescing
    ∧ (((phased .quiescing).teamWarps team0).all fun wk => ((phased .quiescing).warp wk).closed) = true
    ∧ ((tfind (phased .quiescing).grids 9).map fun g => dRst g.desc) = some true
    ∧ teamExited (phased .quiescing) team0 = false
    ∧ nearlyDone ((phased .quiescing (tot := 8)).team team0) 0 = true ∧ nearlyDone ((phased .quiescing).team team0) 0 = false
    ∧ ((phased .quiescing).team team0).escaped = false ∧ ((phased .quiescing true).team team0).escaped = true
    ∧ ((tfind (phased .quiescing false false).grids 9).map fun g => dRst g.desc) = some false
    ∧ (findArea (grown (phased .quiescing true)) (areaSize (grown (phased .quiescing true)) team0)).isSome = true := by decide
theorem witness_drain : ((phased (.draining 0)).team team0).phase = .draining 0
    ∧ 0 + 65536 ≤ (((phased (.draining 0)).modCore 0 fun c => { c with cycle := 65536 }).core ((phased (.draining 0)).team team0).core).cycle.toNat
    ∧ (let s := (seat nop).modCore 0 (fun c => { c with skip := [(team0, (9, 0), 65536)], cycle := 65536 });
        (team0, (9, 0), 65536) ∈ (s.core 0).skip ∧ 65536 ≤ (s.core 0).cycle.toNat) := by decide
theorem witness_flush : ((phased .flushing).team team0).phase = .flushing ∧ teamExited (phased .flushing) team0 = false
    ∧ noCommands (phased .flushing) 0 team0 true = true ∧ noEntries (phased .flushing) 0 team0 = true
    ∧ (match (runAcc (phased .flushing) (retireWho (phased .flushing) team0)
          (fun st => resetArena st (retireWho (phased .flushing) team0) ((phased .flushing).team team0) true)).2 with
        | some (.ok _) => true | _ => false) = true := by decide
theorem witness_save : ((phased .saving).team team0).phase = .saving ∧ quiet (phased .saving) 0 team0 = true
    ∧ teamExited (grown (phased .saving)) team0 = false ∧ quiet (grown (phased .saving)) 0 team0 = true
    ∧ (grown (phased .saving)).fails = []
    ∧ (let r := backAll (grown (phased .saving)) (retireWho (grown (phased .saving)) team0)
          (toBack (grown (phased .saving)) team0 ((grown (phased .saving)).core 0).l1)
       decide (r.2 = none ∧ (findArea r.1 (areaSize r.1 team0)).isSome = true)) = true := by decide
/-- A saved team at the head of core 0's queue. -/
def savedS : State :=
  let s := (phased .saved).modTeam team0 fun t => { t with saves := [⟨0x100000, 1⟩], limbo := [(0, ⟨[], [], false, [], 0, false, false⟩)] }
  { s with warps := [], lanes := [], frames := [] }.modCore 0 fun c => { c with queue := [{ run9 1 with saved := some team0 }] }
theorem witness_restore : (savedS.core 0).queue = [{ run9 1 with saved := some team0 }]
    ∧ (tfind savedS.grids 9).isSome = true ∧ mayAdmit savedS 0 = true ∧ (savedS.team team0).reqs = []
    ∧ failRows savedS 0 ⟨desc, 9, 0, [0], false⟩ none = [] ∧ (startAcquire savedS 0).2 = true
    ∧ (match (runAcc (startAcquire savedS 0).1 (queueWho savedS 0) (fun st => frameWords st 0 (savedS.team team0)
          ((List.range (savedS.team team0).wpt).map (currentFrames savedS 0x100000 (savedS.team team0))).flatten)).2 with
        | some (.ok (.ok _)) => true | _ => false) = true := by decide
def uintrS : State := (phased .running).modTeam team0 fun t => { t with uien := true, uiq := [(5, 6)] }
theorem witness_uintr_deliver : (uintrS.team team0).uiq = [(5, 6)] ∧ uiTarget uintrS team0 = some 0
    ∧ (List.range 32).filter (fun l => (uintrS.lane 0 l).st == .run && (uintrS.lane 0 l).cix == 0) = [0]
    ∧ (uintrS.team team0).uien = true ∧ (uintrS.team team0).phase = .running ∧ (uintrS.warp 0).closed = true
    ∧ (uintrS.warp 0).parked = false ∧ (uintrS.warp 0).parking = false ∧ (uintrS.warp 0).trec.v = false
    ∧ (acquireAct uintrS (whoLane uintrS 0 0) 1).2 = none
    ∧ (let h := (uintrS.team team0).handle;
        bits h 31 21 = uintrS.pkg.agent ∧ (uintrS.teams.find? fun e => e.2.handle == h).map (·.1) = some team0
        ∧ (uintrS.team team0).uiq.length < 8)
    ∧ bits (0xFFE00000#32) 31 21 ≠ uintrS.pkg.agent := by decide

/-! ### Witnesses: coherence -/

/-- A home at agent 0 whose line 5 stands in a state of the directory, with an entry of the holders. -/
def homeS (d : BitVec 2) (h : Option Holder := none) : State :=
  let s := State.reset.setDir 5 d
  match h with | some x => s.setHolder 5 x | none => s
def shared2 : Holder := .ptrs 0 none false [3, 4]
def owned3 : Holder := .ptrs 0 (some 0) false [3]
def opened (s : State) : State := { s with selPg := [(0, 255)] }
/-- HomeRequests: an idle line in each state, for a request of agent 3 or 4 that the selvedge admits; a refused cell; a busy line; a
fenced agent; a secure line. -/
theorem witness_home : 3 ∉ (homeS 0).pkg.fenced ∧ 3 ∉ (homeS 0).pkg.marks ∧ (homeS 0).holdsReq 5 = false ∧ (homeS 0).noAcks 5 = true
    ∧ (homeS 0).hostOwns (.rds ⟨3, 9⟩ 5) 5 = false ∧ (noteCell (homeS 0) 3 9).recover 5 = noteCell (homeS 0) 3 9 ∧ agentOf 5 = (homeS 0).pkg.agent ∧ localOf 5 = 5 ∧ inSecure (homeS 0) 5 = false
    ∧ (homeS 0).txOf 5 = none ∧ (opened (homeS 0)).admits 5 9 = true ∧ (homeS 0).setFull 5 = false
    ∧ (homeS 0).dir 5 = 0 ∧ (homeS 1 shared2).dir 5 = 1 ∧ (homeS 1 shared2).holder 5 = some shared2 ∧ rhtTag 5 = 0
    ∧ (noteCell (homeS 1 shared2) 6 9).recover 5 = noteCell (homeS 1 shared2) 6 9
    ∧ (noteCell (homeS 2 owned3) 6 9).recover 5 = noteCell (homeS 2 owned3) 6 9 ∧ 6 ∉ [3, 4]
    ∧ (homeS 2 owned3).holder 5 = some owned3 ∧ (homeS 2 owned3).dir 5 = 2 ∧ (homeS 3).dir 5 = 3 ∧ (∀ a ∈ [3, 4], a < 2000)
    ∧ (homeS 1 (some (.ptrs 0 none false [3]))).holder 5 = some (.ptrs 0 none false [3]) := by decide
theorem witness_home_other : reqCell (.rdx 3 9 5) = some 9 ∧ 9 < noCell ∧ (homeS 0).admits 5 9 = false
    ∧ (((homeS 2 owned3).startTx 5 .own [] true []).txOf 5).isSome = true
    ∧ ((homeS 2 owned3).startTx 5 .own [] true []).hostWb (.rds ⟨4, 9⟩ 5) 5 = false
    ∧ (let s := (homeS 2 (some (.ptrs 0 (some 0) false [2000]))).startTx 5 .recall [2000] false []
       (s.txOf 5).isSome = true ∧ s.holder 5 = some (.ptrs 0 (some 0) false [2000]) ∧ s.dir 5 = 2 ∧ 2000 ∉ s.pkg.fenced ∧ 2000 ∉ s.pkg.marks)
    ∧ 3 ∈ ({ homeS 0 with pkg := { Pkg.reset with fenced := [3] } }).pkg.fenced
    ∧ inSecure { homeS 0 with pkg := { Pkg.reset with secLim := 1 } } 5 = true := by decide
/-- A request of the package for line 2^33 + 5 of agent 1, and a copy of that line. -/
def farLine : Nat := 2 ^ 33 + 5
def remote (k : DReq) : State := { State.reset with reqs := [{ id := 9, kind := k, line := farLine, cores := [0], waiters := [(.core 3, 50)], given := none }] }
def held (st : LineState) : State := { State.reset with copies := [(farLine, ⟨st, lineCleared⟩)] }
def owed (n : Int) (k : Nat) : Acks := ⟨farLine, [0], n, [], k, 50, []⟩
theorem witness_agent : (held .excl).noAcks farLine = true ∧ tfind (held .excl).copies farLine = some ⟨.excl, lineCleared⟩
    ∧ (held .excl).fwds = [] ∧ agentOf farLine ≠ State.reset.pkg.agent
    ∧ ({ held .modified with acks := [owed 1 0] }).noAcks farLine = false
    ∧ (findReq (remote .rds) farLine fun k => k == .rds).isSome = true ∧ (findReq (remote .rdx) farLine DReq.owns).isSome = true
    ∧ (findReq (remote .upg) farLine fun k => k.owns && k != .wrfull).isSome = true
    ∧ (findReq (remote (.rdu true)) farLine DReq.untracked).isSome = true
    ∧ ({ held .modified with acks := [owed 1 0] }).acks.find? (fun x => x.line == farLine) = some (owed 1 0)
    ∧ ({ held .modified with acks := [owed 1 1] }).acks.find? (fun x => x.line == farLine && x.dirties != 0) = some (owed 1 1)
    ∧ (findReq (remote (.rdu true)) farLine fun k => k.owns && k != .copyx || k == .rdu true).isSome = true
    ∧ (findReq (remote .rds) farLine fun _ => true).isSome = true ∧ (roomForCopy (remote .rds) farLine).isSome = true
    ∧ ((remote .rds).reqs.all fun r => !r.inv && !r.gone && !r.waiters.isEmpty) = true ∧ (held .excl).pkg.fmarks = []
    ∧ (held .modified).owesAcks farLine = false ∧ ({ held .modified with acks := [owed 1 0] }).owesAcks farLine = true := by decide
/-- A read that an Inv has overtaken, and an Inv whose home has marked it. -/
theorem witness_stale : ((staleReads (remote .rds) farLine).reqs.all fun r => r.inv && !r.waiters.isEmpty) = true
    ∧ tfind (remote .rds).copies farLine = none
    ∧ agentOf farLine ∈ ({ held .shared with pkg := { Pkg.reset with fmarks := [1] } }).pkg.fmarks := by decide
theorem witness_agent_home : agentOf 5 = (homeS 2 owned3).pkg.agent ∧ 3 ≠ 4
    ∧ ((homeS 2 owned3).startTx 5 (.request (.rds ⟨4, 9⟩ 5)) [] true []).homeTx
        = [{ line := 5, what := .request (.rds ⟨4, 9⟩ 5), owe := [], reply := true, queue := [] }]
    ∧ ((homeS 2 owned3).startTx 5 (.request (.rds ⟨4, 9⟩ 5)) [] true []).holder 5 = some owned3 ∧ 3 ∉ State.reset.pkg.fenced
    ∧ (homeS 2 (some (.ptrs 0 (some 0) true [3]))).holder 5 = some (.ptrs 0 (some 0) true [3])
    ∧ (homeS 2 owned3).dir 5 = 2 ∧ agentOf 5 = State.reset.pkg.agent
    ∧ ({ State.reset with wbuf := [⟨farLine, lineCleared, false⟩] }).wbuf = [⟨farLine, lineCleared, false⟩] := by decide
/-- A port that is up toward agent 1, last heard at time 0. -/
def portUp : Port := { Port.reset with up := true, peer := some 1, width := 3 }
def linked (p : Port) (us : Nat := 50) : State :=
  { State.reset with ports := [(0, p)], usec := us
                     pkg := { Pkg.reset with fwst := .ready, routes := [(1, BitVec.ofNat 64 (2 ^ 63))] } }
theorem witness_death : (linked portUp).ports = [(0, portUp)] ∧ 1 ∉ (linked portUp).pkg.fenced ∧ portUp.heard + 50 ≤ (linked portUp).usec
    ∧ 1 ≠ State.reset.pkg.agent ∧ 3 ∈ ({ homeS 2 owned3 with pkg := { Pkg.reset with fenced := [3] } }).pkg.fenced
    ∧ ({ homeS 2 owned3 with pkg := { Pkg.reset with fenced := [3] } }).holder 5 = some owned3
    ∧ ({ homeS 2 owned3 with pkg := { Pkg.reset with fenced := [3] } }).txOf 5 = none := by decide
theorem witness_selvedge : excluded (setPage State.reset 0 1) 0 = []
    ∧ excluded { setPage { homeS 2 owned3 with selPg := [(0, 255)] } 0 0 with pkg := { Pkg.reset with selWas := [(0, [255])], seen := [(3, 9)] } } 0
        = [5] := by decide

/-! ### Witnesses: fabric, host link, boot and supervisor cores -/

theorem witness_ports : (linked Port.reset).pkg.fwst = .ready ∧ (linked Port.reset).pkg.stopped = false ∧ ((linked Port.reset).port 0).up = false
    ∧ ((linked Port.reset).port 0).pick ≠ 0 ∧ Port.reset.goodLanes = 4 ∧ Port.reset.wcap = 3 ∧ ({ Port.reset with bad := 1 }).goodLanes = 3
    ∧ ({ Port.reset with bad := 15 }).goodLanes = 0 ∧ ((linked { portUp with rtrn := true }).port 0).rtrn = true
    ∧ ((linked portUp).port 0).sent + 10 ≤ (linked portUp).usec ∧ (∀ a, ((linked portUp).port 0).peer = some a → a ∉ (linked portUp).pkg.fenced)
    ∧ ((linked portUp).port 0).hbl = false ∧ ((linked portUp).port 0).heard + 50 ≤ (linked portUp).usec
    ∧ ((linked portUp).route 1).getLsbD 63 = true ∧ ((linked portUp).port ((linked portUp).mport 1)).up = true := by decide
/-- A route whose minimal port is 0, with one intermediate, agent 2, behind port 1. -/
def detourS : State :=
  { linked { portUp with depth := [(0, 100)] } with
      ports := [(0, { portUp with depth := [(0, 100)] }), (1, { portUp with peer := some 2 })]
      pkg := { (linked portUp).pkg with routes := [(1, BitVec.ofNat 64 (2 ^ 63 + 2 ^ 44 + 2)), (2, BitVec.ofNat 64 (2 ^ 63 + 2 ^ 48))] } }
theorem witness_detour : detourS.detour 1 0 = some 2 := by decide
def rated : State := { State.reset with pkg := { Pkg.reset with rates := [(7, ⟨512, 0, 0, 0⟩)] }, usec := 5 }
def halved (st : LineState) : State := { State.reset with halves := [(9, ⟨st, [1], false⟩)] }
theorem witness_hostlink : tfind rated.pkg.rates 7 = some ⟨512, 0, 0, 0⟩ ∧ 0 + max 1 rated.pkg.incp.toNat ≤ rated.usec
    ∧ tfind (halved .modified).halves 9 = some ⟨.modified, [1], false⟩ ∧ LineState.modified ≠ .inv
    ∧ (findReq { State.reset with reqs := [{ id := 9, kind := .rdx, line := halfKey 9, cores := [0], waiters := [], given := none }] } (halfKey 9) DReq.owns).isSome
        = true
    ∧ 0 + 64 ≤ usable (linked portUp) ∧ ((linesOf 0 64).all fun l => (linked portUp).dir l != 2) = true
    ∧ ((linesOf 0 2).all fun l => !inSecure (linked portUp) l && (linked portUp).admits l (linked portUp).ownCell) = true
    ∧ (match hostWrite ((linked portUp).unwait (hostWho (linked portUp)).who) 0 [1, 2] with
        | .ok _ _ => true | _ => false) = true := by decide
def booted (f : FwState) (t : Tdisp := .unlocked) : State := { State.reset with pkg := { Pkg.reset with power := true, fwst := f, tdisp := t } }
theorem witness_boot : State.reset.pkg.power = false ∧ (booted .waitImage).pkg.power = true ∧ (booted .verify).pkg.fwst = .verify
    ∧ (booted .init).pkg.fwst = .init ∧ (booted .ready).pkg.tdisp = .unlocked ∧ (booted .ready .locked).pkg.tdisp = .locked
    ∧ (match (runAcc (booted .ready .run) (ocposanWho (booted .ready .run)) (fun st => zeroArenas st (ocposanWho (booted .ready .run))
          (((booted .ready .run).grids.map (·.2)).filter fun g => dWld g.desc))).2 with
        | some _ => true | _ => false) = true
    ∧ State.reset.pkg.corrT.length < 1024 ∧ agentOf 5 = State.reset.pkg.agent ∧ State.reset.holder (localOf 5) = none
    ∧ (tfind (seat nop).teams team0).isSome = true ∧ State.reset.pkg.div.toNat ≤ 8
    ∧ (let s := State.reset.modCore 3 (fun c => { c with dying := true });
        (s.core 3).dying = true ∧ (s.core 3).offline = false ∧ (s.core 3).queue = [] ∧ residents s 3 none = [] ∧ s.back = []) := by decide
/-- A secure grid whose arena lies in the memory of a package that is not reached. -/
def farArena : State :=
  let s := (booted .ready .run).modCore 0 fun c =>
    { c with oc := [{ entry 6 3 with dws := [BitVec.ofNat 64 (2 ^ 63 + 3 * 2 ^ 60 + 0x3F * 2 ^ 54 + 4095), 0, BitVec.ofNat 64 (2 ^ 40), 0] }]
             ocbase := 1 }
  { s with grids := [(9, { grid9 with desc := (desc.set 0 (BitVec.ofNat 64 (1 + 2 ^ 8 + 2 ^ 32))).set 8 1, arena := ⟨6, 0, 1⟩ })] }
/-- BootResults: ports that train and a route; a stop with nothing held, one that waits for a line, one that cannot zero an arena. -/
theorem witness_bring_up : ((booted .init).port 0).up = false ∧ ((booted .init).port 0).pick ≠ 0
    ∧ (⟨true, [(0, 1, 1)], [(1, 5)]⟩ : BringUp).trained = true := by decide
theorem witness_stop : secureHeld (booted .ready .run) = [] ∧ secureBusy (booted .ready .run) = false
    ∧ (let s := ({ booted .ready .run with pkg := { (booted .ready .run).pkg with secLim := 1 } }).startTx 5 .recall [3] false []
       secureHeld s = [] ∧ secureBusy s = true ∧ s.pkg.tdisp ≠ .unlocked)
    ∧ secureHeld farArena = [] ∧ secureBusy farArena = false
    ∧ (match (runAcc farArena (ocposanWho farArena) (fun st => zeroArenas st (ocposanWho farArena)
          ((farArena.grids.map (·.2)).filter fun g => dWld g.desc))).2 with
        | some (.error _) => true | _ => false) = true := by decide
theorem witness_errors : 1024 ≤ (List.replicate 1024 0).length ∧ 0 ≤ (List.replicate 1024 0).getD 1023 0 + 3600000000 := by
  simp
def oinvS (rel : Bool) : State := (withTables (seat nop)).modCore 0 fun c => { c with oinv := [⟨0, 1, 5, rel⟩] }
def copyS (n : BitVec 32) (busy : Bool) : State := State.reset.modCore 0 fun c =>
  { c with page := { c.page with mcsrc := 0x1000, mcdst := 0x2000, mclen := n, mcbusy := busy } }
theorem witness_supervisor : oinvOf (oinvS false) 0 1 5 false = some ⟨0, 1, 5, false⟩
    ∧ (let r := runAcc (dropXlat (oinvS false) 0 1 5) (oinvWho (oinvS false) 0) (fun st => rawEntry st 0 1 5);
        (match r.2 with | some _ => true | none => false) = true ∧ r.1.defers = []
        ∧ (backAll (dropXlat r.1 0 1 5) (oinvWho (oinvS false) 0)
            (((dropXlat r.1 0 1 5).core 0).l1.filter fun x => x.realm == 1 && x.obj == 5)).2 = none)
    ∧ oinvOf (oinvS true) 0 1 5 true = some ⟨0, 1, 5, true⟩
    ∧ (State.reset.core 0).page.cpaddr = none ∧ State.reset.fails = []
    ∧ ((copyS 2 false).core 0).page.mcbusy = false ∧ ((copyS 2 false).core 0).page.mclen ≠ 0
    ∧ ((copyS 2 true).core 0).page.mcbusy = true ∧ addrOk (copyS 2 true) 0x1000 = true ∧ addrOk (copyS 2 true) 0x2000 = true
    ∧ (match (runTry (copyS 2 true) (copyWho (copyS 2 true) 0) (fun st => copyBlock st (copyWho (copyS 2 true) 0) 0x1000 0x2000)).2 with
        | some (.ok ()) => true | _ => false) = true
    ∧ (match (runAcc State.reset (supWho State.reset 0) (fun st => l1Read st (supWho State.reset 0) supKey 0x1000 8)).2 with
        | some (.ok _) => true | _ => false) = true
    ∧ (match (runAcc State.reset (supWho State.reset 0) (fun st => l1Write st (supWho State.reset 0) supKey 0x1000 [1] false)).2 with
        | some (.ok ()) => true | _ => false) = true
    ∧ (releaseAct State.reset (supWho State.reset 0) 1).2 = none := by decide
theorem witness_window : (State.reset.warp 0).parked = false
    ∧ (let s := (seat nop).modWarp 0 (fun w => { w with parked := true }); (tfind s.warps 0).isSome = true ∧ (s.warp 0).parked = true)
    := by decide

/-! ### Witnesses: completion under conditions -/

/-- `Allowed` and `Hits` as tests. -/
def allows (s : State) (wk l : Nat) (ref : Val) (off : Int) (size : Nat) (rights : List Nat) (align : Nat) (p : Place) : Bool :=
  decide ((s.core (wkCore wk)).ocbase.getLsbD 0 = true ∧ ref.tag = true ∧ objOf ref.bits ≠ 0
    ∧ (s.core (wkCore wk)).oc.find? (fun e => e.realm == (s.teamOf wk).realm && e.obj == objOf ref.bits) = some p.ent
    ∧ p.ent.view = false ∧ p.top = p.ent ∧ (p.top.wld = true → (s.teamOf wk).wld = true)
    ∧ visFault s (s.teamOf wk).party p.top = none ∧ (∀ r ∈ rights, p.ent.has r = true) ∧ 0 ≤ off ∧ off + size ≤ p.ent.len
    ∧ (align = 0 ∨ off.toNat % align = 0) ∧ p.top.mig = false
    ∧ (s.core (wkCore wk)).migOff.contains (p.top.realm, p.top.obj) = false ∧ p.top.hm = false ∧ p.poff = off.toNat
    ∧ p.addr = (bits (p.top.dw 2) 50 0 + off.toNat) % 2 ^ 51 ∧ addrOk s p.addr = true ∧ secureBad s p.top p.addr = false
    ∧ s.fails.find? (fun f => f.who == .lane wk l) = none)
theorem allows_allowed {s : State} {wk l : Nat} {ref : Val} {off : Int} {size : Nat} {rights : List Nat} {align : Nat} {p : Place}
    (h : allows s wk l ref off size rights align p = true) : Allowed s wk l ref off size rights align p := by
  obtain ⟨h1, h2, h3, h4, h5, h6, h7, h8, h9, h10, h11, h12, h13, h14, h15, h16, h17, h18, h19, h20⟩ := of_decide_eq_true h
  exact ⟨h1, h2, h3, h4, h5, h6, h7, h8, h9, h10, h11, h12, ⟨h13, h14⟩, h15, h16, h17, h18, h19, h20⟩
def hitsL1 (s : State) (wk l : Nat) (k : Key) (addr n : Nat) (e : L1Line) : Bool :=
  decide (k.pub = false ∧ addr / 2 ^ 40 = s.pkg.agent ∧ s.pkg.agent < 2000 ∧ addr % 128 + n ≤ 128 ∧ 0 < n
    ∧ s.l1Find (wkCore wk) k (addr / 128) = some e ∧ s.dir (addr / 128 % 2 ^ 33) ≠ 3) && s.defers.all fun d => !isRead wk l d
theorem hitsL1_hits {s : State} {wk l : Nat} {k : Key} {addr n : Nat} {e : L1Line} (h : hitsL1 s wk l k addr n e = true) :
    Hits s wk l k addr n e := by
  unfold hitsL1 at h
  rw [Bool.and_eq_true] at h
  obtain ⟨h1, h2, h3, h4, h5, h6, h7⟩ := of_decide_eq_true h.1
  exact ⟨h1, h2, h3, h4, h5, h6, h7, fun d hd => by simpa using List.all_eq_true.mp h.2 d hd⟩
/-- The place of byte `off` of object 5. -/
def place5 (off : Nat) : Place := ⟨entry 5, entry 5, off, 0x10000 + off⟩
def g120 : Tab Val := [gr 0 5 0, gi 1 120]

/-- LoadStoreCompletion: the last eight bytes of a line, for LD with and without acquire, FLD and ST; PREF of them and of no object. -/
theorem witness_ld_done : starts (seatM (.ld ldI) g120) (.ld ldI) = true
    ∧ allows (seatM (.ld ldI) g120) 0 0 ⟨refOf 5 0, true⟩ (memOff ldI 0 120 8) 8 [rR] 8 (place5 120) = true
    ∧ (place5 120).addr / 2 ^ 40 = (seatM (.ld ldI) g120).pkg.agent ∧ (place5 120).addr % 128 + 8 ≤ 128
    ∧ anyEmpty (seatM (.ld ldI) g120) 0 0 [4, 5] = false := by decide
theorem witness_ld_acquire_done : starts (seatM (.ld { ldAcq with scope := 0 }) g120) (.ld { ldAcq with scope := 0 }) = true
    ∧ allows (seatM (.ld { ldAcq with scope := 0 }) g120) 0 0 ⟨refOf 5 0, true⟩ 120 8 [rR] 8 (place5 120) = true
    ∧ hitsL1 (seatM (.ld { ldAcq with scope := 0 }) g120) 0 0 (place5 120).key (place5 120).addr 8 l1line = true
    ∧ inSpill (seatM nop) 0 (place5 120) 8 = false := by decide
theorem witness_fld_done : starts (seatM (.fld fldI) g120) (.fld fldI) = true
    ∧ allows (seatM (.fld fldI) g120) 0 0 ⟨refOf 5 0, true⟩ 120 8 [rR, rNC] 8 (place5 120) = true
    ∧ anyEmpty (seatM (.fld fldI) g120) 0 0 [0x14, 0x15] = false := by decide
theorem witness_st_done : starts (seatM (.st stI) g120) (.st stI) = true ∧ stI.ord ≠ 2
    ∧ allows (seatM (.st stI) g120) 0 0 ⟨refOf 5 0, true⟩ 120 8 [rW] 8 (place5 120) = true
    ∧ hitsL1 (seatM (.st stI) g120) 0 0 (place5 120).key (place5 120).addr 8 l1line = true := by decide
theorem witness_pref_done : starts (seatM (.pref (memf 0 0x10 0x11 0)) g120) (.pref (memf 0 0x10 0x11 0)) = true
    ∧ allows (seatM (.pref (memf 0 0x10 0x11 0)) g120) 0 0 ⟨refOf 5 0, true⟩ 120 64 [rR] 0 (place5 120) = true
    ∧ starts (seatM (.pref (memf 0 0x10 0x11 0)) []) (.pref (memf 0 0x10 0x11 0)) = true ∧ objOf Val.zero.bits = 0 := by decide
/-- A load in flight that is cancelled, and one whose line stands in L1. -/
theorem witness_response_done : (match loading.defers with
    | [d] => decide ({ loading with defers := [{ d with dead := true }] }.defers.find? (fun y => y.id == d.id && !y.isHost)
          = some { d with dead := true }
        ∧ d.undef = false ∧ d.kind = .load 8 false ∧ readAhead loading d = false ∧ d.addr / 2 ^ 40 < 2000 ∧ d.addr % 128 + 8 ≤ 128
        ∧ (loading.l1Find 0 ⟨d.realm, d.obj, d.pub, d.base⟩ (d.addr / 128)).isSome = true)
    | _ => false) = true := by decide
/-- A call and a refill at the head of the queue with granules for them, and a spill that finds its frame and its space. -/
def granted (r : FReq) : State := ({ tight with frames := tight.frames.drop 18 }).modPart 0 fun p => { p with reqs := [r] }
theorem witness_granted : headFits (granted waiting) 0 = true ∧ ((granted waiting).part 0).reqs = [waiting]
    ∧ headFits (granted { waiting with kind := .refill 20 }) 0 = true
    ∧ (tight.part 0).reqs = [waiting] ∧ (tight.teamOf waiting.wk).phase ≠ .saving
    ∧ (pickSpill tight 0).map (·.1) = some 3 ∧ (tight.team (tight.warp (tight.frame 3).wk).team).spill = some ⟨6, 0, 4096, 0⟩ := by
  decide +kernel
/-- The same with a slot that has room for the record; the slot of `tight` has none. -/
def roomy : State := tight.modTeam 0 fun t => { t with spill := some ⟨6, 0, 65536, 0⟩ }
theorem witness_span : dofferWakes roomy 0 = true ∧ (pickSpill roomy 0).map (·.1) = some 3 ∧ (roomy.part 0).reqs = [waiting]
    ∧ findSpan (roomy.team 0).recs (recSize 192) 65536 = some 0 ∧ findSpan (tight.team 0).recs (recSize 192) 4096 = none := by
  decide +kernel
/-- The record of a small frame in object 6, whose lines have no holders elsewhere. -/
def spilt : State := spilling.modLane 0 0 fun l => { l with st := .blocked .frame }
theorem witness_slot : (spilt.part 0).busy = some (.spill 1 0) ∧ spillable spilt 0 (1, spilt.frame 1) = true ∧ spilt.fails = []
    ∧ (spilt.core 0).ocbase.getLsbD 0 = true ∧ (spilt.team team0).spill = some ⟨6, 0, 4096, 0⟩
    ∧ (spilt.core 0).oc.find? (fun y => y.realm == (spilt.team team0).realm && y.obj == 6) = some (entry 6 3)
    ∧ (entry 6 3).view = false ∧ (entry 6 3).hm = false ∧ 0 + 0 + 8 * (recWords spilt (spilt.frame 1)).length ≤ (entry 6 3).len
    ∧ bits ((entry 6 3).dw 2) 50 0 / 2 ^ 40 = spilt.pkg.agent
    ∧ bits ((entry 6 3).dw 2) 50 0 % 2 ^ 40 + 8 * (recWords spilt (spilt.frame 1)).length ≤ usable spilt
    ∧ spilt.moving 0 (entry 6 3) = false ∧ spilt.pkg.secLim ≤ spilt.pkg.secBase ∧ recSize (spilt.frame 1).demand ≤ (entry 6 3).len := by decide +kernel
theorem witness_slot_lines : ∀ l, spilt.dir l = 0 := fun _ => rfl

/-- EventCompletion, teams: nothing of theirs stands in L1, and they have nothing of their own. -/
theorem witness_teams_done : pubLines (stealS [run9 4] none none) 0 = []
    ∧ (exitedS.fails = [] ∧ pubLines exitedS 0 = [] ∧ exitedS.acks = [] ∧ (exitedS.team team0).objs = [] ∧ (exitedS.team team0).views = []
        ∧ (exitedS.team team0).arena = none ∧ (exitedS.team team0).core = 0)
    ∧ ((phased .flushing).fails = [] ∧ ((phased .flushing).team team0).objs = [] ∧ ((phased .flushing).team team0).views = []
        ∧ ((phased .flushing).team team0).arena = none)
    ∧ (((grown (phased .saving)).core 0).l1 = [] ∧ (grown (phased .saving)).fails = [] ∧ (findArea (grown (phased .saving)) (areaSize (grown (phased .saving)) team0)).isSome = true)
    ∧ (pubLines savedS 0 = [] ∧ savedS.fails = []
        ∧ ((List.range (savedS.team team0).wpt).map (currentFrames savedS 0x100000 (savedS.team team0))).flatten = [])
    ∧ pubLines uintrS 0 = [] := by decide
/-- Supervisor cores: an object without lines in L1, a line with P, a block of the package's own memory, a line in L1. -/
def supS : State := State.reset.modCore 0 fun c =>
  { c with l1 := [{ realm := 0, obj := 0, line := 32, pub := supKey.pub, base := supKey.base, data := lineCleared, dirty := 0, tdirty := 0
                    mdirty := 0 }] }
theorem witness_sup_done : (oinvS false).fails = [] ∧ (oinvS false).defers = []
    ∧ (match rawEntry (dropXlat (oinvS false) 0 1 5) 0 1 5 with | .ok z _ => decide (z.defers = [] ∧ (z.core 0).l1 = []) | _ => false) = true
    ∧ 5 * 128 % 2 ^ 51 / 2 ^ 40 = State.reset.pkg.agent ∧ State.reset.pkg.agent < 2000
    ∧ (copyS 2 true).fails = [] ∧ (copyS 2 true).noAcks (0x1000 / 128) = true ∧ (0x2000 + 64 : Nat) % 2 ^ 40 < usable (copyS 2 true) ∧ (copyS 2 true).dir (0x2000 / 128) = 0
    ∧ (supReg? 0 0x1000).isSome = false ∧ (supReg? 0 0x0F000FF8).isSome = true ∧ addrOk supS 0x1000 = true ∧ addrOk supS 0x1007 = true
    ∧ supS.fails = [] ∧ (supS.l1Find 0 supKey (0x1000 / 128)).isSome = true ∧ 0x1000 % 128 + 8 ≤ 128
    ∧ ((residents (seat nop) 0 none).any fun e => e.2.realm == 1) = true := by decide
/-- The home of a line with no holder elsewhere, one sharer, one owner, and P. -/
def aloneS (d : BitVec 2) (h : Option Holder := none) : State := opened (homeS d h)
theorem witness_home_done : (aloneS 0).rht = [] ∧ (aloneS 0).dir 5 = 0 ∧ (aloneS 0).pkg.fenced = [] ∧ (aloneS 0).pkg.marks = []
    ∧ reqSrc (.rds ⟨3, 9⟩ 5) < 2000 ∧ agentOf 5 = (aloneS 0).pkg.agent ∧ inSecure (aloneS 0) 5 = false ∧ (aloneS 0).homeTx = []
    ∧ (aloneS 0).acks = [] ∧ (aloneS 0).fwds = [] ∧ (aloneS 0).admits 5 9 = true
    ∧ (aloneS 1 (some (.ptrs 0 none false [3]))).holder 5 = some (.ptrs 0 none false [3])
    ∧ (aloneS 2 owned3).holder 5 = some (.ptrs 0 (some 0) false [3]) ∧ (aloneS 3).rht = [] ∧ (aloneS 3).dir 5 = 3 := by decide
/-- An agent with a copy in M, with one request outstanding, with one acknowledgement to come, and one that holds a write-back. -/
theorem witness_agent_done : (held .modified).pkg.fenced = [] ∧ (held .modified).acks = [] ∧ (held .modified).fwds = []
    ∧ agentOf farLine ≠ (held .modified).pkg.agent ∧ tfind (held .modified).copies farLine = some ⟨.modified, lineCleared⟩
    ∧ (held .modified).pkg.fmarks = [] ∧ (remote .rds).copies = [] ∧ (remote .rds).reqs.length = 1 ∧ ((remote .rds).reqs.all fun r => !r.inv) = true
    ∧ ({ remote .upg with copies := [(farLine, ⟨.shared, lineCleared⟩)] }).reqs.length = 1
    ∧ ({ held .modified with acks := [owed 1 1] }).acks = [owed 1 1] ∧ (owed 1 1).count = 1 ∧ (owed 1 1).dirties = 1
    ∧ ({ (homeS 2 owned3).startTx 5 (.request (.rds ⟨4, 9⟩ 5)) [] true [] with epoch := 0 }).homeTx
        = [{ line := localOf 5, what := .request (.rds ⟨4, 9⟩ 5), owe := [], reply := true, queue := [] }] ∧ (remote .rdx).reqs.length = 1 := by
  decide
/-- A message to a dead agent and one from a dead agent; a cell of which one package is dead. -/
def fencedS : State := { State.reset with pkg := { Pkg.reset with fenced := [1, 3] } }
theorem witness_fenced : 1 ∈ fencedS.pkg.fenced ∧ 1 ≠ fencedS.pkg.agent ∧ agentOf farLine ∈ fencedS.pkg.fenced ∧ agentOf 5 ∉ fencedS.pkg.fenced
    ∧ State.reset.deadCells [1] = [1] ∧ State.reset.homeTx = [] ∧ (1 : Nat) < 2000
    ∧ (∀ e ∈ (linked portUp).ports, e.2.peer = some 1 → e.2.heard + 50 ≤ (linked portUp).usec) := by decide
/-- Whether a package keeps a secure world is fixed, one way or the other. -/
theorem witness_secure_agent : Config.secureAgent 3 = true ∨ Config.secureAgent 3 = false := by
  cases Config.secureAgent 3 <;> simp
/-- A port whose adaptive channels have no flit, and one in which each holds one more than its room. -/
def fullPort : Port := { portUp with depth := [(0, Config.chanRoom + 1), (1, Config.chanRoom + 1)] }
theorem witness_channel_room : ((linked portUp).adaptive 0 0 0).isSome = true ∧ (linked fullPort).adaptive 0 0 0 = none := by
  have h0 : tget ((linked fullPort).port 0).depth 0 0 = Config.chanRoom + 1 := rfl
  have h1 : tget ((linked fullPort).port 0).depth 1 0 = Config.chanRoom + 1 := rfl
  have z : ∀ n, tget ((linked portUp).port 0).depth n 0 = 0 := fun n => rfl
  have d := Nat.mod_two_eq_zero_or_one (Config.freeByte (linked fullPort).fresh 0).toNat
  exact ⟨by simp [State.adaptive, z], by rcases d with d | d <;> simp [State.adaptive, d, h0, h1]⟩
theorem witness_links : ((linked portUp).port ((linked portUp).mport 1)).usable = true ∧ 5 ≠ (linked portUp).pkg.agent
    ∧ 5 ∉ (linked portUp).pkg.fenced ∧ 1 ≠ (linked portUp).pkg.agent
    ∧ ({ hostS State.reset with biPend := [(7, 3)] }).pkg.host = some 2000 ∧ 3 ≠ (hostS State.reset).pkg.agent
    ∧ ((linesOf 0 64).all fun l => (linked portUp).noAcks ((linked portUp).lineOf l)) = true := by decide

/-! ### Witnesses: the step, memory and encoding -/

def placed (w : Word) : State := State.reset.withFetchWord 64 w.toNat
def powered : State := { State.reset with agenda := [.event .powerOn] }
/-- A ready grid is pending. -/
def busyS : State := { gridS (counted grid9 1) with iq := [], cur := none }
/-- A bundle whose header is at fault. -/
def badHeader : State := (placed 0).modWarp 0 fun w => { w with path0 := w.path0.map fun b => { b with words := [], bad := some (flt .illegal 3) } }
theorem witness_bad_header : badHeader.agenda = [] ∧ badHeader.iq = [(0, 0)] ∧ (badHeader.warp 0).trec.v = false
    ∧ (match openBundle { badHeader with iq := [] } 0 0 with
        | some b => decide (b.nextWord = none ∧ b.bad = some (flt .illegal 3) ∧ lanesOf b.lanes = [0] ∧ (badHeader.lane 0 0).h = false)
        | none => false) = true := by decide
/-- StepRunsDecodedWord: a bundle whose next word is MOVI, one whose word no row has, an event on the agenda, engines with and without
something to do, and a stopped package. -/
theorem witness_step : (placed 0x000148000000001D).pkg.stopped = false ∧ (placed 0x000148000000001D).agenda = []
    ∧ (placed 0x000148000000001D).iq = [(0, 0)]
    ∧ ((openBundle { placed 0x000148000000001D with iq := [] } 0 0).bind Bundle.nextWord) = some 0x000148000000001D
    ∧ (decodeShape 0x000148000000001D).isSome = true
    ∧ ((openBundle { placed 0x03FF000000000000 with iq := [] } 0 0).bind Bundle.nextWord) = some 0x03FF000000000000
    ∧ decodeShape 0x03FF000000000000 = none ∧ powered.agenda = [.event .powerOn] ∧ Instr.powerOn.isWord = false
    ∧ ({ State.reset with pkg := { Pkg.reset with stopped := true } }).pkg.stopped = true := by decide
theorem witness_engines : busyS.pkg.stopped = false ∧ busyS.agenda = [] ∧ busyS.iq = []
    ∧ ((engineEvents busyS).find? (changes busyS)).map Instr.isWord = some false
    ∧ State.reset.pkg.stopped = false ∧ State.reset.agenda = [] ∧ State.reset.iq = [] ∧ engineEvents State.reset = [] := by decide
/-- The canonical form holds at reset and of a memory with contents, and a step is taken there. -/
theorem witness_memory : Memory.wf State.reset.hbm = true ∧ Memory.wf (withTables (seat nop)).hbm = true
    ∧ (match step (placed 0x000148000000001D) with | .next _ => true | _ => false) = true := by decide
theorem witness_encode : nop.wf = true ∧ (decodeShape 0x000148000000001D).isSome = true := by decide
/-- A step with MOVI pushes the value on the queue of the lane that runs it, and writes it to f8. -/
theorem test_step_movi : (match step (placed 0x000148000000001D) with
      | .next t => ((t.frameOf 0 0).reg 8 0).val.toNat == 0x1D && (top t).bits == 0x1D | _ => false) = true := by decide
end Sys2Proof.Tests
end

section
/-! ## Results reach their destination (R12, R48, R120, R139, R140, R142) -/

namespace Sys2Proof.Machine

/-! ### What one lane sees of the state -/

/-- What an instruction's result may change for lane `l` of warp `wk`: the lane, and its registers and pair tags in every frame. -/
def laneView (s : State) (wk l : Nat) : Lane × (Nat → Nat → FReg) × (Nat → Nat → Bool) :=
  (s.lane wk l, fun fk n => (s.frame fk).reg n l, fun fk n => (s.frame fk).ptag n l)

/-- A fold whose steps with another key leave an observation alone is observed as its step with that key. -/
theorem foldl_observed {σ α β : Type} (f : σ → Nat × α → σ) (obs : σ → β) {e : Nat × α} :
    ∀ {es : List (Nat × α)} (s : σ), e ∈ es → (es.map (·.1)).Nodup →
      (∀ st, ∀ x ∈ es, x.1 ≠ e.1 → obs (f st x) = obs st) → ∃ st, obs st = obs s ∧ obs (es.foldl f s) = obs (f st e) := by
  intro es
  induction es with
  | nil => intro s he; simp at he
  | cons x r ih =>
    intro s he hn ho
    rw [List.map_cons, List.nodup_cons] at hn
    rw [List.foldl_cons]
    by_cases hx : x.1 = e.1
    · have hxe : e = x := (List.mem_cons.1 he).resolve_right fun hr => hn.1 (List.mem_map.2 ⟨e, hr, hx.symm⟩)
      subst hxe
      refine ⟨s, rfl, ?_⟩
      have : ∀ st, obs (r.foldl f st) = obs st := by
        have hr : ∀ y ∈ r, y.1 ≠ e.1 := fun y hy h => hn.1 (List.mem_map.2 ⟨y, hy, h⟩)
        have ho' : ∀ st, ∀ y ∈ r, obs (f st y) = obs st := fun st y hy => ho st y (List.mem_cons_of_mem _ hy) (hr y hy)
        clear ih he ho hn hr hx
        induction r with
        | nil => exact fun _ => rfl
        | cons y r ih =>
          exact fun st => (ih (fun st z hz => ho' st z (List.mem_cons_of_mem _ hz)) _).trans (ho' st y List.mem_cons_self)
      exact this _
    · have he' : e ∈ r := (List.mem_cons.1 he).resolve_left fun h => hx (h ▸ rfl)
      obtain ⟨st, h1, h2⟩ := ih (f s x) he' hn.2 fun st y hy => ho st y (List.mem_cons_of_mem _ hy)
      exact ⟨st, h1.trans (ho s x List.mem_cons_self hx), h2⟩

/-- A fold whose every step leaves an observation alone leaves it alone. -/
theorem foldl_unobserved {σ α β : Type} (f : σ → α → σ) (obs : σ → β) :
    ∀ {es : List α} (s : σ), (∀ st, ∀ x ∈ es, obs (f st x) = obs st) → obs (es.foldl f s) = obs s
  | [], _, _ => rfl
  | x :: r, s, h => (foldl_unobserved f obs (es := r) (f s x) fun st y hy => h st y (List.mem_cons_of_mem _ hy)).trans
      (h s x List.mem_cons_self)

/-! ### Frame registers -/

theorem Frame.reg_setReg (f : Frame) (n m l k : Nat) (v : FReg) :
    (f.setReg n l v).reg m k = if n * 32 + l = m * 32 + k then v else f.reg m k := by
  simp [Frame.reg, Frame.setReg, tget_tput]

theorem Frame.ptag_setPtag (f : Frame) (n m l k : Nat) (b : Bool) :
    (f.setPtag n l b).ptag m k = if n / 2 * 32 + l = m / 2 * 32 + k then b else f.ptag m k := by
  simp [Frame.ptag, Frame.setPtag, tget_tput]

@[simp] theorem Frame.reg_setPtag (f : Frame) (n m l k : Nat) (b : Bool) : (f.setPtag n l b).reg m k = f.reg m k := rfl
@[simp] theorem Frame.ptag_setReg (f : Frame) (n m l k : Nat) (v : FReg) : (f.setReg n l v).ptag m k = f.ptag m k := rfl

theorem reg_key_ne {n m l k : Nat} (hl : l < 32) (hk : k < 32) (h : l ≠ k ∨ n ≠ m) : n * 32 + l ≠ m * 32 + k := by omega

/-- A frame in which only registers and tags of other lanes change looks the same to a lane. -/
theorem laneView_modFrame {s : State} {fk wk m : Nat} {f : Frame → Frame}
    (hr : ∀ F n, (f F).reg n m = F.reg n m) (ht : ∀ F n, (f F).ptag n m = F.ptag n m) :
    laneView (s.modFrame fk f) wk m = laneView s wk m := by
  simp only [laneView, State.lane_of_modFrame, State.frame_modFrame, Prod.mk.injEq, true_and]
  constructor <;> funext k n <;> split
  · next h => subst h; exact hr _ _
  · rfl
  · next h => subst h; exact ht _ _
  · rfl

theorem laneView_modLane_other {s : State} {wk l m : Nat} (f : Lane → Lane) (hl : l < 32) (hm : m < 32) (h : l ≠ m) :
    laneView (s.modLane wk l f) wk m = laneView s wk m := by
  have : lkOf wk l ≠ lkOf wk m := fun e => h ((lkOf_inj hl hm).1 e).2
  simp [laneView, State.lane_modLane, this]

@[simp] theorem State.lane_modLane_self (s : State) (wk l : Nat) (f : Lane → Lane) :
    (s.modLane wk l f).lane wk l = f (s.lane wk l) := by simp [State.lane_modLane]

@[simp] theorem State.frame_modFrame_self (s : State) (fk : Nat) (f : Frame → Frame) :
    (s.modFrame fk f).frame fk = f (s.frame fk) := by simp [State.frame_modFrame]

/-! ### Writing a destination in one lane -/

theorem laneView_putFReg {s : State} {fk wk l m n : Nat} (v : BitVec 32) (hl : l < 32) (hm : m < 32) (h : l ≠ m) :
    laneView (putFReg s fk l n v) wk m = laneView s wk m := by
  refine laneView_modFrame (fun F k => ?_) fun F k => ?_
  · rw [Frame.reg_setPtag, Frame.reg_setReg, if_neg (by omega)]
  · rw [Frame.ptag_setPtag, if_neg (by omega), Frame.ptag_setReg]

theorem laneView_putPair {s : State} {fk wk l m n : Nat} (v : Val) (hl : l < 32) (hm : m < 32) (h : l ≠ m) :
    laneView (putPair s fk l n v) wk m = laneView s wk m := by
  refine laneView_modFrame (fun F k => ?_) fun F k => ?_
  · rw [Frame.reg_setPtag, Frame.reg_setReg, if_neg (by omega), Frame.reg_setReg, if_neg (by omega)]
  · rw [Frame.ptag_setPtag, if_neg (by omega), Frame.ptag_setReg, Frame.ptag_setReg]

/-- A push follows the write of the destination. -/
theorem putDst_push (s : State) (wk l : Nat) (w : DstW) (code : Byte) (push : Bool) (v v2 : Val) :
    putDst s wk l w code push v v2 = if push then (putDst s wk l w code false v v2).modLane wk l fun ln => ln.push (pushVal w code v)
      else putDst s wk l w code false v v2 := by
  cases push <;> rfl

/-- Writing the result of a lane leaves what the other lanes see. -/
theorem laneView_putDst {s : State} {wk l m : Nat} (w : DstW) (code : Byte) (push : Bool) (v v2 : Val) (hl : l < 32)
    (hm : m < 32) (h : l ≠ m) : laneView (putDst s wk l w code push v v2) wk m = laneView s wk m := by
  have hreg : laneView (putDst s wk l w code false v v2) wk m = laneView s wk m := by
    simp only [putDst, Bool.false_eq_true, if_false]
    split
    · rfl
    split
    · exact laneView_modLane_other _ hl hm h
    cases w <;> simp only [laneView_putPair, laneView_putFReg, hl, hm, h, ne_eq, not_false_eq_true]
  rw [putDst_push]
  split
  · rw [laneView_modLane_other _ hl hm h, hreg]
  · exact hreg

@[simp] theorem lane_putFReg (s : State) (fk l n : Nat) (v : BitVec 32) (k m : Nat) : (putFReg s fk l n v).lane k m = s.lane k m := rfl
@[simp] theorem lane_putPair (s : State) (fk l n : Nat) (v : Val) (k m : Nat) : (putPair s fk l n v).lane k m = s.lane k m := rfl

/-- What the lane that is written becomes: a g register takes the value, and the value is pushed. -/
theorem lane_putDst_self (s : State) (wk l : Nat) (w : DstW) (code : Byte) (push : Bool) (v v2 : Val) :
    (putDst s wk l w code push v v2).lane wk l =
      let a := s.lane wk l
      let b := if 0x10 ≤ code.toNat ∧ code.toNat < 0x40 then a.setG (code.toNat - 0x10) (pushVal w code v) else a
      if push then b.push (pushVal w code v) else b := by
  have hreg : (putDst s wk l w code false v v2).lane wk l =
      if 0x10 ≤ code.toNat ∧ code.toNat < 0x40 then (s.lane wk l).setG (code.toNat - 0x10) (pushVal w code v) else s.lane wk l := by
    simp only [putDst, Bool.false_eq_true, if_false]
    split
    · rw [if_neg (by omega)]
    split
    · rw [if_pos (by omega), State.lane_modLane_self]
    · rw [if_neg (by omega)]; cases w <;> rfl
  rw [putDst_push]
  cases push
  · exact hreg
  · simp only [if_true, State.lane_modLane_self, hreg]

section
variable (s : State) (wk l : Nat) (w : DstW) (code : Byte) (push : Bool) (v v2 : Val)

theorem putDst_q : ((putDst s wk l w code push v v2).lane wk l).q =
    if push then pushVal w code v :: (s.lane wk l).q.take 15 else (s.lane wk l).q := by
  rw [lane_putDst_self]; simp only; split <;> split <;> rfl

theorem putDst_p : ((putDst s wk l w code push v v2).lane wk l).p = (s.lane wk l).p := by
  rw [lane_putDst_self]; simp only; split <;> split <;> rfl

theorem putDst_flags : ((putDst s wk l w code push v v2).lane wk l).flags = (s.lane wk l).flags := by
  rw [lane_putDst_self]; simp only; split <;> split <;> rfl

theorem putDst_g (h1 : 0x10 ≤ code.toNat) (h2 : code.toNat < 0x40) :
    ((putDst s wk l w code push v v2).lane wk l).getG (code.toNat - 0x10) = pushVal w code v := by
  have hg : ∀ ln : Lane, (ln.setG (code.toNat - 0x10) (pushVal w code v)).getG (code.toNat - 0x10) = pushVal w code v :=
    fun ln => tget_tput_self _ _ _ _
  simp only [lane_putDst_self, h1, h2, and_self, if_true]
  split
  · exact hg _
  · exact hg _

end

/-- The frame registers that a destination in the frame takes (R12, R142). -/
theorem frame_putDst_self (s : State) (wk l : Nat) (w : DstW) (code : Byte) (push : Bool) (v v2 : Val) (hc : 0x40 ≤ code.toNat) :
    let f := (putDst s wk l w code push v v2).frame (s.lane wk l).frame
    let n := code.toNat - 0x40
    match w with
    | .r32 | .i32 | .def32 | .blk8 => f.reg n l = ⟨v.bits.truncate 32, .full⟩ ∧ f.ptag n l = false
    | .r64 | .def64 => f.reg n l = ⟨v.bits.truncate 32, .full⟩ ∧ f.ptag n l = v.tag
        ∧ f.reg (n + 1) l = ⟨v.bits.extractLsb' 32 32, .full⟩
    | .defQ | .quad => f.reg n l = ⟨v.bits.truncate 32, .full⟩ ∧ f.ptag n l = v.tag
        ∧ f.reg (n + 1) l = ⟨v.bits.extractLsb' 32 32, .full⟩ ∧ f.reg (n + 2) l = ⟨v2.bits.truncate 32, .full⟩
        ∧ f.ptag (n + 2) l = v2.tag ∧ f.reg (n + 3) l = ⟨v2.bits.extractLsb' 32 32, .full⟩ := by
  have hf : (putDst s wk l w code push v v2).frame (s.lane wk l).frame
      = (putDst s wk l w code false v v2).frame (s.lane wk l).frame := by
    rw [putDst_push]; cases push <;> rfl
  have h1 : ¬ code.toNat < 0x10 := by omega
  have h2 : ¬ code.toNat < 0x40 := by omega
  simp only [hf]
  cases w <;> simp only [putDst, Bool.false_eq_true, if_false, h1, h2, putFReg, putPair, State.frame_modFrame_self,
    Frame.reg_setReg, Frame.ptag_setPtag, Frame.reg_setPtag, Frame.ptag_setReg] <;>
    simp <;> omega

/-! ### Predicates and flags -/

theorem lane_foldl_setP (wk l : Nat) : ∀ (ps : List (Nat × Bool)) (s : State),
    (ps.foldl (fun st p => st.modLane wk l fun ln => ln.setP p.1 p.2) s).lane wk l
      = ps.foldl (fun ln p => ln.setP p.1 p.2) (s.lane wk l)
  | [], _ => rfl
  | p :: ps, s => by rw [List.foldl_cons, lane_foldl_setP wk l ps, State.lane_modLane_self, List.foldl_cons]

theorem frames_foldl_setP (wk l : Nat) (ps : List (Nat × Bool)) (s : State) :
    (ps.foldl (fun st p => st.modLane wk l fun ln => ln.setP p.1 p.2) s).frames = s.frames :=
  foldl_unobserved _ State.frames s fun _ _ _ => rfl

/-- Predicates change nothing of a lane but its predicates. -/
theorem foldl_setP_eq : ∀ (ps : List (Nat × Bool)) (ln : Lane),
    ps.foldl (fun ln p => ln.setP p.1 p.2) ln = { ln with p := (ps.foldl (fun ln p => ln.setP p.1 p.2) ln).p }
  | [], _ => rfl
  | p :: ps, ln => by rw [List.foldl_cons, foldl_setP_eq ps (ln.setP p.1 p.2)]; rfl

/-- Which predicates a run of writes leaves depends on the predicates alone. -/
theorem foldl_setP_p_congr : ∀ (ps : List (Nat × Bool)) {a b : Lane}, a.p = b.p →
    (ps.foldl (fun ln p => ln.setP p.1 p.2) a).p = (ps.foldl (fun ln p => ln.setP p.1 p.2) b).p
  | [], _, _, h => h
  | p :: ps, a, b, h => foldl_setP_p_congr ps (by simp [Lane.setP, h])

theorem lane_raise_self (s : State) (wk l : Nat) (f : BitVec 7) :
    (raise s wk l f).lane wk l = { s.lane wk l with flags := (s.lane wk l).flags ||| f } := by
  unfold raise
  split
  · next h => simp [h]
  · rw [State.lane_modLane_self]

@[simp] theorem frames_raise (s : State) (wk l : Nat) (f : BitVec 7) : (raise s wk l f).frames = s.frames := by
  unfold raise; split <;> rfl

/-- What a lane becomes by the predicates and flags of its result. -/
def Lane.sided (ln : Lane) (r : LaneRes) : Lane :=
  { ln with p := (r.preds.foldl (fun (ln : Lane) p => ln.setP p.1 p.2) ln).p, flags := ln.flags ||| r.flags }

theorem lane_putSide_self (s : State) (wk : Nat) (e : Nat × LaneRes) :
    (putSide s wk e).lane wk e.1 = (s.lane wk e.1).sided e.2 := by
  rw [putSide, lane_raise_self, lane_foldl_setP, foldl_setP_eq]; rfl

theorem frames_putSide (s : State) (wk : Nat) (e : Nat × LaneRes) : (putSide s wk e).frames = s.frames := by
  rw [putSide, frames_raise, frames_foldl_setP]

theorem laneView_raise_other {s : State} {wk l m : Nat} (f : BitVec 7) (hl : l < 32) (hm : m < 32) (h : l ≠ m) :
    laneView (raise s wk l f) wk m = laneView s wk m := by
  unfold raise
  split
  · rfl
  · exact laneView_modLane_other _ hl hm h

theorem laneView_putSide_other {s : State} {wk m : Nat} {e : Nat × LaneRes} (hl : e.1 < 32) (hm : m < 32) (h : e.1 ≠ m) :
    laneView (putSide s wk e) wk m = laneView s wk m :=
  (laneView_raise_other _ hl hm h).trans
    (foldl_unobserved _ (laneView · wk m) s fun _ _ _ => laneView_modLane_other _ hl hm h)

/-! ### The counts of CMPCNT -/

theorem laneView_congr {s t : State} {wk l : Nat} (hl : t.lanes = s.lanes) (hf : t.frames = s.frames) :
    laneView t wk l = laneView s wk l := by
  simp only [laneView, State.lane, State.frame, hl, hf]

/-- What the counts of a warp may change: the warp table alone, and of a warp neither STEP nor the trap record. -/
structure Counted (s t : State) : Prop where
  lanes  : t.lanes = s.lanes
  frames : t.frames = s.frames
  step   : ∀ k, (t.warp k).step = (s.warp k).step

theorem Counted.refl (s : State) : Counted s s := ⟨rfl, rfl, fun _ => rfl⟩

theorem Counted.trans {a b c : State} (h : Counted a b) (g : Counted b c) : Counted a c :=
  ⟨g.lanes.trans h.lanes, g.frames.trans h.frames, fun k => (g.step k).trans (h.step k)⟩

theorem Counted.modWarp (s : State) (wk : Nat) {f : Warp → Warp} (hf : ∀ w, (f w).step = w.step) : Counted s (s.modWarp wk f) :=
  ⟨rfl, rfl, fun k => by rw [State.warp_modWarp]; split <;> simp_all⟩

theorem Counted.countWrite (s : State) (wk : Nat) (regs : List (List (BitVec 32))) : Counted s (countWrite s wk regs) := by
  unfold Machine.countWrite
  split
  · exact .refl s
  split
  · exact .modWarp s wk fun _ => rfl
  split
  · exact .modWarp s wk fun _ => rfl
  · exact .refl s

theorem Counted.landed (s : State) (wk id : Nat) : Counted s (landed s wk id) := by
  unfold Machine.landed
  split
  · exact .refl s
  split
  · exact .refl s
  · refine Counted.trans ?_ (.countWrite _ wk _)
    exact .modWarp s wk fun _ => rfl

theorem Counted.closeLanding (s : State) (wk path : Nat) : Counted s (closeLanding s wk path) := by
  unfold Machine.closeLanding
  split
  · exact .refl s
  · refine Counted.trans ?_ (.landed _ wk _)
    exact .modWarp s wk fun _ => rfl

/-! ### The end of an instruction -/

theorem lane_moveLane (b : Bundle) (s : State) (wk m k l : Nat) :
    ((moveLane b s wk m).lane k l).unplaced = (s.lane k l).unplaced := by
  unfold moveLane
  split
  · rfl
  all_goals rw [State.lane_modLane]; split <;> simp_all [Lane.unplaced, State.lane]

theorem frames_moveLane (b : Bundle) (s : State) (wk m : Nat) : (moveLane b s wk m).frames = s.frames := by
  unfold moveLane; split <;> rfl

theorem warps_moveLane (b : Bundle) (s : State) (wk m : Nat) : (moveLane b s wk m).warps = s.warps := by
  unfold moveLane; split <;> rfl

@[simp] theorem Warp.step_setPath (w : Warp) (n : Nat) (b : Option Bundle) : (w.setPath n b).step = w.step := by
  unfold Warp.setPath; split <;> rfl

/-- A bundle that closes in a warp that does not single-step moves its lanes and leaves what they hold and the frames. -/
theorem closeBundle_view {s : State} {wk path : Nat} {b : Bundle} (h : (s.warp wk).step = false) :
    (closeBundle s wk path b).frames = s.frames
      ∧ ∀ k l, ((closeBundle s wk path b).lane k l).unplaced = (s.lane k l).unplaced := by
  have hf : ∀ ls : List Nat, (ls.foldl (fun st l => moveLane b st wk l) s).frames = s.frames := fun ls =>
    foldl_unobserved _ State.frames s fun st x _ => frames_moveLane b st wk x
  have hl : ∀ (ls : List Nat) k l, ((ls.foldl (fun st l => moveLane b st wk l) s).lane k l).unplaced = (s.lane k l).unplaced :=
    fun ls k l => foldl_unobserved _ (fun st => (State.lane st k l).unplaced) s fun st x _ => lane_moveLane b st wk x k l
  have hw : ∀ ls : List Nat, (ls.foldl (fun st l => moveLane b st wk l) s).warps = s.warps := fun ls =>
    foldl_unobserved _ State.warps s fun st x _ => warps_moveLane b st wk x
  have hstep : ((((lanesOf b.lanes).foldl (fun st l => moveLane b st wk l) s)).warp wk).step = false := by
    rw [State.warp, hw]; exact h
  simp only [closeBundle, State.warp_of_modTeam, State.warp_modWarp, if_true, Warp.step_setPath, hstep, Bool.and_false,
    Bool.false_and, Bool.false_eq_true, if_false, State.modTeam_frames, State.modWarp_frames, State.lane_of_modTeam, State.lane_of_modWarp]
  exact ⟨hf _, hl _⟩

/-- The bundle goes on: its lanes keep what they hold, and frames stay. -/
theorem advance_view {s : State} {wk path : Nat} {b : Bundle} (h : (s.warp wk).step = false) :
    (advance s wk path b).frames = s.frames ∧ ∀ k l, ((advance s wk path b).lane k l).unplaced = (s.lane k l).unplaced := by
  have hc := Counted.closeLanding s wk path
  have hlane : ∀ k l, (closeLanding s wk path).lane k l = s.lane k l := fun k l => by rw [State.lane, State.lane, hc.lanes]
  unfold advance
  split
  · exact ⟨rfl, fun _ _ => rfl⟩
  split
  · obtain ⟨h1, h2⟩ := closeBundle_view (s := closeLanding s wk path) (path := path) (b := b) ((hc.step wk).trans h)
    exact ⟨h1.trans hc.frames, fun k l => (h2 k l).trans (by rw [hlane])⟩
  · exact ⟨hc.frames, fun k l => by rw [State.lane_of_modWarp, hlane]⟩

/-- The results of lanes that all give one, as the writes of the results and then of the predicates and flags. -/
def resultsWritten (s : State) (i : Instr) (c : Ctx) (r : Nat → LaneRes) : State :=
  let d := resultDst i c.g
  (c.active.map fun l => (l, r l)).foldl (fun st e => putSide st c.wk e)
    (putResults s c.wk d.1 d.2.1 d.2.2 (c.active.map fun l => (l, r l)))

/-- What `finish` does where every active lane gives a result: no lane faults, so the bundle goes on from the results written. -/
theorem finish_ok (s : State) (i : Instr) (c : Ctx) (r : Nat → LaneRes) :
    ∃ b, finish s i c (c.active.map fun l => (l, .ok (r l))) = advance (resultsWritten s i c r) c.wk c.path b := by
  have hoks : ∀ (f : Nat × LaneOut → Option (Nat × LaneRes)) (ls : List Nat), (∀ l, f (l, .ok (r l)) = some (l, r l)) →
      (ls.map fun l => ((l, .ok (r l)) : Nat × LaneOut)).filterMap f = ls.map fun l => (l, r l) := fun f ls hf => by
    induction ls with
    | nil => rfl
    | cons l ls ih => rw [List.map_cons, List.filterMap_cons_some (hf l), ih, List.map_cons]
  have hbad : ∀ (f : Nat × LaneOut → Option (Nat × LaneFault)) (ls : List Nat), (∀ l, f (l, .ok (r l)) = none) →
      (ls.map fun l => ((l, .ok (r l)) : Nat × LaneOut)).filterMap f = [] := fun f ls hf => by
    rw [List.filterMap_eq_nil_iff]
    intro e he
    obtain ⟨l, _, rfl⟩ := List.mem_map.1 he
    exact hf l
  unfold finish
  rw [hoks _ _ fun _ => rfl, hbad _ _ fun _ => rfl]
  exact ⟨_, rfl⟩

/-- The results of lanes, as the values to be written: those of the lanes that have one. -/
def resultVals (rs : List (Nat × LaneRes)) : List (Nat × Val × Val) :=
  rs.filterMap fun e => e.2.val.map fun v => (e.1, v, e.2.val2.getD Val.zero)

theorem mem_resultVals {ls : List Nat} {r : Nat → LaneRes} {e : Nat × Val × Val} :
    e ∈ resultVals (ls.map fun l => (l, r l)) ↔ e.1 ∈ ls ∧ (r e.1).val = some e.2.1 ∧ e.2.2 = (r e.1).val2.getD Val.zero := by
  obtain ⟨l, v, w⟩ := e
  simp only [resultVals, List.filterMap_map, List.mem_filterMap, Function.comp_apply, Option.map_eq_some_iff, Prod.mk.injEq]
  constructor
  · rintro ⟨m, hm, x, hx, rfl, rfl, rfl⟩; exact ⟨hm, hx, rfl⟩
  · rintro ⟨hm, hx, rfl⟩; exact ⟨l, hm, v, hx, rfl, rfl, rfl⟩

theorem resultVals_nodup {r : Nat → LaneRes} : ∀ {ls : List Nat}, ls.Nodup → ((resultVals (ls.map fun l => (l, r l))).map (·.1)).Nodup
  | [], _ => List.nodup_nil
  | l :: ls, h => by
    rw [List.nodup_cons] at h
    have ih := resultVals_nodup (r := r) h.2
    rw [List.map_cons, resultVals, List.filterMap_cons]
    cases (r l).val with
    | none => exact ih
    | some v =>
      refine List.nodup_cons.2 ⟨fun hm => ?_, ih⟩
      obtain ⟨e, he, hel⟩ := List.mem_map.1 hm
      exact h.1 ((show e.1 = l from hel) ▸ (mem_resultVals.1 he).1)

/-- The state after the results are written, before their count. -/
def destsWritten (s : State) (wk : Nat) (w : DstW) (code : Byte) (push : Bool) (rs : List (Nat × LaneRes)) : State :=
  (resultVals rs).foldl (fun st e => putDst st wk e.1 w code push e.2.1 e.2.2) s

theorem putResults_counted (s : State) (wk : Nat) (w : DstW) (code : Byte) (push : Bool) (rs : List (Nat × LaneRes)) :
    Counted (destsWritten s wk w code push rs) (putResults s wk w code push rs) := by
  unfold putResults
  split
  · exact .refl _
  · exact .countWrite _ wk _

/-- A lane with a value sees its own write and no other. -/
theorem laneView_destsWritten_some {s : State} {wk l : Nat} {w : DstW} {code : Byte} {push : Bool} {ls : List Nat} {r : Nat → LaneRes}
    (hn : ls.Nodup) (h32 : ∀ l ∈ ls, l < 32) (hl : l ∈ ls) {v : Val} (hv : (r l).val = some v) :
    ∃ a, laneView a wk l = laneView s wk l
      ∧ laneView (destsWritten s wk w code push (ls.map fun l => (l, r l))) wk l
        = laneView (putDst a wk l w code push v ((r l).val2.getD Val.zero)) wk l :=
  foldl_observed (fun st (e : Nat × Val × Val) => putDst st wk e.1 w code push e.2.1 e.2.2) (laneView · wk l)
    (e := (l, v, (r l).val2.getD Val.zero)) s (mem_resultVals.2 ⟨hl, hv, rfl⟩) (resultVals_nodup hn)
    fun _ x hx hne => laneView_putDst w code push x.2.1 x.2.2 (h32 x.1 (mem_resultVals.1 hx).1) (h32 l hl) hne

/-- A lane without a value sees no write. -/
theorem laneView_destsWritten_none {s : State} {wk l : Nat} {w : DstW} {code : Byte} {push : Bool} {ls : List Nat} {r : Nat → LaneRes}
    (h32 : ∀ l ∈ ls, l < 32) (hl : l ∈ ls) (hv : (r l).val = none) :
    laneView (destsWritten s wk w code push (ls.map fun l => (l, r l))) wk l = laneView s wk l :=
  foldl_unobserved _ (laneView · wk l) s fun _ x hx => by
    obtain ⟨hx, hval, _⟩ := mem_resultVals.1 hx
    exact laneView_putDst w code push x.2.1 x.2.2 (h32 x.1 hx) (h32 l hl) fun h => by simp [← h, hval] at hv

/-- A lane's view of the state in which every active lane has written its result: its destination, then its own predicates and flags. -/
theorem laneView_resultsWritten {s : State} {i : Instr} {c : Ctx} {r : Nat → LaneRes} (hn : c.active.Nodup)
    (h32 : ∀ l ∈ c.active, l < 32) {l : Nat} (hl : l ∈ c.active) :
    ∃ b, laneView b c.wk l = laneView (destsWritten s c.wk (resultDst i c.g).1 (resultDst i c.g).2.1 (resultDst i c.g).2.2
          (c.active.map fun l => (l, r l))) c.wk l
      ∧ laneView (resultsWritten s i c r) c.wk l = laneView (putSide b c.wk (l, r l)) c.wk l := by
  have hc := putResults_counted s c.wk (resultDst i c.g).1 (resultDst i c.g).2.1 (resultDst i c.g).2.2 (c.active.map fun l => (l, r l))
  have hkeys : (c.active.map fun l => (l, r l)).map (·.1) = c.active := by simp [Function.comp_def]
  obtain ⟨b, h1, h2⟩ := foldl_observed (fun st (e : Nat × LaneRes) => putSide st c.wk e) (laneView · c.wk l) (e := (l, r l))
    (putResults s c.wk (resultDst i c.g).1 (resultDst i c.g).2.1 (resultDst i c.g).2.2 (c.active.map fun l => (l, r l)))
    (List.mem_map.2 ⟨l, hl, rfl⟩) (hkeys.symm ▸ hn) fun st x hx hne => by
      obtain ⟨m, hm, rfl⟩ := List.mem_map.1 hx
      exact laneView_putSide_other (h32 m hm) (h32 l hl) hne
  exact ⟨b, h1.trans (laneView_congr hc.lanes hc.frames), h2⟩

theorem warps_putDst (s : State) (wk l : Nat) (w : DstW) (code : Byte) (push : Bool) (v v2 : Val) :
    (putDst s wk l w code push v v2).warps = s.warps := by
  have h : (putDst s wk l w code false v v2).warps = s.warps := by
    simp only [putDst, Bool.false_eq_true, if_false]
    split
    · rfl
    split
    · rfl
    cases w <;> rfl
  rw [putDst_push]; split
  · exact h
  · exact h

theorem warps_putSide (s : State) (wk : Nat) (e : Nat × LaneRes) : (putSide s wk e).warps = s.warps := by
  have h : (e.2.preds.foldl (fun st p => st.modLane wk e.1 fun ln => ln.setP p.1 p.2) s).warps = s.warps :=
    foldl_unobserved _ State.warps s fun _ _ _ => rfl
  unfold putSide raise; split <;> exact h

/-- The writing of results leaves STEP. -/
theorem step_resultsWritten (s : State) (i : Instr) (c : Ctx) (r : Nat → LaneRes) (k : Nat) :
    ((resultsWritten s i c r).warp k).step = (s.warp k).step := by
  have hc := putResults_counted s c.wk (resultDst i c.g).1 (resultDst i c.g).2.1 (resultDst i c.g).2.2 (c.active.map fun l => (l, r l))
  have hside := foldl_unobserved (fun st (e : Nat × LaneRes) => putSide st c.wk e) State.warps
    (es := c.active.map fun l => (l, r l)) (putResults s c.wk (resultDst i c.g).1 (resultDst i c.g).2.1 (resultDst i c.g).2.2 (c.active.map fun l => (l, r l)))
    fun st e _ => warps_putSide st c.wk e
  have hdest : (destsWritten s c.wk (resultDst i c.g).1 (resultDst i c.g).2.1 (resultDst i c.g).2.2 (c.active.map fun l => (l, r l))).warps = s.warps :=
    foldl_unobserved _ State.warps s fun st e _ => warps_putDst ..
  calc ((resultsWritten s i c r).warp k).step
      = ((putResults s c.wk (resultDst i c.g).1 (resultDst i c.g).2.1 (resultDst i c.g).2.2 (c.active.map fun l => (l, r l))).warp k).step := by
        rw [State.warp, resultsWritten, hside]; rfl
    _ = ((destsWritten s c.wk (resultDst i c.g).1 (resultDst i c.g).2.1 (resultDst i c.g).2.2 (c.active.map fun l => (l, r l))).warp k).step := hc.step k
    _ = (s.warp k).step := by rw [State.warp, hdest]; rfl

/-- What a lane sees at the end of an instruction, its place apart, is what it sees once the results are written. -/
theorem ended_view {s : State} {i : Instr} {c : Ctx} {r : Nat → LaneRes} (h : (s.warp c.wk).step = false) :
    (Ended s i c r).frames = (resultsWritten s i c r).frames
      ∧ ∀ k l, ((Ended s i c r).lane k l).unplaced = ((resultsWritten s i c r).lane k l).unplaced := by
  obtain ⟨b, hb⟩ := finish_ok s i c r
  rw [Ended, hb]
  exact advance_view ((step_resultsWritten s i c r c.wk).trans h)

/-- The end of an instruction in an active lane, from the lane `b` in which its destination has been written: its predicates and flags
follow, and its frame registers are those written. -/
theorem ended_lane {s : State} {i : Instr} {c : Ctx} {r : Nat → LaneRes} (hn : c.active.Nodup) (h32 : ∀ l ∈ c.active, l < 32)
    (h : (s.warp c.wk).step = false) {l : Nat} (hl : l ∈ c.active) :
    let d := resultDst i c.g
    let w := destsWritten s c.wk d.1 d.2.1 d.2.2 (c.active.map fun l => (l, r l))
    ((Ended s i c r).lane c.wk l).unplaced = ((w.lane c.wk l).sided (r l)).unplaced
      ∧ ∀ fk n, ((Ended s i c r).frame fk).reg n l = (w.frame fk).reg n l
          ∧ ((Ended s i c r).frame fk).ptag n l = (w.frame fk).ptag n l := by
  obtain ⟨hframes, hlanes⟩ := ended_view (i := i) (r := r) h
  obtain ⟨b, hb, hw⟩ := laneView_resultsWritten (s := s) (i := i) (r := r) hn h32 hl
  simp only [laneView, Prod.mk.injEq, funext_iff] at hb hw
  obtain ⟨hbl, hbr, hbt⟩ := hb
  obtain ⟨hwl, hwr, hwt⟩ := hw
  have hbf : ∀ fk, (putSide b c.wk (l, r l)).frame fk = b.frame fk := fun fk => by rw [State.frame, frames_putSide]; rfl
  have hef : ∀ fk, (Ended s i c r).frame fk = (resultsWritten s i c r).frame fk := fun fk => by rw [State.frame, hframes]; rfl
  refine ⟨?_, fun fk n => ⟨?_, ?_⟩⟩
  · rw [hlanes, hwl, lane_putSide_self b c.wk (l, r l), hbl]
  · rw [hef, hwr, hbf, hbr]
  · rw [hef, hwt, hbf, hbt]

end Sys2Proof.Machine

open Sys2Proof Sys2Proof.Machine

/-- Settles O14: each lane's write of its destination commutes with those of the other lanes, which touch neither the lane nor its
registers; predicates and flags follow, and the end of the instruction moves the lane without touching what it holds. -/
theorem resultsReachTheirDestination : Obligations.ResultsReachTheirDestination := by
  unfold Obligations.ResultsReachTheirDestination
  intro s i c r hn h32 hstep l hl
  obtain ⟨hlane, hframe⟩ := ended_lane (i := i) (r := r) hn h32 hstep hl
  have hq := congrArg Lane.q hlane
  have hg := congrArg Lane.g hlane
  have hp := congrArg Lane.p hlane
  have hfl := congrArg Lane.flags hlane
  simp only [Lane.unplaced, Lane.sided] at hq hg hp hfl
  cases hv : (r l).val with
  | none =>
    have hd := congrArg (·.1) (laneView_destsWritten_none (s := s) (wk := c.wk) (w := (resultDst i c.g).1)
      (code := (resultDst i c.g).2.1) (push := (resultDst i c.g).2.2) h32 hl hv)
    simp only [laneView] at hd
    rw [hd] at hq hp hfl
    exact ⟨fun v h => absurd h (Option.some_ne_none v).symm, fun _ => hq, hfl, hp⟩
  | some v =>
    obtain ⟨a, ha, hd⟩ := laneView_destsWritten_some (s := s) (wk := c.wk) (w := (resultDst i c.g).1)
      (code := (resultDst i c.g).2.1) (push := (resultDst i c.g).2.2) hn h32 hl hv
    simp only [laneView, Prod.mk.injEq, funext_iff] at ha hd
    obtain ⟨hal, -, -⟩ := ha
    obtain ⟨hdl, hdr, hdt⟩ := hd
    have hgv : ∀ n, ((Ended s i c r).lane c.wk l).getG n = ((putDst a c.wk l (resultDst i c.g).1 (resultDst i c.g).2.1
        (resultDst i c.g).2.2 v ((r l).val2.getD Val.zero)).lane c.wk l).getG n := fun n => by rw [Lane.getG, hg, hdl]; rfl
    rw [hdl, putDst_q, hal] at hq
    rw [hdl] at hp
    rw [hdl, putDst_flags, hal] at hfl
    refine ⟨?_, ?_, hfl, hp.trans (foldl_setP_p_congr _ ((putDst_p ..).trans (congrArg Lane.p hal)))⟩
    · rintro v' hv'
      obtain rfl := Option.some.inj hv'
      refine ⟨fun h1 h2 => (hgv _).trans (putDst_g _ _ _ _ _ _ _ _ h1 h2), fun hpush => hq.trans (if_pos hpush), fun h1 => ?_⟩
      have hf := frame_putDst_self a c.wk l (resultDst i c.g).1 (resultDst i c.g).2.1 (resultDst i c.g).2.2 v
        ((r l).val2.getD Val.zero) h1
      simp only [hal, ← hdr, ← hdt] at hf
      simp only [(hframe _ _).1, (hframe _ _).2]
      exact hf
    · rintro (h | h)
      · exact absurd h (Option.some_ne_none v)
      · rw [hq, h]; rfl
end

section
/-! ## The state after reset (R434) -/

open Sys2Proof Sys2Proof.Machine

/-- Settles O56: each field of the state after reset is a constant of its definition, and an empty table reads as its default at every key. -/
theorem resetState : Obligations.ResetState := by
  unfold Obligations.ResetState
  have cores : ∀ c, State.reset.core c = Core.reset c := fun _ => rfl
  refine ⟨rfl, rfl, rfl, rfl, rfl, rfl, rfl, rfl, rfl, rfl, fun _ => rfl, fun _ => rfl, fun _ => rfl, rfl, rfl, fun c => ?_,
    fun _ => ⟨rfl, rfl, rfl⟩, fun _ _ => rfl, rfl, rfl, rfl⟩
  rw [cores]
  exact ⟨rfl, rfl, rfl, rfl, rfl, rfl, rfl, rfl⟩
end

section
/-! ## The checks of an access (R20–R25, R28, R222) -/

namespace Sys2Proof.Machine

/-! ### Laws of the answers of an access -/

@[simp] theorem Acc.bind_ok {α β : Type} (s : State) (a : α) (f : State → α → Acc β) : (Acc.ok s a).bind f = f s a := rfl

/-- A try that gives a value ends the wait. -/
theorem runTry_value {α : Type} {s s1 : State} {h : Who} {f : State → Acc (Tried α)} {r : Except RemoteFail α}
    (hf : s.fails.find? (fun x => x.who == h.who) = none) (he : f s = .ok s1 (some r)) :
    runTry s h f = (s1.unwait h.who, some r) := by
  simp only [runTry, hf, he]

/-! ### Entries of the object cache -/

@[simp] theorem State.core_modCore_self (s : State) (c : Nat) (f : Core → Core) : (s.modCore c f).core c = f (s.core c) :=
  State.core_setCore _ _ _ _ rfl

theorem State.core_modCore_ne (s : State) {c k : Nat} (f : Core → Core) (h : c ≠ k) : (s.modCore c f).core k = s.core k :=
  State.core_setCore_ne _ _ h

theorem State.useEntry_migOff (s : State) (core : Nat) (e : OcEntry) : ((s.useEntry core e).core core).migOff = (s.core core).migOff := by
  rw [State.useEntry, State.core_modCore_self]

/-- A cached entry that is no view is found and becomes the most recently used (R28). -/
theorem findPair_cached {s : State} {core realm num : Nat} {e : OcEntry} (hen : (s.core core).ocbase.getLsbD 0 = true)
    (hf : (s.core core).oc.find? (fun e => e.realm == realm && e.obj == num) = some e) (hv : e.view = false) :
    findPair s core realm num false = .ok (s.useEntry core e) (some (e, e)) := by
  have he : findEntry s core realm num false = .ok (s.useEntry core e) (some e) := by
    simp only [findEntry, hen, Bool.not_true, Bool.false_eq_true, if_false, hf]
  simp only [findPair, he, Acc.bind_ok, hv, Bool.not_false, if_true]

/-- The registers of the package without its rate limiter. -/
def Pkg.unlimited (p : Pkg) : Pkg := { p with rates := [], heldReq := [] }

section
variable {s t : State} (h : t.pkg.unlimited = s.pkg.unlimited)
include h

theorem agent_congr : t.pkg.agent = s.pkg.agent := show t.pkg.unlimited.agent = s.pkg.unlimited.agent by rw [h]

/-- Check 5 depends on the registers of the package alone. -/
theorem visFault_congr (p : Party) (e : OcEntry) : visFault t p e = visFault s p e := by
  have hc : t.pkg.cell = s.pkg.cell := show t.pkg.unlimited.cell = s.pkg.unlimited.cell by rw [h]
  unfold visFault State.ownCell; rw [agent_congr h, hc]

theorem addrOk_congr (a : Nat) : addrOk t a = addrOk s a := by
  have hf : t.pkg.farGiB = s.pkg.farGiB := show t.pkg.unlimited.farGiB = s.pkg.unlimited.farGiB by rw [h]
  unfold addrOk usable; rw [agent_congr h, hf]

theorem secureBad_congr (e : OcEntry) (a : Nat) : secureBad t e a = secureBad s e a := by
  have h1 : t.pkg.secBase = s.pkg.secBase := show t.pkg.unlimited.secBase = s.pkg.unlimited.secBase by rw [h]
  have h2 : t.pkg.secLim = s.pkg.secLim := show t.pkg.unlimited.secLim = s.pkg.unlimited.secLim by rw [h]
  unfold secureBad secureAddr; rw [agent_congr h, h1, h2]

end

/-! ### The checks in their order -/

/-- The agent of an owner stands in bits 42 to 32 of dword 1 (R18, R21). -/
theorem own_agent (e : OcEntry) : bits e.own 10 0 = ((e.dw 1).extractLsb' 32 11).toNat := by
  simp only [bits, OcEntry.own, BitVec.extractLsb'_toNat, Nat.shiftRight_zero]
  exact Nat.mod_mod_of_dvd _ (by decide)

/-- Check 4 (R25): an object of the world is closed to a team outside it. -/
theorem checkPair_world {s : State} {core : Nat} {p : Party} {e t : OcEntry} {off : Int} {size : Nat} {rights : List Nat}
    {align last : Nat} (h : t.wld = true) (hp : p.wld = false) :
    checkPair s core p e t off size rights align last = .ok s (.fault .memory memWORLD) := by
  simp [checkPair, h, hp]

/-- Check 5 (R25). -/
theorem checkPair_vis {s : State} {core : Nat} {p : Party} {e t : OcEntry} {off : Int} {size : Nat} {rights : List Nat}
    {align last : Nat} {sub : Byte} (hw : t.wld = true → p.wld = true) (hv : visFault s p t = some sub) :
    checkPair s core p e t off size rights align last = .ok s (.fault .escape sub) := by
  have : (t.wld && !p.wld) = false := by cases ht : t.wld <;> simp_all
  simp [checkPair, this, hv]

/-- The checks from 6 on (R25), once world and visibility let the access through. -/
theorem checkPair_admitted {s : State} {core : Nat} {p : Party} {e t : OcEntry} {off : Int} {size : Nat} {rights : List Nat}
    {align : Nat} (hw : t.wld = true → p.wld = true) (hv : visFault s p t = none) :
    checkPair s core p e t off size rights align 9 =
      let poff := off.toNat + (if e.view then e.voff else 0)
      if rights.any fun r => !e.has r then .ok s (.fault .memory memRIGHTS)
      else if off < 0 || (e.len : Int) < off + size then .ok s (.fault .memory memBOUNDS)
      else if align != 0 && poff % align != 0 then .ok s (.fault .memory memALIGN)
      else if s.moving core t then .ok s .stall
      else (resolveAt s core t poff).bind fun s1 a =>
          match a with
          | some x => if secureBad s1 t x then .ok s1 (.fault .memory memWORLD) else .ok s1 (.ok ⟨e, t, poff, x⟩)
          | none => .ok s1 (.fault .memory memEXTENT) := by
  have : (t.wld && !p.wld) = false := by cases ht : t.wld <;> simp_all
  unfold checkPair
  rw [this, hv]
  rfl

theorem rights_held {e : OcEntry} {rights : List Nat} (h : ∀ r ∈ rights, e.has r = true) : (rights.any fun r => !e.has r) = false := by
  simpa using h

/-- The place of an access is found by its checks (R25): the entry used becomes the most recently used. -/
theorem checkRef_allowed {s : State} {wk l : Nat} {ref : Val} {off : Int} {size : Nat} {rights : List Nat} {align : Nat} {p : Place}
    (h : Allowed s wk l ref off size rights align p) :
    checkRef s (wkCore wk) (s.teamOf wk).realm (s.teamOf wk).party (objOf ref.bits) ref.tag off size rights align 9
      = .ok (s.useEntry (wkCore wk) p.ent) (.ok p) := by
  obtain ⟨e, t, poff, addr⟩ := p
  obtain rfl : t = e := h.top
  have hview : t.view = false := h.view
  have hpair := checkPair_admitted (s := s.useEntry (wkCore wk) t) (core := wkCore wk) (e := t) (off := off) (size := size)
    (rights := rights) (align := align) h.world ((visFault_congr rfl _ _).trans h.vis)
  have hbounds : ¬ (off < 0 ∨ (t.len : Int) < off + size) := fun hb => by have h1 := h.low; have h2 := h.high; simp only at h2; omega
  have hmoving : (s.useEntry (wkCore wk) t).moving (wkCore wk) t = false := by
    obtain ⟨h1, h2⟩ := h.still
    simp only [State.moving, State.useEntry_migOff, h1, h2, Bool.or_false]
  have halign : ¬ (align ≠ 0 ∧ off.toNat % align ≠ 0) := fun hb => h.mult.elim hb.1 hb.2
  have hpoff : poff = off.toNat := h.poff
  have haddr : addr = (bits (t.dw 2) 50 0 + off.toNat) % 2 ^ 51 := h.addr
  have hwhole : t.hm = false := h.whole
  have hex : addrOk (s.useEntry (wkCore wk) t) addr = true := (addrOk_congr rfl _).trans h.exists_
  have hsec : secureBad (s.useEntry (wkCore wk) t) t addr = false := (secureBad_congr rfl _ _).trans h.secure
  have hres : resolveAt (s.useEntry (wkCore wk) t) (wkCore wk) t off.toNat = .ok (s.useEntry (wkCore wk) t) (some addr) := by
    simp only [resolveAt, hwhole, Bool.not_false, if_true, ← haddr, hex]
  have hchk : checkPair (s.useEntry (wkCore wk) t) (wkCore wk) (s.teamOf wk).party t t off size rights align 9
      = .ok (s.useEntry (wkCore wk) t) (.ok ⟨t, t, poff, addr⟩) := by
    rw [hpair]
    simp only [hview, Bool.false_eq_true, if_false, Nat.add_zero, rights_held h.right, hmoving, hres, Acc.bind_ok, hsec, hpoff]
    rw [if_neg (by simpa using hbounds), if_neg (by simpa using halign)]
  simp only [checkRef, h.num, if_false, h.tag, Bool.not_true, Bool.false_eq_true, findPair_cached h.enabled h.entry hview,
    Acc.bind_ok, hchk]

/-- An access whose checks pass and whose act is done there and then is performed. -/
theorem laneTry_acts {a b : State} {wk l : Nat} {ref : Val} {off : Int} {size : Nat} {rights : List Nat} {align last : Nat} {α : Type}
    {act : State → Who → Place → Acc (Tried α)} {v : α} (h : Acts a b wk l ref off size rights align last act v) :
    laneTry a wk l ref off size rights align last act = (b, some (.ok v)) := by
  obtain ⟨hf, a1, p, a2, hc, hact, rfl⟩ := h
  have hwho : a.fails.find? (fun x => x.who == (whoLane a wk l).who) = none := hf
  unfold laneTry
  dsimp only
  rw [runTry_value (s1 := a2) (r := .ok (.ok v)) hwho]
  · rfl
  · have hc' : checkRef a (whoLane a wk l).core (a.teamOf wk).realm (a.teamOf wk).party (objOf ref.bits) ref.tag off size rights
        align last = .ok a1 (.ok p) := hc
    rw [hc', Acc.bind_ok]
    simp only [hact, Acc.bind_ok]

/-! ### Rights and visibility -/

theorem OcEntry.has_storage {e : OcEntry} (h : e.noref = true) : e.has rRS = false ∧ e.has rRL = false := by
  simp [OcEntry.has, h]

theorem OcEntry.has_other {e : OcEntry} {r : Nat} (h1 : r ≠ rRS) (h2 : r ≠ rRL) : e.has r = (e.dws.getD 0 0).getLsbD r := by
  simp [OcEntry.has, h1, h2, OcEntry.bit, OcEntry.dw]

end Sys2Proof.Machine

open Sys2Proof Sys2Proof.Machine

/-- Settles O22: each check is reached once those before it pass, so each fault is the first check that fails; a cached entry leads to its
place without a walk. -/
theorem accessChecks : Obligations.AccessChecks := by
  unfold Obligations.AccessChecks
  refine ⟨⟨?_, ?_, ?_, ?_, ?_, ?_, ?_⟩, ?_⟩
  · intro s core realm p tag off size rights align
    rfl
  · intro s core realm p obj off size rights align h
    simp only [checkRef, h, if_false, Bool.not_false, if_true]; rfl
  · intro s core p e off size rights align h hp
    exact checkPair_world h hp
  · intro s core p e off size rights align sub hw hv
    exact checkPair_vis hw hv
  · intro s core p e off size rights align hw hv
    rw [checkPair_admitted hw hv]
    refine ⟨fun ⟨r, hr, hn⟩ => ?_, fun hr hb => ?_, fun hview hr hlo hhi ha hm => ?_⟩
    · rw [if_pos (List.any_eq_true.2 ⟨r, hr, by simp [hn]⟩)]; rfl
    · rw [rights_held hr]; simp only [Bool.false_eq_true, if_false]
      rw [if_pos (by simpa using hb)]; rfl
    · rw [rights_held hr]; simp only [Bool.false_eq_true, if_false, hview, Nat.add_zero]
      rw [if_neg (by simp; omega), if_pos (by simpa using ⟨ha, hm⟩)]; rfl
  · intro s wk l ref off size rights align p h
    exact checkRef_allowed h
  · intro a b wk l ref off size rights align last act h
    exact laneTry_acts h
  · intro s t h w
    refine ⟨OcEntry.has_storage, fun r => OcEntry.has_other, fun hv => ?_, fun hv => ?_, fun hv => ?_, fun hv => ?_⟩
    · simp only [visFault, hv]; rfl
    · simp only [visFault, hv, own_agent]; rfl
    · simp only [visFault, hv, own_agent]; rfl
    · simp only [visFault, hv]
end

section
/-! ## Lines that stand in L1: reads, writes and the frame of a store (R12, R14, R32, R216–R219, R226, R290) -/

namespace Sys2Proof.Machine

/-! ### What a hit says of its line -/

section
variable {s : State} {wk l : Nat} {k : Key} {addr n : Nat} {e : L1Line}

theorem Hits.notHost (h : Hits s wk l k addr n e) : isHost (addr / 2 ^ 40) = false := by
  have := h.local_
  simp only [isHost, h.home, decide_eq_false_iff_not]; omega

theorem Hits.agent (h : Hits s wk l k addr n e) : agentOf (addr / 128) = s.pkg.agent := by
  rw [agentOf, Nat.div_div_eq_div_mul, ← h.home]; rfl

theorem Hits.mem (h : Hits s wk l k addr n e) : e ∈ (s.core (wkCore wk)).l1 := List.mem_of_find?_eq_some h.line

theorem Hits.isL1 (h : Hits s wk l k addr n e) : isL1 k (addr / 128) e = true :=
  List.find?_some (p := Machine.isL1 k (addr / 128)) h.line

/-- The line found bears the names that it was asked for by. -/
theorem Hits.names (h : Hits s wk l k addr n e) : e.realm = k.realm ∧ e.obj = k.obj ∧ e.line = addr / 128 := by
  simpa [Machine.isL1, and_assoc] using h.isL1

/-- An access within one line has one piece. -/
theorem Hits.pieces (h : Hits s wk l k addr n e) : piecesOf addr n = [(addr / 128, addr % 128, n)] := by
  have h1 := h.span
  have h2 := h.size
  have hmin : min n (128 - addr % 128) = n := by omega
  have hne : n ≠ 0 := by omega
  simp only [piecesOf, h.notHost, Bool.false_eq_true, if_false, Machine.pieces, hne, hmin, Nat.sub_self, if_true]

theorem Hits.l1Line (h : Hits s wk l k addr n e) : l1Line s (whoLane s wk l) k (addr / 128) = .ok s e := by
  simp only [Machine.l1Line, whoLane, h.line]

theorem Hits.l1Own (h : Hits s wk l k addr n e) : l1Own s (whoLane s wk l) k (addr / 128) = .ok s e := by
  simp only [Machine.l1Own, h.priv, Bool.false_eq_true, if_false, h.agent, if_true, localOf, h.clean, h.l1Line]

end

/-- None of a lane's reads on its way: an access of it goes first (R226). -/
theorem settleOwn_free {s : State} {wk l : Nat} (a n : Nat) (h : ∀ d ∈ s.defers, isRead wk l d = false) :
    settleOwn s wk l a n = (s, true) := by
  have : (s.defers.filter fun d => isRead wk l d && touches a n d) = [] :=
    List.filter_eq_nil_iff.2 fun d hd => by simp [h d hd]
  rw [settleOwn, this]; rfl

/-- A line that stands in L1, with its bytes changed, is put back in its place. -/
theorem Hits.l1Keep {s : State} {wk l : Nat} {k : Key} {addr n : Nat} {e : L1Line} (h : Hits s wk l k addr n e) {x : L1Line}
    (hr : x.realm = e.realm) (ho : x.obj = e.obj) (hl : x.line = e.line) :
    l1Keep s (whoLane s wk l) x = .ok (s.l1Set (wkCore wk) x) () := by
  obtain ⟨h1, h2, h3⟩ := h.names
  have hf : s.l1Find (wkCore wk) ⟨x.realm, x.obj, x.pub, x.base⟩ x.line = some e := by
    rw [hr, ho, hl, h1, h2, h3]; exact h.line
  simp only [Machine.l1Keep, hf, Option.isSome_some, if_true, whoLane]

/-! ### Reads and writes -/

section
variable {s : State} {wk l : Nat} {k : Key} {addr n : Nat} {e : L1Line}

theorem Hits.l1Read (h : Hits s wk l k addr n e) :
    l1Read s (whoLane s wk l) k addr n = .ok s ((e.data.bytes.drop (addr % 128)).take n) := by
  simp only [Machine.l1Read, h.notHost, Bool.false_eq_true, if_false, h.pieces, l1Bytes, h.l1Line, Acc.bind_ok, lineGet, List.append_nil]

theorem Hits.l1Get (h : Hits s wk l k addr n e) : l1Get s (whoLane s wk l) k addr n =
    .ok s ((e.data.bytes.drop (addr % 128)).take n, if n = 8 then e.data.tags.getLsbD (addr % 128 / 8) else false) := by
  rw [Machine.l1Get, h.l1Read, Acc.bind_ok]
  split
  · simp only [l1Word, h.notHost, Bool.false_eq_true, if_false, h.l1Line, Acc.bind_ok, lineWord]
  · rfl

theorem Hits.l1Write {bs : List Byte} {tag : Bool} (h : Hits s wk l k addr bs.length e) :
    l1Write s (whoLane s wk l) k addr bs tag =
      .ok ((s.l1Set (wkCore wk) (lineStored e (addr % 128) bs tag)).markTag (addr / 128) tag) () := by
  have hkeep := h.l1Keep (x := lineStored e (addr % 128) bs tag) rfl rfl rfl
  simp only [lineStored] at hkeep
  simp only [Machine.l1Write, h.notHost, Bool.false_eq_true, if_false, h.pieces, l1Put, h.l1Own, Acc.bind_ok, List.take_length,
    hkeep, lineStored]

theorem Hits.rmw {α : Type} {upd : List Byte → α × Option (List Byte)} (h : Hits s wk l k addr n e) :
    let r := upd ((e.data.bytes.drop (addr % 128)).take n)
    rmw s (whoLane s wk l) k addr n upd =
      .ok (s.l1Set (wkCore wk) (match r.2 with | some w => lineStored e (addr % 128) w false | none => e)) r.1 := by
  intro r
  have hr : upd (lineGet e.data (addr % 128) n) = r := rfl
  clear_value r
  obtain ⟨v, w⟩ := r
  simp only [Machine.rmw, h.notHost, Bool.false_eq_true, if_false, h.priv, h.l1Own, Acc.bind_ok, hr]
  cases w with
  | none => simp only [h.l1Keep (x := e) rfl rfl rfl, Acc.bind_ok]
  | some w => simp only [h.l1Keep (x := lineStored e (addr % 128) w false) rfl rfl rfl, Acc.bind_ok]

end

/-! ### The frame of a store -/

theorem splice_length {l : List Byte} {o : Nat} {bs : List Byte} (h : o + bs.length ≤ l.length) : (splice l o bs).length = l.length := by
  simp [splice]; omega

/-- Bytes spliced into a list stand where they are put, and no other byte changes. -/
theorem getD_splice {l : List Byte} {o i : Nat} {bs : List Byte} (h : o + bs.length ≤ l.length) (d : Byte) :
    (splice l o bs).getD i d = if o ≤ i ∧ i < o + bs.length then bs.getD (i - o) d else l.getD i d := by
  have ho : (l.take o).length = o := by rw [List.length_take]; omega
  simp only [splice, List.getD_eq_getElem?_getD]
  by_cases h1 : i < o
  · rw [if_neg (by omega), List.append_assoc, List.getElem?_append_left (by omega), List.getElem?_take_of_lt h1]
  · by_cases h2 : i < o + bs.length
    · rw [if_pos (by omega), List.getElem?_append_left (by simp; omega), List.getElem?_append_right (by omega), ho]
    · rw [if_neg (by omega), List.getElem?_append_right (by simp; omega), List.getElem?_drop]
      rw [List.length_append, ho, show o + bs.length + (i - (o + bs.length)) = i by omega]

/-- Words that bytes touch (R11). -/
theorem mem_wordsOf {a n w : Nat} (hn : 0 < n) : w ∈ wordsOf a n ↔ a / 8 ≤ w ∧ w ≤ (a + n - 1) / 8 := by
  simp only [wordsOf, if_neg (Nat.ne_of_gt hn), upto, List.mem_map, List.mem_range]
  constructor
  · rintro ⟨k, hk, rfl⟩; omega
  · exact fun ⟨h1, h2⟩ => ⟨w - a / 8, by omega, by omega⟩

theorem getLsbD_setBits_one {t : BitVec 16} {i w : Nat} {b : Bool} (hw : w < 16) :
    (setBits t i 1 (b2n b)).getLsbD w = if w = i then b else t.getLsbD w := by
  have hv : b2n b % 2 ^ 1 = b.toNat := by cases b <;> rfl
  have h1 : ∀ c : Bool, (BitVec.ofNat 16 (c.toNat <<< i)).getLsbD w = (c && decide (w = i)) := fun c => by
    rw [BitVec.getLsbD_ofNat, decide_eq_true hw, Bool.true_and]
    cases c
    · simp
    · rw [Bool.toNat_true, Nat.one_shiftLeft, Nat.testBit_two_pow, Bool.true_and]; simp [eq_comm]
  simp only [setBits, BitVec.getLsbD_or, BitVec.getLsbD_and, BitVec.getLsbD_not, decide_eq_true hw, Bool.true_and, hv, h1]
  have h2 := h1 true
  simp only [Bool.toNat_true, Bool.true_and] at h2
  rw [show (2 : Nat) ^ 1 - 1 = 1 from rfl, h2]
  by_cases h : w = i <;> simp [h]

/-- Setting the tags of some words gives each of them the tag and leaves the others. -/
theorem getLsbD_foldl_setBits {b : Bool} {w : Nat} (hw : w < 16) : ∀ (ws : List Nat) (t : BitVec 16),
    (ws.foldl (fun t w => setBits t w 1 (b2n b)) t).getLsbD w = if w ∈ ws then b else t.getLsbD w
  | [], t => by simp
  | v :: ws, t => by
    rw [List.foldl_cons, getLsbD_foldl_setBits hw ws, getLsbD_setBits_one hw]
    by_cases h1 : w ∈ ws
    · simp [h1]
    · by_cases h2 : w = v <;> simp [h1, h2]

theorem find?_replace {α : Type} {p : α → Bool} {z : α} (hz : p z = true) :
    ∀ {xs : List α} {e : α}, xs.find? p = some e → (xs.map fun x => if p x then z else x).find? p = some z
  | x :: xs, e, h => by
    rw [List.map_cons]
    by_cases hx : p x = true
    · rw [if_pos hx, List.find?_cons_of_pos hz]
    · rw [if_neg hx, List.find?_cons_of_neg hx]
      exact find?_replace hz (by rwa [List.find?_cons_of_neg hx] at h)

/-- A line that stands in an L1 is replaced in its place. -/
theorem Hits.l1Set {s : State} {wk l : Nat} {k : Key} {addr n : Nat} {e z : L1Line} (h : Hits s wk l k addr n e)
    (hr : z.realm = e.realm) (ho : z.obj = e.obj) (hl : z.line = e.line) :
    s.l1Set (wkCore wk) z = s.modCore (wkCore wk) fun c =>
      { c with l1 := c.l1.map fun x => if Machine.isL1 k (addr / 128) x then z else x } := by
  obtain ⟨h1, h2, h3⟩ := h.names
  have hkey : Machine.isL1 ⟨z.realm, z.obj, z.pub, z.base⟩ z.line = Machine.isL1 k (addr / 128) := by
    funext x; simp only [Machine.isL1, hr, ho, hl, h1, h2, h3]
  have hany : (s.core (wkCore wk)).l1.any (Machine.isL1 k (addr / 128)) = true := List.any_eq_true.2 ⟨e, h.mem, h.isL1⟩
  simp only [State.l1Set, State.modCore, hkey, hany, if_true]

@[simp] theorem State.markTag_core (s : State) (line : Nat) (tag : Bool) (c : Nat) : (s.markTag line tag).core c = s.core c := by
  unfold State.markTag; split <;> rfl

@[simp] theorem State.l1Find_markTag (s : State) (line : Nat) (tag : Bool) (c : Nat) (k : Key) (u : Nat) :
    (s.markTag line tag).l1Find c k u = s.l1Find c k u := by
  rw [State.l1Find, State.l1Find, State.markTag_core]

theorem Hits.l1Find_l1Set {s : State} {wk l : Nat} {k : Key} {addr n : Nat} {e z : L1Line} (h : Hits s wk l k addr n e)
    (hr : z.realm = e.realm) (ho : z.obj = e.obj) (hl : z.line = e.line) :
    (s.l1Set (wkCore wk) z).l1Find (wkCore wk) k (addr / 128) = some z := by
  obtain ⟨h1, h2, h3⟩ := h.names
  rw [h.l1Set hr ho hl, State.l1Find, State.core_modCore_self]
  exact find?_replace (by simp [Machine.isL1, hr, ho, hl, h1, h2, h3]) h.line

/-- The memory after a store into L1: the summary bits of the line alone, where a tag is set (R32). -/
theorem State.markTag_hbm {s : State} {line : Nat} {tag : Bool} (h : agentOf line = s.pkg.agent) :
    (s.markTag line tag).hbm = if tag then s.hbm.markTag (localOf line) else s.hbm := by
  cases tag <;> simp [State.markTag, h]

end Sys2Proof.Machine

open Sys2Proof Sys2Proof.Machine

/-- Settles O23: the access has one piece, its line is found, and permission for an unpublished line of the package's own memory is at hand. -/
theorem cachedLineAccess : Obligations.CachedLineAccess := by
  unfold Obligations.CachedLineAccess
  intro s wk l k addr n e h
  refine ⟨settleOwn_free _ _ h.own, h.l1Read, fun hn _ => ?_, fun hn => ?_, fun bs tag hb => ?_, fun upd => h.rmw⟩
  · rw [h.l1Get, if_pos hn, hn]
  · rw [h.l1Get, if_neg hn]
  · subst hb; exact h.l1Write

/-- Settles O24: the line that is hit is replaced in its place by the line with the bytes and tags written, and the home's summary bits
are set; the rest is how the splice of bytes and the writes of tags read back. -/
theorem storeFrame : Obligations.StoreFrame := by
  unfold Obligations.StoreFrame
  intro s wk l k addr bs tag e h hlen _ huniq
  have hspan := h.span
  have hset := h.l1Set (z := lineStored e (addr % 128) bs tag) rfl rfl rfl
  have hcore : ∀ c, ((s.l1Set (wkCore wk) (lineStored e (addr % 128) bs tag)).markTag (addr / 128) tag).core c
      = (s.l1Set (wkCore wk) (lineStored e (addr % 128) bs tag)).core c := fun c => State.markTag_core ..
  have hhbm : ((s.l1Set (wkCore wk) (lineStored e (addr % 128) bs tag)).markTag (addr / 128) tag).hbm
      = if tag then s.hbm.markTag (localOf (addr / 128)) else s.hbm := State.markTag_hbm (by rw [hset]; exact h.agent)
  refine ⟨_, lineStored e (addr % 128) bs tag, h.l1Write, ?_, fun i hi => ?_, fun w hw => ?_, rfl, rfl, fun x hx hne => ?_, fun a => ?_,
    ?_, hhbm, ?_, fun c hc => ?_⟩
  · rw [State.l1Find_markTag]; exact h.l1Find_l1Set rfl rfl rfl
  · exact getD_splice (by omega) 0
  · simp only [lineStored, linePut, getLsbD_foldl_setBits hw, mem_wordsOf h.size]
  · rw [hcore, hset, State.core_modCore_self]
    have : isL1 k (addr / 128) x = false := by
      rw [← Bool.not_eq_true]; exact fun hx' => hne (huniq x hx hx')
    exact List.mem_map.2 ⟨x, hx, by simp [this]⟩
  · rw [hhbm]; split <;> rfl
  · rw [hhbm]; split <;> rfl
  · rw [hset]; unfold State.markTag; split <;> rfl
  · rw [hcore, hset]; exact State.core_modCore_ne s _ (Ne.symm hc)
end

section
/-! ## The scratchpad (R12, R189, R192, R216, R231) -/

namespace Sys2Proof.Machine

/-! ### Lanes that act one after another -/

/-- An instruction whose lanes act one after another ends in the fold of their acts, where an invariant, which may speak of the lanes
that have acted, lets each of them complete in its turn. -/
theorem seq_folded {s : State} {i : Instr} {c : Ctx} {x : Nat → Srcs} (h : Issues s i c) (hr : Reads s c x)
    {f : State → Ctx → Nat → Srcs → State × Option LaneOut} {g : State → Nat → State} {r : Nat → LaneRes} (P : List Nat → State → Prop)
    (h0 : P [] s) (hP : ∀ acted a, ∀ l ∈ c.active, l ∉ acted → P acted a → P (acted ++ [l]) (g a l))
    (hf : ∀ acted a, ∀ l ∈ c.active, l ∉ acted → P acted a → f a c l (x l) = (g a l, some (.ok (r l)))) :
    issue s i (seqBody f) = .next (Ended (c.active.foldl g s) i c r) := by
  have hnot : ∀ {k l}, c.active[k]? = some l → l ∉ c.active.take k := fun {k l} hk hl => by
    obtain ⟨hlt, rfl⟩ := List.getElem?_eq_some_iff.1 hk
    obtain ⟨j, hj, he⟩ := List.mem_take_iff_getElem.1 hl
    have := (List.Nodup.getElem_inj_iff h.nodup).1 he
    omega
  have hnext : ∀ {k l}, c.active[k]? = some l → c.active.take (k + 1) = c.active.take k ++ [l] := fun hk => by
    rw [List.take_add_one, hk]; rfl
  have hinv : ∀ k, P (c.active.take k) ((c.active.take k).foldl g s) := by
    intro k
    induction k with
    | zero => exact h0
    | succ k ih =>
      cases hk : c.active[k]? with
      | none => rw [List.take_add_one, hk]; simpa using ih
      | some l =>
        rw [hnext hk, List.foldl_append]
        exact hP _ _ l (List.mem_of_getElem? hk) (hnot hk) ih
  have hturns : Turns c s (fun k => (c.active.take k).foldl g s) fun l a b => f a c l (x l) = (b, some (.ok (r l))) := by
    refine ⟨rfl, fun k l hk => ?_⟩
    show f ((c.active.take k).foldl g s) c l (x l) = ((c.active.take (k + 1)).foldl g s, some (.ok (r l)))
    rw [hnext hk, List.foldl_append]
    exact hf _ _ l (List.mem_of_getElem? hk) (hnot hk) (hinv k)
  have := issue_seq h hr hturns
  rw [this, List.take_length]
  rfl

/-! ### Offsets -/

theorem lo32_toNat (x : Word) : (lo32 x).toNat = (x.extractLsb' 0 32).toNat := by simp [lo32]

/-- An offset that is inside the scratchpad and a multiple of the size is taken (R231). -/
theorem spOff_fits {f : MemF} {t : Team} {a b : Val} {o : Int}
    (ho : o = ((a.bits.extractLsb' 0 32).toNat : Int) + b.bits.toInt * 2 ^ f.sc.toNat + f.imm.toInt * (2 ^ f.sz.toNat : Nat))
    (h : 0 ≤ o ∧ o + (2 ^ f.sz.toNat : Nat) ≤ (t.spSize : Nat) ∧ o % (2 ^ f.sz.toNat : Nat) = 0) : spOff f t a b = .ok o.toNat := by
  obtain ⟨hlo, hhi, hal⟩ := h
  have hoff : memOff f (lo32 a.bits).toNat b.bits (memSize f) = o := by rw [ho, lo32_toNat]; rfl
  simp only [spOff, hoff]
  have hin : ¬ (o < 0 ∨ (t.spSize : Int) < o + (2 ^ f.sz.toNat : Nat)) := fun h => h.elim (by omega) (by omega)
  rw [if_neg (by simpa [memSize] using hin), if_neg (not_not.2 (show o % ((memSize f : Nat) : Int) = 0 from hal))]

/-- A block offset that is a multiple of 64 inside the scratchpad is no fault (R189). -/
theorem blkOffFault_fits {t : Team} {o : BitVec 32} (h : o.toNat + 64 ≤ t.spSize) (hal : o.toNat % 64 = 0) : blkOffFault t o = none := by
  simp only [blkOffFault, hal, ne_eq, not_true_eq_false, if_false]
  rw [if_neg (by omega)]

/-- A block offset that fits, as the number that the instruction computes. -/
theorem blockFits {a : Word} {n : Nat}
    (h : (0 : Int) ≤ ((a.extractLsb' 0 32).toNat : Nat) ∧ (((a.extractLsb' 0 32).toNat : Nat) : Int) + (64 : Nat) ≤ (n : Nat)
      ∧ (((a.extractLsb' 0 32).toNat : Nat) : Int) % (64 : Nat) = 0) : (lo32 a).toNat + 64 ≤ n ∧ (lo32 a).toNat % 64 = 0 := by
  rw [lo32_toNat]; omega

theorem lo32_byte1 (x : Word) : (lo32 x).extractLsb' 8 8 = x.extractLsb' 8 8 := by
  apply BitVec.eq_of_getLsbD_eq; intro i hi; simp [lo32, hi, show 8 + i < 32 by omega]

theorem lo32_byte0 (x : Word) : (lo32 x).truncate 8 = x.extractLsb' 0 8 := by
  apply BitVec.eq_of_getLsbD_eq; intro i hi; simp [lo32, hi]

/-- While lanes write a team's scratchpad, the warp names the same team and its scratchpad has the same size. -/
def SameScratch (s : State) (wk : Nat) (a : State) : Prop :=
  (a.warp wk).team = (s.warp wk).team ∧ (a.team (s.warp wk).team).spSize = (s.team (s.warp wk).team).spSize

theorem SameScratch.refl (s : State) (wk : Nat) : SameScratch s wk s := ⟨rfl, rfl⟩

theorem SameScratch.teamOf {s a : State} {wk : Nat} (h : SameScratch s wk a) :
    (a.teamOf wk).spSize = (s.team (s.warp wk).team).spSize := by rw [State.teamOf, h.1, h.2]

theorem SameScratch.modTeam {s a : State} {wk : Nat} (h : SameScratch s wk a) {f : Team → Team} (hf : ∀ t, (f t).spSize = t.spSize) :
    SameScratch s wk (a.modTeam (s.warp wk).team f) :=
  ⟨h.1, by rw [State.team_modTeam, if_pos rfl, hf, h.2]⟩

@[simp] theorem Team.spSize_spWrite (t : Team) (o : Nat) (bs : List Byte) : (t.spWrite o bs).spSize = t.spSize := by
  unfold Team.spWrite; split <;> rfl

/-! ### The frame of a scratchpad store -/

theorem tget_spPutBytes (d : Byte) : ∀ (bs : List Byte) (m : Tab Byte) (o a : Nat),
    tget (spPutBytes m o bs) a d = if o ≤ a ∧ a < o + bs.length then bs.getD (a - o) 0 else tget m a d
  | [], m, o, a => by rw [if_neg (by simp)]; rfl
  | b :: bs, m, o, a => by
    rw [spPutBytes, tget_spPutBytes d bs]
    simp only [List.length_cons]
    by_cases h1 : o + 1 ≤ a ∧ a < o + 1 + bs.length
    · rw [if_pos h1, if_pos (by omega), show a - o = (a - (o + 1)) + 1 by omega, List.getD_cons_succ]
    · rw [if_neg h1]
      by_cases h2 : o = a
      · subst h2; simp
      · rw [if_neg (by omega), tget_tset_ne _ h2]

theorem tget_spPutTags_false : ∀ (n : Nat) (m : Tab Bool) (o w : Nat),
    tget (spPutTags m o (List.replicate n false)) w false = if o ≤ w ∧ w < o + n then false else tget m w false
  | 0, m, o, w => by rw [if_neg (by omega)]; rfl
  | n + 1, m, o, w => by
    rw [List.replicate_succ, spPutTags, tget_spPutTags_false n, tget_tput]
    by_cases h1 : o ≤ w ∧ w < o + (n + 1)
    · rw [if_pos h1]; split <;> [rfl; (rw [if_pos (by omega)])]
    · rw [if_neg h1, if_neg (by omega), if_neg (by omega)]

theorem Team.spWrite_eq (t : Team) (o : Nat) {bs : List Byte} (h : bs ≠ []) : t.spWrite o bs =
    { t with sbytes := spPutBytes t.sbytes o bs
             stags := spPutTags t.stags (o / 8) (List.replicate ((o + bs.length - 1) / 8 + 1 - o / 8) false) } := by
  rw [Team.spWrite, if_neg (by simpa using h)]

/-- Bytes outside those stored stay, and the bytes stored read back. -/
theorem Team.spByte_spWrite (t : Team) (o a : Nat) {bs : List Byte} (h : bs ≠ []) : (t.spWrite o bs).spByte a =
    if o ≤ a ∧ a < o + bs.length then bs.getD (a - o) 0 else t.spByte a := by
  rw [t.spWrite_eq o h]; exact tget_spPutBytes _ bs t.sbytes o a

/-- The words touched have the tag 0, and the others keep theirs. -/
theorem Team.spTag_spWrite (t : Team) (o w : Nat) {bs : List Byte} (h : bs ≠ []) : (t.spWrite o bs).spTag w =
    if o / 8 ≤ w ∧ w ≤ (o + bs.length - 1) / 8 then false else t.spTag w := by
  have hlen := List.length_pos_of_ne_nil h
  rw [t.spWrite_eq o h]
  refine (tget_spPutTags_false _ t.stags (o / 8) w).trans (if_congr ?_ rfl rfl)
  omega

end Sys2Proof.Machine

open Sys2Proof Sys2Proof.Machine

/-- Settles O26: an offset that fits is taken; the writers' lanes find their team's scratchpad of the same size in their turn. -/
theorem scratchResults : Obligations.ScratchResults := by
  unfold Obligations.ScratchResults
  refine ⟨⟨?_, ?_, ?_, ?_⟩, ?_⟩
  · intro f s c x h hr hfit
    refine issue_alu h hr fun l hl => ?_
    have := spOff_fits (f := f) (t := s.teamOf c.wk) (a := (x l).av) (b := (x l).bv) rfl (hfit l hl)
    simp only [this]
    rfl
  · intro f s c x h hr hfit
    refine seq_folded h hr (fun _ => SameScratch s c.wk) (.refl s c.wk) (fun _ a l _ _ ha => ha.modTeam fun t => by simp) fun _ a l hl _ ha => ?_
    have := spOff_fits (f := f) (t := a.teamOf c.wk) (a := (x l).av) (b := (x l).bv) rfl (by rw [ha.teamOf]; exact hfit l hl)
    simp only [this, ha.1]
    rfl
  · intro f s c x h hr hfit
    refine issue_alu h hr fun l hl => ?_
    obtain ⟨hhi, hal⟩ := blockFits (hfit l hl)
    simp only [blkOffFault_fits (t := s.teamOf c.wk) hhi hal, lo32_toNat]
    rfl
  · intro f s c x h hr hfit
    refine seq_folded h hr (fun _ => SameScratch s c.wk) (.refl s c.wk) (fun _ a l _ _ ha => ha.modTeam fun t => rfl) fun _ a l hl _ ha => ?_
    obtain ⟨hhi, hal⟩ := blockFits (hfit l hl)
    have hno : blkOffFault (a.teamOf c.wk) (lo32 (x l).av.bits) = none := blkOffFault_fits (by rw [ha.teamOf]; exact hhi) hal
    simp only [hno, lo32_toNat, ha.1, lo32_byte1, lo32_byte0]
    rfl
  · intro t o bs h
    exact ⟨fun a => t.spByte_spWrite o a h, fun w => t.spTag_spWrite o w h, fun b => by rw [t.spWrite_eq o h]; rfl, t.spSize_spWrite o bs⟩
end

section
/-! ## Loads, stores, prefetches and deferred results (R12, R142–R144, R148, R220–R232) -/

namespace Sys2Proof.Machine

/-! ### Loads, stores and prefetches -/

/-- The destination field of a load is D (R117). -/
theorem Issues.dst_ld {s : State} {f : MemF} {c : Ctx} (h : Issues s (.ld f) c) : c.g.fs.d = f.d := by
  rw [← Option.some.inj h.sig]; rfl

theorem Issues.dst_fld {s : State} {f : MemF} {c : Ctx} (h : Issues s (.fld f) c) : c.g.fs.d = f.d := by
  rw [← Option.some.inj h.sig]; rfl

/-- An access whose act does all at once, from an access that is performed. -/
theorem laneAccess_acts {a b : State} {wk l : Nat} {ref : Val} {off : Int} {size : Nat} {rights : List Nat} {align last : Nat} {α : Type}
    {act : State → Who → Place → Acc α} {v : α}
    (h : Acts a b wk l ref off size rights align last (fun st h p => (act st h p).bind fun s1 a => .ok s1 (some (.ok a))) v) :
    laneAccess a wk l ref off size rights align last act = (b, some (.ok v)) := laneTry_acts h

/-- The deferred read that a load of a lane starts at a place. -/
def deferOf (s : State) (c : Ctx) (l : Nat) (kind : DeferKind) (n : Nat) (p : Place) : Defer :=
  { id := s.uid, wk := c.wk, lane := l, frame := (s.lane c.wk l).frame, reg := c.g.fs.d.toNat - 0x40
    kind := kind, realm := p.top.realm, obj := p.top.obj, pub := p.top.vis != 0, addr := p.addr
    base := (p.addr : Int) - p.poff, cmd := none, dead := false, undef := inSpill s c.wk p n }

/-- A lane whose access passes, whose registers are not EMPTY and whose read is not beyond the limit starts its deferred read (R223, R229). -/
theorem deferLane_starts {a a1 : State} {c : Ctx} {l : Nat} {ref : Val} {off : Int} {n : Nat} {rights : List Nat} {kind : DeferKind} {p : Place}
    (hact : Acts a a1 c.wk l ref off n rights n 9 (fun st _ p => .ok st (some (.ok p))) p)
    (hempty : anyEmpty a1 c.wk l (deferRegs (deferOf a1 c l kind n p)) = false)
    (hroom : match deferAcc (deferOf a1 c l kind n p) a1 with
      | .need k line => a1.readsFull (deferWho a1 (deferOf a1 c l kind n p)) k line = false
      | _ => True) :
    deferLane a c l ref off n rights kind = (startDefer a1 c.path (deferOf a1 c l kind n p), some done) := by
  have hacc : laneAccess a c.wk l ref off n rights n 9 (fun st _ p => .ok st p) = (a1, some (.ok p)) := laneAccess_acts hact
  unfold deferLane
  rw [hacc]
  change (if anyEmpty a1 c.wk l (deferRegs (deferOf a1 c l kind n p)) = true then _ else _) = _
  rw [hempty]
  change (match deferAcc (deferOf a1 c l kind n p) a1 with | .need k line => _ | _ => _) = _
  cases hd : deferAcc (deferOf a1 c l kind n p) a1 with
  | need k line =>
    rw [hd] at hroom
    change (if a1.readsFull (deferWho a1 (deferOf a1 c l kind n p)) k line = true then _ else _) = _
    rw [show a1.readsFull (deferWho a1 (deferOf a1 c l kind n p)) k line = false from hroom]
    rfl
  | ok => rfl
  | bad => rfl
  | stall => rfl

/-- A lane whose access is performed gives the outcome of its value. -/
theorem laneOut_acts {a b : State} {wk l : Nat} {ref : Val} {off : Int} {size : Nat} {rights : List Nat} {align last : Nat} {α : Type}
    {act : State → Who → Place → Acc (Tried α)} {v : α} (h : Acts a b wk l ref off size rights align last act v)
    (k : State → α → State × LaneOut) :
    laneOut (laneTry a wk l ref off size rights align last act) k = ((k b v).1, some (k b v).2) := by
  rw [laneTry_acts h]; rfl

/-- The lanes of a prefetch, each dropped or made in its turn (R232). -/
theorem foldl_prefetch {f : MemF} {c : Ctx} : ∀ (xs : List (Nat × Except LaneFault Srcs)) (σ : Nat → State) (outs : List (Nat × LaneOut)),
    (∀ k (e : Nat × Except LaneFault Srcs), xs[k]? = some e → match e.2 with
      | .ok x => prefetchLane f (σ k) c e.1 x = some (σ (k + 1))
      | .error _ => σ (k + 1) = σ k) →
    xs.foldl (fun acc e =>
        match e.2 with
        | .error _ => (acc.1, acc.2 ++ [(e.1, done)])
        | .ok x =>
          match prefetchLane f acc.1 c e.1 x with
          | some s1 => (s1, acc.2 ++ [(e.1, done)])
          | none => acc) (σ 0, outs) = (σ xs.length, outs ++ xs.map fun e => (e.1, done))
  | [], σ, outs, _ => by simp
  | (l, r) :: xs, σ, outs, h => by
    have h0 := h 0 (l, r) rfl
    have ih := foldl_prefetch (f := f) (c := c) xs (fun k => σ (k + 1)) (outs ++ [(l, done)]) fun k e hk => h (k + 1) e hk
    rw [List.foldl_cons]
    cases r with
    | error e => simp only at h0; simp only [← h0]; simpa using ih
    | ok x => simp only at h0; simp only [h0]; simpa using ih

theorem readLanes_keys {s : State} {c : Ctx} : ∀ {ls : List Nat} {xs}, readLanes s c ls = .ok xs → xs.map (·.1) = ls
  | [], xs, h => by cases h; rfl
  | l :: ls, xs, h => by
    rw [readLanes] at h
    cases hl : readAll s c.wk l c.g with
    | block => rw [hl] at h; cases h
    | bad f =>
      rw [hl] at h
      cases ht : readLanes s c ls with
      | ok t => rw [ht] at h; cases h; simp [readLanes_keys ht]
      | block => rw [ht] at h; cases h
      | bad _ => rw [ht] at h; cases h
    | ok x =>
      rw [hl] at h
      cases ht : readLanes s c ls with
      | ok t => rw [ht] at h; cases h; simp [readLanes_keys ht]
      | block => rw [ht] at h; cases h
      | bad _ => rw [ht] at h; cases h

/-! ### Registers of deferred results -/

/-- Registers of a lane that are set to one value: each takes it, its pair's tag is 0, and every other register stays. -/
theorem reg_foldl_set {fk l : Nat} (v : FReg) : ∀ (rs : List Nat) (s : State) (n : Nat),
    (((rs.foldl (fun st m => st.modFrame fk fun f => (f.setReg m l v).setPtag m l false) s).frame fk).reg n l)
      = if n ∈ rs then v else (s.frame fk).reg n l
  | [], s, n => by simp
  | m :: rs, s, n => by
    rw [List.foldl_cons, reg_foldl_set v rs, State.frame_modFrame_self, Frame.reg_setPtag, Frame.reg_setReg]
    by_cases h1 : n ∈ rs
    · simp [h1]
    · by_cases h2 : m = n
      · simp [h2]
      · rw [if_neg h1, if_neg (by omega), if_neg (by simp [h1, Ne.symm h2])]

@[simp] theorem frame_putFReg (s : State) (fk l n : Nat) (v : BitVec 32) :
    (putFReg s fk l n v).frame fk = ((s.frame fk).setReg n l ⟨v, .full⟩).setPtag n l false := by simp [putFReg]

/-- What a frame holds in a lane after one register of the lane is written. -/
theorem reg_putFReg (s : State) (fk l n m : Nat) (v : BitVec 32) :
    ((putFReg s fk l n v).frame fk).reg m l = if n = m then ⟨v, .full⟩ else (s.frame fk).reg m l := by
  rw [frame_putFReg, Frame.reg_setPtag, Frame.reg_setReg]
  exact if_congr (by omega) rfl rfl

theorem truncate_eq_extract (v : Word) : v.truncate 32 = v.extractLsb' 0 32 := by
  apply BitVec.eq_of_getLsbD_eq; intro i hi; simp [hi]

/-! ### Values loaded (R223) -/

theorem loadVal_byte (b : Byte) : loadVal 1 false [b] = b.zeroExtend 64 := by
  apply BitVec.eq_of_toNat_eq
  simp [loadVal, ofBytes]

theorem loadVal_byte_signed (b : Byte) : loadVal 1 true [b] = (b.signExtend 32).zeroExtend 64 := by
  simp [loadVal, ofBytes]

theorem ofBytes_two (b0 b1 : Byte) : BitVec.ofNat 16 (ofBytes [b0, b1]) = (b1 ++ b0 : BitVec 16) := by
  apply BitVec.eq_of_toNat_eq
  have h0 := b0.isLt
  have h1 := b1.isLt
  simp only [ofBytes, BitVec.toNat_ofNat, BitVec.toNat_append]
  rw [Nat.shiftLeft_eq, Nat.mul_comm b1.toNat, ← Nat.two_pow_add_eq_or_of_lt h0]
  omega

theorem loadVal_half_signed (b0 b1 : Byte) : loadVal 2 true [b0, b1] = ((b1 ++ b0 : BitVec 16).signExtend 32).zeroExtend 64 := by
  simp [loadVal, ofBytes_two]

/-! ### Deferred responses -/

/-- An access that does all at once, for a waiter with no failure to take. -/
theorem runAcc_value {α : Type} {s s1 : State} {h : Who} {f : State → Acc α} {v : α}
    (hf : s.fails.find? (fun x => x.who == h.who) = none) (he : f s = .ok s1 v) : runAcc s h f = (s1.unwait h.who, some (.ok v)) :=
  runTry_value hf (by rw [he, Acc.bind_ok])

/-- A failure that waits is taken first. -/
theorem runTry_failed {α : Type} {s : State} {h : Who} {f : State → Acc (Tried α)} {x : Fail}
    (hf : s.fails.find? (fun x => x.who == h.who) = some x) : runTry s h f = (s.unwait h.who, some (.error x.why)) := by
  simp only [runTry, hf]

theorem tryDefer_dead {s : State} {d : Defer} (h : d.dead = true) : tryDefer s d = (dropDefer s d, true) := by
  simp only [tryDefer, h, if_true]

theorem tryDefer_failed {s : State} {d : Defer} {x : Fail} (h : d.dead = false) (ha : readAhead s d = false)
    (hf : s.fails.find? (fun f => f.who == .defer d.id) = some x) :
    tryDefer s d = (endDefer (s.unwait (.defer d.id)) d (.error x.why), true) := by
  have hrun : runAcc s (deferWho s d) (deferAcc d) = (s.unwait (.defer d.id), some (.error x.why)) := runTry_failed hf
  simp only [tryDefer, h, ha, Bool.false_eq_true, if_false, hrun]

theorem tryDefer_read {s s1 : State} {d : Defer} {v : Word × Word} (h : d.dead = false) (ha : readAhead s d = false)
    (hf : s.fails.find? (fun f => f.who == .defer d.id) = none) (hv : deferAcc d s = .ok s1 v) :
    tryDefer s d = (endDefer (s1.unwait (.defer d.id)) d (.ok v), true) := by
  have hrun : runAcc s (deferWho s d) (deferAcc d) = (s1.unwait (.defer d.id), some (.ok v)) := runAcc_value hf hv
  simp only [tryDefer, h, ha, Bool.false_eq_true, if_false, hrun]

/-- A response that can be performed wakes those that wait. -/
theorem deferredResponse_performed {s t : State} {d : Defer} {id : Nat} (hd : s.defers.find? (fun x => x.id == id && !x.isHost) = some d)
    (h : tryDefer s d = (t, true)) : exec (.deferredResponse id) s = .next t.wake := by
  change execDeferredResponse id s = _
  simp only [execDeferredResponse, hd, h, if_true]

theorem landRegs_frames (s : State) (d : Defer) (v v2 : Word) :
    (landRegs s d v v2).frames = (fillRegs s d.frame d.lane (deferRegs d) v v2).frames := by
  unfold landRegs; simp only; split <;> rfl

end Sys2Proof.Machine

open Sys2Proof Sys2Proof.Machine

/-- Settles O25: a lane's access that is performed gives the instruction its outcome in the lane's turn; a deferred result fills its registers
one by one. -/
theorem loadStoreResults : Obligations.LoadStoreResults := by
  unfold Obligations.LoadStoreResults
  refine ⟨⟨?_, ?_, ?_, ?_, ?_⟩, ?_, ?_, ?_, ?_, ?_, ?_, ?_, ?_, ?_, ?_, ?_⟩
  · intro f s c x σ h hr hord hσ
    refine seq_ended h hr hσ fun l a b hstart => ?_
    obtain ⟨a1, p, hact, hempty, hroom, rfl⟩ := hstart
    rw [← h.dst_ld] at hempty hroom ⊢
    simp only [hord, if_false]
    exact deferLane_starts hact hempty hroom
  · intro f s c x σ v h hr hord n hσ
    refine seq_ended h hr hσ fun l a b hact => ?_
    simp only [hord, if_true, acquireLane, h.dst_ld]
    exact laneOut_acts hact _
  · intro f s c x σ h hr hσ
    refine seq_ended h hr hσ fun l a b hstart => ?_
    obtain ⟨a1, p, hact, hempty, hroom, rfl⟩ := hstart
    rw [← h.dst_fld] at hempty hroom ⊢
    exact deferLane_starts hact hempty hroom
  · intro f s c x σ h hr hσ
    exact seq_ended h hr hσ fun l a b hact => laneOut_acts hact _
  · intro f s c xs σ h hxs h0 hσ
    have houts : xs.map (fun e => (e.1, done)) = c.active.map fun l => (l, (.ok {} : LaneOut)) := by
      rw [← readLanes_keys hxs, List.map_map]; rfl
    have hfold := foldl_prefetch xs σ [] hσ
    rw [h0, List.nil_append, houts] at hfold
    change execPref f s = _
    refine issue_ended h ?_
    rw [h.lanes, hxs]
    exact hfold
  · intro s fk l rs hl n
    exact reg_foldl_set _ rs s n
  · intro s fk l n v hl
    simp only [truncate_eq_extract, fillRegs, List.zip_cons_cons, List.zip_nil_left, List.foldl_cons, List.foldl_nil]
    exact ⟨(reg_putFReg ..).trans (if_pos rfl), by rw [frame_putFReg, Frame.ptag_setPtag, if_pos rfl]⟩
  · intro s fk l n v v2 hl
    simp only [truncate_eq_extract, fillRegs, List.zip_cons_cons, List.zip_nil_left, List.foldl_cons, List.foldl_nil, reg_putFReg]
    simp
  · intro s fk l rs c sub hl n hn
    exact (reg_foldl_set _ rs s n).trans (if_pos hn)
  · exact fun b => ⟨loadVal_byte b, loadVal_byte_signed b⟩
  · exact loadVal_half_signed
  · intro s d hd
    refine ⟨fun h => deferredResponse_performed hd (tryDefer_dead h), fun h ha => ⟨fun x hf => ?_, fun hf s1 v hv => ?_⟩⟩
    · exact deferredResponse_performed hd (tryDefer_failed h ha hf)
    · exact deferredResponse_performed hd (tryDefer_read h ha hf hv)
  · intro s d v h hu
    simp only [endDefer, h, hu, Bool.false_eq_true, if_false]
  · exact landRegs_frames
  · intro s d e h
    simp only [endDefer, h, Bool.false_eq_true, if_false]
  · intro s d r h
    simp only [endDefer, h, if_true]
end

section
/-! ## What the memory system leaves alone: lanes, frames, teams, warps, deferred results, failures and what the checks of R25 read -/

namespace Sys2Proof.Machine

/-- What no operation on lines changes: the tables of threads, deferred results and failures; the registers of the package beside its
limiter; and of each core OCBASE, the objects that migrate and the object cache. -/
def State.still (s : State) :=
  (s.lanes, s.frames, s.teams, s.warps, s.defers, s.fails, s.pkg.unlimited,
    fun c => ((s.core c).ocbase, (s.core c).migOff, (s.core c).oc))

theorem State.still_iff {s t : State} : t.still = s.still ↔ t.lanes = s.lanes ∧ t.frames = s.frames ∧ t.teams = s.teams ∧ t.warps = s.warps
    ∧ t.defers = s.defers ∧ t.fails = s.fails ∧ t.pkg.unlimited = s.pkg.unlimited
    ∧ ∀ c, (t.core c).ocbase = (s.core c).ocbase ∧ (t.core c).migOff = (s.core c).migOff ∧ (t.core c).oc = (s.core c).oc := by
  simp only [State.still, Prod.mk.injEq, funext_iff]

/-! ### Requests and acknowledgements -/

theorem State.still_request (s : State) (a : Nat) (p : Packet) : (s.request a p).still = s.still := by
  unfold State.request
  split
  · rfl
  split
  · rfl
  split <;> rfl

theorem State.still_joinAcks (s : State) (line core : Nat) : (s.joinAcks line core).still = s.still := by
  unfold State.joinAcks; split <;> rfl

theorem State.still_addAcks (s : State) (line : Nat) (cores owe : List Nat) (n : Int) (t : Nat) :
    (s.addAcks line cores owe n t).still = s.still := by
  unfold State.addAcks
  split
  · rfl
  · split <;> rfl

theorem State.still_addDirty (s : State) (line core t : Nat) : (s.addDirty line core t).still = s.still :=
  (show _ = (s.addAcks line [core] [] 1 t).still from rfl).trans (State.still_addAcks ..)

theorem State.still_sendInv (s : State) (line dst col : Nat) : (s.sendInv line dst col).still = s.still := by
  unfold State.sendInv
  split
  · rfl
  split
  · split <;> rfl
  · rfl

theorem State.still_sendInvs (s : State) (line col : Nat) (ds : List Nat) : (s.sendInvs line col ds).still = s.still :=
  foldl_unobserved _ State.still s fun st d _ => st.still_sendInv line d col

theorem State.still_sendFwd (s : State) (line q : Nat) (p : Packet) : (s.sendFwd line q p).still = s.still := by
  unfold State.sendFwd; split <;> rfl

/-- An owner and its sharers are asked for a line. -/
theorem State.still_forward (s : State) (line q col : Nat) (p : Packet) (ds : List Nat) :
    ((s.sendFwd line q p).sendInvs line col ds).still = s.still :=
  (State.still_sendInvs ..).trans (State.still_sendFwd ..)

/-! ### The home -/

theorem State.still_grantI (s : State) (l : Nat) : (s.grantI l).still = s.still := rfl

theorem State.still_startTx (s : State) (l : Nat) (w : HomeWait) (o : List Nat) (r : Bool) (q : List Instr) :
    (s.startTx l w o r q).still = s.still := rfl

theorem State.still_recall (s : State) (l : Nat) (w : HomeWait) : (s.recall l w).still = s.still := by
  unfold State.recall
  split
  · rfl
  dsimp only
  split
  · exact State.still_forward ..
  split
  · rfl
  · exact State.still_sendInvs ..

theorem State.still_endTaken (s : State) (l : Nat) (k : Option Nat) : (s.endTaken l k).still = s.still := by
  unfold State.endTaken
  split
  · dsimp only
    split
    · rfl
    split <;> rfl
  · rfl

theorem State.still_takeBack (s : State) (l : Nat) (k : Option Nat) : (s.takeBack l k).still = s.still := by
  unfold State.takeBack
  split
  · rfl
  dsimp only
  split
  · exact State.still_forward ..
  split
  · exact State.still_endTaken ..
  · exact State.still_sendInvs ..

theorem State.core_dropL1 (s : State) (line c : Nat) : ((s.dropL1 line).core c).ocbase = (s.core c).ocbase
    ∧ ((s.dropL1 line).core c).migOff = (s.core c).migOff ∧ ((s.dropL1 line).core c).oc = (s.core c).oc := by
  have h : ∀ t : Tab Core, let f : Nat × Core → Nat × Core := fun e => (e.1, { e.2 with l1 := e.2.l1.filter fun x => x.line != line })
      let a := tget (t.map f) c (Core.reset c)
      let b := tget t c (Core.reset c)
      a.ocbase = b.ocbase ∧ a.migOff = b.migOff ∧ a.oc = b.oc := by
    intro t
    induction t with
    | nil => exact ⟨rfl, rfl, rfl⟩
    | cons e r ih =>
      obtain ⟨j, v⟩ := e
      by_cases hj : j = c
      · simp [tget, tfind, hj]
      · simpa [tget, tfind, hj] using ih
  exact h s.cores

theorem State.still_dropL1 (s : State) (line : Nat) : (s.dropL1 line).still = s.still :=
  State.still_iff.2 ⟨rfl, rfl, rfl, rfl, rfl, rfl, rfl, s.core_dropL1 line⟩

theorem State.still_recover (s : State) (l : Nat) : (s.recover l).still = s.still := by
  unfold State.recover
  split
  · dsimp only
    split
    · split
      · split
        · split
          · exact (State.still_sendInvs ..).trans (State.still_dropL1 ..)
          · exact (State.still_sendInvs ..).trans (State.still_dropL1 ..)
        · rfl
      · split <;> rfl
    · split
      · rfl
      split <;> rfl
  · rfl

theorem State.still_postHome (s : State) (k : DReq) (l : Nat) : (s.postHome k l).still = s.still := by
  unfold State.postHome
  split
  · rfl
  dsimp only
  split
  · exact State.still_recover ..
  split
  · exact (State.still_startTx ..).trans ((State.still_sendFwd ..).trans (State.still_recover ..))
  · exact (State.still_recall ..).trans (State.still_recover ..)
  · exact (State.still_recall ..).trans (State.still_recover ..)
  · exact (State.still_takeBack ..).trans (State.still_recover ..)

theorem State.still_post (s : State) (k : DReq) (line : Nat) : (s.post k line).still = s.still := by
  unfold State.post
  split
  · rfl
  split
  · exact State.still_postHome ..
  split
  · exact State.still_request ..
  · exact State.still_request ..

theorem State.still_ask (s : State) (h : Who) (k : DReq) (line : Nat) : (s.ask h k line).still = s.still := by
  unfold State.ask
  dsimp only
  split
  · split <;> rfl
  split
  · rfl
  · exact State.still_post ..

/-! ### Lines -/

theorem still_mergeAt (s : State) (line : Nat) (d : LineData) (m : BitVec 128) (t : BitVec 16) (k : BitVec 2) :
    (mergeAt s line d m t k).still = s.still := by
  unfold mergeAt
  split
  · rfl
  split <;> rfl

theorem State.still_modCore (s : State) (c : Nat) {f : Core → Core}
    (hf : ∀ v, (f v).ocbase = v.ocbase ∧ (f v).migOff = v.migOff ∧ (f v).oc = v.oc) : (s.modCore c f).still = s.still := by
  refine State.still_iff.2 ⟨rfl, rfl, rfl, rfl, rfl, rfl, rfl, fun k => ?_⟩
  by_cases h : c = k
  · subst h; rw [State.core_modCore_self]; exact hf _
  · rw [State.core_modCore_ne _ _ h]; exact ⟨rfl, rfl, rfl⟩

theorem State.still_l1Set (s : State) (c : Nat) (e : L1Line) : (s.l1Set c e).still = s.still :=
  State.still_modCore s c fun _ => ⟨rfl, rfl, rfl⟩

theorem State.still_l1Drop (s : State) (c : Nat) (e : L1Line) : (s.l1Drop c e).still = s.still :=
  State.still_modCore s c fun _ => ⟨rfl, rfl, rfl⟩

/-- What an access to lines may answer: a state that keeps what it must, or a request that is no read of a far line. -/
def Acc.Quiet {α : Type} (s : State) : Acc α → Prop
  | .ok t _ => t.still = s.still
  | .need k line => k.reads = true → s.farLine line = false
  | _ => True

theorem State.pkg_of_still {s t : State} (h : t.still = s.still) :
    t.pkg.unlimited = s.pkg.unlimited :=
  (State.still_iff.1 h).2.2.2.2.2.2.1

theorem State.agent_of_still {s t : State} (h : t.still = s.still) : t.pkg.agent = s.pkg.agent := agent_congr (State.pkg_of_still h)

theorem State.farLine_of_still {s t : State} (h : t.still = s.still) (line : Nat) : t.farLine line = s.farLine line := by
  rw [State.farLine, State.farLine, State.agent_of_still h]

theorem Acc.Quiet.of_still {α : Type} {s t : State} {x : Acc α} (h : t.still = s.still) (hx : x.Quiet t) : x.Quiet s := by
  cases x with
  | ok u a => exact Eq.trans hx h
  | need k line => exact fun hk => (State.farLine_of_still h line).symm.trans (hx hk)
  | bad => trivial
  | stall => trivial

theorem Acc.Quiet.bind {α β : Type} {s : State} {x : Acc α} {f : State → α → Acc β} (hx : x.Quiet s)
    (hf : ∀ t a, t.still = s.still → (f t a).Quiet t) : (x.bind f).Quiet s := by
  cases x with
  | ok t a => exact (hf t a hx).of_still hx
  | need k line => exact hx
  | bad => trivial
  | stall => trivial

/-- A request for ownership is no read. -/
theorem Acc.Quiet.need {α : Type} {s : State} {k : DReq} {line : Nat} (h : k.reads = false) : (Acc.need k line : Acc α).Quiet s :=
  fun hk => absurd (h.symm.trans hk) (by decide)

theorem Acc.Quiet.ite {α : Type} {s : State} {c : Prop} [Decidable c] {x y : Acc α} (hx : x.Quiet s) (hy : y.Quiet s) :
    (if c then x else y).Quiet s := by
  split
  · exact hx
  · exact hy

theorem takeHome_quiet (s : State) (h : Who) (l : Nat) (full : Bool) (keep : Option Nat) : (takeHome s h l full keep).Quiet s := by
  have hcount : ∀ st : State, (st.countTaken h l).still = st.still := fun st => by
    unfold State.countTaken
    dsimp only
    split
    · split
      · exact State.still_addAcks ..
      · exact State.still_joinAcks ..
    · exact State.still_joinAcks ..
  unfold takeHome
  dsimp only
  split
  · exact State.still_joinAcks ..
  · split
    · exact rfl
    · trivial
  · split
    · split
      · exact hcount s
      · exact .need rfl
    · exact .ite ((hcount _).trans (State.still_takeBack ..)) (.need rfl)

theorem takeLine_quiet (s : State) (h : Who) (line : Nat) (full : Bool) : (takeLine s h line full).Quiet s := by
  have hneed : ((.need (if full then .wrfull else .rdx) line : Acc Unit)).Quiet s := .need (by cases full <;> rfl)
  unfold takeLine
  dsimp only
  split
  · exact takeHome_quiet ..
  split
  · split
    · exact State.still_joinAcks ..
    · split
      · exact (State.still_addDirty ..).trans (State.still_request ..)
      · trivial
    · split
      · exact hneed
      · trivial
    · split
      · exact .need rfl
      · trivial
  · split
    · exact hneed
    · trivial

theorem backPriv_quiet (s : State) (line : Nat) (d : LineData) (m : BitVec 128) (t : BitVec 16) (k : BitVec 2) :
    (backPriv s line d m t k).Quiet s := by
  have h1 : (if (tfind s.copies line).isSome then mergeAt (s.patchReads line ⟨m, t, k, d⟩) line d m t k
      else s.patchReads line ⟨m, t, k, d⟩).still = s.still := by
    split
    · exact still_mergeAt ..
    · rfl
  unfold backPriv
  dsimp only
  split
  · exact h1
  split
  · exact (State.still_request ..).trans h1
  · trivial

theorem l1Below_quiet (s : State) (h : Who) (e : L1Line) : (l1Below s h e).Quiet s := by
  unfold l1Below
  split
  · refine Acc.Quiet.bind ?_ fun t _ _ => still_mergeAt ..
    split
    · exact takeLine_quiet ..
    · exact rfl
  · exact backPriv_quiet ..

theorem l1Back_quiet (s : State) (h : Who) (e : L1Line) : (l1Back s h e).Quiet s := by
  unfold l1Back
  split
  · exact rfl
  · exact (l1Below_quiet s h e).bind fun t _ _ => State.still_l1Set ..

theorem l1Free_quiet (s : State) (h : Who) : ∀ ls : List L1Line, (l1Free s h ls).Quiet s
  | [] => rfl
  | e :: r => by
    have hb := l1Back_quiet s h e
    unfold l1Free
    cases he : l1Back s h e with
    | ok t a => rw [he] at hb; exact (State.still_l1Drop ..).trans hb
    | need k l => rw [he] at hb; exact hb
    | bad => exact l1Free_quiet s h r
    | stall => trivial

theorem l1Room_quiet (s : State) (h : Who) : (l1Room s h).Quiet s := by
  unfold l1Room
  dsimp only
  split
  · exact rfl
  split
  · exact State.still_l1Drop ..
  · exact l1Free_quiet ..

theorem l1Keep_quiet (s : State) (h : Who) (e : L1Line) : (l1Keep s h e).Quiet s := by
  unfold l1Keep
  split
  · exact State.still_l1Set ..
  · refine (l1Room_quiet s h).bind fun t room _ => ?_
    split
    · exact State.still_l1Set ..
    split
    · exact rfl
    · exact l1Below_quiet ..

/-! ### Lines of the package's own memory -/

/-- A line of the package's own memory. -/
def State.nearLine (s : State) (line : Nat) : Prop := agentOf line = s.pkg.agent ∧ s.pkg.agent < 2000

theorem State.nearLine.not_far {s : State} {line : Nat} (h : s.nearLine line) : s.farLine line = false := by
  obtain ⟨h1, h2⟩ := h
  have : ¬ 2 ^ 50 ≤ line := by rw [agentOf] at h1; omega
  rw [State.farLine, decide_eq_false this, h1, bne_self_eq_false, Bool.or_false]

theorem State.nearLine.of_still {s t : State} (h : t.still = s.still) {line : Nat} (hn : s.nearLine line) : t.nearLine line := by
  rw [State.nearLine, State.agent_of_still h]; exact hn

theorem pocLine_quiet {s : State} {line : Nat} (h : s.nearLine line) : (pocLine s line).Quiet s := by
  unfold pocLine
  simp only [h.1, if_true]
  split
  · trivial
  split
  · exact fun _ => h.not_far
  · exact rfl

theorem privLine_quiet {s : State} {line : Nat} (h : s.nearLine line) (w : Who) (b : Bool) : (privLine s w line b).Quiet s := by
  unfold privLine
  simp only [h.1, if_true]
  split
  · trivial
  · exact rfl

theorem l1Line_quiet {s : State} {line : Nat} (h : s.nearLine line) (w : Who) (k : Key) : (l1Line s w k line).Quiet s := by
  unfold l1Line
  split
  · exact rfl
  · refine Acc.Quiet.bind ?_ fun t d _ => (l1Keep_quiet ..).bind fun _ _ _ => rfl
    split
    · exact pocLine_quiet h
    · exact privLine_quiet h ..

theorem l1Bytes_quiet {s : State} (w : Who) (k : Key) : ∀ ps : List (Nat × Nat × Nat), (∀ p ∈ ps, s.nearLine p.1) → (l1Bytes s w k ps).Quiet s
  | [], _ => rfl
  | (u, o, n) :: ps, h => by
    refine Acc.Quiet.bind (l1Line_quiet (h _ List.mem_cons_self) ..) fun t e ht => ?_
    exact (l1Bytes_quiet w k ps fun p hp => (h p (List.mem_cons_of_mem _ hp)).of_still ht).bind fun _ _ _ => rfl

/-- An address of the package's own memory, whose n bytes lie in one line. -/
structure State.Near (s : State) (a n : Nat) : Prop where
  home  : a / 2 ^ 40 = s.pkg.agent
  agent : s.pkg.agent < 2000
  span  : a % 128 + n ≤ 128

theorem State.Near.of_still {s t : State} {a n : Nat} (h : t.still = s.still) (hn : s.Near a n) : t.Near a n := by
  have := State.agent_of_still h
  exact ⟨hn.home.trans this.symm, this ▸ hn.agent, hn.span⟩

theorem State.Near.line {s : State} {a n : Nat} (h : s.Near a n) : s.nearLine (a / 128) :=
  ⟨by rw [agentOf, Nat.div_div_eq_div_mul, ← h.home]; rfl, h.agent⟩

theorem State.Near.notHost {s : State} {a n : Nat} (h : s.Near a n) : isHost (a / 2 ^ 40) = false := by
  have := h.agent
  simp only [isHost, h.home, decide_eq_false_iff_not]; omega

theorem pieces_one {a n : Nat} (h : isHost (a / 2 ^ 40) = false) (hs : a % 128 + n ≤ 128) (hn : 0 < n) :
    piecesOf a n = [(a / 128, a % 128, n)] := by
  have hmin : min n (128 - a % 128) = n := by omega
  simp only [piecesOf, h, Bool.false_eq_true, if_false, pieces, Nat.ne_of_gt hn, hmin, Nat.sub_self, if_true]

theorem l1Read_quiet {s : State} {a n : Nat} (h : s.Near a n) (w : Who) (k : Key) : (l1Read s w k a n).Quiet s := by
  rw [l1Read, h.notHost]
  simp only [Bool.false_eq_true, if_false]
  refine l1Bytes_quiet w k _ fun p hp => ?_
  rcases Nat.eq_zero_or_pos n with hn | hn
  · rw [hn] at hp; simp [piecesOf, pieces] at hp
  · rw [pieces_one h.notHost h.span hn, List.mem_singleton] at hp
    rw [hp]; exact h.line

theorem farWord_quiet {s : State} {a n : Nat} (h : s.Near a n) (w : Who) : (farWord s w a).Quiet s := by
  unfold farWord
  simp only [h.home, if_true]
  split
  · trivial
  · exact rfl

/-- A deferred read of the package's own memory. -/
theorem deferAcc_quiet {s : State} {d : Defer} (h : match d.kind with | .load size _ => s.Near d.addr size | _ => s.Near d.addr 8) :
    (deferAcc d s).Quiet s := by
  unfold deferAcc
  cases hk : d.kind with
  | load size sx =>
    rw [hk] at h
    exact (l1Read_quiet h ..).bind fun _ _ _ => rfl
  | _ =>
    rw [hk] at h
    exact (farWord_quiet h ..).bind fun _ _ _ => rfl

end Sys2Proof.Machine
end

section
/-! ## Loads, stores, prefetches and deferred results complete (R25, R142, R218, R222–R226, R230, R232, R375, R376) -/

namespace Sys2Proof.Machine

/-! ### What the checks of a lane's access rest on -/

/-- A state in which the lanes of a warp pass the checks of R25 as in another: the same teams, lanes and package, the object cache of the
core answers alike under every name, and no failure has come for a lane. -/
structure SameChecks (wk : Nat) (s a : State) : Prop where
  pkg     : a.pkg.unlimited = s.pkg.unlimited
  teams   : a.teams = s.teams
  lanes   : a.lanes = s.lanes
  team    : (a.warp wk).team = (s.warp wk).team
  fails   : ∀ w, s.fails.find? (fun f => f.who == w) = none → a.fails.find? (fun f => f.who == w) = none
  ocbase  : (a.core (wkCore wk)).ocbase = (s.core (wkCore wk)).ocbase
  migOff  : (a.core (wkCore wk)).migOff = (s.core (wkCore wk)).migOff
  entries : ∀ realm obj, (a.core (wkCore wk)).oc.find? (fun e => e.realm == realm && e.obj == obj)
              = (s.core (wkCore wk)).oc.find? (fun e => e.realm == realm && e.obj == obj)

namespace SameChecks
variable {wk : Nat} {s a b : State}

theorem refl (wk : Nat) (s : State) : SameChecks wk s s := ⟨rfl, rfl, rfl, rfl, fun _ h => h, rfl, rfl, fun _ _ => rfl⟩

theorem trans (h : SameChecks wk s a) (g : SameChecks wk a b) : SameChecks wk s b :=
  ⟨g.pkg.trans h.pkg, g.teams.trans h.teams, g.lanes.trans h.lanes, g.team.trans h.team, fun w hw => g.fails w (h.fails w hw),
    g.ocbase.trans h.ocbase, g.migOff.trans h.migOff, fun r o => (g.entries r o).trans (h.entries r o)⟩

theorem of_still (h : a.still = s.still) : SameChecks wk s a := by
  obtain ⟨hl, -, ht, hw, -, hf, hp, hc⟩ := State.still_iff.1 h
  obtain ⟨h1, h2, h3⟩ := hc (wkCore wk)
  exact ⟨hp, ht, hl, by rw [State.warp, State.warp, hw], fun w hn => by rw [hf]; exact hn, h1, h2, fun _ _ => by rw [h3]⟩

theorem unwait (w : Waiter) : SameChecks wk s (s.unwait w) := by
  refine ⟨rfl, rfl, rfl, rfl, fun v hv => ?_, rfl, rfl, fun _ _ => rfl⟩
  rw [List.find?_eq_none] at hv ⊢
  exact fun f hf => hv f (List.mem_filter.1 hf).1

theorem modFrame (s : State) (fk : Nat) (f : Frame → Frame) : SameChecks wk s (s.modFrame fk f) :=
  ⟨rfl, rfl, rfl, rfl, fun _ h => h, rfl, rfl, fun _ _ => rfl⟩

theorem withDefers (s : State) (ds : List Defer) (n : Nat) : SameChecks wk s { s with defers := ds, uid := n } :=
  ⟨rfl, rfl, rfl, rfl, fun _ h => h, rfl, rfl, fun _ _ => rfl⟩

/-- The use of the entry that the cache gives changes no answer of the cache. -/
theorem useEntry {e : OcEntry} {realm obj : Nat}
    (h : (s.core (wkCore wk)).oc.find? (fun e => e.realm == realm && e.obj == obj) = some e) : SameChecks wk s (s.useEntry (wkCore wk) e) := by
  have hcore : (s.useEntry (wkCore wk) e).core (wkCore wk) = _ := State.core_modCore_self ..
  refine ⟨rfl, rfl, rfl, rfl, fun _ h => h, by rw [hcore], by rw [hcore], fun r o => ?_⟩
  have hname := List.find?_some h
  simp only [Bool.and_eq_true, beq_iff_eq] at hname
  by_cases hro : e.realm = r ∧ e.obj = o
  · obtain ⟨rfl, rfl⟩ := hro
    rw [State.useEntry_find, ← h, hname.1, hname.2]
  · exact State.useEntry_find_other _ _ _ hro

theorem teamOf (h : SameChecks wk s a) : a.teamOf wk = s.teamOf wk := by
  rw [State.teamOf, State.teamOf, h.team, State.team, State.team, h.teams]

theorem lane (h : SameChecks wk s a) (k l : Nat) : a.lane k l = s.lane k l := by rw [State.lane, State.lane, h.lanes]

theorem inSpill (h : SameChecks wk s a) (p : Place) (n : Nat) : Machine.inSpill a wk p n = Machine.inSpill s wk p n := by
  unfold Machine.inSpill; rw [h.teamOf]

theorem near (h : SameChecks wk s a) {x n : Nat} (hn : s.Near x n) : a.Near x n := by
  have := agent_congr h.pkg
  exact ⟨hn.home.trans this.symm, this ▸ hn.agent, hn.span⟩

/-- An access that the checks allow is allowed wherever they rest on the same. -/
theorem allowed (h : SameChecks wk s a) {l : Nat} {ref : Val} {off : Int} {size : Nat} {rights : List Nat} {align : Nat} {p : Place}
    (ha : Allowed s wk l ref off size rights align p) : Allowed a wk l ref off size rights align p where
  enabled := h.ocbase ▸ ha.enabled
  tag := ha.tag
  num := ha.num
  entry := by rw [h.teamOf, h.entries]; exact ha.entry
  view := ha.view
  top := ha.top
  world := by rw [h.teamOf]; exact ha.world
  vis := by rw [h.teamOf, visFault_congr h.pkg]; exact ha.vis
  right := ha.right
  low := ha.low
  high := ha.high
  mult := ha.mult
  still := h.migOff ▸ ha.still
  whole := ha.whole
  poff := ha.poff
  addr := ha.addr
  exists_ := (addrOk_congr h.pkg _).trans ha.exists_
  secure := (secureBad_congr h.pkg _ _).trans ha.secure
  clear := h.fails _ ha.clear

end SameChecks

/-- An allowed access whose act gives a value at its place is performed: the entry used becomes the most recently used. -/
theorem Allowed.acts {s t : State} {wk l : Nat} {ref : Val} {off : Int} {size : Nat} {rights : List Nat} {align : Nat} {p : Place}
    {α : Type} {act : State → Who → Place → Acc (Tried α)} {v : α} (h : Allowed s wk l ref off size rights align p)
    (hact : act (s.useEntry (wkCore wk) p.ent) (whoLane s wk l) p = .ok t (some (.ok v))) :
    Acts s (t.unwait (.lane wk l)) wk l ref off size rights align 9 act v :=
  ⟨h.clear, _, p, t, checkRef_allowed h, hact, rfl⟩

theorem Allowed.sameChecks {s : State} {wk l : Nat} {ref : Val} {off : Int} {size : Nat} {rights : List Nat} {align : Nat} {p : Place}
    (h : Allowed s wk l ref off size rights align p) : SameChecks wk s ((s.useEntry (wkCore wk) p.ent).unwait (.lane wk l)) :=
  (SameChecks.useEntry h.entry).trans (.unwait _)

/-! ### Deferred reads start -/

theorem State.openLanding_view (s : State) (wk path : Nat) : (s.openLanding wk path).1.frames = s.frames
    ∧ ∀ k, SameChecks k s (s.openLanding wk path).1 := by
  unfold State.openLanding
  split
  · exact ⟨rfl, fun k => .refl k s⟩
  · refine ⟨rfl, fun k => ⟨rfl, rfl, rfl, ?_, fun _ h => h, rfl, rfl, fun _ _ => rfl⟩⟩
    rw [State.warp_modWarp]; split
    · next h => subst h; rfl
    · rfl

theorem sameChecks_emptyRegs (k : Nat) (s : State) (fk l : Nat) (rs : List Nat) : SameChecks k s (emptyRegs s fk l rs) := by
  unfold emptyRegs
  induction rs generalizing s with
  | nil => exact .refl k s
  | cons r rs ih => exact (SameChecks.modFrame s fk _).trans (ih _)

/-- Registers that become EMPTY in one lane stay in every other. -/
theorem reg_emptyRegs_other {s : State} {fk l m : Nat} {rs : List Nat} (hl : l < 32) (hm : m < 32) (h : l ≠ m) (gk n : Nat) :
    ((emptyRegs s fk l rs).frame gk).reg n m = (s.frame gk).reg n m :=
  foldl_unobserved _ (fun st => (State.frame st gk).reg n m) s fun st r _ => by
    rw [State.frame_modFrame]
    split
    · next e => subst e; rw [Frame.reg_setPtag, Frame.reg_setReg, if_neg (by omega)]
    · rfl

theorem addDefer_sameChecks (s : State) (path : Nat) (d : Defer) (k : Nat) : SameChecks k s (addDefer s path d).1 :=
  ((s.openLanding_view d.wk path).2 k).trans <| (SameChecks.withDefers _ _ _).trans (sameChecks_emptyRegs k _ _ _ _)

theorem addDefer_reg {s : State} {path : Nat} {d : Defer} {m : Nat} (hl : d.lane < 32) (hm : m < 32) (h : d.lane ≠ m) (gk n : Nat) :
    ((addDefer s path d).1.frame gk).reg n m = (s.frame gk).reg n m := by
  unfold addDefer
  rw [reg_emptyRegs_other hl hm h, State.frame, State.frame]
  exact congrArg (fun t : Tab Frame => (tget t gk Frame.none).reg n m) (s.openLanding_view d.wk path).1

theorem startDefer_still (s : State) (path : Nat) (d : Defer) : (startDefer s path d).still = (addDefer s path d).1.still := by
  unfold startDefer
  dsimp only
  split
  · exact State.still_ask ..
  · rfl

theorem startDefer_sameChecks (s : State) (path : Nat) (d : Defer) (k : Nat) : SameChecks k s (startDefer s path d) :=
  (addDefer_sameChecks s path d k).trans (.of_still (startDefer_still s path d))

/-- A deferred read that starts in one lane leaves the registers of the others. -/
theorem startDefer_reg {s : State} {path : Nat} {d : Defer} {m : Nat} (hl : d.lane < 32) (hm : m < 32) (h : d.lane ≠ m) (gk n : Nat) :
    ((startDefer s path d).frame gk).reg n m = (s.frame gk).reg n m := by
  rw [← addDefer_reg (s := s) (path := path) hl hm h gk n, State.frame, State.frame, (State.still_iff.1 (startDefer_still s path d)).2.1]

/-! ### LD and FLD -/

/-- A lane's deferred read of a place starts, after its entry has been used and its failures forgotten. -/
def deferStarted (c : Ctx) (kind : DeferKind) (n : Nat) (p : Nat → Place) (s : State) (l : Nat) : State :=
  startDefer ((s.useEntry (wkCore c.wk) (p l).ent).unwait (.lane c.wk l)) c.path
    (deferOf ((s.useEntry (wkCore c.wk) (p l).ent).unwait (.lane c.wk l)) c l kind n (p l))

/-- A read of a line that is not far is within every limit (R229). -/
theorem State.readsFull_near {s : State} {h : Who} {k : DReq} {line : Nat} (hf : k.reads = true → s.farLine line = false) :
    s.readsFull h k line = false := by
  unfold State.readsFull
  cases hk : k.reads with
  | false => rfl
  | true => rw [hf hk]; rfl

/-- A deferred read that is of n bytes, or of the eight of a far read, of the package's own memory finds room. -/
theorem deferOf_room {s : State} {c : Ctx} {l : Nat} {kind : DeferKind} {n : Nat} {p : Place}
    (hk : (∃ sx, kind = .load n sx) ∨ kind = .far ∧ n = 8) (hn : s.Near p.addr n) :
    match deferAcc (deferOf s c l kind n p) s with
    | .need k line => s.readsFull (deferWho s (deferOf s c l kind n p)) k line = false
    | _ => True := by
  have hq : (deferAcc (deferOf s c l kind n p) s).Quiet s := deferAcc_quiet <| by
    obtain ⟨sx, rfl⟩ | ⟨rfl, rfl⟩ := hk
    · exact hn
    · exact hn
  cases hd : deferAcc (deferOf s c l kind n p) s with
  | need k line => rw [hd] at hq; exact State.readsFull_near hq
  | ok t v => trivial
  | bad e => trivial
  | stall => trivial

/-- LD and FLD of places that the checks allow in the package's own memory start a deferred read in each active lane (R223, R230). -/
theorem seq_deferred {s : State} {i : Instr} {c : Ctx} {x : Nat → Srcs} (h : Issues s i c) (hr : Reads s c x)
    {body : State → Ctx → Nat → Srcs → State × Option LaneOut} {p : Nat → Place} {off : Srcs → Int} {n : Nat} {rights : List Nat}
    {kind : DeferKind} (hbody : ∀ a l y, body a c l y = deferLane a c l y.av (off y) n rights kind)
    (hk : (∃ sx, kind = .load n sx) ∨ kind = .far ∧ n = 8)
    (hl : ∀ l ∈ c.active, Allowed s c.wk l (x l).av (off (x l)) n rights n (p l) ∧ s.Near (p l).addr n
      ∧ anyEmpty s c.wk l (deferRegs (deferOf s c l kind n (p l))) = false) :
    issue s i (seqBody body) = .next (Ended (c.active.foldl (deferStarted c kind n p) s) i c fun _ => {}) := by
  refine seq_folded h hr (fun acted a => SameChecks c.wk s a
      ∧ ∀ m, m < 32 → m ∉ acted → ∀ fk r, (a.frame fk).reg r m = (s.frame fk).reg r m)
    ⟨.refl .., fun _ _ _ _ _ => rfl⟩ (fun acted a l hm _ ⟨hs, hreg⟩ => ⟨?_, fun m hm32 hma fk r => ?_⟩) fun acted a l hm hna ⟨hs, hreg⟩ => ?_
  · exact (hs.trans (hs.allowed (hl l hm).1).sameChecks).trans (startDefer_sameChecks ..)
  · rw [List.mem_append, not_or, List.mem_singleton] at hma
    exact (startDefer_reg (h.lt32 hm) hm32 (Ne.symm hma.2) fk r).trans (hreg m hm32 hma.1 fk r)
  · obtain ⟨hall, hnear, hempty⟩ := hl l hm
    have hb := hs.trans (hs.allowed hall).sameChecks
    rw [hbody]
    refine deferLane_starts ((hs.allowed hall).acts rfl) (Eq.trans ?_ hempty) (deferOf_room hk (hb.near hnear))
    refine congrArg (List.any (deferRegs _)) (funext fun r => ?_)
    rw [State.frameOf, State.frameOf, hb.lane]
    exact congrArg (fun v : FReg => v.st == .empty) (hreg l (h.lt32 hm) hna _ r)

end Sys2Proof.Machine
end

section
/-! ## Acquiring loads and stores that hit in L1 (R218, R219, R223–R227) -/

namespace Sys2Proof.Machine

/-- Fewer bytes of a place touch the spill slot only where more do. -/
theorem inSpill_mono {s : State} {wk : Nat} {p : Place} {m n : Nat} (hm : m ≤ n) (h : inSpill s wk p n = false) : inSpill s wk p m = false := by
  unfold inSpill at h ⊢
  cases hs : (s.teamOf wk).spill with
  | none => rfl
  | some sl =>
    rw [hs] at h
    rw [← Bool.not_eq_true] at h ⊢
    simp only [Bool.and_eq_true, decide_eq_true_eq] at h ⊢
    exact fun hc => h ⟨⟨hc.1.1, by omega⟩, hc.2⟩

/-- A load outside the team's spill slot returns the bytes read. -/
theorem openRead_outside {s : State} {wk : Nat} {p : Place} {b : List Byte} (h : inSpill s wk p b.length = false) : openRead s wk p b = (s, b) := by
  unfold openRead; rw [h]; rfl

/-- A hit is a hit wherever the package, its memory and its deferred results are the same, and the line stands. -/
theorem Hits.moved {s a : State} {wk l : Nat} {k : Key} {addr n : Nat} {e old : L1Line} (h : Hits s wk l k addr n e)
    (hp : a.pkg.unlimited = s.pkg.unlimited) (hm : a.hbm = s.hbm) (hd : a.defers = s.defers)
    (hl : a.l1Find (wkCore wk) k (addr / 128) = some old) : Hits a wk l k addr n old := by
  have hag : a.pkg.agent = s.pkg.agent := agent_congr hp
  refine ⟨h.priv, h.home.trans hag.symm, hag ▸ h.local_, h.span, h.size, hl, ?_, hd ▸ h.own⟩
  rw [State.dir, hm]; exact h.clean

/-- An acquiring read at team scope of a line that stands in L1 gives its bytes (R219, R227). -/
theorem Hits.readAct {s : State} {wk l n : Nat} {p : Place} {e : L1Line} (h : Hits s wk l p.key p.addr n e) (hs : inSpill s wk p n = false) :
    ∃ b, readAct wk l n true 0 s (whoLane s wk l) p = .ok s (some (.ok (lineGet e.data (p.addr % 128) n, b))) := by
  have hget := h.l1Get
  have hopen : openRead s wk p (lineGet e.data (p.addr % 128) n) = (s, lineGet e.data (p.addr % 128) n) :=
    openRead_outside (inSpill_mono (by rw [lineGet, List.length_take]; omega) hs)
  unfold Machine.readAct
  rw [settleOwn_free _ _ h.own]
  refine ⟨if n = 8 then e.data.tags.getLsbD (p.addr % 128 / 8) else false, ?_⟩
  have hacq : acqGet s (whoLane s wk l) p.key p.addr n 0 = (Machine.l1Get s (whoLane s wk l) p.key p.addr n).bind fun s1 b => .ok s1 (some b) := rfl
  simp only [Bool.not_true, Bool.false_eq_true, if_false, hacq, hget, Acc.bind_ok]
  rw [show List.take n (List.drop (p.addr % 128) e.data.bytes) = lineGet e.data (p.addr % 128) n from rfl, hopen]
  rfl

/-- None of a lane's reads on its way: a release at team scope waits for nothing (R227). -/
theorem thenRelease_free {α : Type} {s : State} {wk l : Nat} (h : Who) (k : State → Acc (Tried α)) (hd : ∀ d ∈ s.defers, isRead wk l d = false) :
    thenRelease s h wk l 0 k = k s := by
  have : s.defers.filter (isRead wk l) = [] := List.filter_eq_nil_iff.2 fun d hm => by simp [hd d hm]
  unfold thenRelease
  rw [settleAll, this]
  rfl

theorem bytesLE_length : ∀ n v : Nat, (bytesLE n v).length = n
  | 0, _ => rfl
  | n + 1, v => by rw [bytesLE, List.length_cons, bytesLE_length n]

theorem storeBytes_length (n : Nat) (d : List Val) : (storeBytes n d).length = n := by
  unfold storeBytes
  split
  · next h => rw [List.length_append, bytesLE_length, bytesLE_length, h]
  · exact bytesLE_length ..

/-- A store, releasing at team scope or not releasing, of an unpublished line that stands in L1 writes into it (R218, R224). -/
theorem Hits.storeAct {s : State} {wk l scope : Nat} {rel : Bool} {bs : List Byte} {p : Place} {e : L1Line}
    (h : Hits s wk l p.key p.addr bs.length e) (hs : inSpill s wk p bs.length = false) (hrel : rel = true → scope = 0) :
    storeAct wk l scope rel bs false s (whoLane s wk l) p
      = .ok (s.l1Set (wkCore wk) (lineStored e (p.addr % 128) bs false)) (some (.ok ())) := by
  have hw := h.l1Write (tag := false)
  have hpub : p.pub = false := h.priv
  have hmark : ∀ t : State, t.markTag (p.addr / 128) false = t := fun t => rfl
  have hspoil : ∀ z, spoil (s.l1Set (wkCore wk) z) wk p bs.length = s.l1Set (wkCore wk) z := fun z => by
    unfold spoil; rw [show inSpill (s.l1Set (wkCore wk) z) wk p bs.length = false from hs]; rfl
  have hgo : ∀ k : State → Acc (Tried Unit),
      (if rel then thenRelease s (whoLane s wk l) wk l scope k else thenOwn s wk l p.addr bs.length k) = k s := fun k => by
    cases rel with
    | true => rw [hrel rfl]; exact thenRelease_free (whoLane s wk l) k h.own
    | false => rw [if_neg Bool.false_ne_true, thenOwn, settleOwn_free _ _ h.own]
  unfold Machine.storeAct
  dsimp only
  rw [hgo, hw]
  simp only [Acc.bind_ok, hmark, hpub, Bool.and_false, Bool.false_eq_true, if_false, hspoil]

/-- A line of an L1 that is set leaves no line out that stood there. -/
theorem State.l1Find_l1Set_isSome {s : State} {c : Nat} {k : Key} {u : Nat} (z : L1Line) (h : (s.l1Find c k u).isSome = true) :
    ((s.l1Set c z).l1Find c k u).isSome = true := by
  rw [State.l1Find, List.find?_isSome] at h ⊢
  obtain ⟨x, hx, hk⟩ := h
  rw [State.l1Set, State.core_modCore_self]
  dsimp only
  split
  · by_cases hz : isL1 ⟨z.realm, z.obj, z.pub, z.base⟩ z.line x = true
    · refine ⟨z, List.mem_map.2 ⟨x, hx, by rw [if_pos hz]⟩, ?_⟩
      simp only [isL1, Bool.and_eq_true, beq_iff_eq] at hz hk ⊢
      omega
    · exact ⟨x, List.mem_map.2 ⟨x, hx, by rw [if_neg hz]⟩, hk⟩
  · exact ⟨x, List.mem_append_left _ hx, hk⟩

/-! ### LD with acquire, and ST -/

/-- What the accesses of the lanes that have acted leave: what the checks of R25 rest on, memory, the deferred results and every line of
the L1. -/
structure Served (wk : Nat) (s a : State) : Prop where
  checks : SameChecks wk s a
  hbm    : a.hbm = s.hbm
  defers : a.defers = s.defers
  lines  : ∀ k u, (s.l1Find (wkCore wk) k u).isSome = true → (a.l1Find (wkCore wk) k u).isSome = true

theorem Served.refl (wk : Nat) (s : State) : Served wk s s := ⟨.refl .., rfl, rfl, fun _ _ h => h⟩

theorem Served.trans {wk : Nat} {s a b : State} (h : Served wk s a) (g : Served wk a b) : Served wk s b :=
  ⟨h.checks.trans g.checks, g.hbm.trans h.hbm, g.defers.trans h.defers, fun k u hk => g.lines k u (h.lines k u hk)⟩

/-- The L1 after the use of an entry. -/
theorem State.l1Find_useEntry (s : State) (c : Nat) (e : OcEntry) (k : Key) (u : Nat) : (s.useEntry c e).l1Find c k u = s.l1Find c k u := by
  have : ((s.useEntry c e).core c).l1 = (s.core c).l1 := by rw [show (s.useEntry c e).core c = _ from State.core_modCore_self ..]
  rw [State.l1Find, State.l1Find, this]

/-- The use of the entry of an allowed access. -/
theorem Allowed.used {s : State} {wk l : Nat} {ref : Val} {off : Int} {size : Nat} {rights : List Nat} {align : Nat} {p : Place}
    (h : Allowed s wk l ref off size rights align p) : Served wk s (s.useEntry (wkCore wk) p.ent) :=
  ⟨.useEntry h.entry, rfl, rfl, fun k u hk => (State.l1Find_useEntry s _ p.ent k u).symm ▸ hk⟩

theorem Served.l1Set (wk : Nat) (s : State) (z : L1Line) : Served wk s (s.l1Set (wkCore wk) z) :=
  ⟨.of_still (State.still_l1Set ..), rfl, rfl, fun _ _ => State.l1Find_l1Set_isSome z⟩

theorem Served.unwait (wk : Nat) (s : State) (w : Waiter) : Served wk s (s.unwait w) := ⟨.unwait w, rfl, rfl, fun _ _ h => h⟩

/-- A hit of a line under whatever data it has by then. -/
theorem Served.hits {s a : State} {wk l : Nat} {k : Key} {addr n : Nat} {e : L1Line} (h : Served wk s a) (hh : Hits s wk l k addr n e) :
    Hits a wk l k addr n ((a.l1Find (wkCore wk) k (addr / 128)).getD e) := by
  have hl := h.lines k (addr / 128) (by rw [hh.line]; rfl)
  exact hh.moved h.checks.pkg h.hbm h.defers (by obtain ⟨z, hz⟩ := Option.isSome_iff_exists.1 hl; rw [hz]; rfl)

/-- LD with acquire at team scope, of lines that stand in L1 (R219, R223, R227). -/
theorem seq_acquire {s : State} {i : Instr} {c : Ctx} {x : Nat → Srcs} (h : Issues s i c) (hr : Reads s c x)
    {body : State → Ctx → Nat → Srcs → State × Option LaneOut} {p : Nat → Place} {e : Nat → L1Line} {off : Srcs → Int} {n : Nat} {sx : Bool}
    (hbody : ∀ a l y, body a c l y = acquireLane a c l y.av (off y) n 0 sx)
    (hl : ∀ l ∈ c.active, Allowed s c.wk l (x l).av (off (x l)) n [rR] n (p l) ∧ Hits s c.wk l (p l).key (p l).addr n (e l)
      ∧ inSpill s c.wk (p l) n = false ∧ anyEmpty s c.wk l (regRange (c.g.fs.d.toNat - 0x40) (max 1 (n / 4))) = false) :
    issue s i (seqBody body) = .next (Ended (c.active.foldl (fun st l => (st.useEntry (wkCore c.wk) (p l).ent).unwait (.lane c.wk l)) s) i c
      fun l => let b := lineGet (e l).data ((p l).addr % 128) n
        { val := some (Val.int (loadVal n sx b)), val2 := some (Val.int (highVal b)) }) := by
  have huse : ∀ (a : State) k u l, (a.useEntry (wkCore c.wk) (p l).ent).l1Find (wkCore c.wk) k u = a.l1Find (wkCore c.wk) k u :=
    fun a k u l => State.l1Find_useEntry ..
  refine seq_folded h hr (fun _ a => Served c.wk s a ∧ a.frames = s.frames ∧ ∀ k u, a.l1Find (wkCore c.wk) k u = s.l1Find (wkCore c.wk) k u)
    ⟨.refl .., rfl, fun _ _ => rfl⟩ (fun acted a l hm _ ⟨hs, hfr, hf⟩ => ?_) fun acted a l hm _ ⟨hs, hfr, hf⟩ => ?_
  · exact ⟨(hs.trans (hs.checks.allowed (hl l hm).1).used).trans (.unwait ..), hfr, fun k u => (huse a k u l).trans (hf k u)⟩
  · obtain ⟨hall, hhit, hspill, hempty⟩ := hl l hm
    have hused := hs.trans (hs.checks.allowed hall).used
    have hhit' : Hits (a.useEntry (wkCore c.wk) (p l).ent) c.wk l (p l).key (p l).addr n (e l) :=
      hhit.moved hused.checks.pkg hused.hbm hused.defers ((huse a _ _ l).trans ((hf _ _).trans hhit.line))
    have hempty' : anyEmpty (a.useEntry (wkCore c.wk) (p l).ent) c.wk l (regRange (c.g.fs.d.toNat - 0x40) (max 1 (n / 4))) = false := by
      rw [anyEmpty, State.frameOf, hused.checks.lane, State.frame, show (a.useEntry (wkCore c.wk) (p l).ent).frames = s.frames from hfr]
      exact hempty
    obtain ⟨b, hread⟩ := hhit'.readAct ((hused.checks.inSpill (p l) n).trans hspill)
    have hacts := (hs.checks.allowed hall).acts (t := a.useEntry (wkCore c.wk) (p l).ent) (v := (lineGet (e l).data ((p l).addr % 128) n, b))
      (act := fun st w q =>
        if anyEmpty st c.wk l (regRange (c.g.fs.d.toNat - 0x40) (max 1 (n / 4))) then .ok st none else Machine.readAct c.wk l n true 0 st w q)
      (by rw [hempty', if_neg Bool.false_ne_true]; exact hread)
    have hout := laneOut_acts hacts fun s1 v =>
      (s1, .ok { val := some (Val.int (loadVal n sx v.1)), val2 := some (Val.int (highVal v.1)) })
    rw [hbody, acquireLane]
    exact hout

/-- ST of lines that stand in L1, at team scope or without release (R218, R224, R225). -/
theorem seq_store {s : State} {i : Instr} {c : Ctx} {x : Nat → Srcs} (h : Issues s i c) (hr : Reads s c x)
    {body : State → Ctx → Nat → Srcs → State × Option LaneOut} {p : Nat → Place} {e : Nat → L1Line} {off : Srcs → Int} {n scope : Nat}
    {rel : Bool} (hrel : rel = true → scope = 0)
    (hbody : ∀ a l y, body a c l y = laneOut (laneTry a c.wk l y.av (off y) n [rW] n 9 (storeAct c.wk l scope rel (storeBytes n y.d) false))
      fun s1 _ => (s1, done))
    (hl : ∀ l ∈ c.active, Allowed s c.wk l (x l).av (off (x l)) n [rW] n (p l) ∧ Hits s c.wk l (p l).key (p l).addr n (e l)
      ∧ inSpill s c.wk (p l) n = false) :
    issue s i (seqBody body) = .next (Ended (c.active.foldl (fun st l =>
        let old := (st.l1Find (wkCore c.wk) (p l).key ((p l).addr / 128)).getD (e l)
        ((st.useEntry (wkCore c.wk) (p l).ent).l1Set (wkCore c.wk)
          (lineStored old ((p l).addr % 128) (storeBytes n (x l).d) false)).unwait (.lane c.wk l)) s) i c fun _ => {}) := by
  refine seq_folded h hr (fun _ a => Served c.wk s a) (.refl ..) (fun acted a l hm _ hs => ?_) fun acted a l hm _ hs => ?_
  · exact ((hs.trans (hs.checks.allowed (hl l hm).1).used).trans (.l1Set ..)).trans (.unwait ..)
  · obtain ⟨hall, hhit, hspill⟩ := hl l hm
    have hused := hs.trans (hs.checks.allowed hall).used
    have hhit' := hused.hits hhit
    rw [State.l1Find_useEntry] at hhit'
    have hlen : (storeBytes n (x l).d).length = n := storeBytes_length ..
    have hact := Hits.storeAct (bs := storeBytes n (x l).d) (hlen.symm ▸ hhit') (by rw [hlen, hused.checks.inSpill]; exact hspill) hrel
    rw [hbody]
    exact laneOut_acts ((hs.checks.allowed hall).acts hact) _

/-! ### PREF -/

/-- What a prefetch leaves: what the checks of R25 rest on, and the frames. -/
def Hinted (wk : Nat) (s a : State) : Prop := SameChecks wk s a ∧ a.frames = s.frames

theorem Hinted.of_still {wk : Nat} {s a : State} (h : a.still = s.still) : Hinted wk s a := ⟨.of_still h, (State.still_iff.1 h).2.1⟩

theorem Hinted.trans {wk : Nat} {s a b : State} (h : Hinted wk s a) (g : Hinted wk a b) : Hinted wk s b :=
  ⟨h.1.trans g.1, g.2.trans h.2⟩

/-- A prefetch of a line that is not far sends its request, or needs none. -/
theorem prefetchAsk_near {s : State} {h : Who} {k : DReq} {line : Nat} (hf : k.reads = true → s.farLine line = false) :
    ∃ t, prefetchAsk s h k line = some t ∧ t.still = s.still := by
  unfold prefetchAsk
  split
  · exact ⟨s, rfl, rfl⟩
  · rw [State.readsFull_near hf, if_neg Bool.false_ne_true]
    exact ⟨_, rfl, State.still_post ..⟩

/-- The line that a prefetch of a place takes (R232). -/
def prefetchTake (f : MemF) (s : State) (h : Who) (p : Place) : Acc Unit :=
  let line := p.addr / 128
  if isHost (p.addr / 2 ^ 40) || (f.sz == 2 && agentOf line == s.pkg.agent) then .ok s ()
  else if f.sz = 0 then (l1Line s h p.key line).bind fun s2 _ => .ok s2 ()
  else if p.pub then (pocLine s line).bind fun s2 _ => .ok s2 ()
  else .ok s ()

theorem prefetchTake_quiet {f : MemF} {s : State} {h : Who} {p : Place} (hn : s.nearLine (p.addr / 128)) : (prefetchTake f s h p).Quiet s :=
  .ite rfl (.ite ((l1Line_quiet hn ..).bind fun _ _ _ => rfl) (.ite ((pocLine_quiet hn).bind fun _ _ _ => rfl) rfl))

/-- A prefetch of a place that the checks allow takes its line. -/
theorem prefetchLane_takes {s : State} {f : MemF} {c : Ctx} {l : Nat} {x : Srcs} {p : Place}
    (h : Allowed s c.wk l x.av (memOff f (offOf x.av.bits) x.bv.bits 64) 64 [rR] 0 p) : prefetchLane f s c l x =
      match prefetchTake f (s.useEntry (wkCore c.wk) p.ent) (whoLane s c.wk l) p with
      | .ok s1 _ => some s1
      | .need k line => prefetchAsk s (whoLane s c.wk l) k line
      | .bad _ | .stall => some s := by
  have hcheck : checkRef s (whoLane s c.wk l).core (s.teamOf c.wk).realm (s.teamOf c.wk).party (objOf x.av.bits) x.av.tag
      (memOff f (offOf x.av.bits) x.bv.bits 64) 64 [rR] 0 9 = _ := checkRef_allowed h
  unfold prefetchLane
  dsimp only
  rw [hcheck]
  rfl

/-- A prefetch of a place that the checks allow in the package's own memory is made (R232). -/
theorem prefetchLane_allowed {s : State} {f : MemF} {c : Ctx} {l : Nat} {x : Srcs} {p : Place}
    (h : Allowed s c.wk l x.av (memOff f (offOf x.av.bits) x.bv.bits 64) 64 [rR] 0 p) (hn : s.Near p.addr 0) :
    ∃ t, prefetchLane f s c l x = some t ∧ Hinted c.wk s t := by
  have hused : Hinted c.wk s (s.useEntry (wkCore c.wk) p.ent) := ⟨.useEntry h.entry, rfl⟩
  have hq := prefetchTake_quiet (f := f) (h := whoLane s c.wk l) (hused.1.near hn).line
  rw [prefetchLane_takes h]
  cases hr : prefetchTake f (s.useEntry (wkCore c.wk) p.ent) (whoLane s c.wk l) p with
  | ok t u => rw [hr] at hq; exact ⟨t, rfl, hused.trans (.of_still hq)⟩
  | need k line =>
    rw [hr] at hq
    obtain ⟨t, ht, hs⟩ := prefetchAsk_near (s := s) (h := whoLane s c.wk l) hq
    exact ⟨t, ht, .of_still hs⟩
  | bad e => exact ⟨s, rfl, .of_still rfl⟩
  | stall => exact ⟨s, rfl, .of_still rfl⟩

/-- A prefetch under a reference that names no object is dropped (R232). -/
theorem prefetchLane_null {s : State} {f : MemF} {c : Ctx} {l : Nat} {x : Srcs} (h : objOf x.av.bits = 0) : prefetchLane f s c l x = some s := by
  unfold prefetchLane checkRef
  simp only [h, if_true, Acc.bind_ok]

/-- The lanes of PREF whose prefetches are made one after another (R232). -/
theorem execPref_ends {f : MemF} {s : State} {c : Ctx} {x : Nat → Srcs} (h : Issues s (.pref f) c) (hr : Reads s c x) (P : State → Prop)
    (h0 : P s) (hP : ∀ a, P a → ∀ l ∈ c.active, ∃ t, prefetchLane f a c l (x l) = some t ∧ P t) :
    ∃ t, exec (.pref f) s = .next (Ended t (.pref f) c fun _ => {}) ∧ P t := by
  have hfold : ∀ (ls : List Nat) (a : State) (outs : List (Nat × LaneOut)), (∀ l ∈ ls, l ∈ c.active) → P a →
      ∃ t, (ls.map fun l => (l, (Except.ok (x l) : Except LaneFault Srcs))).foldl (fun acc e =>
        match e.2 with
        | .error _ => (acc.1, acc.2 ++ [(e.1, done)])
        | .ok x =>
          match prefetchLane f acc.1 c e.1 x with
          | some s1 => (s1, acc.2 ++ [(e.1, done)])
          | none => acc) (a, outs) = (t, outs ++ ls.map fun l => (l, done)) ∧ P t := by
    intro ls
    induction ls with
    | nil => exact fun a outs _ ha => ⟨a, by simp, ha⟩
    | cons l ls ih =>
      intro a outs hmem ha
      obtain ⟨b, hb, hPb⟩ := hP a ha l (hmem l List.mem_cons_self)
      obtain ⟨t, ht, hPt⟩ := ih b (outs ++ [(l, done)]) (fun m hm => hmem m (List.mem_cons_of_mem _ hm)) hPb
      exact ⟨t, by rw [List.map_cons, List.foldl_cons]; simp only [hb, ht, List.map_cons, List.append_assoc, List.singleton_append], hPt⟩
  obtain ⟨t, ht, hPt⟩ := hfold c.active s [] (fun _ h => h) h0
  refine ⟨t, ?_, hPt⟩
  change execPref f s = _
  refine issue_ended h ?_
  rw [hr.lanes h]
  exact ht

end Sys2Proof.Machine
end

section
/-! ## Frame engines: grants, the doffer, spill and refill records, releases (R199, R201–R204, R208) -/

namespace Sys2Proof.Machine

/-! ### Parts, frames and traps -/

@[simp] theorem State.part_modPart_self (s : State) (pk : Nat) (f : Part → Part) : (s.modPart pk f).part pk = f (s.part pk) := by
  simp [State.part, State.modPart, State.setPart]

@[simp] theorem State.team_modTeam_self (s : State) (tk : Nat) (f : Team → Team) : (s.modTeam tk f).team tk = f (s.team tk) := by
  rw [State.team_modTeam, if_pos rfl]

@[simp] theorem State.part_of_modTeam (s : State) (tk : Nat) (f : Team → Team) (p : Nat) : (s.modTeam tk f).part p = s.part p := rfl
@[simp] theorem State.part_of_modFrame (s : State) (fk : Nat) (f : Frame → Frame) (p : Nat) : (s.modFrame fk f).part p = s.part p := rfl
@[simp] theorem State.part_of_wake (s : State) (p : Nat) : s.wake.part p = s.part p := rfl

/-- Lanes that change one after another change no frame and no part. -/
theorem foldl_modLane_frames (wk : Nat) (f : Nat → Lane → Lane) (ls : List Nat) (s : State) :
    (ls.foldl (fun st l => st.modLane wk l (f l)) s).frames = s.frames :=
  foldl_unobserved _ State.frames s fun _ _ _ => rfl

theorem foldl_modLane_parts (wk : Nat) (f : Nat → Lane → Lane) (ls : List Nat) (s : State) :
    (ls.foldl (fun st l => st.modLane wk l (f l)) s).parts = s.parts :=
  foldl_unobserved _ State.parts s fun _ _ _ => rfl

/-- Lanes that are set one after another to what does not depend on others: each lane of the list has become what it is set to. -/
theorem lane_foldl_modLane (wk : Nat) (f : Nat → Lane → Lane) {P : Lane → Prop} : ∀ (ls : List Nat) (s : State) (l : Nat), l < 32 → (∀ m ∈ ls, m < 32) →
    (l ∈ ls ∨ P (s.lane wk l)) → (∀ ln, P (f l ln)) → P ((ls.foldl (fun st m => st.modLane wk m (f m)) s).lane wk l)
  | [], s, l, _, _, h, _ => h.elim (fun h => absurd h (by simp)) id
  | m :: ls, s, l, hl, hls, h, hf => by
    have hm := hls m List.mem_cons_self
    refine lane_foldl_modLane wk f ls _ l hl (fun k hk => hls k (List.mem_cons_of_mem _ hk)) ?_ hf
    rw [State.lane_modLane]
    by_cases he : m = l
    · subst he; right; rw [if_pos rfl]; exact hf _
    · rw [if_neg fun h => he ((lkOf_inj hm hl).1 h).2]
      exact h.imp (fun h => (List.mem_cons.1 h).resolve_left (Ne.symm he)) id

theorem frames_parkLanes (s : State) (wk : Nat) (ls : List Nat) (hdr : Pc) (idx : Nat) (w : Bool) :
    (parkLanes s wk ls hdr idx w).frames = s.frames := foldl_modLane_frames ..

theorem frames_takeTrap (s : State) (wk : Nat) (ls : List Nat) (c : Cause) (sub : Byte) (t : TrapAt) (async pk : Bool) (clane : Nat)
    (usrc udat : BitVec 32) (ents : Tab TrapLane) (park : Bool) :
    (takeTrap s wk ls c sub t async pk clane usrc udat ents park).frames = s.frames := by
  unfold takeTrap
  dsimp only
  split
  · exact (foldl_modLane_frames ..).trans (foldl_modLane_frames ..)
  · exact (foldl_modLane_frames ..).trans (foldl_modLane_frames ..)

/-- Faults of lanes change no frame (R146, R369). -/
theorem frames_faultLanes (s : State) (wk : Nat) (t : TrapAt) (fs : List (Nat × LaneFault)) (pk : Bool) :
    (faultLanes s wk t fs pk).frames = s.frames := by
  unfold faultLanes
  dsimp only
  have h1 : ∀ (hs : List (Nat × LaneFault)) (a : State), a.frames = s.frames → (match hs with
      | [] => a
      | e :: _ => nestTrap a wk e.2.cause e.2.sub t).frames = s.frames := fun hs a ha => by
    cases hs with
    | nil => exact ha
    | cons e r => exact ha
  have h2 := h1 (fs.filter fun e => (s.lane wk e.1).h) _ (frames_parkLanes s wk (fs.map fun e => e.1) t.hdr t.idx false)
  split
  · exact h2
  · refine Eq.trans ?_ h2
    rw [apply_ite State.frames]
    exact ite_eq_iff'.2 ⟨fun _ => frames_parkLanes .., fun _ => (frames_takeTrap ..).trans (frames_parkLanes ..)⟩

theorem frames_frameFault (s : State) (pk : Nat) (r : FReq) (sub : Byte) (opv : Word) : (frameFault s pk r sub opv).frames = s.frames := by
  unfold frameFault
  dsimp only
  split
  · exact frames_faultLanes ..
  · split
    · exact (foldl_unobserved _ State.frames _ fun _ _ _ => by split <;> rfl).trans (frames_faultLanes ..)
    · exact (foldl_unobserved _ State.frames _ fun _ _ _ => by split <;> rfl).trans (frames_faultLanes ..)

/-- The doffer's choice of its next step changes no frame (R204, R207). -/
theorem frames_dofferStep (s : State) (pk : Nat) : (dofferStep s pk).frames = s.frames := by
  unfold dofferStep
  dsimp only
  split
  · rfl
  split
  · rfl
  split
  · rfl
  split
  · exact frames_frameFault ..
  split
  · exact frames_frameFault ..
  · rfl

/-! ### Grants and releases -/

theorem enterFrame_parts (s : State) (r : FReq) (d : Nat) (rpc : Pc) (k : Nat) (ts : Tab Pc) : (enterFrame s r d rpc k ts).parts = s.parts :=
  foldl_modLane_parts ..

/-- The frame that lanes enter bears the next name, with the demand that they ask for (R202). -/
theorem enterFrame_demand (s : State) (r : FReq) (d : Nat) (rpc : Pc) (k : Nat) (ts : Tab Pc) :
    ((enterFrame s r d rpc k ts).frame s.uid).demand = d := by
  unfold enterFrame State.frame
  dsimp only
  rw [foldl_modLane_frames, tget_tset_self]

/-- Every lane of the request runs in the frame. -/
theorem enterFrame_lane (s : State) (r : FReq) (d : Nat) (rpc : Pc) (k : Nat) (ts : Tab Pc) {l : Nat} (hl : l ∈ lanesOf r.lanes) :
    ((enterFrame s r d rpc k ts).lane r.wk l).frame = s.uid ∧ ((enterFrame s r d rpc k ts).lane r.wk l).st = .run :=
  lane_foldl_modLane r.wk _ (P := fun ln => ln.frame = s.uid ∧ ln.st = .run) _ _ l (mem_lanesOf.1 hl).1 (fun _ hm => (mem_lanesOf.1 hm).1) (.inl hl)
    fun _ => ⟨rfl, rfl⟩

/-- The release of a frame deletes it alone (R199). -/
theorem tryRelease_frames {s : State} {fk : Nat} (h1 : (tfind s.frames fk).isSome = true) (h2 : (s.frame fk).rem = 0)
    (h3 : ∀ d ∈ s.defers, d.frame ≠ fk) : (tryRelease s fk).frames = tdel s.frames fk := by
  have hdrop : ∀ f, (dropDoffer (dropRecord s f) fk f).frames = s.frames := fun f => by
    have hr : (dropRecord s f).frames = s.frames := by unfold dropRecord; split <;> rfl
    unfold dropDoffer
    dsimp only
    split
    · split
      · exact hr
      · exact hr
    · split
      · exact hr
      · exact hr
    · exact hr
  have hall : s.defers.all (fun d => d.frame != fk) = true := List.all_eq_true.2 fun d hd => by simpa using h3 d hd
  unfold tryRelease
  dsimp only
  rw [if_pos (by simp [h1, h2, hall])]
  exact congrArg (tdel · fk) (hdrop _)

/-! ### Memory of a spill slot -/

/-- An engine's object whose entry, no view and not chunked, stands in the object cache; the memory is the package's own, without a secure
region, and no line of it has a remote holder. -/
structure SlotMem (s : State) (core realm obj : Nat) (e : OcEntry) : Prop where
  enabled : (s.core core).ocbase.getLsbD 0 = true
  entry   : (s.core core).oc.find? (fun y => y.realm == realm && y.obj == obj) = some e
  plain   : e.view = false
  whole   : e.hm = false
  still   : s.moving core e = false
  agent   : s.pkg.agent < 2000
  open_   : s.pkg.secLim ≤ s.pkg.secBase
  free    : ∀ l, s.dir l = 0

/-- Bytes of an object that lie in the package's own memory. -/
structure OwnBytes (s : State) (e : OcEntry) (off n : Nat) : Prop where
  len   : off + n ≤ e.len
  home  : (bits (e.dw 2) 50 0 + off) / 2 ^ 40 = s.pkg.agent
  fits  : (bits (e.dw 2) 50 0 + off) % 2 ^ 40 + n ≤ usable s

/-- What the accesses of an engine to its object leave as they were. -/
structure Engine (core realm obj : Nat) (s t : State) : Prop where
  pkg     : t.pkg = s.pkg
  ocbase  : (t.core core).ocbase = (s.core core).ocbase
  migOff  : (t.core core).migOff = (s.core core).migOff
  entry   : (t.core core).oc.find? (fun y => y.realm == realm && y.obj == obj) = (s.core core).oc.find? (fun y => y.realm == realm && y.obj == obj)
  dir     : ∀ l, t.dir l = s.dir l

theorem Engine.refl (core realm obj : Nat) (s : State) : Engine core realm obj s s := ⟨rfl, rfl, rfl, rfl, fun _ => rfl⟩

theorem SlotMem.kept {s t : State} {core realm obj : Nat} {e : OcEntry} (h : SlotMem s core realm obj e) (g : Engine core realm obj s t) :
    SlotMem t core realm obj e where
  enabled := g.ocbase ▸ h.enabled
  entry := g.entry.trans h.entry
  plain := h.plain
  whole := h.whole
  still := by rw [State.moving, g.migOff]; exact h.still
  agent := g.pkg ▸ h.agent
  open_ := g.pkg ▸ h.open_
  free := fun l => (g.dir l).trans (h.free l)

theorem OwnBytes.kept {s t : State} {e : OcEntry} {off n : Nat} (h : OwnBytes s e off n) (hp : t.pkg = s.pkg) : OwnBytes t e off n :=
  ⟨h.len, hp ▸ h.home, by rw [usable, hp]; exact h.fits⟩

theorem usable_le (s : State) : usable s ≤ 2 ^ 40 := by
  have : usable s ≤ 480 * 2 ^ 30 := Nat.mul_le_mul_right _ (Nat.sub_le ..)
  omega

/-- The next bytes of a run. -/
theorem OwnBytes.tail {s : State} {e : OcEntry} {off k n : Nat} (h : OwnBytes s e off (k + n)) (hn : 0 < n) : OwnBytes s e (off + k) n := by
  obtain ⟨h1, h2, h3⟩ := h
  have hu := usable_le s
  exact ⟨by omega, by omega, by omega⟩

theorem Engine.useEntry {s : State} {core realm obj : Nat} {e : OcEntry}
    (h : (s.core core).oc.find? (fun y => y.realm == realm && y.obj == obj) = some e) : Engine core realm obj s (s.useEntry core e) := by
  have hcore : (s.useEntry core e).core core = _ := State.core_modCore_self ..
  have hname := List.find?_some h
  simp only [Bool.and_eq_true, beq_iff_eq] at hname
  refine ⟨rfl, by rw [hcore], by rw [hcore], ?_, fun _ => rfl⟩
  rw [h, ← hname.1, ← hname.2]
  exact State.useEntry_find ..

/-- The address of a byte of the engine's object. -/
theorem SlotMem.engineAddr {s : State} {core realm obj : Nat} {e : OcEntry} (h : SlotMem s core realm obj e) {off n : Nat}
    (ho : OwnBytes s e off n) (hn : 0 < n) :
    engineAddr s core realm obj off = .ok (s.useEntry core e) (.ok (bits (e.dw 2) 50 0 + off)) := by
  obtain ⟨h1, h2, h3⟩ := ho
  have hlt := h.agent
  have hmod : (bits (e.dw 2) 50 0 + off) % 2 ^ 51 = bits (e.dw 2) 50 0 + off := Nat.mod_eq_of_lt (by omega)
  have hmove : (s.useEntry core e).moving core e = false := by rw [State.moving, State.useEntry_migOff]; exact h.still
  have hok : addrOk (s.useEntry core e) (bits (e.dw 2) 50 0 + off) = true := by
    have hhost : isHost ((bits (e.dw 2) 50 0 + off) / 2 ^ 40) = false := by simp only [isHost, h2, decide_eq_false_iff_not]; omega
    simp only [addrOk, hhost, Bool.false_eq_true, if_false]
    rw [if_pos (show _ = (s.useEntry core e).pkg.agent from h2)]
    exact decide_eq_true (show _ < usable s by omega)
  have hsec : secureBad (s.useEntry core e) e (bits (e.dw 2) 50 0 + off) = false := by
    have ho := h.open_
    have : secureAddr (s.useEntry core e) (bits (e.dw 2) 50 0 + off) = false := by
      rw [← Bool.not_eq_true]
      simp only [secureAddr, Bool.and_eq_true, decide_eq_true_eq]
      have hb : (s.useEntry core e).pkg = s.pkg := rfl
      rw [hb]
      have := Nat.mul_le_mul_right (2 ^ 30) ho
      omega
    rw [secureBad, this, Bool.and_false]
  have hres : resolveAt (s.useEntry core e) core e off = .ok (s.useEntry core e) (some (bits (e.dw 2) 50 0 + off)) := by
    simp only [resolveAt, h.whole, Bool.not_false, if_true, hmod, hok]
  simp only [Machine.engineAddr, findPair_cached h.enabled h.entry h.plain, Acc.bind_ok, h.plain, Bool.false_eq_true, if_false, Nat.add_zero,
    hmove, hres, hsec]
  rw [if_neg (by omega)]

/-- A write to lines of the package's own memory that no remote holder has. -/
structure WritesHere (s t : State) : Prop where
  pkg   : t.pkg = s.pkg
  cores : t.cores = s.cores
  dir   : ∀ l, t.dir l = s.dir l

theorem WritesHere.refl (s : State) : WritesHere s s := ⟨rfl, rfl, fun _ => rfl⟩

theorem WritesHere.trans {s a b : State} (h : WritesHere s a) (g : WritesHere a b) : WritesHere s b :=
  ⟨g.pkg.trans h.pkg, g.cores.trans h.cores, fun l => (g.dir l).trans (h.dir l)⟩

theorem WritesHere.engine {s t : State} (h : WritesHere s t) (core realm obj : Nat) : Engine core realm obj s t := by
  have hc : t.core core = s.core core := by rw [State.core, State.core, h.cores]
  exact ⟨h.pkg, by rw [hc], by rw [hc], by rw [hc], h.dir⟩

theorem Mem.dirOf_settleLtp (m : Mem) (l k : Nat) : (m.settleLtp l).dirOf k = m.dirOf k := by
  unfold Mem.settleLtp; split <;> rfl

theorem Mem.dirOf_setLine (m : Mem) (l : Nat) (d : LineData) (k : Nat) : (m.setLine l d).dirOf k = m.dirOf k := by
  unfold Mem.setLine
  dsimp only
  split
  · exact Mem.dirOf_settleLtp ..
  · rfl

/-- A merge into a line of the package's own memory. -/
theorem mergeAt_here {s : State} {line : Nat} (h : agentOf line = s.pkg.agent) (d : LineData) (m : BitVec 128) (t : BitVec 16) (k : BitVec 2) :
    WritesHere s (mergeAt s line d m t k) := by
  unfold mergeAt
  rw [if_pos h]
  refine ⟨rfl, rfl, fun l => ?_⟩
  unfold State.putLine State.dir
  dsimp only
  split
  · exact Mem.dirOf_setLine ..
  · exact Mem.dirOf_setLine ..

/-- Permission to write a line of the package's own memory that no remote holder has is at hand (R225, R336). -/
theorem takeLine_here {s : State} (h : Who) {line : Nat} (full : Bool) (ha : agentOf line = s.pkg.agent) (hd : s.dir (localOf line) = 0) :
    ∃ t, takeLine s h line full = .ok t () ∧ WritesHere s t := by
  unfold takeLine takeHome
  dsimp only
  rw [if_pos ha, hd]
  refine ⟨_, rfl, ?_⟩
  unfold State.joinAcks
  split
  · exact .refl s
  · exact ⟨rfl, rfl, fun _ => rfl⟩

/-- Pieces of bytes that lie in free lines of the package's own memory are written there. -/
theorem pocPut_here (h : Who) {a : Nat} (tag : Bool) (hh : isHost (a / 2 ^ 40) = false) : ∀ (ps : List (Nat × Nat × Nat)) (s : State) (bs : List Byte),
    (∀ p ∈ ps, agentOf p.1 = s.pkg.agent) → (∀ l, s.dir l = 0) → ∃ t, pocPut s h a tag bs ps = .ok t () ∧ WritesHere s t
  | [], s, bs, _, _ => ⟨s, rfl, .refl s⟩
  | (u, o, n) :: ps, s, bs, hp, hd => by
    have hu : agentOf u = s.pkg.agent := hp _ List.mem_cons_self
    obtain ⟨t, ht, hw⟩ := takeLine_here (s := s) h (n == 128) hu (hd _)
    have hm := mergeAt_here (s := t) (hw.pkg ▸ hu) (linePut lineCleared o (bs.take n) tag) (maskAt 128 o n) (wordMask o n) 0
    have hw2 := hw.trans hm
    obtain ⟨z, hz, hw3⟩ := pocPut_here h tag hh ps _ (bs.drop n) (fun p hq => by rw [hw2.pkg]; exact hp p (List.mem_cons_of_mem _ hq))
      fun l => (hw2.dir l).trans (hd l)
    refine ⟨z, ?_, hw2.trans hw3⟩
    unfold pocPut pocPutBy
    simp only [hh, Bool.false_eq_true, if_false, ht, Acc.bind_ok]
    exact hz

/-- Each piece of an access names the unit of one of its bytes. -/
theorem mem_pieces {u : Nat} : ∀ {f a n : Nat} {p : Nat × Nat × Nat}, p ∈ pieces u f a n → ∃ x, a ≤ x ∧ x < a + n ∧ p.1 = x / u
  | 0, _, _, _, h => absurd h (by simp [pieces])
  | f + 1, a, n, p, h => by
    rw [pieces] at h
    split at h
    · exact absurd h (by simp)
    · next hn =>
      rcases List.mem_cons.1 h with rfl | h
      · exact ⟨a, le_refl _, by omega, rfl⟩
      · obtain ⟨x, h1, h2, h3⟩ := mem_pieces h
        exact ⟨x, by omega, by omega, h3⟩

/-- A word in free lines of the package's own memory is written there. -/
theorem pocWriteWord_here {s : State} (h : Who) {a : Nat} (v : Val) (hh : a / 2 ^ 40 = s.pkg.agent) (hlt : s.pkg.agent < 2000)
    (hs : a % 2 ^ 40 + 8 ≤ 2 ^ 40) (hd : ∀ l, s.dir l = 0) : ∃ t, pocWriteWord s h a v = .ok t () ∧ WritesHere s t := by
  have hhost : isHost (a / 2 ^ 40) = false := by simp only [isHost, hh, decide_eq_false_iff_not]; omega
  refine pocPut_here h v.tag hhost _ s _ (fun p hp => ?_) hd
  rw [piecesOf, hhost, if_neg Bool.false_ne_true] at hp
  obtain ⟨x, h1, h2, h3⟩ := mem_pieces hp
  rw [h3, agentOf]
  omega

/-- A word in a free line of the package's own memory is read there. -/
theorem pocWord_here {s : State} {a : Nat} (hh : a / 2 ^ 40 = s.pkg.agent) (hlt : s.pkg.agent < 2000) (hd : ∀ l, s.dir l = 0) :
    ∃ v, pocWord s a = .ok s v := by
  have hhost : isHost (a / 2 ^ 40) = false := by simp only [isHost, hh, decide_eq_false_iff_not]; omega
  have hag : agentOf (a / 128) = s.pkg.agent := by rw [agentOf]; omega
  have hline : pocLine s (a / 128) = .ok s (s.hbm.line (localOf (a / 128))) := by
    unfold pocLine
    dsimp only
    rw [if_pos hag, hd]
    rfl
  exact ⟨_, by rw [pocWord, hhost, if_neg Bool.false_ne_true, hline, Acc.bind_ok]⟩

/-- Words that fit into the engine's object are written (R208). -/
theorem SlotMem.engineWrite {h : Who} {realm obj : Nat} {e : OcEntry} : ∀ (vs : List Val) (s : State) (off : Nat),
    SlotMem s h.core realm obj e → OwnBytes s e off (8 * vs.length) → ∃ t, engineWrite s h realm obj off vs = .ok t (.ok ())
  | [], s, _, _, _ => ⟨s, rfl⟩
  | v :: vs, s, off, hm, ho => by
    have haddr := hm.engineAddr ho (by simp)
    have hg := Engine.useEntry hm.entry
    have hm1 := hm.kept hg
    obtain ⟨t, ht, hw⟩ := pocWriteWord_here (s := s.useEntry h.core e) h v ho.home hm.agent
      (by have h1 := ho.fits; have h2 := usable_le s; rw [List.length_cons] at h1; exact le_trans (by omega) h2) hm1.free
    have hm2 := hm1.kept (hw.engine h.core realm obj)
    unfold Machine.engineWrite
    simp only [haddr, Acc.bind_ok, ht]
    rcases vs with _ | ⟨v', vs'⟩
    · exact ⟨t, rfl⟩
    · refine SlotMem.engineWrite (v' :: vs') t (off + 8) hm2 ?_
      refine (OwnBytes.tail (k := 8) ?_ (by simp)).kept (hw.pkg.trans hg.pkg)
      rw [show 8 + 8 * (v' :: vs').length = 8 * (v :: v' :: vs').length by simp; omega]
      exact ho

/-- Words that lie in the engine's object are read (R208). -/
theorem SlotMem.engineRead {core realm obj : Nat} {e : OcEntry} : ∀ (n : Nat) (s : State) (off : Nat),
    SlotMem s core realm obj e → OwnBytes s e off (8 * n) → ∃ t vs, engineRead s core realm obj off n = .ok t (.ok vs) ∧ t.lanes = s.lanes
  | 0, s, _, _, _ => ⟨s, [], rfl, rfl⟩
  | n + 1, s, off, hm, ho => by
    have haddr := hm.engineAddr ho (by omega)
    have hg := Engine.useEntry hm.entry
    have hm1 := hm.kept hg
    obtain ⟨v, hv⟩ := pocWord_here (s := s.useEntry core e) ho.home hm.agent hm1.free
    unfold Machine.engineRead
    simp only [haddr, Acc.bind_ok, hv]
    rcases Nat.eq_zero_or_pos n with hn | hn
    · subst hn; exact ⟨_, [v], rfl, rfl⟩
    · obtain ⟨t, vs, ht, hl⟩ := SlotMem.engineRead n (s.useEntry core e) (off + 8) hm1
        ((OwnBytes.tail (k := 8) (by rw [show 8 + 8 * n = 8 * (n + 1) by omega]; exact ho) (by omega)).kept hg.pkg)
      exact ⟨t, v :: vs, by rw [ht]; rfl, hl⟩

/-! ### The events of a partition -/

/-- The head request is granted (R201): a call's lanes enter a new frame; a refill's frame becomes resident, and the doffer is busy with it. -/
theorem frameGrant_granted {core part : Nat} {s : State} {r : FReq} {rest : List FReq} (hfit : headFits s (core * 4 + part) = true)
    (hr : (s.part (core * 4 + part)).reqs = r :: rest) :
    ∃ t, exec (.frameGrant core part) s = .next t ∧ (t.part (core * 4 + part)).reqs = rest
      ∧ (∀ d rpc k ts, r.kind = .call d rpc k ts → (t.frame s.uid).demand = d
          ∧ ∀ l ∈ lanesOf r.lanes, (t.lane r.wk l).frame = s.uid ∧ (t.lane r.wk l).st = .run)
      ∧ (∀ fk, r.kind = .refill fk → (t.part (core * 4 + part)).busy = some (.refill r (s.frame fk).loc) ∧ (t.frame fk).isRes = true) := by
  have hexec : exec (.frameGrant core part) s = .next (grantHead s (core * 4 + part)).wake := by
    change execFrameGrant core part s = _
    rw [execFrameGrant, if_pos hfit]
  have hpart : ((s.modPart (core * 4 + part) fun p => { p with reqs := rest }).part (core * 4 + part)).reqs = rest := by
    rw [State.part_modPart_self]
  refine ⟨_, hexec, ?_⟩
  unfold grantHead
  rw [hr]
  dsimp only
  cases hk : r.kind with
  | call d rpc k ts =>
    refine ⟨?_, fun d' rpc' k' ts' he => ?_, (fun fk he => by cases he)⟩
    · exact (congrArg (fun z : Tab Part => (tget z (core * 4 + part) Part.reset).reqs) (enterFrame_parts ..)).trans hpart
    · cases he
      exact ⟨enterFrame_demand .., fun l hl => enterFrame_lane (hl := hl) ..⟩
  | refill fk =>
    refine ⟨by simp, (fun d rpc k ts he => by cases he), fun fk' he => ?_⟩
    cases he
    simp [Frame.isRes]

/-- The doffer that wakes starts the spill of the frame that it picks, into free space of the slot (R204). -/
theorem dofferWake_spills {core part : Nat} {s : State} {r : FReq} {rest : List FReq} {fk : Nat} {f : Frame} {sl : PoolSlot} {off : Nat}
    (hwake : dofferWakes s (core * 4 + part) = true) (hr : (s.part (core * 4 + part)).reqs = r :: rest)
    (hphase : (s.teamOf r.wk).phase ≠ .saving) (hpick : pickSpill s (core * 4 + part) = some (fk, f))
    (hsl : (s.team (s.warp f.wk).team).spill = some sl)
    (hspan : findSpan (s.team (s.warp f.wk).team).recs (recSize f.demand) sl.size = some off) :
    ∃ t, exec (.dofferWake core part) s = .next t ∧ (t.part (core * 4 + part)).busy = some (.spill fk off)
      ∧ (t.part (core * 4 + part)).awake = true
      ∧ (t.team (s.warp f.wk).team).recs = (s.team (s.warp f.wk).team).recs ++ [(off, recSize f.demand)] := by
  have hshort : s.freeGran (core * 4 + part) < reqGran s r := by
    simp only [dofferWakes, hr, Bool.and_eq_true, decide_eq_true_eq] at hwake
    exact hwake.1.1.2
  have hcond : ¬ ((reqGran s r ≤ s.freeGran (core * 4 + part) || (s.teamOf r.wk).phase == .saving) = true) := by
    simp only [Bool.or_eq_true, decide_eq_true_eq, beq_iff_eq, not_or]
    exact ⟨by omega, hphase⟩
  have hstep : dofferStep s (core * 4 + part) = (s.modPart (core * 4 + part) fun p => { p with awake := true, busy := some (.spill fk off) }).modTeam
      (s.warp f.wk).team fun t => { t with recs := t.recs ++ [(off, recSize f.demand)] } := by
    unfold dofferStep
    simp only [hr, hpick, hsl, hspan]
    rw [if_neg hcond]
  have hexec : exec (.dofferWake core part) s = .next (dofferStep s (core * 4 + part)).wake := by
    change execDofferWake core part s = _
    rw [execDofferWake, if_pos hwake]
  refine ⟨_, hexec, ?_⟩
  rw [hstep]
  simp

/-- The frame's record is in the slot: its granules and its id go back (R203, R208). -/
def spillLanded (s : State) (pk tk fk off : Nat) : State :=
  ((s.modFrame fk fun g => { g with loc := .spilled off, regs := [], ptags := [] }).modPart pk fun p =>
    { p with busy := none }).modTeam tk fun u => { u with spoilt := u.spoilt.filter (· != off) }

theorem spillLanded_loc (s : State) (pk tk fk off : Nat) : ((spillLanded s pk tk fk off).frame fk).loc = .spilled off := by
  simp [spillLanded]

/-- A spill whose record fits into lines of the package's own memory without remote holders ends: the frame's location is its record (R208). -/
theorem spillDone_ends {core part : Nat} {s : State} {fk off : Nat} {sl : PoolSlot} {e : OcEntry}
    (hbusy : (s.part (core * 4 + part)).busy = some (.spill fk off)) (hsp : spillable s (core * 4 + part) (fk, s.frame fk) = true)
    (hopen : s.fails.find? (fun y => y.who == (dofferWho s (core * 4 + part)).who) = none)
    (hsl : (s.team (s.warp (s.frame fk).wk).team).spill = some sl)
    (hm : SlotMem s ((core * 4 + part) / 4) (s.team (s.warp (s.frame fk).wk).team).realm sl.obj e)
    (ho : OwnBytes s e (sl.off + off) (8 * (recWords s (s.frame fk)).length)) :
    ∃ t, exec (.spillDone core part) s = .next t ∧ (t.frame fk).loc = .spilled off := by
  obtain ⟨t, ht⟩ := SlotMem.engineWrite (h := dofferWho s (core * 4 + part)) _ s _ hm ho
  have hrun := runAcc_value (h := dofferWho s (core * 4 + part)) (s := s)
    (f := fun st => engineWrite st (dofferWho s (core * 4 + part)) (s.team (s.warp (s.frame fk).wk).team).realm sl.obj (sl.off + off)
      (recWords st (s.frame fk))) hopen ht
  have hexec : exec (.spillDone core part) s = .next (dofferStep (relist
      (spillLanded (t.unwait (dofferWho s (core * 4 + part)).who) (core * 4 + part) (s.warp (s.frame fk).wk).team fk off)
      (s.warp (s.frame fk).wk).team fk off) (core * 4 + part)).wake := by
    change execSpillDone core part s = _
    unfold execSpillDone
    simp only [hbusy, hsp, Bool.not_true, Bool.false_eq_true, if_false, hsl, Option.getD_some, hrun]
    rfl
  have hrelist : ∀ z : State, (relist z (s.warp (s.frame fk).wk).team fk off).frames = z.frames := fun z => by
    unfold relist; split <;> rfl
  refine ⟨_, hexec, ?_⟩
  rw [State.frame_of_wake, State.frame, (frames_dofferStep ..).trans (hrelist _)]
  exact spillLanded_loc ..

/-- The end of a refill frees the doffer, and the lanes that wait for the frame run (R202, R204). -/
theorem refillEnd_ends (s : State) (pk fk : Nat) (r : FReq) (src : FrameLoc) (ws : List Val) :
    ((refillEnd s pk fk r src ws).part pk).busy = none
      ∧ ∀ l ∈ lanesOf r.lanes, (s.lane r.wk l).st = .blocked .frame → ((refillEnd s pk fk r src ws).lane r.wk l).st = .run := by
  have henter : ∀ z : State, (enterRefilled z r).parts = z.parts := fun z =>
    foldl_unobserved _ State.parts z fun _ _ _ => by split <;> rfl
  have hlanes : ∀ (ls : List Nat) (z : State) (l : Nat), l < 32 → (∀ m ∈ ls, m < 32) →
      (l ∈ ls ∧ (z.lane r.wk l).st = .blocked .frame ∨ (z.lane r.wk l).st = .run) →
      ((ls.foldl (fun st l => if (st.lane r.wk l).st = .blocked .frame then st.modLane r.wk l fun ln => { ln with st := .run, ret := none } else st) z).lane
        r.wk l).st = .run := by
    intro ls
    induction ls with
    | nil => exact fun z l _ _ h => h.elim (fun h => absurd h.1 (by simp)) id
    | cons m ls ih =>
      intro z l hl hls h
      have hm := hls m List.mem_cons_self
      refine ih _ l hl (fun k hk => hls k (List.mem_cons_of_mem _ hk)) ?_
      by_cases he : m = l
      · subst he
        right
        dsimp only
        split
        · rw [State.lane_modLane, if_pos rfl]
        · next hb => exact h.elim (fun h => absurd h.2 hb) id
      · have hsame : ((if (z.lane r.wk m).st = .blocked .frame then z.modLane r.wk m fun ln => { ln with st := .run, ret := none } else z).lane
            r.wk l) = z.lane r.wk l := by
          split
          · rw [State.lane_modLane, if_neg fun h => he ((lkOf_inj hm hl).1 h).2]
          · rfl
        rw [hsame]
        exact h.imp (fun h => ⟨(List.mem_cons.1 h.1).resolve_left (Ne.symm he), h.2⟩) id
  have hsrc : ∀ z : State, z.lanes = s.lanes → ∀ l ∈ lanesOf r.lanes, (s.lane r.wk l).st = .blocked .frame →
      ((enterRefilled z r).lane r.wk l).st = .run := fun z hz l hl hb =>
    hlanes _ z l (mem_lanesOf.1 hl).1 (fun _ hm => (mem_lanesOf.1 hm).1) (.inl ⟨hl, by rw [State.lane, hz]; exact hb⟩)
  unfold refillEnd
  refine ⟨?_, hsrc _ ?_⟩
  · exact congrArg (fun z : Tab Part => (tget z pk Part.reset).busy) (henter _) |>.trans (congrArg Part.busy (State.part_modPart_self ..))
  · dsimp only
    split
    · split <;> rfl
    · rfl

/-- A refill from a save area, or of a record in lines of the package's own memory without remote holders, ends (R204, R208, R398). -/
theorem refillDone_ends {core part : Nat} {s : State} {r : FReq} {fk : Nat} {src : FrameLoc}
    (hbusy : (s.part (core * 4 + part)).busy = some (.refill r src)) (hk : r.kind = .refill fk)
    (hsrc : (∃ a o, src = .saved a o) ∨ ∃ o sl e, src = .spilled o
      ∧ s.fails.find? (fun y => y.who == (dofferWho s (core * 4 + part)).who) = none ∧ (s.teamOf r.wk).spill = some sl
      ∧ SlotMem s ((core * 4 + part) / 4) (s.teamOf r.wk).realm sl.obj e ∧ OwnBytes s e (sl.off + o) (recSize (s.frame fk).demand)) :
    ∃ t, exec (.refillDone core part) s = .next t ∧ (t.part (core * 4 + part)).busy = none
      ∧ ∀ l ∈ lanesOf r.lanes, (s.lane r.wk l).st = .blocked .frame → (t.lane r.wk l).st = .run := by
  have hend : ∃ z ws, exec (.refillDone core part) s = .next (refillEnd z (core * 4 + part) fk r src ws).wake ∧ z.lanes = s.lanes := by
    change ∃ z ws, execRefillDone core part s = _ ∧ _
    unfold execRefillDone
    obtain ⟨a, o, rfl⟩ | ⟨o, sl, e, rfl, hopen, hsl, hm, ho⟩ := hsrc
    · exact ⟨s, localWords s (((s.teamOf r.wk).saves.getD a ⟨0, 0⟩).base + o) (recSize (s.frame fk).demand / 8), by simp only [hbusy, hk], rfl⟩
    · have hsize : 8 * (recSize (s.frame fk).demand / 8) = recSize (s.frame fk).demand := by unfold recSize mapSize; omega
      obtain ⟨t, ws, ht, hlanes⟩ := SlotMem.engineRead _ s _ hm (hsize.symm ▸ ho)
      have hrun := runAcc_value (h := dofferWho s (core * 4 + part)) (s := s)
        (f := fun st => Machine.engineRead st (dofferWho s (core * 4 + part)).core (s.teamOf r.wk).realm sl.obj (sl.off + o)
          (recSize (s.frame fk).demand / 8)) hopen ht
      refine ⟨t.unwait (dofferWho s (core * 4 + part)).who, ws, ?_, ?_⟩
      · simp only [hbusy, hk, hsl, Option.getD_some, hrun]
      · exact hlanes
  obtain ⟨z, ws, hexec, hz⟩ := hend
  obtain ⟨hb, hl⟩ := refillEnd_ends z (core * 4 + part) fk r src ws
  exact ⟨_, hexec, hb, fun l hml hst => hl l hml (by rw [State.lane, hz]; exact hst)⟩

/-- A frame that every lane has left and no response will reach goes (R199). -/
theorem frameRelease_goes {fk : Nat} {s : State} (h1 : (tfind s.frames fk).isSome = true) (h2 : (s.frame fk).rem = 0)
    (h3 : ∀ d ∈ s.defers, d.frame ≠ fk) :
    ∃ t, exec (.frameRelease fk) s = .next t ∧ tfind t.frames fk = none ∧ ∀ k, k ≠ fk → t.frame k = s.frame k := by
  have hdel := tryRelease_frames h1 h2 h3
  have hgone : tfind (tryRelease s fk).frames fk = none := by rw [hdel, tfind_tdel, if_pos rfl]
  refine ⟨(tryRelease s fk).wake, ?_, hgone, fun k hk => ?_⟩
  · change execFrameRelease fk s = _
    simp only [execFrameRelease, h1, hgone, Option.isNone_none, Bool.and_self, if_true]
  · rw [State.frame_of_wake, State.frame, State.frame, hdel, tget, tfind_tdel, if_neg (Ne.symm hk)]
    rfl

end Sys2Proof.Machine
end

section
/-! ## Completion of loads, stores, control registers, deferred results and frame engines -/

namespace Sys2Proof.Machine

/-! ### Control registers (R375, R376) -/

/-- A write of a control register leaves H of every lane. -/
theorem h_crnWrite (s : State) (wk l crn : Nat) (v : Word) (k m : Nat) : ((crnWrite s wk l crn v).lane k m).h = (s.lane k m).h := by
  have hlane : ∀ f : Lane → Lane, (∀ ln, (f ln).h = ln.h) → ((s.modLane wk l f).lane k m).h = (s.lane k m).h := fun f hf => by
    rw [State.lane_modLane]
    split
    · next h => rw [hf, State.lane, State.lane, h]
    · rfl
  unfold crnWrite
  dsimp only
  split
  case h_1 | h_4 | h_5 => exact hlane _ fun _ => rfl
  all_goals rfl

/-- SWR in a lane that may write its register (R376). -/
theorem swr_writes {s : State} {f : BaseF} {c : Ctx} {x : Nat → Srcs} (h : Issues s (.swr f) c) (hr : Reads s c x)
    (hh : handlerOnly (crnOf f) = true → ∀ l ∈ c.active, (s.lane c.wk l).h = true)
    (hv : crnOf f = 3 → ∀ l ∈ c.active, (x l).av.bits.extractLsb' 0 3 = 0) :
    exec (.swr f) s = .next (Ended (c.active.foldl (fun st l => crnWrite st c.wk l (crnOf f) (x l).av.bits) s) (.swr f) c fun _ => {}) := by
  refine seq_folded h hr (fun _ a => ∀ l, (a.lane c.wk l).h = (s.lane c.wk l).h) (fun _ => rfl)
    (fun _ a l _ _ ha m => (h_crnWrite ..).trans (ha m)) fun _ a l hl _ ha => ?_
  have h1 : (handlerOnly (crnOf f) && !(a.lane c.wk l).h) = false := by
    cases ho : handlerOnly (crnOf f) with
    | false => rfl
    | true => rw [ha, hh ho l hl]; rfl
  have h2 : (decide (crnOf f = 3) && bits (x l).av.bits 2 0 != 0) = false := by
    by_cases hc : crnOf f = 3
    · have hz : bits (x l).av.bits 2 0 = 0 := congrArg BitVec.toNat (hv hc l hl)
      rw [hz]; simp
    · simp [hc]
  simp only [h1, h2, Bool.false_eq_true, if_false]
  rfl

/-- A deferred load whose line stands in L1 gives its bytes (R223). -/
theorem deferAcc_hit {s : State} {d : Defer} {n : Nat} {sx : Bool} {e : L1Line} (hk : d.kind = .load n sx) (ha : d.addr / 2 ^ 40 < 2000)
    (hn : 0 < n) (hs : d.addr % 128 + n ≤ 128) (hl : s.l1Find (wkCore d.wk) ⟨d.realm, d.obj, d.pub, d.base⟩ (d.addr / 128) = some e) :
    deferAcc d s = .ok s (loadVal n sx (lineGet e.data (d.addr % 128) n), highVal (lineGet e.data (d.addr % 128) n)) := by
  have hhost : isHost (d.addr / 2 ^ 40) = false := by simp only [isHost, decide_eq_false_iff_not]; omega
  have hline : l1Line s (deferWho s d) ⟨d.realm, d.obj, d.pub, d.base⟩ (d.addr / 128) = .ok s e := by
    simp only [l1Line, deferWho, hl]
  unfold deferAcc
  simp only [hk, l1Read, hhost, Bool.false_eq_true, if_false, pieces_one hhost hs hn, l1Bytes, hline, Acc.bind_ok, List.append_nil]

end Sys2Proof.Machine

open Sys2Proof Sys2Proof.Machine

/-- Settles O59: each instruction's lanes act in turn while the states between keep what the later lanes' checks and hits rest on; each engine's
access to its slot finds the entry in the cache and every line of its record at home. -/
theorem loadStoreCompletion : Obligations.LoadStoreCompletion := by
  unfold Obligations.LoadStoreCompletion
  intro ref near read start slot
  have hnear : ∀ {s p n}, near s p n → s.Near p.addr n := fun ⟨h1, h2, h3⟩ => ⟨h1, h2, h3⟩
  have hslot : ∀ {s core tk o n}, slot s core tk o n → ∃ sl e, (s.team tk).spill = some sl
      ∧ SlotMem s core (s.team tk).realm sl.obj e ∧ OwnBytes s e (sl.off + o) n := by
    rintro s core tk o n ⟨e, sl, hen, hsl, hfind, hview, hhm, hmv, hlen, hhome, hlt, hfit, hsec, hdir⟩
    exact ⟨sl, e, hsl, ⟨hen, hfind, hview, hhm, hmv, hlt, hsec, hdir⟩, ⟨hlen, by rw [← Nat.add_assoc]; exact hhome, by rw [← Nat.add_assoc]; exact hfit⟩⟩
  refine ⟨?_, ?_, ?_, ?_, ?_, ?_, ?_, ?_, ?_, ?_, ?_, ?_, ?_, ?_, ?_⟩
  · intro f s c x p h hr hord n reg hl
    have hreg : reg = c.g.fs.d.toNat - 0x40 := by rw [h.dst_ld]
    have := seq_deferred h hr (body := fun s' c l x =>
        let n := memSize f
        let off := memOff f (offOf x.av.bits) x.bv.bits n
        if f.ord = 1 then acquireLane s' c l x.av off n f.scope.toNat f.sx else deferLane s' c l x.av off n [rR] (.load n f.sx))
      (off := fun y => ref f y n) (p := p) (n := n) (rights := [rR]) (kind := .load n f.sx)
      (fun a l y => by dsimp only; rw [if_neg hord]; rfl) (.inl ⟨_, rfl⟩)
      (fun l hm => ⟨(hl l hm).1, hnear (hl l hm).2.1, by have := (hl l hm).2.2; rw [hreg] at this; exact this⟩)
    rw [hreg]
    exact this
  · intro f s c x p e h hr hord hscope n rs hl
    have hrs : rs = regRange (c.g.fs.d.toNat - 0x40) (max 1 (n / 4)) := by rw [h.dst_ld]
    refine seq_acquire h hr (off := fun y => ref f y n) (fun a l y => ?_) fun l hm => ?_
    · dsimp only
      rw [if_pos hord, hscope]
      rfl
    · rw [← hrs]; exact hl l hm
  · intro f s c x p h hr reg hl
    have hreg : reg = c.g.fs.d.toNat - 0x40 := by rw [h.dst_fld]
    have := seq_deferred h hr (body := fun s' c l x =>
        deferLane s' c l x.av (memOff f (offOf x.av.bits) x.bv.bits 8) 8 [rR, rNC] .far)
      (off := fun y => ref f y 8) (p := p) (fun a l y => rfl) (.inr ⟨rfl, rfl⟩)
      (fun l hm => ⟨(hl l hm).1, hnear (hl l hm).2.1, by have := (hl l hm).2.2; rw [hreg] at this; exact this⟩)
    rw [hreg]
    exact this
  · intro f s c x p e h hr hord n hl
    refine seq_store h hr (off := fun y => ref f y n) (rel := f.ord == 2) (scope := f.scope.toNat) (fun hrel => ?_) (fun a l y => rfl) hl
    rw [hord.resolve_left (not_not.2 (by simpa using hrel))]
    rfl
  · intro f s c x p h hr hl
    obtain ⟨t, ht, hs, hf⟩ := execPref_ends h hr (Hinted c.wk s) ⟨.refl .., rfl⟩ fun a ha l hm => by
      obtain ⟨t, ht, hat⟩ := prefetchLane_allowed (ha.1.allowed (hl l hm).1) (ha.1.near (hnear (hl l hm).2))
      exact ⟨t, ht, ha.trans hat⟩
    exact ⟨t, ht, hs.lanes, hf, hs.teams⟩
  · intro f s c x h hr hl
    obtain ⟨t, ht, rfl⟩ := execPref_ends h hr (· = s) rfl fun a ha l hm => ⟨a, prefetchLane_null (hl l hm), ha⟩
    exact ht
  · intro f s c x h hr n hh
    refine issue_alu h hr fun l hl => ?_
    cases ho : handlerOnly (crnOf f) with
    | false => rfl
    | true => rw [hh ho l hl]; rfl
  · intro f s c x h hr n hh hv
    exact swr_writes h hr hh hv
  · intro s d hd hdead
    exact deferredResponse_performed hd (tryDefer_dead hdead)
  · intro s d n sx e hd hdead hundef hk hahead hopen ha hn hs hl
    have hacc := deferAcc_hit hk ha hn hs hl
    refine (deferredResponse_performed hd (tryDefer_read hdead hahead hopen hacc)).trans ?_
    simp only [endDefer, hdead, hundef, Bool.false_eq_true, if_false]
  · intro core part s r rest pk hfit hr
    exact frameGrant_granted hfit hr
  · intro core part s r rest fk f sl off pk tk hwake hr hphase hpick hsl hspan
    exact dofferWake_spills hwake hr hphase hpick hsl hspan
  · intro core part s fk off pk f hbusy hsp hopen hs
    obtain ⟨sl, e, hsl, hm, ho⟩ := hslot hs
    exact spillDone_ends hbusy hsp hopen hsl hm ho
  · intro core part s r fk src pk hbusy hk hsrc
    refine refillDone_ends hbusy hk (hsrc.imp id ?_)
    rintro ⟨o, rfl, hopen, hs⟩
    obtain ⟨sl, e, hsl, hm, ho⟩ := hslot hs
    exact ⟨o, sl, e, rfl, hopen, hsl, hm, ho⟩
  · intro fk s h1 h2 h3
    exact frameRelease_goes h1 h2 h3
end

section
/-! ## An owner's answer for a line that is P (R336, R351) -/

namespace Sys2Proof.Machine

/-- A home whose line 0 is P (DIR 3) while its entry names agent 1 as its owner and a read of agent 2 waits for that owner's answer. -/
def poisonedBusy : State :=
  ({ State.reset with
      homeTx := [{ line := 0, what := .request (.rds ⟨2, 0⟩ 0), owe := [], reply := true, queue := [] }] }.setHolder 0
    (.ptrs 0 (some 0) false [1])).setDir 0 3

/-- The owner's Miss ends the read with Poison: the line stays P, and is not given to the reader (R351). -/
theorem miss_poisonedBusy : ∃ t, exec (.miss ⟨0, 1⟩) poisonedBusy = .next t ∧ t.dir 0 = 3 := by
  change ∃ t, execMiss ⟨0, 1⟩ poisonedBusy = .next t ∧ t.dir 0 = 3
  exact ⟨_, rfl, by decide⟩

end Sys2Proof.Machine

open Sys2Proof Sys2Proof.Machine

/-- Refutes O60: the clause on an owner's answer, which has a Miss for a clean line leave the line with its reader (DIR 2), has no premise on DIR;
where the line is P already, the home answers the reader with Poison and the line stays P. -/
theorem not_eventCompletion : ¬ Obligations.EventCompletion := by
  unfold Obligations.EventCompletion
  rintro ⟨-, -, -, -, ⟨-, -, -, -, -, hanswer, -⟩, -⟩
  obtain ⟨-, hmiss⟩ := hanswer poisonedBusy 0 0 lineCleared 0 false 1 2 rfl rfl (by decide) rfl rfl
  obtain ⟨t, ht, -, hdir⟩ := hmiss rfl
  obtain ⟨u, hu, hpoison⟩ := miss_poisonedBusy
  obtain rfl : t = u := Host.Outcome.next.inj (ht.symm.trans hu)
  exact absurd (hdir.symm.trans hpoison) (by decide)
end

section
/-! ## Rounding to an integer (R47) -/

namespace Sys2Proof.Machine

/-- A number m / 2^k is cut off at its quotient; it is exact where nothing remains, and the remainder is compared with half of 2^k. -/
theorem cutAt_pow (m k : Nat) : cutAt m 0 k false = (m / 2 ^ k, m % 2 ^ k == 0, compare (2 * (m % 2 ^ k)) (2 ^ k)) := by
  cases k with
  | zero => simp [cutAt, Nat.mod_one, Nat.compare_eq_ite_lt]
  | succ j =>
    have hrest : m - (m / 2 ^ (j + 1)) * 2 ^ (j + 1) = m % 2 ^ (j + 1) := by rw [Nat.mul_comm, ← Nat.mod_eq_sub_mul_div]
    have hhalf : 2 ^ (j + 1) = 2 * 2 ^ j := Nat.pow_succ'
    have hcmp : ∀ r : Nat, (if r < 2 ^ j then Ordering.lt else if 2 ^ j < r then .gt else .eq) = compare (2 * r) (2 ^ (j + 1)) := fun r => by
      rw [hhalf, Nat.compare_eq_ite_lt]
      simp only [Nat.mul_lt_mul_left (Nat.succ_pos 1)]
    have hpos : ¬ ((j + 1 : Nat) : Int) ≤ 0 := by omega
    simp only [cutAt, if_neg hpos, Int.sub_zero, Int.toNat_natCast, Nat.shiftRight_eq_div_pow, Nat.shiftLeft_eq, Nat.one_mul,
      Nat.add_sub_cancel, hrest, Bool.not_false, Bool.and_true, Bool.false_eq_true, if_false, hcmp]

/-- A number that is an integer is rounded to itself, and exactly. -/
theorem roundAt_exact {m k : Nat} (h : m % 2 ^ k = 0) (rm : Nat) (s : Bool) : roundAt rm s m 0 k false = (m / 2 ^ k, true) := by
  simp [roundAt, cutAt_pow, h]

/-- Another number is rounded down or up in magnitude, as its mode decides. -/
theorem roundAt_inexact {m k : Nat} (h : m % 2 ^ k ≠ 0) (rm : Nat) (s : Bool) : roundAt rm s m 0 k false =
    (if roundsUp rm s (m / 2 ^ k % 2 == 1) (compare (2 * (m % 2 ^ k)) (2 ^ k)) then m / 2 ^ k + 1 else m / 2 ^ k, false) := by
  simp [roundAt, cutAt_pow, h]

end Sys2Proof.Machine

open Sys2Proof Sys2Proof.Machine

/-- Settles O12: the number is cut off at its quotient, and where a remainder is left the mode decides between the quotient and its successor. -/
theorem roundingModes : Obligations.RoundingModes := by
  unfold Obligations.RoundingModes
  intro s m k n
  have hexact : ∀ rm, m % 2 ^ k = 0 → n rm = m / 2 ^ k := fun rm h => congrArg Prod.fst (roundAt_exact h rm s)
  have hinexact : m % 2 ^ k ≠ 0 → ∀ rm, n rm =
      if roundsUp rm s (m / 2 ^ k % 2 == 1) (compare (2 * (m % 2 ^ k)) (2 ^ k)) then m / 2 ^ k + 1 else m / 2 ^ k :=
    fun h rm => congrArg Prod.fst (roundAt_inexact h rm s)
  refine ⟨fun rm => ?_, hexact, fun rm => ?_, fun h => ⟨fun hlt => ?_, fun hgt => ?_, fun heq => ?_, ?_, ?_, ?_⟩⟩
  · by_cases h : m % 2 ^ k = 0
    · simp [roundAt_exact h, h]
    · simp [roundAt_inexact h, h]
  · by_cases h : m % 2 ^ k = 0
    · exact .inl (hexact rm h)
    · rw [hinexact h]
      split
      · exact .inr rfl
      · exact .inl rfl
  · simp only [hinexact h, Nat.compare_eq_lt.2 hlt]
    exact ⟨rfl, rfl⟩
  · simp only [hinexact h, Nat.compare_eq_gt.2 hgt]
    exact ⟨rfl, rfl⟩
  · simp only [hinexact h, Nat.compare_eq_eq.2 heq]
    refine ⟨?_, rfl⟩
    obtain heven | hodd := Nat.mod_two_eq_zero_or_one (m / 2 ^ k)
    · simp [roundsUp, heven]
    · simp [roundsUp, hodd, Nat.succ_mod_two_eq_zero_iff]
  · exact hinexact h 1
  · rw [hinexact h]
    cases s <;> rfl
  · rw [hinexact h]
    cases s <;> rfl
end

section
/-! ## NaN results and exact zero sums (R37, R178) -/

namespace Sys2Proof.Machine

/-- A NaN operand decides the result (R37): its sign, and NV if it signals; the other operand is a number. -/
theorem nanOf_nan_fin (F : Fmt) (s q t : Bool) (n : Nat) (g : Int) : nanOf F [.nan s q, .fin t n g] = some (canonNaN F s, nvIf q) := by
  cases q <;> rfl

theorem nanOf_fin_nan (F : Fmt) (s q t : Bool) (n : Nat) (g : Int) : nanOf F [.fin t n g, .nan s q] = some (canonNaN F s, nvIf q) := by
  cases q <;> rfl

theorem nanOf_inf_fin_nan (F : Fmt) (s q t u : Bool) (n : Nat) (g : Int) :
    nanOf F [.inf t, .fin u n g, .nan s q] = some (canonNaN F s, nvIf q) := by
  cases q <;> rfl

/-- ∞ · 0 plus a NaN gives that NaN, and raises NV whether or not it signals (R178). -/
theorem fmaF_infZero_nan (F : Fmt) (rm : Nat) (sat s q t u : Bool) (g : Int) :
    fmaF F rm sat (.inf t) (.fin u 0 g) (.nan s q) = (canonNaN F s, nvIf q ||| flagNV) := by
  simp only [fmaF, nanOf_inf_fin_nan]
  rfl

/-- ∞ − ∞ is an invalid operation (R178). -/
theorem addF_infinities (F : Fmt) (rm : Nat) (sat s : Bool) : addF F rm sat (.inf s) (.inf !s) = newNaN F := by
  cases s <;> rfl

/-- The exact sum of a number and its opposite is 0. -/
theorem addDy_opposite (s : Bool) (m : Nat) (e : Int) : (addDy (sgn s m) e (sgn (!s) m) e).1 = 0 := by
  cases s <;> simp [addDy, sgn]

/-- A finite number and its opposite add up to +0, and toward −∞ to −0. -/
theorem addF_opposite (F : Fmt) (rm : Nat) (sat s : Bool) (m : Nat) (e : Int) :
    addF F rm sat (.fin s m e) (.fin (!s) m e) = (zeroOf F (rm == 3), 0) := by
  have hsign : zeroSumSign rm s (!s) = (rm == 3) := by cases s <;> rfl
  change roundI F rm sat (addDy (sgn s m) e (sgn (!s) m) e).1 _ _ = _
  rw [roundI, if_pos (addDy_opposite s m e), hsign]

end Sys2Proof.Machine

open Sys2Proof Sys2Proof.Machine

/-- Settles O13: no operand of the invalid operations is a NaN, so each takes the branch of its own operands. -/
theorem invalidOperations : Obligations.InvalidOperations := by
  unfold Obligations.InvalidOperations
  intro F rm sat s t m n e g hm
  refine ⟨?_, ?_, ?_, ?_, ?_, ?_, ?_, ?_, fun q => ⟨?_, ?_, ?_⟩, addF_opposite F rm sat s m e⟩
  · exact addF_infinities F rm sat s
  · rfl
  · rfl
  · rfl
  · rfl
  · exact if_neg hm
  · exact if_neg hm
  · exact if_neg hm
  · simp only [addF, nanOf_nan_fin, nvIf]
  · simp only [mulF, nanOf_fin_nan, nvIf]
  · rw [fmaF_infZero_nan]
    cases q <;> rfl
end

section
/-! ## The amax rings (R57–R60, R193–R195) -/

namespace Sys2Proof.Machine

@[simp] theorem State.ring_modRing_self (s : State) (core n : Nat) (f : Amax → Amax) :
    (s.modRing core n f).ring core n = f (s.ring core n) := by
  simp [State.ring, State.modRing]

/-- A ring of another number or core stays. -/
theorem State.ring_modRing_ne (s : State) {core n c k : Nat} (f : Amax → Amax) (h : c ≠ core ∨ k ≠ n) :
    (s.modRing core n f).ring c k = s.ring c k := by
  by_cases hc : core = c
  · subst hc
    have hk : n ≠ k := fun e => h.elim (fun h => h rfl) fun h => h e.symm
    simp only [State.ring, State.modRing, State.core_modCore_self, tget_tput_ne _ hk]
  · rw [State.ring, State.modRing, State.core_modCore_ne s _ hc]
    rfl

/-- A commit of a pending maximum (R59). -/
theorem Amax.commit_pending {a : Amax} (h : a.pv = true) :
    a.commit = { a with slots := a.slots.set a.head a.pend, head := (a.head + 1) % 16, cnt := min (a.cnt + 1) 16, pv := false } :=
  if_pos h

/-- A commit with nothing pending does nothing. -/
theorem Amax.commit_idle {a : Amax} (h : a.pv = false) : a.commit = a := by
  rw [Amax.commit, h]; rfl

@[simp] theorem Amax.commit_pv (a : Amax) : a.commit.pv = false := by
  cases h : a.pv with
  | true => rw [Amax.commit_pending h]
  | false => rw [Amax.commit_idle h, h]

/-- A ring action on a ring that is free is performed (R60). -/
theorem ringBody_free {f : BaseF} {s : State} {c : Ctx} (h : s.ringBusy (wkCore c.wk) (f.a.toNat % 64) = false) (b : Body) :
    ringBody f b s c = b s c := by
  rw [ringBody, h]; rfl

/-- An instruction whose ring is free answers as one without a ring. -/
theorem issue_ringBody {s : State} {i : Instr} {c : Ctx} (h : Issues s i c) {f : BaseF}
    (hfree : s.ringBusy (wkCore c.wk) (f.a.toNat % 64) = false) (b : Body) : issue s i (ringBody f b) = issue s i b := by
  rw [issue_body h, issue_body h, ringBody_free hfree]

/-- AMXCMT commits the ring that A names (R195). -/
theorem exec_amxcmt {f : BaseF} {s : State} {c : Ctx} (h : Issues s (.amxcmt f) c)
    (hfree : s.ringBusy (wkCore c.wk) (f.a.toNat % 64) = false) : exec (.amxcmt f) s =
      .next (Ended (s.modRing (wkCore c.wk) (f.a.toNat % 64) Amax.commit) (.amxcmt f) c fun _ => {}) :=
  (issue_ringBody h hfree _).trans (issue_ended h rfl)

/-- AMXCLR resets the ring that A names (R195). -/
theorem exec_amxclr {f : BaseF} {s : State} {c : Ctx} (h : Issues s (.amxclr f) c)
    (hfree : s.ringBusy (wkCore c.wk) (f.a.toNat % 64) = false) : exec (.amxclr f) s =
      .next (Ended (s.modRing (wkCore c.wk) (f.a.toNat % 64) fun _ => Amax.reset) (.amxclr f) c fun _ => {}) :=
  (issue_ringBody h hfree _).trans (issue_ended h rfl)

end Sys2Proof.Machine

open Sys2Proof Sys2Proof.Machine

/-- Settles O28: the ring that is committed is read back as it was written, and every other as it stood. -/
theorem amaxCommit : Obligations.AmaxCommit := by
  unfold Obligations.AmaxCommit
  refine ⟨fun f s c h hfree => exec_amxcmt h hfree, ?_⟩
  intro s core n m a z
  have hz : z = a.commit := s.ring_modRing_self core n Amax.commit
  refine ⟨fun hpv => ?_, fun hpv => ?_, ?_, rfl, rfl, rfl, rfl, fun c k h => s.ring_modRing_ne Amax.commit h⟩
  · rw [hz, Amax.commit_pending hpv]
    exact ⟨rfl, rfl, rfl⟩
  · rw [hz, Amax.commit_idle hpv]
  · rw [hz, Amax.commit_pv]
end

section
/-! ## Blocks of the scratchpad and ring instructions complete (R57–R60, R164, R189–R195, R445) -/

namespace Sys2Proof.Machine

/-! ### What the body of a block instruction reads -/

/-- The offset in A of the lowest-numbered active lane is `o`: a multiple of 64 whose block lies in the team's scratchpad (R189). -/
def BlockAt (s : State) (c : Ctx) (o : Nat) : Prop :=
  (∃ v, read32 s c.wk c.lead c.g.fs.a c.g.fs.btA = .ok v ∧ (v.bits.extractLsb' 0 32).toNat = o)
    ∧ o % 64 = 0 ∧ o + 64 ≤ (s.teamOf c.wk).spSize

theorem leadRead_ok {s : State} {c : Ctx} {code : Byte} {bt : Bool} {v : Val} (h : read32 s c.wk c.lead code bt = .ok v) :
    leadRead s c code bt = .ok v.bits := by
  rw [leadRead, h]; rfl

theorem BlockAt.offset {s : State} {c : Ctx} {o : Nat} (h : BlockAt s c o) :
    ∃ w, leadRead s c c.g.fs.a c.g.fs.btA = .ok w ∧ (lo32 w).toNat = o := by
  obtain ⟨⟨v, hv, ho⟩, -⟩ := h
  exact ⟨v.bits, leadRead_ok hv, (lo32_toNat v.bits).trans ho⟩

/-- A block instruction whose block lies in the scratchpad goes on with its offset. -/
theorem leadBlock_at {s : State} {c : Ctx} {o : Nat} (h : BlockAt s c o) (g : State → Ctx → Nat → State × List (Nat × LaneOut)) :
    leadBlock g s c = g s c o := by
  obtain ⟨w, hw, rfl⟩ := h.offset
  obtain ⟨-, hal, hfit⟩ := h
  simp only [leadBlock, hw, blkOffFault_fits hfit hal]

/-- The lanes of a block instruction read B alone. -/
theorem readLanes_onlyB {s : State} {i : Instr} {c : Ctx} {x : Nat → Srcs} (h : Issues s i c) (hr : Reads s c.onlyB x) :
    readLanes s c.onlyB c.lanes = .ok (c.active.map fun l => (l, .ok (x l))) := by
  rw [h.lanes]
  exact readLanes_ok (c := c.onlyB) hr

/-- Lanes that all read their operands all take part, and none faults (R164). -/
theorem splitReads_ok (ls : List Nat) (x : Nat → Srcs) :
    splitReads (ls.map fun l => (l, .ok (x l))) = (ls.map fun l => (l, x l), []) := by
  induction ls with
  | nil => rfl
  | cons l ls ih =>
    obtain ⟨hok, hbad⟩ := Prod.mk.inj ih
    exact Prod.ext (congrArg ((l, x l) :: ·) hok) hbad

/-- An instruction that issues has participants. -/
theorem Issues.participants {s : State} {i : Instr} {c : Ctx} (h : Issues s i c) (x : Nat → Srcs) :
    (c.active.map fun l => (l, x l)).isEmpty = false := by
  simpa [List.isEmpty_iff] using h.nonempty

/-- What a reading that goes on after another read before. -/
theorem Rd.ok_of_bind {α β : Type} {r : Rd α} {f : α → Rd β} {b : β} (h : r.bind f = .ok b) : ∃ a, r = .ok a ∧ f a = .ok b := by
  cases r with
  | ok a => exact ⟨a, rfl, h⟩
  | block => cases h
  | bad e => cases h

/-- A lane that reads its operands meets no EMPTY register that blocks (R145). -/
theorem readSrcs_blocks {s : State} {wk l : Nat} {g : Sig} {x : Srcs} (h : readAll s wk l g = .ok x) : (readSrcs s wk l g).blocks = false := by
  obtain ⟨y, hy, -⟩ := Rd.ok_of_bind h
  rw [hy]; rfl

/-! ### QNT -/

/-- Under FIX, `fix` is the scale that the lowest-numbered active lane reads in C; without it there is none, and the ring that C names is free
(R60, R190). -/
def FixScale (f : BaseF) (s : State) (c : Ctx) (fix : Option Nat) : Prop :=
  if f.md.getLsbD 7 then ∃ v, read32 s c.wk c.lead c.g.fs.c c.g.fs.btC = .ok v ∧ fix = some (v.bits.toNat % 256)
  else fix = none ∧ s.ringBusy (wkCore c.wk) (f.c.toNat % 64) = false

/-- Either FIX is set and its scale is read in C, or the ring in C is free. -/
theorem FixScale.scale_or_ring {f : BaseF} {s : State} {c : Ctx} {fix : Option Nat} (h : FixScale f s c fix) :
    (f.md.getLsbD 7 = true ∧ ∃ w, leadRead s c c.g.fs.c c.g.fs.btC = .ok w ∧ fix = some (w.toNat % 256))
      ∨ (f.md.getLsbD 7 = false ∧ fix = none ∧ s.ringBusy (wkCore c.wk) (f.c.toNat % 64) = false) := by
  unfold FixScale at h
  split at h
  · next hmd =>
    obtain ⟨v, hv, hfix⟩ := h
    exact .inl ⟨hmd, v.bits, leadRead_ok hv, hfix⟩
  · next hmd => exact .inr ⟨Bool.eq_false_of_not_eq_true hmd, h⟩

/-- A ring that QNT records in is free (R60). -/
theorem FixScale.free {f : BaseF} {s : State} {c : Ctx} {fix : Option Nat} (h : FixScale f s c fix) :
    (fix.isNone && s.ringBusy (wkCore c.wk) (f.c.toNat % 64)) = false := by
  obtain ⟨-, w, -, rfl⟩ | ⟨-, -, hfree⟩ := h.scale_or_ring
  · rfl
  · rw [hfree, Bool.and_false]

/-- A QNT that reads its offset, its scale and every lane's values waits for no register. -/
theorem qntWaits_reads {f : BaseF} {s : State} {c : Ctx} {x : Nat → Srcs} {o : Nat} {fix : Option Nat} (hb : BlockAt s c o)
    (hr : Reads s c.onlyB x) (hfix : FixScale f s c fix) : qntWaits f s c = false := by
  obtain ⟨w, hw, -⟩ := hb.offset
  have hscale : (f.md.getLsbD 7 && (leadRead s c c.g.fs.c c.g.fs.btC).blocks) = false := by
    obtain ⟨-, v, hv, -⟩ | ⟨hmd, -, -⟩ := hfix.scale_or_ring
    · rw [hv]; exact Bool.and_false _
    · rw [hmd]; rfl
  have hlanes : (c.active.any fun l => (readSrcs s c.wk l c.onlyB.g).blocks) = false :=
    List.any_eq_false.2 fun l hl => ne_true_of_eq_false (readSrcs_blocks (hr l hl))
  rw [qntWaits, hw, hscale, hlanes]
  rfl

/-- QNT goes on with its block and its scale. -/
theorem exec_qnt {f : BaseF} {s t : State} {c : Ctx} {x : Nat → Srcs} {o : Nat} {fix : Option Nat} {r : Nat → LaneRes}
    (h : Issues s (.qnt f) c) (hb : BlockAt s c o) (hr : Reads s c.onlyB x) (hfix : FixScale f s c fix)
    (hbody : qntBody f s c o fix = (t, c.active.map fun l => (l, .ok (r l)))) : exec (.qnt f) s = .next (Ended t (.qnt f) c r) := by
  change execQnt f s = _
  refine issue_ended h ?_
  simp only [qntWaits_reads hb hr hfix, Bool.false_eq_true, if_false, leadBlock_at hb]
  obtain ⟨hmd, w, hw, rfl⟩ | ⟨hmd, rfl, -⟩ := hfix.scale_or_ring
  · simp only [hmd, if_true, hw]
    exact hbody
  · simp only [hmd, Bool.false_eq_true, if_false]
    exact hbody

end Sys2Proof.Machine

open Sys2Proof Sys2Proof.Machine

/-- Settles O27: the operands read make the bundle wait for nothing, so every active lane takes part and none faults; a free ring is acted on at
once. -/
theorem blockResults : Obligations.BlockResults := by
  unfold Obligations.BlockResults
  intro free block onlyB
  refine ⟨?_, ?_, ?_, ?_, ?_, ?_⟩
  · intro f s c x o fix h hb hr hfix
    refine exec_qnt h hb hr hfix ?_
    simp only [qntBody, FixScale.free (f := f) hfix, Bool.false_eq_true, if_false, readLanes_onlyB h hr, splitReads_ok,
      h.participants x, List.nil_append, List.map_map]
    rfl
  · intro f s c x o h hb hr
    change execDqnt f s = _
    refine issue_ended h ?_
    simp only [leadBlock_at hb, readLanes_onlyB h hr, List.map_map]
    rfl
  · intro f s c x h hr hfree
    exact (issue_ringBody h hfree _).trans (issue_alu h hr fun _ _ => rfl)
  · intro f s c x h hr hfree
    refine (issue_ringBody h hfree _).trans (issue_ended h ?_)
    simp only [hr.lanes h, splitReads_ok, h.participants x, Bool.false_eq_true, if_false, List.nil_append, List.map_map]
    rfl
  · exact fun f s c h hfree => exec_amxcmt h hfree
  · exact fun f s c h hfree => exec_amxclr h hfree
end

section
/-! ## Launching (R69, R77–R88, R309, R407, R408) -/

namespace Sys2Proof.Machine

/-! ### Submission pages and pending grids -/

@[simp] theorem State.pageOf_setPage_self (s : State) (p : Nat) (v : Page) : (s.setPage p v).pageOf p = v :=
  tget_tput_self ..

@[simp] theorem State.pageOf_of_send (s : State) (x : Packet) (p : Nat) : (s.send x).pageOf p = s.pageOf p := rfl
@[simp] theorem State.pageOf_of_wake (s : State) (p : Nat) : s.wake.pageOf p = s.pageOf p := rfl

@[simp] theorem tfind_tdel_self {α : Type} (t : Tab α) (k : Nat) : tfind (tdel t k) k = none := by
  rw [tfind_tdel, if_pos rfl]

/-- Noting the cycle in which a grid becomes ready changes nothing else of it. -/
theorem readyNow_eq (s : State) (g : Grid) : readyNow s g = { g with ready := (readyNow s g).ready } := by
  unfold readyNow
  split <;> rfl

/-- A pending grid that is put back is found under its number, as it was but for its ready cycle. -/
theorem tfind_setGrid (s : State) (g : Grid) :
    tfind (s.setGrid g).grids g.num.toNat = some { g with ready := (readyNow s g).ready } :=
  (tfind_tset_self ..).trans (congrArg some (readyNow_eq s g))

/-! ### The descriptor and the submission (R69, R77) -/

/-- The dwords of a descriptor that fail no check of R69 keep its team within what a core holds. -/
theorem descCode_none {d : List Word} (h : descCode d = none) :
    1 ≤ dWpt d ∧ dWpt d ≤ 32 ∧ 8 ≤ dEfd d ∧ dEfd d ≤ dFmax d ∧ dFmax d ≤ 192 ∧ dScrk d ≤ 768 := by
  unfold descCode at h
  split_ifs at h with _ _ hsize hframe
  simp only [Bool.or_eq_true, decide_eq_true_eq] at hsize hframe
  omega

section
variable {s : State} {page : Nat} {rec : List Word} (hlen : rec.length = 8)
include hlen

/-- A record submitted to an enabled page with room enters its queue. -/
theorem execSubmitDmwr_entered (hen : (s.pageOf page).en = true) (hroom : (s.pageOf page).recs.length < 64)
    (hver : bits (rec.getD 0 0) 7 0 = 1) :
    execSubmitDmwr page rec s = .next ((s.setPage page { s.pageOf page with recs := (s.pageOf page).recs ++ [rec] }).send
      (.submit page true)).wake := by
  simp only [execSubmitDmwr, hlen, hen, Nat.not_le.2 hroom, hver, ne_eq, not_true_eq_false, decide_false, Bool.or_self, Bool.not_true,
    Bool.false_eq_true, if_false]

/-- A record submitted to an enabled page that is full is sent back. -/
theorem execSubmitDmwr_full (hen : (s.pageOf page).en = true) (hfull : 64 ≤ (s.pageOf page).recs.length) :
    execSubmitDmwr page rec s = .next (s.send (.submit page false)) := by
  simp [execSubmitDmwr, hlen, hen, hfull]

/-- A record submitted to a page that is not enabled is refused. -/
theorem execSubmitDmwr_refused (hen : (s.pageOf page).en = false) :
    execSubmitDmwr page rec s = .next ((s.setPage page { s.pageOf page with badw := true }).send (.submitUR page)) := by
  simp [execSubmitDmwr, hlen, hen]

end

/-! ### The leader's launch (R85, R309) -/

section
variable {s t : State} {wk l : Nat} {x : Srcs} {ind : Bool}

/-- A launch whose walk has ended without a fault gives the status that its end gives. -/
theorem launchLane_walked {w : Walk} {d p : List Word} {v : Word} (hw : launchWalk s wk l = some (w, d, p)) (he : w.ended = true)
    (hf : w.fault = none) (hr : runTry s (whoLane s wk l) (fun st => launchEnd wk l w d p st (whoLane s wk l)) = (t, some (.ok v))) :
    launchLane ind s wk l x = (t, some (.ok v)) := by
  simp only [launchLane, hw, he, hf, hr, Bool.not_true, Bool.false_eq_true, if_false]
  rfl

/-- A launch that acceptance lets wait or rejects gives the status RETRY or REJECT, and its team has escaped. -/
theorem launchLane_declined {r : Verdict} {code : Byte} {desc : Option (List Word)} (hw : launchWalk s wk l = none)
    (hv : r = .retry ∧ code = 0 ∨ r = .reject code desc)
    (hr : runTry s (whoLane s wk l) (fun st => acceptance st (leaderOf st wk) x.av.bits [x.bv.bits, x.cv.bits] (some ind))
      = (t, some (.ok r))) :
    launchLane ind s wk l x = (t.escape (t.warp wk).team, some (.ok (launchStatus 0 code (if r = .retry then 1 else 2)))) := by
  obtain ⟨rfl, rfl⟩ | rfl := hv
  · simp only [launchLane, hw, hr, if_true]
  · simp only [launchLane, hw, hr, reduceCtorEq, if_false]

end

/-- A launch issued for the leader alone ends with the status that the leader's lane gives. -/
theorem issue_launch {s t : State} {i : Instr} {c : Ctx} {x : Srcs} {ind : Bool} {v : Word} (h : Issues s i c) (ha : c.active = [0])
    (hw : (s.warp c.wk).wix = 0) (hd : (s.teamOf c.wk).depth < 10) (hr : readAll s c.wk 0 c.g = .ok x)
    (hl : launchLane ind s c.wk 0 x = (t, some (.ok v))) :
    issue s i (launchBody ind) = .next (Ended t i c fun _ => .value (Val.int v)) := by
  have hlanes : c.lanes = [0] := h.lanes.trans ha
  have hread : readLanes s c [0] = .ok [(0, .ok x)] := readLanes_ok (x := fun _ => x) (by simpa using hr)
  refine issue_ended h ?_
  simp [launchBody, hlanes, ha, hw, Nat.not_le.2 hd, hread, hl, res, LaneRes.value]

/-! ### Taking a record (R79, R80, R439) -/

section
variable {s : State} {page : Nat} {rec : List Word} {r : List (List Word)} (hrec : (s.pageOf page).recs = rec :: r)
  (hp : pending s < 4096) (hen : (s.pageOf page).en = true) (hw : (s.pageOf page).pwld = true → s.pkg.tdisp = .run)
include hp hen hw

/-- Fewer than 4,096 grids are pending, the page is enabled and its world may be served. -/
theorem take_open : (decide (4096 ≤ pending s) || !(s.pageOf page).en || ((s.pageOf page).pwld && s.pkg.tdisp != .run)) = false := by
  have hsecure : ((s.pageOf page).pwld && s.pkg.tdisp != .run) = false := by
    cases h : (s.pageOf page).pwld
    · rfl
    · simp [hw h]
  simp [Nat.not_le.2 hp, hen, hsecure]

include hrec

/-- A record with a reserved field set is rejected with 0x02, without a completion record. -/
theorem execTake_reserved (hres : recReserved rec = true) : execTake page s = .next (lastReject (taken s page) page 0x02).wake := by
  simp only [execTake, hrec, take_open hp hen hw, hres, Bool.false_eq_true, if_false, if_true]

/-- A record whose grid passes acceptance leaves its page with the grid entered. -/
theorem execTake_accepted {s1 s2 s3 : State} {d : List Word} (hres : recReserved rec = false)
    (hf : s.fails.find? (fun y => y.who == (pageWho s page).who) = none)
    (ha : acceptance s (hostLauncher s (s.pageOf page).prealm (s.pageOf page).pwld) (rec.getD 1 0) [rec.getD 2 0, rec.getD 3 0] none
      = .ok s1 (some (.ok (.go d))))
    (hh : acceptHost s1 page (hostLauncher s (s.pageOf page).prealm (s.pageOf page).pwld) rec d (pageWho s page)
      = .ok s2 (some (.ok s3))) :
    execTake page s = .next (s3.unwait (pageWho s page).who).wake := by
  simp only [execTake, hrec, take_open hp hen hw, hres, Bool.false_eq_true, if_false]
  rw [runTry_value (s1 := s3) (r := .ok none) hf (by simp only [ha, hh, Acc.bind_ok])]

end

/-! ### What a pending grid waits for (R86, R87) -/

/-- How PRED_WATCH reads the record of a predecessor: its first dword is nonzero and owed no acknowledgement. -/
def readPred (s : State) (g : Grid) (ref : Word) (st : State) : Acc (Tried Unit) :=
  (refCheck st (gridLauncher s g) (dRealm g.desc) (dWld g.desc) ref 8 64 [rR]).bind fun a c =>
    match c with
    | .stall => .ok a none
    | .fault .. => .ok a (some (.error .poison))
    | .ok p => (pocDwords a p.addr 1).bind fun b v =>
      .ok b (if v.getD 0 0 != 0 && (linesOf p.addr 8).all b.noAcks then some (.ok ()) else none)

/-- A grid's link to a predecessor whose record has been read as written is satisfied. -/
theorem execPredWatch_read {s s1 : State} {grid which : Nat} {g : Grid} {ref : Word} (hg : tfind s.grids grid = some g)
    (hp : g.preds[which]? = some (ref, false)) (hc : g.code = none)
    (hr : runTry s (dispWho s g.num) (readPred s g ref) = (s1, some (.ok ()))) :
    execPredWatch grid which s = .next (s1.setGrid { g with preds := g.preds.set which (ref, true) }).wake := by
  simp only [execPredWatch, hg, hp, hc, Option.isSome_none, Bool.false_eq_true, if_false]
  -- the named read is the model's own only once its match is unfolded
  erw [hr]

/-- How COUNT_READ reads the count of a grid. -/
def readCount (s : State) (g : Grid) (st : State) : Acc (Tried (Option Nat)) :=
  (refCheck st (gridLauncher s g) (dRealm g.desc) (dWld g.desc) (dCount g.desc) 4 4 [rR]).bind fun a c =>
    match c with
    | .stall => .ok a none
    | .fault .. => .ok a (some (.ok none))
    | .ok p => (pocRead a p.addr 4).bind fun b v => .ok b (some (.ok (some (ofBytes v))))

/-- A grid whose predecessors have completed takes the count that has been read. -/
theorem execCountRead_read {s s1 : State} {grid n : Nat} {g : Grid} (hg : tfind s.grids grid = some g)
    (hp : ∀ e ∈ g.preds, e.2 = true) (hn : g.count = none) (hc : g.code = none)
    (hr : runTry s (dispWho s g.num) (readCount s g) = (s1, some (.ok (some n)))) :
    execCountRead grid s = .next (s1.setGrid { g with count := some n }).wake := by
  have hall : g.preds.all (·.2) = true := List.all_eq_true.2 hp
  simp only [execCountRead, hg, hall, hn, hc, Option.isSome_none, Bool.not_true, Bool.or_false, Bool.false_eq_true, if_false]
  -- the named read is the model's own only once its match is unfolded
  erw [hr]

/-! ### Completion (R366, R408) -/

theorem postIrq_out (s : State) (a : Word) (d : BitVec 32) : (postIrq s a d).out = s.out ++ [.irq a d] := by
  unfold postIrq
  split <;> rfl

/-- A grid that leaves the pending state is found no more. -/
theorem leavePending_grids (s : State) (g : Grid) (b : Bool) : tfind (leavePending s g b).grids g.num.toNat = none := by
  cases h : g.parent <;> simp only [leavePending, h] <;> exact tfind_tdel_self ..

/-- The interrupt of a grid is posted once its record is written. -/
theorem leavePending_out (s : State) (g : Grid) :
    (leavePending s g true).out = s.out ++ (if g.uint then [.irq g.uiaddr g.uidata] else []) := by
  have hirq : (if g.uint && true then postIrq s g.uiaddr g.uidata else s).out =
      s.out ++ (if g.uint then [.irq g.uiaddr g.uidata] else []) := by
    cases g.uint
    · exact (List.append_nil _).symm
    · exact postIrq_out ..
  cases h : g.parent <;> simp only [leavePending, h] <;> exact hirq

/-- A grid that is over leaves the pending state once its record is written. -/
theorem execGridComplete_written {s s1 : State} {grid : Nat} {g : Grid} (hg : tfind s.grids grid = some g) (ho : g.isOver = true)
    (hr : runTry s (dispWho s g.num) (fun st => putRecord st (gridLauncher st g) (dispWho s g.num) g.desc (gridRecord g))
      = (s1, some (.ok true))) :
    execGridComplete grid s = .next (leavePending s1 g true).wake := by
  simp only [execGridComplete, hg, ho, hr, Bool.not_true, Bool.false_eq_true, if_false]

/-- The first dword of the record of a grid none of whose teams was killed: its number and status 1 (R407). -/
theorem gridRecord_clean {g : Grid} (hc : g.code = none) (hk : g.nkill = 0) : (gridRecord g).headD 0 = g.num ++ 1#32 := by
  have hnum := g.num.isLt
  have hdword : (g.num ++ 1#32).toNat = g.num.toNat * 2 ^ 32 + 1 := by
    rw [BitVec.toNat_append, ← Nat.shiftLeft_add_eq_or_of_lt (by decide), Nat.shiftLeft_eq]
    rfl
  apply BitVec.eq_of_toNat_eq
  rw [hdword]
  simp [gridRecord, hc, hk]
  omega

end Sys2Proof.Machine

open Sys2Proof Sys2Proof.Machine

/-- Settles O43: the leader's lane gives the launch its status; a page, a pending grid and the outbox are read back as each event
wrote them. -/
theorem launchResults : Obligations.LaunchResults := by
  unfold Obligations.LaunchResults
  intro leader launch
  have ends : ∀ (con : SyF → Instr) (ind : Bool), (∀ f s, exec (con f) s = issue s (con f) (launchBody ind)) → launch con ind := by
    rintro con ind he f s c x h ⟨ha, hw, hd, hr⟩
    rw [he]
    exact ⟨fun _ _ _ _ _ hwalk hended hfault hend => issue_launch h ha hw hd hr (launchLane_walked hwalk hended hfault hend),
      fun _ _ _ _ hwalk hv hacc => issue_launch h ha hw hd hr (launchLane_declined hwalk hv hacc)⟩
  refine ⟨ends _ _ fun _ _ => rfl, ends _ _ fun _ _ => rfl, ?_, ?_, ?_, ?_, ?_, ?_, ?_, ?_, ?_⟩
  · intro s ln d preds rec sp ar
    obtain ⟨core, realm, wld, _ | tk⟩ := ln <;>
      exact ⟨_, (tfind_tset_self ..).trans (congrArg some (readyNow_eq s _)), rfl, rfl, rfl, rfl, rfl, rfl, rfl, rfl, rfl⟩
  · exact fun d => ⟨fun hver => if_pos hver, fun hver hres => by simp [descCode, hver, hres], descCode_none⟩
  · intro s page rec hlen p
    refine ⟨fun hen hroom hver => ⟨_, execSubmitDmwr_entered hlen hen hroom hver, ?_, rfl, rfl⟩, execSubmitDmwr_full hlen,
      fun hen => ⟨_, execSubmitDmwr_refused hlen hen, ?_, ?_, rfl⟩⟩ <;> simp [p]
  · exact fun s page => ⟨_, rfl, by simp, by simp, rfl⟩
  · intro s page rec r hrec hp hen hw ln h
    refine ⟨fun hres => ⟨_, execTake_reserved hrec hp hen hw hres, ?_⟩, fun s1 d s2 s3 => execTake_accepted hrec hp hen hw⟩
    simp [lastReject, taken, hrec]
  · intro s grid which g ref s1 hg hp hc hr
    exact ⟨_, _, execPredWatch_read hg hp hc hr, tfind_setGrid .., rfl, hc⟩
  · intro s grid g s1 n hg hp hcount hc hr
    exact ⟨_, _, execCountRead_read hg hp hcount hc hr, tfind_setGrid .., rfl⟩
  · intro s grid g s1 hg ho hr
    exact ⟨_, execGridComplete_written hg ho hr, leavePending_grids .., leavePending_out ..⟩
  · exact fun g hc hk => ⟨gridRecord_clean hc hk, rfl⟩
end

section
/-! ## Placement and retirement of teams (R73, R89–R99, R404, R405) -/

namespace Sys2Proof.Machine

/-! ### The dealing rule (R89) -/

/-- The first team of a series that goes to position m goes there: from position g on, m is that many positions ahead. -/
theorem dealt_first_mod {n p g m : Nat} (hm : m < p) : (g + (dealt n p g m).1) % p = m := by
  have hg : g % p < p := Nat.mod_lt g (Nat.zero_lt_of_lt hm)
  have hdiv := Nat.div_add_mod g p
  calc (g + (m + p - g % p) % p) % p
    _ = (g + (m + p - g % p)) % p := Nat.add_mod_mod ..
    _ = (m + p * (g / p + 1)) % p := by rw [Nat.mul_succ]; congr 1; omega
    _ = m := by rw [Nat.add_mul_mod_self_left, Nat.mod_eq_of_lt hm]

theorem dealt_first_lt {n p g m : Nat} (hm : m < p) : (dealt n p g m).1 < p := Nat.mod_lt _ (Nat.zero_lt_of_lt hm)

/-- A team k below n that is congruent to the first team of a position is among those dealt to it. -/
theorem lt_dealt_count {n p g m k : Nat} (hm : m < p) (hk : k < n) (hmod : k % p = (dealt n p g m).1) : k / p < (dealt n p g m).2 := by
  have hp : 0 < p := Nat.zero_lt_of_lt hm
  have hdiv := Nat.div_add_mod k p
  have hle : (dealt n p g m).1 ≤ k := hmod ▸ Nat.mod_le k p
  have hcount : (dealt n p g m).2 = (n - (dealt n p g m).1 + p - 1) / p := if_pos (lt_of_le_of_lt hle hk)
  rw [hcount, ← Nat.add_one_le_iff, Nat.le_div_iff_mul_le hp, Nat.succ_mul, Nat.mul_comm]
  omega

/-- Team k of n goes to position m iff it is one of the teams that the dealing gives to m. -/
theorem dealt_iff {n p g m k : Nat} (hm : m < p) (hk : k < n) :
    (g + k) % p = m ↔ ∃ j < (dealt n p g m).2, k = (dealt n p g m).1 + p * j := by
  have hfirst := dealt_first_mod (n := n) (g := g) hm
  have hlt := dealt_first_lt (n := n) (g := g) hm
  constructor
  · intro h
    have hmod : k % p = (dealt n p g m).1 :=
      (Nat.ModEq.add_left_cancel' g (h.trans hfirst.symm : g + k ≡ g + (dealt n p g m).1 [MOD p])).trans (Nat.mod_eq_of_lt hlt)
    exact ⟨k / p, lt_dealt_count hm hk hmod, by rw [← hmod, Nat.mod_add_div]⟩
  · rintro ⟨j, -, rfl⟩
    rw [← Nat.add_assoc, Nat.add_mul_mod_self_left, hfirst]

/-- DEAL deals a ready grid that comes next as one series from its first team on (R89, R91). -/
theorem execDeal_next {s : State} {grid n : Nat} {g : Grid} (hg : tfind s.grids grid = some g) (hn : g.count = some (n + 1))
    (hr : g.isReady = true) (hd : g.dealt = false) (hnext : dealsNext s g = true) :
    execDeal grid s = .next (wakeCores (dealOut (s.setGrid { g with dealt := true }) { g with dealt := true }
      { grid := g.num, pri := dPri g.desc, aff := dAff g.desc, first := 0, n := n + 1, stride := 1, saved := none })).wake := by
  simp only [execDeal, hg, hn, hr, hd, hnext, Bool.not_true, Bool.or_self, Bool.false_eq_true, if_false]

/-! ### Queues and stealing (R92, R95, R96, R437) -/

/-- A run entered in a queue stands in it, and the runs that stood there stay. -/
theorem mem_queueTail (q : List Run) (r : Run) : r ∈ queueTail q r ∧ ∀ x ∈ q, x ∈ queueTail q r := by
  constructor
  · simp [queueTail]
  · intro x hx
    rcases Nat.lt_or_ge x.pri r.pri with h | h <;> simp [queueTail, hx, h]

/-- With no run held in the dispatcher none enters a queue. -/
theorem drainBack_none {s : State} (h : s.back = []) : drainBack s = s := by rw [drainBack, h, List.foldl_nil]

@[simp] theorem drainBack_teams (s : State) : (drainBack s).teams = s.teams := by
  refine foldl_unobserved _ State.teams s fun st e _ => ?_
  split <;> rfl

/-- An idle core that may try draws a number; its own is no victim. -/
theorem execIdleSteal_draws {s : State} {core : Nat} (h32 : core < 32) (hoff : (s.core core).offline = false)
    (hdy : (s.core core).dying = false) (hq : (s.core core).queue = []) (hfree : 0 < freeSlots s core)
    (hsl : (s.core core).asleep = false) (ha : (s.core core).asked = none) (ht : (s.core core).tries < 4) :
    execIdleSteal core s = .next (s.modCore core fun k =>
      { k with xsh := xorshift (s.core core).xsh
               asked := if (xorshift (s.core core).xsh).toNat % 32 = core then none
                 else some ((xorshift (s.core core).xsh).toNat % 32) }).wake := by
  simp [execIdleSteal, Nat.not_le.2 h32, hoff, hdy, hq, hfree.ne', hsl, ha, Nat.not_le.2 ht]

section
variable {s : State} {thief victim : Nat} (ha : (s.core thief).asked = some victim) (hn : (s.core thief).answer = none)
include ha hn

/-- A victim with no run to give answers NONE. -/
theorem execStealRequest_none (hp : pickSteal s victim thief = none) :
    execStealRequest thief victim s = .next (s.modCore thief fun k => { k with answer := some none }).wake := by
  simp [execStealRequest, ha, hn, hp]

/-- A victim with a run to give keeps its lower part and answers with the rest. -/
theorem execStealRequest_some {r : Run} (hp : pickSteal s victim thief = some r) (hb : s.back = []) :
    execStealRequest thief victim s = .next ((s.modCore victim fun k =>
      { k with queue := if r.n - max 1 (r.n / 2) = 0 then k.queue.erase r
                 else k.queue.map fun x => if x = r then { r with n := r.n - max 1 (r.n / 2) } else x }).modCore thief fun k =>
      { k with answer := some (some { r with first := r.first + r.stride * (r.n - max 1 (r.n / 2)), n := max 1 (r.n / 2) }) }).wake := by
  simp only [execStealRequest, ha, hn, hp, ne_eq, not_true_eq_false, Option.isSome_none, decide_false, Bool.or_self, Bool.false_eq_true,
    if_false]
  rw [drainBack_none]
  exact hb

end

/-- A thief enters the run that it has been given at the tail of its class, with its idle loop afresh. -/
theorem execStealAnswer_run {s : State} {core : Nat} {r : Run} (h : (s.core core).answer = some (some r)) :
    ∃ t, execStealAnswer core s = .next t ∧ (t.core core).asked = none ∧ (t.core core).answer = none
      ∧ (t.core core).queue = queueTail (s.core core).queue r ∧ (t.core core).tries = 0 := by
  simp only [execStealAnswer, h]
  exact ⟨_, rfl, by simp [enqueue]⟩

/-- A thief that has been given nothing has made one try more, unless a run has come to it. -/
theorem execStealAnswer_none {s : State} {core : Nat} (h : (s.core core).answer = some none) :
    ∃ t, execStealAnswer core s = .next t ∧ (t.core core).asked = none ∧ (t.core core).answer = none
      ∧ (t.core core).queue = (s.core core).queue
      ∧ (t.core core).tries = if (s.core core).queue.isEmpty then (s.core core).tries + 1 else 0 := by
  simp only [execStealAnswer, h]
  refine ⟨_, rfl, ?_⟩
  split <;> simp

/-! ### Admission (R73, R94, R97–R99) -/

theorem State.team_entered {s : State} {m : Tab Team} {tk : Nat} {t : Team} (h : s.teams = tset m tk t) : s.team tk = t := by
  rw [State.team, h, tget_tset_self]

theorem State.frame_entered {s : State} {m : Tab Frame} {fk : Nat} {f : Frame} (h : s.frames = tset m fk f) : s.frame fk = f := by
  rw [State.frame, h, tget_tset_self]

theorem State.warp_entered {s : State} {m : Tab Warp} {wk : Nat} {w : Warp} (h : s.warps = tset m wk w) : s.warp wk = w := by
  rw [State.warp, h, tget_tset_self]

/-- Lanes of a warp that are set one after another to one value. -/
theorem lane_foldl_setLane {wk k m : Nat} {v : Lane} (hm : m < 32) : ∀ (ls : List Nat) (s : State), (∀ l ∈ ls, l < 32) →
    (ls.foldl (fun st l => st.setLane wk l v) s).lane k m = if wk = k ∧ m ∈ ls then v else s.lane k m
  | [], _, _ => by simp
  | l :: ls, s, h => by
    obtain ⟨hl, hls⟩ := List.forall_mem_cons.1 h
    rw [List.foldl_cons, lane_foldl_setLane hm ls _ hls, State.lane_setLane]
    by_cases hk : wk = k <;> by_cases hin : m ∈ ls <;> simp [lkOf_inj hl hm, hk, hin, eq_comm]

section
variable (d : List Word) (core base tk : Nat) (s : State) (w : Nat)

/-- Placing a warp puts its lanes into the entry state and leaves the lanes of other warps alone. -/
theorem lane_placeWarp {k m : Nat} (hm : m < 32) : (placeWarp d core base tk s w).lane k m =
    if freeWk s core ((base + w) % 4) = k then entryLane d s.uid else s.lane k m := by
  have hlanes : ∀ l ∈ upto 32, l < 32 := fun l hl => List.mem_range.1 hl
  unfold placeWarp
  rw [lane_foldl_setLane hm _ _ hlanes]
  simp only [upto, List.mem_range, hm, and_true]
  rfl

@[simp] theorem placeWarp_teams : (placeWarp d core base tk s w).teams = s.teams :=
  foldl_unobserved _ State.teams _ fun _ _ _ => rfl

/-- Placing a warp enters its entry frame (R73). -/
theorem placeWarp_frames : ∃ f, (placeWarp d core base tk s w).frames = tset s.frames s.uid f ∧ f.demand = dEfd d ∧ f.depth = 0
    ∧ f.loc = .resident (s.freeFid (core * 4 + (base + w) % 4)) ∧ f.regs = [] :=
  ⟨_, foldl_unobserved _ State.frames _ fun _ _ _ => rfl, rfl, rfl, rfl, rfl⟩

/-- Placing a warp takes the lowest free slot of its partition (R99). -/
theorem placeWarp_warps : ∃ x, (placeWarp d core base tk s w).warps = tset s.warps (freeWk s core ((base + w) % 4)) x ∧ x.team = tk
    ∧ x.wix = w ∧ x.hbase = dHbase d :=
  ⟨_, foldl_unobserved _ State.warps _ fun _ _ _ => rfl, rfl, rfl, rfl⟩

end

/-- Admission enters the team under a fresh key (R99). -/
theorem admitTeam_teams (s : State) (core : Nat) (g : Grid) (index : Nat) : ∃ t, (admitTeam s core g index).teams = tset s.teams s.uid t
    ∧ t.grid = g.num ∧ t.index = BitVec.ofNat 32 index ∧ t.core = core ∧ t.realm = dRealm g.desc ∧ t.wld = dWld g.desc
    ∧ t.gfmax = dFmax g.desc ∧ t.bphase = 0 ∧ t.rcc = 0 :=
  ⟨_, foldl_unobserved _ State.teams _ fun _ _ _ => placeWarp_teams .., rfl, rfl, rfl, rfl, rfl, rfl, rfl, rfl⟩

/-- The head team of a queue is admitted once the test of R97 has passed and the core has acquired. -/
theorem execAdmit_admits {s s1 : State} {core : Nat} {r : Run} {rest : List Run} {g : Grid} (hq : (s.core core).queue = r :: rest)
    (hg : tfind s.grids r.grid.toNat = some g) (hsv : r.saved = none) (hmay : mayAdmit s core = true)
    (hfit : failRows s core ⟨g.desc, g.num.toNat, r.first, List.replicate (dWpt g.desc) (granules (dEfd g.desc)), true⟩ none = [])
    (hacq : startAcquire s core = (s1, true)) :
    execAdmit core s = .next (drainBack ((admitTeam (dropOldCode s1 core g) core g r.first).modCore core fun c =>
      { c with queue := nextOfRun c.queue, lastAdm := some c.cycle.toNat })).wake := by
  simp only [execAdmit, hq, hg, hsv, hmay, hfit, hacq, Option.isSome_none, Bool.not_true, Bool.or_self, List.isEmpty_nil,
    Bool.false_eq_true, if_false]

/-! ### Retirement (R404, R405) -/

@[simp] theorem State.setGrid_teams (s : State) (g : Grid) : (s.setGrid g).teams = s.teams := rfl

@[simp] theorem dropPool_teams (s : State) (core realm : Nat) : (dropPool s core realm).teams = s.teams := by
  unfold dropPool
  split <;> rfl

/-- A team whose resources are released is no more. -/
theorem releaseTeam_teams (s : State) (tk : Nat) : tfind (releaseTeam s tk).teams tk = none := by
  rw [releaseTeam, dropPool_teams]
  exact tfind_tdel_self ..

/-- A team that has retired is no more. -/
theorem retireTeam_teams (s : State) (tk : Nat) (b : Bool) : tfind (retireTeam s tk b).teams tk = none := by
  have hgone := releaseTeam_teams (endPreempt s (s.team tk).core tk 1) tk
  cases b <;> simp only [retireTeam, Bool.false_eq_true, if_false, if_true] <;> split <;> simp only [State.setGrid_teams, hgone]

/-- A team that may retire does so once its release and the reset of its arena are done. -/
theorem execTeamRetire_done {s s1 s2 : State} {tk : Nat} {vs : List Nat} (hmay : mayRetire s tk = true)
    (hrel : endRelease s (retireWho s tk) tk = (s1, none))
    (hreset : runAcc s1 (retireWho s tk) (fun st => resetArena st (retireWho s tk) (st.team tk) false) = (s2, some (.ok vs))) :
    execTeamRetire tk s = .next (retireTeam s2 tk (!vs.isEmpty)).wake := by
  simp only [execTeamRetire, hmay, hrel, hreset, Bool.not_true, Bool.false_eq_true, if_false]

end Sys2Proof.Machine

open Sys2Proof Sys2Proof.Machine

/-- Settles O44: the teams dealt to a position are those congruent to its first modulo the positions; cores and tables are read back as each
event wrote them. -/
theorem placementResults : Obligations.PlacementResults := by
  unfold Obligations.PlacementResults
  refine ⟨?_, ?_, ?_, ?_, ?_, mem_queueTail, ?_, ?_, ?_⟩
  · exact fun s grid g n => execDeal_next
  · exact fun n p g m k => dealt_iff
  · intro s core h32 c hoff hdy hq hfree hsl ha ht v
    refine ⟨_, execIdleSteal_draws h32 hoff hdy hq hfree hsl ha ht, ?_, ?_, fun k hk =>
      (State.core_of_wake ..).trans (State.core_modCore_ne s _ hk.symm)⟩ <;> simp [v, c]
  · intro s thief victim hne ha hn
    refine ⟨fun hp => ⟨_, execStealRequest_none ha hn hp, ?_, (State.core_of_wake ..).trans (State.core_modCore_ne s _ hne)⟩,
      fun r hp hb => ⟨_, execStealRequest_some ha hn hp hb, ?_, fun hmany => ?_⟩⟩
    · simp
    · simp
    · have hkeep : r.n - max 1 (r.n / 2) ≠ 0 := by omega
      simp [State.core_modCore_ne _ _ hne, hkeep]
  · rintro s core (_ | r) ha
    · obtain ⟨t, ht, hasked, hanswer, hqueue, htries⟩ := execStealAnswer_none ha
      exact ⟨t, ht, hasked, hanswer, fun _ hr => absurd hr (Option.some_ne_none _).symm, fun _ => ⟨hqueue, htries⟩⟩
    · obtain ⟨t, ht, hasked, hanswer, hqueue, htries⟩ := execStealAnswer_run ha
      refine ⟨t, ht, hasked, hanswer, fun x hx => ?_, fun hx => absurd hx (Option.some_ne_none r)⟩
      obtain rfl := Option.some.inj hx
      exact ⟨hqueue, htries⟩
  · intro s core r rest g s1 hq hg hsv hmay hfit hacq
    obtain ⟨t, ht, hgrid, hindex, hcore, hrealm, hwld, hmax, hbphase, hrcc⟩ := admitTeam_teams (dropOldCode s1 core g) core g r.first
    refine ⟨_, execAdmit_admits hq hg hsv hmay hfit hacq, ?_⟩
    intro u
    have hu : u = t := State.team_entered ((drainBack_teams _).trans ht)
    rw [hu]
    exact ⟨hgrid, hindex, hcore, hrealm, hwld, hmax, hbphase, hrcc⟩
  · intro d core base tk s w l hl p wk t
    have hlane : t.lane wk l = entryLane d s.uid := (lane_placeWarp d core base tk s w hl).trans (if_pos rfl)
    obtain ⟨f, hf, hdemand, hdepth, hloc, hregs⟩ := placeWarp_frames d core base tk s w
    obtain ⟨x, hx, hteam, hwix, hhbase⟩ := placeWarp_warps d core base tk s w
    have hframe : t.frameOf wk l = f := by
      rw [State.frameOf, hlane]
      exact State.frame_entered hf
    have hwarp : t.warp wk = x := State.warp_entered hx
    rw [hlane, hframe, hwarp]
    refine ⟨rfl, rfl, rfl, rfl, rfl, rfl, ?_, hdemand, hdepth, hloc, fun n => ?_, hteam, hwix, hhbase, fun k m hm hk =>
      (lane_placeWarp d core base tk s w hm).trans (if_neg hk.symm)⟩
    · rw [entryLane, Lane.getG]
      split <;> rfl
    · rw [Frame.reg, hregs]
      rfl
  · exact fun s tk s1 s2 vs hmay hrel hreset => ⟨execTeamRetire_done hmay hrel hreset, retireTeam_teams ..⟩
end

section
/-! ## Boot, the trusted interface, health and power (R76, R434, R435, R437, R439–R443) -/

namespace Sys2Proof.Machine

/-! ### The image and its verification (R434, R435) -/

/-- The image buffer takes writes, and GO starts a verification, while an image is awaited or has failed. -/
theorem takesImage_iff {s : State} :
    takesImage s = true ↔ s.pkg.power = true ∧ (s.pkg.fwst = .waitImage ∨ s.pkg.fwst = .failed) := by
  simp [takesImage]

/-- An image is accepted when its form, its key, its signature and its security version all pass. -/
theorem imageFault_eq_none {s : State} : imageFault s = none ↔ 1 ≤ s.pkg.fwlen.toNat ∧ s.pkg.fwlen.toNat ≤ 4096
    ∧ 64 + bodyLen s + 97 + 96 ≤ s.pkg.fwlen.toNat * 1024 ∧ imageBytes s 0 1 = [1]
    ∧ sha384 (imageBytes s (64 + bodyLen s) 97) = Config.keyDigest
    ∧ ecdsaVerify (imageBytes s 0 (64 + bodyLen s + 97)) (imageBytes s (64 + bodyLen s) 97)
        (imageBytes s (64 + bodyLen s + 97) 96) = true
    ∧ Config.minSvn.toNat ≤ (tget s.pkg.image 1 0).toNat := by
  have hchain : ∀ (p : Prop) [Decidable p] (c : Byte) (r : Option Byte), (if p then some c else r) = none ↔ ¬p ∧ r = none := by
    intro p _ c r
    split <;> simp [*]
  simp only [imageFault, hchain, Bool.or_eq_true, decide_eq_true_eq, not_or, not_lt, ne_eq, not_not, Bool.not_eq_true',
    Bool.not_eq_false, and_assoc, and_true]

/-! ### The initialisation (R434 steps 4 and 5) -/

/-- The parts of the state that the training of a port leaves alone. -/
def State.untrained (s : State) : Pkg × Mem × Tab Byte := (s.pkg, s.hbm, s.selPg)

theorem untrained_trainPort (s : State) (n peer ver : Nat) : (trainPort s n peer ver).untrained = s.untrained := by
  unfold trainPort
  dsimp only
  split <;> rfl

/-- A port that is down, with a lane that passes, comes up with a neighbour that offers a version (R353, R354). -/
theorem port_trainPort {s : State} {n peer ver : Nat} (hn : n < 36) (hdown : (s.port n).up = false) (hpick : (s.port n).pick ≠ 0)
    (hver : ver ≠ 0) :
    (trainPort s n peer ver).port n = { s.port n with up := true, peer := some peer, tlv := 1, width := (s.port n).pick, rtrn := false
                                                      hbl := false, heard := s.usec, sent := s.usec } := by
  simp only [trainPort, Nat.not_le.2 hn, hdown, hpick, hver, decide_false, Bool.or_self, Bool.false_eq_true, if_false]
  exact tget_tput_self ..

/-- Writing the routing table changes nothing else of the package. -/
theorem putRoute_eq (p : Pkg) (a : Nat) (w : Word) : p.putRoute a w = { p with routes := (p.putRoute a w).routes } := by
  unfold Pkg.putRoute
  split <;> rfl

section
variable (s : State) (up : BringUp)

theorem untrained_links : (up.links.foldl (fun st e => trainPort st e.1 e.2.1 e.2.2) s).untrained = s.untrained :=
  foldl_unobserved _ State.untrained _ fun st _ _ => untrained_trainPort st ..

theorem bringUp_fwst : (bringUp s up).pkg.fwst = .ready := rfl

theorem bringUp_hbm : (bringUp s up).hbm = s.hbm := congrArg (·.2.1) (untrained_links s up)

theorem bringUp_selPg : (bringUp s up).selPg = s.selPg := congrArg (·.2.2) (untrained_links s up)

theorem bringUp_agent : (bringUp s up).pkg.agent = s.pkg.agent := by
  have hroutes : ∀ p : Pkg, (up.routes.foldl (fun p e => p.putRoute e.1 e.2) p).agent = p.agent := fun p =>
    foldl_unobserved _ Pkg.agent p fun q e _ => by rw [putRoute_eq]
  exact (hroutes _).trans (congrArg (·.1.agent) (untrained_links s up))

variable {s up}

theorem bringUp_port {n peer ver : Nat} (h : up.links = [(n, peer, ver)]) : (bringUp s up).port n = (trainPort s n peer ver).port n := by
  simp only [bringUp, h, List.foldl_cons, List.foldl_nil]
  rfl

theorem bringUp_route {a : Nat} {w : Word} (h : up.routes = [(a, w)]) (ha : a < 1058) :
    (bringUp s up).route a = w &&& ~~~(BitVec.ofNat 64 (511 * 2 ^ 54)) := by
  simp only [bringUp, State.route, h, List.foldl_cons, List.foldl_nil, Pkg.putRoute, if_pos ha]
  exact tget_tput_self ..

end

/-- With the memory trained, the fabric is brought up over cleared memory and the configuration block's agent id. -/
theorem execInitDone_trained {s : State} {up : BringUp} (hinit : s.pkg.fwst = .init) (htrained : up.trained = true) :
    ∃ t, execInitDone up s = .next (bringUp t up).wake ∧ t.hbm = {} ∧ t.selPg = []
      ∧ t.pkg.agent = (Config.configBlock (imageBytes s 64 (bodyLen s))).agent ∧ t.ports = s.ports ∧ t.usec = s.usec := by
  simp only [execInitDone, hinit, htrained, ne_eq, not_true_eq_false, if_false, Bool.not_true, Bool.false_eq_true]
  refine ⟨_, rfl, ?_, ?_, ?_, ?_, ?_⟩
  · exact foldl_unobserved _ State.hbm _ fun _ _ _ => rfl
  · exact foldl_unobserved _ State.selPg _ fun _ _ _ => rfl
  · exact foldl_unobserved _ (fun st : State => st.pkg.agent) _ fun _ _ _ => rfl
  · exact foldl_unobserved _ State.ports _ fun _ _ _ => rfl
  · exact foldl_unobserved _ State.usec _ fun _ _ _ => rfl

/-! ### The trusted interface (R439) -/

/-- A page is bound while the package is ready and its interface unlocked. -/
theorem execSubmissionPageBind_unlocked {s : State} {page realm : Nat} {wld : Bool} (h0 : realm ≠ 0) (hlt : realm < 4096)
    (hready : s.pkg.fwst = .ready) (hopen : s.pkg.tdisp = .unlocked) :
    execSubmissionPageBind page realm wld s = .next (s.setPage page
      { en := true, badw := (s.pageOf page).badw, taken := 0, lrseq := 0, lrcode := 0, prealm := realm, pwld := wld, recs := [] }).wake := by
  simp [execSubmissionPageBind, frozenWrite, h0, Nat.not_le.2 hlt, hready, hopen]

/-- What a table keeps under a key, after a filter that looks at keys alone. -/
theorem tfind_filter_key {α : Type} (t : Tab α) (p : Nat → Bool) (k : Nat) :
    tfind (t.filter fun e => p e.1) k = if p k then tfind t k else none := by
  induction t with
  | nil => simp [tfind]
  | cons e r ih =>
    obtain ⟨j, v⟩ := e
    by_cases hj : j = k
    · subst hj
      cases hp : p j <;> simp [tfind, hp, ih]
    · cases hp : p j <;> simp [tfind, hp, hj, ih]

/-- The bytes of the secure region read 0 once it has been zeroed. -/
theorem zeroSecure_byte {s : State} {a : Nat} (hlo : s.pkg.secBase * 2 ^ 30 ≤ a) (hhi : a < s.pkg.secLim * 2 ^ 30) :
    (zeroSecure s).hbm.byte a = 0 := by
  have hin : ¬(decide (1 * a < s.pkg.secBase * 2 ^ 30) || decide (s.pkg.secLim * 2 ^ 30 ≤ 1 * a)) = true := by
    simp only [Bool.or_eq_true, decide_eq_true_eq]
    omega
  have hgone : tfind (zeroSecure s).hbm.bytes a = none := by
    simp only [zeroSecure]
    exact (tfind_filter_key s.hbm.bytes (fun u => decide (1 * u < s.pkg.secBase * 2 ^ 30) || decide (s.pkg.secLim * 2 ^ 30 ≤ 1 * u))
      a).trans (if_neg hin)
  rw [Mem.byte, tget, hgone]
  rfl

/-- The zeroing of the arenas of secure grids, as a stop asks for it. -/
def stopZeroing (s : State) : State × Tried Unit :=
  runAcc s (ocposanWho s) fun st => zeroArenas st (ocposanWho s) ((st.grids.map (·.2)).filter fun g => dWld g.desc)

section
variable {s s1 : State} (hlocked : s.pkg.tdisp ≠ .unlocked) (hheld : secureHeld s = [])
include hlocked hheld

/-- A stop waits while lines of the secure region are on their way back. -/
theorem execStopInterfaceRequest_busy (hbusy : secureBusy s = true) :
    execStopInterfaceRequest s = .next { s with pkg := { s.pkg with stopping := true } } := by
  simp only [execStopInterfaceRequest, hlocked, hheld, hbusy, List.foldl_nil, if_false, if_true]

variable (hidle : secureBusy s = false)
include hidle

/-- A stop unlocks the interface once the arenas and the secure region have been zeroed. -/
theorem execStopInterfaceRequest_zeroed (hz : stopZeroing s = (s1, some (.ok ()))) :
    execStopInterfaceRequest s = .next { zeroSecure s1 with
      pkg := { s1.pkg with stopping := false, tdisp := .unlocked } }.wake := by
  unfold stopZeroing at hz
  simp only [execStopInterfaceRequest, hlocked, hheld, hidle, hz, List.foldl_nil, if_false, Bool.false_eq_true]
  rfl

/-- A stop that cannot zero an arena is answered with an error. -/
theorem execStopInterfaceRequest_refused {e : RemoteFail} (hz : stopZeroing s = (s1, some (.error e))) :
    execStopInterfaceRequest s = tdispError { s1 with pkg := { s1.pkg with stopping := false } } := by
  unfold stopZeroing at hz
  simp only [execStopInterfaceRequest, hlocked, hheld, hidle, hz, List.foldl_nil, if_false, Bool.false_eq_true]

end

/-! ### Health (R440–R442) -/

section
variable (s : State)

/-- The latest 1,025 corrected errors, with one that comes now. -/
theorem corrected_count : ((s.usec :: s.pkg.corrT).take 1025).length = min 1025 (s.pkg.corrT.length + 1) := by
  rw [List.length_take, List.length_cons]

/-- With fewer than 1,024 before it, a corrected error asks for no replacement. -/
theorem execCorrectedError_few (h : s.pkg.corrT.length < 1024) :
    execCorrectedError s = .next { s with pkg := { s.pkg with
      corr := s.pkg.corr + 1, corrT := (s.usec :: s.pkg.corrT).take 1025 } }.wake := by
  have hlen : ((s.usec :: s.pkg.corrT).take 1025).length ≠ 1025 := by rw [corrected_count]; omega
  simp only [execCorrectedError, beq_eq_false_iff_ne.2 hlen, Bool.false_and, Bool.or_false]

/-- A corrected error within an hour of the 1,024th before it asks for a replacement. -/
theorem execCorrectedError_many (h : 1024 ≤ s.pkg.corrT.length) (ht : s.usec ≤ s.pkg.corrT.getD 1023 0 + 3600000000) :
    execCorrectedError s = .next { s with pkg := { s.pkg with
      corr := s.pkg.corr + 1, corrT := (s.usec :: s.pkg.corrT).take 1025, repl := true } }.wake := by
  have hlen : ((s.usec :: s.pkg.corrT).take 1025).length = 1025 := by rw [corrected_count]; omega
  have hfirst : ((s.usec :: s.pkg.corrT).take 1025).getD 1024 0 = s.pkg.corrT.getD 1023 0 := by
    simp [List.getD_eq_getElem?_getD]
  have hour : s.usec ≤ ((s.usec :: s.pkg.corrT).take 1025).getD 1024 0 + hourUs := hfirst ▸ ht
  simp only [execCorrectedError, hlen, hour, beq_self_eq_true, decide_true, Bool.and_self, Bool.or_true]

end

/-- The entry of a line depends on the remote-holder table alone. -/
theorem holder_congr {s t : State} (h : t.rht = s.rht) (l : Nat) : t.holder l = s.holder l := by
  rw [State.holder, State.holder, State.ways, State.ways, h]

@[simp] theorem State.dir_setDir_self (s : State) (l : Nat) (v : BitVec 2) : (s.setDir l v).dir l = v :=
  tget_tput_self ..

@[simp] theorem State.dir_of_wake (s : State) (l : Nat) : s.wake.dir l = s.dir l := rfl

/-- A local line becomes P (R351); with no remote holder, there is nothing else to ask. -/
theorem poisonLine_home {s : State} {line : Nat} (ha : agentOf line = s.pkg.agent) (hh : s.holder (localOf line) = none) :
    (poisonLine s line).pkg = s.pkg ∧ (poisonLine s line).dir (localOf line) = 3 := by
  have hways : ∀ (v : Tab Core) (c : Tab Copy) (h : Tab Half),
      ({ s with cores := v, copies := c, halves := h } : State).holder (localOf line) = none := fun _ _ _ => (holder_congr rfl _).trans hh
  simp only [poisonLine, State.dropL1, ha, hways, ne_eq, not_true_eq_false, if_false]
  exact ⟨rfl, State.dir_setDir_self ..⟩

/-- A remote home is told of the line that is lost, and no copy stays (log 97). -/
theorem poisonLine_far {s : State} {line : Nat} (ha : agentOf line ≠ s.pkg.agent) :
    (poisonLine s line).out = s.out ++ ([.poison line (agentOf line)] : List Packet) ∧ tfind (poisonLine s line).copies line = none := by
  simp only [poisonLine, ha, ne_eq, not_false_eq_true, if_true]
  exact ⟨rfl, tfind_tdel_self ..⟩

/-- The line number of a local line names the package and the line. -/
theorem agentOf_lineOf (s : State) (line : Nat) : agentOf (s.lineOf (localOf line)) = s.pkg.agent := by
  simp only [agentOf, State.lineOf, localOf]; omega

theorem localOf_lineOf (s : State) (line : Nat) : localOf (s.lineOf (localOf line)) = localOf line := by
  simp only [State.lineOf, localOf]; omega

/-- An uncorrectable error is counted. -/
def State.countUnc (s : State) : State := { s with pkg := { s.pkg with unc := s.pkg.unc + 1 } }

/-- A dirty line of the package's own is lost: it becomes P. -/
theorem execUncorrectableError_line_home {s : State} {line : Nat} (ha : agentOf line = s.pkg.agent)
    (hh : s.holder (localOf line) = none) : ∃ t, execUncorrectableError (.line line) s = .next t ∧ t.pkg.unc = s.pkg.unc + 1
      ∧ t.dir (localOf line) = 3 := by
  obtain ⟨hpkg, hdir⟩ := poisonLine_home (s := s.countUnc) ha ((holder_congr rfl _).trans hh)
  exact ⟨(poisonLine s.countUnc line).wake, rfl, congrArg Pkg.unc hpkg, (State.dir_of_wake ..).trans hdir⟩

/-- A dirty line of another home is lost: its home is told. -/
theorem execUncorrectableError_line_far {s : State} {line : Nat} (ha : agentOf line ≠ s.pkg.agent) :
    ∃ t, execUncorrectableError (.line line) s = .next t ∧ t.out = s.out ++ ([.poison line (agentOf line)] : List Packet)
      ∧ tfind t.copies line = none :=
  ⟨(poisonLine s.countUnc line).wake, rfl, poisonLine_far (s := s.countUnc) ha⟩

/-- The error of a line of memory is one of its stack (R441). -/
theorem stackError_countUnc (s : State) (line : Nat) :
    stackError s.countUnc (s.lineOf (localOf line)) = s.countUnc.stackBad (Config.stackOf (localOf line) % 8) := by
  rw [stackError, localOf_lineOf]
  exact if_pos (agentOf_lineOf s line)

/-- What an error of a line of memory does: it is counted, its stack is marked and the line is lost. -/
theorem execUncorrectableError_hbm (s : State) (line : Nat) : execUncorrectableError (.hbm line) s =
    .next (poisonLine (s.countUnc.stackBad (Config.stackOf (localOf line) % 8)) (s.lineOf (localOf line))).wake := by
  rw [← stackError_countUnc]
  rfl

/-- A line of memory is lost: it becomes P, and its stack is marked. -/
theorem execUncorrectableError_hbm_home {s : State} {line : Nat} (hh : s.holder (localOf line) = none) :
    ∃ t, execUncorrectableError (.hbm line) s = .next t ∧ t.pkg.unc = s.pkg.unc + 1 ∧ t.dir (localOf line) = 3 ∧ t.pkg.repl = true
      ∧ t.pkg.stk = s.pkg.stk ||| (1#8 <<< (Config.stackOf (localOf line) % 8)) := by
  obtain ⟨hpkg, hdir⟩ := poisonLine_home (s := s.countUnc.stackBad (Config.stackOf (localOf line) % 8))
    (line := s.lineOf (localOf line)) (agentOf_lineOf s line) (by rw [localOf_lineOf]; exact (holder_congr rfl _).trans hh)
  rw [localOf_lineOf] at hdir
  refine ⟨_, execUncorrectableError_hbm s line, ?_⟩
  rw [State.wake_pkg, State.dir_of_wake, hpkg, hdir]
  exact ⟨rfl, rfl, rfl, rfl⟩

/-- A killed team is marked so. -/
theorem killTeam_killed (s : State) (tk : Nat) : ((killTeam s tk).team tk).killed = true := by
  have hteams : (killTeam s tk).team tk = (((s.teamWarps tk).foldl killWarp s).modTeam tk fun t =>
      { t with killed := true, barr := []
               phase := if (((s.teamWarps tk).foldl killWarp s).team tk).phase == .saved then .running else t.phase }).team tk := rfl
  rw [hteams, State.team_modTeam, if_pos rfl]

/-- A failing core without teams or runs goes off line. -/
theorem execCoreOffline_idle {s : State} {core : Nat} (hdying : (s.core core).dying = true) (hon : (s.core core).offline = false)
    (hqueue : (s.core core).queue = []) (hback : ∀ e ∈ s.back, e.1 ≠ core) (hres : residents s core none = []) :
    ∃ t, execCoreOffline core s = .next t ∧ (t.core core).offline = true ∧ t.pkg.repl = true := by
  have hheld : s.back.filter (fun e => e.1 == core) = [] := List.filter_eq_nil_iff.2 fun e he => by simpa using hback e he
  have hnone : ∀ (c : Tab Core) (b : List (Nat × Run)), residents { s with cores := c, back := b } core none = [] := fun _ _ => hres
  simp only [execCoreOffline, hdying, hon, hqueue, hheld, State.modCore, State.setCore, hnone, Bool.not_true, Bool.false_and,
    Bool.or_self, Bool.false_eq_true, if_false, List.map_nil, List.append_nil, List.foldl_nil, List.isEmpty_nil, if_true]
  exact ⟨_, rfl, congrArg Core.offline (tget_tput_self ..), rfl⟩

/-! ### Power (R443) -/

/-- The clock moves by 1/16 within 0 to 8 sixteenths of reduction. -/
theorem execThrottleStep_div {s : State} (draw celsius : Nat) (hdiv : s.pkg.div.toNat ≤ 8) :
    ∃ t, execThrottleStep ⟨draw, celsius⟩ s = .next t
      ∧ t.pkg.div.toNat = if s.pkg.limit.toNat < draw ∨ 105 < celsius then min 8 (s.pkg.div.toNat + 1) else s.pkg.div.toNat - 1 := by
  refine ⟨_, rfl, ?_⟩
  simp only [State.wake_pkg, BitVec.toNat_ofNat, Bool.or_eq_true, decide_eq_true_eq]
  exact Nat.mod_eq_of_lt (by split <;> omega)

end Sys2Proof.Machine

open Sys2Proof Sys2Proof.Machine

/-- Settles O50: each event leaves the registers that its rule names; memory and its metadata are empty tables after the initialisation, and so
read as their defaults, and a zeroed region has no entries left. -/
theorem bootResults : Obligations.BootResults := by
  unfold Obligations.BootResults
  intro upd takes
  refine ⟨?powerOn, ?image, ?go, ?verify, fun s => imageFault_eq_none, ?init, ?bind, ?requests, ?stop, ?corrected, ?line, ?package, ?team,
    ?offline, ?throttle, ?thermal⟩
  case powerOn => exact fun s hoff => if_neg (hoff ▸ Bool.false_ne_true)
  case image =>
    intro s off bs htakes hfits
    exact if_neg (by simp [takesImage_iff.2 htakes]; omega)
  case go => exact fun s htakes => congrArg Host.Outcome.next (if_pos (takesImage_iff.2 htakes))
  case verify =>
    intro s hverify
    have hexec : exec .verifyDone s = _ := if_neg (not_not_intro hverify)
    cases hfault : imageFault s <;> simp only [upd, hexec, hfault] <;> rfl
  case init =>
    refine fun s up hinit => ⟨fun hun => ?_, fun htrained => ?_⟩
    · exact (if_neg (not_not_intro hinit)).trans (if_pos (by simp [hun]))
    · obtain ⟨t, ht, hhbm, hsel, hagent, hports, husec⟩ := execInitDone_trained hinit htrained
      have hport : ∀ n, t.port n = s.port n := fun n => by rw [State.port, State.port, hports]
      have hmem : (bringUp t up).hbm = {} := (bringUp_hbm t up).trans hhbm
      refine ⟨_, ht, bringUp_fwst t up, fun a => ?_, fun l => ?_, fun p => ?_, (bringUp_agent t up).trans hagent,
        fun n peer ver hlinks hn hdown hpick hver => ?_, fun a w hroutes ha => bringUp_route hroutes ha⟩
      · rw [State.wake_hbm, hmem]; rfl
      · rw [State.dir, State.wake_hbm, hmem]; rfl
      · rw [State.wake_selPg, bringUp_selPg, hsel]; rfl
      · have hup : (bringUp t up).wake.port n = _ := (bringUp_port hlinks).trans
          (port_trainPort hn (by rwa [hport]) (by rwa [hport]) hver)
        rw [hup, hport, husec]
        exact ⟨rfl, rfl, rfl, rfl⟩
  case bind =>
    intro s page realm wld h0 hlt hready hopen
    exact ⟨_, execSubmissionPageBind_unlocked h0 hlt hready hopen, by simp⟩
  case requests =>
    exact fun s => ⟨fun h => if_pos h, fun h => if_neg h, fun h => if_pos h, fun h => if_neg h, fun h => if_pos h, fun h => if_neg h,
      fun h => if_pos h⟩
  case stop =>
    refine fun s hlocked hheld => ⟨execStopInterfaceRequest_busy hlocked hheld, fun s1 x hidle hz => ?_⟩
    cases x with
    | ok u =>
      exact ⟨_, execStopInterfaceRequest_zeroed hlocked hheld hidle hz, rfl, fun _ => ⟨rfl, fun a => zeroSecure_byte⟩, nofun⟩
    | error e =>
      exact ⟨_, execStopInterfaceRequest_refused hlocked hheld hidle hz, rfl, nofun, fun _ _ => ⟨rfl, rfl⟩⟩
  case corrected =>
    exact fun s => ⟨_, rfl, rfl, fun hfew => congrArg (·.pkg.repl) (Host.Outcome.next.inj (execCorrectedError_few s hfew)),
      fun hmany ht => congrArg (·.pkg.repl) (Host.Outcome.next.inj (execCorrectedError_many s hmany ht))⟩
  case line =>
    exact fun s line => ⟨execUncorrectableError_line_home, execUncorrectableError_line_far, execUncorrectableError_hbm_home⟩
  case package => exact fun s n => ⟨⟨_, rfl, rfl, rfl⟩, ⟨_, rfl, rfl, rfl, rfl⟩⟩
  case team =>
    intro s tk htk
    exact ⟨_, congrArg (fun u => Host.Outcome.next (State.wake u)) (if_pos htk), killTeam_killed ..⟩
  case offline => exact fun s core => execCoreOffline_idle
  case throttle =>
    exact fun s => execThrottleStep_div
  case thermal => exact fun s c hc => if_neg (Nat.not_lt.2 hc)
end

section
/-! ## Encoding and decoding (R116–R118, R124, R126) -/

namespace Sys2Proof
open Sys2Proof.Machine Sys2Proof.Laws

/-- What the decoder makes of a word whose opcode is known: by group and minor. -/
def decodeAt (opc : BitVec 10) (w : Word) : Option Instr :=
  match opc.toNat / 64 with
  | 0 => decodeGroup0 (opc.toNat % 64) w
  | 1 => decodeGroup1 (opc.toNat % 64) w
  | 2 => decodeGroup2 (opc.toNat % 64) w
  | 3 => decodeGroup3 (opc.toNat % 64) w
  | 4 => decodeGroup4 (opc.toNat % 64) w
  | 5 => decodeGroup5 (opc.toNat % 64) w
  | 6 => decodeGroup6 (opc.toNat % 64) w
  | 7 => decodeGroup7 (opc.toNat % 64) w
  | 8 => decodeGroup8 (opc.toNat % 64) w
  | 9 => decodeGroup9 (opc.toNat % 64) w
  | 10 => decodeGroup10 (opc.toNat % 64) w
  | 11 => decodeGroup11 (opc.toNat % 64) w
  | 12 => decodeGroup12 (opc.toNat % 64) w
  | 13 => decodeGroup13 (opc.toNat % 64) w
  | _ => none

theorem bits_group (w : Word) : bits w 57 54 = (fld w 48 10).toNat / 64 := by
  simp [bits, fld, BitVec.extractLsb'_toNat, Nat.shiftRight_eq_div_pow]; omega

theorem bits_minor (w : Word) : bits w 53 48 = (fld w 48 10).toNat % 64 := by
  simp [bits, fld, BitVec.extractLsb'_toNat, Nat.shiftRight_eq_div_pow]

theorem decodeShape_eq (w : Word) : decodeShape w = decodeAt (fld w 48 10) w := by
  rw [decodeAt, ← bits_group, ← bits_minor]; rfl

section
variable {opc : BitVec 10}

theorem ofBase_decodes {f : BaseF} {k : BaseF → Instr} (h : ∀ w, decodeAt opc w = some (k (baseOf w))) :
    decodeShape (ofBase opc f) = some (k f) := by
  rw [decodeShape_eq, opcode_ofBase, h, baseOf_ofBase]

theorem ofImm_decodes {f : ImmF} {k : ImmF → Instr} (h : ∀ w, decodeAt opc w = some (k (immOf w))) :
    decodeShape (ofImm opc f) = some (k f) := by
  rw [decodeShape_eq, opcode_ofImm, h, immOf_ofImm]

theorem ofJump_decodes {f : JumpF} {k : JumpF → Instr} (h : ∀ w, decodeAt opc w = some (k (jumpOf w))) :
    decodeShape (ofJump opc f) = some (k f) := by
  rw [decodeShape_eq, opcode_ofJump, h, jumpOf_ofJump]

theorem ofMem_decodes {f : MemF} {k : MemF → Instr} (h : ∀ w, decodeAt opc w = some (k (memOf w))) :
    decodeShape (ofMem opc f) = some (k f) := by
  rw [decodeShape_eq, opcode_ofMem, h, memOf_ofMem]

theorem ofMx_decodes {f : MxF} {k : MxF → Instr} (h : ∀ w, decodeAt opc w = some (k (mxOf w))) :
    decodeShape (ofMx opc f) = some (k f) := by
  rw [decodeShape_eq, opcode_ofMx, h, mxOf_ofMx]

theorem ofSh_decodes {f : ShF} {k : ShF → Instr} (h : ∀ w, decodeAt opc w = some (k (shOf w))) :
    decodeShape (ofSh opc f) = some (k f) := by
  rw [decodeShape_eq, opcode_ofSh, h, shOf_ofSh]

theorem ofSy_decodes {f : SyF} {k : SyF → Instr} (h : ∀ w, decodeAt opc w = some (k (syOf w))) :
    decodeShape (ofSy opc f) = some (k f) := by
  rw [decodeShape_eq, opcode_ofSy, h, syOf_ofSy]

end

/-- SGATH under the constructor that its fields select (R262). -/
def gatherOf (f : ShF) : Instr := if f.k || f.d == 0 then .sgathSp f else .sgath f

theorem gatherOf_slot {f : ShF} (h : (Instr.sgathSp f).formOk = true) : gatherOf f = .sgathSp f := if_pos h

theorem gatherOf_plain {f : ShF} (h : (Instr.sgath f).formOk = true) : gatherOf f = .sgath f := by
  simp only [Instr.formOk, Bool.and_eq_true, Bool.not_eq_true', bne_iff_ne] at h
  simpa [gatherOf, h.1] using h.2

/-- SHARR under the constructor that its fields select (R300). -/
def arriveOf (f : SyF) : Instr := if f.sub.getLsbD 0 then .sharrInit f else .sharr f

theorem arriveOf_init {f : SyF} (h : (Instr.sharrInit f).formOk = true) : arriveOf f = .sharrInit f := if_pos h

theorem arriveOf_plain {f : SyF} (h : (Instr.sharr f).formOk = true) : arriveOf f = .sharr f :=
  if_neg (by simpa [Instr.formOk] using h)

/-- A word that encodes an instruction under the constructor that its fields select has that instruction's shape. -/
theorem decodeShape_encode {i : Instr} (hword : i.isWord = true) (hform : i.formOk = true) : decodeShape (encode i) = some i := by
  cases i <;> cases hword
  case movi f | movh f | addi f => exact ofImm_decodes fun _ => rfl
  case br f | call f | unwind f => exact ofJump_decodes fun _ => rfl
  case ld f | st f | fld f | spld f | spst f | pref f | ldref f | stref f => exact ofMem_decodes fun _ => rfl
  case mma f | acz f | acrd f | acrdQ f | acwr f | acred f | acscl f => exact ofMx_decodes fun _ => rfl
  case scpy f | sscat f | ssadd f | sput f | sfill f | sqcp f => exact ofSh_decodes fun _ => rfl
  case atom f | red f | fence f | bar f | bara f | shwait f | cwait f | mwait f | pub f | pubw f | launch f | launchi f
      | hcall f | hcallNb f | uintr f => exact ofSy_decodes fun _ => rfl
  case sgath f =>
    exact (ofSh_decodes (k := gatherOf) fun _ => rfl).trans (congrArg some (gatherOf_plain hform))
  case sgathSp f =>
    exact (ofSh_decodes (k := gatherOf) fun _ => rfl).trans (congrArg some (gatherOf_slot hform))
  case sharr f =>
    exact (ofSy_decodes (k := arriveOf) fun _ => rfl).trans (congrArg some (arriveOf_plain hform))
  case sharrInit f =>
    exact (ofSy_decodes (k := arriveOf) fun _ => rfl).trans (congrArg some (arriveOf_init hform))
  all_goals exact ofBase_decodes fun _ => rfl

/-! ### From the word to the instruction and back -/

/-- An instruction word that encodes as `w` and stands under the constructor that its fields select. -/
def Names (w : Word) (i : Instr) : Prop := encode i = w ∧ i.isWord = true ∧ i.formOk = true

theorem gatherOf_names {w : Word} (h : fld w 48 10 = 0x2C1) : Names w (gatherOf (shOf w)) := by
  unfold gatherOf
  split
  · next hf => exact ⟨(congrArg (ofSh · (shOf w)) h).symm.trans (ofSh_shOf w), rfl, hf⟩
  · next hf => exact ⟨(congrArg (ofSh · (shOf w)) h).symm.trans (ofSh_shOf w), rfl, by simpa [Instr.formOk] using hf⟩

theorem arriveOf_names {w : Word} (h : fld w 48 10 = 0x302) : Names w (arriveOf (syOf w)) := by
  unfold arriveOf
  split
  · next hf => exact ⟨(congrArg (ofSy · (syOf w)) h).symm.trans (ofSy_syOf w), rfl, hf⟩
  · next hf => exact ⟨(congrArg (ofSy · (syOf w)) h).symm.trans (ofSy_syOf w), rfl, by simpa [Instr.formOk] using hf⟩

section
variable {w : Word} {opc : BitVec 10} (h : fld w 48 10 = opc)
include h

theorem names_baseOf {k : BaseF → Instr} (hk : ∀ f, encode (k f) = ofBase opc f ∧ (k f).isWord = true ∧ (k f).formOk = true) :
    Names w (k (baseOf w)) := ⟨(hk _).1.trans (h ▸ ofBase_baseOf w), (hk _).2⟩

theorem names_immOf {k : ImmF → Instr} (hk : ∀ f, encode (k f) = ofImm opc f ∧ (k f).isWord = true ∧ (k f).formOk = true) :
    Names w (k (immOf w)) := ⟨(hk _).1.trans (h ▸ ofImm_immOf w), (hk _).2⟩

theorem names_jumpOf {k : JumpF → Instr} (hk : ∀ f, encode (k f) = ofJump opc f ∧ (k f).isWord = true ∧ (k f).formOk = true) :
    Names w (k (jumpOf w)) := ⟨(hk _).1.trans (h ▸ ofJump_jumpOf w), (hk _).2⟩

theorem names_memOf {k : MemF → Instr} (hk : ∀ f, encode (k f) = ofMem opc f ∧ (k f).isWord = true ∧ (k f).formOk = true) :
    Names w (k (memOf w)) := ⟨(hk _).1.trans (h ▸ ofMem_memOf w), (hk _).2⟩

theorem names_mxOf {k : MxF → Instr} (hk : ∀ f, encode (k f) = ofMx opc f ∧ (k f).isWord = true ∧ (k f).formOk = true) :
    Names w (k (mxOf w)) := ⟨(hk _).1.trans (h ▸ ofMx_mxOf w), (hk _).2⟩

theorem names_shOf {k : ShF → Instr} (hk : ∀ f, encode (k f) = ofSh opc f ∧ (k f).isWord = true ∧ (k f).formOk = true) :
    Names w (k (shOf w)) := ⟨(hk _).1.trans (h ▸ ofSh_shOf w), (hk _).2⟩

theorem names_syOf {k : SyF → Instr} (hk : ∀ f, encode (k f) = ofSy opc f ∧ (k f).isWord = true ∧ (k f).formOk = true) :
    Names w (k (syOf w)) := ⟨(hk _).1.trans (h ▸ ofSy_syOf w), (hk _).2⟩

end

section
variable {w : Word} {m : Nat} {i : Instr}

theorem decodeGroup0_names (hopc : fld w 48 10 = BitVec.ofNat 10 (64 * 0 + m)) (h : decodeGroup0 m w = some i) : Names w i := by
  unfold decodeGroup0 at h
  split at h <;> cases h
  case h_2 | h_3 | h_21 => exact names_immOf hopc fun _ => ⟨rfl, rfl, rfl⟩
  all_goals exact names_baseOf hopc fun _ => ⟨rfl, rfl, rfl⟩

theorem decodeGroup1_names (hopc : fld w 48 10 = BitVec.ofNat 10 (64 * 1 + m)) (h : decodeGroup1 m w = some i) : Names w i := by
  unfold decodeGroup1 at h
  split at h <;> cases h
  all_goals exact names_baseOf hopc fun _ => ⟨rfl, rfl, rfl⟩

theorem decodeGroup2_names (hopc : fld w 48 10 = BitVec.ofNat 10 (64 * 2 + m)) (h : decodeGroup2 m w = some i) : Names w i := by
  unfold decodeGroup2 at h
  split at h <;> cases h
  all_goals exact names_baseOf hopc fun _ => ⟨rfl, rfl, rfl⟩

theorem decodeGroup3_names (hopc : fld w 48 10 = BitVec.ofNat 10 (64 * 3 + m)) (h : decodeGroup3 m w = some i) : Names w i := by
  unfold decodeGroup3 at h
  split at h <;> cases h
  case h_3 | h_5 | h_8 => exact names_jumpOf hopc fun _ => ⟨rfl, rfl, rfl⟩
  all_goals exact names_baseOf hopc fun _ => ⟨rfl, rfl, rfl⟩

theorem decodeGroup4_names (hopc : fld w 48 10 = BitVec.ofNat 10 (64 * 4 + m)) (h : decodeGroup4 m w = some i) : Names w i := by
  unfold decodeGroup4 at h
  split at h <;> cases h
  all_goals exact names_baseOf hopc fun _ => ⟨rfl, rfl, rfl⟩

theorem decodeGroup5_names (hopc : fld w 48 10 = BitVec.ofNat 10 (64 * 5 + m)) (h : decodeGroup5 m w = some i) : Names w i := by
  unfold decodeGroup5 at h
  split at h <;> cases h
  all_goals exact names_baseOf hopc fun _ => ⟨rfl, rfl, rfl⟩

theorem decodeGroup6_names (hopc : fld w 48 10 = BitVec.ofNat 10 (64 * 6 + m)) (h : decodeGroup6 m w = some i) : Names w i := by
  unfold decodeGroup6 at h
  split at h <;> cases h
  all_goals exact names_baseOf hopc fun _ => ⟨rfl, rfl, rfl⟩

theorem decodeGroup7_names (hopc : fld w 48 10 = BitVec.ofNat 10 (64 * 7 + m)) (h : decodeGroup7 m w = some i) : Names w i := by
  unfold decodeGroup7 at h
  split at h <;> cases h
  all_goals exact names_memOf hopc fun _ => ⟨rfl, rfl, rfl⟩

theorem decodeGroup8_names (hopc : fld w 48 10 = BitVec.ofNat 10 (64 * 8 + m)) (h : decodeGroup8 m w = some i) : Names w i := by
  unfold decodeGroup8 at h
  split at h <;> cases h
  case h_1 | h_2 => exact names_memOf hopc fun _ => ⟨rfl, rfl, rfl⟩
  all_goals exact names_baseOf hopc fun _ => ⟨rfl, rfl, rfl⟩

theorem decodeGroup9_names (hopc : fld w 48 10 = BitVec.ofNat 10 (64 * 9 + m)) (h : decodeGroup9 m w = some i) : Names w i := by
  unfold decodeGroup9 at h
  split at h <;> cases h
  all_goals exact names_syOf hopc fun _ => ⟨rfl, rfl, rfl⟩

theorem decodeGroup10_names (hopc : fld w 48 10 = BitVec.ofNat 10 (64 * 10 + m)) (h : decodeGroup10 m w = some i) : Names w i := by
  unfold decodeGroup10 at h
  split at h <;> cases h
  all_goals exact names_mxOf hopc fun _ => ⟨rfl, rfl, rfl⟩

theorem decodeGroup11_names (hopc : fld w 48 10 = BitVec.ofNat 10 (64 * 11 + m)) (h : decodeGroup11 m w = some i) : Names w i := by
  unfold decodeGroup11 at h
  split at h <;> cases h
  case h_2 => exact gatherOf_names hopc
  case h_8 => exact names_baseOf hopc fun _ => ⟨rfl, rfl, rfl⟩
  all_goals exact names_shOf hopc fun _ => ⟨rfl, rfl, rfl⟩

theorem decodeGroup12_names (hopc : fld w 48 10 = BitVec.ofNat 10 (64 * 12 + m)) (h : decodeGroup12 m w = some i) : Names w i := by
  unfold decodeGroup12 at h
  split at h <;> cases h
  case h_3 => exact arriveOf_names hopc
  all_goals exact names_syOf hopc fun _ => ⟨rfl, rfl, rfl⟩

theorem decodeGroup13_names (hopc : fld w 48 10 = BitVec.ofNat 10 (64 * 13 + m)) (h : decodeGroup13 m w = some i) : Names w i := by
  unfold decodeGroup13 at h
  split at h <;> cases h
  all_goals exact names_baseOf hopc fun _ => ⟨rfl, rfl, rfl⟩

end

/-- The opcode of a word from its group and minor. -/
theorem opcode_of {w : Word} {m g : Nat} (hg : bits w 57 54 = g) (hm : bits w 53 48 = m) :
    fld w 48 10 = BitVec.ofNat 10 (64 * g + m) := by
  rw [bits_group] at hg; rw [bits_minor] at hm
  exact BitVec.eq_of_toNat_eq (by rw [BitVec.toNat_ofNat]; omega)

theorem decodeShape_names {w : Word} {i : Instr} (h : decodeShape w = some i) : Names w i := by
  unfold decodeShape at h
  split at h
  · next hg => exact decodeGroup0_names (opcode_of hg rfl) h
  · next hg => exact decodeGroup1_names (opcode_of hg rfl) h
  · next hg => exact decodeGroup2_names (opcode_of hg rfl) h
  · next hg => exact decodeGroup3_names (opcode_of hg rfl) h
  · next hg => exact decodeGroup4_names (opcode_of hg rfl) h
  · next hg => exact decodeGroup5_names (opcode_of hg rfl) h
  · next hg => exact decodeGroup6_names (opcode_of hg rfl) h
  · next hg => exact decodeGroup7_names (opcode_of hg rfl) h
  · next hg => exact decodeGroup8_names (opcode_of hg rfl) h
  · next hg => exact decodeGroup9_names (opcode_of hg rfl) h
  · next hg => exact decodeGroup10_names (opcode_of hg rfl) h
  · next hg => exact decodeGroup11_names (opcode_of hg rfl) h
  · next hg => exact decodeGroup12_names (opcode_of hg rfl) h
  · next hg => exact decodeGroup13_names (opcode_of hg rfl) h
  · cases h

end Sys2Proof

open Sys2Proof Sys2Proof.Machine

/-- Settles O53: the opcode and every field stand where the decoder reads them, so the shape comes back; the static checks that make the
word well-formed are those of the decoder. -/
theorem decodeEncode : Obligations.DecodeEncode := by
  unfold Obligations.DecodeEncode
  intro i hwf
  simp only [Instr.wf, Bool.and_eq_true, Option.isNone_iff_eq_none] at hwf
  obtain ⟨⟨hword, hform⟩, hstatic⟩ := hwf
  rw [decode, decodeShape_encode hword hform]
  simp only [hstatic]

/-- Settles O54: in each group the word is put together again from its opcode and the fields that the decoder took. -/
theorem encodeDecode : Obligations.EncodeDecode := fun _ _ h => decodeShape_names h

/-- Settles O52: the words are evaluated. -/
theorem decodeSpecWords : Obligations.DecodeSpecWords := by
  unfold Obligations.DecodeSpecWords
  refine ⟨rfl, rfl, rfl, rfl, rfl, rfl, rfl, rfl, rfl, rfl, rfl⟩
end

section
/-! ## The step and the skeleton of an instruction word (R113, R116, R124, R125, log 2) -/

namespace Sys2Proof.Machine

/-- Every instruction word runs through the shared skeleton. -/
theorem exec_word {i : Instr} (h : i.isWord = true) (s : State) : ∃ body, exec i s = issue s i body := by
  unfold exec
  cases i <;> cases h <;> exact ⟨_, rfl⟩

theorem isWord_of_sig {i : Instr} {g : Sig} (h : sigOf i = some g) : i.isWord = true := by rw [Instr.isWord, h]; rfl

/-- An event of the table that is no instruction word is performed outside any bundle. -/
theorem event_of_not_word {i : Instr} (h : i.isWord = false) (s : State) : event s i = exec i { s with cur := none } :=
  if_neg (by rw [← Instr.isWord, h]; exact Bool.false_ne_true)

section
variable {s : State} (hon : s.pkg.stopped = false)
include hon

theorem step_agenda {a : Action} {r : List Action} (h : s.agenda = a :: r) : step s = perform { s with agenda := r } a := by
  unfold step
  rw [hon, if_neg Bool.false_ne_true]
  split
  · next h' => rw [h'] at h; cases h; rfl
  · next h' => rw [h'] at h; cases h

variable (hag : s.agenda = [])
include hag

theorem step_issue {wk path : Nat} {r : List (Nat × Nat)} (h : s.iq = (wk, path) :: r) :
    step s = issueNext { s with iq := r } wk path := by
  unfold step
  rw [hon, if_neg Bool.false_ne_true]
  split
  · next h' => rw [h'] at hag; cases hag
  split
  · next h' => rw [h'] at h; cases h; rfl
  · next h' => rw [h'] at h; cases h

variable (hiq : s.iq = [])
include hiq

/-- With no act due and no bundle to issue, the first engine that has something to do does it. -/
theorem step_engine {i : Instr} (h : (engineEvents s).find? (changes s) = some i) : step s = event s i := by
  unfold step
  rw [hon, if_neg Bool.false_ne_true]
  split
  · next h' => rw [h'] at hag; cases hag
  split
  · next h' => rw [h'] at hiq; cases hiq
  · rw [h]

/-- Where no engine has anything to do, a heddle has its cycle. -/
theorem step_heddle (h : (engineEvents s).find? (changes s) = none) : step s =
    event { probe tryIssue s s.turn with turn := (s.turn + 1) % 128 } (.bundleOpen (s.turn / 4) (s.turn % 4)) := by
  unfold step
  rw [hon, if_neg Bool.false_ne_true]
  split
  · next h' => rw [h'] at hag; cases hag
  split
  · next h' => rw [h'] at hiq; cases hiq
  · rw [h]

end

section
variable {s : State} {wk path : Nat} {b : Bundle} (hb : openBundle s wk path = some b)
include hb

theorem issueNext_decoded {w : Word} {i : Instr} (hw : b.nextWord = some w) (hd : decodeShape w = some i) :
    issueNext s wk path = exec i { s with cur := some (wk, path) } := by
  simp only [issueNext, hb, hw, hd]

theorem issueNext_reserved {w : Word} (hw : b.nextWord = some w) (hd : decodeShape w = none) :
    issueNext s wk path = .next (badOpcode s wk path b w) := by
  simp only [issueNext, hb, hw, hd]

theorem issueNext_header (hw : b.nextWord = none) : issueNext s wk path = .next (raiseHeader s wk path b) := by
  simp only [issueNext, hb, hw]

end

/-! ### What `issue` answers before it comes to a body -/

section
variable {s : State} {i : Instr} {wk path : Nat} {b : Bundle} {g : Sig} (hcur : s.cur = some (wk, path))
  (hb : (s.warp wk).path path = some b) (hg : sigOf i = some g)
include hcur hb hg

theorem exec_encodingFault {sub : Byte} (h : encodingFault s wk b i g = some sub) : exec i s =
    .next (advance (faultLanes s wk (faultAt b g.opc) ((lanesOf b.lanes).map fun l => (l, flt .illegal sub)) false) wk path
      { b with lanes := 0 }).wake := by
  obtain ⟨body, hx⟩ := exec_word (isWord_of_sig hg) s
  rw [hx]
  simp only [issue, hcur, hg, hb, h]

theorem exec_unguarded (h : encodingFault s wk b i g = none) (hoff : ∀ l ∈ lanesOf b.lanes, guardOn s wk l g.fs.guard = false) :
    exec i s = .next (advance s wk path b).wake := by
  obtain ⟨body, hx⟩ := exec_word (isWord_of_sig hg) s
  have hnone : (lanesOf b.lanes).filter (fun l => guardOn s wk l g.fs.guard) = [] :=
    List.filter_eq_nil_iff.2 fun l hl => by rw [hoff l hl]; exact Bool.false_ne_true
  rw [hx]
  simp only [issue, hcur, hg, hb, h, hnone, List.isEmpty_nil, if_true]

end

/-- A bundle that no lane is left in goes. -/
theorem advance_empty (s : State) (wk path : Nat) (b : Bundle) (h : b.lanes = 0) :
    advance s wk path b = s.modWarp wk fun w => w.setPath path none := if_pos h

/-- Before its last instruction a bundle goes on to the next of its clause. -/
theorem advance_next {s : State} {wk path : Nat} {b : Bundle} (h0 : b.lanes ≠ 0) (h1 : b.idx + 1 < b.words.length) :
    advance s wk path b = (closeLanding s wk path).modWarp wk fun w =>
      w.setPath path (some { b with idx := b.idx + 1, outs := [], blocked := none }) := by
  rw [advance, if_neg h0, if_neg (Nat.not_le.2 h1)]

end Sys2Proof.Machine

open Sys2Proof Sys2Proof.Machine

/-- Settles O55: the cases of `step`, of `issueNext` and of `event`. -/
theorem stepRunsDecodedWord : Obligations.StepRunsDecodedWord := by
  unfold Obligations.StepRunsDecodedWord
  refine ⟨?decoded, ?reserved, ?header, ?act, ?engine, ?heddle, fun s hoff => if_pos hoff⟩
  case decoded =>
    intro s wk path r b w i hon hag hiq hb hw hd
    exact (step_issue hon hag hiq).trans (issueNext_decoded hb hw hd)
  case reserved =>
    intro s wk path r b w hon hag hiq hb hw hd
    exact (step_issue hon hag hiq).trans (issueNext_reserved hb hw hd)
  case header =>
    intro s wk path r b hon hag hiq hb hw
    exact (step_issue hon hag hiq).trans (issueNext_header hb hw)
  case act =>
    intro s i r hon hag hi
    exact (step_agenda hon hag).trans (event_of_not_word hi _)
  case engine =>
    intro s i hon hag hiq he hi
    exact (step_engine hon hag hiq he).trans (event_of_not_word hi s)
  case heddle =>
    intro s hon hag hiq he
    exact (step_heddle hon hag hiq he).trans (event_of_not_word rfl _)

/-- Settles O18: a failed check is answered before guards and body, for the lanes of the whole bundle, which none of them is left in. -/
theorem encodingFaultTraps : Obligations.EncodingFaultTraps := by
  unfold Obligations.EncodingFaultTraps
  intro s i wk path b g sub hcur hb hg hf
  rw [exec_encodingFault hcur hb hg hf, advance_empty _ _ _ _ rfl]
  rfl

end

section
/-! ## What the end of an instruction leaves unchanged (R112, R134, R140, R154, R391) -/

namespace Sys2Proof.Machine

/-! ### Folds over lanes -/

/-- A fold over distinct lanes, each step of which changes its own lane alone: each lane is changed once. -/
theorem lane_foldl_each {f : State → Nat → State} {g : Nat → Lane → Lane} {wk : Nat}
    (hself : ∀ st l, (f st l).lane wk l = g l (st.lane wk l))
    (hother : ∀ st l m, l < 32 → m < 32 → l ≠ m → (f st l).lane wk m = st.lane wk m) {m : Nat} (hm : m < 32) :
    ∀ {ls : List Nat} (s : State), ls.Nodup → (∀ l ∈ ls, l < 32) →
      (ls.foldl f s).lane wk m = if m ∈ ls then g m (s.lane wk m) else s.lane wk m
  | [], _, _, _ => rfl
  | l :: ls, s, hn, h32 => by
    rw [List.nodup_cons] at hn
    rw [List.foldl_cons, lane_foldl_each hself hother hm (f s l) hn.2 fun k hk => h32 k (List.mem_cons_of_mem l hk)]
    by_cases h : l = m
    · subst h
      rw [if_neg hn.1, if_pos List.mem_cons_self, hself]
    · rw [hother s l m (h32 l List.mem_cons_self) hm h]
      simp only [List.mem_cons, Ne.symm h, false_or]

/-- A fold whose steps change only lanes that it names leaves the others. -/
theorem lane_foldl_others {α : Type} {f : State → α → State} {k m : Nat} {ls : List α} (s : State)
    (h : ∀ st, ∀ l ∈ ls, (f st l).lane k m = st.lane k m) : (ls.foldl f s).lane k m = s.lane k m :=
  foldl_unobserved f (State.lane · k m) s h

theorem State.lane_modLane_other (s : State) {a b l m : Nat} (f : Lane → Lane) (hl : l < 32) (hm : m < 32) (h : a ≠ b ∨ l ≠ m) :
    (s.modLane a l f).lane b m = s.lane b m := by
  rw [State.lane_modLane, if_neg]
  rw [lkOf_inj hl hm]; tauto

@[simp] theorem State.warp_modWarp_self (s : State) (wk : Nat) (f : Warp → Warp) : (s.modWarp wk f).warp wk = f (s.warp wk) := by
  rw [State.warp_modWarp, if_pos rfl]

theorem State.warp_modWarp_other (s : State) {wk k : Nat} (f : Warp → Warp) (h : k ≠ wk) : (s.modWarp wk f).warp k = s.warp k := by
  rw [State.warp_modWarp, if_neg (Ne.symm h)]

@[simp] theorem Warp.path_setPath_self (w : Warp) (n : Nat) (b : Option Bundle) : (w.setPath n b).path n = b := by
  unfold Warp.setPath
  split
  · next h => subst h; rfl
  · next h =>
    unfold Warp.path
    split
    · exact absurd rfl h
    · rfl

@[simp] theorem Warp.unmoved_setPath (w : Warp) (n : Nat) (b : Option Bundle) : (w.setPath n b).unmoved = w.unmoved := by
  unfold Warp.setPath; split <;> rfl

/-! ### Warps -/

/-- From `s` to `t` nothing has changed but what the end of an instruction moves of warp `wk`. -/
structure MovesWarp (wk : Nat) (s t : State) : Prop where
  same  : { t with warps := [] } = { s with warps := [] }
  warp  : ∀ k, (t.warp k).unmoved = (s.warp k).unmoved
  other : ∀ k, k ≠ wk → t.warp k = s.warp k

namespace MovesWarp
variable {wk : Nat} {s t u : State}

theorem refl (wk : Nat) (s : State) : MovesWarp wk s s := ⟨rfl, fun _ => rfl, fun _ _ => rfl⟩

theorem trans (h : MovesWarp wk s t) (g : MovesWarp wk t u) : MovesWarp wk s u :=
  ⟨g.same.trans h.same, fun k => (g.warp k).trans (h.warp k), fun k hk => (g.other k hk).trans (h.other k hk)⟩

theorem modWarp (s : State) (wk : Nat) {f : Warp → Warp} (hf : ∀ w, (f w).unmoved = w.unmoved) : MovesWarp wk s (s.modWarp wk f) :=
  ⟨rfl, fun k => by rw [State.warp_modWarp]; split <;> simp_all, fun k hk => State.warp_modWarp_other s f hk⟩

theorem lanes (h : MovesWarp wk s t) : t.lanes = s.lanes := show ({ t with warps := [] } : State).lanes = ({ s with warps := [] } : State).lanes by rw [h.same]
theorem frames (h : MovesWarp wk s t) : t.frames = s.frames := show ({ t with warps := [] } : State).frames = ({ s with warps := [] } : State).frames by rw [h.same]
theorem teams (h : MovesWarp wk s t) : t.teams = s.teams := show ({ t with warps := [] } : State).teams = ({ s with warps := [] } : State).teams by rw [h.same]
theorem world (h : MovesWarp wk s t) : t.world = s.world := show ({ t with warps := [] } : State).world = ({ s with warps := [] } : State).world by rw [h.same]

theorem countWrite (s : State) (wk : Nat) (regs : List (List (BitVec 32))) : MovesWarp wk s (countWrite s wk regs) := by
  unfold Machine.countWrite
  split
  · exact .refl wk s
  split
  · exact .modWarp s wk fun _ => rfl
  split
  · exact .modWarp s wk fun _ => rfl
  · exact .refl wk s

theorem landed (s : State) (wk id : Nat) : MovesWarp wk s (landed s wk id) := by
  unfold Machine.landed
  split
  · exact .refl wk s
  split
  · exact .refl wk s
  · refine MovesWarp.trans ?_ (.countWrite _ wk _)
    exact .modWarp s wk fun _ => rfl

theorem closeLanding (s : State) (wk path : Nat) : MovesWarp wk s (closeLanding s wk path) := by
  unfold Machine.closeLanding
  split
  · exact .refl wk s
  · refine MovesWarp.trans ?_ (.landed _ wk _)
    exact .modWarp s wk fun _ => rfl

end MovesWarp

/-! ### The bundle goes on -/

/-- Where a lane of a bundle stands once the bundle has closed (R112). -/
def Bundle.place (b : Bundle) (l : Nat) (ln : Lane) : Lane :=
  match tfind b.moved l with
  | some .left => ln
  | some (.jump pc) => { ln with pc := pc, cix := 0, st := .run }
  | _ => { ln with pc := b.hdr.add (8 + 8 * b.words.length), cix := 0, st := .run }

theorem lane_moveLane_self (b : Bundle) (s : State) (wk l : Nat) : (moveLane b s wk l).lane wk l = b.place l (s.lane wk l) := by
  rcases h : tfind b.moved l with _ | (_ | pc | _) <;> simp only [moveLane, Bundle.place, h, State.lane_modLane_self]

theorem lane_moveLane_other (b : Bundle) (s : State) {wk k l m : Nat} (hl : l < 32) (hm : m < 32) (h : wk ≠ k ∨ l ≠ m) :
    (moveLane b s wk l).lane k m = s.lane k m := by
  unfold moveLane
  split
  · rfl
  all_goals exact State.lane_modLane_other s _ hl hm h

/-- A state without its lanes. -/
def State.sansLanes (s : State) : State := { s with lanes := [] }

theorem sansLanes_moveLane (b : Bundle) (s : State) (wk l : Nat) : (moveLane b s wk l).sansLanes = s.sansLanes := by
  unfold moveLane; split <;> rfl

theorem sansLanes_foldl_moveLane (b : Bundle) (wk : Nat) (ls : List Nat) (s : State) :
    (ls.foldl (fun st l => moveLane b st wk l) s).sansLanes = s.sansLanes :=
  foldl_unobserved _ State.sansLanes s fun st l _ => sansLanes_moveLane b st wk l

theorem State.warp_of_sansLanes {s t : State} (h : t.sansLanes = s.sansLanes) : t.warp = s.warp :=
  show t.sansLanes.warp = s.sansLanes.warp by rw [h]

theorem State.world_of_sansLanes {s t : State} (h : t.sansLanes = s.sansLanes) : t.world = s.world :=
  show t.sansLanes.world = s.sansLanes.world by rw [h]

theorem State.frames_of_sansLanes {s t : State} (h : t.sansLanes = s.sansLanes) : t.frames = s.frames :=
  show t.sansLanes.frames = s.sansLanes.frames by rw [h]

theorem State.teams_of_sansLanes {s t : State} (h : t.sansLanes = s.sansLanes) : t.teams = s.teams :=
  show t.sansLanes.teams = s.sansLanes.teams by rw [h]

/-- A lane of a bundle once all its lanes have moved. -/
theorem lane_foldl_moveLane {b : Bundle} {wk l : Nat} (s : State) (hl : l ∈ lanesOf b.lanes) :
    ((lanesOf b.lanes).foldl (fun st l => moveLane b st wk l) s).lane wk l = b.place l (s.lane wk l) := by
  have h32 : ∀ k ∈ lanesOf b.lanes, k < 32 := fun k hk => (mem_lanesOf.1 hk).1
  rw [lane_foldl_each (g := b.place) (fun st k => lane_moveLane_self b st wk k)
    (fun st k m hk hm hne => lane_moveLane_other b st hk hm (.inr hne)) (h32 l hl) s ((lanesOf_sorted _).imp Nat.ne_of_lt) h32,
    if_pos hl]

/-- The lanes of a bundle, moved. -/
def lanesMoved (s : State) (wk : Nat) (b : Bundle) : State := (lanesOf b.lanes).foldl (fun st l => moveLane b st wk l) s

/-- What the closing of a bundle does to its warp (R108, R134, R171). -/
def Bundle.closeWarp (b : Bundle) (s : State) (wk path : Nat) (w : Warp) : Warp :=
  { (w.setPath path none) with
    stamp := if b.sched = 1 || b.yielded then (s.core (wkCore wk)).cycle.toNat else w.stamp
    hold := if b.sched = 2 then w.hold ||| maskOf (boundaryLanes (lanesMoved s wk b) wk b.lanes) else w.hold }

theorem Bundle.unmoved_closeWarp (b : Bundle) (s : State) (wk path : Nat) (w : Warp) : (b.closeWarp s wk path w).unmoved = w.unmoved :=
  (show (b.closeWarp s wk path w).unmoved = (w.setPath path none).unmoved from rfl).trans (w.unmoved_setPath path none)

theorem Bundle.path_closeWarp (b : Bundle) (s : State) (wk path : Nat) (w : Warp) : (b.closeWarp s wk path w).path path = none :=
  (show (b.closeWarp s wk path w).path path = (w.setPath path none).path path from rfl).trans (w.path_setPath_self path none)

theorem Warp.team_of_unmoved {w v : Warp} (h : w.unmoved = v.unmoved) : w.team = v.team :=
  show w.unmoved.team = v.unmoved.team by rw [h]

theorem Warp.step_of_unmoved {w v : Warp} (h : w.unmoved = v.unmoved) : w.step = v.step :=
  show w.unmoved.step = v.unmoved.step by rw [h]

theorem Warp.ctr_of_unmoved {w v : Warp} (h : w.unmoved = v.unmoved) : w.ctr = v.ctr :=
  show w.unmoved.ctr = v.unmoved.ctr by rw [h]

/-- The closing of a bundle in a warp that does not single-step: lanes, warp, team. -/
theorem closeBundle_unstepped {s : State} {wk path : Nat} {b : Bundle} (h : (s.warp wk).step = false) : closeBundle s wk path b =
    ((lanesMoved s wk b).modWarp wk (b.closeWarp s wk path)).modTeam (s.warp wk).team fun t => { t with rcc := t.rcc + 1 } := by
  have hw : (lanesMoved s wk b).warp wk = s.warp wk := congrFun (State.warp_of_sansLanes (sansLanes_foldl_moveLane b wk _ s)) wk
  have hu := Bundle.unmoved_closeWarp b s wk path (s.warp wk)
  have hs : (((lanesMoved s wk b).modWarp wk (b.closeWarp s wk path)).warp wk) = b.closeWarp s wk path (s.warp wk) := by
    rw [State.warp_modWarp_self, hw]
  have hstep : (((lanesMoved s wk b).modWarp wk (b.closeWarp s wk path)).warp wk).step = false := by
    rw [hs, Warp.step_of_unmoved hu, h]
  rw [← Warp.team_of_unmoved hu, ← hs]
  exact if_neg fun hc => by
    simp only [Bool.and_eq_true] at hc
    exact Bool.false_ne_true (hstep.symm.trans hc.1.2)

/-- From `s` to `t` a bundle of the lanes `m` of warp `wk` has gone on: its lanes have moved, and what the end of an instruction moves of the
warp, and the team's count of retired clauses. -/
structure GoesOn (wk : Nat) (m : BitVec 32) (s t : State) : Prop where
  world   : t.world = s.world
  frames  : t.frames = s.frames
  team    : ∀ tk, (t.team tk).uncounted = (s.team tk).uncounted ∧ (tk ≠ (s.warp wk).team → t.team tk = s.team tk)
  warp    : ∀ k, (t.warp k).unmoved = (s.warp k).unmoved
  other   : ∀ k, k ≠ wk → t.warp k = s.warp k
  kept    : ∀ k l, (t.lane k l).unplaced = (s.lane k l).unplaced
  outside : ∀ k l, l < 32 → k ≠ wk ∨ l ∉ lanesOf m → t.lane k l = s.lane k l

theorem MovesWarp.goesOn {wk : Nat} {s t : State} (h : MovesWarp wk s t) (m : BitVec 32) : GoesOn wk m s t :=
  have hlane : ∀ k l, t.lane k l = s.lane k l := fun k l => by rw [State.lane, State.lane, h.lanes]
  have hteam : ∀ tk, t.team tk = s.team tk := fun tk => by rw [State.team, State.team, h.teams]
  ⟨h.world, h.frames, fun tk => ⟨by rw [hteam], fun _ => hteam tk⟩, h.warp, h.other, fun k l => by rw [hlane], fun k l _ _ => hlane k l⟩

theorem GoesOn.trans {wk : Nat} {m : BitVec 32} {s t u : State} (h : GoesOn wk m s t) (g : GoesOn wk m t u) : GoesOn wk m s u where
  world := g.world.trans h.world
  frames := g.frames.trans h.frames
  team tk := ⟨(g.team tk).1.trans (h.team tk).1, fun hk =>
    ((g.team tk).2 (by rwa [Warp.team_of_unmoved (h.warp wk)])).trans ((h.team tk).2 hk)⟩
  warp k := (g.warp k).trans (h.warp k)
  other k hk := (g.other k hk).trans (h.other k hk)
  kept k l := (g.kept k l).trans (h.kept k l)
  outside k l hl ho := (g.outside k l hl ho).trans (h.outside k l hl ho)

theorem lanesMoved_goesOn (s : State) (wk : Nat) (b : Bundle) : GoesOn wk b.lanes s (lanesMoved s wk b) := by
  have h := sansLanes_foldl_moveLane b wk (lanesOf b.lanes) s
  have hw := State.warp_of_sansLanes h
  have ht : ∀ tk, (lanesMoved s wk b).team tk = s.team tk := fun tk => by rw [State.team, lanesMoved, State.teams_of_sansLanes h]; rfl
  exact {
    world := State.world_of_sansLanes h
    frames := State.frames_of_sansLanes h
    team := fun tk => ⟨by rw [ht], fun _ => ht tk⟩
    warp := fun k => by rw [lanesMoved, hw]
    other := fun k _ => by rw [lanesMoved, hw]
    kept := fun k l => foldl_unobserved _ (fun st => (State.lane st k l).unplaced) s fun st x _ => lane_moveLane b st wk x k l
    outside := fun k l hl ho => lane_foldl_others s fun st x hx =>
      lane_moveLane_other b st (mem_lanesOf.1 hx).1 hl (ho.imp Ne.symm fun hn he => hn (he ▸ hx)) }

theorem closeBundle_goesOn {s : State} {wk path : Nat} {b : Bundle} (h : (s.warp wk).step = false) :
    GoesOn wk b.lanes s (closeBundle s wk path b) := by
  rw [closeBundle_unstepped h]
  have h1 := (lanesMoved_goesOn s wk b).trans ((MovesWarp.modWarp _ wk (b.unmoved_closeWarp s wk path)).goesOn b.lanes)
  refine { h1 with team := fun tk => ?_ }
  rw [State.team_modTeam]
  split
  · next he => subst he; exact ⟨(h1.team _).1, fun hne => absurd rfl hne⟩
  · exact h1.team tk

theorem advance_goesOn {s : State} {wk path : Nat} {b : Bundle} (h : (s.warp wk).step = false) :
    GoesOn wk b.lanes s (advance s wk path b) := by
  have hc := MovesWarp.closeLanding s wk path
  unfold advance
  split
  · exact (MovesWarp.modWarp s wk fun w => w.unmoved_setPath path none).goesOn _
  split
  · exact (hc.goesOn _).trans (closeBundle_goesOn ((Warp.step_of_unmoved (hc.warp wk)).trans h))
  · exact (hc.trans (.modWarp _ wk fun w => w.unmoved_setPath path _)).goesOn _

/-! ### The results are written -/

/-- A state without its lanes and frames. -/
def State.sansFrames (s : State) : State := { s with lanes := [], frames := [] }

theorem sansFrames_putDst (s : State) (wk l : Nat) (w : DstW) (code : Byte) (push : Bool) (v v2 : Val) :
    (putDst s wk l w code push v v2).sansFrames = s.sansFrames := by
  have h : (putDst s wk l w code false v v2).sansFrames = s.sansFrames := by
    simp only [putDst, Bool.false_eq_true, if_false]
    split
    · rfl
    split
    · rfl
    cases w <;> rfl
  rw [putDst_push]
  split
  · exact h
  · exact h

theorem sansLanes_putSide (s : State) (wk : Nat) (e : Nat × LaneRes) : (putSide s wk e).sansLanes = s.sansLanes := by
  have h : (e.2.preds.foldl (fun st p => st.modLane wk e.1 fun ln => ln.setP p.1 p.2) s).sansLanes = s.sansLanes :=
    foldl_unobserved _ State.sansLanes s fun _ _ _ => rfl
  unfold putSide raise
  split
  · exact h
  · exact h

theorem lane_putDst_other (s : State) {wk k l m : Nat} (w : DstW) (code : Byte) (push : Bool) (v v2 : Val) (hl : l < 32) (hm : m < 32)
    (h : wk ≠ k ∨ l ≠ m) : (putDst s wk l w code push v v2).lane k m = s.lane k m := by
  have hreg : (putDst s wk l w code false v v2).lane k m = s.lane k m := by
    simp only [putDst, Bool.false_eq_true, if_false]
    split
    · rfl
    split
    · exact State.lane_modLane_other s _ hl hm h
    cases w <;> rfl
  rw [putDst_push]
  split
  · exact (State.lane_modLane_other _ _ hl hm h).trans hreg
  · exact hreg

theorem lane_putSide_other (s : State) {wk k m : Nat} {e : Nat × LaneRes} (hl : e.1 < 32) (hm : m < 32) (h : wk ≠ k ∨ e.1 ≠ m) :
    (putSide s wk e).lane k m = s.lane k m := by
  have hp := lane_foldl_others (f := fun st (p : Nat × Bool) => st.modLane wk e.1 fun ln => ln.setP p.1 p.2) (k := k) (m := m)
    (ls := e.2.preds) s fun st p _ => State.lane_modLane_other st _ hl hm h
  unfold putSide raise
  split
  · exact hp
  · exact (State.lane_modLane_other _ _ hl hm h).trans hp

/-- A frame with a pair of registers of a lane written (R12, R142). -/
def Frame.putPair (f : Frame) (n l : Nat) (v : Val) : Frame :=
  ((f.setReg n l ⟨v.bits.truncate 32, .full⟩).setReg (n + 1) l ⟨v.bits.extractLsb' 32 32, .full⟩).setPtag n l v.tag

/-- A frame with the destination at f n of a lane written (R12, R142). -/
def Frame.putDst (f : Frame) (l : Nat) (w : DstW) (n : Nat) (v v2 : Val) : Frame :=
  match w with
  | .r32 | .i32 | .def32 | .blk8 => (f.setReg n l ⟨v.bits.truncate 32, .full⟩).setPtag n l false
  | .r64 | .def64 => f.putPair n l v
  | .defQ | .quad => (f.putPair n l v).putPair (n + 2) l v2

theorem Frame.reg_putPair_other {f : Frame} {n m l : Nat} (v : Val) (h0 : m ≠ n) (h1 : m ≠ n + 1) :
    (f.putPair n l v).reg m l = f.reg m l := by
  rw [Frame.putPair, Frame.reg_setPtag, Frame.reg_setReg, if_neg (by omega), Frame.reg_setReg, if_neg (by omega)]

theorem Frame.ptag_putPair_other {f : Frame} {n m l : Nat} (v : Val) (h : n / 2 ≠ m / 2) :
    (f.putPair n l v).ptag m l = f.ptag m l := by
  rw [Frame.putPair, Frame.ptag_setPtag, if_neg (by omega), Frame.ptag_setReg, Frame.ptag_setReg]

theorem mem_regRange {n k m : Nat} : m ∈ regRange n k ↔ n ≤ m ∧ m < n + k := by
  simp only [regRange, upto, List.mem_map, List.mem_range]
  constructor
  · rintro ⟨a, ha, rfl⟩; omega
  · exact fun h => ⟨m - n, by omega, by omega⟩

section
variable {f : Frame} {w : DstW} {code : Byte} (hc : 0x40 ≤ code.toNat) {l m : Nat} (v v2 : Val)
include hc

/-- The write of a destination leaves every register that the destination does not cover. -/
theorem Frame.reg_putDst_other (h : m ∉ dstRegs w code) : (f.putDst l w (code.toNat - 0x40) v v2).reg m l = f.reg m l := by
  rw [dstRegs, if_neg (Nat.not_lt.2 hc)] at h
  cases w
  case r32 | i32 | def32 | blk8 =>
    simp only [List.mem_singleton, mem_regRange] at h
    rw [Frame.putDst, Frame.reg_setPtag, Frame.reg_setReg, if_neg (by omega)]
  case r64 | def64 =>
    simp only [List.mem_cons, List.not_mem_nil, or_false, not_or] at h
    exact Frame.reg_putPair_other v h.1 h.2
  case defQ | quad =>
    simp only [mem_regRange] at h
    exact (Frame.reg_putPair_other v2 (by omega) (by omega)).trans (Frame.reg_putPair_other v (by omega) (by omega))

/-- The write of a destination leaves the tag of every pair that the destination does not touch. -/
theorem Frame.ptag_putDst_other (h : ∀ k ∈ dstRegs w code, k / 2 ≠ m / 2) :
    (f.putDst l w (code.toNat - 0x40) v v2).ptag m l = f.ptag m l := by
  rw [dstRegs, if_neg (Nat.not_lt.2 hc)] at h
  cases w
  case r32 | i32 | def32 | blk8 =>
    have := h (code.toNat - 0x40) (by simp [mem_regRange])
    rw [Frame.putDst, Frame.ptag_setPtag, if_neg (by omega), Frame.ptag_setReg]
  case r64 | def64 => exact Frame.ptag_putPair_other v (h _ List.mem_cons_self)
  case defQ | quad =>
    have h0 := h (code.toNat - 0x40) (mem_regRange.2 (by omega))
    have h2 := h (code.toNat - 0x40 + 2) (mem_regRange.2 (by omega))
    exact (Frame.ptag_putPair_other v2 h2).trans (Frame.ptag_putPair_other v h0)

end

/-- The write of a destination in one lane leaves the registers and tags of the others. -/
theorem Frame.view_putDst_other (f : Frame) {l m : Nat} (w : DstW) (n k : Nat) (v v2 : Val) (hl : l < 32) (hm : m < 32) (h : l ≠ m) :
    (f.putDst l w n v v2).reg k m = f.reg k m ∧ (f.putDst l w n v v2).ptag k m = f.ptag k m := by
  cases w <;> simp only [Frame.putDst, Frame.putPair, Frame.reg_setPtag, Frame.reg_setReg, Frame.ptag_setPtag, Frame.ptag_setReg,
    reg_key_ne hl hm (.inl h), if_false, and_self]

/-- A frame without its registers and tags. -/
def Frame.bare (f : Frame) : Frame := { f with regs := [], ptags := [] }

@[simp] theorem Frame.bare_setReg (f : Frame) (n l : Nat) (r : FReg) : (f.setReg n l r).bare = f.bare := rfl
@[simp] theorem Frame.bare_setPtag (f : Frame) (n l : Nat) (b : Bool) : (f.setPtag n l b).bare = f.bare := rfl

theorem Frame.bare_putDst (f : Frame) (l : Nat) (w : DstW) (n : Nat) (v v2 : Val) : (f.putDst l w n v v2).bare = f.bare := by
  cases w <;> simp only [Frame.putDst, Frame.putPair, Frame.bare_setReg, Frame.bare_setPtag]

/-- Frames after the write of a destination: that of the lane has it written, if it is a frame register. -/
theorem frame_putDst (s : State) (wk l : Nat) (w : DstW) (code : Byte) (push : Bool) (v v2 : Val) (fk : Nat) :
    (putDst s wk l w code push v v2).frame fk =
      if 0x40 ≤ code.toNat ∧ (s.lane wk l).frame = fk then (s.frame fk).putDst l w (code.toNat - 0x40) v v2 else s.frame fk := by
  have hpush : (putDst s wk l w code push v v2).frame fk = (putDst s wk l w code false v v2).frame fk := by
    rw [putDst_push]; cases push <;> rfl
  rw [hpush]
  simp only [putDst, Bool.false_eq_true, if_false]
  split
  · rw [if_neg (by omega)]
  split
  · rw [if_neg (by omega)]; rfl
  have hc : 0x40 ≤ code.toNat := by omega
  simp only [hc, true_and]
  cases w <;> simp only [putFReg, Machine.putPair, State.frame_modFrame] <;> split <;> simp_all [Frame.putDst, Frame.putPair]

/-! ### The end of an instruction -/

/-- The result of a lane that gives one. -/
def okOf (e : Nat × LaneOut) : Option (Nat × LaneRes) := match e.2 with | .ok r => some (e.1, r) | .fault _ => none

/-- The fault of a lane that takes one. -/
def badOf (e : Nat × LaneOut) : Option (Nat × LaneFault) := match e.2 with | .fault f => some (e.1, f) | .ok _ => none

/-- The results of some lanes written: their destinations, then their predicates and flags. -/
def resultsPut (s : State) (i : Instr) (c : Ctx) (oks : List (Nat × LaneRes)) : State :=
  oks.foldl (fun st e => putSide st c.wk e) (putResults s c.wk (resultDst i c.g).1 (resultDst i c.g).2.1 (resultDst i c.g).2.2 oks)

/-- The bundle that an instruction leaves, from its results and its faults. -/
def endBundle (i : Instr) (c : Ctx) (oks : List (Nat × LaneRes)) (bad : List (Nat × LaneFault)) : Bundle :=
  { c.b with
    lanes := if trapAfter i then c.b.lanes else (bad.map (·.1)).foldl dropLane c.b.lanes
    moved := c.b.moved ++ (oks.filterMap fun e => if e.2.next == .fall then none else some (e.1, e.2.next))
      ++ (if trapAfter i then bad.map fun e => (e.1, .left) else [])
    yielded := c.b.yielded || isYield i }

/-- The end of an instruction by its results and its faults. -/
theorem finish_eq (s : State) (i : Instr) (c : Ctx) (outs : List (Nat × LaneOut)) : finish s i c outs =
    advance (if (outs.filterMap badOf).isEmpty then resultsPut s i c (outs.filterMap okOf)
      else faultLanes (resultsPut s i c (outs.filterMap okOf)) c.wk (trapAtOf i c.b c.g.opc) (outs.filterMap badOf) (isPark i))
      c.wk c.path (endBundle i c (outs.filterMap okOf) (outs.filterMap badOf)) := rfl

section
variable (ls : List Nat)

theorem okOf_results (r : Nat → LaneRes) : (ls.map fun l => (l, LaneOut.ok (r l))).filterMap okOf = ls.map fun l => (l, r l) := by
  rw [List.filterMap_map, ← List.filterMap_eq_map]; rfl

theorem badOf_results (r : Nat → LaneRes) : (ls.map fun l => (l, LaneOut.ok (r l))).filterMap badOf = [] := by
  rw [List.filterMap_map]; exact List.filterMap_eq_nil_iff.2 fun _ _ => rfl

theorem okOf_faults (f : Nat → LaneFault) : (ls.map fun l => (l, LaneOut.fault (f l))).filterMap okOf = [] := by
  rw [List.filterMap_map]; exact List.filterMap_eq_nil_iff.2 fun _ _ => rfl

theorem badOf_faults (f : Nat → LaneFault) : (ls.map fun l => (l, LaneOut.fault (f l))).filterMap badOf = ls.map fun l => (l, f l) := by
  rw [List.filterMap_map, ← List.filterMap_eq_map]; rfl

end

/-- The bundle that an instruction leaves when every active lane gives a result. -/
def Ctx.ended (c : Ctx) (i : Instr) (r : Nat → LaneRes) : Bundle :=
  { c.b with
    moved := c.b.moved ++ ((c.active.map fun l => (l, r l)).filterMap fun e => if e.2.next == .fall then none else some (e.1, e.2.next))
    yielded := c.b.yielded || isYield i }

theorem Ended_eq (s : State) (i : Instr) (c : Ctx) (r : Nat → LaneRes) :
    Ended s i c r = (advance (resultsWritten s i c r) c.wk c.path (c.ended i r)).wake := by
  rw [Ended, finish_eq, okOf_results, badOf_results]
  congr 2
  simp [endBundle, Ctx.ended]

section
variable (s : State) (i : Instr) (c : Ctx) (r : Nat → LaneRes)

/-- The state in which every active lane has written its destination. -/
def destsOf : State := destsWritten s c.wk (resultDst i c.g).1 (resultDst i c.g).2.1 (resultDst i c.g).2.2 (c.active.map fun l => (l, r l))

theorem sansFrames_destsOf : (destsOf s i c r).sansFrames = s.sansFrames :=
  foldl_unobserved _ State.sansFrames s fun st e _ => sansFrames_putDst st c.wk e.1 _ _ _ _ _

theorem movesWarp_putResults : MovesWarp c.wk (destsOf s i c r)
    (putResults s c.wk (resultDst i c.g).1 (resultDst i c.g).2.1 (resultDst i c.g).2.2 (c.active.map fun l => (l, r l))) := by
  unfold putResults
  split
  · exact .refl _ _
  · exact .countWrite _ _ _

theorem sansLanes_resultsWritten : (resultsWritten s i c r).sansLanes =
    (putResults s c.wk (resultDst i c.g).1 (resultDst i c.g).2.1 (resultDst i c.g).2.2 (c.active.map fun l => (l, r l))).sansLanes :=
  foldl_unobserved _ State.sansLanes _ fun st e _ => sansLanes_putSide st c.wk e

theorem world_resultsWritten : (resultsWritten s i c r).world = s.world :=
  ((State.world_of_sansLanes (sansLanes_resultsWritten s i c r)).trans (movesWarp_putResults s i c r).world).trans
    (show (destsOf s i c r).sansFrames.world = s.sansFrames.world by rw [sansFrames_destsOf])

theorem team_resultsWritten (tk : Nat) : (resultsWritten s i c r).team tk = s.team tk := by
  have h : (resultsWritten s i c r).teams = s.teams :=
    ((State.teams_of_sansLanes (sansLanes_resultsWritten s i c r)).trans (movesWarp_putResults s i c r).teams).trans
      (show (destsOf s i c r).sansFrames.teams = s.sansFrames.teams by rw [sansFrames_destsOf])
  rw [State.team, h]; rfl

theorem warp_resultsWritten (k : Nat) : ((resultsWritten s i c r).warp k).unmoved = (s.warp k).unmoved
    ∧ (k ≠ c.wk → (resultsWritten s i c r).warp k = s.warp k) := by
  have hd : (destsOf s i c r).warp k = s.warp k := show (destsOf s i c r).sansFrames.warp k = s.sansFrames.warp k by rw [sansFrames_destsOf]
  rw [State.warp_of_sansLanes (sansLanes_resultsWritten s i c r), ← hd]
  exact ⟨(movesWarp_putResults s i c r).warp k, (movesWarp_putResults s i c r).other k⟩

theorem frame_resultsWritten (fk : Nat) : (resultsWritten s i c r).frame fk = (destsOf s i c r).frame fk := by
  rw [State.frame, State.frames_of_sansLanes (sansLanes_resultsWritten s i c r), (movesWarp_putResults s i c r).frames]; rfl

variable {c}

theorem lane_resultsWritten_other (h32 : ∀ l ∈ c.active, l < 32) {k m : Nat} (hm : m < 32) (h : k ≠ c.wk ∨ m ∉ c.active) :
    (resultsWritten s i c r).lane k m = s.lane k m := by
  have hne : ∀ l ∈ c.active, c.wk ≠ k ∨ l ≠ m := fun l hl => h.imp Ne.symm fun hn he => hn (he ▸ hl)
  have hdest : (destsOf s i c r).lane k m = s.lane k m := lane_foldl_others s fun st e he =>
    have hl := (mem_resultVals.1 he).1
    lane_putDst_other st _ _ _ _ _ (h32 _ hl) hm (hne _ hl)
  have hside := lane_foldl_others (f := fun st (e : Nat × LaneRes) => putSide st c.wk e) (k := k) (m := m)
    (ls := c.active.map fun l => (l, r l)) (putResults s c.wk (resultDst i c.g).1 (resultDst i c.g).2.1 (resultDst i c.g).2.2
      (c.active.map fun l => (l, r l))) fun st e he => by
    obtain ⟨l, hl, rfl⟩ := List.mem_map.1 he
    exact lane_putSide_other st (h32 l hl) hm (hne l hl)
  exact (hside.trans (by rw [State.lane, (movesWarp_putResults s i c r).lanes]; rfl)).trans hdest

end

theorem lane_putDst_frame (s : State) (wk l : Nat) (w : DstW) (code : Byte) (push : Bool) (v v2 : Val) {m : Nat} (hl : l < 32) (hm : m < 32) :
    ((putDst s wk l w code push v v2).lane wk m).frame = (s.lane wk m).frame := by
  by_cases h : l = m
  · subst h
    rw [lane_putDst_self]; simp only; split <;> split <;> rfl
  · rw [lane_putDst_other s w code push v v2 hl hm (.inr h)]

/-- What a frame shows stays through the writes of the destinations, where those of lane `l` into the frame and those of other lanes leave it. -/
theorem observed_destsOf {α : Type} (obs : Frame → α) (s : State) (i : Instr) {c : Ctx} (r : Nat → LaneRes) (h32 : ∀ l ∈ c.active, l < 32)
    {fk l : Nat} (hl : l < 32)
    (hself : l ∈ c.active → (s.lane c.wk l).frame = fk → (r l).val ≠ none → 0x40 ≤ (resultDst i c.g).2.1.toNat →
      ∀ F v v2, obs (Frame.putDst F l (resultDst i c.g).1 ((resultDst i c.g).2.1.toNat - 0x40) v v2) = obs F)
    (hother : ∀ F m n v v2, m < 32 → m ≠ l → obs (Frame.putDst F m (resultDst i c.g).1 n v v2) = obs F) :
    obs ((destsOf s i c r).frame fk) = obs (s.frame fk) := by
  refine (List.foldlRecOn (motive := fun st : State => (st.lane c.wk l).frame = (s.lane c.wk l).frame
    ∧ obs (st.frame fk) = obs (s.frame fk)) _ _ ⟨rfl, rfl⟩ fun st ⟨hf, hr⟩ e he => ?_).2
  obtain ⟨hmem, hval, -⟩ := mem_resultVals.1 he
  refine ⟨(lane_putDst_frame st c.wk e.1 _ _ _ _ _ (h32 _ hmem) hl).trans hf, ?_⟩
  rw [frame_putDst, ← hr]
  split
  · next hc =>
    by_cases hne : e.1 = l
    · subst hne
      exact hself hmem (hf.symm.trans hc.2) (by rw [hval]; exact Option.some_ne_none _) hc.1 _ _ _
    · exact hother _ _ _ _ _ (h32 _ hmem) hne
  · rfl

/-! ### An active lane -/

theorem Lane.getP_setP_ne (ln : Lane) {n m : Nat} (b : Bool) (h : n ≠ m) : (ln.setP n b).getP m = ln.getP m := by
  have hbit : (1#16 <<< n).getLsbD m = false := by
    rw [BitVec.getLsbD_shiftLeft, BitVec.getLsbD_one]
    by_cases hlt : m < n
    · simp [hlt]
    · have : ¬ m - n = 0 := by omega
      simp [this]
  cases b
  · simp only [Lane.getP, Lane.setP, Bool.false_eq_true, if_false, BitVec.getLsbD_and, BitVec.getLsbD_not, hbit, Bool.not_false, Bool.and_true]
    by_cases hm : m < 16
    · simp [hm]
    · rw [BitVec.getLsbD_of_ge _ _ (Nat.not_lt.1 hm)]; rfl
  · simp only [Lane.getP, Lane.setP, if_true, BitVec.getLsbD_or, hbit, Bool.or_false]

theorem getP_foldl_setP {m : Nat} : ∀ (ps : List (Nat × Bool)) (ln : Lane), (∀ p ∈ ps, p.1 ≠ m) →
    (ps.foldl (fun (ln : Lane) p => ln.setP p.1 p.2) ln).getP m = ln.getP m
  | [], _, _ => rfl
  | p :: ps, ln, h => (getP_foldl_setP ps _ fun q hq => h q (List.mem_cons_of_mem p hq)).trans
      (ln.getP_setP_ne p.2 (h p List.mem_cons_self))

section
variable (s : State) (wk l : Nat) (w : DstW) (code : Byte) (push : Bool) (v v2 : Val)

theorem putDst_rest : ((putDst s wk l w code push v v2).lane wk l).rest = (s.lane wk l).rest := by
  rw [lane_putDst_self]; simp only; split <;> split <;> rfl

variable {n : Nat}

theorem Lane.getG_setG_ne (ln : Lane) {m : Nat} (h : m ≠ n) (v : Val) : (ln.setG m v).getG n = ln.getG n := tget_tput_ne _ h _ _

theorem putDst_g_other (h : code.toNat ≠ n + 0x10 ∨ 0x40 ≤ code.toNat) :
    ((putDst s wk l w code push v v2).lane wk l).getG n = (s.lane wk l).getG n := by
  have hg : (if 0x10 ≤ code.toNat ∧ code.toNat < 0x40 then (s.lane wk l).setG (code.toNat - 0x10) (pushVal w code v)
      else s.lane wk l).getG n = (s.lane wk l).getG n := by
    split
    · exact Lane.getG_setG_ne _ (by omega) _
    · rfl
  rw [lane_putDst_self, ← hg]
  cases push <;> rfl

end

/-- What the write of its destination leaves of an active lane. -/
theorem lane_destsOf (s : State) (i : Instr) {c : Ctx} (r : Nat → LaneRes) (hn : c.active.Nodup) (h32 : ∀ l ∈ c.active, l < 32) {l : Nat}
    (hl : l ∈ c.active) : ((destsOf s i c r).lane c.wk l).rest = (s.lane c.wk l).rest
      ∧ ((destsOf s i c r).lane c.wk l).p = (s.lane c.wk l).p
      ∧ ∀ n, (resultDst i c.g).2.1.toNat ≠ n + 0x10 ∨ 0x40 ≤ (resultDst i c.g).2.1.toNat ∨ (r l).val = none →
        ((destsOf s i c r).lane c.wk l).getG n = (s.lane c.wk l).getG n := by
  cases hv : (r l).val with
  | none =>
    have hd : (destsOf s i c r).lane c.wk l = s.lane c.wk l := congrArg (·.1) (laneView_destsWritten_none h32 hl hv)
    rw [hd]; exact ⟨rfl, rfl, fun _ _ => rfl⟩
  | some v =>
    obtain ⟨a, ha, hd⟩ := laneView_destsWritten_some (s := s) (wk := c.wk) (w := (resultDst i c.g).1) (code := (resultDst i c.g).2.1)
      (push := (resultDst i c.g).2.2) hn h32 hl hv
    have hal : a.lane c.wk l = s.lane c.wk l := congrArg (·.1) ha
    have hdl : (destsOf s i c r).lane c.wk l = (putDst a c.wk l (resultDst i c.g).1 (resultDst i c.g).2.1 (resultDst i c.g).2.2 v
        ((r l).val2.getD Val.zero)).lane c.wk l := congrArg (·.1) hd
    rw [hdl, ← hal]
    exact ⟨putDst_rest .., putDst_p .., fun n hne => putDst_g_other _ _ _ _ _ _ _ _ (by simpa using hne)⟩

end Sys2Proof.Machine

open Sys2Proof Sys2Proof.Machine

/-- Settles O15: the results are written lane by lane into destinations, predicates and flags, and the bundle then goes on; each of
these steps leaves what it does not name. -/
theorem instructionFrame : Obligations.InstructionFrame := by
  unfold Obligations.InstructionFrame
  intro s i c r hn hin hstep
  have h32 : ∀ l ∈ c.active, l < 32 := fun l hl => (mem_lanesOf.1 (hin l hl)).1
  have hgo := advance_goesOn (path := c.path) (b := c.ended i r) ((step_resultsWritten s i c r c.wk).trans hstep)
  have hteam : ((resultsWritten s i c r).warp c.wk).team = (s.warp c.wk).team :=
    Warp.team_of_unmoved (warp_resultsWritten s i c r c.wk).1
  have hframe : ∀ fk, (Ended s i c r).frame fk = (destsOf s i c r).frame fk := fun fk => by
    rw [← frame_resultsWritten, State.frame, (ended_view hstep).1]; rfl
  have hworld : (Ended s i c r).world = { s.world with epoch := s.epoch + 1 } := by
    rw [Ended_eq]; exact congrArg State.wake (hgo.world.trans (world_resultsWritten s i c r))
  refine ⟨hworld, fun a => ?byte, fun tk => ?team, fun wk => ?warp, fun wk l hl ho => ?outside,
    fun l hl hna => ?idle, fun l hl => ?active, fun fk => ?base, fun fk n l hl h => ?reg, fun fk n l hl h => ?tag⟩
  case byte => exact congrArg (Mem.byte · a) (show (Ended s i c r).world.hbm = s.hbm by rw [hworld]; rfl)
  case team =>
    rw [Ended_eq, State.team_of_wake, ← team_resultsWritten s i c r, ← hteam]
    exact hgo.team tk
  case warp =>
    rw [Ended_eq, State.warp_of_wake]
    obtain ⟨hu, ho⟩ := warp_resultsWritten s i c r wk
    exact ⟨(hgo.warp wk).trans hu, fun hne => (hgo.other wk hne).trans (ho hne)⟩
  case outside =>
    rw [Ended_eq, State.lane_of_wake, hgo.outside wk l hl ho]
    exact lane_resultsWritten_other s i r h32 hl (ho.imp id fun hnot ha => hnot (hin l ha))
  case idle =>
    rw [(ended_view hstep).2, lane_resultsWritten_other s i r h32 (mem_lanesOf.1 hl).1 (.inr hna)]
  case active =>
    have hlane := (ended_lane (i := i) (r := r) hn h32 hstep hl).1
    obtain ⟨hrest, hp, hg⟩ := lane_destsOf s i r hn h32 hl
    refine ⟨(congrArg Lane.rest hlane).trans hrest, fun n h => (congrArg (Lane.getG · n) hlane).trans (hg n h), fun n h => ?_⟩
    have hside := (congrArg (Lane.getP · n) hlane).trans (getP_foldl_setP (r l).preds _ h)
    exact hside.trans (congrArg (·.getLsbD n) hp)
  case base =>
    rw [hframe]
    exact observed_destsOf Frame.bare s i r h32 (Nat.zero_lt_succ 31) (fun _ _ _ _ _ _ _ => Frame.bare_putDst ..)
      fun _ _ _ _ _ _ _ => Frame.bare_putDst ..
  case reg =>
    rw [hframe]
    exact observed_destsOf (Frame.reg · n l) s i r h32 hl (fun ha hf hv hc _ _ _ => Frame.reg_putDst_other hc _ _ (h ha hf hv))
      fun F m k v v2 hm hne => (F.view_putDst_other _ k n v v2 hm hl hne).1
  case tag =>
    rw [hframe]
    exact observed_destsOf (Frame.ptag · n l) s i r h32 hl (fun ha hf hv hc _ _ _ => Frame.ptag_putDst_other hc _ _ (h ha hf hv))
      fun F m k v v2 hm hne => (F.view_putDst_other _ k n v v2 hm hl hne).2

/-- Settles O16: with no active lane the skeleton answers the bundle's going on at once, which before the last instruction of a clause
touches the warp alone. -/
theorem guardFalseEverywhere : Obligations.GuardFalseEverywhere := by
  unfold Obligations.GuardFalseEverywhere
  intro s i wk path b g hcur hb hg hlegal hoff
  refine ⟨exec_unguarded hcur hb hg hlegal hoff, fun h0 h1 => ?_⟩
  have hc := MovesWarp.closeLanding s wk path
  rw [advance_next h0 h1]
  refine ⟨congrArg State.wake hc.world, hc.lanes, hc.frames, hc.teams, ?_, ?_⟩
  · rw [State.warp_of_wake, State.warp_modWarp_self, Warp.path_setPath_self]
  · rw [State.warp_of_wake, State.warp_modWarp_self]
    exact Warp.ctr_of_unmoved ((Warp.unmoved_setPath ..).trans (hc.warp wk))
end

section
/-! ## Control and where lanes go when a clause closes (R111, R112, R119, R171, R172) -/

namespace Sys2Proof.Machine

/-- An instruction that gives every active lane an outcome from its operands ends with these outcomes. -/
theorem issue_alu_outs {s : State} {i : Instr} {c : Ctx} {x : Nat → Srcs} (h : Issues s i c) (hr : Reads s c x)
    {f : State → Ctx → Nat → Srcs → LaneOut} {o : Nat → LaneOut} (hf : ∀ l ∈ c.active, f s c l (x l) = o l) :
    issue s i (aluBody f) = .next (finish s i c (c.active.map fun l => (l, o l))).wake := by
  refine issue_ends h ?_
  simp only [aluBody, hr.lanes h, List.map_map]
  exact congrArg (s, ·) (List.map_congr_left fun l hl => congrArg (l, ·) (hf l hl))

/-- An instruction whose body does nothing but give every lane a result performs. -/
theorem performs_allOk {i : Instr} {r : LaneRes} (he : ∀ s, exec i s = issue s i fun s' c => (s', allOk c r)) :
    Performs i fun _ _ _ _ => r := fun s _ _ h _ => (he s).trans (issue_ended h rfl)

/-- The target of a jump, as an offset (R119). -/
def jumpOff (b : Bundle) (off : BitVec 32) : Int := ((b.hdr.off + BitVec.ofNat 40 (8 + 8 * b.idx)).toNat : Int) + off.toInt

theorem jumpTarget_inside {b : Bundle} {off : BitVec 32} (h0 : 0 ≤ jumpOff b off) (h1 : jumpOff b off < 2 ^ 40) :
    jumpTarget b off = .ok ⟨b.hdr.obj, BitVec.ofInt 40 (jumpOff b off)⟩ := if_neg (by
  rintro (h | h)
  · exact absurd h (Int.not_lt.2 h0)
  · exact absurd h (Int.not_le.2 h1))

theorem jumpTarget_outside {b : Bundle} {off : BitVec 32} (h : jumpOff b off < 0 ∨ 2 ^ 40 ≤ jumpOff b off) :
    jumpTarget b off = .error { cause := .operand, sub := 2, opv := BitVec.ofInt 64 (jumpOff b off) } := if_pos h

/-- Where the lanes of a list are to go, by their results. -/
theorem tfind_moved {r : Nat → LaneRes} {l : Nat} : ∀ ls : List Nat,
    tfind ((ls.map fun l => (l, r l)).filterMap fun e => if e.2.next == .fall then none else some (e.1, e.2.next)) l
      = if l ∈ ls ∧ (r l).next ≠ .fall then some (r l).next else none
  | [] => by simp [tfind]
  | m :: ls => by
    have ih := tfind_moved (r := r) (l := l) ls
    rw [List.map_cons, List.filterMap_cons]
    by_cases hfall : (r m).next = .fall
    · simp only [hfall, beq_self_eq_true, if_true, ih, List.mem_cons]
      by_cases hm : l = m
      · subst hm; simp [hfall]
      · simp [hm]
    · simp only [beq_iff_eq, hfall, if_false, tfind, List.mem_cons]
      by_cases hm : m = l
      · subst hm; simp [hfall]
      · simpa [hm, Ne.symm hm] using ih

/-- A bundle after its last instruction closes. -/
theorem advance_closes {s : State} {wk path : Nat} {b : Bundle} (h0 : b.lanes ≠ 0) (h1 : b.words.length ≤ b.idx + 1) :
    advance s wk path b = closeBundle (closeLanding s wk path) wk path b := by
  rw [advance, if_neg h0, if_pos h1]

/-- The path of a bundle that closes, or has no lane left, is free. -/
theorem path_advance_closes {s : State} {wk path : Nat} {b : Bundle} (hstep : (s.warp wk).step = false) (h1 : b.words.length ≤ b.idx + 1) :
    ((advance s wk path b).warp wk).path path = none := by
  by_cases h0 : b.lanes = 0
  · rw [advance_empty s wk path b h0, State.warp_modWarp_self, Warp.path_setPath_self]
  · have hc := MovesWarp.closeLanding s wk path
    rw [advance_closes h0 h1, closeBundle_unstepped ((Warp.step_of_unmoved (hc.warp wk)).trans hstep), State.warp_of_modTeam,
      State.warp_modWarp_self, Bundle.path_closeWarp]

/-- A lane of a bundle that closes stands at its place. -/
theorem lane_advance_closes {s : State} {wk path l : Nat} {b : Bundle} (hstep : (s.warp wk).step = false) (h1 : b.words.length ≤ b.idx + 1)
    (hl : l ∈ lanesOf b.lanes) : (advance s wk path b).lane wk l = b.place l (s.lane wk l) := by
  have h0 : b.lanes ≠ 0 := fun h0 => by rw [h0] at hl; simp [mem_lanesOf] at hl
  have hc := MovesWarp.closeLanding s wk path
  rw [advance_closes h0 h1, closeBundle_unstepped ((Warp.step_of_unmoved (hc.warp wk)).trans hstep), State.lane_of_modTeam,
    State.lane_of_modWarp, lanesMoved, lane_foldl_moveLane _ hl, State.lane, hc.lanes]
  rfl

/-- Where a lane of the bundle stands when an instruction closes it and no lane has left it (R112). -/
theorem place_ended {c : Ctx} {i : Instr} {r : Nat → LaneRes} (hmoved : c.b.moved = []) {l : Nat} (hleft : l ∈ c.active → (r l).next ≠ .left)
    (ln : Lane) : (c.ended i r).place l ln =
      { ln with
        pc := if l ∈ c.active then (match (r l).next with | .jump pc => pc | _ => c.b.hdr.add (8 + 8 * c.b.words.length))
          else c.b.hdr.add (8 + 8 * c.b.words.length)
        cix := 0, st := .run } := by
  have hfind : tfind (c.ended i r).moved l = if l ∈ c.active ∧ (r l).next ≠ .fall then some (r l).next else none := by
    rw [Ctx.ended, hmoved]; exact tfind_moved c.active
  by_cases ha : l ∈ c.active
  · rcases hnext : (r l).next with _ | pc | _
    · simp only [Bundle.place, hfind, ha, hnext]; rfl
    · simp only [Bundle.place, hfind, ha, hnext]; rfl
    · exact absurd hnext (hleft ha)
  · simp only [Bundle.place, hfind, ha]; rfl

end Sys2Proof.Machine

open Sys2Proof Sys2Proof.Machine

/-- Settles O17: NOP and YIELD have a body of no effect, BR one that gives its target; a bundle that closes moves each of its lanes once,
to where the list of moved lanes, made of the results, says. -/
theorem controlResults : Obligations.ControlResults := by
  unfold Obligations.ControlResults
  refine ⟨⟨fun f => performs_allOk fun _ => rfl, fun f => performs_allOk fun _ => rfl, fun f s c x h hr => ⟨fun h0 h1 => ?_, fun ho => ?_⟩⟩,
    fun s i c r hn hin hstep hmoved hlast hleft => ⟨?_, fun l hl => ?_⟩⟩
  · exact issue_alu h hr fun l _ => by simp only [jumpTarget_inside h0 h1]; rfl
  · exact issue_alu_outs h hr fun l _ => by simp only [jumpTarget_outside ho]; rfl
  · rw [Ended_eq, State.warp_of_wake]
    exact path_advance_closes ((step_resultsWritten s i c r c.wk).trans hstep) hlast
  · have hz : (Ended s i c r).lane c.wk l = (c.ended i r).place l ((resultsWritten s i c r).lane c.wk l) := by
      rw [Ended_eq, State.lane_of_wake]
      exact lane_advance_closes ((step_resultsWritten s i c r c.wk).trans hstep) hlast hl
    rw [hz, place_ended hmoved (hleft l)]
    exact ⟨rfl, rfl, rfl⟩
end

section
/-! ## Control registers (R375, R376) -/

namespace Sys2Proof.Machine

/-- A body whose lanes act one after another and leave the state ends with their outcomes. -/
theorem issue_seq_still {s : State} {i : Instr} {c : Ctx} {x : Nat → Srcs} (h : Issues s i c) (hr : Reads s c x)
    {f : State → Ctx → Nat → Srcs → State × Option LaneOut} {o : Nat → LaneOut} (hf : ∀ l ∈ c.active, f s c l (x l) = (s, some (o l))) :
    issue s i (seqBody f) = .next (finish s i c (c.active.map fun l => (l, o l))).wake :=
  issue_seq h hr (σ := fun _ => s) ⟨rfl, fun _ l hk => hf l (List.mem_of_getElem? hk)⟩

/-- What a write of a control register leaves alone: memory, frames, the package and every other lane. -/
theorem crnWrite_keeps (s : State) (wk l n : Nat) (v : Word) :
    (crnWrite s wk l n v).hbm = s.hbm ∧ (crnWrite s wk l n v).frames = s.frames ∧ (crnWrite s wk l n v).pkg = s.pkg := by
  unfold crnWrite
  dsimp only
  split <;> exact ⟨rfl, rfl, rfl⟩

theorem lane_crnWrite_other (s : State) {wk l k m : Nat} (n : Nat) (v : Word) (hl : l < 32) (hm : m < 32) (h : k ≠ wk ∨ m ≠ l) :
    (crnWrite s wk l n v).lane k m = s.lane k m := by
  have hlane : ∀ f : Lane → Lane, (s.modLane wk l f).lane k m = s.lane k m := fun f =>
    s.lane_modLane_other f hl hm (h.imp Ne.symm Ne.symm)
  unfold crnWrite
  dsimp only
  split
  case h_1 | h_4 | h_5 => exact hlane _
  all_goals rfl

/-- The registers that no write changes. -/
theorem crnWrite_readOnly (s : State) (wk l : Nat) (v : Word) {n : Nat} (h : (8 ≤ n ∧ n ≤ 0x11) ∨ n = 0x26 ∨ n = 0x30 ∨ n = 0x31) :
    crnWrite s wk l n v = s := by
  unfold crnWrite
  dsimp only
  split
  case h_14 => rfl
  all_goals omega

/-- Bit 63 of the trap record's header is V (R371). -/
theorem TrapRec.dw_zero_v (r : TrapRec) : (r.dw 0).getLsbD 63 = r.v := by
  have hb : ∀ b, b2n b ≤ 1 := fun b => by cases b <;> decide
  have ha := hb r.async
  have hn := hb r.nest
  have hp := hb r.pk
  have hc := r.cause.isLt
  have hs := r.sub.isLt
  have ho := r.opc.isLt
  have hl := r.lmask.isLt
  have hv : b2n r.v = if r.v then 1 else 0 := by cases r.v <;> rfl
  rw [TrapRec.dw, BitVec.getLsbD_ofNat, Nat.testBit_eq_decide_div_mod_eq]
  cases hv' : r.v <;> simp only [hv', Bool.false_eq_true, if_true, if_false] at hv <;> simp <;> omega

/-- The low bits of a vector, by truncation and by extraction. -/
theorem truncate_eq_low {w : Nat} (n : Nat) (v : BitVec w) : v.truncate n = v.extractLsb' 0 n := by
  apply BitVec.eq_of_getLsbD_eq; intro i hi; simp [hi]

theorem word_pcOf (v : Word) : (pcOf v).word = v := by
  have h : v.extractLsb' 40 24 ++ v.extractLsb' 0 40 = v.extractLsb' 0 64 := BitVec.extractLsb'_append_extractLsb'_eq_extractLsb' rfl
  exact h.trans BitVec.extractLsb'_eq_self

/-- A stored time is within its limits (R248, R361). -/
theorem clampUsec_bounds (v : Word) : 10 ≤ (clampUsec v).toNat ∧ (clampUsec v).toNat ≤ 1000000 := by
  unfold clampUsec
  dsimp only
  split
  · decide
  · split
    · decide
    · rw [BitVec.toNat_ofNat]; omega

end Sys2Proof.Machine

open Sys2Proof Sys2Proof.Machine

/-- Settles O21: the lanes of SRD and SWR by their outcomes, in turn or all alike; the registers by what a read finds in the field that a write
set. -/
theorem controlRegisters : Obligations.ControlRegisters := by
  unfold Obligations.ControlRegisters
  refine ⟨⟨fun f s c x h hr hh => ?_, fun f s c x h hr ho hh => ?_, fun f s c x h hr => swr_writes h hr, fun f s c x h hr ho hh => ?_,
    fun f s c x h hr h3 hh hv => ?_, fun s wk b f g hn => ?_⟩, ?_⟩
  · refine issue_alu h hr fun l hl => ?_
    by_cases ho : handlerOnly (crnOf f) = true
    · simp only [hh ho l hl, Bool.not_true, Bool.and_false, Bool.false_eq_true, if_false]; rfl
    · simp only [ho, Bool.false_and, Bool.false_eq_true, if_false]; rfl
  · exact issue_alu_outs h hr fun l hl => if_pos (by rw [crnOf, ho, hh l hl]; rfl)
  · exact issue_seq_still h hr fun l hl => if_pos (by rw [crnOf, ho, hh l hl]; rfl)
  · refine issue_seq_still h hr fun l hl => ?_
    have hz : bits (x l).av.bits 2 0 ≠ 0 := fun hz => hv l hl (BitVec.eq_of_toNat_eq hz)
    have hc : crnOf f = 3 := h3
    simp only [hc, hh l hl, Bool.not_true, Bool.and_false, Bool.false_eq_true, if_false]
    exact if_pos (by simpa using hz)
  · exact if_pos (by simpa [privFault] using hn)
  · intro s wk l v hl w
    have hmod : ∀ g : Lane → Lane, (s.modLane wk l g).lane wk l = g (s.lane wk l) := fun g => s.lane_modLane_self wk l g
    have htout : crnRead (w 0x25) wk l 0x25 = (clampUsec v).zeroExtend 64 := by
      show (((w 0x25).warp wk).tout).zeroExtend 64 = _
      rw [show w 0x25 = s.modWarp wk fun x => { x with tout := clampUsec v } from rfl, State.warp_modWarp_self]
    have hn : (crnRead (w 0x25) wk l 0x25).toNat = (clampUsec v).toNat := by
      rw [htout, BitVec.toNat_setWidth, Nat.mod_eq_of_lt (by have := (clampUsec_bounds v).2; omega)]
    rw [hn]
    refine ⟨rfl, ?_, ?_, ?_, ?_, ?_, TrapRec.dw_zero_v _, rfl, (clampUsec_bounds v).1,
      (clampUsec_bounds v).2, fun n hn => crnWrite_readOnly s wk l v hn, fun n => ?_⟩
    · refine (congrArg Lane.flags (hmod _)).trans ?_
      rw [← truncate_eq_low]
    · refine (congrArg (fun t => t.tmask.zeroExtend 64) (State.team_modTeam_self s (s.warp wk).team _)).trans ?_
      rw [← truncate_eq_low]
    · exact congrArg Warp.hbase (State.warp_modWarp_self s wk _)
    · exact (congrArg (Pc.word ∘ Lane.rpc) (hmod _)).trans (word_pcOf v)
    · refine (congrArg (fun ln => ln.rix.zeroExtend 64) (hmod _)).trans ?_
      rw [← truncate_eq_low]
    · obtain ⟨hh, hf, hp⟩ := crnWrite_keeps s wk l n v
      exact ⟨hh, hf, hp, fun k m hm h => lane_crnWrite_other s n v hl hm h⟩

end

section
/-! ## Instructions of the trap class (R374, R377–R381, R387) -/

namespace Sys2Proof.Machine

/-! ### Instructions whose lanes all fault -/

theorem resultsPut_nil (s : State) (i : Instr) (c : Ctx) : resultsPut s i c [] = s := by
  have hcols : ∀ n, ((upto n).map fun _ => ([] : List (BitVec 32))).all (·.isEmpty) = true := fun n => by simp
  simp only [resultsPut, putResults, List.filterMap_nil, List.foldl_nil, List.map_nil, countWrite, hcols, Bool.or_true, if_true, ite_self]

/-- The end of an instruction whose active lanes all fault. -/
theorem finish_faults {s : State} {i : Instr} {c : Ctx} (h : Issues s i c) (f : Nat → LaneFault) :
    finish s i c (c.active.map fun l => (l, .fault (f l))) =
      advance (faultLanes s c.wk (trapAtOf i c.b c.g.opc) (c.active.map fun l => (l, f l)) (isPark i)) c.wk c.path
        (endBundle i c [] (c.active.map fun l => (l, f l))) := by
  rw [finish_eq, okOf_faults, badOf_faults, resultsPut_nil, if_neg]
  simpa [List.isEmpty_iff] using h.nonempty

/-- The bundle of an instruction that traps after itself keeps its lanes, which do not move when it closes. -/
theorem endBundle_trapAfter {i : Instr} {c : Ctx} (hi : trapAfter i = true) (hy : isYield i = false) (f : Nat → LaneFault) :
    endBundle i c [] (c.active.map fun l => (l, f l)) = { c.b with moved := c.b.moved ++ c.active.map fun l => (l, .left) } := by
  simp only [endBundle, hi, hy, if_true, Bool.or_false, List.filterMap_nil, List.append_nil, List.map_map]
  rfl

/-- TRAP and PARK (R377, R380). -/
theorem issue_trapAfter {s : State} {i : Instr} {c : Ctx} (h : Issues s i c) (hi : trapAfter i = true) (hy : isYield i = false)
    (e : LaneFault) : issue s i (fun s' c => (s', allFault c e)) =
      .next (advance (faultLanes s c.wk ⟨c.b.hdr, c.b.idx, c.g.opc, c.b.hdr.add (8 + 8 * c.b.words.length), 0⟩
        (c.active.map fun l => (l, e)) (isPark i)) c.wk c.path
        { c.b with moved := c.b.moved ++ c.active.map fun l => (l, .left) }).wake := by
  rw [issue_ends h (r := fun _ => .fault e) rfl, finish_faults h, endBundle_trapAfter hi hy, trapAtOf, if_pos hi]
  rfl

/-! ### The fields of instructions without operands -/

theorem staticCheck_reserved {i : Instr} {g : Sig} (hs : sigOf i = some g) (h : g.reserved = true ∨ valueReserved i = true) :
    staticCheck i = some 5 := by
  rw [staticCheck, hs]
  exact if_pos (by simpa using h)

/-- A field set in an instruction that has no operand is reserved (R124). -/
theorem Sig.reserved_of_field {g : Sig} {f : BaseF} (hfs : g.fs = baseFields f) (hd : g.d = .none) (ha : g.a = .none) (hb : g.b = .none)
    (hc : g.c = .none) (h : f.d ≠ 0 ∨ f.a ≠ 0 ∨ f.b ≠ 0 ∨ f.c ≠ 0 ∨ f.nq = true) : g.reserved = true := by
  simp only [Sig.reserved, hfs, hd, ha, hb, hc, Opnd.reserved, Opnd.nqUsed, baseFields, Bool.or_eq_true, bne_iff_ne,
    Bool.not_false, Bool.and_true]
  tauto

/-- An MD in an instruction that has no modifier is reserved (R124). -/
theorem Sig.reserved_of_md {g : Sig} (hmask : g.mask = 0) (h : g.fs.md ≠ 0) : g.reserved = true := by
  have hmd : g.fs.md &&& ~~~g.mask = g.fs.md := by rw [hmask]; exact BitVec.and_allOnes
  rw [Sig.reserved, hmd, bne_iff_ne.2 h, Bool.or_true]

/-! ### RFT (R379) -/

/-- Leaving a frame changes no lane. -/
theorem lanes_leaveFrame (s : State) (fk l : Nat) : (leaveFrame s fk l).lanes = s.lanes := by
  have hcancel : (cancelLane s fk l .software 0).lanes = s.lanes := by
    simp only [cancelLane]; split <;> rfl
  have hrec : ∀ (t : State) f, (dropRecord t f).lanes = t.lanes := fun t f => by
    unfold dropRecord; split <;> rfl
  have hdoffer : ∀ (t : State) fk f, (dropDoffer t fk f).lanes = t.lanes := fun t fk f => by
    unfold dropDoffer
    dsimp only
    split
    · split <;> rfl
    · split <;> rfl
    · rfl
  have hrelease : ∀ t fk, (tryRelease t fk).lanes = t.lanes := fun t fk => by
    simp only [tryRelease]
    split
    · exact (hdoffer _ _ _).trans (hrec _ _)
    · rfl
  exact (hrelease _ _).trans hcancel

theorem lanes_leaveN (l : Nat) : ∀ (n : Nat) (s : State) (fk : Nat), (leaveN s fk l n).1.lanes = s.lanes
  | 0, _, _ => rfl
  | n + 1, s, fk => by
    simp only [leaveN]
    split
    · exact lanes_leaveFrame s fk l
    · exact (lanes_leaveN l n _ _).trans (lanes_leaveFrame s fk l)

/-- The exit of a lane leaves the other lanes. -/
theorem lane_exitLane_other (s : State) {wk l k m : Nat} (hl : l < 32) (hm : m < 32) (h : wk ≠ k ∨ l ≠ m) :
    (exitLane s wk l).lane k m = s.lane k m := by
  simp only [exitLane]
  split
  · rfl
  · refine (State.lane_modLane_other _ _ hl hm h).trans ?_
    show (leaveN _ _ _ _).1.lane k m = _
    rw [State.lane, lanes_leaveN, State.lane]

/-- A lane in a handler leaves it by RFT with a mask (R379). -/
def leaveHandler (wk : Nat) (m : Word) (s : State) (l : Nat) : State :=
  let s1 := s.modLane wk l fun ln => { ln with h := false, pv := false }
  if m.getLsbD l then s1.modLane wk l fun ln => { ln with pc := ln.rpc, cix := ln.rix.toNat, st := .run } else exitLane s1 wk l

theorem lane_leaveHandler_other (m : Word) (s : State) {wk l k n : Nat} (hl : l < 32) (hn : n < 32) (h : wk ≠ k ∨ l ≠ n) :
    (leaveHandler wk m s l).lane k n = s.lane k n := by
  have h1 := s.lane_modLane_other (fun ln => { ln with h := false, pv := false }) hl hn h
  simp only [leaveHandler]
  split
  · exact (State.lane_modLane_other _ _ hl hn h).trans h1
  · exact (lane_exitLane_other _ hl hn h).trans h1

theorem rftLane_handler {s : State} {wk l : Nat} (m : Word) (hl : l < 32) (h : (s.lane wk l).h = true) :
    rftLane wk (lo32 m) s l = leaveHandler wk m s l := by
  have hbit : (lo32 m).getLsbD l = m.getLsbD l := by simp [lo32, hl]
  simp only [rftLane, h, Bool.not_true, Bool.false_eq_true, if_false, hbit]
  rfl

/-- RFT of lanes that are all in a handler. -/
theorem foldl_rftLane_handler {wk : Nat} (m : Word) : ∀ {ls : List Nat} (s : State), ls.Nodup → (∀ l ∈ ls, l < 32) →
    (∀ l ∈ ls, (s.lane wk l).h = true) → ls.foldl (rftLane wk (lo32 m)) s = ls.foldl (leaveHandler wk m) s
  | [], _, _, _, _ => rfl
  | l :: ls, s, hn, h32, hh => by
    rw [List.nodup_cons] at hn
    have hl := h32 l List.mem_cons_self
    have hr : ∀ k ∈ ls, k < 32 := fun k hk => h32 k (List.mem_cons_of_mem l hk)
    rw [List.foldl_cons, List.foldl_cons, rftLane_handler m hl (hh l List.mem_cons_self)]
    refine foldl_rftLane_handler m _ hn.2 hr fun k hk => ?_
    rw [lane_leaveHandler_other m s hl (hr k hk) (.inr fun e => hn.1 (e ▸ hk))]
    exact hh k (List.mem_cons_of_mem l hk)

/-- RFT does nothing to lanes outside a handler. -/
theorem foldl_rftLane_outside {wk : Nat} {s : State} (m : BitVec 32) : ∀ {ls : List Nat}, (∀ l ∈ ls, (s.lane wk l).h = false) →
    ls.foldl (rftLane wk m) s = s
  | [], _ => rfl
  | l :: ls, hh => by
    have h0 : rftLane wk m s l = s := if_pos (by rw [hh l List.mem_cons_self]; rfl)
    rw [List.foldl_cons, h0]
    exact foldl_rftLane_outside m fun k hk => hh k (List.mem_cons_of_mem l hk)

/-- RFT by lanes that are all in a handler. -/
theorem rft_leaves {s : State} {f : BaseF} {c : Ctx} {m : Val} (h : Issues s (.rft f) c) (hm : read32 s c.wk c.lead c.g.fs.a c.g.fs.btA = .ok m)
    (hh : ∀ l ∈ c.active, (s.lane c.wk l).h = true) : execRft f s =
      .next (Ended (settleBarrier (settleV (c.active.foldl (leaveHandler c.wk m.bits) s) c.wk) (s.warp c.wk).team) (.rft f) c
        fun _ => { next := .left }) := by
  refine issue_ended h (t := settleBarrier (settleV (c.active.foldl (leaveHandler c.wk m.bits) s) c.wk) (s.warp c.wk).team) ?_
  simp only [leadRead_ok hm, h.lanes, foldl_rftLane_handler m.bits s h.nodup (fun _ => h.lt32) hh]
  refine congrArg (Prod.mk _) (List.map_congr_left fun l hl => by rw [if_pos (hh l hl)])

/-- RFT by lanes that are all outside a handler. -/
theorem rft_faults {s : State} {f : BaseF} {c : Ctx} {m : Val} (h : Issues s (.rft f) c) (hm : read32 s c.wk c.lead c.g.fs.a c.g.fs.btA = .ok m)
    (hh : ∀ l ∈ c.active, (s.lane c.wk l).h = false) : execRft f s =
      .next (finish (settleBarrier (settleV s c.wk) (s.warp c.wk).team) (.rft f) c
        (c.active.map fun l => (l, .fault { cause := .operand, sub := 0x11 }))).wake := by
  refine issue_ends h (t := settleBarrier (settleV s c.wk) (s.warp c.wk).team) (r := fun _ => .fault { cause := .operand, sub := 0x11 }) ?_
  simp only [leadRead_ok hm, h.lanes, foldl_rftLane_outside _ hh]
  refine congrArg (Prod.mk _) (List.map_congr_left fun l hl => by rw [if_neg (by simp [hh l hl])]; rfl)

/-! ### The end of a trap (R370, R379) -/

theorem clearV_v (s : State) (wk : Nat) : ((clearV s wk).warp wk).trec.v = false := by
  have hw : (clearV s wk).warps = (s.modWarp wk fun w => { w with trec := { w.trec with v := false } }).warps := by
    unfold clearV
    exact foldl_unobserved _ State.warps _ fun st l _ => by split <;> rfl
  rw [State.warp, hw]
  exact congrArg (fun w => w.trec.v) (State.warp_modWarp_self s wk _)

/-- A waiting lane runs again when V ends. -/
theorem clearV_wakes {s : State} {wk l : Nat} (hl : l < 32) (h : (s.lane wk l).st = .parked true) : ((clearV s wk).lane wk l).st = .run := by
  have hfold := lane_foldl_each (wk := wk) (m := l)
    (f := fun st l => if (st.lane wk l).st = .parked true then st.modLane wk l fun ln => { ln with st := .run } else st)
    (g := fun _ ln => if ln.st = .parked true then { ln with st := .run } else ln)
    (fun st k => by split <;> simp_all) (fun st k m hk hm hkm => by
      split
      · exact State.lane_modLane_other _ _ hk hm (.inr hkm)
      · rfl) hl (ls := upto 32) (s.modWarp wk fun w => { w with trec := { w.trec with v := false } })
    (by decide) (by decide)
  have hmem : l ∈ upto 32 := by simpa [upto] using hl
  rw [if_pos hmem, State.lane_of_modWarp, if_pos h] at hfold
  exact congrArg Lane.st hfold

/-- V stays while a lane of the warp is in a handler. -/
theorem settleV_in_handler {s : State} {wk l : Nat} (hl : l < 32) (h : (s.lane wk l).h = true) : settleV s wk = s := by
  have hdone : vDone s wk = false := by
    rw [vDone, List.all_eq_false]
    exact ⟨l, by simpa [upto] using hl, by simp [h]⟩
  exact if_neg (by simp [hdone])

/-- V ends once no lane of the warp is in a handler or trapped and parked. -/
theorem settleV_ends {s : State} {wk : Nat} (hv : (s.warp wk).trec.v = true) (h : ∀ l < 32, (s.lane wk l).h = false
    ∧ ¬((s.warp wk).trec.lmask.getLsbD l = true ∧ (s.lane wk l).st = .parked false)) : settleV s wk = clearV s wk := by
  have hdone : vDone s wk = true := by
    rw [vDone, List.all_eq_true]
    intro l hl
    obtain ⟨hh, hp⟩ := h l (by simpa [upto] using hl)
    simp only [hh, Bool.not_false, Bool.true_and, Bool.not_eq_true', Bool.and_eq_false_iff, beq_eq_false_iff_ne]
    rcases Bool.eq_false_or_eq_true ((s.warp wk).trec.lmask.getLsbD l) with hb | hb
    · exact .inr fun hs => hp ⟨hb, hs⟩
    · exact .inl hb
  exact if_pos (by rw [hv, hdone]; rfl)

/-! ### CLRPSN (R381, R387) -/

/-- What a lane of CLRPSN does: the checks, its alignment, and the write of its line. -/
def clrpLane (s : State) (c : Ctx) (l : Nat) (x : Srcs) : State × Option LaneOut :=
  match laneAccess s c.wk l x.av (offOf x.av.bits) 128 [rW] 0 7 (fun st _ _ => .ok st ()) with
  | (s1, none) => (s1, none)
  | (s1, some (.error e)) => (s1, some (.fault e))
  | (s1, some (.ok ())) =>
    if offOf x.av.bits % 128 ≠ 0 then (s1, some (.fault (refFault .memory memALIGN x.av.bits (offOf x.av.bits))))
    else laneOut (laneAccess s1 c.wk l x.av (offOf x.av.bits) 128 [rW] 0 9 clrpAct) fun s2 _ => (s2, done)

theorem execClrpsn_eq (f : BaseF) (s : State) : execClrpsn f s = issue s (.clrpsn f) (seqBody clrpLane) := rfl

/-- A lane whose line passes both accesses completes. -/
theorem clrpLane_ok {a a1 b : State} {c : Ctx} {l : Nat} {x : Srcs} (hal : offOf x.av.bits % 128 = 0)
    (h1 : laneAccess a c.wk l x.av (offOf x.av.bits) 128 [rW] 0 7 (fun st _ _ => .ok st ()) = (a1, some (.ok ())))
    (h2 : laneAccess a1 c.wk l x.av (offOf x.av.bits) 128 [rW] 0 9 clrpAct = (b, some (.ok ()))) :
    clrpLane a c l x = (b, some (.ok {})) := by
  simp only [clrpLane, h1, hal, ne_eq, not_true_eq_false, if_false, h2]
  rfl

/-- The poison of a local line is cleared at once. -/
theorem clrpLine_local {s : State} {line : Nat} (h : Who) (hg : line / 2 ^ 33 = s.pkg.agent) (ha : s.pkg.agent < 2000)
    (hp : s.dir (line % 2 ^ 33) = 3) : clrpLine s h line = .ok (s.setDir (line % 2 ^ 33) 0) () := by
  have hhost : isHost (agentOf line) = false := by
    simp only [isHost, agentOf, hg, decide_eq_false_iff_not]; omega
  simp only [clrpLine, hhost, Bool.false_eq_true, if_false]
  exact (if_pos hg).trans (by rw [localOf, if_pos hp])

end Sys2Proof.Machine

open Sys2Proof Sys2Proof.Machine

/-- Settles O20: TRAP and PARK by the end of an instruction whose lanes all fault, RFT by its fold over lanes that each change only themselves,
CLRPSN by its two accesses in each lane's turn. -/
theorem trapInstructions : Obligations.TrapInstructions := by
  unfold Obligations.TrapInstructions
  refine ⟨⟨fun f s c x h hr => ?_, fun f s c x h hr => ?_, fun f s c x h hr => ?_, fun f s c x h hr hz => ?_, fun f hz => ?_, fun f hf => ?_,
    fun f hm => ?_⟩, ⟨fun f s c m h hm hh => ?_, fun f s c m h hm hh => ?_, fun s wk hv hl => ?_, fun s wk l hl hh => settleV_in_handler hl hh⟩,
    fun s wk b f g hb => ?_, fun f s c x σ h hr hσ => ?_, fun s h line hg ha hp => clrpLine_local h hg ha hp⟩
  · exact (issue_trapAfter h rfl rfl _).trans (by rw [truncate_eq_low]; rfl)
  · exact (issue_trapAfter h rfl rfl _).trans (by rw [truncate_eq_low]; rfl)
  · exact issue_alu_outs h hr fun _ _ => rfl
  · exact issue_alu h hr fun l hl => if_pos (hz l hl)
  · refine staticCheck_reserved rfl (.inr ?_)
    show (bits f.md 7 0 == 0) = true
    exact beq_iff_eq.2 (congrArg BitVec.toNat hz)
  · exact ⟨staticCheck_reserved rfl (.inl (Sig.reserved_of_field rfl rfl rfl rfl rfl hf)),
      staticCheck_reserved rfl (.inl (Sig.reserved_of_field rfl rfl rfl rfl rfl hf)),
      staticCheck_reserved rfl (.inl (Sig.reserved_of_field rfl rfl rfl rfl rfl hf))⟩
  · exact staticCheck_reserved rfl (.inl (Sig.reserved_of_md rfl hm))
  · exact rft_leaves h hm hh
  · exact rft_faults h hm hh
  · rw [settleV_ends hv hl]
    exact ⟨clearV_v s wk, fun l hl => clearV_wakes hl⟩
  · obtain ⟨l, hl, hp⟩ := hb
    refine if_pos ?_
    simp only [privFault, privBundle, Bool.not_eq_true', List.all_eq_false]
    exact ⟨l, hl, by simp [hp]⟩
  · refine (execClrpsn_eq f s).trans (seq_ended h hr hσ fun l a b hR => ?_)
    obtain ⟨hal, a1, h1, h2⟩ := hR
    exact clrpLane_ok hal h1 h2

end

section
/-! ## Indexed frame registers and frame queries (R122, R145, R154, R213, R214) -/

namespace Sys2Proof.Machine

/-! ### Bodies whose operands depend on a value read -/

/-- What a lane is to do, or why it does nothing. -/
abbrev Planned : Type := Rd (Except LaneFault (State → State × LaneRes))

/-- The plans of the lanes, from their operands. -/
def rdPlan (f : State → Ctx → Nat → Srcs → Planned) (s : State) (c : Ctx) (e : Nat × Except LaneFault Srcs) : Nat × Planned :=
  (e.1, match e.2 with
    | .error e' => .bad e'
    | .ok x => f s c e.1 x)

/-- A lane does what it planned. -/
def rdAct (acc : State × List (Nat × LaneOut)) (e : Nat × Planned) : State × List (Nat × LaneOut) :=
  match e.2 with
  | .ok (.ok g) => ((g acc.1).1, acc.2 ++ [(e.1, .ok (g acc.1).2)])
  | .ok (.error e') => (acc.1, acc.2 ++ [(e.1, .fault e')])
  | .bad e' => (acc.1, acc.2 ++ [(e.1, .fault e')])
  | .block => acc

theorem rdBody_eq {s : State} {c : Ctx} {src : Bool} {f : State → Ctx → Nat → Srcs → Planned} {xs : List (Nat × Except LaneFault Srcs)}
    (h : readLanes s c c.lanes = .ok xs) : rdBody src f s c =
      if (xs.map (rdPlan f s c)).any (fun e => e.2.blocks) then (if src then s.stallAll c else s, [])
      else (xs.map (rdPlan f s c)).foldl rdAct (s, []) := by
  simp only [rdBody, h]
  rfl

theorem foldl_rdAct {g : State → Nat → State} {r : Nat → LaneRes} : ∀ (ls : List Nat) (s : State) (outs : List (Nat × LaneOut)),
    (ls.map fun l => (l, (.ok (.ok fun st => (g st l, r l)) : Planned))).foldl rdAct (s, outs)
      = (ls.foldl g s, outs ++ ls.map fun l => (l, .ok (r l)))
  | [], s, outs => by simp
  | l :: ls, s, outs => by
    rw [List.map_cons, List.foldl_cons, List.foldl_cons, List.map_cons, List.append_cons]
    exact foldl_rdAct ls (g s l) (outs ++ [(l, .ok (r l))])

/-- What such a body does when no lane blocks or faults. -/
theorem rdBody_ok {s : State} {i : Instr} {c : Ctx} {x : Nat → Srcs} (h : Issues s i c) (hr : Reads s c x) {src : Bool}
    {f : State → Ctx → Nat → Srcs → Planned} {g : State → Nat → State} {r : Nat → LaneRes}
    (hf : ∀ l ∈ c.active, f s c l (x l) = .ok (.ok fun st => (g st l, r l))) :
    rdBody src f s c = (c.active.foldl g s, c.active.map fun l => (l, .ok (r l))) := by
  have hplan : (c.active.map fun l => (l, .ok (x l))).map (rdPlan f s c) = c.active.map fun l => (l, .ok (.ok fun st => (g st l, r l))) := by
    rw [List.map_map]
    exact List.map_congr_left fun l hl => congrArg (Prod.mk l) (hf l hl)
  rw [rdBody_eq (hr.lanes h), hplan, if_neg, foldl_rdAct, List.nil_append]
  simp [Rd.blocks]

/-! ### The index (R213) -/

/-- An index names a register of a frame, or an even pair. -/
def IndexIn (w : Bool) (k demand : Nat) : Prop := (w = true → k % 2 = 0 ∧ k + 1 < demand) ∧ k < demand

theorem indexOf_inside {s : State} {wk l : Nat} {w : Bool} {a : Val} {k : Nat} (hk : (lo32 a.bits).toNat = k)
    (h : IndexIn w k (s.frameOf wk l).demand) : indexOf s wk l w a = .ok k := by
  obtain ⟨hw, hd⟩ := h
  subst hk
  cases w with
  | false => simp [indexOf, b2n, hd]
  | true =>
    obtain ⟨he, hd⟩ := hw rfl
    simp [indexOf, b2n, he, hd]

/-- An index outside the demand (R213). -/
theorem indexOf_outside {s : State} {wk l : Nat} {w : Bool} {a : Val} (hd : (s.frameOf wk l).demand ≤ a.bits.toNat % 2 ^ 32)
    (hw : w = true → a.bits.toNat % 2 = 0) :
    indexOf s wk l w a = .error { cause := .operand, sub := 5, opv := BitVec.ofNat 64 (a.bits.toNat % 2 ^ 32) } := by
  have hk : (lo32 a.bits).toNat = a.bits.toNat % 2 ^ 32 := BitVec.toNat_setWidth ..
  have halign : (w && a.bits.toNat % 2 ^ 32 % 2 == 1) = false := by
    cases w with
    | false => rfl
    | true => have := hw rfl; simp; omega
  simp only [indexOf, hk, halign, Bool.false_eq_true, if_false]
  exact if_pos (by omega)

/-! ### Frame registers read and written -/

theorem readFReg_full {s : State} {wk l n : Nat} (bt : Bool) (hd : n < (s.frameOf wk l).demand) (h : ((s.frameOf wk l).reg n l).st = .full) :
    readFReg s wk l n bt = .ok ((s.frameOf wk l).reg n l).val := by
  simp only [readFReg, if_neg (Nat.not_le.2 hd), h]

/-- LDF of a register that is FULL, or of a pair. -/
theorem ldfRead_full {f : BaseF} {s : State} {wk l : Nat} {x : Srcs} {k : Nat} (hk : (lo32 x.av.bits).toNat = k)
    (hin : IndexIn (wBit f) k (s.frameOf wk l).demand) (h0 : ((s.frameOf wk l).reg k l).st = .full)
    (h1 : wBit f = true → ((s.frameOf wk l).reg (k + 1) l).st = .full) :
    ldfRead f s wk l x = .ok (.ok (if wBit f then ⟨((s.frameOf wk l).reg (k + 1) l).val ++ ((s.frameOf wk l).reg k l).val,
      (s.frameOf wk l).ptag k l⟩ else Val.int (((s.frameOf wk l).reg k l).val.zeroExtend 64))) := by
  have hlow := readFReg_full (f.md.getLsbD 1) hin.2 h0
  simp only [ldfRead, indexOf_inside hk hin]
  cases hw : wBit f with
  | false => simp only [Bool.false_eq_true, if_false, hlow, Rd.bind]
  | true =>
    have hhigh := readFReg_full (f.md.getLsbD 1) (hin.1 hw).2 (h1 hw)
    simp only [if_true, readPair, hlow, hhigh, Rd.both, Rd.bind]

/-- LDF when every lane reads a value. -/
theorem ldf_ends {s : State} {f : BaseF} {c : Ctx} {x : Nat → Srcs} (h : Issues s (.ldf f) c) (hr : Reads s c x) {v : Nat → Val}
    (hv : ∀ l ∈ c.active, ldfRead f s c.wk l (x l) = .ok (.ok (v l))) :
    execLdf f s = .next (Ended s (.ldf f) c fun l => .value (v l)) := by
  refine issue_ended h ?_
  rw [rdBody_ok h hr (g := fun st _ => st) (r := fun l => .value (v l)) fun l hl => by rw [hv l hl]; rfl]
  exact congrArg (·, _) (foldl_unobserved _ id s fun _ _ _ => rfl)

/-- STF may write its register, or its pair. -/
theorem dstReady_inside {s : State} {wk l : Nat} {w : Bool} {k : Nat} (hin : IndexIn w k (s.frameOf wk l).demand)
    (h0 : ((s.frameOf wk l).reg k l).st ≠ .empty) (h1 : w = true → ((s.frameOf wk l).reg (k + 1) l).st ≠ .empty) :
    dstReady s wk l (if w then [k, k + 1] else [k]) = .ok () := by
  obtain ⟨hpair, hd⟩ := hin
  have hd := Nat.not_le.2 hd
  cases w with
  | false => simp [dstReady, dstNamed, anyEmpty, hd, h0, Rd.bind]
  | true =>
    have hd1 := Nat.not_le.2 (hpair rfl).2
    simp [dstReady, dstNamed, anyEmpty, hd, hd1, h0, h1, Rd.bind]

/-! ### An instruction without a destination (R154, R213) -/

/-- Results without predicates and flags write nothing where the instruction has no destination. -/
theorem resultsWritten_noDst {s : State} {i : Instr} {c : Ctx} {r : Nat → LaneRes} (hd : resultDst i c.g = (.r32, 0, false))
    (hp : ∀ l, (r l).preds = []) (hf : ∀ l, (r l).flags = 0) : resultsWritten s i c r = s := by
  have hdst : ∀ (st : State) (l : Nat) (v v2 : Val), putDst st c.wk l .r32 0 false v v2 = st := fun _ _ _ _ => rfl
  have hput : ∀ rs, putResults s c.wk .r32 0 false rs = s := fun rs => by
    simp only [putResults, hdst]
    exact foldl_unobserved _ id s fun _ _ _ => rfl
  have hside : ∀ (st : State) l, putSide st c.wk (l, r l) = st := fun st l => by
    simp only [putSide, hp, hf, List.foldl_nil, raise, if_true]
  rw [resultsWritten, hd, hput, List.foldl_map]
  exact foldl_unobserved _ id s fun st l _ => hside st l

/-- Such an instruction ends as if its lanes had no values. -/
theorem Ended_noDst {s : State} {i : Instr} {c : Ctx} (hd : resultDst i c.g = (.r32, 0, false)) (v : Nat → Val) :
    Ended s i c (fun l => { val := some (v l) }) = Ended s i c fun _ => {} := by
  rw [Ended_eq, Ended_eq, resultsWritten_noDst hd (fun _ => rfl) (fun _ => rfl), resultsWritten_noDst hd (fun _ => rfl) (fun _ => rfl)]
  congr 2
  simp [Ctx.ended]

/-! ### STF (R154, R213) -/

/-- STF of a value in one lane. -/
def stfPut (s : State) (wk : Nat) (w : Bool) (x : Nat → Srcs) (st : State) (l : Nat) : State :=
  let fk := (s.lane wk l).frame
  let k := ((x l).av.bits.extractLsb' 0 32).toNat
  if w then putPair st fk l k (x l).bv else putFReg st fk l k ((x l).bv.bits.extractLsb' 0 32)

/-- The value that a lane of STF has written. -/
def storedOf (e : Nat × LaneOut) : Option Word := match e.2 with | .ok x => x.val.map (·.bits) | .fault _ => none

theorem countStf_eq (wk : Nat) (w : Bool) (r : State × List (Nat × LaneOut)) : countStf wk w r =
    (countWrite r.1 wk (if w then [(r.2.filterMap storedOf).map fun v => v.truncate 32, (r.2.filterMap storedOf).map fun v => v.extractLsb' 32 32]
      else [(r.2.filterMap storedOf).map fun v => v.truncate 32]), r.2) := rfl

/-- What STF counts when every lane has written. -/
theorem countStf_values (s : State) (wk : Nat) (w : Bool) (ls : List Nat) (v : Nat → Val) :
    countStf wk w (s, ls.map fun l => (l, .ok { val := some (v l) })) =
      (countWrite s wk (if w then [ls.map fun l => lo32 (v l).bits, ls.map fun l => (v l).bits.extractLsb' 32 32]
        else [ls.map fun l => lo32 (v l).bits]), ls.map fun l => (l, .ok { val := some (v l) })) := by
  have hvals : (ls.map fun l => (l, LaneOut.ok { val := some (v l) })).filterMap storedOf = ls.map fun l => (v l).bits := by
    rw [List.filterMap_map, ← List.filterMap_eq_map]; rfl
  rw [countStf_eq, hvals, List.map_map, List.map_map]
  rfl

/-- STF when every index is inside the demand and no register written is EMPTY. -/
theorem stf_writes {s : State} {f : BaseF} {c : Ctx} {x : Nat → Srcs} (h : Issues s (.stf f) c) (hr : Reads s c x)
    (hin : ∀ l ∈ c.active, let k := ((x l).av.bits.extractLsb' 0 32).toNat
      IndexIn (wBit f) k (s.frameOf c.wk l).demand ∧ ((s.frameOf c.wk l).reg k l).st ≠ .empty
        ∧ (wBit f = true → ((s.frameOf c.wk l).reg (k + 1) l).st ≠ .empty)) :
    execStf f s = .next (Ended (countWrite (c.active.foldl (stfPut s c.wk (wBit f) x) s) c.wk
      (if wBit f then [c.active.map fun l => lo32 (x l).bv.bits, c.active.map fun l => (x l).bv.bits.extractLsb' 32 32]
        else [c.active.map fun l => lo32 (x l).bv.bits])) (.stf f) c fun _ => {}) := by
  have hg : resultDst (.stf f) c.g = (.r32, 0, false) := by rw [← Option.some.inj h.sig]; rfl
  rw [← Ended_noDst hg fun l => (x l).bv]
  refine issue_ended h ?_
  dsimp only
  rw [rdBody_ok h hr (g := stfPut s c.wk (wBit f) x) (r := fun l => { val := some (x l).bv }) fun l hl => ?_, countStf_values]
  obtain ⟨hk, h0, h1⟩ := hin l hl
  simp only [indexOf_inside (lo32_toNat _) hk, dstReady_inside hk h0 h1, Rd.bind]
  simp only [stfPut, lo32, truncate_eq_low]

end Sys2Proof.Machine

open Sys2Proof Sys2Proof.Machine

/-- Settles O33: LDF and STF by the plan of each lane, whose index is inside the demand; FRQ by its value. -/
theorem frameRegisterResults : Obligations.FrameRegisterResults := by
  unfold Obligations.FrameRegisterResults
  intro k inside
  have hk : ∀ x : Srcs, (lo32 x.av.bits).toNat = k x := fun x => lo32_toNat _
  refine ⟨fun f s c x h hr hin => ?_, fun f s c x h hr hin => ?_, fun f s c x h hr => ?_, fun s wk l w a hd hw => indexOf_outside hd hw⟩
  · refine ldf_ends h hr fun l hl => ?_
    obtain ⟨hin, h0, h1⟩ := hin l hl
    exact ldfRead_full (hk _) hin h0 h1
  · exact stf_writes h hr hin
  · exact issue_alu h hr fun l hl => rfl

end

section
/-! ## The heddle: choice of warps and groups, openings, header faults (R106, R107, R132–R138, R369) -/

namespace Sys2Proof.Machine

/-! ### Keys of groups (R132) -/

/-- A PC as a number, in the order of PCs. -/
def Pc.rank (p : Pc) : Nat := p.obj.toNat * 2 ^ 40 + p.off.toNat

theorem Pc.lt_iff (a b : Pc) : a.lt b = true ↔ a.rank < b.rank := by
  have ha := a.off.isLt
  have hb := b.off.isLt
  simp only [Pc.lt, Pc.rank, Bool.or_eq_true, Bool.and_eq_true, decide_eq_true_eq, beq_iff_eq, BitVec.lt_def, ← BitVec.toNat_inj]
  omega

theorem Pc.rank_inj {a b : Pc} : a = b ↔ a.rank = b.rank := by
  have ha := a.off.isLt
  have hb := b.off.isLt
  refine ⟨fun h => h ▸ rfl, fun h => ?_⟩
  unfold Pc.rank at h
  have hobj : a.obj = b.obj := BitVec.eq_of_toNat_eq (by omega)
  have hoff : a.off = b.off := BitVec.eq_of_toNat_eq (by omega)
  cases a; cases b; simp_all

theorem keyLt_iff (a b : Pc × Nat) : keyLt a b = true ↔ a.1.rank < b.1.rank ∨ (a.1.rank = b.1.rank ∧ a.2 < b.2) := by
  simp only [keyLt, Bool.or_eq_true, Bool.and_eq_true, decide_eq_true_eq, beq_iff_eq, Pc.lt_iff, Pc.rank_inj]

/-- The order of keys is asymmetric. -/
theorem keyLt_asymm {a b : Pc × Nat} (h : keyLt a b = true) : keyLt b a = false := by
  rw [← Bool.not_eq_true, keyLt_iff]
  rw [keyLt_iff] at h
  omega

/-- Not to come before is transitive. -/
theorem keyLt_trans_not {a b c : Pc × Nat} (h : keyLt a b = false) (g : keyLt b c = false) : keyLt a c = false := by
  rw [← Bool.not_eq_true, keyLt_iff] at h g ⊢
  omega

theorem keyLt_irrefl (a : Pc × Nat) : keyLt a a = false := by
  rw [← Bool.not_eq_true, keyLt_iff]
  omega

/-! ### The groups that open (R135) -/

/-- No group comes before the lowest. -/
theorem lowestGrp_least (s : State) : ∀ {gs : List ReadyGrp}, gs ≠ [] →
    ∃ b, lowestGrp s gs = some b ∧ b ∈ gs ∧ ∀ g ∈ gs, keyLt (g.g.key s) (b.g.key s) = false
  | [g], _ => ⟨g, rfl, List.mem_singleton_self g, fun x hx => by rw [List.mem_singleton.1 hx]; exact keyLt_irrefl _⟩
  | g :: y :: r, _ => by
    obtain ⟨x, hx, hmem, hleast⟩ := lowestGrp_least s (List.cons_ne_nil y r)
    rw [lowestGrp, hx]
    dsimp only
    split
    case isTrue h =>
      exact ⟨x, rfl, List.mem_cons_of_mem _ hmem, List.forall_mem_cons.2 ⟨keyLt_asymm h, hleast⟩⟩
    case isFalse h =>
      exact ⟨g, rfl, List.mem_cons_self, List.forall_mem_cons.2 ⟨keyLt_irrefl _,
        fun z hz => keyLt_trans_not (hleast z hz) (by simpa using h)⟩⟩

/-- No group has more lanes than the biggest. -/
theorem biggestGrp_most (s : State) : ∀ {gs : List ReadyGrp}, gs ≠ [] →
    ∃ a, biggestGrp s gs = some a ∧ a ∈ gs ∧ ∀ g ∈ gs, g.g.size ≤ a.g.size
  | [g], _ => ⟨g, rfl, List.mem_singleton_self g, fun x hx => by rw [List.mem_singleton.1 hx]⟩
  | g :: y :: r, _ => by
    obtain ⟨x, hx, hmem, hmost⟩ := biggestGrp_most s (List.cons_ne_nil y r)
    rw [biggestGrp, hx]
    dsimp only
    split
    case isTrue h =>
      have hle : g.g.size ≤ x.g.size := by simp at h; omega
      exact ⟨x, rfl, List.mem_cons_of_mem _ hmem, List.forall_mem_cons.2 ⟨hle, hmost⟩⟩
    case isFalse h =>
      have hle : x.g.size ≤ g.g.size := by simp at h; omega
      exact ⟨g, rfl, List.mem_cons_self, List.forall_mem_cons.2 ⟨le_rfl, fun z hz => (hmost z hz).trans hle⟩⟩

/-- With both paths free the biggest group takes path 0 and the lowest, if it is another, path 1. -/
theorem openings_free {s : State} {wk : Nat} {gs : List ReadyGrp} (h0 : (s.warp wk).path0 = none) (h1 : (s.warp wk).path1 = none)
    {a b : ReadyGrp} (ha : biggestGrp s gs = some a) (hb : lowestGrp s gs = some b) :
    openings s wk gs = if a.g = b.g then [(0, a)] else [(0, a), (1, b)] := by
  simp only [openings, h0, h1, ha, hb]

/-- A group opens with its clause, or with the fault of its header. -/
theorem path_openGroup_go (s : State) (wk n : Nat) (g : Grp) (h : Word) (ws : List Word) :
    ((openGroup wk s (n, ⟨g, .go h ws⟩)).warp wk).path n = some ⟨g.lanes, g.pc, h, ws, g.cix, [], [], false, none, none⟩ := by
  simp only [openGroup, State.warp_modWarp_self, Warp.path_setPath_self]

theorem path_openGroup_fault (s : State) (wk n : Nat) (g : Grp) (f : LaneFault) :
    ((openGroup wk s (n, ⟨g, .fault f⟩)).warp wk).path n = some ⟨g.lanes, g.pc, 0, [], g.cix, [], [], false, none, some f⟩ := by
  simp only [openGroup, State.warp_modWarp_self, Warp.path_setPath_self]

/-! ### The choice of a warp (R138) -/

/-- The oldest of some warps has the least stamp. -/
theorem oldest_least (s : State) : ∀ {ws : List (Nat × List ReadyGrp)}, ws ≠ [] →
    ∃ e, oldest s ws = some e ∧ e ∈ ws ∧ ∀ x ∈ ws, (s.warp e.1).stamp ≤ (s.warp x.1).stamp
  | [e], _ => ⟨e, rfl, List.mem_singleton_self e, fun x hx => by rw [List.mem_singleton.1 hx]⟩
  | e :: y :: r, _ => by
    obtain ⟨x, hx, hmem, hleast⟩ := oldest_least s (List.cons_ne_nil y r)
    rw [oldest, hx]
    dsimp only
    split
    case isTrue h => exact ⟨x, rfl, List.mem_cons_of_mem _ hmem, List.forall_mem_cons.2 ⟨h.le, hleast⟩⟩
    case isFalse h =>
      exact ⟨e, rfl, List.mem_cons_self, List.forall_mem_cons.2 ⟨le_rfl, fun z hz => (not_lt.1 h).trans (hleast z hz)⟩⟩

/-- The oldest of the warps that have waited 64 cycles comes first; without one, a warp of the list is chosen. -/
theorem chooseWarp_forced {s : State} {ws : List (Nat × List ReadyGrp)} {e : Nat × List ReadyGrp} (h : chooseWarp s ws = some e) :
    e ∈ ws ∧ ∀ x ∈ ws, isForced s x.1 = true → isForced s e.1 = true ∧ (s.warp e.1).stamp ≤ (s.warp x.1).stamp := by
  have hnone : ∀ {vs}, oldest s vs = none → vs = [] := fun {vs} hv => by
    by_contra hne
    obtain ⟨a, ha, -⟩ := oldest_least s hne
    rw [hv] at ha; contradiction
  have hmem : ∀ {vs a}, oldest s vs = some a → a ∈ vs ∧ ∀ x ∈ vs, (s.warp a.1).stamp ≤ (s.warp x.1).stamp := fun {vs a} ha => by
    obtain ⟨b, hb, hin, hleast⟩ := oldest_least s (ws := vs) (by rintro rfl; exact absurd ha (by simp [oldest]))
    rw [hb] at ha
    exact Option.some.inj ha ▸ ⟨hin, hleast⟩
  cases hf : oldest s (ws.filter fun e => isForced s e.1) with
  | some a =>
    have hae : a = e := by simpa only [chooseWarp, hf, Option.some.injEq] using h
    obtain ⟨hin, hleast⟩ := hmem hf
    obtain ⟨hws, hforced⟩ := List.mem_filter.1 hin
    exact hae ▸ ⟨hws, fun x hx hxf => ⟨hforced, hleast x (List.mem_filter.2 ⟨hx, hxf⟩)⟩⟩
  | none =>
    have hempty := List.filter_eq_nil_iff.1 (hnone hf)
    refine ⟨?_, fun x hx hxf => absurd hxf (hempty x hx)⟩
    simp only [chooseWarp, hf] at h
    split at h
    case h_1 a ha => exact Option.some.inj h ▸ List.mem_of_find?_eq_some ha
    case h_2 => exact (hmem h).1

/-! ### One cycle -/

/-- What a cycle does once it has chosen a warp. -/
theorem heddle_chosen {s s1 : State} {pk wk : Nat} {ws : List (Nat × List ReadyGrp)} {gs : List ReadyGrp}
    (hr : readyWarps s ((s.warps.map (·.1)).filter fun k => wkPk k == pk) = (s1, ws)) (hc : chooseWarp s1 ws = some (wk, gs)) :
    heddle s pk =
      let z := (openings s1 wk gs).foldl (openGroup wk) s1
      let z2 := z.modWarp wk fun w => { w with since := (z.core (wkCore wk)).cycle.toNat }
      { z2 with iq := z2.iq ++ (issueOrder z2 wk).map fun n => (wk, n) } := by
  simp only [heddle, hr, hc]

/-- Of two bundles that issue, neither with a call, the one with the lower key comes first (R150, R369). -/
theorem issueOrder_both {s : State} {wk : Nat} {a b : Bundle} (h0 : (s.warp wk).path0 = some a) (h1 : (s.warp wk).path1 = some b)
    (c0 : canIssue s (s.warp wk) 0 = true) (c1 : canIssue s (s.warp wk) 1 = true) (ha : calls s wk a = false) (hb : calls s wk b = false) :
    issueOrder s wk = if keyLt (bundleKey s wk b) (bundleKey s wk a) then [1, 0] else [0, 1] := by
  have hboth : (upto 2).filter (canIssue s (s.warp wk)) = [0, 1] := by
    rw [show upto 2 = [0, 1] from rfl, List.filter_cons_of_pos c0, List.filter_cons_of_pos c1, List.filter_nil]
  simp only [issueOrder, hboth, h0, h1, ha, hb, Bool.and_false, Bool.false_eq_true, if_false]
  cases keyLt (bundleKey s wk b) (bundleKey s wk a) <;> rfl

/-! ### Header checks (R71, R106, R107) -/

theorem headerChecks_bad {s : State} {wk : Nat} {g : Grp} {h : Word} {ws : List Word} (hb : badHeader h = true) :
    headerChecks s wk g h ws = .fault { cause := .illegal, sub := 1 } := by
  simp only [headerChecks, hb, Bool.true_or, if_true]
  rfl

theorem headerChecks_role {s : State} {wk : Nat} {g : Grp} {h : Word} {ws : List Word} {c : Cls} (hc : clsOf h = some c)
    (hb : badHeader h = false) (hi : g.cix < ws.length) (hr : (s.warp wk).role.admits c = false) :
    headerChecks s wk g h ws = .fault { cause := .illegal, sub := 2 } := by
  have hix : ¬ws.length ≤ g.cix := by omega
  simp only [headerChecks, hb, hc, hr, hix, decide_false, Bool.or_false, Bool.false_eq_true, if_false, Bool.not_false, if_true]
  rfl

theorem headerChecks_opens {s : State} {wk : Nat} {g : Grp} {h : Word} {ws : List Word} {c : Cls} (hc : clsOf h = some c)
    (hb : badHeader h = false) (hi : g.cix < ws.length) (hr : (s.warp wk).role.admits c = true) : headerChecks s wk g h ws =
      if waitHolds (s.warp wk) h 54 51 46 = true ∧ waitHolds (s.warp wk) h 45 42 37 = true then .go h ws else .wait := by
  have hix : ¬ws.length ≤ g.cix := by omega
  simp only [headerChecks, hb, hc, hr, hix, decide_false, Bool.or_false, Bool.false_eq_true, if_false, Bool.not_true, Bool.and_eq_true]

end Sys2Proof.Machine
end

section
/-! ## The fault of a header (R369, R371, R374) -/

namespace Sys2Proof.Machine

/-! ### Faults of lanes in their parts -/

/-- The first fault in a handler nests (R372). -/
def nestFirst (wk : Nat) (t : TrapAt) (hs : List (Nat × LaneFault)) (s : State) : State :=
  match hs with
  | [] => s
  | e :: _ => nestTrap s wk e.2.cause e.2.sub t

/-- The first fault outside a handler is taken for all that are like it, and the other lanes wait; while V is 1 all of them wait (R369, R370). -/
def takeFirst (wk : Nat) (t : TrapAt) (pk : Bool) (es : List (Nat × LaneFault)) (s : State) : State :=
  match es with
  | [] => s
  | e :: _ =>
    if (s.warp wk).trec.v then parkLanes s wk (es.map (·.1)) t.hdr t.idx true
    else
      let same := es.filter fun x => x.2.cause == e.2.cause && x.2.sub == e.2.sub
      let rest := es.filter fun x => !(x.2.cause == e.2.cause && x.2.sub == e.2.sub)
      takeTrap (parkLanes s wk (rest.map (·.1)) t.hdr t.idx true) wk (same.map (·.1)) e.2.cause e.2.sub t false pk 0 0 0
        (same.map fun x => (x.1, trapLane x.2)) (e.2.cause.parks || pk)

theorem faultLanes_eq (s : State) (wk : Nat) (t : TrapAt) (fs : List (Nat × LaneFault)) (pk : Bool) : faultLanes s wk t fs pk =
    takeFirst wk t pk (fs.filter fun e => !(s.lane wk e.1).h) (nestFirst wk t (fs.filter fun e => (s.lane wk e.1).h)
      (parkLanes s wk (fs.map (·.1)) t.hdr t.idx false)) := rfl

/-! ### What faults of lanes leave unchanged -/

section
variable {α : Type} {wk : Nat} {obs : State → α}
  (hlane : ∀ st l f, obs (State.modLane st wk l f) = obs st)
  (hcore : ∀ st f, obs (State.modCore st (wkCore wk) f) = obs st)
  (hwarp : ∀ st (f : Warp → Warp), (∀ w n, (f w).path n = w.path n) → obs (State.modWarp st wk f) = obs st)
include hlane

theorem obs_parkLanes (s : State) (ls : List Nat) (hdr : Pc) (idx : Nat) (w : Bool) : obs (parkLanes s wk ls hdr idx w) = obs s :=
  foldl_unobserved _ obs s fun st l _ => hlane st l _

include hcore hwarp

omit hlane in
theorem obs_nestTrap (s : State) (c : Cause) (sub : Byte) (t : TrapAt) : obs (nestTrap s wk c sub t) = obs s := by
  have hpark : ∀ st, obs (startPark st wk) = obs st := fun st => hwarp st _ fun _ _ => rfl
  exact (hpark _).trans ((hcore _ _).trans (hwarp s _ fun _ _ => rfl))

theorem obs_takeTrap (s : State) (ls : List Nat) (c : Cause) (sub : Byte) (t : TrapAt) (async pk : Bool) (clane : Nat)
    (usrc udat : BitVec 32) (ents : Tab TrapLane) (park : Bool) :
    obs (takeTrap s wk ls c sub t async pk clane usrc udat ents park) = obs s := by
  have hrec : obs (writeRecord s wk (maskOf ls) c sub t (match ls with | [] => 0 | l :: _ => (s.frameOf wk l).fid) async pk clane usrc udat
      ents) = obs s := hwarp _ _ fun _ _ => rfl
  have hstand : ∀ st, obs st = obs s → obs (releaseLatch (ls.foldl (fun st l => st.modLane wk l fun ln =>
      { ln with rpc := t.resume, rix := BitVec.ofNat 4 t.rix }) st) wk) = obs s := fun st hst =>
    (hcore _ _).trans ((foldl_unobserved _ obs st fun st l _ => hlane st l _).trans hst)
  have hpark : ∀ st, obs (startPark st wk) = obs st := fun st => hwarp st _ fun _ _ => rfl
  unfold takeTrap
  dsimp only
  split
  · exact (hpark _).trans ((foldl_unobserved _ obs _ fun st l _ => hlane st l _).trans (hstand _ hrec))
  · exact (foldl_unobserved _ obs _ fun st l _ => hlane st l _).trans (hstand _ hrec)

/-- Faults of lanes touch the warp's record and mode, its latches and its lanes alone. -/
theorem obs_faultLanes (s : State) (t : TrapAt) (fs : List (Nat × LaneFault)) (pk : Bool) : obs (faultLanes s wk t fs pk) = obs s := by
  have hpark := obs_parkLanes (obs := obs) (wk := wk) hlane
  have hnest : ∀ hs st, obs (nestFirst wk t hs st) = obs st
    | [], _ => rfl
    | _ :: _, _ => obs_nestTrap hcore hwarp ..
  have htake : ∀ es st, obs (takeFirst wk t pk es st) = obs st
    | [], _ => rfl
    | _ :: _, _ => by
      unfold takeFirst
      dsimp only
      split
      · exact hpark ..
      · exact (obs_takeTrap hlane hcore hwarp ..).trans (hpark ..)
  rw [faultLanes_eq]
  exact (htake ..).trans ((hnest ..).trans (hpark ..))

end

/-! ### The record of a trap (R371) -/

theorem trec_writeRecord (s : State) (wk : Nat) (lm : BitVec 32) (c : Cause) (sub : Byte) (t : TrapAt) (fid : Nat)
    (async pk : Bool) (clane : Nat) (usrc udat : BitVec 32) (ents : Tab TrapLane) :
    ((writeRecord s wk lm c sub t fid async pk clane usrc udat ents).warp wk).trec =
      { v := true, async := async, nest := false, pk := pk, cause := c.code, sub := sub, opc := t.opc, lmask := lm
        hdr := t.hdr.word, idx := BitVec.ofNat 4 t.idx, clane := BitVec.ofNat 5 clane, fid := BitVec.ofNat 9 fid, usrc := usrc, udat := udat } := by
  rw [writeRecord, State.warp_modWarp_self]

/-- The record that a trap leaves names its cause and its place. -/
theorem trec_takeTrap (s : State) (wk : Nat) (ls : List Nat) (c : Cause) (sub : Byte) (t : TrapAt) (async pk : Bool) (clane : Nat)
    (usrc udat : BitVec 32) (ents : Tab TrapLane) (park : Bool) :
    ∃ fid, ((takeTrap s wk ls c sub t async pk clane usrc udat ents park).warp wk).trec =
      { v := true, async := async, nest := false, pk := pk, cause := c.code, sub := sub, opc := t.opc, lmask := maskOf ls
        hdr := t.hdr.word, idx := BitVec.ofNat 4 t.idx, clane := BitVec.ofNat 5 clane, fid := fid, usrc := usrc, udat := udat } := by
  have hlanes : ∀ (f : Nat → Lane → Lane) (st : State),
      ((ls.foldl (fun st l => st.modLane wk l (f l)) st).warp wk).trec = (st.warp wk).trec := fun f st =>
    foldl_unobserved _ (fun st : State => (st.warp wk).trec) st fun _ _ _ => rfl
  have hpark : ∀ st, ((startPark st wk).warp wk).trec = (st.warp wk).trec := fun st => by rw [startPark, State.warp_modWarp_self]
  unfold takeTrap
  dsimp only
  split
  · exact ⟨_, (hpark _).trans ((hlanes (fun _ ln => { ln with st := .parked false }) _).trans
      ((hlanes (fun _ ln => { ln with rpc := t.resume, rix := BitVec.ofNat 4 t.rix }) _).trans (trec_writeRecord ..)))⟩
  · exact ⟨_, (hlanes (fun _ ln => { ln with h := true, pv := false, pc := handlerPc _ c, cix := 0, st := .run }) _).trans
      ((hlanes (fun _ ln => { ln with rpc := t.resume, rix := BitVec.ofNat 4 t.rix }) _).trans (trec_writeRecord ..))⟩

/-- One fault in lanes outside a handler, with no trap before it, is taken for them all (R369). -/
theorem faultLanes_alike {s : State} {wk : Nat} (t : TrapAt) {ls : List Nat} (f : LaneFault) (pk : Bool) (hv : (s.warp wk).trec.v = false)
    (hh : ∀ l ∈ ls, (s.lane wk l).h = false) (hne : ls ≠ []) : faultLanes s wk t (ls.map fun l => (l, f)) pk =
      takeTrap (parkLanes s wk ls t.hdr t.idx false) wk ls f.cause f.sub t false pk 0 0 0 (ls.map fun l => (l, trapLane f))
        (f.cause.parks || pk) := by
  have hin : (ls.map fun l => (l, f)).filter (fun e => (s.lane wk e.1).h) = [] := by
    rw [List.filter_eq_nil_iff]; simpa using hh
  have hout : (ls.map fun l => (l, f)).filter (fun e => !(s.lane wk e.1).h) = ls.map fun l => (l, f) := by
    rw [List.filter_eq_self]; simpa using hh
  have hsame : (ls.map fun l => (l, f)).filter (fun x => x.2.cause == f.cause && x.2.sub == f.sub) = ls.map fun l => (l, f) := by
    rw [List.filter_eq_self]; simp
  have hrest : (ls.map fun l => (l, f)).filter (fun x => !(x.2.cause == f.cause && x.2.sub == f.sub)) = [] := by
    rw [List.filter_eq_nil_iff]; simp
  have hfst : (ls.map fun l => (l, f)).map (·.1) = ls := by rw [List.map_map]; exact List.map_id' ls
  have hents : (ls.map fun l => (l, f)).map (fun x => (x.1, trapLane x.2)) = ls.map fun l => (l, trapLane f) := List.map_map
  have hv1 : ((parkLanes s wk ls t.hdr t.idx false).warp wk).trec.v = false :=
    (obs_parkLanes (obs := fun st : State => (st.warp wk).trec.v) (fun _ _ _ => rfl) ..).trans hv
  rw [faultLanes_eq, hin, hout, hfst]
  cases ls with
  | nil => exact absurd rfl hne
  | cons l r =>
    rw [List.map_cons] at hsame hrest hfst hents ⊢
    simp only [nestFirst, takeFirst, hv1, hsame, hrest, hfst, hents, Bool.false_eq_true, if_false]
    rfl

/-! ### Masks of lanes -/

theorem getLsbD_foldl_mask (i : Nat) (hi : i < 32) : ∀ (ls : List Nat) (m : BitVec 32), (∀ l ∈ ls, l < 32) →
    (ls.foldl (fun m l => m ||| (1#32 <<< l)) m).getLsbD i = (m.getLsbD i || decide (i ∈ ls))
  | [], m, _ => by simp
  | l :: ls, m, h => by
    have hl := h l List.mem_cons_self
    have hbit : (1#32 <<< l).getLsbD i = decide (i = l) := by
      rw [BitVec.getLsbD_shiftLeft, BitVec.getLsbD_one]
      by_cases hil : i = l
      · subst hil; simp [hi]
      · simp only [hi, decide_true, Bool.true_and, hil, decide_false, Bool.and_eq_false_iff, Bool.not_eq_false', decide_eq_true_eq, decide_eq_false_iff_not]
        omega
    rw [List.foldl_cons, getLsbD_foldl_mask i hi ls _ fun k hk => h k (List.mem_cons_of_mem l hk), BitVec.getLsbD_or, hbit, Bool.or_assoc]
    simp [List.mem_cons]

/-- The mask of the lanes of a mask. -/
theorem maskOf_lanesOf (m : BitVec 32) : maskOf (lanesOf m) = m := by
  refine BitVec.eq_of_getLsbD_eq fun i hi => ?_
  rw [maskOf, getLsbD_foldl_mask i hi _ _ fun l hl => (mem_lanesOf.1 hl).1]
  simp [mem_lanesOf, hi]

/-! ### The fault of a header, raised in its turn -/

/-- The state in which a bundle's header fault is raised: its path is free. -/
def headerLeft (s : State) (wk path : Nat) : State := s.modWarp wk fun w => { (w.setPath path none) with ferr := [] }

theorem raiseHeader_fault {s : State} {wk path : Nat} {b : Bundle} {f : LaneFault} (h : b.bad = some f) :
    raiseHeader s wk path b = headerFault wk (headerLeft s wk path) ⟨b.hdr, b.idx, 0, b.lanes⟩ f := by
  simp only [raiseHeader, h]
  rfl

/-- What is not of lanes is after a header fault as the fault leaves it. -/
theorem obs_headerFault {α : Type} {wk : Nat} {obs : State → α} (hlane : ∀ st l f, obs (State.modLane st wk l f) = obs st)
    (s : State) (g : Grp) (f : LaneFault) : obs (headerFault wk s g f) =
      obs (faultLanes s wk ⟨g.pc, 0, 0, g.pc, 0⟩ ((lanesOf g.lanes).map fun l => (l, f)) false) :=
  foldl_unobserved _ obs _ fun st l _ => hlane st l _

theorem raiseHeader_path {s : State} {wk path : Nat} {b : Bundle} {f : LaneFault} (h : b.bad = some f) :
    ((raiseHeader s wk path b).warp wk).path path = none ∧ (raiseHeader s wk path b).hbm = s.hbm := by
  have hwarp : ∀ (st : State) (g : Warp → Warp), (∀ w n, (g w).path n = w.path n) →
      ((st.modWarp wk g).warp wk).path path = (st.warp wk).path path := fun st g hg => by rw [State.warp_modWarp_self, hg]
  rw [raiseHeader_fault h]
  refine ⟨?_, ?_⟩
  · refine (obs_headerFault (obs := fun st : State => (st.warp wk).path path) (fun _ _ _ => rfl) ..).trans ?_
    refine (obs_faultLanes (obs := fun st : State => (st.warp wk).path path) (fun _ _ _ => rfl) (fun _ _ => rfl) hwarp ..).trans ?_
    rw [headerLeft, State.warp_modWarp_self]
    exact Warp.path_setPath_self (s.warp wk) path none
  · refine (obs_headerFault (obs := State.hbm) (fun _ _ _ => rfl) ..).trans ?_
    exact obs_faultLanes (obs := State.hbm) (fun _ _ _ => rfl) (fun _ _ => rfl) (fun _ _ _ => rfl) ..

/-- The record of a header fault of lanes outside a handler, with no trap before it. -/
theorem raiseHeader_record {s : State} {wk path : Nat} {b : Bundle} {f : LaneFault} (h : b.bad = some f)
    (hv : (s.warp wk).trec.v = false) (hh : ∀ l ∈ lanesOf b.lanes, (s.lane wk l).h = false) (hne : lanesOf b.lanes ≠ []) :
    ∃ r, ((raiseHeader s wk path b).warp wk).trec = r ∧ r.v = true ∧ r.cause = f.cause.code ∧ r.sub = f.sub ∧ r.lmask = b.lanes
      ∧ r.hdr = b.hdr.word ∧ r.idx = 0 := by
  have hv1 : ((headerLeft s wk path).warp wk).trec.v = false := by
    rw [headerLeft, State.warp_modWarp_self]
    unfold Warp.setPath
    split <;> exact hv
  refine ⟨_, rfl, ?_⟩
  rw [raiseHeader_fault h, obs_headerFault (obs := fun st : State => (st.warp wk).trec) (fun _ _ _ => rfl),
    faultLanes_alike _ f false hv1 hh hne]
  obtain ⟨fid, hrec⟩ := trec_takeTrap (parkLanes (headerLeft s wk path) wk (lanesOf b.lanes) b.hdr 0 false) wk (lanesOf b.lanes) f.cause f.sub
    ⟨b.hdr, 0, 0, b.hdr, 0⟩ false false 0 0 0 ((lanesOf b.lanes).map fun l => (l, trapLane f)) (f.cause.parks || false)
  rw [hrec]
  exact ⟨rfl, rfl, rfl, maskOf_lanesOf b.lanes, rfl, rfl⟩

end Sys2Proof.Machine
end

section
/-! ## Fills of code, entries and extents, answers and time-outs of requests (R22, R27, R28, R114, R225, R346) -/

namespace Sys2Proof.Machine

/-! ### Lists -/

theorem mem_of_mem_dropFirst {α : Type} {p : α → Bool} {x : α} : ∀ {l : List α}, x ∈ dropFirst p l → x ∈ l
  | a :: r, h => by
    rw [dropFirst] at h
    split at h
    · exact List.mem_cons_of_mem a h
    · exact (List.mem_cons.1 h).elim (fun e => e ▸ List.mem_cons_self) fun h => List.mem_cons_of_mem a (mem_of_mem_dropFirst h)

/-- What is entered last is found, if nothing before it is like it. -/
theorem find?_append_last {α : Type} {p : α → Bool} {l : List α} {e : α} (hl : ∀ x ∈ l, p x = false) (he : p e = true) :
    (l ++ [e]).find? p = some e := by
  rw [List.find?_append, List.find?_eq_none.2 (by simpa using hl), Option.none_or, List.find?_cons_of_pos he]

/-- The last entry stays within the capacity of a cache. -/
theorem mem_lastOf_append {α : Type} {n : Nat} (hn : 0 < n) (l : List α) (e : α) : e ∈ lastOf n (l ++ [e]) := by
  rw [lastOf, List.drop_append, List.mem_append]
  right
  rw [List.length_append, List.length_singleton, show l.length + 1 - n - l.length = 0 by omega]
  exact List.mem_singleton_self e

/-! ### Lines of code (R114) -/

/-- A line of code that has been entered is found. -/
theorem icEnter_find (ic : List ICLine) (e : ICLine) :
    (icEnter ic e).find? (fun x => x.realm == e.realm && x.obj == e.obj && x.line == e.line) = some e := by
  have hrest : ∀ x ∈ ic.filter (fun x => !(x.realm == e.realm && x.obj == e.obj && x.line == e.line)),
      (x.realm == e.realm && x.obj == e.obj && x.line == e.line) = false := fun x hx =>
    (Bool.not_eq_true' _).mp (List.mem_filter.1 hx).2
  unfold icEnter
  dsimp only
  split
  · refine find?_append_last (fun x hx => hrest x ?_) (by simp)
    split at hx
    · exact hx
    · exact mem_of_mem_dropFirst hx
  · exact find?_append_last hrest (by simp)

/-- One warp that a line froze goes on. -/
def thawWarp (key : Nat × Nat × Nat) (err : Option RemoteFail) (s : State) (wk : Nat) : State :=
  s.modWarp wk fun w => { w with frozen := w.frozen.filter (· != key)
                                 ferr := match err with | some e => w.ferr ++ [(key, e)] | none => w.ferr }

theorem thaw_eq (s : State) (core realm obj line : Nat) (err : Option RemoteFail) :
    thaw s core realm obj line err = (frozenOn s core realm obj line).foldl (thawWarp (realm, obj, line) err) s := rfl

/-- A warp that is still frozen on a line was so, and was none of those that went on. -/
theorem frozen_foldl_thawWarp {key : Nat × Nat × Nat} {err : Option RemoteFail} {k : Nat} : ∀ (ls : List Nat) (s : State),
    key ∈ ((ls.foldl (thawWarp key err) s).warp k).frozen → key ∈ (s.warp k).frozen ∧ k ∉ ls
  | [], s, h => ⟨h, List.not_mem_nil⟩
  | l :: ls, s, h => by
    obtain ⟨hk, hls⟩ := frozen_foldl_thawWarp ls (thawWarp key err s l) h
    by_cases hl : k = l
    · subst hl
      rw [thawWarp, State.warp_modWarp_self] at hk
      simp at hk
    · rw [thawWarp, State.warp_modWarp_other _ _ hl] at hk
      exact ⟨hk, by simp [hl, hls]⟩

/-- The warps of a core are those that it had before. -/
theorem coreWarps_foldl_thawWarp {key : Nat × Nat × Nat} {err : Option RemoteFail} {k core : Nat} : ∀ (ls : List Nat) (s : State),
    k ∈ (ls.foldl (thawWarp key err) s).coreWarps core → k ∉ ls → k ∈ s.coreWarps core
  | [], _, h, _ => h
  | l :: ls, s, h, hn => by
    obtain ⟨hl, hls⟩ := not_or.1 (mt List.mem_cons.2 hn)
    have ih := coreWarps_foldl_thawWarp ls (thawWarp key err s l) h hls
    simp only [State.coreWarps, List.mem_filter, List.mem_map] at ih ⊢
    obtain ⟨⟨e, he, hek⟩, hcore⟩ := ih
    refine ⟨?_, hcore⟩
    rcases mem_tset he with rfl | hmem
    · exact absurd hek.symm hl
    · exact ⟨e, hmem, hek⟩

/-- No warp stays frozen on a line that has come in. -/
theorem frozenOn_thaw (s : State) (core realm obj line : Nat) (err : Option RemoteFail) :
    frozenOn (thaw s core realm obj line err) core realm obj line = [] := by
  rw [frozenOn, List.filter_eq_nil_iff]
  intro k hk hfrozen
  rw [thaw_eq] at hk hfrozen
  obtain ⟨hwas, hnot⟩ := frozen_foldl_thawWarp _ s (List.contains_iff_mem.1 hfrozen)
  exact hnot (List.mem_filter.2 ⟨coreWarps_foldl_thawWarp _ s hk hnot, List.contains_iff_mem.2 hwas⟩)

theorem cores_thaw (s : State) (core realm obj line : Nat) (err : Option RemoteFail) : (thaw s core realm obj line err).cores = s.cores :=
  foldl_unobserved _ State.cores s fun _ _ _ => rfl

/-! ### Entries of the object cache (R28) -/

/-- An access of two parts that ends: each part has ended. -/
theorem Acc.of_bind {α β : Type} {x : Acc α} {f : State → α → Acc β} {s : State} {b : β} (h : x.bind f = .ok s b) :
    ∃ s1 a, x = .ok s1 a ∧ f s1 a = .ok s b := by
  cases x with
  | ok s1 a => exact ⟨s1, a, rfl, h⟩
  | need k l => cases h
  | bad r => cases h
  | stall => cases h

/-- What an access does all at once that gives a value ends in a state in which the access has ended and its party waits no more. -/
theorem runAcc_gives {α : Type} {s : State} {h : Who} {f : State → Acc α} {v : α} (hv : (runAcc s h f).2 = some (.ok v)) :
    ∃ s1, f s = .ok s1 v ∧ (runAcc s h f).1 = s1.unwait h.who := by
  unfold runAcc runTry at hv ⊢
  split at hv
  case h_1 => simp at hv
  case h_2 =>
    cases hf : f s with
    | ok s1 a =>
      simp only [hf, Acc.bind_ok, Option.some.injEq, Except.ok.injEq] at hv
      subst hv
      exact ⟨s1, rfl, by simp only [hf, Acc.bind_ok]⟩
    | need k l => simp [hf, Acc.bind] at hv
    | bad r => simp [hf, Acc.bind] at hv
    | stall => simp [hf, Acc.bind] at hv

/-- An object entry that has been entered, with none of its object before it, is found. -/
theorem ocEnter_find {oc : List OcEntry} {e : OcEntry} (h : ∀ x ∈ oc, (x.realm == e.realm && x.obj == e.obj) = false) :
    (ocEnter oc e).find? (fun x => x.realm == e.realm && x.obj == e.obj) = some e := by
  unfold ocEnter
  dsimp only
  split
  · refine find?_append_last (fun x hx => h x ?_) (by simp)
    split at hx
    · exact hx
    · exact mem_of_mem_dropFirst hx
  · exact find?_append_last h (by simp)

/-- An entry that a walk finds is in the core's cache. -/
theorem walkEntry_find {s s1 : State} {core realm num : Nat} {fresh : Bool} {e : OcEntry}
    (h : walkEntry s core realm num fresh = .ok s1 (some e)) :
    (s1.core core).oc.find? (fun x => x.realm == realm && x.obj == num) = some e := by
  obtain ⟨s2, r, -, h⟩ := Acc.of_bind h
  cases r with
  | none => simp at h
  | some r =>
    obtain ⟨s3, d, -, h⟩ := Acc.of_bind h
    dsimp only at h
    split at h
    · simp only [Acc.ok.injEq, Option.some.injEq] at h
      obtain ⟨rfl, rfl⟩ := h
      rw [State.core_modCore_self]
      refine ocEnter_find (e := ⟨realm, num, d, r.2⟩) fun x hx => ?_
      rw [dropEntry, State.core_modCore_self] at hx
      exact (Bool.not_eq_true' _).mp (List.mem_filter.1 hx).2
    · simp at h

/-- An entry that a fresh walk finds is in the core's cache. -/
theorem findEntry_fresh {s s1 : State} {core realm num : Nat} {e : OcEntry} (h : findEntry s core realm num true = .ok s1 (some e)) :
    (s1.core core).oc.find? (fun x => x.realm == realm && x.obj == num) = some e := by
  unfold findEntry at h
  split at h
  · simp at h
  · simp only [if_true] at h
    obtain ⟨s2, r, hw, h⟩ := Acc.of_bind h
    cases r with
    | none => simp at h
    | some x =>
      simp only [Acc.ok.injEq, Option.some.injEq] at h
      obtain ⟨rfl, rfl⟩ := h
      exact walkEntry_find hw

/-- An object that is no view is found by its own entry. -/
theorem findPair_fresh {s s1 : State} {core realm num : Nat} {e t : OcEntry} (h : findPair s core realm num true = .ok s1 (some (e, t)))
    (hv : e.view = false) : (s1.core core).oc.find? (fun x => x.realm == realm && x.obj == num) = some e := by
  obtain ⟨s2, r, hf, h⟩ := Acc.of_bind h
  cases r with
  | none => simp at h
  | some x =>
    dsimp only at h
    split at h
    · simp only [Acc.ok.injEq, Option.some.injEq, Prod.mk.injEq] at h
      obtain ⟨rfl, rfl, -⟩ := h
      exact findEntry_fresh hf
    · next hx =>
      obtain ⟨s3, p, -, h⟩ := Acc.of_bind h
      cases p with
      | none => simp at h
      | some p =>
        simp only [Acc.ok.injEq] at h
        obtain ⟨-, h⟩ := h
        split at h
        · contradiction
        · simp only [Option.some.injEq, Prod.mk.injEq] at h
          exact absurd (h.1 ▸ hv) (by simpa using hx)

/-! ### Extents (R22, R27) -/

/-- The address that an extent gives: none, or one of memory. -/
def extentAddr (s : State) (w : Word) (off : Nat) : Option Nat :=
  if w.getLsbD 63 && bits w 62 51 == 0 then
    (if addrOk s ((bits w 50 0 + off) % 2 ^ 51) then some ((bits w 50 0 + off) % 2 ^ 51) else none) else none

theorem addrOk_extentAddr {s : State} {w : Word} {off a : Nat} (h : extentAddr s w off = some a) : addrOk s a = true := by
  unfold extentAddr at h
  split at h
  · split at h
    · exact Option.some.inj h ▸ ‹_›
    · contradiction
  · contradiction

/-- An address in a chunk is of memory, and the chunk's extent is in the cache of the core's die. -/
theorem resolveAt_chunk {s s1 : State} {c k a : Nat} {e : OcEntry} (hm : e.hm = true) (hl : l1Addr s c e k = none)
    (h : resolveAt s c e k = .ok s1 (some a)) :
    addrOk s1 a = true ∧ ∃ x ∈ tget s1.ext (dieOf c) [], x.realm = e.realm ∧ x.obj = e.obj ∧ x.chunk = k / e.chunk := by
  have hdec : ∀ (st : State) (w : Word), (if w.getLsbD 63 && bits w 62 51 == 0 then
      (.ok st (if addrOk st ((bits w 50 0 + k % e.chunk) % 2 ^ 51) then some ((bits w 50 0 + k % e.chunk) % 2 ^ 51) else none) : Acc (Option Nat))
      else .ok st none) = .ok s1 (some a) → st = s1 ∧ addrOk s1 a = true := fun st w hw => by
    have hx : Acc.ok st (extentAddr st w (k % e.chunk)) = .ok s1 (some a) := by
      rw [← hw, extentAddr]; split <;> rfl
    simp only [Acc.ok.injEq] at hx
    obtain ⟨rfl, hx⟩ := hx
    exact ⟨rfl, addrOk_extentAddr hx⟩
  simp only [resolveAt, hm, hl, Bool.not_true, Bool.false_eq_true, if_false] at h
  cases hf : (tget s.ext (dieOf c) []).find? (fun (x : ExtEntry) => x.realm == e.realm && x.obj == e.obj && x.chunk == k / e.chunk) with
  | some x =>
    rw [hf] at h
    obtain ⟨rfl, ha⟩ := hdec _ _ h
    have hx := List.find?_some hf
    simp only [Bool.and_eq_true, beq_iff_eq] at hx
    exact ⟨ha, x, List.mem_of_find?_eq_some hf, hx.1.1, hx.1.2, hx.2⟩
  | none =>
    rw [hf] at h
    dsimp only at h
    split at h
    · simp at h
    · obtain ⟨s2, d, -, h⟩ := Acc.of_bind h
      obtain ⟨rfl, ha⟩ := hdec _ _ h
      refine ⟨ha, ⟨e.realm, e.obj, k / e.chunk, d.getD 0 0⟩, ?_, rfl, rfl, rfl⟩
      rw [tget_tset_self]
      exact mem_lastOf_append (by decide) _ _

/-! ### Requests (R225, R346) -/

/-- Time-outs of waiters that are no deferred results are failures that they take when they next look. -/
theorem foldl_timeOut {line : Nat} : ∀ {ws : List Waiter} (s : State), (∀ w ∈ ws, ∀ d, w ≠ .defer d) →
    ws.foldl (fun st w => timeOut st line w) s = { s with fails := s.fails ++ ws.map fun w => ⟨w, line, .timeout⟩ }
  | [], s, _ => by simp
  | w :: ws, s, h => by
    have hw : timeOut s line w = { s with fails := s.fails ++ [⟨w, line, .timeout⟩] } := by
      cases w with
      | defer d => exact absurd rfl (h _ List.mem_cons_self d)
      | _ => rfl
    rw [List.foldl_cons, hw, foldl_timeOut _ fun v hv => h v (List.mem_cons_of_mem w hv)]
    simp

/-- The waiters of a request whose time has come take a failure; the others stay. -/
theorem remoteTimeout_fails {s : State} {id : Nat} {r : Req} (hid : id < 2 ^ 60) (hr : s.reqs.find? (fun x => x.id == id) = some r)
    (hlate : ∃ e ∈ r.waiters, e.2 ≤ s.usec) (hd : ∀ e ∈ r.waiters, ∀ d, e.1 ≠ .defer d) :
    ∃ t, execRemoteTimeout id s = .next t ∧ t.hbm = s.hbm
      ∧ t.fails = s.fails ++ ((r.waiters.filter fun e => e.2 ≤ s.usec).map fun e => ⟨e.1, r.line, .timeout⟩)
      ∧ ∀ x ∈ t.reqs, x.id = id → x.waiters = r.waiters.filter fun e => s.usec < e.2 := by
  have hnone : ((r.waiters.filter fun e => e.2 ≤ s.usec).map (·.1)).isEmpty = false := by
    obtain ⟨e, he, hle⟩ := hlate
    rw [List.isEmpty_eq_false_iff]
    exact List.ne_nil_of_mem (List.mem_map_of_mem (List.mem_filter.2 ⟨he, by simpa using hle⟩))
  have hws : ∀ w ∈ (r.waiters.filter fun e => e.2 ≤ s.usec).map (·.1), ∀ d, w ≠ .defer d := fun w hw d => by
    obtain ⟨e, he, rfl⟩ := List.mem_map.1 hw
    exact hd e (List.mem_filter.1 he).1 d
  simp only [execRemoteTimeout, Nat.not_le.2 hid, if_false, hr, hnone, Bool.false_eq_true, foldl_timeOut _ hws]
  refine ⟨_, rfl, rfl, by rw [List.map_map]; rfl, fun x hx hxid => ?_⟩
  obtain ⟨y, -, rfl⟩ := List.mem_map.1 (List.mem_filter.1 hx).1
  split at hxid
  · rw [if_pos ‹_›]
  · contradiction

/-- An answer of the package's own memory for a line that nothing holds busy ends its request. -/
theorem localMemoryResponse_idle {s : State} {id : Nat} {r : Req}
    (hr : s.reqs.find? (fun x => x.id == id && x.line < 2 ^ 50 && agentOf x.line == s.pkg.agent) = some r) (ht : s.txOf (localOf r.line) = none) :
    execLocalMemoryResponse id s = .next { s with reqs := s.reqs.filter (fun x => x.id != id), epoch := s.epoch + 1 } := by
  have hready : homeReady s r = true := by simp only [homeReady, ht]
  simp only [execLocalMemoryResponse, hr, hready, if_true]
  rfl

/-! ### Fills in one act -/

/-- A line of code that comes in is in the cache, and no warp stays frozen on it. -/
theorem icacheFill_enters {s s1 : State} {core realm obj line : Nat} {b : List Byte} (hf : frozenOn s core realm obj line ≠ [])
    (hr : runAcc s (fillWho s core (obj * 2 ^ 34 + line)) (fun st => codeLine st core realm obj line) = (s1, some (.ok (some b)))) :
    ∃ t e, execIcacheFill core realm obj line s = .next t ∧ icFind t core realm obj line = some e ∧ e.bytes = b
      ∧ frozenOn t core realm obj line = [] := by
  have hne : (frozenOn s core realm obj line).isEmpty = false := List.isEmpty_eq_false_iff.2 hf
  simp only [execIcacheFill, hne, Bool.false_eq_true, if_false, hr]
  refine ⟨_, ⟨realm, obj, line, s1.uid, b⟩, rfl, ?_, rfl, frozenOn_thaw ..⟩
  rw [icFind, State.core_of_wake, State.core, cores_thaw, ← State.core, State.core_modCore_self]
  exact icEnter_find _ ⟨realm, obj, line, s1.uid, b⟩

/-- A walk leaves its object's entry in the core's cache. -/
theorem objectWalk_enters {s : State} {core realm obj : Nat} {h : Who} {e t : OcEntry}
    (hr : (runAcc s h fun st => findPair st core realm obj true).2 = some (.ok (some (e, t)))) (hv : e.view = false) :
    ((runAcc s h fun st => findPair st core realm obj true).1.core core).oc.find? (fun x => x.realm == realm && x.obj == obj) = some e := by
  obtain ⟨s1, hf, hs⟩ := runAcc_gives hr
  rw [hs, State.core_of_unwait]
  exact findPair_fresh hf hv

/-- An extent of an object whose entry a core of the die holds comes in. -/
theorem extentFill_resolves {s : State} {die realm obj chunk c : Nat} {e : OcEntry}
    (hf : (List.range 8).findSome? (fun k => ((s.core (8 * die + k)).oc.find? fun (x : OcEntry) => x.realm == realm && x.obj == obj).map
      fun x => (8 * die + k, x)) = some (c, e)) (hm : e.hm = true) (hlt : chunk * e.chunk < e.len) :
    execExtentFill die realm obj chunk s =
      .next (runAcc s ⟨c, .core (c + 64 * 9), (s.core c).tdef.toNat⟩ fun st => resolveAt st c e (chunk * e.chunk)).1 := by
  have hhit : ((upto 8).map (8 * die + ·)).findSome? (fun c => ((s.core c).oc.find? fun (e : OcEntry) => e.realm == realm && e.obj == obj).map
      fun e => (c, e)) = some (c, e) := by
    rw [List.findSome?_map]; exact hf
  have hin : ¬e.len ≤ chunk * e.chunk := by omega
  simp only [execExtentFill, hhit, hm, hin, Bool.not_true, decide_false, Bool.or_false, Bool.false_eq_true, if_false]

end Sys2Proof.Machine

open Sys2Proof Sys2Proof.Machine

/-- Settles O42: the heddle's cycle by its choices, each the least of an order; header faults by what faults of lanes leave unchanged and the record
they write; fills by what is entered last. -/
theorem fetchEvents : Obligations.FetchEvents := by
  unfold Obligations.FetchEvents
  refine ⟨fun core part s s1 ws wk gs => ?_, fun s wk a b => ?_,
    fun core part s e he hp hw hf => ?_, fun s wk n g h ws _ => path_openGroup_go .., fun s wk n g f _ => ⟨_, path_openGroup_fault .., rfl, rfl, rfl, rfl⟩,
    fun s wk path b f hb hn hf => ?_, fun s wk gs h0 h1 hne => ?_, fun s ws e h => chooseWarp_forced h,
    fun s wk g h ws c hc => ⟨headerChecks_bad, headerChecks_role hc, headerChecks_opens hc⟩,
    fun core realm obj line s s1 b hf hr => icacheFill_enters hf hr, fun core realm obj s => ?_,
    fun die realm obj chunk s c e hf hm hlt => extentFill_resolves hf hm hlt, fun s c e k s1 a hm hl h => resolveAt_chunk hm hl h,
    fun id s r hr ht => localMemoryResponse_idle hr ht, fun id s r hid hr hlate hd => remoteTimeout_fails hid hr hlate hd⟩
  · intro pk hr hc z z2
    refine ⟨_, rfl, ?_⟩
    rw [heddle_chosen hr hc]
    have hpath : ∀ n, (z2.warp wk).path n = (z.warp wk).path n := fun n => by
      rw [State.warp_modWarp_self]
      cases n <;> rfl
    split
    · exact ⟨hpath, rfl, rfl, by rw [State.core_modCore_self]; rfl⟩
    · exact ⟨hpath, rfl, rfl, (BitVec.add_zero _).symm⟩
  · intro w h0 h1 c0 c1 ha hb
    exact issueOrder_both h0 h1 c0 c1 ha hb
  · refine if_pos (List.any_eq_true.2 ⟨e, List.mem_filter.2 ⟨he, by simpa using hp⟩, ?_⟩)
    rw [hw, hf]; rfl
  · obtain ⟨hpath, hhbm⟩ := raiseHeader_path (s := s) (wk := wk) (path := path) hf
    refine ⟨_, issueNext_header hb hn, rfl, hpath, hhbm, fun hv hh hne => ?_⟩
    obtain ⟨r, rfl, hr⟩ := raiseHeader_record (s := s) (wk := wk) (path := path) hf hv hh hne
    exact hr
  · obtain ⟨a, ha, hain, hmost⟩ := biggestGrp_most s hne
    obtain ⟨b, hb, hbin, hleast⟩ := lowestGrp_least s hne
    exact ⟨a, b, openings_free h0 h1 ha hb, hain, hbin, hmost, hleast⟩
  · intro h r
    exact ⟨rfl, fun e t hr hv => objectWalk_enters hr hv⟩

end

section
/-! ## Integer arithmetic, shifts, logic and division (R156, R157, R159–R161) -/

namespace Sys2Proof.Machine

/-! ### Instructions that compute at 32 or 64 bits (R156) -/

theorem computes_alu1 {i : Instr} {f : BaseF} {op : {n : Nat} → BitVec n → BitVec n}
    (he : ∀ s, exec i s = issue s i (alu1 op f)) : Computes i fun x => at1 (wBit f) op x.av.bits :=
  yields_alu he fun _ _ _ _ => rfl

theorem computes_alu2 {i : Instr} {f : BaseF} {op : {n : Nat} → BitVec n → BitVec n → BitVec n}
    (he : ∀ s, exec i s = issue s i (alu2 op f)) : Computes i fun x => at2 (wBit f) op x.av.bits x.bv.bits :=
  yields_alu he fun _ _ _ _ => rfl

theorem computes_alu3 {i : Instr} {f : BaseF} {op : {n : Nat} → BitVec n → BitVec n → BitVec n → BitVec n}
    (he : ∀ s, exec i s = issue s i (alu3 op f)) :
    Computes i fun x => at3 (wBit f) op x.av.bits x.bv.bits x.cv.bits :=
  yields_alu he fun _ _ _ _ => rfl

theorem yields_alu2f {i : Instr} {f : BaseF} {op : {n : Nat} → BitVec n → BitVec n → BitVec n}
    {iov : {n : Nat} → BitVec n → BitVec n → Bool} (he : ∀ s, exec i s = issue s i (alu2f op iov f)) :
    Yields i (fun x => Val.int (at2 (wBit f) op x.av.bits x.bv.bits)) fun x => iovIf (cmp2 (wBit f) iov x.av.bits x.bv.bits) :=
  yields_alu he fun _ _ _ _ => rfl

/-- A move takes the tag along at 64 bits and clears it at 32 (R157). -/
theorem moved_value (w : Bool) (v : Val) : (if w then resV v else res v.bits) = .ok (.value (if w then v else Val.int v.bits)) := by
  cases w <;> rfl

/-- NEG is the difference from zero (R159). -/
theorem computes_neg (f : BaseF) : Computes (.neg f) fun x => at1 (wBit f) (fun a => 0 - a) x.av.bits := by
  have hneg : (fun {n : Nat} (a : BitVec n) => 0 - a) = fun {n : Nat} a => -a := by
    funext n a
    exact BitVec.zero_sub a
  rw [hneg]
  exact computes_alu1 fun _ => rfl

end Sys2Proof.Machine

open Sys2Proof Sys2Proof.Machine

/-- Settles O1: each instruction has the body of one, two or three operands around its operation; a move keeps the tag at 64 bits alone. -/
theorem integerResults : Obligations.IntegerResults := by
  unfold Obligations.IntegerResults
  refine ⟨⟨fun f => yields_alu (fun _ => rfl) fun _ _ _ x => moved_value (wBit f) x.av, fun f => yields_alu (fun _ => rfl) fun _ _ _ _ => rfl,
    fun f => yields_alu (fun _ => rfl) fun _ _ _ _ => rfl, fun f => performs_alu (fun _ => rfl) fun _ _ _ _ => moved_value (wBit f) _,
    ?add, ?sub, ?mul, ?mulh, ?mulhu, ?mad, ?min, ?max, ?minu, ?maxu, computes_neg, fun f => yields_alu (fun _ => rfl) fun _ _ _ _ => rfl, ?lea⟩,
    ?shl, ?shr, ?sar, ?and, ?or, ?xor, ?not, ?andn⟩
  case mad | lea => exact fun f => computes_alu3 fun _ => rfl
  case not => exact fun f => computes_alu1 fun _ => rfl
  all_goals exact fun f => computes_alu2 fun _ => rfl
end

section
/-! ## Division and ABS (R160) -/

namespace Sys2Proof.Machine

variable {n : Nat} {a b : BitVec n}

/-- The most negative number is the one whose bits are a 1 and zeros. -/
theorem isMin_iff (hn : 0 < n) : isMin a = true ↔ a = BitVec.intMin n := by
  rw [isMin, beq_iff_eq, ← BitVec.toInt_intMin_of_pos hn, BitVec.toInt_inj]

theorem divS_of_ne_zero (hb : b ≠ 0) : divS a b = a.sdiv b := by
  rw [divS, if_neg hb]
  exact BitVec.eq_of_toInt_eq (by rw [BitVec.toInt_ofInt, BitVec.toInt_sdiv])

theorem remS_of_ne_zero (hb : b ≠ 0) : remS a b = a.srem b := by
  rw [remS, if_neg hb, ← BitVec.toInt_srem, BitVec.ofInt_toInt]

theorem toNat_divU (hb : b ≠ 0) : (divU a b).toNat = a.toNat / b.toNat := by
  rw [divU, if_neg hb, BitVec.toNat_ofNat]
  exact Nat.mod_eq_of_lt (Nat.div_lt_of_lt a.isLt)

theorem toNat_remU (hb : b ≠ 0) : (remU a b).toNat = a.toNat % b.toNat := by
  rw [remU, if_neg hb, BitVec.toNat_ofNat]
  exact Nat.mod_eq_of_lt (Nat.mod_lt_of_lt a.isLt)

/-- A quotient is the truncated one unless the division overflows. -/
theorem toInt_divS (hb : b ≠ 0) (hov : ¬ (a = BitVec.intMin n ∧ b = BitVec.allOnes n)) :
    (divS a b).toInt = a.toInt.tdiv b.toInt := by
  rw [divS_of_ne_zero hb]
  refine BitVec.toInt_sdiv_of_ne_or_ne a b ?_
  rw [BitVec.neg_one_eq_allOnes]
  exact not_and_or.1 hov

theorem toInt_remS (hb : b ≠ 0) : (remS a b).toInt = a.toInt.tmod b.toInt := by
  rw [remS_of_ne_zero hb, BitVec.toInt_srem]

theorem divIov_eq_false (hn : 0 < n) (hb : b ≠ 0) (hov : ¬ (a = BitVec.intMin n ∧ b = BitVec.allOnes n)) :
    divIov a b = false := by
  rw [divIov, beq_false_of_ne hb, Bool.false_or, ← Bool.not_eq_true, Bool.and_eq_true, isMin_iff hn, beq_iff_eq]
  exact hov

theorem allOnes_ne_zero (hn : 0 < n) : BitVec.allOnes n ≠ 0 := mt BitVec.allOnes_eq_zero_iff.1 hn.ne'

/-- The one overflow gives the most negative number back and leaves no remainder. -/
theorem divS_intMin_allOnes (hn : 0 < n) : divS (BitVec.intMin n) (BitVec.allOnes n) = BitVec.intMin n := by
  rw [divS_of_ne_zero (allOnes_ne_zero hn), ← BitVec.neg_one_eq_allOnes, BitVec.intMin_sdiv_neg_one]

theorem remS_allOnes (hn : 0 < n) : remS a (BitVec.allOnes n) = 0 := by
  rw [remS, if_neg (allOnes_ne_zero hn), BitVec.toInt_allOnes, if_pos hn, Int.tmod_neg, Int.tmod_one]
  exact BitVec.eq_of_toInt_eq (by simp)

theorem divIov_intMin_allOnes (hn : 0 < n) : divIov (BitVec.intMin n) (BitVec.allOnes n) = true := by
  rw [divIov, (isMin_iff hn).2 rfl, beq_self_eq_true, Bool.true_and, Bool.or_true]

theorem absV_intMin : absV (BitVec.intMin n) = BitVec.intMin n := by
  rw [absV, BitVec.neg_intMin, ite_self]

end Sys2Proof.Machine

open Sys2Proof Sys2Proof.Machine

/-- Settles O2: each instruction has the body of two operands with IOV around its operation; beside the zero divisor, a quotient and a
remainder are those of the library's signed division, whose one overflow is that of R160. -/
theorem divisionResults : Obligations.DivisionResults := by
  unfold Obligations.DivisionResults
  refine ⟨⟨fun f => yields_alu2f fun _ => rfl, fun f => yields_alu2f fun _ => rfl, fun f => yields_alu2f fun _ => rfl,
    fun f => yields_alu2f fun _ => rfl, fun f => yields_alu (fun _ => rfl) fun _ _ _ _ => rfl⟩,
    fun n a b hn => ⟨?zero, fun hb => ⟨beq_false_of_ne hb, toNat_divU hb, toNat_remU hb⟩,
      fun hb hov => ⟨divIov_eq_false hn hb hov, toInt_divS hb hov, toInt_remS hb⟩, ?overflow, isMin_iff hn, ?abs⟩⟩
  case zero =>
    rintro rfl
    exact ⟨if_pos rfl, if_pos rfl, if_pos rfl, if_pos rfl, by simp [divIov], by simp [divuIov]⟩
  case overflow =>
    rintro - rfl rfl
    exact ⟨divIov_intMin_allOnes hn, divS_intMin_allOnes hn, remS_allOnes hn⟩
  case abs =>
    rintro rfl
    exact absV_intMin
end

section
/-! ## Bit counts, reversals and bit fields (R162, R163) -/

namespace Sys2Proof.Machine

/-! ### The last and the first number that satisfies a condition -/

/-- A fold that overwrites its result at each number that satisfies `p` ends with the result of the last one. -/
theorem foldl_range_last {α : Type} (p : Nat → Bool) (g : Nat → α) (z : α) : ∀ n,
    let r := (List.range n).foldl (fun m i => if p i then g i else m) z
    (r = z ∧ ∀ i < n, p i = false) ∨ ∃ k < n, r = g k ∧ p k = true ∧ ∀ i < n, k < i → p i = false
  | 0 => .inl ⟨rfl, fun _ h => absurd h (Nat.not_lt_zero _)⟩
  | n + 1 => by
    rw [List.range_succ, List.foldl_append, List.foldl_cons, List.foldl_nil]
    cases hp : p n with
    | true => exact .inr ⟨n, Nat.lt_succ_self n, rfl, hp, fun i hi hk => absurd hi (by omega)⟩
    | false =>
      have hlast : ∀ {i}, i < n + 1 → (i < n → p i = false) → p i = false := fun {i} hi h => by
        obtain hi | rfl := Nat.lt_succ_iff_lt_or_eq.1 hi
        · exact h hi
        · exact hp
      obtain ⟨hr, hall⟩ | ⟨k, hk, hr, hpk, hall⟩ := foldl_range_last p g z n
      · exact .inl ⟨hr, fun i hi => hlast hi (hall i)⟩
      · exact .inr ⟨k, Nat.lt_succ_of_lt hk, hr, hpk, fun i hi hki => hlast hi fun h => hall i h hki⟩

/-- A fold from the right that takes each such number for its result ends with the first one. -/
theorem foldr_range_first (p : Nat → Bool) : ∀ n z : Nat,
    let r := (List.range n).foldr (fun i m => if p i then i else m) z
    (r = z ∧ ∀ i < n, p i = false) ∨ (r < n ∧ p r = true ∧ ∀ i < r, p i = false)
  | 0, _ => .inl ⟨rfl, fun _ h => absurd h (Nat.not_lt_zero _)⟩
  | n + 1, z => by
    rw [List.range_succ, List.foldr_append, List.foldr_cons, List.foldr_nil]
    obtain ⟨hr, hall⟩ | ⟨hk, hfound⟩ := foldr_range_first p n (if p n then n else z)
    · rw [hr]
      cases hp : p n with
      | true => exact .inr ⟨Nat.lt_succ_self n, hp, hall⟩
      | false =>
        refine .inl ⟨rfl, fun i hi => ?_⟩
        obtain hi | rfl := Nat.lt_succ_iff_lt_or_eq.1 hi
        · exact hall i hi
        · exact hp
    · exact .inr ⟨Nat.lt_succ_of_lt hk, hfound⟩

/-! ### Bit counts (R162) -/

variable {n : Nat} {a : BitVec n}

theorem toNat_popcV : (popcV a).toNat = ((List.range n).filter fun i => a.getLsbD i).length := by
  have hle := List.countP_le_length (p := fun i => a.getLsbD i) (l := List.range n)
  rw [List.length_range] at hle
  rw [popcV, upto, BitVec.toNat_ofNat, Nat.mod_eq_of_lt (hle.trans_lt Nat.lt_two_pow_self), List.countP_eq_length_filter]

theorem eq_zero_of_getLsbD (h : ∀ i < n, a.getLsbD i = false) : a = 0 :=
  BitVec.eq_of_getLsbD_eq fun i hi => by simpa using h i hi

/-- CLZ by the highest 1 bit of its operand, if there is one. -/
theorem clzV_cases (a : BitVec n) : (a = 0 ∧ (clzV a).toNat = n)
    ∨ ∃ k < n, (clzV a).toNat = n - 1 - k ∧ a.getLsbD k = true ∧ ∀ i < n, k < i → a.getLsbD i = false := by
  rw [clzV, upto, BitVec.toNat_ofNat]
  obtain ⟨hr, hall⟩ | ⟨k, hk, hr, hfound⟩ := foldl_range_last (fun i => a.getLsbD i) (fun i => n - 1 - i) n n
  · rw [hr, Nat.mod_eq_of_lt Nat.lt_two_pow_self]
    exact .inl ⟨eq_zero_of_getLsbD hall, rfl⟩
  · have hlt : n - 1 - k < 2 ^ n := Nat.lt_of_le_of_lt (by omega) Nat.lt_two_pow_self
    rw [hr, Nat.mod_eq_of_lt hlt]
    exact .inr ⟨k, hk, rfl, hfound⟩

/-- CTZ by the lowest 1 bit of its operand, if there is one. -/
theorem ctzV_cases (a : BitVec n) : (a = 0 ∧ (ctzV a).toNat = n)
    ∨ ((ctzV a).toNat < n ∧ a.getLsbD (ctzV a).toNat = true ∧ ∀ i < (ctzV a).toNat, a.getLsbD i = false) := by
  rw [ctzV, upto, BitVec.toNat_ofNat]
  obtain ⟨hr, hall⟩ | ⟨hk, hfound⟩ := foldr_range_first (fun i => a.getLsbD i) n n
  · rw [hr, Nat.mod_eq_of_lt Nat.lt_two_pow_self]
    exact .inl ⟨eq_zero_of_getLsbD hall, rfl⟩
  · rw [Nat.mod_eq_of_lt (hk.trans Nat.lt_two_pow_self)]
    exact .inr ⟨hk, hfound⟩

/-- CLZ of another number than 0 points at its highest 1 bit. -/
theorem clzV_spec (ha : a ≠ 0) : a.getLsbD (n - 1 - (clzV a).toNat) = true ∧ (clzV a).toNat < n
    ∧ ∀ i, n - 1 - (clzV a).toNat < i → a.getLsbD i = false := by
  obtain ⟨h0, -⟩ | ⟨k, hk, hr, hbit, hall⟩ := clzV_cases a
  · exact absurd h0 ha
  · have hidx : n - 1 - (n - 1 - k) = k := by omega
    rw [hr, hidx]
    refine ⟨hbit, by omega, fun i hki => ?_⟩
    by_cases hi : i < n
    · exact hall i hi hki
    · exact BitVec.getLsbD_of_ge a i (Nat.le_of_not_lt hi)

/-! ### Reversals (R162) -/

/-- The sum of the powers of two that `f` selects below `2 ^ n` has exactly these bits. -/
theorem testBit_foldl_pow (f : Nat → Bool) : ∀ n, let r := (List.range n).foldl (fun m i => if f i then m + 2 ^ i else m) 0
    r < 2 ^ n ∧ ∀ i < n, r.testBit i = f i
  | 0 => ⟨Nat.one_pos, fun _ h => absurd h (Nat.not_lt_zero _)⟩
  | n + 1 => by
    obtain ⟨hlt, hbits⟩ := testBit_foldl_pow f n
    rw [List.range_succ, List.foldl_append, List.foldl_cons, List.foldl_nil]
    have hpow : 2 ^ (n + 1) = 2 ^ n + 2 ^ n := by rw [Nat.pow_succ]; omega
    cases hf : f n with
    | true =>
      refine ⟨by simp only [if_true]; omega, fun i hi => ?_⟩
      simp only [if_true, Nat.add_comm _ (2 ^ n)]
      obtain hi | rfl := Nat.lt_succ_iff_lt_or_eq.1 hi
      · rw [Nat.testBit_two_pow_add_gt hi, hbits i hi]
      · rw [Nat.testBit_two_pow_add_eq, Nat.testBit_lt_two_pow hlt, hf, Bool.not_false]
    | false =>
      refine ⟨by simp only [Bool.false_eq_true, if_false]; omega, fun i hi => ?_⟩
      simp only [Bool.false_eq_true, if_false]
      obtain hi | rfl := Nat.lt_succ_iff_lt_or_eq.1 hi
      · exact hbits i hi
      · rw [Nat.testBit_lt_two_pow hlt, hf]

theorem getLsbD_bitsFrom (f : Nat → Bool) {i : Nat} (hi : i < n) : (bitsFrom n f).getLsbD i = f i := by
  rw [bitsFrom, upto, BitVec.getLsbD_ofNat, decide_eq_true hi, Bool.true_and]
  exact (testBit_foldl_pow f n).2 i hi

theorem getLsbD_brevV {i : Nat} (hi : i < n) : (brevV a).getLsbD (n - 1 - i) = a.getLsbD i := by
  rw [brevV, getLsbD_bitsFrom _ (by omega)]
  exact congrArg a.getLsbD (by omega)

/-- Where BSWAP moves bit `i` of a number of `k` bytes, and from there back. -/
theorem byteMirror_lt {k i : Nat} (hi : i < 8 * k) : 8 * (k - 1 - i / 8) + i % 8 < 8 * k := by omega

theorem byteMirror_byteMirror {k i : Nat} (hi : i < 8 * k) :
    8 * (k - 1 - (8 * (k - 1 - i / 8) + i % 8) / 8) + (8 * (k - 1 - i / 8) + i % 8) % 8 = i := by omega

theorem getLsbD_bswapV (hn : n = 8 * (n / 8)) {i : Nat} (hi : i < n) :
    (bswapV a).getLsbD (8 * (n / 8 - 1 - i / 8) + i % 8) = a.getLsbD i := by
  have hk : i < 8 * (n / 8) := hn ▸ hi
  rw [bswapV, getLsbD_bitsFrom _ (lt_of_lt_of_eq (byteMirror_lt hk) hn.symm), byteMirror_byteMirror hk]

end Sys2Proof.Machine

open Sys2Proof Sys2Proof.Machine

/-- Settles O3: each instruction has the body of one, two or three operands around its operation; the counts are folds over the bits that end
at the highest and the lowest 1 bit, the reversals numbers made of the operand's bits. -/
theorem bitFieldResults : Obligations.BitFieldResults := by
  unfold Obligations.BitFieldResults
  refine ⟨⟨?popc, ?clz, ?ctz, ?brev, ?bswap, ?rol, ?ror, ?bfx, ?bfxu, fun f => computes_alu3 fun _ => rfl⟩, fun n a hn =>
    ⟨toNat_popcV, ?zero, clzV_spec, ?lowest, fun i hi => getLsbD_brevV hi, fun i hi => getLsbD_bswapV (by omega) hi⟩⟩
  case zero =>
    intro ha
    obtain ⟨-, hclz⟩ | ⟨k, -, -, hbit, -⟩ := clzV_cases a
    · obtain ⟨-, hctz⟩ | ⟨-, hbit, -⟩ := ctzV_cases a
      · exact ⟨hclz, hctz⟩
      · simp [ha] at hbit
    · simp [ha] at hbit
  case lowest =>
    intro ha
    obtain ⟨h0, -⟩ | ⟨-, hfound⟩ := ctzV_cases a
    · exact absurd h0 ha
    · exact hfound
  case rol | ror | bfx | bfxu => exact fun f => computes_alu2 fun _ => rfl
  all_goals exact fun f => computes_alu1 fun _ => rfl
end

section
/-! ## Lane exchange, votes and reductions (R164–R167) -/

namespace Sys2Proof.Machine

/-! ### The participants (R164) -/

/-- The operands of a participant are looked up among those of the active lanes. -/
theorem tfind_participant (ls : List Nat) (x : Nat → Srcs) (o : Option Nat) :
    (o.bind fun m => tfind (ls.map fun l => (l, x l)) m) = (o.filter fun m => ls.contains m).map x := by
  cases o with
  | none => rfl
  | some m =>
    rw [Option.bind_some, tfind_map, Option.filter_some]
    simp only [List.contains_iff_mem]
    split <;> rfl

/-- The participants that satisfy a condition, by their lanes. -/
theorem map_fst_filter (ls : List Nat) (x : Nat → Srcs) (p : Nat × Srcs → Bool) :
    ((ls.map fun l => (l, x l)).filter p).map (·.1) = ls.filter fun l => p (l, x l) := by
  rw [List.filter_map, List.map_map]
  exact List.map_id _

/-! ### Lane exchange (R165) -/

/-- What a lane exchange gives a lane: the value of its source lane `m`, if that takes part, else the lane's own. -/
def exchanged (f : BaseF) (x : Nat → Srcs) (l : Nat) (m : Option Nat) : LaneRes :=
  let v := match m with | some m => (x m).av | none => (x l).av
  { val := some (if wBit f then v else Val.int v.bits)
    preds := if f.md.getLsbD 9 then [(bits f.md 8 5, m.isSome)] else [] }

theorem performs_lx {i : Instr} {f : BaseF} {src : Nat → Nat → Word → Option Nat} (he : ∀ s, exec i s = issue s i (lxBody f src)) :
    Performs i fun _ c x l =>
      exchanged f x l ((src (32 >>> bits f.md 4 2) l (x l).bv.bits).filter fun m => c.active.contains m) := by
  refine performs_cross he fun s c x l _ => ?_
  simp only [tfind_participant]
  cases (src (32 >>> bits f.md 4 2) l (x l).bv.bits).filter fun m => c.active.contains m <;> rfl

/-! ### Reductions (R167) -/

/-- A reduction starts with the value of the first active lane and takes in those of the others. -/
theorem performs_wred {i : Instr} {f : BaseF} {op : {n : Nat} → BitVec n → BitVec n → BitVec n}
    (he : ∀ s, exec i s = issue s i (wredBody f op)) : Performs i fun _ c x _ => .value (Val.int
      ((c.active.drop 1).foldl (fun m l => at2 (wBit f) op m (x l).av.bits)
        (at1 (wBit f) (fun a => a) (x (c.active.headD 0)).av.bits))) := by
  refine performs_cross he fun s c x l hl => ?_
  cases hc : c.active with
  | nil => rw [hc] at hl; exact absurd hl List.not_mem_nil
  | cons m ls =>
    simp only [List.map_cons, List.foldl_map]
    rfl

/-- Which of two operations a bit chooses for two values is which of them it chooses. -/
theorem choose_op (b : Bool) (op op' : {n : Nat} → BitVec n → BitVec n → BitVec n) :
    (fun {n : Nat} (x y : BitVec n) => if b then op x y else op' x y) = fun {n : Nat} => if b then op (n := n) else op' := by
  cases b <;> rfl

end Sys2Proof.Machine

open Sys2Proof Sys2Proof.Machine

/-- Settles O4: the participants of an instruction whose active lanes all read their operands are the active lanes, so a lookup among them
finds the lane that is active, and a fold over them runs over the active lanes. -/
theorem crossLaneResults : Obligations.CrossLaneResults := by
  unfold Obligations.CrossLaneResults
  refine ⟨⟨fun f => performs_lx fun _ => rfl, fun f => performs_lx fun _ => rfl, fun f => performs_lx fun _ => rfl,
    fun f => performs_lx fun _ => rfl⟩, ?or, ?and, ?msk, ?eqmask, ?partm, fun f => performs_wred fun _ => rfl, ?min, ?max,
    fun f => performs_wred fun _ => rfl, fun f => performs_wred fun _ => rfl, fun f => performs_wred fun _ => rfl⟩
  case or =>
    exact fun f => performs_cross (fun _ => rfl) fun s c x l _ => by rw [List.any_map]; rfl
  case and =>
    exact fun f => performs_cross (fun _ => rfl) fun s c x l _ => by rw [List.all_map]; rfl
  case msk | eqmask =>
    exact fun f => performs_cross (fun _ => rfl) fun s c x l _ => by rw [map_fst_filter]; rfl
  case partm =>
    exact fun f => performs_cross (fun _ => rfl) fun s c x l _ => by
      rw [List.map_map]
      exact congrArg (fun ls => res ((maskOf ls).zeroExtend 64)) (List.map_id _)
  case min | max =>
    intro f
    rw [← choose_op]
    exact performs_wred fun _ => rfl
end

section
/-! ## Compares and predicates (R168–R170, R181) -/

namespace Sys2Proof.Machine

/-- The combining types (R169): the low bits choose the combination, bit 2 complements the condition. -/
theorem combine_eq {ct : Nat} (hct : ct < 8) (p1 p2 : Nat) (o1 o2 hit : Bool) :
    let v := if 4 ≤ ct then !hit else hit
    combine ct p1 p2 o1 o2 hit =
      if ct = 1 ∨ ct = 5 then [(p1, o1 && v), (p2, o2 && !v)]
      else if ct = 2 ∨ ct = 6 then [(p1, o1 || v), (p2, o2 || !v)]
      else [(p1, v), (p2, !v)] := by
  interval_cases ct <;> simp [combine]

theorem performs_pred {i : Instr} {f : BaseF} (op : Bool → Bool → Bool) (he : ∀ s, exec i s = issue s i (predBody f op)) :
    Performs i fun s c _ l =>
      { preds := [(f.d.toNat % 16, op ((s.lane c.wk l).getP (f.a.toNat % 16) != f.md.getLsbD 7)
                                       ((s.lane c.wk l).getP (f.b.toNat % 16) != f.md.getLsbD 8))] } :=
  performs_alu he fun _ _ _ _ => rfl

end Sys2Proof.Machine

open Sys2Proof Sys2Proof.Machine

/-- Settles O5: the five compares share one body and differ in their condition; the combining types are compared case by case. -/
theorem compareResults : Obligations.CompareResults := by
  unfold Obligations.CompareResults
  exact ⟨⟨fun f s c x h hr => issue_compare h hr f _, fun f s c x h hr => issue_compare h hr f _,
    fun f s c x h hr => issue_compare h hr f _, fun f s c x h hr => issue_compare h hr f _,
    fun f s c x h hr => issue_compare h hr f _⟩, fun ct p1 p2 o1 o2 hit hct => combine_eq hct p1 p2 o1 o2 hit⟩

/-- Settles O6: the instructions of two predicates share one body and differ in their operation; PSET and PGET compute from the lane's own
operands and predicates. -/
theorem predicateResults : Obligations.PredicateResults := by
  unfold Obligations.PredicateResults
  exact ⟨fun f => performs_pred and fun _ => rfl, fun f => performs_pred or fun _ => rfl, fun f => performs_pred xor fun _ => rfl,
    fun f => performs_pred (fun a _ => !a) fun _ => rfl, fun f => performs_pred (fun a _ => a) fun _ => rfl,
    fun f => performs_alu (fun _ => rfl) fun _ _ _ _ => rfl, fun f => performs_alu (fun _ => rfl) fun _ _ _ _ => rfl⟩
end

section
/-! ## Floating-point arithmetic and conversions (R175, R176, R178, R179, R183–R188) -/

namespace Sys2Proof.Machine

/-! ### Instructions that round a result of operands in a format (R176) -/

theorem rounds_fp1 {i : Instr} {f : BaseF} {F : Fmt} {op : FV → Nat × BitVec 7} (he : ∀ s, exec i s = issue s i (fp1 F op f)) :
    Rounds i fun x => op (fIn F f.a x.av) :=
  yields_alu he fun _ _ _ _ => rfl

theorem rounds_fp2 {i : Instr} {f : BaseF} {F : Fmt} {op : FV → FV → Nat × BitVec 7}
    (he : ∀ s, exec i s = issue s i (fp2 F op f)) : Rounds i fun x => op (fIn F f.a x.av) (fIn F f.b x.bv) :=
  yields_alu he fun _ _ _ _ => rfl

theorem rounds_fp3 {i : Instr} {f : BaseF} {F : Fmt} {op : FV → FV → FV → Nat × BitVec 7}
    (he : ∀ s, exec i s = issue s i (fp3 F op f)) :
    Rounds i fun x => op (fIn F f.a x.av) (fIn F f.b x.bv) (fIn F f.c x.cv) :=
  yields_alu he fun _ _ _ _ => rfl

theorem rounds_enc1 {i : Instr} {f : BaseF} {F : Fmt} {op : Nat → Nat × BitVec 7} (he : ∀ s, exec i s = issue s i (enc1 F op f)) :
    Rounds i fun x => op (encIn F f.a x.av) :=
  yields_alu he fun _ _ _ _ => rfl

theorem rounds_enc2 {i : Instr} {f : BaseF} {F : Fmt} {op : Nat → Nat → Nat × BitVec 7}
    (he : ∀ s, exec i s = issue s i (enc2 F op f)) : Rounds i fun x => op (encIn F f.a x.av) (encIn F f.b x.bv) :=
  yields_alu he fun _ _ _ _ => rfl

/-- The two halves of a packed result make up one value, and their flags are ORed (R183). -/
def packHalves (half : Nat → Nat × BitVec 7) : Nat × BitVec 7 :=
  ((half 0).1 + (half 1).1 * 2 ^ 16, (half 0).2 ||| (half 1).2)

theorem rounds_pack2 {i : Instr} {f : BaseF} {op : Fmt → Nat → Nat → Nat × BitVec 7} (he : ∀ s, exec i s = issue s i (pack2 op f)) :
    Rounds i fun x => packHalves fun h => op (tyOf f) (halfIn (tyOf f) f.a x.av h) (halfIn (tyOf f) f.b x.bv h) :=
  yields_alu he fun _ _ _ _ => rfl

theorem rounds_pack3 {i : Instr} {f : BaseF} {op : Fmt → Nat → Nat → Nat → Nat × BitVec 7}
    (he : ∀ s, exec i s = issue s i (pack3 op f)) : Rounds i fun x => packHalves fun h =>
      op (tyOf f) (halfIn (tyOf f) f.a x.av h) (halfIn (tyOf f) f.b x.bv h) (halfIn (tyOf f) f.c x.cv h) :=
  yields_alu he fun _ _ _ _ => rfl

end Sys2Proof.Machine

open Sys2Proof Sys2Proof.Machine

/-- Settles O7: each instruction has the body of its number of operands, read as values or as encodings, around its operation; a packed one has
the operation in both halves. -/
theorem floatResults : Obligations.FloatResults := by
  unfold Obligations.FloatResults
  refine ⟨⟨?fadd, ?fsub, ?fmul, ?ffma, ?fdiv, ?fsqrt, ?frcp, ?frsq, ?fmin, ?fmax, ?dadd, ?dsub, ?dmul, ?dfma, ?ddiv, ?dsqrt, ?dmin, ?dmax⟩,
    fun f => (rounds_pack2 (i := .padd2 f) fun _ => rfl :), fun f => (rounds_pack2 (i := .psub2 f) fun _ => rfl :),
    fun f => (rounds_pack2 (i := .pmul2 f) fun _ => rfl :), fun f => (rounds_pack3 (i := .pfma2 f) fun _ => rfl :),
    fun f => (rounds_pack2 (i := .pmin2 f) fun _ => rfl :), fun f => (rounds_pack2 (i := .pmax2 f) fun _ => rfl :)⟩
  case fsqrt | frcp | frsq | dsqrt => exact fun f => rounds_fp1 fun _ => rfl
  case ffma | dfma => exact fun f => rounds_fp3 fun _ => rfl
  case fsub | dsub => exact fun f => rounds_fp2 (op := fun a b => addF _ _ _ a (negFV b)) fun _ => rfl
  case fmin | fmax | dmin | dmax => exact fun f => rounds_enc2 fun _ => rfl
  all_goals exact fun f => rounds_fp2 fun _ => rfl

/-- Settles O8: the functions of one operand, and CVT's own body, which takes the low bits of its operand for the source's encoding. -/
theorem conversionResults : Obligations.ConversionResults := by
  unfold Obligations.ConversionResults
  exact ⟨fun f => rounds_fp1 fun _ => rfl, fun f => rounds_fp1 fun _ => rfl, fun f => rounds_fp1 fun _ => rfl,
    fun f => rounds_fp1 fun _ => rfl, fun f => rounds_fp1 fun _ => rfl, fun f => yields_alu (fun _ => rfl) fun _ _ _ _ => rfl,
    fun f => rounds_enc1 fun _ => rfl⟩
end

section
/-! ## Minimum and maximum, classes and the sign bit (R179, R180, R182) -/

namespace Sys2Proof.Machine

/-! ### Minimum and maximum (R179) -/

section
variable (F : Fmt) (mx : Bool) {x y : Nat}

/-- Only a signalling NaN raises a flag. -/
theorem minMaxF_flags (x y : Nat) : (minMaxF F mx x y).2 = nvIf ((decodeF F x).isSig || (decodeF F y).isSig) := by
  simp only [minMaxF]
  cases (decodeF F x).isNaN with
  | true => cases (decodeF F y).isNaN <;> rfl
  | false => cases (decodeF F y).isNaN <;> rfl

theorem minMaxF_nan_left (hx : (decodeF F x).isNaN = true) (hy : (decodeF F y).isNaN = false) : (minMaxF F mx x y).1 = y := by
  simp only [minMaxF, hx, hy]

theorem minMaxF_nan_right (hx : (decodeF F x).isNaN = false) (hy : (decodeF F y).isNaN = true) : (minMaxF F mx x y).1 = x := by
  simp only [minMaxF, hx, hy]

theorem minMaxF_nans (hx : (decodeF F x).isNaN = true) (hy : (decodeF F y).isNaN = true) :
    (minMaxF F mx x y).1 = canonNaN F (decodeF F x).neg := by
  simp only [minMaxF, hx, hy]

/-- Of two numbers the first is the lesser if it compares less, or equal as −0 with +0. -/
theorem minMaxF_below (hx : (decodeF F x).isNaN = false) (hy : (decodeF F y).isNaN = false)
    (h : cmpFV (decodeF F x) (decodeF F y) < 0
      ∨ cmpFV (decodeF F x) (decodeF F y) = 0 ∧ (decodeF F x).neg = true ∧ (decodeF F y).neg = false) :
    (minMaxF F mx x y).1 = if mx then y else x := by
  obtain h | ⟨h, hnx, hny⟩ := h
  · cases mx <;> simp [minMaxF, hx, hy, h, h.ne]
  · cases mx <;> simp [minMaxF, hx, hy, h, hnx, hny]

theorem minMaxF_above (hx : (decodeF F x).isNaN = false) (hy : (decodeF F y).isNaN = false)
    (h : 0 < cmpFV (decodeF F x) (decodeF F y)
      ∨ cmpFV (decodeF F x) (decodeF F y) = 0 ∧ (decodeF F x).neg = false ∧ (decodeF F y).neg = true) :
    (minMaxF F mx x y).1 = if mx then x else y := by
  obtain h | ⟨h, hnx, hny⟩ := h
  · cases mx <;> simp [minMaxF, hx, hy, h.ne', not_lt_of_gt h]
  · cases mx <;> simp [minMaxF, hx, hy, h, hnx, hny]

end

/-! ### Classes (R182) -/

theorem classF_onehot (F : Fmt) (x : Nat) : ∃ k < 10, classF F x = 2 ^ k := by
  unfold classF
  cases decodeF F x with
  | inf s => cases s with
    | true => exact ⟨0, by omega, rfl⟩
    | false => exact ⟨7, by omega, rfl⟩
  | nan s g => cases g with
    | true => exact ⟨8, by omega, rfl⟩
    | false => exact ⟨9, by omega, rfl⟩
  | fin s m e =>
    simp only
    split_ifs
    · exact ⟨3, by omega, rfl⟩
    · exact ⟨4, by omega, rfl⟩
    · exact ⟨2, by omega, rfl⟩
    · exact ⟨5, by omega, rfl⟩
    · exact ⟨1, by omega, rfl⟩
    · exact ⟨6, by omega, rfl⟩

/-! ### Reserved modifiers (R175) -/

/-- An MD with RM or SAT other than zero reaches bit 8. -/
theorem md_of_rounding {f : BaseF} (h : rmOf f ≠ 0 ∨ satOf f = true) : 2 ^ 8 ≤ f.md.toNat := by
  obtain hrm | hsat := h
  · rw [rmOf, bits, Nat.shiftRight_eq_div_pow] at hrm
    omega
  · exact Nat.ge_two_pow_of_testBit hsat

/-- An MD above all bits in use is reserved (R124). -/
theorem Sig.reserved_of_mask_lt {g : Sig} (h : g.mask < g.fs.md) : g.reserved = true := by
  have hmd : g.fs.md &&& ~~~g.mask ≠ 0 := fun hzero => by
    have hsub : g.fs.md &&& g.mask = g.fs.md := BitVec.eq_of_getLsbD_eq fun i hi => by
      have hbit := congrArg (·.getLsbD i) hzero
      simpa [hi] using hbit
    have hle : g.fs.md.toNat ≤ g.mask.toNat := by
      rw [← hsub, BitVec.toNat_and]
      exact Nat.and_le_right
    exact absurd h (BitVec.not_lt.2 hle)
  rw [Sig.reserved, bne_iff_ne.2 hmd, Bool.or_true]

/-- An instruction without RM and SAT does not pass the encoding check with one of them. -/
theorem staticCheck_of_rounding {i : Instr} {g : Sig} {f : BaseF} {m : BitVec 12} (hs : sigOf i = some g) (hmd : g.fs.md = f.md)
    (hmask : g.mask = m) (hm : m.toNat < 2 ^ 8) (h : rmOf f ≠ 0 ∨ satOf f = true) : staticCheck i = some 5 := by
  have hlt : g.mask < g.fs.md := by
    rw [hmd, hmask]
    exact BitVec.lt_def.2 (hm.trans_le (md_of_rounding h))
  exact staticCheck_reserved hs (.inl (Sig.reserved_of_mask_lt hlt))

/-! ### The sign bit (R180) -/

/-- Clearing the highest bit leaves the rest of a number. -/
theorem toNat_and_not_twoPow (w x : Nat) : (BitVec.ofNat w x &&& ~~~BitVec.twoPow w (w - 1)).toNat = x % 2 ^ (w - 1) := by
  refine Nat.eq_of_testBit_eq fun i => ?_
  rw [BitVec.testBit_toNat, Nat.testBit_mod_two_pow]
  simp only [BitVec.getLsbD_and, BitVec.getLsbD_not, BitVec.getLsbD_ofNat, BitVec.getLsbD_twoPow]
  grind

/-- A power of two above a number is added by setting its bit. -/
theorem xor_two_pow_of_lt {n y : Nat} (hy : y < 2 ^ n) : y ^^^ 2 ^ n = y + 2 ^ n := by
  refine Nat.eq_of_testBit_eq fun i => ?_
  rw [Nat.testBit_xor, Nat.testBit_two_pow, Nat.add_comm]
  obtain hi | rfl | hi := lt_trichotomy i n
  · rw [Nat.testBit_two_pow_add_gt hi, decide_eq_false hi.ne', Bool.xor_false]
  · rw [Nat.testBit_two_pow_add_eq, decide_eq_true rfl, Bool.xor_true]
  · have hpow : 2 ^ (n + 1) ≤ 2 ^ i := Nat.pow_le_pow_right (by omega) hi
    rw [Nat.testBit_lt_two_pow (by omega : y < 2 ^ i), Nat.testBit_lt_two_pow (by omega : 2 ^ n + y < 2 ^ i),
      decide_eq_false hi.ne, Bool.xor_false]

/-- Inverting the highest bit takes it away or adds it. -/
theorem toNat_xor_twoPow {w x : Nat} (hw : 0 < w) (hx : x < 2 ^ w) : (BitVec.ofNat w x ^^^ BitVec.twoPow w (w - 1)).toNat =
    if 2 ^ (w - 1) ≤ x then x - 2 ^ (w - 1) else x + 2 ^ (w - 1) := by
  have hpow : 2 ^ w = 2 ^ (w - 1) + 2 ^ (w - 1) := (Nat.two_pow_pred_add_two_pow_pred hw).symm
  have htop : 2 ^ (w - 1) < 2 ^ w := Nat.two_pow_pred_lt_two_pow hw
  rw [BitVec.toNat_xor, BitVec.toNat_twoPow, BitVec.toNat_ofNat, Nat.mod_eq_of_lt hx, Nat.mod_eq_of_lt htop]
  split
  case isTrue hle =>
    have hsplit : x = (x - 2 ^ (w - 1)) ^^^ 2 ^ (w - 1) := by rw [xor_two_pow_of_lt (by omega), Nat.sub_add_cancel hle]
    conv_lhs => rw [hsplit]
    rw [Nat.xor_xor_cancel_right]
  case isFalse hlt => exact xor_two_pow_of_lt (Nat.lt_of_not_le hlt)

/-! ### Operands fit in their format (R176) -/

theorem tyFmt_mem (ty : Nat) : tyFmt ty ∈ [fFP16, fBF16, fFP32] := by
  unfold tyFmt
  split_ifs <;> decide

theorem width_pos {F : Fmt} (hF : F ∈ [fFP16, fBF16, fFP32]) : 0 < F.width := by
  revert F
  decide

/-- The encodings of the integers from −8 to 7 are evaluated. -/
theorem smallF_lt {F : Fmt} (hF : F ∈ [fFP16, fBF16, fFP32]) (code : Byte) : smallF F code < 2 ^ F.width := by
  have hsmall : ∀ F ∈ [fFP16, fBF16, fFP32], ∀ n : BitVec 4, (roundI F 0 false (n.signExtend 64).toInt 0 false).1 < 2 ^ F.width := by
    decide
  exact hsmall F hF (BitVec.ofNat 4 code.toNat)

theorem encIn_lt {F : Fmt} (hF : F ∈ [fFP16, fBF16, fFP32]) (code : Byte) (v : Val) : encIn F code v < 2 ^ F.width := by
  unfold encIn
  split
  · exact smallF_lt hF code
  · exact Nat.mod_lt _ (Nat.two_pow_pos _)

end Sys2Proof.Machine

open Sys2Proof Sys2Proof.Machine

/-- Settles O11: the flag is the same in every case; of two numbers that are not alike one is the lesser, by the comparison or by the signs of
two zeros. -/
theorem minMaxRules : Obligations.MinMaxRules := by
  unfold Obligations.MinMaxRules
  intro F mx x y a b r
  exact ⟨minMaxF_flags F mx x y, fun hx hy => minMaxF_nan_left F mx hx hy, fun hx hy => minMaxF_nan_right F mx hx hy,
    fun hx hy => minMaxF_nans F mx hx hy, fun hx hy h => minMaxF_below F mx hx hy (.inl h), fun hx hy h => minMaxF_above F mx hx hy (.inl h),
    fun h hx hy hnx hny => minMaxF_below F mx hx hy (.inr ⟨h, hnx, hny⟩),
    fun h hx hy hnx hny => minMaxF_above F mx hx hy (.inr ⟨h, hnx, hny⟩)⟩

/-- Settles O10: the mask is the model's, class by class. -/
theorem floatClass : Obligations.FloatClass := by
  unfold Obligations.FloatClass
  intro mask
  have hmask : ∀ F x, mask F x = classF F x := fun F x => by
    unfold mask classF
    cases decodeF F x with
    | inf s => cases s <;> rfl
    | nan s g => cases g <;> rfl
    | fin s m e => rfl
  simp only [hmask]
  exact ⟨classF_onehot, fun f => yields_alu (fun _ => rfl) fun _ _ _ _ => rfl, fun f => yields_alu (fun _ => rfl) fun _ _ _ _ => rfl,
    fun f h => ⟨staticCheck_of_rounding (m := 0x003) rfl rfl rfl (by decide) h,
      staticCheck_of_rounding (m := 0x000) rfl rfl rfl (by decide) h⟩⟩

/-- Settles O9: on an encoding of the format's width, taking the rest of the number clears the highest bit, and taking away or adding the
highest bit inverts it. -/
theorem signBitOnly : Obligations.SignBitOnly := by
  unfold Obligations.SignBitOnly
  intro f w sign src
  have hF : tyOf f ∈ [fFP16, fBF16, fFP32] := tyFmt_mem _
  have habs : ∀ x, (absEnc (tyOf f) (encIn (tyOf f) f.a x.av)).1 = (src x &&& ~~~sign).toNat := fun x =>
    (toNat_and_not_twoPow _ _).symm
  have hneg : ∀ x, (negEnc (tyOf f) (encIn (tyOf f) f.a x.av)).1 = (src x ^^^ sign).toNat := fun x =>
    (toNat_xor_twoPow (width_pos hF) (encIn_lt hF f.a x.av)).symm
  simp only [← habs, ← hneg]
  exact ⟨rounds_enc1 (op := absEnc _) fun _ => rfl, rounds_enc1 (op := negEnc _) fun _ => rfl,
    fun h => ⟨staticCheck_of_rounding (m := 0x003) rfl rfl rfl (by decide) h,
      staticCheck_of_rounding (m := 0x003) rfl rfl rfl (by decide) h⟩⟩
end

section
/-! ## Calls, returns, unwinding and exit; entering a frame (R197–R202, R210–R212, R403) -/

namespace Sys2Proof.Machine

/-! ### The lanes of a call (R210) -/

/-- What the lanes of a call have come to: the state, the lanes with a fault, those with a target, and whether a lane waits. -/
abbrev CallAcc : Type := State × List (Nat × LaneFault) × Tab Pc × Bool

/-- What one lane of CALL or CALLX adds. -/
def callStep (demand : Nat) (target : State → Ctx → Nat → Srcs → LaneAcc Pc) (c : Ctx) (acc : CallAcc) (e : Nat × Except LaneFault Srcs) :
    CallAcc :=
  match e.2 with
  | .error f => (acc.1, acc.2.1 ++ [(e.1, f)], acc.2.2.1, acc.2.2.2)
  | .ok x =>
    if (acc.1.teamOf c.wk).gfmax < demand then
      (acc.1, acc.2.1 ++ [(e.1, operandFault opDEMAND (BitVec.ofNat 64 demand))], acc.2.2.1, acc.2.2.2)
    else
      match target acc.1 c e.1 x with
      | (s1, none) => (s1, acc.2.1, acc.2.2.1, true)
      | (s1, some (.error f)) => (s1, acc.2.1 ++ [(e.1, f)], acc.2.2.1, acc.2.2.2)
      | (s1, some (.ok t)) => (s1, acc.2.1, acc.2.2.1 ++ [(e.1, t)], acc.2.2.2)

section
variable {demand : Nat} {target : State → Ctx → Nat → Srcs → LaneAcc Pc} {c : Ctx} {x : Nat → Srcs}

theorem callBody_eq {s : State} {xs : List (Nat × Except LaneFault Srcs)} (h : readLanes s c c.lanes = .ok xs) :
    callBody demand target s c =
      let r := xs.foldl (callStep demand target c) (s, [], [], false)
      if r.2.2.2 then (r.1, [])
      else (requestCall r.1 c demand r.2.2.1,
        r.2.1.map (fun e => (e.1, .fault e.2)) ++ r.2.2.1.map fun e => (e.1, .ok { next := .left })) := by
  simp only [callBody, h]
  rfl

/-- Lanes that each reach a target in their turn. -/
theorem foldl_callStep_targets {t : Nat → Pc} : ∀ (ls : List Nat) (σ : Nat → State) (ts : Tab Pc),
    (∀ k l, ls[k]? = some l → demand ≤ ((σ k).teamOf c.wk).gfmax ∧ target (σ k) c l (x l) = (σ (k + 1), some (.ok (t l)))) →
    (ls.map fun l => (l, .ok (x l))).foldl (callStep demand target c) (σ 0, [], ts, false)
      = (σ ls.length, [], ts ++ ls.map fun l => (l, t l), false)
  | [], σ, ts, _ => by simp
  | l :: ls, σ, ts, h => by
    obtain ⟨hd, ht⟩ := h 0 l rfl
    have hstep : callStep demand target c (σ 0, [], ts, false) (l, .ok (x l)) = (σ 1, [], ts ++ [(l, t l)], false) := by
      simp only [callStep, if_neg (Nat.not_lt.2 hd), ht]
    rw [List.map_cons, List.foldl_cons, hstep, foldl_callStep_targets ls (fun k => σ (k + 1)) _ fun k m hk => h (k + 1) m hk]
    simp

/-- Lanes that ask for more than GFMAX. -/
theorem foldl_callStep_demand {s : State} (hd : (s.teamOf c.wk).gfmax < demand) : ∀ (ls : List Nat) (fs : List (Nat × LaneFault)),
    (ls.map fun l => (l, .ok (x l))).foldl (callStep demand target c) (s, fs, [], false)
      = (s, fs ++ ls.map fun l => (l, operandFault opDEMAND (BitVec.ofNat 64 demand)), [], false)
  | [], fs => by simp
  | l :: ls, fs => by
    have hstep : callStep demand target c (s, fs, [], false) (l, .ok (x l))
        = (s, fs ++ [(l, operandFault opDEMAND (BitVec.ofNat 64 demand))], [], false) := if_pos hd
    rw [List.map_cons, List.foldl_cons, hstep, foldl_callStep_demand hd ls]
    simp

/-- A call whose lanes all reach a target ends with one request for all of them. -/
theorem issue_call {s : State} {i : Instr} {σ : Nat → State} {t : Nat → Pc} (h : Issues s i c) (hr : Reads s c x)
    (hσ : Turns c s σ fun l a b => demand ≤ (a.teamOf c.wk).gfmax ∧ target a c l (x l) = (b, some (.ok (t l)))) :
    issue s i (callBody demand target) =
      .next (Ended (requestCall (σ c.active.length) c demand (c.active.map fun l => (l, t l))) i c fun _ => { next := .left }) := by
  refine issue_ended h ?_
  have hfold := foldl_callStep_targets c.active σ [] hσ.2
  rw [hσ.1, List.nil_append] at hfold
  simp only [callBody_eq (hr.lanes h), hfold, Bool.false_eq_true, if_false, List.map_nil, List.nil_append, List.map_map]
  rfl

/-- A call that asks for more than GFMAX faults in every lane. -/
theorem issue_call_demand {s : State} {i : Instr} (h : Issues s i c) (hr : Reads s c x) (hd : (s.teamOf c.wk).gfmax < demand) :
    issue s i (callBody demand target) = .next (finish s i c (c.active.map fun l =>
      (l, .fault (operandFault opDEMAND (BitVec.ofNat 64 demand))))).wake := by
  refine issue_ends h (r := fun _ => .fault (operandFault opDEMAND (BitVec.ofNat 64 demand))) ?_
  simp only [callBody_eq (hr.lanes h), foldl_callStep_demand hd, Bool.false_eq_true, if_false, List.nil_append, List.map_nil, List.append_nil,
    List.map_map]
  rfl

end

/-! ### Exit (R403) -/

theorem exitLane_st (s : State) {wk l : Nat} : ((exitLane s wk l).lane wk l).st = .exited := by
  unfold exitLane
  dsimp only
  split
  · assumption
  · rw [State.lane_modLane_self]

/-! ### Requests (R201, R202) -/

theorem mem_lanesOf_maskOf {ls : List Nat} (h : ∀ l ∈ ls, l < 32) {l : Nat} : l ∈ lanesOf (maskOf ls) ↔ l ∈ ls := by
  have hbit : l < 32 → ((maskOf ls).getLsbD l = true ↔ l ∈ ls) := fun hl => by
    have hm : (maskOf ls).getLsbD l = ((0#32).getLsbD l || decide (l ∈ ls)) := getLsbD_foldl_mask l hl ls 0 h
    rw [hm, BitVec.getLsbD_zero, Bool.false_or, decide_eq_true_iff]
  rw [mem_lanesOf]
  exact ⟨fun ⟨hl, hm⟩ => (hbit hl).1 hm, fun hm => ⟨h l hm, (hbit (h l hm)).2 hm⟩⟩

theorem tget_of_mem {α : Type} {t : Tab α} (h : t.Pairwise fun a b => a.1 < b.1) {e : Nat × α} (he : e ∈ t) (d : α) : tget t e.1 d = e.2 := by
  induction t with
  | nil => simp at he
  | cons x r ih =>
    obtain ⟨hx, hr⟩ := List.pairwise_cons.1 h
    rcases List.mem_cons.1 he with rfl | he
    · simp [tget, tfind]
    · have hne : x.1 ≠ e.1 := Nat.ne_of_lt (hx e he)
      have := ih hr he
      rw [tget] at this ⊢
      simpa [tfind, hne] using this

theorem State.freeFid_congr {a b : State} (h : a.frames = b.frames) (pk : Nat) : a.freeFid pk = b.freeFid pk := by
  simp only [State.freeFid, State.resFrames, h]

/-- The lanes of a call leave their bundle and wait at its instruction. -/
def callWaiting (s : State) (c : Ctx) (m : BitVec 32) : State :=
  (lanesOf m).foldl (fun st l => st.modLane c.wk l fun ln => { ln with pc := c.b.hdr, cix := c.b.idx, st := .blocked .frame }) s

theorem callWaiting_frames (s : State) (c : Ctx) (m : BitVec 32) : (callWaiting s c m).frames = s.frames := foldl_modLane_frames ..

theorem callWaiting_frame (s : State) (c : Ctx) (m : BitVec 32) (k : Nat) : (callWaiting s c m).frame k = s.frame k := by
  rw [State.frame, callWaiting_frames, State.frame]

theorem callWaiting_parts (s : State) (c : Ctx) (m : BitVec 32) : (callWaiting s c m).parts = s.parts := foldl_modLane_parts ..

theorem callWaiting_uid (s : State) (c : Ctx) (m : BitVec 32) : (callWaiting s c m).uid = s.uid :=
  foldl_unobserved _ State.uid s fun _ _ _ => rfl

/-- Lanes of a mask that are changed one after another are each changed once. -/
theorem lane_foldl_mask (s : State) {wk l : Nat} {m : BitVec 32} (g : Nat → Lane → Lane) (hl : l ∈ lanesOf m) :
    ((lanesOf m).foldl (fun st l => st.modLane wk l (g l)) s).lane wk l = g l (s.lane wk l) := by
  rw [lane_foldl_each (g := g) (fun st l => st.lane_modLane_self wk l _)
    (fun st l k hl hk h => st.lane_modLane_other _ hl hk (.inr h)) (mem_lanesOf.1 hl).1 s ((lanesOf_sorted m).imp Nat.ne_of_lt)
    fun k hk => (mem_lanesOf.1 hk).1, if_pos hl]

theorem lane_callWaiting (s : State) {c : Ctx} {m : BitVec 32} {l : Nat} (hl : l ∈ lanesOf m) :
    (callWaiting s c m).lane c.wk l = { s.lane c.wk l with pc := c.b.hdr, cix := c.b.idx, st := .blocked .frame } :=
  lane_foldl_mask s (fun _ ln => { ln with pc := c.b.hdr, cix := c.b.idx, st := .blocked .frame }) hl

/-- The frame that lanes enter (R197, R198, R210). -/
theorem enterFrame_frame (s : State) (r : FReq) (d : Nat) (rpc : Pc) (k : Nat) (ts : Tab Pc) : (enterFrame s r d rpc k ts).frame s.uid =
    { wk := r.wk, demand := d, depth := ((s.frame k).depth + 1) % 2 ^ 32, rpc := rpc, caller := some k, lset := r.lanes, rem := r.lanes
      loc := .resident (s.freeFid (wkPk r.wk)), regs := [], ptags := [], listed := none } := by
  unfold enterFrame State.frame
  dsimp only
  rw [foldl_modLane_frames, tget_tset_self]

/-- A lane that enters a frame stands at its target and keeps its queue and its registers. -/
theorem lane_enterFrame (s : State) {r : FReq} (d : Nat) (rpc : Pc) (k : Nat) (ts : Tab Pc) {l : Nat} (hl : l ∈ lanesOf r.lanes) :
    (enterFrame s r d rpc k ts).lane r.wk l =
      { s.lane r.wk l with frame := s.uid, pc := tget ts l (s.lane r.wk l).pc, cix := 0, st := .run } :=
  lane_foldl_mask _ (fun l ln => { ln with frame := s.uid, pc := tget ts l ln.pc, cix := 0, st := .run }) hl

section
variable {s : State} {c : Ctx} {demand l0 : Nat} {pc : Pc} {ts : List (Nat × Pc)}

/-- The lanes that call. -/
def callMask (ts : Tab Pc) : BitVec 32 := maskOf (ts.map (·.1))

/-- Where a frame that the bundle calls returns to: the dword after the clause. -/
def callReturn (c : Ctx) : Pc := c.b.hdr.add (8 + 8 * c.b.words.length)

/-- The request of lanes with targets, of which `l0` is the first (R201). -/
def callReq (s : State) (c : Ctx) (demand l0 : Nat) (ts : Tab Pc) : FReq :=
  mkReq s c (callMask ts) (.call demand (callReturn c) (s.lane c.wk l0).frame ts)

/-- The frame that the lanes of a call enter (R197, R198, R210). -/
def calledFrame (s : State) (c : Ctx) (demand l0 : Nat) (ts : Tab Pc) : Frame :=
  { wk := c.wk, demand := demand, depth := ((s.frame (s.lane c.wk l0).frame).depth + 1) % 2 ^ 32, rpc := callReturn c
    caller := some (s.lane c.wk l0).frame, lset := callMask ts, rem := callMask ts, loc := .resident (s.freeFid (wkPk c.wk))
    regs := [], ptags := [], listed := none }

theorem requestCall_granted (h0 : (s.part (wkPk c.wk)).reqs = []) (hg : granules demand ≤ s.freeGran (wkPk c.wk)) :
    requestCall s c demand ((l0, pc) :: ts) = enterFrame (callWaiting s c (callMask ((l0, pc) :: ts)))
      (callReq s c demand l0 ((l0, pc) :: ts)) demand (callReturn c) (s.lane c.wk l0).frame ((l0, pc) :: ts) :=
  if_pos (by simp [h0, hg])

/-- A call that is granted at once makes the frame, under the next name. -/
theorem requestCall_granted_frame (h0 : (s.part (wkPk c.wk)).reqs = []) (hg : granules demand ≤ s.freeGran (wkPk c.wk)) :
    (requestCall s c demand ((l0, pc) :: ts)).frame s.uid = calledFrame s c demand l0 ((l0, pc) :: ts) := by
  rw [requestCall_granted h0 hg, ← callWaiting_uid s c (callMask ((l0, pc) :: ts)), enterFrame_frame, callWaiting_frame,
    State.freeFid_congr (callWaiting_frames ..)]
  rfl

/-- Its lanes run at their targets. -/
theorem requestCall_granted_lane (h0 : (s.part (wkPk c.wk)).reqs = []) (hg : granules demand ≤ s.freeGran (wkPk c.wk)) {l : Nat}
    (hl : l ∈ lanesOf (callMask ((l0, pc) :: ts))) : (requestCall s c demand ((l0, pc) :: ts)).lane c.wk l =
      { s.lane c.wk l with frame := s.uid, pc := tget ((l0, pc) :: ts) l c.b.hdr, cix := 0, st := .run } := by
  refine (congrArg (State.lane · c.wk l) (requestCall_granted h0 hg)).trans ((lane_enterFrame _ _ _ _ _ hl).trans ?_)
  rw [callWaiting_uid, show (callReq s c demand l0 ((l0, pc) :: ts)).wk = c.wk from rfl, lane_callWaiting s hl]

/-- Any other call stands last in the partition's queue, and its lanes wait. -/
theorem requestCall_queued (h : (s.part (wkPk c.wk)).reqs ≠ [] ∨ s.freeGran (wkPk c.wk) < granules demand) :
    requestCall s c demand ((l0, pc) :: ts) = (callWaiting s c (callMask ((l0, pc) :: ts))).modPart (wkPk c.wk) fun p =>
      { p with reqs := p.reqs ++ [callReq s c demand l0 ((l0, pc) :: ts)] } :=
  if_neg fun hb => by
    rw [Bool.and_eq_true, List.isEmpty_iff, decide_eq_true_eq] at hb
    exact h.elim (absurd hb.1) (Nat.not_lt.2 hb.2)

end

end Sys2Proof.Machine

open Sys2Proof Sys2Proof.Machine

/-- Settles O34: CALL and CALLX by the fold over their lanes' targets, RET, UNWIND and BRX lane after lane; a request that is granted
at once enters the frame that `enterFrame` makes, another one stands last in the queue. -/
theorem callResults : Obligations.CallResults := by
  unfold Obligations.CallResults
  refine ⟨?_, fun s c demand l0 pc ts => ?_⟩
  · intro jump left
    refine ⟨fun f s c x h hr h0 h1 hd => ?_, fun f s c x h hr hd => issue_call_demand h hr hd, fun f s c x σ t h hr hσ => issue_call h hr hσ,
      fun f s c x σ t h hr hσ => ?_, fun f s c x σ h hr hσ => ?_, fun f s c x h hr hroot => ?_, fun f s c x σ h hr h0 h1 hσ => ?_,
      fun f s c h => ?_, fun s wk l _ => exitLane_st s⟩
    · exact issue_call h hr (σ := fun _ => s) ⟨rfl, fun _ _ _ => ⟨hd, by rw [jumpTarget_inside h0 h1]; rfl⟩⟩
    · exact seq_ended h hr hσ fun l a b hR => by rw [hR]; rfl
    · refine seq_ended h hr hσ fun l a b hR => ?_
      obtain ⟨k, hk, rfl⟩ := hR
      simp only [State.frameOf] at hk ⊢
      rw [hk]
    · refine issue_seq_still h hr fun l hl => ?_
      have hk := hroot l hl
      rw [State.frameOf] at hk
      dsimp only
      rw [hk]
      rfl
    · refine seq_ended h hr hσ fun l a b hR => ?_
      obtain ⟨hn, s1, k, hleave, rfl⟩ := hR
      simp only [if_neg (Nat.not_lt.2 hn), jumpTarget_inside h0 h1, hleave]
      rfl
    · change execExit f s = _
      refine issue_ended h ?_
      rw [h.lanes]
      rfl
  · intro all pk hsorted h32 t
    have hlane : ∀ e ∈ all, e.1 ∈ lanesOf (callMask all) := fun e he =>
      (mem_lanesOf_maskOf fun l hl => by obtain ⟨e, he, rfl⟩ := List.mem_map.1 hl; exact h32 e he).2 (List.mem_map_of_mem he)
    refine ⟨fun h0 hg => ?_, fun hq => ⟨⟨callReq s c demand l0 all, ?_, rfl, rfl⟩, fun e he => ?_⟩⟩
    · have hframe : t.frame s.uid = calledFrame s c demand l0 all := requestCall_granted_frame h0 hg
      simp only [hframe]
      refine ⟨rfl, rfl, rfl, rfl, rfl, rfl, rfl, rfl, fun _ _ => ⟨rfl, rfl⟩, fun e he => ?_⟩
      have hl := requestCall_granted_lane h0 hg (hlane e he)
      rw [tget_of_mem hsorted he] at hl
      exact hl ▸ ⟨rfl, rfl, rfl, rfl, rfl, rfl⟩
    · have ht : t.part pk = _ := (congrArg (State.part · pk) (requestCall_queued hq)).trans (State.part_modPart_self ..)
      rw [ht, State.part, callWaiting_parts]
      rfl
    · have hl : t.lane c.wk e.1 = _ := (congrArg (State.lane · c.wk e.1) (requestCall_queued hq)).trans (lane_callWaiting s (hlane e he))
      exact hl ▸ ⟨rfl, rfl⟩
end

section
/-! ## Releases, refilled lanes and the round trip of a spill record (R199, R202, R208) -/

namespace Sys2Proof.Machine

/-! ### Folds of which one step sets what is observed -/

/-- A fold of which the steps at `a` set an observation, and the others leave it alone, ends with what is set. -/
theorem foldl_sets {σ α β : Type} (f : σ → α → σ) (obs : σ → β) {a : α} {v : β} : ∀ {es : List α} (s : σ), a ∈ es →
    (∀ st, obs (f st a) = v) → (∀ st, ∀ x ∈ es, x ≠ a → obs (f st x) = obs st) → obs (es.foldl f s) = v
  | x :: es, s, ha, hset, hkeep => by
    have hrest : ∀ st, ∀ y ∈ es, y ≠ a → obs (f st y) = obs st := fun st y hy => hkeep st y (List.mem_cons_of_mem x hy)
    by_cases hmem : a ∈ es
    · exact foldl_sets f obs (f s x) hmem hset hrest
    · obtain rfl : a = x := (List.mem_cons.1 ha).resolve_right hmem
      exact (foldl_unobserved f obs _ fun st y hy => hrest st y hy fun h => hmem (h ▸ hy)).trans (hset s)

/-! ### Releases and refilled lanes (R199, R202) -/

theorem lanes_tryRelease (s : State) (fk : Nat) : (tryRelease s fk).lanes = s.lanes := by
  have hrec : ∀ f, (dropRecord s f).lanes = s.lanes := fun f => by unfold dropRecord; split <;> rfl
  have hdoffer : ∀ (t : State) f, (dropDoffer t fk f).lanes = t.lanes := fun t f => by
    unfold dropDoffer
    dsimp only
    split
    · split <;> rfl
    · split <;> rfl
    · rfl
  unfold tryRelease
  dsimp only
  split
  · exact (hdoffer _ _).trans (hrec _)
  · rfl

/-- A release changes no lane. -/
theorem frameRelease_lanes {fk : Nat} {s t : State} (h : exec (.frameRelease fk) s = .next t) : t.lanes = s.lanes := by
  change execFrameRelease fk s = _ at h
  obtain rfl := Host.Outcome.next.inj h
  split
  · exact lanes_tryRelease s fk
  · exact lanes_tryRelease s fk

/-- A lane whose frame has come back runs if it waited for it. -/
def refilledLane (ln : Lane) : Lane := if ln.st = .blocked .frame then { ln with st := .run, ret := none } else ln

theorem enterRefilled_lane (s : State) (r : FReq) {l : Nat} (hl : l ∈ lanesOf r.lanes) :
    (enterRefilled s r).lane r.wk l = refilledLane (s.lane r.wk l) := by
  refine (lane_foldl_each (g := fun _ => refilledLane) (fun st k => ?_) (fun st k m hk hm h => ?_) (mem_lanesOf.1 hl).1 s
    ((lanesOf_sorted r.lanes).imp Nat.ne_of_lt) fun k hk => (mem_lanesOf.1 hk).1).trans (if_pos hl)
  · unfold refilledLane
    split
    · exact st.lane_modLane_self ..
    · rfl
  · split
    · exact st.lane_modLane_other _ hk hm (.inr h)
    · rfl

/-! ### The doffer (R203, R204, R207, R208, R398) -/

section
variable {s : State} {pk : Nat} {r : FReq} {rest : List FReq} {fk : Nat} {f : Frame} {sl : PoolSlot}
  (hreqs : (s.part pk).reqs = r :: rest) (hshort : s.freeGran pk < reqGran s r) (hphase : (s.teamOf r.wk).phase ≠ .saving)
  (hpick : pickSpill s pk = some (fk, f))

/-- The doffer stays awake: the head is not covered, and no save of its team waits. -/
theorem doffer_awake (hshort : s.freeGran pk < reqGran s r) (hphase : (s.teamOf r.wk).phase ≠ .saving) :
    ¬ ((reqGran s r ≤ s.freeGran pk || (s.teamOf r.wk).phase == .saving) = true) := by
  rw [Bool.or_eq_true, decide_eq_true_eq, beq_iff_eq]
  exact fun h => h.elim (Nat.not_le.2 hshort) hphase

include hreqs hshort hphase hpick

/-- A grid without a slot. -/
theorem dofferStep_noSlot (hsl : (s.team (s.warp f.wk).team).spill = none) :
    dofferStep s pk = frameFault (s.modPart pk fun p => { p with awake := false, busy := none }) pk r 0x01 0 := by
  simp only [dofferStep, hreqs, if_neg (doffer_awake hshort hphase), hpick, hsl]

/-- A slot without space for the record. -/
theorem dofferStep_noSpace (hsl : (s.team (s.warp f.wk).team).spill = some sl)
    (hspan : findSpan (s.team (s.warp f.wk).team).recs (recSize f.demand) sl.size = none) :
    dofferStep s pk = frameFault (s.modPart pk fun p => { p with awake := false, busy := none }) pk r 0x02 0 := by
  simp only [dofferStep, hreqs, if_neg (doffer_awake hshort hphase), hpick, hsl, hspan]

/-- A slot with space for the record. -/
theorem dofferStep_spills {off : Nat} (hsl : (s.team (s.warp f.wk).team).spill = some sl)
    (hspan : findSpan (s.team (s.warp f.wk).team).recs (recSize f.demand) sl.size = some off) :
    dofferStep s pk = (s.modPart pk fun p => { p with awake := true, busy := some (.spill fk off) }).modTeam (s.warp f.wk).team fun t =>
      { t with recs := t.recs ++ [(off, recSize f.demand)] } := by
  simp only [dofferStep, hreqs, if_neg (doffer_awake hshort hphase), hpick, hsl, hspan]

end

/-- A spill of a frame that is no longer spillable is given up. -/
theorem spillDone_dropped {core part : Nat} {s : State} {fk off : Nat} (hbusy : (s.part (core * 4 + part)).busy = some (.spill fk off))
    (hsp : spillable s (core * 4 + part) (fk, s.frame fk) = false) : exec (.spillDone core part) s =
      .next (spillDropped (s.unwait (dofferWho s (core * 4 + part)).who) (core * 4 + part) (s.warp (s.frame fk).wk).team off).wake := by
  change execSpillDone core part s = _
  simp only [execSpillDone, hbusy, hsp, Bool.not_false, if_true]

/-- A spill whose record is written ends, and the doffer goes on. -/
theorem spillDone_landed {core part : Nat} {s s1 : State} {fk off : Nat} (hbusy : (s.part (core * 4 + part)).busy = some (.spill fk off))
    (hsp : spillable s (core * 4 + part) (fk, s.frame fk) = true)
    (hrun : runAcc s (dofferWho s (core * 4 + part)) (fun st => engineWrite st (dofferWho s (core * 4 + part))
      (s.team (s.warp (s.frame fk).wk).team).realm ((s.team (s.warp (s.frame fk).wk).team).spill.getD ⟨0, 0, 0, 0⟩).obj
      (((s.team (s.warp (s.frame fk).wk).team).spill.getD ⟨0, 0, 0, 0⟩).off + off) (recWords st (s.frame fk))) = (s1, some (.ok (.ok ())))) :
    exec (.spillDone core part) s = .next (dofferStep (relist
      (spillLanded s1 (core * 4 + part) (s.warp (s.frame fk).wk).team fk off) (s.warp (s.frame fk).wk).team fk off) (core * 4 + part)).wake := by
  change execSpillDone core part s = _
  simp only [execSpillDone, hbusy, hsp, Bool.not_true, Bool.false_eq_true, if_false, hrun]
  rfl

/-- A refill from a save area ends with the words that stand there. -/
theorem refillDone_saved {core part : Nat} {s : State} {r : FReq} {fk area off : Nat}
    (hbusy : (s.part (core * 4 + part)).busy = some (.refill r (.saved area off))) (hk : r.kind = .refill fk) :
    exec (.refillDone core part) s = .next (refillEnd s (core * 4 + part) fk r (.saved area off)
      (localWords s (((s.teamOf r.wk).saves.getD area ⟨0, 0⟩).base + off) (recSize (s.frame fk).demand / 8))).wake := by
  change execRefillDone core part s = _
  simp only [execRefillDone, hbusy, hk]

/-- A refill from the slot ends with the words that were read. -/
theorem refillDone_spilled {core part : Nat} {s s1 : State} {r : FReq} {fk off : Nat} {ws : List Val}
    (hbusy : (s.part (core * 4 + part)).busy = some (.refill r (.spilled off))) (hk : r.kind = .refill fk)
    (hrun : runAcc s (dofferWho s (core * 4 + part)) (fun st => engineRead st (dofferWho s (core * 4 + part)).core (s.teamOf r.wk).realm
      ((s.teamOf r.wk).spill.getD ⟨0, 0, 0, 0⟩).obj (((s.teamOf r.wk).spill.getD ⟨0, 0, 0, 0⟩).off + off) (recSize (s.frame fk).demand / 8))
        = (s1, some (.ok (.ok ws)))) :
    exec (.refillDone core part) s = .next (refillEnd s1 (core * 4 + part) fk r (.spilled off) ws).wake := by
  change execRefillDone core part s = _
  simp only [execRefillDone, hbusy, hk, hrun]

/-! ### The words of a record (R208) -/

/-- What a record holds for a register: its value, or 0 beyond the demand. -/
def recVal (f : Frame) (n l : Nat) : Nat := if n < f.demand then (f.reg n l).val.toNat else 0

/-- Word `k` of a record's fault map. -/
def recMapWord (f : Frame) (k : Nat) : Val := Val.int (BitVec.ofNat 64 (faultMap f (2 * k) + faultMap f (2 * k + 1) * 2 ^ 32))

/-- Word `16 * n + m` of a record's data: registers f`n` of the lanes `2 * m` and `2 * m + 1`, and the tag that stands there. -/
def recDataWord (f : Frame) (n m : Nat) : Val :=
  ⟨BitVec.ofNat 64 (recVal f n (2 * m) + recVal f n (2 * m + 1) * 2 ^ 32), f.ptag (n / 2 * 2) (16 * (n % 2) + m)⟩

/-- Rows of `k` entries one after another, as one row. -/
theorem flatMap_range_rows {α : Type} (k : Nat) (g : Nat → Nat → α) : ∀ n,
    (List.range n).flatMap (fun i => (List.range k).map (g i)) = (List.range (n * k)).map fun j => g (j / k) (j % k)
  | 0 => by simp
  | n + 1 => by
    rw [List.range_succ, List.flatMap_append, flatMap_range_rows k g n, Nat.succ_mul, List.range_add, List.map_append, List.flatMap_cons,
      List.flatMap_nil, List.append_nil, List.map_map]
    refine congrArg _ (List.map_congr_left fun m hm => ?_)
    have hm := List.mem_range.1 hm
    have hdiv : (n * k + m) / k = n := by rw [Nat.mul_comm, Nat.mul_add_div (by omega), Nat.div_eq_of_lt hm, Nat.add_zero]
    have hmod : (n * k + m) % k = m := by rw [Nat.mul_comm, Nat.mul_add_mod, Nat.mod_eq_of_lt hm]
    rw [Function.comp_apply, hdiv, hmod]

theorem recWords_eq (s : State) (f : Frame) : recWords s f = (recHeader s f).map Val.int
    ++ ((List.range (mapSize f.demand / 8)).map (recMapWord f)
      ++ (List.range (granules f.demand * 8 * 16)).map fun j => recDataWord f (j / 16) (j % 16)) := by
  rw [← flatMap_range_rows 16 (recDataWord f), ← List.append_assoc]
  rfl

theorem mapSize_words (d : Nat) : mapSize d / 8 = (d + 15) / 16 * 8 := by unfold mapSize; omega

theorem recWords_length (s : State) (f : Frame) : (recWords s f).length * 8 = recSize f.demand := by
  rw [recWords_eq, recSize, mapSize_words]
  simp only [List.length_append, List.length_map, List.length_range, show (recHeader s f).length = 8 from rfl, mapSize]
  omega

/-- Where the data of a record begin, in words. -/
def recBase (d : Nat) : Nat := (64 + mapSize d) / 8

theorem recBase_eq (d : Nat) : recBase d = 8 + (d + 15) / 16 * 8 := by unfold recBase mapSize; omega

theorem recWords_map (s : State) (f : Frame) {k : Nat} (hk : 2 * k < f.demand) : (recWords s f).getD (8 + k) Val.zero = recMapWord f k := by
  have hlt : k < mapSize f.demand / 8 := by rw [mapSize_words]; omega
  rw [recWords_eq, List.getD_append_right _ _ _ _ (by simp [recHeader]), List.getD_append _ _ _ _ (by simpa [recHeader] using hlt)]
  simp [recHeader, hlt]

theorem recWords_data (s : State) (f : Frame) {n m : Nat} (hn : n < granules f.demand * 8) (hm : m < 16) :
    (recWords s f).getD (recBase f.demand + 16 * n + m) Val.zero = recDataWord f n m := by
  have hidx : recBase f.demand + 16 * n + m - 8 - mapSize f.demand / 8 = 16 * n + m := by rw [recBase_eq, mapSize_words]; omega
  have hge : mapSize f.demand / 8 ≤ recBase f.demand + 16 * n + m - 8 := by rw [recBase_eq, mapSize_words]; omega
  rw [recWords_eq, List.getD_append_right _ _ _ _ (by simp [recHeader, recBase_eq]; omega), List.getD_append_right _ _ _ _ (by simpa [recHeader])]
  simp only [List.length_map, List.length_range, show (recHeader s f).length = 8 from rfl, hidx]
  have hlt : 16 * n + m < granules f.demand * 8 * 16 := by omega
  have hdiv : (16 * n + m) / 16 = n := by omega
  have hmod : (16 * n + m) % 16 = m := by omega
  simp [hlt, hdiv, hmod]

/-! ### What a record brings back (R208) -/

/-- One half of a word of a record: the low one for an even number. -/
def recHalf (ws : List Val) (i k : Nat) : BitVec 32 := (ws.getD i Val.zero).bits.extractLsb' (32 * (k % 2)) 32

/-- A word of two halves gives them back. -/
theorem extract_half {a b : Nat} (ha : a < 2 ^ 32) (k : Nat) :
    (BitVec.ofNat 64 (a + b * 2 ^ 32)).extractLsb' (32 * (k % 2)) 32 = BitVec.ofNat 32 (if k % 2 = 0 then a else b) := by
  apply BitVec.eq_of_toNat_eq
  rw [BitVec.extractLsb'_toNat, BitVec.toNat_ofNat, BitVec.toNat_ofNat, Nat.shiftRight_eq_div_pow]
  obtain hk | hk := Nat.mod_two_eq_zero_or_one k
  · rw [hk, if_pos rfl, Nat.mul_zero, Nat.pow_zero, Nat.div_one]; omega
  · rw [hk, if_neg Nat.one_ne_zero, Nat.mul_one]; omega

/-- The fault map has a bit for each lane whose register is FAULTED. -/
theorem faultMap_bits (f : Frame) (n : Nat) :
    faultMap f n < 2 ^ 32 ∧ ∀ l < 32, (faultMap f n).testBit l = (n < f.demand && (f.reg n l).st == .faulted) := by
  have h := testBit_foldl_pow (fun l => n < f.demand && (f.reg n l).st == .faulted) 32
  rw [← List.foldl_filter] at h
  exact h

/-- Restore one register, and the tag of its pair with the even register of the two. -/
def restoreReg (d : Nat) (ws : List Val) (n : Nat) (g : Frame) (l : Nat) : Frame :=
  let g1 := g.setReg n l ⟨recHalf ws (recBase d + 16 * n + l / 2) l, if (recHalf ws (8 + n / 2) n).getLsbD l then .faulted else .full⟩
  if n % 2 = 0 then g1.setPtag n l (ws.getD (recBase d + 16 * (n + l / 16) + l % 16) Val.zero).tag else g1

theorem recRestore_eq (f : Frame) (ws : List Val) : recRestore f ws =
    (upto f.demand).foldl (fun g n => (upto 32).foldl (restoreReg f.demand ws n) g) { f with regs := [], ptags := [] } := rfl

theorem reg_restoreReg (d : Nat) (ws : List Val) (n : Nat) (g : Frame) (l m k : Nat) : (restoreReg d ws n g l).reg m k =
    if n * 32 + l = m * 32 + k then
      ⟨recHalf ws (recBase d + 16 * n + l / 2) l, if (recHalf ws (8 + n / 2) n).getLsbD l then .faulted else .full⟩
    else g.reg m k := by
  unfold restoreReg
  dsimp only
  split
  · rw [Frame.reg_setPtag, Frame.reg_setReg]
  · rw [Frame.reg_setReg]

theorem ptag_restoreReg (d : Nat) (ws : List Val) (n : Nat) (g : Frame) (l m k : Nat) : (restoreReg d ws n g l).ptag m k =
    if n % 2 = 0 ∧ n / 2 * 32 + l = m / 2 * 32 + k then (ws.getD (recBase d + 16 * (n + l / 16) + l % 16) Val.zero).tag else g.ptag m k := by
  unfold restoreReg
  dsimp only
  by_cases hn : n % 2 = 0
  · rw [if_pos hn, Frame.ptag_setPtag, Frame.ptag_setReg]
    simp only [hn, true_and]
  · rw [if_neg hn, Frame.ptag_setReg, if_neg fun h => hn h.1]

/-- What is observed of a restored frame is what the register restored in row `n` and lane `l` sets, where the others leave it alone. -/
theorem recRestore_sets {β : Type} (obs : Frame → β) {f : Frame} {ws : List Val} {n l : Nat} {v : β} (hn : n < f.demand) (hl : l < 32)
    (hset : ∀ g, obs (restoreReg f.demand ws n g l) = v)
    (hkeep : ∀ g, ∀ m < f.demand, ∀ k < 32, m ≠ n ∨ k ≠ l → obs (restoreReg f.demand ws m g k) = obs g) : obs (recRestore f ws) = v := by
  rw [recRestore_eq]
  refine foldl_sets _ obs _ (List.mem_range.2 hn) (fun g => ?_) fun g m hm hne => ?_
  · exact foldl_sets _ obs g (List.mem_range.2 hl) hset fun st k hk hne => hkeep st n hn k (List.mem_range.1 hk) (.inr hne)
  · exact foldl_unobserved _ obs g fun st k hk => hkeep st m (List.mem_range.1 hm) k (List.mem_range.1 hk) (.inl hne)

theorem reg_recRestore (f : Frame) (ws : List Val) {n l : Nat} (hn : n < f.demand) (hl : l < 32) : (recRestore f ws).reg n l =
    ⟨recHalf ws (recBase f.demand + 16 * n + l / 2) l, if (recHalf ws (8 + n / 2) n).getLsbD l then .faulted else .full⟩ :=
  recRestore_sets (Frame.reg · n l) hn hl (fun g => by rw [reg_restoreReg, if_pos rfl]) fun g m _ k hk hne => by
    rw [reg_restoreReg, if_neg (by omega)]

theorem ptag_recRestore (f : Frame) (ws : List Val) {n l : Nat} (hn : n < f.demand) (he : n % 2 = 0) (hl : l < 32) :
    (recRestore f ws).ptag n l = (ws.getD (recBase f.demand + 16 * (n + l / 16) + l % 16) Val.zero).tag :=
  recRestore_sets (Frame.ptag · n l) hn hl (fun g => by rw [ptag_restoreReg, if_pos ⟨he, rfl⟩]) fun g m _ k hk hne => by
    rw [ptag_restoreReg, if_neg (by omega)]

/-! ### The round trip of a record (R208) -/

theorem recVal_lt (f : Frame) (n l : Nat) : recVal f n l < 2 ^ 32 := by
  unfold recVal
  split
  · exact (f.reg n l).val.isLt
  · decide

/-- The data of a record hold each register's value. -/
theorem recHalf_data (s : State) (f : Frame) {n l : Nat} (hn : n < f.demand) (hl : l < 32) :
    recHalf (recWords s f) (recBase f.demand + 16 * n + l / 2) l = (f.reg n l).val := by
  rw [recHalf, recWords_data s f (by unfold granules; omega) (by omega), recDataWord, extract_half (recVal_lt ..)]
  have hlane : (if l % 2 = 0 then recVal f n (2 * (l / 2)) else recVal f n (2 * (l / 2) + 1)) = recVal f n l := by
    split <;> exact congrArg (recVal f n) (by omega)
  rw [hlane, recVal, if_pos hn, BitVec.ofNat_toNat, BitVec.setWidth_eq]

/-- The fault map of a record says which registers are FAULTED. -/
theorem recHalf_map (s : State) (f : Frame) {n l : Nat} (hn : n < f.demand) (hl : l < 32) :
    (recHalf (recWords s f) (8 + n / 2) n).getLsbD l = ((f.reg n l).st == .faulted) := by
  have hrow : (if n % 2 = 0 then faultMap f (2 * (n / 2)) else faultMap f (2 * (n / 2) + 1)) = faultMap f n := by
    split <;> exact congrArg (faultMap f) (by omega)
  rw [recHalf, recWords_map s f (by omega), recMapWord, Val.int, extract_half (faultMap_bits ..).1, hrow, BitVec.getLsbD_ofNat,
    (faultMap_bits f n).2 l hl]
  simp [hl, hn]

/-- A record brings back every register that is not EMPTY. -/
theorem reg_roundTrip (s : State) {f g : Frame} (hd : g.demand = f.demand) {n l : Nat} (hn : n < f.demand) (hl : l < 32)
    (he : (f.reg n l).st ≠ .empty) : (recRestore g (recWords s f)).reg n l = f.reg n l := by
  rw [reg_recRestore g _ (hd ▸ hn) hl, hd, recHalf_data s f hn hl, recHalf_map s f hn hl]
  rcases hr : f.reg n l with ⟨v, st⟩
  rw [hr] at he
  cases st with
  | full => rfl
  | empty => exact absurd rfl he
  | faulted => rfl

/-- A record brings back every tag. -/
theorem ptag_roundTrip (s : State) {f g : Frame} (hd : g.demand = f.demand) {n l : Nat} (hn : n < f.demand) (he : n % 2 = 0) (hl : l < 32) :
    (recRestore g (recWords s f)).ptag n l = f.ptag n l := by
  rw [ptag_recRestore g _ (hd ▸ hn) he hl, hd, recWords_data s f (by unfold granules; omega) (by omega), recDataWord]
  exact congrArg₂ f.ptag (by omega) (by omega)

end Sys2Proof.Machine

open Sys2Proof Sys2Proof.Machine

/-- Settles O35: each engine by the branch that its hypotheses name; a record by the words that the restored registers come from. -/
theorem frameEngines : Obligations.FrameEngines := by
  unfold Obligations.FrameEngines
  refine ⟨⟨fun core part s h => ?_, fun core part s h => ?_, fun s pk r rest fk f hreqs hshort hphase hpick => ?_,
    fun _ _ _ _ _ => spillDone_dropped, fun _ _ _ _ _ _ => spillDone_landed, fun _ _ _ _ _ _ _ => refillDone_saved,
    fun _ _ _ _ _ _ _ _ => refillDone_spilled, fun fk s h1 h2 h3 => ?_, fun s r l hl hm hb => ?_⟩,
    fun s f g hd _ he => ⟨recWords_length s f, fun n hn l hl => reg_roundTrip s hd hn hl (he n hn l hl),
      fun n hn h2 l hl => ptag_roundTrip s hd hn h2 hl⟩⟩
  · change execFrameGrant core part s = _
    rw [execFrameGrant, if_pos h]
  · change execDofferWake core part s = _
    rw [execDofferWake, if_pos h]
  · refine ⟨dofferStep_noSlot hreqs hshort hphase hpick, fun sl hsl => ⟨dofferStep_noSpace hreqs hshort hphase hpick hsl, fun off hspan => ?_⟩⟩
    rw [dofferStep_spills hreqs hshort hphase hpick hsl hspan]
    simp
  · obtain ⟨t, ht, hgone, hother⟩ := frameRelease_goes h1 h2 h3
    exact ⟨t, ht, hgone, frameRelease_lanes ht, hother⟩
  · rw [enterRefilled_lane s r (mem_lanesOf.2 ⟨hl, hm⟩), refilledLane, if_pos hb]
end

section
/-! ## References in registers and in memory (R9, R233–R235, R241, R308) -/

namespace Sys2Proof.Machine

/-! ### The parts of a reference (R9) -/

theorem refOf_objOf (w : Word) (o : Nat) : refOf (objOf w) o = w.extractLsb' 40 24 ++ BitVec.ofNat 40 o := by
  rw [refOf, objOf, BitVec.ofNat_toNat, BitVec.setWidth_eq]

theorem ofNat_objOf (w : Word) : BitVec.ofNat 64 (objOf w) = (w.extractLsb' 40 24).zeroExtend 64 := BitVec.ofNat_toNat ..

theorem ofNat_offOf (w : Word) : BitVec.ofNat 64 (offOf w) = (w.extractLsb' 0 40).zeroExtend 64 := BitVec.ofNat_toNat ..

theorem ofNat_b2n (b : Bool) : BitVec.ofNat 64 (b2n b) = (BitVec.ofBool b).zeroExtend 64 := by cases b <;> rfl

theorem isRef_iff {v : Val} : isRef v = true ↔ v.tag = true ∧ objOf v.bits ≠ 0 := by simp [isRef]

theorem isRef_eq_false {v : Val} : isRef v = false ↔ v.tag = false ∨ objOf v.bits = 0 := by
  cases ht : v.tag <;> simp [isRef, ht]

/-! ### A reference moved (R235) -/

/-- The offset to which REFADD moves its reference: an integer of any size. -/
def movedOff (x : Srcs) : Int := offOf x.av.bits + x.bv.bits.toInt

/-- The outcome of REFADD in a lane. -/
def refaddOut (x : Srcs) : LaneOut :=
  if !x.av.tag then .fault (operandFault opUNTAGGED x.av.bits)
  else if movedOff x < 0 ∨ 2 ^ 40 ≤ movedOff x then .fault (operandFault opOFFSET (BitVec.ofInt 64 (movedOff x)))
  else resV ⟨refOf (objOf x.av.bits) (movedOff x).toNat, true⟩

theorem exec_refadd (f : BaseF) (s : State) : exec (.refadd f) s = issue s (.refadd f) (aluBody fun _ _ _ x => refaddOut x) := rfl

section
variable {x : Srcs}

theorem refaddOut_untagged (h : x.av.tag = false) : refaddOut x = .fault { cause := .operand, sub := 7, opv := x.av.bits } := by
  rw [refaddOut, h]; rfl

theorem refaddOut_outside (h : x.av.tag = true) (ho : movedOff x < 0 ∨ 2 ^ 40 ≤ movedOff x) :
    refaddOut x = .fault { cause := .operand, sub := 8, opv := BitVec.ofInt 64 (movedOff x) } := by
  rw [refaddOut, h]
  exact if_pos ho

theorem refaddOut_inside (h : x.av.tag = true) (hlo : 0 ≤ movedOff x) (hhi : movedOff x < 2 ^ 40) :
    refaddOut x = .ok (.value ⟨x.av.bits.extractLsb' 40 24 ++ BitVec.ofInt 40 (movedOff x), true⟩) := by
  have hnat : BitVec.ofInt 40 (movedOff x) = BitVec.ofNat 40 (movedOff x).toNat := by
    rw [← BitVec.ofInt_natCast, Int.toNat_of_nonneg hlo]
  have hin : ¬ (movedOff x < 0 ∨ 2 ^ 40 ≤ movedOff x) := by omega
  rw [hnat, ← refOf_objOf, refaddOut, h]
  exact if_neg hin

end

/-- An instruction that computes each lane's outcome from its operands ends, with a fault in some lanes or in none. -/
theorem issue_outcomes {s : State} {i : Instr} {c : Ctx} {x : Nat → Srcs} (h : Issues s i c) (hr : Reads s c x)
    (f : State → Ctx → Nat → Srcs → LaneOut) :
    issue s i (aluBody f) = .next (finish s i c (c.active.map fun l => (l, f s c l (x l)))).wake := by
  refine issue_ends h ?_
  simp only [aluBody, hr.lanes h, List.map_map]
  rfl

/-! ### Accesses whose value may itself be a fault -/

/-- A lane whose access is performed, and whose act gives a value and no fault, gives the outcome of its value. -/
theorem laneOut_flatAcc_acts {a b : State} {wk l : Nat} {ref : Val} {off : Int} {size : Nat} {rights : List Nat} {align last : Nat} {α : Type}
    {act : State → Who → Place → Acc (Tried (Except LaneFault α))} {v : α}
    (h : Acts a b wk l ref off size rights align last act (.ok v)) (k : State → α → State × LaneOut) :
    laneOut (flatAcc (laneTry a wk l ref off size rights align last act)) k = ((k b v).1, some (k b v).2) := by
  rw [laneTry_acts h]; rfl

/-! ### STREF under the visibility rule (R234, R308) -/

/-- The store of STREF once the tests have let it through. -/
def strefPut (wk l scope : Nat) (rel : Bool) (v : Val) (h : Who) (p : Place) (s : State) : Acc (Tried (Except LaneFault Unit)) :=
  (storeAct wk l scope rel (bytesLE 8 v.bits.toNat) v.tag s h p).bind fun s1 r =>
    .ok s1 (r.map fun x => x.map fun u => (Except.ok u : Except LaneFault Unit))

/-- The state in which STREF has handed the walk of its value to the walker (R308). -/
def strefWalking (wk l : Nat) (v : Val) (h : Who) (p : Place) (s : State) : State :=
  (s.addWalk h.core (mkWalk s wk l p.top.vis .stref [(objOf v.bits, l)])).escape (s.warp wk).team

theorem walks_strefWalking (wk l : Nat) (v : Val) (h : Who) (p : Place) (s : State) :
    ((strefWalking wk l v h p s).core h.core).walks = (s.core h.core).walks ++ [mkWalk s wk l p.top.vis .stref [(objOf v.bits, l)]] := by
  have hcore : (strefWalking wk l v h p s).core h.core
      = (s.addWalk h.core (mkWalk s wk l p.top.vis .stref [(objOf v.bits, l)])).core h.core := rfl
  rw [hcore, State.addWalk, State.core_modCore_self]
  rfl

section
variable {s s1 : State} {wk l scope : Nat} {rel : Bool} {v : Val} {bad : Cause → Byte → LaneFault} {h : Who} {p : Place} {e : OcEntry}

/-- With no walk of the lane under way, a plain value is stored like any store. -/
theorem strefAct_plain (hw : laneWalk s wk l = none) (hv : isRef v = false) :
    strefAct wk l scope rel v bad s h p = strefPut wk l scope rel v h p s := by
  simp only [strefAct, hw, hv, Bool.not_false, if_true]
  rfl

/-- A reference whose target the team cannot see raises ESCAPE with the sub-cause of the test. -/
theorem strefAct_unseen {sub : Byte} (hw : laneWalk s wk l = none) (hv : isRef v = true)
    (ht : targetFor s h.core (s.teamOf wk) p (objOf v.bits) = .ok s1 (some (some sub, e))) :
    strefAct wk l scope rel v bad s h p = .ok s1 (some (.ok (.error (bad .escape sub)))) := by
  simp only [strefAct, hw, hv, ht, Acc.bind_ok, Bool.not_true, Bool.false_eq_true, if_false]

section
variable (hw : laneWalk s wk l = none) (hv : isRef v = true)
  (ht : targetFor s h.core (s.teamOf wk) p (objOf v.bits) = .ok s1 (some (none, e)))
include hw hv ht

/-- A target that the team sees is tested against its container. -/
theorem strefAct_seen : strefAct wk l scope rel v bad s h p =
    if !narrower p e then strefPut wk l scope rel v h p s1
    else if !(s1.teamOf wk).imp then .ok s1 (some (.ok (.error (bad .escape escSTORE))))
    else .ok (strefWalking wk l v h p s1) none := by
  simp only [strefAct, hw, hv, ht, Acc.bind_ok, Bool.not_true, Bool.false_eq_true, if_false]
  rfl

theorem strefAct_wide (hn : p.pub = true → p.top.vis ≤ e.vis) :
    strefAct wk l scope rel v bad s h p = strefPut wk l scope rel v h p s1 := by
  have hwide : narrower p e = false := by
    cases hp : p.pub
    · simp [narrower, hp]
    · simpa [narrower, hp] using hn hp
  rw [strefAct_seen hw hv ht, hwide]
  rfl

variable (hp : p.pub = true) (hn : e.vis < p.top.vis)
include hp hn

theorem strefAct_explicit (hi : (s1.teamOf wk).imp = false) :
    strefAct wk l scope rel v bad s h p = .ok s1 (some (.ok (.error (bad .escape 3)))) := by
  have hnarrow : narrower p e = true := by simpa [narrower, hp] using hn
  rw [strefAct_seen hw hv ht, hnarrow, hi]
  rfl

theorem strefAct_implicit (hi : (s1.teamOf wk).imp = true) :
    strefAct wk l scope rel v bad s h p = .ok (strefWalking wk l v h p s1) none := by
  have hnarrow : narrower p e = true := by simpa [narrower, hp] using hn
  rw [strefAct_seen hw hv ht, hnarrow, hi]
  rfl

end
end

end Sys2Proof.Machine

open Sys2Proof Sys2Proof.Machine

/-- Settles O29: each lane's outcome by the tag of A and the range of the new offset; an offset inside 40 bits is the natural number it names. -/
theorem referenceAdd : Obligations.ReferenceAdd := by
  unfold Obligations.ReferenceAdd
  intro o f s c x h hr
  rw [exec_refadd]
  refine ⟨fun hin => issue_alu h hr fun l hl => ?_, fun l => refaddOut (x l), issue_outcomes h hr _, fun l _ =>
    ⟨refaddOut_untagged, refaddOut_outside, refaddOut_inside⟩⟩
  obtain ⟨htag, hlo, hhi⟩ := hin l hl
  exact refaddOut_inside htag hlo hhi

/-- Settles O30: a lane's access that is performed gives LDREF, STREF and RINFO their outcome in the lane's turn; the store of a
reference goes by the branch of the visibility rule that its target takes. -/
theorem referenceResults : Obligations.ReferenceResults := by
  unfold Obligations.ReferenceResults
  refine ⟨⟨?_, ?_, ?_, ?_⟩, ?_⟩
  · intro f s c x σ v h hr hσ
    exact seq_ended h hr hσ fun l a b hact => laneOut_flatAcc_acts hact _
  · intro f s c x σ h hr hσ
    exact seq_ended h hr hσ fun l a b hact => laneOut_flatAcc_acts hact _
  · intro f s c x h hr hlo hhi
    refine issue_seq_still h hr fun l _ => ?_
    obtain hsel | hsel | hsel : bits f.md 2 0 = 3 ∨ bits f.md 2 0 = 4 ∨ bits f.md 2 0 = 5 := by omega
    · simp only [hsel, ofNat_b2n]; rfl
    · simp only [hsel, ofNat_objOf]; rfl
    · simp only [hsel, ofNat_offOf]; rfl
  · intro f s c x σ e h hr hsel hσ
    simp only [List.mem_cons, List.not_mem_nil, or_false, not_or] at hsel
    obtain ⟨h3, h4, h5⟩ := hsel
    refine seq_ended h hr hσ fun l a b hact => ?_
    simp only [h3, h4, h5, if_false]
    exact laneOut_acts hact _
  · intro s wk l scope rel v bad h p hw
    refine ⟨fun hv => strefAct_plain hw (isRef_eq_false.2 hv), fun htag hnum s1 e ht => ?_, fun htag hnum s1 e sub ht =>
      strefAct_unseen hw (isRef_iff.2 ⟨htag, hnum⟩) ht⟩
    have hv : isRef v = true := isRef_iff.2 ⟨htag, hnum⟩
    exact ⟨strefAct_wide hw hv ht, strefAct_explicit hw hv ht, fun hp hn hi =>
      ⟨_, _, strefAct_implicit hw hv ht hp hn hi, walks_strefWalking wk l v h p s1, rfl, rfl, rfl⟩⟩
end

section
/-! ## Objects that a thread makes and frees (R236–R239) -/

namespace Sys2Proof.Machine

/-- The bounds of RDERIVE (R236) on a span that lies inside its object. -/
theorem derive_in_bounds {off b n len : Int} (hb : 0 ≤ b) (hn : 1 ≤ n) (hlen : off + b + n ≤ len) :
    (decide (b < 0) || decide (n < 1) || decide (len < off + b + n)) = false := by
  simp only [Bool.or_eq_false_iff, decide_eq_false_iff_not]
  omega

/-- Only the owner frees an object, and one that is no view only while nobody else sees it (R239). -/
theorem freeLane_refused {wk l : Nat} {ref : Word} {s : State} {h : Who} {p : Place}
    (hown : p.ent.own ≠ (s.teamOf wk).handle ∨ (p.ent.view = false ∧ p.ent.vis ≠ 0)) :
    freeLane wk l ref s h p = .ok s (some (.ok (.error (refFault .memory memFREE ref (offOf ref))))) := by
  have hno : (p.ent.own == (s.teamOf wk).handle && (p.ent.view || p.ent.vis == 0)) = false := by
    obtain hne | ⟨hview, hvis⟩ := hown
    · rw [beq_false_of_ne hne, Bool.false_and]
    · rw [hview, beq_false_of_ne hvis, Bool.false_or, Bool.and_false]
  simp only [freeLane, hno, Bool.not_false, if_true]

end Sys2Proof.Machine

open Sys2Proof Sys2Proof.Machine

/-- Settles O31: each lane's allocation, view or release is performed in the lane's turn; OFREE refuses at its first test. -/
theorem objectResults : Obligations.ObjectResults := by
  unfold Obligations.ObjectResults
  refine ⟨?_, ?_, ?_, fun wk l ref s h p => freeLane_refused⟩
  · intro f s c x σ num h hr hσ
    refine ordered_ended h hr hσ fun l a b hrun => ?_
    simp only [hrun]
    rfl
  · intro f s c x σ num h hr hσ
    refine ordered_ended h hr hσ fun l a b hview => ?_
    obtain ⟨p, hb, hn, hlen, hfail, a1, a2, hcheck, hnum, hput, rfl⟩ := hview
    have hcore : (whoLane a c.wk l).core = wkCore c.wk := rfl
    have hin := derive_in_bounds (off := offOf (x l).av.bits) hb hn hlen
    refine laneOut_flatAcc_acts ⟨hfail, a1, p, _, hcheck, ?_, rfl⟩ _
    simp only [hin, hcore, hnum, Bool.false_eq_true, if_false]
    exact congrArg (Acc.bind · _) hput
  · intro f s c x σ h hr hσ
    refine ordered_ended h hr hσ fun l a b hfree => ?_
    obtain ⟨hfirst, hact⟩ := hfree
    simp only [hfirst]
    exact laneOut_flatAcc_acts hact _
end

section
/-! ## Asynchronous traps, parking and the commands of the supervisor core (R259, R370–R374, R382, R386, R387, R406) -/

namespace Sys2Proof.Machine

/-! ### Asynchronous traps (R259, R370, R371) -/

/-- The warp once an asynchronous fault is taken: it waits no longer, and SHERR is marked when it was the last that SHERR records. -/
def asyncTaken (a : AsyncFault) (w : Warp) : Warp :=
  { w with asyncs := w.asyncs.erase a
           sherr := if a.sherr && !(w.asyncs.erase a).any (·.sherr) then { w.sherr with taken := true } else w.sherr }

/-- An asynchronous trap is taken: it is that of the command lane alone, at the header where the lane stands, and it parks (R259, R370). -/
def asyncTrapped (s : State) (wk : Nat) (a : AsyncFault) : State :=
  takeTrap (s.modWarp wk (asyncTaken a)) wk [a.lane] a.cause a.sub ⟨(s.lane wk a.lane).pc, 0, 0, (s.lane wk a.lane).pc, 0⟩ true false a.lane 0 0
    [(a.lane, { opv := a.opv, eoff := a.eoff })] true

section
variable {s : State} {wk : Nat} {a : AsyncFault}

theorem execAsyncTrap_taken (ha : nextAsync s wk = some a) (hv : (s.warp wk).trec.v = false) (hrun : (s.warp wk).mayRun = true) :
    execAsyncTrap wk s = .next (asyncTrapped s wk a).wake := by
  simp only [execAsyncTrap, ha, hv, hrun, Bool.not_true, Bool.or_self, Bool.false_eq_true, if_false]
  rfl

theorem maskOf_singleton (l : Nat) : maskOf [l] = 1#32 <<< l := BitVec.zero_or

/-- The record names the cause and the lane (R371). -/
theorem asyncTrapped_trec : ∃ r, ((asyncTrapped s wk a).warp wk).trec = r ∧ r.v = true ∧ r.async = true ∧ r.cause = a.cause.code ∧ r.sub = a.sub
    ∧ r.lmask = 1#32 <<< a.lane ∧ r.clane = BitVec.ofNat 5 a.lane := by
  obtain ⟨fid, hrec⟩ := trec_takeTrap (s.modWarp wk (asyncTaken a)) wk [a.lane] a.cause a.sub
    ⟨(s.lane wk a.lane).pc, 0, 0, (s.lane wk a.lane).pc, 0⟩ true false a.lane 0 0 [(a.lane, { opv := a.opv, eoff := a.eoff })] true
  exact ⟨_, hrec, rfl, rfl, rfl, rfl, maskOf_singleton a.lane, rfl⟩

/-- Beside its record the warp starts to park, and the fault waits no longer. -/
theorem asyncTrapped_warp : ((asyncTrapped s wk a).warp wk).parking = true
    ∧ ((asyncTrapped s wk a).warp wk).asyncs = (asyncTaken a (s.warp wk)).asyncs
    ∧ ((asyncTrapped s wk a).warp wk).sherr = (asyncTaken a (s.warp wk)).sherr := by
  simp only [asyncTrapped, takeTrap, if_true, List.foldl_cons, List.foldl_nil, startPark, releaseLatch, writeRecord, State.warp_modWarp_self,
    State.warp_of_modLane, State.warp_of_modCore, and_self]

/-- The lane stops where it stands, which is its resume point (R374). -/
theorem asyncTrapped_lane : (asyncTrapped s wk a).lane wk a.lane =
    { s.lane wk a.lane with rpc := (s.lane wk a.lane).pc, rix := 0, st := .parked false } := by
  simp only [asyncTrapped, takeTrap, if_true, List.foldl_cons, List.foldl_nil, startPark, releaseLatch, writeRecord, State.lane_of_modWarp,
    State.lane_modLane_self, State.lane_of_modCore]
  rfl

theorem asyncTrapped_hbm : (asyncTrapped s wk a).hbm = s.hbm :=
  obs_takeTrap (wk := wk) (obs := State.hbm) (fun _ _ _ => rfl) (fun _ _ => rfl) (fun _ _ _ => rfl) ..

end

/-! ### The core's pending bits (R382) -/

theorem getLsbD_slotBit (wk : Nat) : (1#64 <<< wkSlot wk).getLsbD (wkSlot wk) = true := by
  have hlt : wkSlot wk < 64 := Nat.mod_lt _ (by decide)
  simp [hlt]

/-- A warp is notified: its bit of PEND is set. -/
theorem pend_set (s : State) (wk : Nat) : ((s.modCore (wkCore wk) fun c =>
    { c with page := { c.page with pend := c.page.pend ||| (1#64 <<< wkSlot wk) } }).core (wkCore wk)).page.pend.getLsbD (wkSlot wk) = true := by
  simp only [State.core_modCore_self, BitVec.getLsbD_or, getLsbD_slotBit, Bool.or_true]

/-- A command clears NOTE and the warp's bit of PEND (R386). -/
theorem clearNote_pend (s : State) (wk : Nat) : ((clearNote s wk).core (wkCore wk)).page.pend.getLsbD (wkSlot wk) = false := by
  simp only [clearNote, State.core_modCore_self, BitVec.getLsbD_and, BitVec.getLsbD_not, getLsbD_slotBit, Bool.not_true, Bool.and_false]

theorem clearNote_warp (s : State) (wk : Nat) : (clearNote s wk).warp wk = { s.warp wk with note := false } := by
  simp only [clearNote, State.warp_of_modCore, State.warp_modWarp_self]

theorem clearNote_lane (s : State) (wk k l : Nat) : (clearNote s wk).lane k l = s.lane k l := rfl

/-! ### Lanes that run again -/

/-- What lanes do not hold is unchanged when lanes change one after another. -/
theorem obs_foldl_modLane {α : Type} {wk : Nat} {obs : State → α} (hlane : ∀ st l f, obs (State.modLane st wk l f) = obs st)
    (g : Nat → Lane → Lane) (ls : List Nat) (s : State) : obs (ls.foldl (fun st l => st.modLane wk l (g l)) s) = obs s :=
  foldl_unobserved _ obs s fun st l _ => hlane st l _

/-- The lanes of a warp that satisfy a condition run again where they stand. -/
def runWhere (p : Nat → Lane → Prop) [∀ l ln, Decidable (p l ln)] (s : State) (wk : Nat) : State :=
  (upto 32).foldl (fun st l => if p l (st.lane wk l) then st.modLane wk l fun ln => { ln with st := .run } else st) s

section
variable (p : Nat → Lane → Prop) [∀ l ln, Decidable (p l ln)]

theorem runWhere_lane (s : State) (wk : Nat) {l : Nat} (hl : l < 32) :
    (runWhere p s wk).lane wk l = if p l (s.lane wk l) then { s.lane wk l with st := .run } else s.lane wk l := by
  refine (lane_foldl_each (g := fun k ln => if p k ln then { ln with st := .run } else ln) (fun st k => ?_) (fun st k m hk hm h => ?_) hl s
    List.nodup_range fun k hk => by simpa [upto] using hk).trans (if_pos (by simpa [upto] using hl))
  · split
    · exact st.lane_modLane_self ..
    · rfl
  · split
    · exact st.lane_modLane_other _ hk hm (.inr h)
    · rfl

theorem obs_runWhere {α : Type} {wk : Nat} {obs : State → α} (hlane : ∀ st l f, obs (State.modLane st wk l f) = obs st) (s : State) :
    obs (runWhere p s wk) = obs s :=
  foldl_unobserved _ obs s fun st l _ => by
    split
    · exact hlane ..
    · rfl

end

/-! ### The end of a trap (R370) -/

theorem clearV_eq (s : State) (wk : Nat) :
    clearV s wk = runWhere (fun _ ln => ln.st = .parked true) (s.modWarp wk fun w => { w with trec := { w.trec with v := false } }) wk := by
  simp only [clearV, runWhere]

/-- The end of a trap touches V and lanes alone. -/
theorem obs_settleV {α : Type} {wk : Nat} {obs : State → α} (hlane : ∀ st l f, obs (State.modLane st wk l f) = obs st)
    (hv : ∀ st : State, obs (st.modWarp wk fun w => { w with trec := { w.trec with v := false } }) = obs st) (s : State) :
    obs (settleV s wk) = obs s := by
  unfold settleV
  split
  · rw [clearV_eq]
    exact (obs_runWhere _ hlane _).trans (hv s)
  · rfl

/-- A lane that does not wait for the end of a trap is left alone by it. -/
theorem settleV_lane {s : State} {wk l : Nat} (hl : l < 32) (h : (s.lane wk l).st ≠ .parked true) :
    (settleV s wk).lane wk l = s.lane wk l := by
  unfold settleV
  split
  · exact (clearV_eq s wk ▸ runWhere_lane _ _ wk hl).trans (if_neg h)
  · rfl

/-- V is 0 once no lane of the warp is in a handler or trapped and parked. -/
theorem settleV_v {s : State} {wk : Nat} (h : ∀ l < 32, (s.lane wk l).h = false
    ∧ ¬((s.warp wk).trec.lmask.getLsbD l = true ∧ (s.lane wk l).st = .parked false)) : ((settleV s wk).warp wk).trec.v = false := by
  cases hv : (s.warp wk).trec.v with
  | true => rw [settleV_ends hv h]; exact clearV_v s wk
  | false => rw [settleV, hv, Bool.false_and, if_neg Bool.false_ne_true, hv]

/-! ### Lanes of a parked warp (R386) -/

/-- A commanded warp whose NOTE is clear and whose lanes run that have parked without being trapped. -/
def untrapped (s : State) (wk : Nat) : State :=
  runWhere (fun l ln => (ln.st = .parked false && !(s.warp wk).trec.lmask.getLsbD l) = true) (clearNote s wk) wk

theorem untrapped_warp (s : State) (wk : Nat) : (untrapped s wk).warp wk = { s.warp wk with note := false } :=
  (obs_runWhere _ (obs := fun st => st.warp wk) (fun _ _ _ => rfl) _).trans (clearNote_warp s wk)

theorem untrapped_core (s : State) (wk : Nat) : (untrapped s wk).core = (clearNote s wk).core :=
  obs_runWhere _ (obs := State.core) (fun _ _ _ => rfl) _

theorem mem_trapped {s : State} {wk l : Nat} :
    l ∈ trapped s wk ↔ l < 32 ∧ (s.warp wk).trec.lmask.getLsbD l = true ∧ (s.lane wk l).st = .parked false := by
  simp [trapped, upto]

theorem trapped_nodup (s : State) (wk : Nat) : (trapped s wk).Nodup := List.nodup_range.filter _

theorem untrapped_lane_trapped {s : State} {wk l : Nat} (hl : l < 32) (hm : (s.warp wk).trec.lmask.getLsbD l = true) :
    (untrapped s wk).lane wk l = s.lane wk l :=
  (runWhere_lane _ _ wk hl).trans (if_neg (by simp [hm]))

/-- The lanes that are trapped stay so when the others run. -/
theorem mem_trapped_untrapped {s : State} {wk l : Nat} : l ∈ trapped (untrapped s wk) wk ↔ l ∈ trapped s wk := by
  rw [mem_trapped, mem_trapped, untrapped_warp]
  refine and_congr_right fun hl => and_congr_right fun hm => ?_
  rw [untrapped_lane_trapped hl hm]

/-- A lane that has parked runs again, unless it is trapped. -/
theorem untrapped_lane_runs {s : State} {wk l : Nat} (hl : l < 32) (hp : (s.lane wk l).st = .parked false) (ht : l ∉ trapped s wk) :
    (untrapped s wk).lane wk l = { s.lane wk l with st := .run } :=
  (runWhere_lane _ _ wk hl).trans (if_pos (by
    have hm : (s.warp wk).trec.lmask.getLsbD l = false := Bool.eq_false_iff.2 fun hm => ht (mem_trapped.2 ⟨hl, hm, hp⟩)
    simp only [clearNote_lane, hp, hm, decide_true, Bool.not_false, Bool.and_self]))

/-- A lane outside the trap keeps whether it is in a handler. -/
theorem untrapped_lane_h {s : State} {wk l : Nat} (hl : l < 32) : ((untrapped s wk).lane wk l).h = (s.lane wk l).h := by
  rw [untrapped, runWhere_lane _ _ wk hl]
  split <;> rfl

/-- A change of the trapped lanes, once each. -/
theorem foldl_trapped_lane (s : State) (wk : Nat) (g : Lane → Lane) {l : Nat} (hl : l < 32) :
    ((trapped (untrapped s wk) wk).foldl (fun st l => st.modLane wk l g) (untrapped s wk)).lane wk l =
      if l ∈ trapped s wk then g (s.lane wk l) else (untrapped s wk).lane wk l := by
  rw [lane_foldl_each (g := fun _ => g) (fun st k => st.lane_modLane_self ..) (fun st k m hk hm h => st.lane_modLane_other _ hk hm (.inr h)) hl _
    (trapped_nodup _ wk) (fun k hk => (mem_trapped.1 hk).1)]
  simp only [mem_trapped_untrapped]
  split
  · next hm => rw [untrapped_lane_trapped hl (mem_trapped.1 hm).2.1]
  · rfl

/-! ### RESUME (R386) -/

/-- The trapped lanes of a commanded warp stand at their resume points. -/
def resumedLanes (s : State) (wk : Nat) : State :=
  (trapped (untrapped s wk) wk).foldl (fun st l => resumeLane st wk l) (untrapped s wk)

section
variable {s : State} {wk : Nat}

theorem resumedLanes_lane {l : Nat} (hl : l < 32) : (resumedLanes s wk).lane wk l =
    if l ∈ trapped s wk then { s.lane wk l with pc := (s.lane wk l).rpc, cix := (s.lane wk l).rix.toNat, st := .run }
    else (untrapped s wk).lane wk l :=
  foldl_trapped_lane s wk (fun ln => { ln with pc := ln.rpc, cix := ln.rix.toNat, st := .run }) hl

theorem resumedLanes_warp : (resumedLanes s wk).warp wk = { s.warp wk with note := false } :=
  (obs_foldl_modLane (obs := fun st => st.warp wk) (fun _ _ _ => rfl)
    (fun _ ln => { ln with pc := ln.rpc, cix := ln.rix.toNat, st := .run }) _ _).trans (untrapped_warp s wk)

theorem resumedLanes_core : (resumedLanes s wk).core = (clearNote s wk).core :=
  (obs_foldl_modLane (obs := State.core) (fun _ _ _ => rfl)
    (fun _ ln => { ln with pc := ln.rpc, cix := ln.rix.toNat, st := .run }) _ _).trans (untrapped_core s wk)

/-- A lane that has parked runs, and one that is trapped runs from its resume point. -/
theorem resumedLanes_runs {l : Nat} (hl : l < 32) (hp : (s.lane wk l).st = .parked false) :
    ((resumedLanes s wk).lane wk l).st = .run ∧ ((s.warp wk).trec.lmask.getLsbD l = true →
      ((resumedLanes s wk).lane wk l).pc = (s.lane wk l).rpc ∧ ((resumedLanes s wk).lane wk l).cix = (s.lane wk l).rix.toNat) := by
  rw [resumedLanes_lane hl]
  split
  · exact ⟨rfl, fun _ => ⟨rfl, rfl⟩⟩
  · next ht =>
    rw [untrapped_lane_runs hl hp ht]
    exact ⟨rfl, fun hm => absurd (mem_trapped.2 ⟨hl, hm, hp⟩) ht⟩

theorem resumedLanes_h {l : Nat} (hl : l < 32) : ((resumedLanes s wk).lane wk l).h = (s.lane wk l).h := by
  rw [resumedLanes_lane hl]
  split
  · rfl
  · exact untrapped_lane_h hl

/-- No lane of the trap is left parked. -/
theorem resumedLanes_not_parked {l : Nat} (hl : l < 32) (hm : (s.warp wk).trec.lmask.getLsbD l = true) :
    ((resumedLanes s wk).lane wk l).st ≠ .parked false := by
  rw [resumedLanes_lane hl]
  split
  · exact nofun
  · next ht =>
    rw [untrapped_lane_trapped hl hm]
    exact fun hp => ht (mem_trapped.2 ⟨hl, hm, hp⟩)

theorem trapped_resumedLanes : trapped (resumedLanes s wk) wk = [] := by
  rw [List.eq_nil_iff_forall_not_mem]
  intro l hl
  obtain ⟨h32, hm, hp⟩ := mem_trapped.1 hl
  exact resumedLanes_not_parked h32 (by rwa [resumedLanes_warp] at hm) hp

/-- The warp is no longer parked once its lanes are resumed, and the trap may end. -/
def resumed (s : State) (wk : Nat) : State :=
  (resumedLanes s wk).modWarp wk fun w => { w with parked := false, prun := false, trec := { w.trec with nest := false } }

theorem resumed_warp : (resumed s wk).warp wk =
    { s.warp wk with note := false, parked := false, prun := false, trec := { (s.warp wk).trec with nest := false } } := by
  rw [resumed, State.warp_modWarp_self, resumedLanes_warp]

/-- RESUME of a mask that holds every trapped lane, outside a nested park. -/
theorem resumeCmd_all {mask : BitVec 32} (hc : commandable s wk = true) (hn : (s.warp wk).trec.nest = false)
    (hm : ∀ l ∈ trapped s wk, mask.getLsbD l = true) : resumeCmd s wk mask = (settleV (resumed s wk) wk).wake := by
  have hfold : (trapped (untrapped s wk) wk).foldl (fun st l => if mask.getLsbD l then resumeLane st wk l else st) (untrapped s wk)
      = resumedLanes s wk :=
    List.foldl_ext _ _ _ fun st l hl => if_pos (hm l (mem_trapped_untrapped.1 hl))
  have hempty : (trapped (resumedLanes s wk) wk).isEmpty = true := by rw [trapped_resumedLanes]; rfl
  have hcmd : resumeCmd s wk mask =
      let s3 := (trapped (untrapped s wk) wk).foldl (fun st l => if mask.getLsbD l then resumeLane st wk l else st) (untrapped s wk)
      if (trapped s3 wk).isEmpty then
        (settleV (s3.modWarp wk fun w => { w with parked := false, prun := false, trec := { w.trec with nest := false } }) wk).wake
      else ((s3.modWarp wk fun w => { w with prun := true, note := true }).modCore (wkCore wk) fun c =>
        { c with page := { c.page with pend := c.page.pend ||| (1#64 <<< wkSlot wk) } }).wake := by
    unfold resumeCmd untrapped runWhere
    simp only [hc, hn, Bool.not_true, Bool.false_eq_true, if_false]
  rw [hcmd, hfold]
  exact if_pos hempty

end

/-! ### FORWARD (R386, R387) -/

theorem causeOf_num {n : Nat} (h : n ≤ 10) : (causeOf n).num = n := by
  interval_cases n <;> rfl

/-- The trapped lanes of a commanded warp are at the header of their handler, and the warp is no longer parked. -/
def forwarded (s : State) (wk : Nat) (prv : Bool) : State :=
  (enterHandler (untrapped s wk) wk (trapped (untrapped s wk) wk) (causeOf (s.warp wk).trec.cause.toNat) prv).modWarp wk fun w =>
    { w with parked := false, prun := false }

section
variable {s : State} {wk : Nat} {prv : Bool}

theorem forwardCmd_eq (hc : commandable s wk = true) (hn : (s.warp wk).trec.nest = false) :
    forwardCmd s wk prv = (forwarded s wk prv).wake := by
  unfold forwardCmd
  simp only [hc, hn, Bool.not_true, Bool.or_self, Bool.false_eq_true, if_false]
  rfl

theorem forwarded_lane {l : Nat} (hl : l < 32) : (forwarded s wk prv).lane wk l =
    if l ∈ trapped s wk then { s.lane wk l with h := true, pv := prv, pc := handlerPc (s.warp wk).hbase (causeOf (s.warp wk).trec.cause.toNat),
                                                cix := 0, st := .run }
    else (untrapped s wk).lane wk l := by
  refine (foldl_trapped_lane s wk (fun ln => { ln with h := true, pv := prv
                                                       pc := handlerPc ((untrapped s wk).warp wk).hbase (causeOf (s.warp wk).trec.cause.toNat)
                                                       cix := 0, st := .run }) hl).trans ?_
  rw [untrapped_warp]

theorem forwarded_warp : (forwarded s wk prv).warp wk = { s.warp wk with note := false, parked := false, prun := false } := by
  have hlanes : ∀ (ls : List Nat) c, (enterHandler (untrapped s wk) wk ls c prv).warp wk = _ := fun ls c =>
    (obs_foldl_modLane (obs := fun st => st.warp wk) (fun _ _ _ => rfl) _ ls _).trans (untrapped_warp s wk)
  rw [forwarded, State.warp_modWarp_self, hlanes]

theorem forwarded_core : (forwarded s wk prv).core = (clearNote s wk).core :=
  (obs_foldl_modLane (obs := State.core) (fun _ _ _ => rfl) _ _ _).trans (untrapped_core s wk)

end

/-! ### KILL (R386, R406) -/

/-- A lane of a killed warp exits, whatever it waited for. -/
def killLane (wk : Nat) (st : State) (l : Nat) : State := exitLane (st.unwait (.lane wk l)) wk l

theorem killLane_exited {st : State} {wk k l m : Nat} (hl : l < 32) (hm : m < 32) (h : (st.lane k m).st = .exited) :
    ((killLane wk st l).lane k m).st = .exited := by
  by_cases he : wk = k ∧ l = m
  · obtain ⟨rfl, rfl⟩ := he
    exact exitLane_st _
  · have hne : wk ≠ k ∨ l ≠ m := by tauto
    rw [killLane, lane_exitLane_other _ hl hm hne, State.lane_of_unwait, h]

/-- A lane that has exited stays so while others exit, and each that is named exits. -/
theorem foldl_killLane_exited {wk k m : Nat} (hm : m < 32) : ∀ {ls : List Nat} (st : State), (∀ l ∈ ls, l < 32) →
    (st.lane k m).st = .exited ∨ wk = k ∧ m ∈ ls → ((ls.foldl (killLane wk) st).lane k m).st = .exited
  | [], _, _, h => h.elim id fun h => absurd h.2 (by simp)
  | l :: ls, st, h32, h => by
    have hl := h32 l List.mem_cons_self
    rw [List.foldl_cons]
    refine foldl_killLane_exited hm (killLane wk st l) (fun x hx => h32 x (List.mem_cons_of_mem l hx)) ?_
    rcases h with h | ⟨rfl, h⟩
    · exact .inl (killLane_exited hl hm h)
    · exact (List.mem_cons.1 h).imp (fun h => by rw [h]; exact exitLane_st _) fun h => ⟨rfl, h⟩

/-- A warp of a killed team before its lanes exit: its bundles, its waiting requests and its parking are gone. -/
def killStart (s : State) (wk : Nat) : State :=
  ((clearNote s wk).modWarp wk fun w =>
    { w with path0 := none, path1 := none, parked := false, parking := false, prun := false
             trec := { w.trec with v := false, nest := false } }).modPart (wkPk wk) fun p =>
    { p with reqs := p.reqs.filter fun r => r.wk != wk }

theorem killStart_lane (s : State) (wk k l : Nat) : (killStart s wk).lane k l = s.lane k l := by
  rw [killStart, State.lane_of_modPart, State.lane_of_modWarp, clearNote_lane]

theorem killWarp_eq (s : State) (wk : Nat) : killWarp s wk = (upto 32).foldl (killLane wk) (killStart s wk) := by
  unfold killWarp killLane killStart; rfl

theorem killWarp_exited {s : State} {wk k m : Nat} (hm : m < 32) (h : (s.lane k m).st = .exited ∨ wk = k) :
    ((killWarp s wk).lane k m).st = .exited := by
  have hmem : ∀ {l}, l ∈ upto 32 ↔ l < 32 := List.mem_range
  rw [killWarp_eq]
  rw [← killStart_lane s wk] at h
  exact foldl_killLane_exited hm _ (fun l hl => hmem.1 hl) (h.imp id fun h => ⟨h, hmem.2 hm⟩)

theorem foldl_killWarp_exited {k m : Nat} (hm : m < 32) : ∀ {ws : List Nat} (s : State),
    (s.lane k m).st = .exited ∨ k ∈ ws → ((ws.foldl killWarp s).lane k m).st = .exited
  | [], _, h => h.elim id fun h => absurd h (by simp)
  | w :: ws, s, h => by
    rw [List.foldl_cons]
    refine foldl_killWarp_exited hm (killWarp s w) ?_
    rcases h with h | h
    · exact .inl (killWarp_exited hm (.inl h))
    · exact (List.mem_cons.1 h).imp (fun h => killWarp_exited hm (.inr h.symm)) id

/-- A team that is killed: it counts as killed, and nothing waits at its barrier (R406). -/
def killedTeam (t : Team) : Team :=
  { t with killed := true, barr := [], phase := if t.phase == .saved then .running else t.phase }

/-- A killed team is marked, and none of its lanes is left. -/
theorem killTeam_ends (s : State) (tk : Nat) : ((killTeam s tk).team tk).killed = true
    ∧ ∀ k ∈ s.teamWarps tk, ∀ l < 32, ((killTeam s tk).lane k l).st = .exited := by
  refine ⟨?_, fun k hk l hl => foldl_killWarp_exited hl s (.inr hk)⟩
  have hteam : (killTeam s tk).team tk = killedTeam (((s.teamWarps tk).foldl killWarp s).team tk) :=
    State.team_modTeam_self ((s.teamWarps tk).foldl killWarp s) tk killedTeam
  rw [hteam, killedTeam]

end Sys2Proof.Machine

open Sys2Proof Sys2Proof.Machine

/-- Settles O41: the asynchronous trap is that of one lane that parks; RESUME and FORWARD change each trapped lane once, after the lanes that
only parked run; KILL exits each lane of each warp of the team. -/
theorem trapEvents : Obligations.TrapEvents := by
  unfold Obligations.TrapEvents
  refine ⟨fun s wk a ha hv hrun hl => ?_, fun s wk hp hcl => ?_, fun s wk mask hc hn hm => ?_, fun s wk prv hc hn hcause => ?_, fun s wk hc => ?_⟩
  · refine ⟨_, execAsyncTrap_taken ha hv hrun, ?_⟩
    obtain ⟨r, hrec, hv1, hasync, hcause, hsub, hlm, hcl⟩ := asyncTrapped_trec (s := s) (wk := wk) (a := a)
    obtain ⟨hpark, hasyncs, hsherr⟩ := asyncTrapped_warp (s := s) (wk := wk) (a := a)
    simp only [State.warp_of_wake, State.lane_of_wake, hrec, hv1, hasync, hcause, hsub, hlm, hcl, hpark, hasyncs, hsherr, asyncTrapped_lane,
      State.wake_hbm, asyncTrapped_hbm, true_and, and_true]
    refine ⟨rfl, Nat.mod_eq_of_lt hl, fun h1 h2 => ?_⟩
    simp only [asyncTaken, h1, h2, Bool.not_false, Bool.and_self, if_true]
  · have hexec : execWarpParked wk s = _ := if_neg (by simp [hp, hcl])
    refine ⟨_, hexec, ?_⟩
    simp only [State.warp_of_wake, State.warp_of_modCore, State.warp_modWarp_self, true_and]
    exact ⟨pend_set _ wk, rfl, rfl⟩
  · have hall : ∀ l ∈ trapped s wk, mask.getLsbD l = true := fun l hl => by
      obtain ⟨h32, hb, hp⟩ := mem_trapped.1 hl
      exact hm l h32 hb hp
    refine ⟨_, congrArg Host.Outcome.next (resumeCmd_all hc hn hall), ?_, ?_, ?_, fun l hl hp => ?_, fun hh => ?_⟩
    · exact (obs_settleV (obs := fun st => (st.warp wk).parked) (fun _ _ _ => rfl) (fun st => by rw [State.warp_modWarp_self]) _).trans
        (congrArg Warp.parked resumed_warp)
    · exact (obs_settleV (obs := fun st => (st.warp wk).note) (fun _ _ _ => rfl) (fun st => by rw [State.warp_modWarp_self]) _).trans
        (congrArg Warp.note resumed_warp)
    · have hcore : (settleV (resumed s wk) wk).core = _ :=
        (obs_settleV (obs := State.core) (fun _ _ _ => rfl) (fun _ => rfl) _).trans resumedLanes_core
      simp only [State.core_of_wake, hcore]
      exact clearNote_pend s wk
    · obtain ⟨hst, hplace⟩ := resumedLanes_runs hl hp
      have hlane : (settleV (resumed s wk) wk).lane wk l = (resumedLanes s wk).lane wk l :=
        settleV_lane hl (hst ▸ nofun)
      simp only [State.lane_of_wake, hlane]
      exact ⟨hst, hplace⟩
    · refine settleV_v fun l hl => ⟨(resumedLanes_h hl).trans (hh l hl), fun ⟨hb, hp⟩ => resumedLanes_not_parked hl ?_ hp⟩
      rwa [resumed_warp] at hb
  · refine ⟨_, congrArg Host.Outcome.next (forwardCmd_eq hc hn), congrArg Warp.parked forwarded_warp, congrArg Warp.note forwarded_warp, ?_,
      fun l hl hp => ?_⟩
    · simp only [State.core_of_wake, forwarded_core]
      exact clearNote_pend s wk
    · simp only [State.lane_of_wake, forwarded_lane hl]
      split
      · exact ⟨rfl, fun _ => ⟨rfl, rfl, rfl, by rw [handlerPc, causeOf_num hcause]⟩⟩
      · next ht =>
        rw [untrapped_lane_runs hl hp ht]
        exact ⟨rfl, fun hb => absurd (mem_trapped.2 ⟨hl, hb, hp⟩) ht⟩
  · obtain ⟨hkilled, hexit⟩ := killTeam_ends s (s.warp wk).team
    have hcmd : killCmd s wk = _ := if_neg (by simp [hc])
    exact ⟨_, congrArg Host.Outcome.next hcmd, hkilled, hexit⟩
end

section
/-! ## Layout records and shuttle commands as they issue (R244–R251, R262–R267) -/

namespace Sys2Proof.Machine

/-! ### Elements of a layout record (R246) -/

/-- A number of two digits, the lower of them below its base. -/
theorem radix_lt {i e m n : Nat} (hi : i < e) (hm : m < n) : i + e * m < e * n :=
  calc i + e * m < e + e * m := Nat.add_lt_add_right hi _
    _ = e * (m + 1) := by rw [Nat.mul_succ, Nat.add_comm]
    _ ≤ e * n := Nat.mul_le_mul_left e hm

theorem radix_mod {i e : Nat} (hi : i < e) (m : Nat) : (i + e * m) % e = i := by
  rw [Nat.add_mul_mod_self_left, Nat.mod_eq_of_lt hi]

theorem radix_div {i e : Nat} (hi : i < e) (m : Nat) : (i + e * m) / e = m := by
  rw [Nat.add_mul_div_left i m (Nat.zero_lt_of_lt hi), Nat.div_eq_of_lt hi, Nat.zero_add]

section
variable {l : Layout} {i0 i1 i2 i3 : Nat} (h0 : i0 < l.ext 0) (h1 : i1 < l.ext 1) (h2 : i2 < l.ext 2)
include h0 h1 h2

/-- The number of an element has its indices as digits, the first of them lowest. -/
theorem Layout.idx_digits : let k := i0 + l.ext 0 * (i1 + l.ext 1 * (i2 + l.ext 2 * i3))
    l.idx k 0 = i0 ∧ l.idx k 1 = i1 ∧ l.idx k 2 = i2 ∧ l.idx k 3 = i3 := by
  simp only [Layout.idx, ← Nat.div_div_eq_div_mul, radix_mod h0, radix_div h0, radix_mod h1, radix_div h1, radix_mod h2, radix_div h2,
    and_self]

theorem Layout.digits_lt_count (h3 : i3 < l.ext 3) : i0 + l.ext 0 * (i1 + l.ext 1 * (i2 + l.ext 2 * i3)) < l.count := by
  have h := radix_lt h0 (radix_lt h1 (radix_lt h2 h3))
  simpa only [Layout.count, Nat.mul_assoc] using h

end

/-! ### LYSET (R245) -/

/-- The dwords of an image. -/
def imageDws (img : List Byte) : List Word := (chunks 8 8 img).map fun w => BitVec.ofNat 64 (ofBytes w)

/-- The team's record n becomes the image with a base. -/
def layoutSet (s : State) (c : Ctx) (n : Nat) (b : Val) (img : List Byte) : State :=
  s.modTeam (s.warp c.wk).team fun t => { t with layouts := tput t.layouts n ⟨b, (imageDws img).drop 1⟩ Layout.zero }

theorem setLayout_good (s : State) (c : Ctx) (n : Nat) (b : Val) {img : List Byte} (h : badRecord ((imageDws img).getD 7 0) = false) :
    setLayout s c n b img = (layoutSet s c n b img, allOk c {}) := if_neg (by simpa [imageDws] using h)

theorem setLayout_bad (s : State) (c : Ctx) (n : Nat) (b : Val) {img : List Byte} (h : badRecord ((imageDws img).getD 7 0) = true) :
    setLayout s c n b img = (s, allFault c (operandFault opRECORD ((imageDws img).getD 7 0))) := if_pos (by simpa [imageDws] using h)

section
variable {f : BaseF} {s : State} {c : Ctx} {x : Srcs} (h : Issues s (.lyset f) c) (hx : readAll s c.wk (c.active.headD 0) c.g = .ok x)
include h hx

/-- LYSET ends as its image, read in the scratchpad, lets it. -/
theorem lyset_sp {t : State} {r : Nat → LaneOut} (hsp : f.md.getLsbD 0 = true) (hal : (lo32 x.av.bits).toNat % 64 = 0)
    (hin : (lo32 x.av.bits).toNat + 64 ≤ (s.teamOf c.wk).spSize)
    (hset : setLayout s c (f.d.toNat % 16) x.bv ((s.teamOf c.wk).spRead (lo32 x.av.bits).toNat 64) = (t, c.active.map fun l => (l, r l))) :
    exec (.lyset f) s = .next (finish t (.lyset f) c (c.active.map fun l => (l, r l))).wake := by
  change execLyset f s = _
  refine issue_ends h ?_
  have hread : readAll s c.wk c.lead c.g = .ok x := hx
  simp only [hread, hsp, if_true, if_neg (Nat.not_lt.2 hin), hal, ne_eq, not_true_eq_false, if_false, hset]

/-- LYSET writes its record once its image is read from memory. -/
theorem lyset_mem {a : State} {img : List Byte} (hsp : f.md.getLsbD 0 = false)
    (hact : Acts s a c.wk (c.active.headD 0) x.av (offOf x.av.bits) 64 [rR] 64 9 (imageAct c.wk (c.active.headD 0)) img)
    (hgood : badRecord ((imageDws img).getD 7 0) = false) :
    exec (.lyset f) s = .next (Ended (layoutSet a c (f.d.toNat % 16) x.bv img) (.lyset f) c fun _ => {}) := by
  change execLyset f s = _
  refine issue_ended h ?_
  have hread : readAll s c.wk c.lead c.g = .ok x := hx
  have htry : laneTry s c.wk c.lead x.av (offOf x.av.bits) 64 [rR] 64 9 (imageAct c.wk c.lead) = (a, some (.ok img)) := laneTry_acts hact
  simp only [hread, hsp, Bool.false_eq_true, if_false, htry, setLayout_good a c _ x.bv hgood]
  rfl

end

/-! ### A command passes its checks (R250) -/

section
variable {cmd : ShCmd} {f : ShF} {s s0 s1 : State} {c : Ctx} {la lb : Layout} {x : Srcs} {slot : Nat × Bool} {dsh : Int} {ps : List Place}
  {sps : List (Nat × Nat × List Int)}

/-- Checks 1 and 2: the operands are read, the tiles exist and the slot is one of its ring. -/
theorem shBody_operands (hwide : (cmd == .sfill && ((s.teamOf c.wk).layout f.la.toNat).esz == 8) = true → isC64 f.a.toNat = true)
    (hx : leadSrcs s c (if cmd == .sfill && ((s.teamOf c.wk).layout f.la.toNat).esz == 8 then .r64 else .r32) = .ok x)
    (htile : ∀ n ∈ tileHandles cmd f x, n.toNat < (s.teamOf c.wk).ntiles)
    (hk : f.k = true → slotOf ((s.teamOf c.wk).ringOf f.ci.toNat) (lo32 x.dv.bits) = .ok slot) (hk0 : f.k = false → slot = (0, false))
    (hdst : dstShift cmd f s (wkCore c.wk) (s.teamOf c.wk) ((s.teamOf c.wk).layout f.lb.toNat) = .ok s0 dsh) :
    shBody cmd f s c = shShape cmd f s0 c ((s.teamOf c.wk).layout f.la.toNat) ((s.teamOf c.wk).layout f.lb.toNat) x slot (some dsh) := by
  have hillegal : (cmd == .sfill && ((s.teamOf c.wk).layout f.la.toNat).esz == 8 && !isC64 f.a.toNat) = false :=
    Bool.eq_false_iff.2 fun hb => by
      rw [Bool.and_eq_true, Bool.not_eq_true'] at hb
      exact absurd (hwide hb.1) (Bool.eq_false_iff.1 hb.2)
  have hnone : (tileHandles cmd f x).find? (fun n => decide ((s.teamOf c.wk).ntiles ≤ n.toNat)) = none := by
    rw [List.find?_eq_none]
    exact fun n hn => by simpa using htile n hn
  have hslot : (if f.k = true then slotOf ((s.teamOf c.wk).ringOf f.ci.toNat) (lo32 x.dv.bits) else .ok (0, false)) = .ok slot := by
    split
    · next h => exact hk h
    · next h => rw [hk0 (Bool.eq_false_iff.2 h)]
  unfold shBody
  dsimp only
  rw [hillegal, if_neg Bool.false_ne_true, hx]
  dsimp only
  rw [hnone]
  dsimp only
  rw [hslot]
  dsimp only
  rw [show (whoLane s c.wk c.lead).core = wkCore c.wk from rfl, hdst]

/-- Checks 3 and 4: the shape is allowed, and the sides in scratchpad and tiles fit. -/
theorem shShape_fits (hshape : shapeOk cmd f la lb (lo32 x.bv.bits).toNat (some dsh) = true)
    (hsps : ∀ e ∈ spSides cmd f (s.teamOf c.wk) la lb x, spSideFault e.1 e.2.1 e.2.2 = none) :
    shShape cmd f s c la lb x slot (some dsh) = shCheck cmd f s c la lb x slot (spSides cmd f (s.teamOf c.wk) la lb x) := by
  have hnone : (spSides cmd f (s.teamOf c.wk) la lb x).findSome? (fun e => spSideFault e.1 e.2.1 e.2.2) = none :=
    List.findSome?_eq_none_iff.2 hsps
  unfold shShape
  dsimp only
  rw [hshape, hnone]
  rfl

/-! ### A command enters the queue (R251) -/

/-- The state in which a command enters its queue: an escape is noted, its counter counts it, and BANKCONF the cycles lost to its offsets. -/
def issuing (f : ShF) (s : State) (c : Ctx) (esc : Bool) (sps : List (Nat × Nat × List Int)) : State :=
  let s1 := if esc then s.escape (s.warp c.wk).team else s
  let s2 := if f.cv && !f.k then counterIssue s1 c.wk f.ci.toNat s1.uid else s1
  sps.foldl (fun st e => addConf st c.wk e.2.1 (e.2.2.map Int.toNat)) s2

theorem obs_issuing {α : Type} {obs : State → α} (hteam : ∀ st tk f, obs (State.modTeam st tk f) = obs st)
    (hwarp : ∀ st wk f, obs (State.modWarp st wk f) = obs st) (esc : Bool) : obs (issuing f s c esc sps) = obs s := by
  have hconf : ∀ st wk n os, obs (addConf st wk n os) = obs st := fun st wk n os => by
    unfold addConf
    dsimp only
    split
    · rfl
    · exact hwarp ..
  have hesc : obs (if esc then s.escape (s.warp c.wk).team else s) = obs s := by
    split
    · exact hteam ..
    · rfl
  refine (foldl_unobserved _ obs _ fun st e _ => hconf ..).trans (Eq.trans ?_ hesc)
  split
  · exact hwarp ..
  · rfl

/-- The counter of a command counts one more. -/
theorem issuing_counter (esc : Bool) (hcv : f.cv = true) (hk : f.k = false) :
    ((issuing f s c esc sps).warp c.wk).counter f.ci.toNat = (s.warp c.wk).counter f.ci.toNat + 1 := by
  have hconf : ∀ st n os, ((addConf st c.wk n os).warp c.wk).ctr = (st.warp c.wk).ctr := fun st n os => by
    unfold addConf
    dsimp only
    split
    · rfl
    · rw [State.warp_modWarp_self]
  have hesc : (if esc then s.escape (s.warp c.wk).team else s).warp c.wk = s.warp c.wk := by
    split <;> rfl
  have hctr : ((issuing f s c esc sps).warp c.wk).ctr = _ := foldl_unobserved _ (fun st : State => (st.warp c.wk).ctr) _ fun st e _ => hconf ..
  rw [Warp.counter, hctr, hcv, hk, Bool.not_false, Bool.and_self, if_pos rfl, counterIssue, State.warp_modWarp_self, hesc]
  simp [Warp.counter]

/-- Checks 5 and 6 pass, the queue has room and the counter is free: the command stands last in its queue. -/
theorem shCheck_enters (hrun : runTry s (whoLane s c.wk c.lead) (fun st =>
      (runSides st (sideChecks cmd f (wkCore c.wk) (s.teamOf c.wk) la lb x)).bind fun a o => .ok a (o.map fun r => Except.ok r))
        = (s1, some (.ok (.ok ps))))
    (hroom : (s1.core (wkCore c.wk)).shq.length < 1024) (hfree : f.cv = true → f.k = false → (s1.warp c.wk).counter f.ci.toNat < 31) :
    ∃ esc, let s4 := issuing f s1 c esc sps
      shCheck cmd f s c la lb x slot sps =
        (s4.shEnter (wkCore c.wk) (mkJob cmd f s4 c x la lb slot (jobShifts cmd f ps)), allOk c {}) := by
  have hwait : ¬ (1024 ≤ (s1.core (wkCore c.wk)).shq.length ∨ (f.cv && !f.k && !counterFree s1 c.wk f.ci.toNat) = true) := by
    rintro (hlen | hb)
    · omega
    · simp only [Bool.and_eq_true, Bool.not_eq_true', counterFree, decide_eq_false_iff_not] at hb
      obtain ⟨⟨hcv, hk⟩, hfull⟩ := hb
      exact hfull (hfree hcv hk)
  refine ⟨(ps.zip (sideChecks cmd f (wkCore c.wk) (s.teamOf c.wk) la lb x)).any fun e => e.2.out && e.1.pub, ?_⟩
  unfold shCheck
  dsimp only
  rw [show (whoLane s c.wk c.lead).core = wkCore c.wk from rfl, hrun]
  exact if_neg hwait

end

/-- What an entry of the queue leaves of the state before it. -/
theorem State.shEnter_shq (s : State) (core : Nat) (j : ShJob) : ((s.shEnter core j).core core).shq = (s.core core).shq ++ [j] := by
  rw [State.shEnter, State.core_modCore_self]; rfl

/-! ### The register form of SGATH (R262) -/

section
variable {f : ShF} {c : Ctx} {x : Nat → Srcs} {p : Nat → Place}

/-- The access of a lane's word passes its checks. -/
def SgathPlaced (f : ShF) (c : Ctx) (x : Nat → Srcs) (p : Nat → Place) (l : Nat) (a b : State) : Prop :=
  let la := (a.teamOf c.wk).layout f.la.toNat
  Acts a b c.wk l la.base ((offOf la.base.bits : Int) + (x l).av.bits.toInt * la.stride 0) 8 [rR, rNC] 8 9
    (fun st _ q => .ok st (some (.ok q))) (p l)

theorem sgathPlace_ok {a b : State} {l : Nat} (h : SgathPlaced f c x p l a b) :
    sgathPlace f a c.wk l (x l).av = (b, some (.ok (some (p l)))) := by
  have hacc : laneAccess a c.wk l ((a.teamOf c.wk).layout f.la.toNat).base _ 8 [rR, rNC] 8 9 (fun st _ q => .ok st q) = (b, some (.ok (p l))) :=
    laneTry_acts h
  simp only [sgathPlace, hacc]

/-- Lanes whose words are placed, each in its turn. -/
theorem sgathPlaces_turns : ∀ (ls : List Nat) (σ : Nat → State), (∀ k l, ls[k]? = some l → SgathPlaced f c x p l (σ k) (σ (k + 1))) →
    sgathPlaces f (σ 0) c.wk (ls.map fun l => (l, .ok (x l))) = (σ ls.length, ls.map fun l => (l, .ok (some (p l))), true)
  | [], _, _ => rfl
  | l :: ls, σ, h => by
    have hrest := sgathPlaces_turns ls (fun k => σ (k + 1)) fun k m hk => h (k + 1) m hk
    simp only [List.map_cons, sgathPlaces, sgathPlace_ok (h 0 l rfl), hrest, List.length_cons]

/-- The lanes of SGATH whose word has a place, and those that fault. -/
def placedOf (rs : List (Nat × Except LaneFault (Option Place))) : List (Nat × Option Place) :=
  rs.filterMap fun e => match e.2 with | .ok q => some (e.1, q) | .error _ => none

def unplacedOf (rs : List (Nat × Except LaneFault (Option Place))) : List (Nat × LaneOut) :=
  rs.filterMap fun e => match e.2 with | .ok _ => none | .error x => some (e.1, LaneOut.fault x)

theorem placedOf_map (ls : List Nat) (q : Nat → Option Place) : placedOf (ls.map fun l => (l, .ok (q l))) = ls.map fun l => (l, q l) := by
  rw [placedOf, List.filterMap_map, ← List.filterMap_eq_map]; rfl

theorem unplacedOf_map (ls : List Nat) (q : Nat → Option Place) : unplacedOf (ls.map fun l => (l, .ok (q l))) = [] := by
  rw [unplacedOf, List.filterMap_map]; exact List.filterMap_eq_nil_iff.2 fun _ _ => rfl

/-- What SGATH does once the words of its lanes are placed. -/
def sgathStarts (f : ShF) (c : Ctx) (r : State × List (Nat × Except LaneFault (Option Place)) × Bool) : State × List (Nat × LaneOut) :=
  let good := placedOf r.2.1
  let n := f.d.toNat - 0x40
  if !r.2.2 then (r.1, [])
  else if good.isEmpty then (r.1, unplacedOf r.2.1)
  else if good.any fun e => anyEmpty r.1 c.wk e.1 [n, n + 1] then (r.1, [])
  else if 1024 ≤ (r.1.core (wkCore c.wk)).shq.length ∨ (f.cv && !counterFree r.1 c.wk f.ci.toNat) then (r.1, [])
  else
    let j := mkJob .sgathReg f r.1 c ⟨[], [], [], []⟩ ((r.1.teamOf c.wk).layout f.la.toNat) Layout.zero (0, false) (0, 0)
    let s1 := r.1.shEnter (wkCore c.wk) { j with left := (good.filter (·.2.isSome)).length }
    let s2 := if f.cv then counterIssue s1 c.wk f.ci.toNat r.1.uid else s1
    (good.foldl (fun st e => sgathStart f r.1.uid c.wk c.path st e.1 e.2) s2, unplacedOf r.2.1 ++ good.map fun e => (e.1, done))

theorem execSgath_eq (f : ShF) (s : State) : execSgath f s = issue s (.sgath f) (fun s' c =>
    match readLanes s' c c.lanes with
    | .ok xs => sgathStarts f c (sgathPlaces f s' c.wk xs)
    | _ => (s', [])) := rfl

/-- The command of SGATH's register form, with a word to come for each lane (R262). -/
def sgathJob (f : ShF) (s : State) (c : Ctx) : ShJob :=
  { mkJob .sgathReg f s c ⟨[], [], [], []⟩ ((s.teamOf c.wk).layout f.la.toNat) Layout.zero (0, false) (0, 0) with left := c.active.length }

/-- The state in which the words of an SGATH start: the command stands in the queue, and its counter counts it. -/
def sgathQueued (f : ShF) (s : State) (c : Ctx) : State :=
  let s1 := s.shEnter (wkCore c.wk) (sgathJob f s c)
  if f.cv then counterIssue s1 c.wk f.ci.toNat s.uid else s1

theorem obs_sgathQueued {α : Type} {obs : State → α} (hwarp : ∀ st wk f, obs (State.modWarp st wk f) = obs st) (s : State) :
    obs (sgathQueued f s c) = obs (s.shEnter (wkCore c.wk) (sgathJob f s c)) := by
  unfold sgathQueued
  dsimp only
  split
  · exact hwarp ..
  · rfl

/-- Words that are all placed start once the command stands in its queue. -/
theorem sgathStarts_placed {z : State} (hne : c.active ≠ [])
    (hfull : ∀ l ∈ c.active, anyEmpty z c.wk l [f.d.toNat - 0x40, f.d.toNat - 0x40 + 1] = false)
    (hroom : (z.core (wkCore c.wk)).shq.length < 1024) (hfree : f.cv = true → (z.warp c.wk).counter f.ci.toNat < 31) :
    sgathStarts f c (z, c.active.map fun l => (l, .ok (some (p l))), true) =
      (c.active.foldl (fun st l => sgathStart f (sgathJob f z c).id c.wk c.path st l (some (p l))) (sgathQueued f z c),
        c.active.map fun l => (l, .ok {})) := by
  have hsome : (c.active.map fun l => (l, some (p l))).isEmpty = false := by
    simpa [List.isEmpty_iff] using hne
  have hany : (c.active.map fun l => (l, some (p l))).any (fun e => anyEmpty z c.wk e.1 [f.d.toNat - 0x40, f.d.toNat - 0x40 + 1]) = false := by
    rw [List.any_map, List.any_eq_false]
    exact fun l hl => by simpa using hfull l hl
  have hwait : ¬ (1024 ≤ (z.core (wkCore c.wk)).shq.length ∨ (f.cv && !counterFree z c.wk f.ci.toNat) = true) := by
    rintro (hlen | hb)
    · exact absurd hroom (Nat.not_lt.2 hlen)
    · simp only [Bool.and_eq_true, Bool.not_eq_true', counterFree, decide_eq_false_iff_not] at hb
      exact hb.2 (hfree hb.1)
  have hleft : ((c.active.map fun l => (l, some (p l))).filter fun e => e.2.isSome).length = c.active.length := by
    rw [List.filter_eq_self.2, List.length_map]
    exact fun e he => by obtain ⟨l, _, rfl⟩ := List.mem_map.1 he; rfl
  simp only [sgathStarts, placedOf_map, unplacedOf_map, hsome, hany, hleft, Bool.not_true, Bool.false_eq_true, if_false, if_neg hwait,
    List.nil_append, List.foldl_map, List.map_map]
  rfl

/-- SGATH of lanes whose words are all placed. -/
theorem sgath_enters {s : State} {σ : Nat → State} (h : Issues s (.sgath f) c) (hr : Reads s c x) (hσ : Turns c s σ (SgathPlaced f c x p))
    (hfull : ∀ l ∈ c.active, anyEmpty (σ c.active.length) c.wk l [f.d.toNat - 0x40, f.d.toNat - 0x40 + 1] = false)
    (hroom : ((σ c.active.length).core (wkCore c.wk)).shq.length < 1024)
    (hfree : f.cv = true → ((σ c.active.length).warp c.wk).counter f.ci.toNat < 31) :
    exec (.sgath f) s = .next (Ended (c.active.foldl (fun st l =>
      sgathStart f (sgathJob f (σ c.active.length) c).id c.wk c.path st l (some (p l))) (sgathQueued f (σ c.active.length) c)) (.sgath f) c
        fun _ => {}) := by
  refine (execSgath_eq f s).trans (issue_ended h ?_)
  have hplaces := sgathPlaces_turns c.active σ hσ.2
  rw [hσ.1] at hplaces
  simp only [hr.lanes h, hplaces]
  exact sgathStarts_placed h.nonempty hfull hroom hfree

end

end Sys2Proof.Machine
end

section
/-! ## How shuttle commands end (R252, R256, R258–R260, R265, R267, R302) -/

namespace Sys2Proof.Machine

/-! ### Pages that an SFILL has filled (R32, R256) -/

theorem still_clearPage (h : Who) (s : State) (p : Nat) : (clearPage h s p).still = s.still := by
  have hsettle : ∀ st l, (settleLine h st l).still = st.still := fun st l =>
    foldl_unobserved _ State.still st fun a e _ => by
      have hq := l1Back_quiet a h e
      split
      · next t _ he => rw [he] at hq; exact hq
      · rfl
  have hlines : ((regRange (32 * p) 32).foldl (settleLine h) s).still = s.still :=
    foldl_unobserved _ State.still s fun a l _ => hsettle a l
  unfold clearPage
  dsimp only
  generalize (regRange (32 * p) 32).foldl (settleLine h) s = s1 at hlines ⊢
  split
  · exact hlines
  · exact hlines

/-- Clearing the pages that an SFILL has filled touches no warp. -/
theorem fillPages_warps (s : State) (j : ShJob) : (fillPages s j).warps = s.warps := by
  have hstill : (fillPages s j).still = s.still := foldl_unobserved _ State.still s fun a p _ => still_clearPage (shWho j) a p
  obtain ⟨_, _, _, hwarps, _⟩ := State.still_iff.1 hstill
  exact hwarps

theorem fillPages_none (s : State) {j : ShJob} (h : j.filled = []) : fillPages s j = s := by
  unfold fillPages
  rw [h]
  rfl

/-! ### What the end of a command changes -/

/-- A command's flags are raised, its ring is free and the pages that it has filled are cleared; it has still to report its end (R252). -/
def settled (s : State) (j : ShJob) : State :=
  fillPages (freeRing (if (s.lane j.wk j.lane).st = .exited then s else raise s j.wk j.lane j.flags) j) j

/-- How a command reports its end (R252, R302): its arrival, which may be held for the warp `wix`, or its counter. -/
def reported (wix : Nat) (s : State) (j : ShJob) : State :=
  if j.k then
    if ((s.team j.team).ringOf j.ci).depth ≤ j.slot then dropJob s j
    else if ((s.team j.team).ringOf j.ci).phase j.slot = j.phase then dropJob (s.arrive j.team j.ci j.slot 1) j
    else
      (s.modJob j fun x => { x with stage := .held }).modTeam j.team fun t =>
        { t with held := t.held ++ [⟨j.ci, j.slot, j.phase, wix, some j.id⟩] }
  else if j.cv then counterDone (dropJob s j) j.wk j.ci j.id
  else dropJob s j

theorem finishJob_eq (s : State) (j : ShJob) : finishJob s j = reported (s.warp j.wk).wix (settled s j) j := by
  unfold finishJob reported settled; rfl

section
variable {α : Type} {j : ShJob} {obs : State → α}

theorem obs_freeRing (hcore : ∀ st c f, obs (State.modCore st c f) = obs st) (s : State) : obs (freeRing s j) = obs s := by
  unfold freeRing
  dsimp only
  split
  · rfl
  split
  · exact hcore ..
  · exact (hcore ..).trans (hcore ..)

/-- What cores and lanes do not hold, but for filled pages, is settled as it was. -/
theorem obs_settled (hcore : ∀ st c f, obs (State.modCore st c f) = obs st) (hlane : ∀ st wk l f, obs (State.modLane st wk l f) = obs st)
    (hfill : ∀ st, obs (fillPages st j) = obs st) (s : State) : obs (settled s j) = obs s := by
  refine (hfill _).trans ((obs_freeRing hcore _).trans ?_)
  split
  · rfl
  · unfold raise
    split
    · rfl
    · exact hlane ..

/-- The report of a command's end touches its queue, its team and the counters of its warp. -/
theorem obs_reported (hcore : ∀ st c f, obs (State.modCore st c f) = obs st) (hteam : ∀ st tk f, obs (State.modTeam st tk f) = obs st)
    (hunwait : ∀ st w, obs (State.unwait st w) = obs st)
    (hctr : ∀ st (g : Warp → Tab (List Ticket)), obs (State.modWarp st j.wk fun w => { w with ctr := g w }) = obs st) (wix : Nat) (s : State) :
    obs (reported wix s j) = obs s := by
  have hdrop : ∀ st, obs (dropJob st j) = obs st := fun st => (hunwait _ _).trans (hcore ..)
  unfold reported
  split
  · split
    · exact hdrop _
    split
    · exact (hdrop _).trans (hteam ..)
    · exact (hteam ..).trans (hcore ..)
  split
  · exact (hctr (dropJob s j) fun w => _).trans (hdrop _)
  · exact hdrop _

end

/-- The end of a command leaves its warp's SHERR, and the faults that the warp has still to take. -/
theorem finishJob_warp (s : State) (j : ShJob) : ((finishJob s j).warp j.wk).sherr = (s.warp j.wk).sherr
    ∧ ((finishJob s j).warp j.wk).asyncs = (s.warp j.wk).asyncs := by
  have hwarp : (settled s j).warp j.wk = s.warp j.wk :=
    obs_settled (obs := fun st => st.warp j.wk) (fun _ _ _ => rfl) (fun _ _ _ _ => rfl)
      (fun st => by rw [State.warp, fillPages_warps, State.warp]) s
  have hobs := obs_reported (j := j) (obs := fun st => ((st.warp j.wk).sherr, (st.warp j.wk).asyncs)) (fun _ _ _ => rfl) (fun _ _ _ => rfl)
    (fun _ _ => rfl) (fun st g => by rw [State.warp_modWarp_self]) (s.warp j.wk).wix (settled s j)
  rw [← finishJob_eq, hwarp] at hobs
  exact ⟨congrArg Prod.fst hobs, congrArg Prod.snd hobs⟩

/-- A command that has filled nothing leaves memory alone when it ends. -/
theorem finishJob_hbm (s : State) {j : ShJob} (h : j.filled = []) : (finishJob s j).hbm = s.hbm :=
  (finishJob_eq s j ▸ obs_reported (obs := State.hbm) (fun _ _ _ => rfl) (fun _ _ _ => rfl) (fun _ _ => rfl) (fun _ _ => rfl) _ _).trans
    (obs_settled (obs := State.hbm) (fun _ _ _ => rfl) (fun _ _ _ _ => rfl) (fun st => by rw [fillPages_none st h]) s)

/-! ### SHUTTLE_COMPLETE: the queue and the counter (R150, R252) -/

theorem dropJob_gone (s : State) (j : ShJob) : ∀ x ∈ ((dropJob s j).core j.core).shq, x.id ≠ j.id := by
  have hq : ((dropJob s j).core j.core).shq = ((s.core j.core).shq.filter fun x => x.id != j.id) := by
    rw [dropJob, State.core_of_unwait, State.core_modCore_self]
  rw [hq]
  exact fun x hx => by simpa using (List.mem_filter.1 hx).2

/-- The end of a command on no ring: it leaves its queue and is reported on its counter. -/
theorem finishJob_off_ring (s : State) {j : ShJob} (hk : j.k = false) : finishJob s j =
    if j.cv then counterDone (dropJob (settled s j) j) j.wk j.ci j.id else dropJob (settled s j) j := by
  rw [finishJob_eq, reported, hk, if_neg Bool.false_ne_true]

theorem finishJob_gone (s : State) {j : ShJob} (hk : j.k = false) : ∀ x ∈ ((finishJob s j).core j.core).shq, x.id ≠ j.id := by
  rw [finishJob_off_ring s hk]
  split
  · exact dropJob_gone (settled s j) j
  · exact dropJob_gone (settled s j) j

theorem dropDone_undone : ∀ {ts : List Ticket}, (∀ t ∈ ts, t.done = false) → dropDone ts = ts
  | [], _ => rfl
  | t :: ts, h => by simp [dropDone, h t List.mem_cons_self]

/-- A command at the head of its counter, before others that are not done, leaves it alone when it is done (R150). -/
theorem counterDone_head {s : State} {wk ci id : Nat} {r : List Ticket} (hhead : tget (s.warp wk).ctr ci [] = ⟨id, false⟩ :: r)
    (hrest : ∀ t ∈ r, t.id ≠ id ∧ t.done = false) : ((counterDone s wk ci id).warp wk).counter ci = r.length := by
  have hsame : (r.map fun t => if t.id = id then { t with done := true } else t) = r :=
    (List.map_congr_left fun t ht => if_neg (hrest t ht).1).trans (List.map_id' r)
  simp only [counterDone, State.warp_modWarp_self, Warp.counter, hhead, List.map_cons, if_true, hsame, dropDone,
    dropDone_undone fun t ht => (hrest t ht).2, tget_tput_self]

theorem finishJob_counts (s : State) {j : ShJob} (hk : j.k = false) (hcv : j.cv = true) {r : List Ticket}
    (hhead : tget (s.warp j.wk).ctr j.ci [] = ⟨j.id, false⟩ :: r) (hrest : ∀ t ∈ r, t.id ≠ j.id ∧ t.done = false) :
    ((finishJob s j).warp j.wk).counter j.ci + 1 = (s.warp j.wk).counter j.ci := by
  have hwarp : (dropJob (settled s j) j).warp j.wk = s.warp j.wk :=
    obs_settled (obs := fun st => st.warp j.wk) (fun _ _ _ => rfl) (fun _ _ _ _ => rfl)
      (fun st => by rw [State.warp, fillPages_warps, State.warp]) s
  rw [finishJob_off_ring s hk, if_pos hcv, counterDone_head (hwarp ▸ hhead) hrest, Warp.counter, hhead, List.length_cons]

theorem shuttleComplete_ends {s s1 : State} {id : Nat} {j j1 : ShJob} (hj : s.job id = some j) (hrun : runJob (2 ^ 33) s j = s1)
    (hj1 : s1.job id = some j1) (hst : j1.stage = .finished) (hf : j1.fault = none) :
    exec (.shuttleComplete id) s = .next (finishJob s1 j1).wake := by
  change execShuttleComplete id s = _
  subst hrun
  simp only [execShuttleComplete, hj, hj1, hst, hf, Option.isNone_none, and_self, if_true]

/-! ### SHUTTLE_ASYNC_FAULT (R258–R260) -/

/-- A command that a fault has stopped performs nothing more. -/
theorem runJob_faulted {fuel : Nat} {s : State} {j : ShJob} {x : Cause × Byte × Nat} (h : j.fault = some x) : runJob fuel s j = s :=
  if_pos (.inr (by rw [h]; rfl))

/-- The fault of a command is recorded in SHERR; the first of a warp waits for the clause boundary. -/
def faultRecorded (s : State) (j : ShJob) (c : Cause) (sub : Byte) (el : Nat) : State :=
  let s2 := recordSherr s j.wk j.cmd.minor c sub el j.k j.cv j.ci
  if (s.warp j.wk).sherr.v then s2
  else asyncFault s2 j.wk { lane := j.lane, cause := c, sub := sub, sherr := true, opv := j.faultAt.1, eoff := j.faultAt.2 }

section
variable {s : State} {id : Nat} {j : ShJob} {c : Cause} {sub : Byte} {el : Nat}

theorem shuttleAsyncFault_ends (hj : s.job id = some j) (hf : j.fault = some (c, sub, el)) :
    exec (.shuttleAsyncFault id) s = .next (finishJob (faultRecorded s j c sub el) j).wake := by
  change execShuttleAsyncFault id s = _
  simp only [execShuttleAsyncFault, hj, runJob_faulted hf, hf]
  rfl

theorem faultRecorded_hbm : (faultRecorded s j c sub el).hbm = s.hbm := by
  unfold faultRecorded
  dsimp only
  split <;> rfl

/-- The first fault of a warp. -/
theorem faultRecorded_first (hv : (s.warp j.wk).sherr.v = false) :
    ((faultRecorded s j c sub el).warp j.wk).sherr =
        { v := true, ovf := (s.warp j.wk).sherr.ovf, minor := BitVec.ofNat 3 j.cmd.minor, cause := c.code, sub := sub
          elem := BitVec.ofNat 32 el, k := j.k, cv := j.cv, ci := BitVec.ofNat 3 j.ci, taken := false }
      ∧ ((faultRecorded s j c sub el).warp j.wk).asyncs =
        (s.warp j.wk).asyncs ++ [⟨j.lane, c, sub, true, j.faultAt.1, j.faultAt.2⟩] := by
  simp only [faultRecorded, hv, Bool.false_eq_true, if_false, asyncFault, recordSherr, State.warp_modWarp_self, and_self]

/-- A second one sets OVF alone. -/
theorem faultRecorded_second (hv : (s.warp j.wk).sherr.v = true) :
    ((faultRecorded s j c sub el).warp j.wk).sherr = { (s.warp j.wk).sherr with ovf := true }
      ∧ ((faultRecorded s j c sub el).warp j.wk).asyncs = (s.warp j.wk).asyncs := by
  simp only [faultRecorded, hv, if_true, recordSherr, State.warp_modWarp_self, and_self]

end

/-! ### SPUT_INCREMENT (R265) -/

/-- The increment of a command's counter word, as its unit performs it. -/
def sputUnit (j : ShJob) (st : State) : Unt Unit :=
  Unt.bind (unitPlace st j j.a (offOf j.a.bits) 8 8 [rR, rW]) fun s1 p =>
    (rmw s1 (shWho j) p.key p.addr 8 fun b =>
      ((), some (bytesLE 8 (BitVec.ofNat 64 (ofBytes b) + j.b.bits).toNat))).bind fun s2 _ => Unt.val s2 ()

theorem sputIncrement_ends {s s1 s2 : State} {id : Nat} {j : ShJob} {p : Place} (hj : s.job id = some j) (hst : j.stage = .counting)
    (hf : j.fault = none) (hacks : ∀ l ∈ j.lines, s.noAcks l = true) (hclear : s.fails.find? (fun y => y.who == .shuttle j.id) = none)
    (hp : unitPlace s j j.a (offOf j.a.bits) 8 8 [rR, rW] = .ok s1 (some (.ok p)))
    (hadd : rmw s1 (shWho j) p.key p.addr 8 (fun b =>
      ((), some (bytesLE 8 (BitVec.ofNat 64 (ofBytes b) + j.b.bits).toNat))) = .ok s2 ()) :
    exec (.sputIncrement id) s = .next ((s2.unwait (.shuttle j.id)).modJob j fun x => { x with stage := .finished }).wake := by
  have hunit : unTry (sputUnit j s) = .ok s2 (some (.ok (.ok ()))) := by
    simp only [sputUnit, Unt.bind, hp, Acc.bind_ok, hadd]
    rfl
  have htry : runTry s (shWho j) (fun st => unTry (sputUnit j st)) = (s2.unwait (.shuttle j.id), some (.ok (.ok ()))) :=
    runTry_value hclear hunit
  have hall : j.lines.all s.noAcks = true := List.all_eq_true.2 hacks
  unfold sputUnit at htry
  change execSputIncrement id s = _
  simp only [execSputIncrement, hj, hst, hf, hall, htry, ne_eq, not_true_eq_false, Option.isSome_none, Bool.false_eq_true, or_self, if_false,
    Bool.not_true]

/-! ### HELD_ARRIVAL (R302) -/

/-- The command that owed an arrival, if there is one, leaves its queue. -/
def arrivalEnds (s : State) (cmd : Option Nat) : State :=
  match cmd.bind s.job with
  | some j => (dropJob s j).wake
  | none => s.wake

theorem arrivalEnds_team (s : State) (cmd : Option Nat) (tk : Nat) : (arrivalEnds s cmd).team tk = s.team tk := by
  unfold arrivalEnds
  split <;> rfl

theorem arrivalEnds_gone {s : State} {cmd : Option Nat} {id : Nat} {j : ShJob} (hc : cmd = some id) (hj : s.job id = some j) :
    ∀ x ∈ ((arrivalEnds s cmd).core j.core).shq, x.id ≠ j.id := by
  have h : arrivalEnds s cmd = (dropJob s j).wake := by
    simp only [arrivalEnds, hc, Option.bind_some, hj]
  rw [h]
  exact dropJob_gone s j

theorem next_arrivalEnds (s : State) (cmd : Option Nat) : (match cmd.bind s.job with
    | some j => (.next (dropJob s j).wake : Host.Outcome State Fault Refusal)
    | none => .next s.wake) = .next (arrivalEnds s cmd) := by
  unfold arrivalEnds
  cases cmd.bind s.job <;> rfl

/-- A team without one of its held arrivals. -/
def unhold (s : State) (tk i : Nat) : State := s.modTeam tk fun t => { t with held := t.held.eraseIdx i }

section
variable {s : State} {tk i : Nat} {h : HeldArr} (hh : (s.team tk).held[i]? = some h)
include hh

/-- The slot's phase has come: the arrival is made. -/
theorem heldArrival_made (hslot : h.slot < ((s.team tk).ringOf h.ring).depth) (hphase : ((s.team tk).ringOf h.ring).phase h.slot = h.phase) :
    exec (.heldArrival tk i) s = .next (arrivalEnds ((unhold s tk i).arrive tk h.ring h.slot 1) h.cmd) := by
  change execHeldArrival tk i s = _
  simp only [execHeldArrival, hh, Nat.not_le.2 hslot, hphase, decide_false, Bool.not_false, Bool.true_and, bne_self_eq_false,
    Bool.false_eq_true, if_false]
  exact next_arrivalEnds ((unhold s tk i).arrive tk h.ring h.slot 1) h.cmd

/-- The slot is gone: the arrival is discarded. -/
theorem heldArrival_gone (hslot : ((s.team tk).ringOf h.ring).depth ≤ h.slot) :
    exec (.heldArrival tk i) s = .next (arrivalEnds (unhold s tk i) h.cmd) := by
  change execHeldArrival tk i s = _
  simp only [execHeldArrival, hh, hslot, decide_true, Bool.not_true, Bool.false_and, Bool.false_eq_true, if_false, if_true]
  exact next_arrivalEnds (unhold s tk i) h.cmd

end

theorem unhold_team (s : State) (tk i : Nat) : (unhold s tk i).team tk = { s.team tk with held := (s.team tk).held.eraseIdx i } :=
  s.team_modTeam_self tk _

/-- An arrival changes its ring alone. -/
theorem arrive_team (s : State) (tk ring slot n : Nat) :
    (s.arrive tk ring slot n).team tk = (s.team tk).setRing ring (((s.team tk).ringOf ring).arrive slot n) :=
  s.team_modTeam_self tk _

theorem Team.ringOf_setRing (t : Team) (n : Nat) (r : Ring) : (t.setRing n r).ringOf n = r := tget_tput_self ..

end Sys2Proof.Machine

open Sys2Proof Sys2Proof.Machine

/-- Settles O37: a command passes its checks one after another and then stands last in its queue; the indices of an element are the digits of its
number; the end of a command changes its queue, its ring and its counter, but neither SHERR nor the faults that wait. -/
theorem shuttleResults : Obligations.ShuttleResults := by
  unfold Obligations.ShuttleResults
  constructor
  · intro image entered sh
    have hsh : ∀ (con : ShF → Instr) (cmd : ShCmd), (∀ f s, exec (con f) s = issue s (con f) (shBody cmd f)) → sh con cmd := by
      intro con cmd hexec f s c x slot s0 dsh s1 ps h t la lb wide h' hwide hx htile hk hk0 hdst hshape hsps h0 hrun hroom hfree
      obtain ⟨esc, henter⟩ := shCheck_enters (slot := slot) (sps := spSides cmd f (s0.teamOf c.wk) la lb x) hrun hroom hfree
      have hbody : shBody cmd f s c = _ :=
        (shBody_operands hwide hx htile hk hk0 hdst).trans ((shShape_fits hshape hsps).trans henter)
      have hcore : (issuing f s1 c esc (spSides cmd f (s0.teamOf c.wk) la lb x)).core = s1.core :=
        obs_issuing (obs := State.core) (fun _ _ _ => rfl) (fun _ _ _ => rfl) esc
      refine ⟨_, mkJob cmd f (issuing f s1 c esc (spSides cmd f (s0.teamOf c.wk) la lb x)) c x la lb slot (jobShifts cmd f ps),
        (hexec f s).trans (issue_ended h hbody), ?_, ?_, ?_, ?_, rfl, rfl, rfl, rfl, rfl, rfl, rfl, rfl, rfl, rfl, rfl, rfl, rfl,
        fun hcv hkf => issuing_counter esc hcv hkf⟩
      · rw [← hcore]; exact State.shEnter_shq ..
      · exact obs_issuing (obs := State.hbm) (fun _ _ _ => rfl) (fun _ _ _ => rfl) esc
      · exact obs_issuing (obs := State.lanes) (fun _ _ _ => rfl) (fun _ _ _ => rfl) esc
      · exact obs_issuing (obs := State.frames) (fun _ _ _ => rfl) (fun _ _ _ => rfl) esc
    refine ⟨?_, fun f s c x a b h hx hsp hact hgood => lyset_mem h hx hsp hact hgood,
      hsh .scpy .scpy fun _ _ => rfl, hsh .sgathSp .sgath fun _ _ => rfl, hsh .sscat .sscat fun _ _ => rfl, hsh .ssadd .ssadd fun _ _ => rfl,
      hsh .sput .sput fun _ _ => rfl, hsh .sfill .sfill fun _ _ => rfl, hsh .sqcp .sqcp fun _ _ => rfl,
      ?_, fun l i0 i1 i2 i3 h0 h1 h2 h3 => ?_⟩
    · intro f s c x h hx hsp o img hal hin
      exact ⟨fun hgood => lyset_sp h hx hsp hal hin (r := fun _ => .ok {}) (setLayout_good s c _ x.bv hgood),
        fun hbad => lyset_sp h hx hsp hal hin (r := fun _ => .fault (operandFault opRECORD ((imageDws img).getD 7 0)))
          (setLayout_bad s c _ x.bv hbad)⟩
    · intro f s c x σ p h hr hσ z hfull hroom hfree
      refine ⟨sgathQueued f z c, sgathJob f z c, sgath_enters h hr hσ hfull hroom hfree, ?_, rfl, rfl, ?_, ?_⟩
      · exact (congrArg Core.shq (congrFun (obs_sgathQueued (obs := State.core) (fun _ _ _ => rfl) z) _)).trans (State.shEnter_shq ..)
      · exact obs_sgathQueued (obs := State.frames) (fun _ _ _ => rfl) z
      · exact obs_sgathQueued (obs := State.hbm) (fun _ _ _ => rfl) z
    · obtain ⟨d0, d1, d2, d3⟩ := Layout.idx_digits (l := l) (i3 := i3) h0 h1 h2
      refine ⟨Layout.digits_lt_count h0 h1 h2 h3, ?_, ?_⟩
      · rw [Layout.memAt, d0, d1, d2, d3]
      · rw [Layout.spAt, d0, d1, d2, d3]
  · intro queued
    refine ⟨fun s id j s1 j1 hj hrun hj1 hst hf => shuttleComplete_ends hj hrun hj1 hst hf,
      fun s j hk => ⟨finishJob_gone s hk, fun hcv r hhead hrest => finishJob_counts s hk hcv hhead hrest⟩,
      fun s id j c sub el hj hf => ⟨_, shuttleAsyncFault_ends hj hf, fun hfill => ?_, fun hv => ?_, fun hv => ?_⟩,
      fun s id j s1 p s2 hj hst hf hacks hclear hp hadd => sputIncrement_ends hj hst hf hacks hclear hp hadd,
      fun s tk i h hh => ⟨fun hslot hphase => ⟨_, heldArrival_made hh hslot hphase, ?_, ?_, fun id j hc hj => ?_⟩,
        fun hslot => ⟨_, heldArrival_gone hh hslot, ?_, ?_⟩⟩⟩
    · exact (finishJob_hbm _ hfill).trans faultRecorded_hbm
    · obtain ⟨hsherr, hasyncs⟩ := finishJob_warp (faultRecorded s j c sub el) j
      obtain ⟨h1, h2⟩ := faultRecorded_first (c := c) (sub := sub) (el := el) hv
      exact ⟨hsherr.trans h1, hasyncs.trans h2⟩
    · obtain ⟨hsherr, hasyncs⟩ := finishJob_warp (faultRecorded s j c sub el) j
      obtain ⟨h1, h2⟩ := faultRecorded_second (c := c) (sub := sub) (el := el) hv
      exact ⟨hsherr.trans h1, hasyncs.trans h2⟩
    · rw [arrivalEnds_team, arrive_team, unhold_team]; rfl
    · rw [arrivalEnds_team, arrive_team, unhold_team, Team.ringOf_setRing]; rfl
    · exact arrivalEnds_gone hc hj
    · rw [arrivalEnds_team, unhold_team]
    · rw [arrivalEnds_team, unhold_team]; rfl
end

section
/-! ## Atomics and fences (R290–R294) -/

namespace Sys2Proof.Machine

/-! ### The operations (R291) -/

theorem minS_le {n : Nat} (a b : BitVec n) : (minS a b = a ∨ minS a b = b) ∧ (minS a b).toInt ≤ a.toInt ∧ (minS a b).toInt ≤ b.toInt := by
  unfold minS
  split
  · next h => exact ⟨.inl rfl, Int.le_refl _, h⟩
  · next h => exact ⟨.inr rfl, Int.le_of_not_le h, Int.le_refl _⟩

theorem le_maxS {n : Nat} (a b : BitVec n) : (maxS a b = a ∨ maxS a b = b) ∧ a.toInt ≤ (maxS a b).toInt ∧ b.toInt ≤ (maxS a b).toInt := by
  unfold maxS
  split
  · next h => exact ⟨.inr rfl, h, Int.le_refl _⟩
  · next h => exact ⟨.inl rfl, Int.le_refl _, Int.le_of_not_le h⟩

/-! ### An atomic on a line that stands in L1 (R290) -/

theorem inSpill_none {s : State} {wk : Nat} (h : (s.teamOf wk).spill = none) (p : Place) (n : Nat) : inSpill s wk p n = false := by
  unfold inSpill; rw [h]

/-- A line with the bytes that an update writes, if it writes any (R290). -/
def L1Line.updated (e : L1Line) (o : Nat) : Option (List Byte) → L1Line
  | some w => lineStored e o w false
  | none => e

/-- An atomic that neither acquires nor releases works on its private line in the L1, outside the spill slot (R290). -/
theorem Hits.atomAct {s : State} {wk l n : Nat} {p : Place} {e : L1Line} (h : Hits s wk l p.key p.addr n e)
    (hs : (s.teamOf wk).spill = none) (upd : List Byte → Word × Option (List Byte)) :
    let r := upd ((e.data.bytes.drop (p.addr % 128)).take n)
    atomAct wk l n false false 0 upd s (whoLane s wk l) p
      = .ok (s.l1Set (wkCore wk) (e.updated (p.addr % 128) r.2)) (some (.ok r.1)) := by
  intro r
  have hpub : p.pub = false := h.priv
  have hopen : (fun b => upd (openRead s wk p b).2) = upd := funext fun b => by rw [openRead_outside (inSpill_none hs p _)]
  have hclosed : ∀ z m, spoil (openRead (s.l1Set (wkCore wk) z) wk p (List.replicate m 0)).1 wk p m = s.l1Set (wkCore wk) z := fun z m => by
    have hz : ∀ k, inSpill (s.l1Set (wkCore wk) z) wk p k = false := fun k => inSpill_none hs p k
    rw [openRead_outside (hz _), spoil, hz]; rfl
  have hrmw : Machine.rmw s (whoLane s wk l) p.key p.addr n upd = .ok (s.l1Set (wkCore wk) (e.updated (p.addr % 128) r.2)) r.1 := h.rmw
  simp only [Machine.atomAct, thenOwn, settleOwn_free _ _ h.own, Bool.false_eq_true, Bool.false_and, if_false, hopen, hrmw, Acc.bind_ok,
    hclosed, hpub]

end Sys2Proof.Machine

open Sys2Proof Sys2Proof.Machine

/-- Settles O32: each lane's access that is performed gives ATOM and RED their outcome in the lane's turn; an operation of the table is
the operation of its number; a hit is a read-modify-write of the line in its place. -/
theorem atomicResults : Obligations.AtomicResults := by
  unfold Obligations.AtomicResults
  refine ⟨⟨?_, ?_, ?_⟩, ?_, ?_⟩
  · intro f s c x σ v h hr hσ
    exact ordered_ended h hr hσ fun l a b hact => laneOut_acts hact _
  · intro f s c x σ v h hr hσ
    exact ordered_ended h hr hσ fun l a b hact => laneOut_acts hact _
  · intro f s c x σ h hr hσ
    refine seq_ended h hr hσ fun l a b hact => ?_
    simp only [hact]; rfl
  · intro n o c b
    refine ⟨rfl, rfl, rfl, rfl, rfl, rfl, ?_, ?_, rfl, rfl⟩
    · rintro _ ⟨rfl⟩; exact minS_le o c
    · rintro _ ⟨rfl⟩; exact le_maxS o c
  · intro s wk l op p e c b _ h hs old
    rw [h.atomAct hs]
    simp only [atomBytes, if_true]
    cases atomOp op old c b <;> rfl
end

section
/-! ## Barriers, shed rings and waits (R295–R301) -/

namespace Sys2Proof.Machine

/-! ### Bodies that act once for the whole bundle -/

/-- An instruction that gives no lane an outcome blocks its bundle, where no quiesce stops its lanes (R132, R390). -/
theorem issue_blocks {s t : State} {i : Instr} {c : Ctx} (h : Issues s i c) {body : Body} (hb : body s c = (t, []))
    (hq : t.quiescing c.wk = false) : issue s i body = .next (blockBundle t c []) := by
  obtain ⟨l, ls, hl⟩ := List.exists_cons_of_ne_nil h.nonempty
  have hall : (c.active.all fun l => (tfind (sortOuts []) l).isSome) = false := by
    rw [hl]; rfl
  rw [issue_body h]
  simp only [hb, hall, hq, Bool.false_eq_true, if_false]
  rfl

/-- What an instruction does that reads A and B in its lowest-numbered lane and then acts. -/
theorem leadBody_reads {s : State} {c : Ctx} {v n : BitVec 32} (ha : ∃ w, leadRead s c c.g.fs.a c.g.fs.btA = .ok w ∧ lo32 w = v)
    (hb : ∃ w, leadRead s c c.g.fs.b c.g.fs.btB = .ok w ∧ lo32 w = n) (k : State → Ctx → BitVec 32 → BitVec 32 → State × List (Nat × LaneOut)) :
    leadBody k s c = k s c v n := by
  obtain ⟨w, hw, rfl⟩ := ha
  obtain ⟨u, hu, rfl⟩ := hb
  simp only [leadBody, leadPair, hw, hu, Rd.both]

theorem countFault_none {n : BitVec 32} (h1 : 1 ≤ n.toNat) (h2 : n.toNat ≤ 1024) : countFault n = none := if_neg (by omega)

/-! ### The team barrier (R297) -/

/-- A lane that stands in no BAR wait and has not arrived in the phase arrives (R297). -/
theorem barLane_arrives {wait : Bool} {a a1 : State} {c : Ctx} {l : Nat} (hst : ∀ p, (a.lane c.wk l).st ≠ .blocked (.bar p))
    (harr : ((a.teamOf c.wk).arrived (a.warp c.wk).wix).getLsbD l = false) (hset : settleAll a c.wk l = (a1, true))
    (hend : wait = false ∨ ((arriveLane a1 c.wk l).teamOf c.wk).bphase ≠ (a.teamOf c.wk).bphase) :
    barLane wait a c l = (arriveLane a1 c.wk l, some done) := by
  have hgo : (!wait || ((arriveLane a1 c.wk l).teamOf c.wk).bphase != (a.teamOf c.wk).bphase) = true := by
    rcases hend with rfl | h
    · rfl
    · rw [bne_iff_ne.2 h, Bool.or_true]
  unfold barLane
  split
  · next p hp => exact absurd hp (hst p)
  · simp only [harr, Bool.false_eq_true, if_false, hset, hgo, if_true]

/-- A lane whose phase has completed passes (R297). -/
theorem barLane_passes {wait : Bool} {a : State} {c : Ctx} {l p : Nat} (hst : (a.lane c.wk l).st = .blocked (.bar p))
    (hp : p ≠ (a.teamOf c.wk).bphase.toNat) :
    barLane wait a c l = (a.modLane c.wk l fun ln => { ln with st := .run }, some done) := by
  simp only [barLane, hst, hp, if_false]

/-- The team in which a lane has arrived. -/
def arrivedIn (s : State) (wk l : Nat) : State := s.modTeam (s.warp wk).team fun t =>
  { t with barr := tput t.barr (s.warp wk).wix (t.arrived (s.warp wk).wix ||| (1#32 <<< l)) 0 }

theorem arrived_arrivedIn (s : State) (wk l w m : Nat) (hl : l < 32) : (((arrivedIn s wk l).team (s.warp wk).team).arrived w).getLsbD m =
    (((s.team (s.warp wk).team).arrived w).getLsbD m || (decide (w = (s.warp wk).wix) && decide (m = l))) := by
  have hbit : (1#32 <<< l).getLsbD m = decide (m = l) := by
    rw [BitVec.getLsbD_shiftLeft, BitVec.getLsbD_one]
    by_cases h : m = l
    · subst h; simp [hl]
    · simp only [h, decide_false, Bool.and_eq_false_iff, decide_eq_false_iff_not, Bool.not_eq_false', decide_eq_true_eq]
      omega
  rw [arrivedIn, State.team_modTeam_self, Team.arrived, tget_tput]
  split
  · next h => subst h; rw [BitVec.getLsbD_or, hbit]; simp [Team.arrived]
  · next h => simp [Team.arrived, Ne.symm h]

/-- Some lane has arrived, so the phase may complete. -/
theorem barr_arrivedIn {s : State} {wk l : Nat} (hl : l < 32) : ((arrivedIn s wk l).team (s.warp wk).team).barr.isEmpty = false := by
  rw [← Bool.not_eq_true, List.isEmpty_iff]
  intro h
  have hz : ∀ w, ((arrivedIn s wk l).team (s.warp wk).team).arrived w = 0 := fun w => by rw [Team.arrived, h]; rfl
  have := arrived_arrivedIn s wk l (s.warp wk).wix l hl
  rw [hz] at this
  simp at this

theorem arriveLane_full {s : State} {wk l : Nat} (hl : l < 32) (hfull : barrierFull (arrivedIn s wk l) (s.warp wk).team = true) :
    (arriveLane s wk l).team (s.warp wk).team
      = { (arrivedIn s wk l).team (s.warp wk).team with bphase := (s.team (s.warp wk).team).bphase + 1, barr := [] } := by
  change (settleBarrier (arrivedIn s wk l) _).team _ = _
  simp only [settleBarrier, barr_arrivedIn hl, hfull, Bool.not_true, Bool.or_false, Bool.false_eq_true, if_false, State.team_setTeam, if_true]
  rw [arrivedIn, State.team_modTeam_self]

theorem arriveLane_waits {s : State} {wk l : Nat} (hfull : barrierFull (arrivedIn s wk l) (s.warp wk).team = false) :
    arriveLane s wk l = arrivedIn s wk l := by
  change settleBarrier (arrivedIn s wk l) _ = _
  simp only [settleBarrier, hfull, Bool.not_false, Bool.or_true, if_true]

/-! ### Arrivals on a ring (R300) -/

theorem Ring.arrive_last {r : Ring} {j n : Nat} (hph : j < r.ph.length) (hrem : j < r.rem.length) (h : r.rem.getD j 0 ≤ n) :
    (r.arrive j n).phase j = !r.phase j ∧ (r.arrive j n).rem.getD j 0 = r.cnt := by
  rw [Ring.arrive, if_pos h]
  simp only [Ring.phase, List.getD_eq_getElem?_getD, List.getElem?_set_self hph, List.getElem?_set_self hrem, Option.getD_some, and_self]

theorem Ring.arrive_early {r : Ring} {j n : Nat} (hrem : j < r.rem.length) (h : n < r.rem.getD j 0) :
    (r.arrive j n).phase j = r.phase j ∧ (r.arrive j n).rem.getD j 0 = r.rem.getD j 0 - n := by
  simp only [Ring.arrive, Nat.not_le.2 h, if_false, Ring.phase, true_and]
  rw [List.getD_eq_getElem?_getD, List.getElem?_set_self hrem, Option.getD_some]

/-! ### MWAIT (R296) -/

/-- An MWAIT whose every lane has its word notes no wait. -/
theorem noteWait_over {b : Body} {s t : State} {c : Ctx} {r : Nat → LaneOut} (hl : c.lanes = c.active)
    (hb : b s c = (t, c.active.map fun l => (l, r l))) :
    noteWait b s c = (t.modWarp c.wk fun w => { w with mwait := tdel w.mwait c.path }, c.active.map fun l => (l, r l)) := by
  have hall : (c.lanes.any fun l => (tfind (c.active.map fun l => (l, r l)) l).isNone) = false := by
    rw [List.any_eq_false, hl]
    intro l hm
    rw [tfind_map, if_pos hm]
    exact Bool.false_ne_true
  simp only [noteWait, hb, hall, Bool.false_eq_true, if_false]

/-- The word that an MWAIT takes is at least C (R296). -/
theorem mwaitAct_least {wk l n scope : Nat} {least v : Word} {s t : State} {h : Who} {p : Place}
    (hok : mwaitAct wk l n scope least s h p = .ok t (some (.ok v))) : least.toNat ≤ v.toNat := by
  unfold mwaitAct thenOwn at hok
  split at hok
  · simp at hok
  · obtain ⟨s1, b, -, hb⟩ := Acc.of_bind hok
    rcases b with _ | ⟨bs, tag⟩
    · simp at hb
    · simp only at hb
      split at hb
      · simp at hb
      · next hle =>
        unfold thenAcquire at hb
        split at hb
        · simp only [Acc.ok.injEq, Option.some.injEq, Except.ok.injEq] at hb
          exact hb.2 ▸ Nat.le_of_not_lt hle
        · simp at hb
        · simp at hb

end Sys2Proof.Machine

open Sys2Proof Sys2Proof.Machine

/-- Settles O38: each lane of BAR and BARA passes or arrives in its turn, and the phase completes with the last arrival; the other
instructions act once, or block their bundle. -/
theorem syncResults : Obligations.SyncResults := by
  unfold Obligations.SyncResults
  intro lead leadB arrives passes
  refine ⟨fun f s c x σ h hr hσ => seq_ended h hr hσ ?_, fun f s c x σ h hr hσ => seq_ended h hr hσ ?_, fun s wk l hl => ⟨fun hf => ?_, fun hf => ?_⟩,
    fun f s c v n j ph s1 h hv hn hslot h1 h2 hph hset => ?_, fun r j n hph hrem h => Ring.arrive_last hph hrem h,
    fun r j n hrem h => Ring.arrive_early hrem h, fun f s c d n h hd hn h1 h2 h3 h4 => ?_, fun f s c v j ph h hv hslot => ?_,
    fun f s c h => ⟨fun hle => ?_, fun hlt hq => ?_⟩, fun f s c x σ v h hr hσ => ?_, fun wk l n scope least s h p t v => mwaitAct_least,
    fun wk path s b w f hpath hword hdec => ?_⟩
  · rintro l a b (⟨hst, harr, a1, hset, rfl⟩ | ⟨p, hst, hp, rfl⟩)
    · exact barLane_arrives hst harr hset (.inl rfl)
    · exact barLane_passes hst hp
  · rintro l a b (⟨p, hst, hp, rfl⟩ | ⟨⟨hst, harr, a1, hset, rfl⟩, hend⟩)
    · exact barLane_passes hst hp
    · exact barLane_arrives hst harr hset (.inr hend)
  · have hz := arriveLane_full hl hf
    exact ⟨by rw [hz], fun w => by rw [hz]; rfl⟩
  · rw [arriveLane_waits hf]
    refine ⟨by rw [arrivedIn, State.team_modTeam_self], ?_, fun w m hne => ?_⟩
    · rw [arrived_arrivedIn s wk l _ _ hl]; simp
    · rw [arrived_arrivedIn s wk l _ _ hl]
      rcases hne with hne | hne <;> simp [hne]
  · refine issue_ended h (r := fun _ => {}) ?_
    rw [leadBody_reads hv hn]
    simp only [hslot, countFault_none h1 h2, hph, ne_eq, not_true_eq_false, if_false, hset]
    rfl
  · refine issue_ended h (r := fun _ => {}) ?_
    rw [leadBody_reads hd hn]
    simp only [countFault_none h3 h4, show ¬ (d.toNat < 1 ∨ 16 < d.toNat) by omega, if_false]
    rfl
  · obtain ⟨w, hw, rfl⟩ := hv
    refine ⟨fun hne => ?_, fun heq hq => ?_⟩
    · show execShwait f s = _
      refine issue_ended h (r := fun _ => {}) ?_
      simp only [hw, hslot, hne, if_false]
      rfl
    · show execShwait f s = _
      refine issue_blocks h ?_ hq
      simp only [hw, hslot, heq, if_true]
  · show execCwait f s = _
    refine issue_ended h (r := fun _ => {}) ?_
    simp only [hle, if_true]
    rfl
  · show execCwait f s = _
    refine issue_blocks h ?_ hq
    simp only [Nat.not_le.2 hlt, if_false]
  · refine issue_ended h (noteWait_over h.lanes ?_)
    simp only [seqBody, hr.lanes h]
    have := foldl_turns (c := c) (x := x) (r := fun l => .ok (.value (Val.int (v l)))) c.active s σ [] hσ.1
      (f := fun s' c l x => laneOut (laneTry s' c.wk l x.av (offOf x.av.bits + x.bv.bits.toInt) (if f.sub.getLsbD 0 then 8 else 4) [rR]
        (if f.sub.getLsbD 0 then 8 else 4) 9 (mwaitAct c.wk l (if f.sub.getLsbD 0 then 8 else 4) f.scope.toNat x.cv.bits)) fun s1 v => (s1, res v))
      fun k l hk => laneOut_acts (hσ.2 k l hk) _
    exact this
  · have hat : b.atMwait = true := by simp only [Bundle.atMwait, hword, Option.bind_some, hdec]
    show execMwaitReread wk path s = _
    simp only [execMwaitReread, hpath, hat, if_true]
end

section
/-! ## Host calls and user interrupts (R310–R312, R365, R399, R401) -/

namespace Sys2Proof.Machine

/-! ### Little-endian bytes (R5) -/

theorem ofBytes_bytesLE : ∀ n v : Nat, ofBytes (bytesLE n v) = v % 256 ^ n
  | 0, v => by rw [Nat.pow_zero, Nat.mod_one]; rfl
  | n + 1, v => by
    have h8 : (BitVec.ofNat 8 v).toNat = v % 256 := BitVec.toNat_ofNat ..
    rw [bytesLE, ofBytes, ofBytes_bytesLE n, h8, Nat.pow_succ', Nat.mod_mul]

theorem ofBytes_lt : ∀ bs : List Byte, ofBytes bs < 256 ^ bs.length
  | [] => Nat.one_pos
  | b :: bs => by
    have := ofBytes_lt bs
    have := b.isLt
    rw [ofBytes, List.length_cons, Nat.pow_succ']
    omega

/-- Bytes written at the front of a list are its first bytes. -/
theorem take_splice_zero {l bs : List Byte} {n : Nat} (h : n ≤ bs.length) : (splice l 0 bs).take n = bs.take n := by
  rw [splice, List.take_zero, List.nil_append, List.take_append_of_le_length h]

/-! ### The call half (R310) -/

theorem tfind_putHalf {s : State} {half : Nat} {x : Half} (h : tfind s.halves half = some x) (bs : List Byte) :
    tfind (putHalf s half 0 bs).halves half = some { x with bytes := splice x.bytes 0 bs } := by
  simp only [putHalf, h, tfind_tset_self]

theorem putHalf_eq (s : State) (half o : Nat) (bs : List Byte) : putHalf s half o bs = { s with halves := (putHalf s half o bs).halves } := by
  unfold putHalf; split <;> rfl

/-- The first word of a call names its number, its function and its kind (R310). -/
theorem callWords_head (s : State) (wk : Nat) (seq : BitVec 32) (nb : Bool) (a b : Word) (func : BitVec 32) :
    (callWords s wk seq nb a b func).headD 0 = seq ++ (BitVec.ofNat 16 (bits func 15 0) ++ (if nb then 2#16 else 1#16)) := by
  apply BitVec.eq_of_toNat_eq
  have hf : bits func 15 0 < 2 ^ 16 := Nat.mod_lt _ (by decide)
  have hs := seq.isLt
  have hn : (if nb then 2#16 else 1#16).toNat = if nb then 2 else 1 := by cases nb <;> rfl
  have hk : (if nb then 2 else 1) < 2 ^ 16 := by cases nb <;> decide
  have hx : (BitVec.ofNat 16 (bits func 15 0) ++ (if nb then 2#16 else 1#16)).toNat = bits func 15 0 * 2 ^ 16 + if nb then 2 else 1 := by
    rw [BitVec.toNat_append, BitVec.toNat_ofNat, Nat.mod_eq_of_lt hf, hn, ← Nat.shiftLeft_add_eq_or_of_lt hk, Nat.shiftLeft_eq]
  rw [BitVec.toNat_append, hx, ← Nat.shiftLeft_add_eq_or_of_lt (by omega), Nat.shiftLeft_eq]
  simp only [callWords, List.headD_cons, BitVec.toNat_ofNat]
  omega

/-- The number of words in a call, as bytes. -/
theorem callBytes_take (s : State) (wk : Nat) (seq : BitVec 32) (nb : Bool) (a b : Word) (func : BitVec 32) :
    8 ≤ ((callWords s wk seq nb a b func).flatMap fun w => bytesLE 8 w.toNat).length
      ∧ ((callWords s wk seq nb a b func).flatMap fun w => bytesLE 8 w.toNat).take 8 = bytesLE 8 ((callWords s wk seq nb a b func).headD 0).toNat := by
  simp only [callWords, List.flatMap_cons, List.headD_cons]
  refine ⟨by rw [List.length_append, bytesLE_length]; omega, ?_⟩
  rw [List.take_append_of_le_length (by rw [bytesLE_length]), List.take_of_length_le (by rw [bytesLE_length])]

/-! ### Calls made and ended (R310, R311) -/

/-- What a call leaves in its core: the call on its slot and the next number. -/
theorem startCall_core (s : State) (wk l : Nat) (nb : Option Nat) (isNb : Bool) (defer : Option Nat) (x : Srcs) :
    let key := callKey wk l
    let seq := tget (s.core (wkCore wk)).hseq key 1
    (startCall s wk l nb isNb defer x).core (wkCore wk) = { s.core (wkCore wk) with
      hseq := tput (s.core (wkCore wk)).hseq key (nextSeq seq) 1
      hcalls := tset (s.core (wkCore wk)).hcalls key { seq := seq, wk := wk, lane := l, nb := nb, defer := defer
                                                       deadline := s.usec + (s.warp wk).tout.toNat, since := (s.core (wkCore wk)).cycle.toNat } } := by
  intro key seq
  rw [startCall, putHalf_eq]
  exact State.core_modCore_self { s with halves := _ } (wkCore wk) fun c => { c with hseq := _, hcalls := _ }

/-- The lanes of a call that are all ready are made ready one after another (R311). -/
theorem callsReady_turns {wk : Nat} {x : Nat → Srcs} : ∀ {ls : List Nat} {σ : Nat → State},
    (∀ k l, ls[k]? = some l → callReady (σ k) wk l = (σ (k + 1), some (.ok ()))) →
    callsReady (σ 0) wk (ls.map fun l => (l, .ok (x l))) = (σ ls.length, ls.map fun l => (l, x l), [], false)
  | [], σ, _ => rfl
  | l :: ls, σ, h => by
    have ih := callsReady_turns (x := x) (σ := fun k => σ (k + 1)) (ls := ls) fun k l hk => h (k + 1) l hk
    rw [List.map_cons, callsReady]
    simp only [h 0 l rfl, ih]
    rfl

/-- The state in which a call's slot is free. -/
def slotFreed (s : State) (core key : Nat) : State := s.modCore core fun c => { c with hcalls := tdel c.hcalls key }

/-- The end of a call frees its slot, and counts on a counter of the warp that made it (R311). -/
theorem endCall_eq (s : State) (core key : Nat) (k : HCall) :
    endCall s core key k = slotFreed s core key ∨ ∃ ci id, endCall s core key k = counterDone (slotFreed s core key) k.wk ci id := by
  unfold endCall
  split
  · dsimp only
    split
    · exact .inl rfl
    · exact .inr ⟨_, _, rfl⟩
  · exact .inl rfl

theorem endCall_free (s : State) (core key : Nat) (k : HCall) : tfind ((endCall s core key k).core core).hcalls key = none := by
  have hf : tfind ((slotFreed s core key).core core).hcalls key = none := by
    rw [slotFreed, State.core_modCore_self, tfind_tdel_self]
  obtain h | ⟨ci, id, h⟩ := endCall_eq s core key k
  · rw [h]; exact hf
  · rw [h]; exact hf

theorem endCall_halves (s : State) (core key : Nat) (k : HCall) : (endCall s core key k).halves = s.halves := by
  obtain h | ⟨ci, id, h⟩ := endCall_eq s core key k <;> rw [h] <;> rfl

theorem endCall_asyncs (s : State) (core key : Nat) (k : HCall) (wk : Nat) : ((endCall s core key k).warp wk).asyncs = (s.warp wk).asyncs := by
  obtain h | ⟨ci, id, h⟩ := endCall_eq s core key k
  · rw [h]; rfl
  · rw [h, counterDone, State.warp_modWarp]
    split
    · next he => subst he; rfl
    · rfl

/-! ### The events of the monitor (R311, R365) -/

section
variable {s s1 : State} {slot : Nat} {k : HCall} (hk : tfind (s.core (slot / 2048)).hcalls (slot % 2048) = some k)
include hk

/-- A reply that matches delivers its word and ends the call. -/
theorem execHcallReply_matched {v : Word}
    (h : runTry s (monitorWho s (slot / 2048) (slot % 2048)) (fun st => (pocDwords st (callAddr st (slot / 2048) (slot % 2048) + 64) 2).bind fun a d =>
        if bits (d.getD 0 0) 63 32 = k.seq.toNat then thenAcquire a (monitorWho s (slot / 2048) (slot % 2048)) 3 (some (d.getD 1 0))
        else .ok a (some (.ok none))) = (s1, some (.ok (some v)))) :
    execHcallReply slot s = .next (endCall (deliverCall s1 k (.ok (v, 0))) (slot / 2048) (slot % 2048) k).wake := by
  simp only [execHcallReply, hk, h]

/-- What a time-out writes: dw0 with KIND 00. -/
def kindCleared (s : State) (half : Nat) : State :=
  putHalf s half 0 (bytesLE 8 ((match tfind s.halves half with | some x => ofBytes (x.bytes.take 8) | none => 0) / 4 * 4))

/-- The fault of a call whose time is over (R311). -/
def callTimedOut (s : State) (k : HCall) : State :=
  match k.nb with
  | some _ => asyncFault s k.wk { lane := k.lane, cause := .remote, sub := 3, sherr := false }
  | none => deliverCall s k (.error .timeout)

theorem execHcallTimeout_over (hd : k.deadline ≤ s.usec)
    (h : runTry s (monitorWho s (slot / 2048) (slot % 2048)) (fun st =>
      (ownHalf st (callAddr s (slot / 2048) (slot % 2048) / 64) false).bind fun a _ => .ok a (some (.ok ()))) = (s1, some (.ok ()))) :
    execHcallTimeout slot s = .next (endCall (callTimedOut (kindCleared s1 (callAddr s (slot / 2048) (slot % 2048) / 64)) k)
      (slot / 2048) (slot % 2048) k).wake := by
  simp only [execHcallTimeout, hk, Nat.not_lt.2 hd, if_false, h]
  rfl

/-- The slot is read again, and the call notes when. -/
theorem execMonitorReread_again : ∃ s1, execMonitorReread slot s = .next (State.modCore s1 (slot / 2048) fun c =>
    { c with hcalls := tset c.hcalls (slot % 2048) { k with since := c.cycle.toNat } }) := by
  simp only [execMonitorReread, hk]
  exact ⟨_, rfl⟩

end

theorem warp_kindCleared (s : State) (half wk : Nat) : (kindCleared s half).warp wk = s.warp wk := by
  rw [kindCleared, putHalf_eq]; rfl

theorem kindCleared_half {s : State} {half : Nat} {x : Half} (hx : tfind s.halves half = some x) :
    ∃ y, tfind (kindCleared s half).halves half = some y ∧ ofBytes (y.bytes.take 8) = ofBytes (x.bytes.take 8) / 4 * 4 := by
  have hlt : ofBytes (x.bytes.take 8) < 256 ^ 8 :=
    Nat.lt_of_lt_of_le (ofBytes_lt _) (Nat.pow_le_pow_right (by decide) (by rw [List.length_take]; omega))
  refine ⟨_, tfind_putHalf hx _, ?_⟩
  rw [take_splice_zero (by rw [bytesLE_length]), List.take_of_length_le (by rw [bytesLE_length]), ofBytes_bytesLE]
  simp only [hx]
  omega

/-! ### User interrupts (R312, R401) -/

section
variable {s : State} {h : BitVec 32} {realm : Nat} (src datum : BitVec 32)

theorem postUintr_nobody (hn : bits h 31 21 ≠ s.pkg.agent ∨ ∀ e ∈ s.teams, e.2.handle = h → e.2.realm ≠ realm) :
    postUintr s h (some realm) src datum = (s, 1) := by
  unfold postUintr
  by_cases ha : bits h 31 21 = s.pkg.agent
  · have hnone : s.teams.find? (fun e => e.2.handle == h && e.2.realm == realm) = none := by
      refine List.find?_eq_none.2 fun e he hm => ?_
      rw [Bool.and_eq_true, beq_iff_eq, beq_iff_eq] at hm
      exact (hn.resolve_left fun hne => hne ha) e he hm.1 hm.2
    simp only [ha, ne_eq, not_true_eq_false, if_false, hnone]
  · rw [if_pos ha]

theorem postUintr_found {tk : Nat} {t : Team} (ha : bits h 31 21 = s.pkg.agent)
    (hf : s.teams.find? (fun e => e.2.handle == h && e.2.realm == realm) = some (tk, t)) : postUintr s h (some realm) src datum =
      if 8 ≤ t.uiq.length then (s, 2) else (s.setTeam tk { t with uiq := t.uiq ++ [(src, datum)] }, 0) := by
  simp only [postUintr, ha, ne_eq, not_true_eq_false, if_false, hf]

end

end Sys2Proof.Machine

open Sys2Proof Sys2Proof.Machine

/-- Settles O39: the lanes of HCALL and UINTR act in turn, those of HCALL.NB are made ready in turn and then call together; a call ends
with its slot freed, after the reply's word or the fault is delivered. -/
theorem hostCallResults : Obligations.HostCallResults := by
  unfold Obligations.HostCallResults
  refine ⟨fun f s c x σ h hr hσ => seq_ended h hr hσ ?_, fun f s c x σ h hr hv hcv hσ => ?_, fun s wk l nb isNb defer x => ?_,
    fun slot s k s1 v hk h => ⟨_, execHcallReply_matched hk h, endCall_free .., rfl⟩,
    fun slot s k s1 hk hd h => ⟨_, execHcallTimeout_over hk hd h, endCall_free .., fun n hn => ?_, fun x hx _ hnb => ?_⟩,
    fun slot s k hk => ?_, fun f s c x σ v h hr hσ => ordered_ended h hr hσ ?_, fun s h realm src datum => postUintr_nobody src datum,
    fun s h realm src datum tk t ha hf => ⟨fun hfull => ?_, fun hroom => ?_⟩⟩
  · rintro l a b ⟨hv, he, a1, hready, rfl⟩
    simp only [hv, he, hready, Bool.not_true, Bool.false_eq_true, if_false]
    rfl
  · have hfree : (f.cv && !counterFree s c.wk f.ci.toNat) = false := by
      cases hc : f.cv with
      | false => rfl
      | true => simp [counterFree, hcv hc]
    obtain ⟨l, ls, hl⟩ := List.exists_cons_of_ne_nil h.nonempty
    have hne : (c.active.map fun l => (l, x l)).isEmpty = false := by rw [hl]; rfl
    have hready := callsReady_turns (x := x) hσ.2
    rw [hσ.1] at hready
    show execHcallNb f s = _
    refine issue_ended h (r := fun _ => {}) ?_
    simp only [hv, hfree, hr.lanes h, hready, hne, Bool.not_true, Bool.false_eq_true, if_false, List.foldl_map, List.map_map, List.nil_append]
    rfl
  · intro core seq t
    have hcore := startCall_core s wk l nb isNb defer x
    refine ⟨⟨_, by rw [hcore]; exact tfind_tset_self .., rfl, rfl, rfl, rfl, rfl⟩, by rw [hcore]; exact tget_tput_self .., ?_, fun half hh hlen => ?_⟩
    · show ((State.escape _ (s.warp wk).team).team (State.warp t wk).team).escaped = true
      have hw : t.warp wk = s.warp wk := by
        show (startCall s wk l nb isNb defer x).warp wk = _
        rw [startCall, putHalf_eq]; rfl
      rw [hw, State.escape, State.team_modTeam_self]
    · obtain ⟨h8, htake⟩ := callBytes_take s wk seq isNb x.av.bits x.bv.bits (lo32 x.cv.bits)
      refine ⟨_, tfind_putHalf hh _, ?_⟩
      rw [take_splice_zero h8, htake, ofBytes_bytesLE, callWords_head]
      rw [show 256 ^ 8 = 2 ^ 64 from rfl, ← BitVec.toNat_ofNat, BitVec.ofNat_toNat, BitVec.ofNat_toNat, BitVec.setWidth_eq, BitVec.setWidth_eq]
  · show ((endCall _ _ _ k).warp k.wk).asyncs = _
    rw [endCall_asyncs, callTimedOut, hn]
    show ((asyncFault _ _ _).warp _).asyncs = _
    rw [asyncFault, State.warp_modWarp, if_pos rfl, warp_kindCleared]
  · obtain ⟨n, hn⟩ := Option.isSome_iff_exists.1 hnb
    show ∃ y, tfind (endCall _ _ _ k).halves _ = some y ∧ _
    rw [endCall_halves, callTimedOut, hn]
    exact kindCleared_half hx
  · obtain ⟨s1, h1⟩ := execMonitorReread_again hk
    refine ⟨_, _, h1, ?_, rfl⟩
    rw [State.core_modCore_self]
    exact tfind_tset_self ..
  · rintro l a b ⟨a1, hrel, hv, rfl⟩
    simp only [hrel, hv]
    rfl
  · rw [postUintr_found src datum ha hf, if_pos hfull]
  · rw [postUintr_found src datum ha hf, if_neg (Nat.not_le.2 hroom)]
    exact ⟨rfl, by rw [State.team_setTeam, if_pos rfl]⟩
end

section
/-! ## Publication walks and widening (R303–R306) -/

namespace Sys2Proof.Machine

/-! ### Lists of objects -/

theorem nodup_eraseDups : ∀ {n : Nat} {l : List Nat}, l.length ≤ n → l.eraseDups.Nodup
  | _, [], _ => List.nodup_nil
  | n + 1, a :: l, h => by
    rw [List.length_cons] at h
    rw [List.eraseDups_cons, List.nodup_cons]
    refine ⟨fun hm => ?_, nodup_eraseDups (Nat.le_trans (List.length_filter_le ..) (Nat.le_of_succ_le_succ h))⟩
    have := (List.mem_filter.1 (List.mem_eraseDups.1 hm)).2
    simp at this

theorem nodup_newEntries (w : Walk) (found : List Nat) : (newEntries w found).Nodup := (nodup_eraseDups (Nat.le_refl _)).filter _

theorem mem_newEntries {w : Walk} {found : List Nat} {o : Nat} : o ∈ newEntries w found ↔ o ∈ found ∧ o ∉ w.listed ∧ o ∉ w.visited := by
  simp [newEntries]

/-- A work list names each object once (R304). -/
theorem rootList_pairwise : ∀ r : List (Nat × Word), (rootList r).Pairwise fun a b => a.1 ≠ b.1
  | [] => List.Pairwise.nil
  | (l, w) :: r => by
    rw [rootList, List.pairwise_cons]
    refine ⟨fun b hb => ?_, (rootList_pairwise r).filter _⟩
    exact Ne.symm (bne_iff_ne.1 (List.mem_filter.1 hb).2)

/-! ### Roots (R303) -/

section
variable {wk : Nat} {x : Nat → Srcs}

/-- Roots that all pass are the references of their lanes. -/
theorem rootLanes_turns : ∀ {ls : List Nat} {σ : Nat → State},
    (∀ k l, ls[k]? = some l → rootLane (σ k) wk l (x l) = (σ (k + 1), some (.ok ()))) →
    rootLanes (σ 0) wk (ls.map fun l => (l, .ok (x l))) = (σ ls.length, ls.map fun l => (l, (x l).av.bits), [], false)
  | [], σ, _ => rfl
  | l :: ls, σ, h => by
    have ih := rootLanes_turns (σ := fun k => σ (k + 1)) (ls := ls) fun k l hk => h (k + 1) l hk
    rw [List.map_cons, rootLanes]
    simp only [h 0 l rfl, ih]
    rfl

end

theorem walks_addWalk (s : State) (core : Nat) (w : Walk) (tk : Nat) :
    (((s.addWalk core w).escape tk).core core).walks = (s.core core).walks ++ [w] := by
  have h : ((s.addWalk core w).escape tk).core core = (s.addWalk core w).core core := rfl
  rw [h, State.addWalk, State.core_modCore_self]
  rfl

theorem quiescing_addWalk (s : State) (core : Nat) (w : Walk) (wk : Nat) :
    ((s.addWalk core w).escape (s.warp wk).team).quiescing wk = s.quiescing wk := by
  have h : ((s.addWalk core w).escape (s.warp wk).team).teamOf wk = { s.teamOf wk with escaped := true } := State.team_modTeam_self ..
  rw [State.quiescing, h]
  rfl

section
variable {f : SyF} {s : State} {c : Ctx} {x : Nat → Srcs} {σ : Nat → State}

/-- The walk that a PUB hands over. -/
def pubWalk (f : SyF) (c : Ctx) (x : Nat → Srcs) (named : List (Nat × Word)) (z : State) : Walk :=
  { mkWalk z c.wk c.lead f.scope.toNat (.pub f.cv f.ci.toNat) (rootList (c.active.map fun l => (l, (x l).av.bits))) with refs := named }

/-- The state in which a PUB has handed its walk over. -/
def published (f : SyF) (c : Ctx) (x : Nat → Srcs) (named : List (Nat × Word)) (z : State) : State :=
  let s1 := (z.addWalk (wkCore c.wk) (pubWalk f c x named z)).escape (z.warp c.wk).team
  if f.cv then counterIssue s1 c.wk f.ci.toNat z.uid else s1

theorem obs_published {α : Type} {obs : State → α} (hwarp : ∀ st wk g, obs (State.modWarp st wk g) = obs st) (named : List (Nat × Word)) (z : State) :
    obs (published f c x named z) = obs ((z.addWalk (wkCore c.wk) (pubWalk f c x named z)).escape (z.warp c.wk).team) := by
  unfold published
  split
  · exact hwarp ..
  · rfl

/-- A counter that counts a command of its warp. -/
theorem counter_counterIssue (s : State) (wk ci id : Nat) : ((counterIssue s wk ci id).warp wk).counter ci = (s.warp wk).counter ci + 1 := by
  rw [counterIssue, State.warp_modWarp, if_pos rfl, Warp.counter, tget_tput_self, List.length_append]
  rfl

theorem pub_hands_over (h : Issues s (.pub f) c) (hr : Reads s c x)
    (hσ : Turns c s σ fun l a b => rootLane a c.wk l (x l) = (b, some (.ok ())))
    (hcv : f.cv = true → ((σ c.active.length).warp c.wk).counter f.ci.toNat < 31) :
    ∃ named, exec (.pub f) s = .next (Ended (published f c x named (σ c.active.length)) (.pub f) c fun _ => {}) := by
  have hfree : (f.cv && !counterFree (σ c.active.length) c.wk f.ci.toNat) = false := by
    cases hc : f.cv with
    | false => rfl
    | true => simp [counterFree, hcv hc]
  obtain ⟨l, ls, hl⟩ := List.exists_cons_of_ne_nil h.nonempty
  have hne : (c.active.map fun l => (l, (x l).av.bits)).isEmpty = false := by rw [hl]; rfl
  have hroots := rootLanes_turns hσ.2
  rw [hσ.1] at hroots
  refine ⟨(c.active.map fun l => (l, (Except.ok (x l) : Except LaneFault Srcs))).filterMap fun e =>
    match e.2 with | .ok x => some (e.1, x.av.bits) | .error _ => none, ?_⟩
  show execPub f s = _
  refine issue_ended h (r := fun _ => {}) ?_
  simp only [hr.lanes h, hroots, hne, hfree, Bool.false_eq_true, if_false, List.map_map, List.nil_append]
  rfl

/-- A PUBW whose walk has ended without a fault takes it and completes (R306). -/
theorem pubw_over {w : Walk} (h : Issues s (.pubw f) c) (hr : Reads s c x) (hw : pubwWalk s c.wk c.active = some w) (he : w.ended = true)
    (hf : w.fault = none) : exec (.pubw f) s = .next (Ended (s.dropWalk (wkCore c.wk) w.id) (.pubw f) c fun _ => {}) := by
  have hreads := hr.lanes h
  rw [h.lanes] at hreads
  show execPubw f s = _
  refine issue_ended h (r := fun _ => {}) ?_
  simp only [h.lanes, hreads, hw, he, hf, Bool.not_true, Bool.false_eq_true, if_false]
  rfl

/-- A PUBW without a walk starts one and waits for it (R303). -/
theorem pubw_starts (h : Issues s (.pubw f) c) (hr : Reads s c x) (hw : pubwWalk s c.wk c.active = none)
    (hσ : Turns c s σ fun l a b => rootLane a c.wk l (x l) = (b, some (.ok ()))) (hq : (σ c.active.length).quiescing c.wk = false) :
    exec (.pubw f) s = .next (blockBundle (((σ c.active.length).addWalk (wkCore c.wk) (mkWalk (σ c.active.length) c.wk (c.active.headD 0)
      f.scope.toNat .pubw (rootList (c.active.map fun l => (l, (x l).av.bits))))).escape ((σ c.active.length).warp c.wk).team) c []) := by
  obtain ⟨l, ls, hl⟩ := List.exists_cons_of_ne_nil h.nonempty
  have hroots := rootLanes_turns hσ.2
  rw [hσ.1] at hroots
  have hreads := hr.lanes h
  rw [h.lanes] at hreads
  show execPubw f s = _
  refine issue_blocks h ?_ ((quiescing_addWalk ..).trans hq)
  simp only [h.lanes, hreads, hw, hroots, Bool.false_eq_true, if_false]
  rw [hl]
  rfl

end

/-! ### Visits and widening (R304) -/

/-- An object that is wide enough is skipped. -/
theorem visitAct_wide {w : Walk} {obj : Nat} {s s1 : State} {h : Who} {e p : OcEntry}
    (hf : findPair s h.core (s.team w.team).realm obj false = .ok s1 (some (e, p))) (hv : p.vis ≠ 0) (hw : w.scope.toNat ≤ p.vis) :
    visitAct w obj s h = .ok s1 (some (.ok .skip)) := by
  have hv0 : (p.vis == 0) = false := beq_false_of_ne hv
  simp only [visitAct, hf, Acc.bind_ok, hv, decide_false, Bool.false_and, Bool.false_eq_true, if_false, ne_eq, not_false_eq_true, decide_true,
    hw, Bool.and_self, if_true]

/-- VIS stands in bits 61 and 60 of dword 0 (R18). -/
theorem vis_setBits (w : Word) (ws : List Word) {scope : Nat} (h : scope < 4) (e : OcEntry) :
    OcEntry.vis { e with dws := setBits w 60 2 scope :: ws } = scope := by
  have hx : (setBits w 60 2 scope).extractLsb' 60 2 = BitVec.ofNat 2 scope := by
    refine BitVec.eq_of_getLsbD_eq fun i hi => ?_
    have hmask : (BitVec.ofNat 64 ((2 ^ 2 - 1) <<< 60)).getLsbD (60 + i) = true := by
      interval_cases i <;> rfl
    have hmod : scope % 2 ^ 2 = scope := Nat.mod_eq_of_lt h
    have hbit : (BitVec.ofNat 64 (scope <<< 60)).getLsbD (60 + i) = scope.testBit i := by
      rw [BitVec.getLsbD_ofNat, Nat.testBit_shiftLeft]
      simp only [show 60 + i < 64 by omega, ge_iff_le, Nat.le_add_right, decide_true, Bool.true_and, Nat.add_sub_cancel_left]
    rw [BitVec.getLsbD_extractLsb', setBits, BitVec.getLsbD_or, BitVec.getLsbD_and, BitVec.getLsbD_not, hmask, hmod, hbit, BitVec.getLsbD_ofNat]
    simp only [hi, decide_true, Bool.not_true, Bool.and_false, Bool.false_or]
  have htoNat : bits (setBits w 60 2 scope) 61 60 = ((setBits w 60 2 scope).extractLsb' 60 2).toNat := (BitVec.extractLsb'_toNat ..).symm
  show bits (setBits w 60 2 scope) 61 60 = scope
  rw [htoNat, hx, BitVec.toNat_ofNat]
  exact Nat.mod_eq_of_lt h

/-- Widening sets VIS of every cached entry of the object. -/
theorem widen_sets {s s1 s2 : State} {h : Who} {t : OcEntry} {scope : Nat} {a : Nat × Bool} (hs : scope < 4)
    (ha : entryAddr s h.core t.realm t.obj true = .ok s1 (some a))
    (hw : pocWrite s1 h a.1 (bytesLE 8 (setBits (t.dw 0) 60 2 scope).toNat ++ bytesLE 8 (setBits (t.dw 1) 32 32 (ownAt s scope)).toNat) = .ok s2 ()) :
    ∃ z, widen s h t scope = .ok z () ∧ ∀ e ∈ (z.core h.core).oc, e.realm = t.realm → e.obj = t.obj → e.vis = scope := by
  have hz : widen s h t scope = .ok (s2.modCore h.core fun c => { c with oc := c.oc.map fun (e : OcEntry) =>
      if e.realm = t.realm ∧ e.obj = t.obj then
        { e with dws := setBits (t.dw 0) 60 2 scope :: setBits (t.dw 1) 32 32 (ownAt s scope) :: t.dws.drop 2 }
      else e }) () := by
    simp only [widen, ha, Acc.bind_ok, hw]
  refine ⟨_, hz, fun e he hr ho => ?_⟩
  rw [State.core_modCore_self] at he
  obtain ⟨y, -, rfl⟩ := List.mem_map.1 he
  by_cases hy : y.realm = t.realm ∧ y.obj = t.obj
  · rw [if_pos hy]; exact vis_setBits _ _ hs y
  · rw [if_neg hy] at hr ho; exact absurd ⟨hr, ho⟩ hy

/-! ### The end of a walk (R306) -/

theorem walks_dropWalk (s : State) (core id : Nat) : ∀ x ∈ ((s.dropWalk core id).core core).walks, x.id ≠ id := by
  intro x hx
  rw [State.dropWalk, State.core_modCore_self] at hx
  exact bne_iff_ne.1 (List.mem_filter.1 hx).2

/-- The state in which a PUB's walk has left its walker, and its counter has counted it. -/
def walkLeft (s : State) (core : Nat) (w : Walk) (cv : Bool) (ci : Nat) : State :=
  let s1 := (s.unwait (.walk w.id)).dropWalk core w.id
  if cv then counterDone s1 w.wk ci w.id else s1

/-- The fault of a PUB's walk, left for its warp. -/
def walkFaulted (s : State) (w : Walk) : State :=
  match w.fault with
  | some (l, c, sub) => asyncFault s w.wk ⟨l, c, sub, false, tget w.refs l 0, BitVec.ofNat 40 (offOf (tget w.refs l 0))⟩
  | none => s

theorem execWalkComplete_pub {s : State} {core ci : Nat} {w : Walk} {cv : Bool} (hw : curWalk s core = some w) (hwork : w.work = [])
    (hwhy : w.why = .pub cv ci) : execWalkComplete core s = .next (walkFaulted (walkLeft s core w cv ci) w).wake := by
  simp only [execWalkComplete, hw, hwork, hwhy, List.isEmpty_nil, Bool.not_true, Bool.false_eq_true, if_false]
  rfl

theorem execWalkComplete_other {s : State} {core : Nat} {w : Walk} (hw : curWalk s core = some w) (hwork : w.work = [])
    (hwhy : ∀ cv ci, w.why ≠ .pub cv ci) :
    execWalkComplete core s = .next ((s.unwait (.walk w.id)).modWalk core w.id fun x => { x with ended := true }).wake := by
  simp only [execWalkComplete, hw, hwork, List.isEmpty_nil, Bool.not_true, Bool.false_eq_true, if_false]

theorem walkLeft_asyncs (s : State) (core : Nat) (w : Walk) (cv : Bool) (ci : Nat) :
    ((walkLeft s core w cv ci).warp w.wk).asyncs = (s.warp w.wk).asyncs := by
  unfold walkLeft
  split
  · rw [counterDone, State.warp_modWarp, if_pos rfl]; rfl
  · rfl

theorem walkFaulted_cores (s : State) (w : Walk) : (walkFaulted s w).cores = s.cores := by
  unfold walkFaulted; split <;> rfl

theorem walkLeft_gone (s : State) (core : Nat) (w : Walk) (cv : Bool) (ci : Nat) : ∀ x ∈ ((walkLeft s core w cv ci).core core).walks, x.id ≠ w.id := by
  unfold walkLeft
  split <;> exact walks_dropWalk _ core w.id

end Sys2Proof.Machine

open Sys2Proof Sys2Proof.Machine

/-- Settles O40: the roots pass in their lanes' turn and make one walk; a visit and the end of a walk change that walk alone. -/
theorem publishResults : Obligations.PublishResults := by
  unfold Obligations.PublishResults
  intro roots
  refine ⟨fun f s c x σ h hr hσ => ?_, fun f s c x w h hr hw he hf => pubw_over h hr hw he hf,
    fun f s c x σ h hr hw hσ hq => pubw_starts h hr hw hσ hq, fun l w r => ⟨rootList_pairwise r, rfl⟩, fun s core w obj lane rest s1 v hw hwork hrun => ?_,
    fun w found => ⟨nodup_newEntries w found, fun o => mem_newEntries⟩, fun w obj s h s1 e p hf hv hw => visitAct_wide hf hv hw,
    fun s h t scope s1 a s2 hs ha hw => widen_sets hs ha hw, fun s core w cv ci hw hwork hwhy => ?_, fun s core w hw hwork hwhy => ?_⟩
  · intro z hcv
    obtain ⟨named, hexec⟩ := pub_hands_over h hr hσ hcv
    have hcore := congrFun (obs_published (f := f) (c := c) (x := x) (obs := State.core) (fun _ _ _ => rfl) named z) (wkCore c.wk)
    have hteam := congrFun (obs_published (f := f) (c := c) (x := x) (obs := State.team) (fun _ _ _ => rfl) named z) (z.warp c.wk).team
    refine ⟨_, pubWalk f c x named z, hexec, by rw [hcore, walks_addWalk], rfl, BitVec.toNat_ofNat .., rfl, rfl, rfl, ?_, fun hc => ?_, ?_⟩
    · rw [hteam, State.escape, State.team_modTeam_self]
    · rw [published, hc, if_pos rfl, counter_counterIssue]
      rfl
    · exact obs_published (obs := State.hbm) (fun _ _ _ => rfl) named z
  · show execWalkVisit core s = _
    simp only [execWalkVisit, hw, hwork, hrun]
    cases v <;> rfl
  · refine ⟨_, execWalkComplete_pub hw hwork hwhy, fun x hx => ?_, ?_⟩
    · refine walkLeft_gone s core w cv ci x ?_
      rwa [State.core, ← walkFaulted_cores (walkLeft s core w cv ci) w]
    · show ((walkFaulted (walkLeft s core w cv ci) w).warp w.wk).asyncs = _
      rw [← walkLeft_asyncs s core w cv ci]
      unfold walkFaulted
      cases w.fault with
      | none => exact (List.append_nil _).symm
      | some e => exact congrArg Warp.asyncs ((State.warp_modWarp ..).trans (if_pos rfl))
  · refine ⟨_, execWalkComplete_other hw hwork hwhy, fun x hx hid => ?_⟩
    have hx' : x ∈ (((s.unwait (.walk w.id)).modWalk core w.id fun x => { x with ended := true }).core core).walks := hx
    rw [State.modWalk, State.core_modCore_self] at hx'
    obtain ⟨y, -, rfl⟩ := List.mem_map.1 hx'
    split at hid
    · next hy => rw [if_pos hy]
    · next hy => exact absurd hid hy
end

section
/-! ## Taking a trap (R367–R374) -/

namespace Sys2Proof.Machine

/-! ### Lanes that change once each -/

/-- Lanes that change one after another, each once: what a lane is afterwards. -/
theorem lane_foldl_modLane_each (wk : Nat) (g : Nat → Lane → Lane) {k m : Nat} (hm : m < 32) : ∀ (ls : List Nat) (s : State), ls.Nodup → (∀ l ∈ ls, l < 32) →
    (ls.foldl (fun st l => st.modLane wk l (g l)) s).lane k m = if k = wk ∧ m ∈ ls then g m (s.lane wk m) else s.lane k m
  | [], s, _, _ => by simp
  | l :: ls, s, hn, h32 => by
    rw [List.nodup_cons] at hn
    have hl := h32 l List.mem_cons_self
    rw [List.foldl_cons, lane_foldl_modLane_each wk g hm ls _ hn.2 fun x hx => h32 x (List.mem_cons_of_mem _ hx)]
    by_cases hk : k = wk
    · subst hk
      by_cases hml : m = l
      · subst hml; simp [hn.1]
      · have hne : ¬ lkOf k l = lkOf k m := fun h => hml ((lkOf_inj hl hm).1 h).2.symm
        simp [State.lane_modLane, hne, hml]
    · have hne : ¬ lkOf wk l = lkOf k m := fun h => hk ((lkOf_inj hl hm).1 h).1.symm
      simp [State.lane_modLane, hne, hk]

/-- A lane stopped at an instruction. -/
def Lane.parkedAt (ln : Lane) (hdr : Pc) (idx : Nat) (waiting : Bool) : Lane := { ln with pc := hdr, cix := idx, st := .parked waiting }

theorem lane_parkLanes (s : State) (wk : Nat) {k m : Nat} (hm : m < 32) {ls : List Nat} (hn : ls.Nodup) (h32 : ∀ l ∈ ls, l < 32) (hdr : Pc)
    (idx : Nat) (w : Bool) : (parkLanes s wk ls hdr idx w).lane k m =
      if k = wk ∧ m ∈ ls then (s.lane wk m).parkedAt hdr idx w else s.lane k m :=
  lane_foldl_modLane_each wk (fun _ ln => ln.parkedAt hdr idx w) hm ls s hn h32

/-- Lanes that all stop, some of them waiting. -/
theorem lane_parkLanes_waiting (s : State) (wk : Nat) {k m : Nat} (hm : m < 32) {ls rest : List Nat} (hsub : rest.Sublist ls) (hn : ls.Nodup)
    (h32 : ∀ l ∈ ls, l < 32) (hdr : Pc) (idx : Nat) : (parkLanes (parkLanes s wk ls hdr idx false) wk rest hdr idx true).lane k m =
      if k = wk ∧ m ∈ rest then (s.lane wk m).parkedAt hdr idx true
      else if k = wk ∧ m ∈ ls then (s.lane wk m).parkedAt hdr idx false else s.lane k m := by
  rw [lane_parkLanes _ wk hm (hn.sublist hsub) (fun l hl => h32 l (hsub.subset hl)), lane_parkLanes s wk hm hn h32,
    lane_parkLanes s wk hm hn h32]
  split
  · next h => rw [if_pos ⟨rfl, hsub.subset h.2⟩]; rfl
  · rfl

theorem warps_parkLanes (s : State) (wk : Nat) (ls : List Nat) (hdr : Pc) (idx : Nat) (w : Bool) : (parkLanes s wk ls hdr idx w).warps = s.warps :=
  obs_parkLanes (obs := State.warps) (fun _ _ _ => rfl) ..

theorem world_parkLanes (s : State) (wk : Nat) (ls : List Nat) (hdr : Pc) (idx : Nat) (w : Bool) : (parkLanes s wk ls hdr idx w).world = s.world :=
  obs_parkLanes (obs := State.world) (fun _ _ _ => rfl) ..

/-! ### A trap that is taken (R367, R369, R374) -/

/-- A lane whose trap is taken: its resume point is set, and it stops, or stands at the handler's header with all else kept. -/
def Lane.trapped (ln : Lane) (t : TrapAt) (park : Bool) (handler : Pc) : Lane :=
  let r := { ln with rpc := t.resume, rix := BitVec.ofNat 4 t.rix }
  if park then { r with st := .parked false } else { r with h := true, pv := false, pc := handler, cix := 0, st := .run }

section
variable (s : State) (wk : Nat) (ls : List Nat) (c : Cause) (sub : Byte) (t : TrapAt) (async pk : Bool) (clane : Nat) (usrc udat : BitVec 32)
  (ents : Tab TrapLane) (park : Bool)

/-- The frame that a trap records: that of its lowest lane (R371). -/
def trapFid (s : State) (wk : Nat) (ls : List Nat) : Nat := match ls with | [] => 0 | l :: _ => (s.frameOf wk l).fid

/-- The state in which the record of a trap stands and its lanes have their resume points. -/
def recorded : State := releaseLatch (ls.foldl (fun st l => st.modLane wk l fun ln => { ln with rpc := t.resume, rix := BitVec.ofNat 4 t.rix })
  (writeRecord s wk (maskOf ls) c sub t (trapFid s wk ls) async pk clane usrc udat ents)) wk

theorem takeTrap_eq : takeTrap s wk ls c sub t async pk clane usrc udat ents park =
    let r := recorded s wk ls c sub t async pk clane usrc udat ents
    if park then startPark (ls.foldl (fun st l => st.modLane wk l fun ln => { ln with st := .parked false }) r) wk
    else enterHandler r wk ls c false := rfl

theorem warp_recorded : (recorded s wk ls c sub t async pk clane usrc udat ents).warp wk =
    (writeRecord s wk (maskOf ls) c sub t (trapFid s wk ls) async pk clane usrc udat ents).warp wk :=
  foldl_unobserved _ (fun st : State => st.warp wk) _ fun _ _ _ => rfl

theorem lane_recorded {k m : Nat} (hm : m < 32) (hn : ls.Nodup) (h32 : ∀ l ∈ ls, l < 32) :
    (recorded s wk ls c sub t async pk clane usrc udat ents).lane k m =
      if k = wk ∧ m ∈ ls then { s.lane wk m with rpc := t.resume, rix := BitVec.ofNat 4 t.rix } else s.lane k m :=
  lane_foldl_modLane_each wk (fun _ ln => { ln with rpc := t.resume, rix := BitVec.ofNat 4 t.rix }) hm ls _ hn h32

theorem lane_takeTrap {k m : Nat} (hm : m < 32) (hn : ls.Nodup) (h32 : ∀ l ∈ ls, l < 32) :
    (takeTrap s wk ls c sub t async pk clane usrc udat ents park).lane k m =
      if k = wk ∧ m ∈ ls then (s.lane wk m).trapped t park (handlerPc (s.warp wk).hbase c) else s.lane k m := by
  have hrec := fun k => lane_recorded s wk ls c sub t async pk clane usrc udat ents (k := k) hm hn h32
  have hbase : ((recorded s wk ls c sub t async pk clane usrc udat ents).warp wk).hbase = (s.warp wk).hbase := by
    rw [warp_recorded, writeRecord, State.warp_modWarp_self]
  rw [takeTrap_eq]
  cases park with
  | true =>
    refine (lane_foldl_modLane_each wk (fun _ ln => { ln with st := .parked false }) hm ls _ hn h32).trans ?_
    rw [hrec, hrec]
    split
    · next h => rw [if_pos ⟨rfl, h.2⟩]; rfl
    · rfl
  | false =>
    refine (lane_foldl_modLane_each wk (fun _ ln => { ln with h := true, pv := false, pc := handlerPc _ c, cix := 0, st := .run }) hm ls _ hn h32).trans ?_
    rw [hrec, hrec, hbase]
    split
    · next h => rw [if_pos ⟨rfl, h.2⟩]; rfl
    · rfl

theorem warp_takeTrap : (takeTrap s wk ls c sub t async pk clane usrc udat ents park).warp wk =
    { (writeRecord s wk (maskOf ls) c sub t (trapFid s wk ls) async pk clane usrc udat ents).warp wk with
      parking := park || (s.warp wk).parking } := by
  have hfold : ∀ (g : Nat → Lane → Lane) (st : State), ((ls.foldl (fun st l => st.modLane wk l (g l)) st).warp wk) = st.warp wk := fun g st =>
    foldl_unobserved _ (fun st : State => st.warp wk) st fun _ _ _ => rfl
  have hpark : (writeRecord s wk (maskOf ls) c sub t (trapFid s wk ls) async pk clane usrc udat ents).warp wk = 
      { (writeRecord s wk (maskOf ls) c sub t (trapFid s wk ls) async pk clane usrc udat ents).warp wk with parking := (s.warp wk).parking } := by
    rw [writeRecord, State.warp_modWarp_self]
  rw [takeTrap_eq]
  cases park with
  | true =>
    rw [if_pos rfl, startPark, State.warp_modWarp_self, hfold fun _ ln => { ln with st := .parked false }, warp_recorded]
    rfl
  | false =>
    refine (hfold (fun _ ln => { ln with h := true, pv := false, pc := handlerPc _ c, cix := 0, st := .run }) _).trans ?_
    rw [warp_recorded, hpark]
    rfl

end

/-! ### The lanes of a fault outside a handler (R369) -/

/-- The faults of the first one's cause and sub-cause. -/
def alike (f0 : LaneFault) (es : List (Nat × LaneFault)) : List (Nat × LaneFault) := es.filter fun e => e.2.cause == f0.cause && e.2.sub == f0.sub

/-- The faults of another cause or sub-cause. -/
def unlike (f0 : LaneFault) (es : List (Nat × LaneFault)) : List (Nat × LaneFault) :=
  es.filter fun e => !(e.2.cause == f0.cause && e.2.sub == f0.sub)

/-- The state in which a trap is taken: every faulting lane has stopped, and those of another kind wait. -/
def stopped (s : State) (wk : Nat) (t : TrapAt) (f0 : LaneFault) (es : List (Nat × LaneFault)) : State :=
  parkLanes (parkLanes s wk (es.map (·.1)) t.hdr t.idx false) wk ((unlike f0 es).map (·.1)) t.hdr t.idx true

/-- The lowest lane of a fault is the lowest of those of its kind. -/
theorem lowest_alike (l0 : Nat) (f0 : LaneFault) (fs : List (Nat × LaneFault)) : ∃ ls, (alike f0 ((l0, f0) :: fs)).map (·.1) = l0 :: ls := by
  rw [alike, List.filter_cons_of_pos (by simp)]
  exact ⟨_, rfl⟩

theorem warps_stopped (s : State) (wk : Nat) (t : TrapAt) (f0 : LaneFault) (es : List (Nat × LaneFault)) :
    (stopped s wk t f0 es).warps = s.warps := by rw [stopped, warps_parkLanes, warps_parkLanes]

section
variable {s : State} {wk : Nat} (t : TrapAt) {l0 : Nat} {f0 : LaneFault} {fs : List (Nat × LaneFault)}
  (hlt : ((l0, f0) :: fs).Pairwise (fun a b => a.1 < b.1))
  (hall : ∀ e ∈ (l0, f0) :: fs, e.1 < 32 ∧ (s.lane wk e.1).h = false)
  (hv : (s.warp wk).trec.v = false)

include hall hv in
theorem faultLanes_outside : faultLanes s wk t ((l0, f0) :: fs) false =
    takeTrap (stopped s wk t f0 ((l0, f0) :: fs)) wk ((alike f0 ((l0, f0) :: fs)).map (·.1)) f0.cause f0.sub t false false 0 0 0
      ((alike f0 ((l0, f0) :: fs)).map fun x => (x.1, trapLane x.2)) f0.cause.parks := by
  have hin : ((l0, f0) :: fs).filter (fun e => (s.lane wk e.1).h) = [] := List.filter_eq_nil_iff.2 fun e he => by simp [(hall e he).2]
  have hout : ((l0, f0) :: fs).filter (fun e => !(s.lane wk e.1).h) = (l0, f0) :: fs :=
    List.filter_eq_self.2 fun e he => by simp [(hall e he).2]
  have hv1 : ((parkLanes s wk (((l0, f0) :: fs).map (·.1)) t.hdr t.idx false).warp wk).trec.v = false := by
    rw [State.warp, warps_parkLanes]; exact hv
  rw [faultLanes_eq, hin, hout]
  simp only [nestFirst, takeFirst, Bool.or_false]
  exact (if_neg (by rw [hv1]; decide)).trans rfl

include hlt in
/-- Each lane faults once. -/
theorem fault_unique {a b : Nat × LaneFault} (ha : a ∈ (l0, f0) :: fs) (hb : b ∈ (l0, f0) :: fs) (h : a.1 = b.1) : a = b :=
  List.inj_on_of_nodup_map ((List.pairwise_map.2 hlt).imp Nat.ne_of_lt) ha hb h

include hlt hall in
theorem lane_stopped {k m : Nat} (hm : m < 32) : (stopped s wk t f0 ((l0, f0) :: fs)).lane k m =
    if k = wk ∧ m ∈ (unlike f0 ((l0, f0) :: fs)).map (·.1) then (s.lane wk m).parkedAt t.hdr t.idx true
    else if k = wk ∧ m ∈ ((l0, f0) :: fs).map (·.1) then (s.lane wk m).parkedAt t.hdr t.idx false else s.lane k m :=
  lane_parkLanes_waiting s wk hm (List.filter_sublist.map _) ((List.pairwise_map.2 hlt).imp Nat.ne_of_lt)
    (List.forall_mem_map.2 fun e he => (hall e he).1) t.hdr t.idx

include hlt hall in
/-- The trap records the frame that its lowest lane stands in. -/
theorem trapFid_stopped : trapFid (stopped s wk t f0 ((l0, f0) :: fs)) wk ((alike f0 ((l0, f0) :: fs)).map (·.1)) = (s.frameOf wk l0).fid := by
  obtain ⟨ls, hls⟩ := lowest_alike l0 f0 fs
  have hframe : ((stopped s wk t f0 ((l0, f0) :: fs)).lane wk l0).frame = (s.lane wk l0).frame := by
    rw [lane_stopped t hlt hall (hall _ List.mem_cons_self).1]
    split
    · rfl
    · rw [if_pos ⟨rfl, List.mem_cons_self⟩]; rfl
  rw [hls, trapFid, State.frameOf, State.frameOf, hframe, State.frame, State.frame, stopped, frames_parkLanes, frames_parkLanes]

include hlt hall hv

/-- What a warp holds after a trap of lanes outside a handler (R371). -/
theorem warp_faultLanes_outside : (faultLanes s wk t ((l0, f0) :: fs) false).warp wk =
    { s.warp wk with
      trec := { v := true, async := false, nest := false, pk := false, cause := f0.cause.code, sub := f0.sub, opc := t.opc
                lmask := maskOf ((alike f0 ((l0, f0) :: fs)).map (·.1)), hdr := t.hdr.word, idx := BitVec.ofNat 4 t.idx, clane := BitVec.ofNat 5 0
                fid := BitVec.ofNat 9 (s.frameOf wk l0).fid, usrc := 0, udat := 0 }
      tlanes := (alike f0 ((l0, f0) :: fs)).map fun x => (x.1, trapLane x.2)
      parking := f0.cause.parks || (s.warp wk).parking } := by
  have hw : (stopped s wk t f0 ((l0, f0) :: fs)).warp wk = s.warp wk := by rw [State.warp, warps_stopped]; rfl
  rw [faultLanes_outside t hall hv, warp_takeTrap, writeRecord, State.warp_modWarp_self, hw, trapFid_stopped t hlt hall]

theorem lane_faultLanes_outside {k m : Nat} (hm : m < 32) : (faultLanes s wk t ((l0, f0) :: fs) false).lane k m =
    if k = wk ∧ m ∈ (alike f0 ((l0, f0) :: fs)).map (·.1) then
      ((stopped s wk t f0 ((l0, f0) :: fs)).lane wk m).trapped t f0.cause.parks (handlerPc (s.warp wk).hbase f0.cause)
    else (stopped s wk t f0 ((l0, f0) :: fs)).lane k m := by
  have hw : (stopped s wk t f0 ((l0, f0) :: fs)).warp wk = s.warp wk := by rw [State.warp, warps_stopped]; rfl
  have hsub : ((alike f0 ((l0, f0) :: fs)).map (·.1)).Sublist (((l0, f0) :: fs).map (·.1)) := List.filter_sublist.map _
  have h32 : ∀ l ∈ ((l0, f0) :: fs).map (·.1), l < 32 := List.forall_mem_map.2 fun e he => (hall e he).1
  rw [faultLanes_outside t hall hv, lane_takeTrap (hm := hm)
    (hn := ((List.pairwise_map.2 hlt).imp Nat.ne_of_lt).sublist hsub) (h32 := fun l hl => h32 l (hsub.subset hl)), hw]

/-- A lane of the first fault's kind is trapped. -/
theorem lane_faultLanes_alike {e : Nat × LaneFault} (he : e ∈ alike f0 ((l0, f0) :: fs)) :
    (faultLanes s wk t ((l0, f0) :: fs) false).lane wk e.1 =
      ((s.lane wk e.1).parkedAt t.hdr t.idx false).trapped t f0.cause.parks (handlerPc (s.warp wk).hbase f0.cause) := by
  obtain ⟨hin, hkind⟩ := List.mem_filter.1 he
  have hnu : e.1 ∉ (unlike f0 ((l0, f0) :: fs)).map (·.1) := fun hu => by
    obtain ⟨e', he', heq⟩ := List.mem_map.1 hu
    obtain ⟨hin', hkind'⟩ := List.mem_filter.1 he'
    rw [fault_unique hlt hin' hin heq, hkind] at hkind'
    exact absurd hkind' (by decide)
  rw [lane_faultLanes_outside t hlt hall hv (hall e hin).1, if_pos ⟨rfl, List.mem_map_of_mem he⟩, lane_stopped t hlt hall (hall e hin).1,
    if_neg fun h => hnu h.2, if_pos ⟨rfl, List.mem_map_of_mem hin⟩]

/-- A lane of another kind waits at its instruction (R370). -/
theorem lane_faultLanes_unlike {e : Nat × LaneFault} (he : e ∈ (l0, f0) :: fs) (hn : e ∉ alike f0 ((l0, f0) :: fs)) :
    (faultLanes s wk t ((l0, f0) :: fs) false).lane wk e.1 = (s.lane wk e.1).parkedAt t.hdr t.idx true := by
  have hna : e.1 ∉ (alike f0 ((l0, f0) :: fs)).map (·.1) := fun h => by
    obtain ⟨e', he', heq⟩ := List.mem_map.1 h
    exact hn (fault_unique hlt (List.mem_filter.1 he').1 he heq ▸ he')
  have hu : e ∈ unlike f0 ((l0, f0) :: fs) := List.mem_filter.2 ⟨he, by
    rw [Bool.not_eq_true']
    exact Bool.eq_false_iff.2 fun h => hn (List.mem_filter.2 ⟨he, h⟩)⟩
  rw [lane_faultLanes_outside t hlt hall hv (hall e he).1, if_neg fun h => hna h.2, lane_stopped t hlt hall (hall e he).1,
    if_pos ⟨rfl, List.mem_map_of_mem hu⟩]

/-- A lane that does not fault stays as it is. -/
theorem lane_faultLanes_other {k m : Nat} (hm : m < 32) (hne : k ≠ wk ∨ m ∉ ((l0, f0) :: fs).map (·.1)) :
    (faultLanes s wk t ((l0, f0) :: fs) false).lane k m = s.lane k m := by
  have hout : ∀ ls : List Nat, ls.Sublist (((l0, f0) :: fs).map (·.1)) → ¬ (k = wk ∧ m ∈ ls) := fun ls hls h =>
    hne.elim (fun hk => hk h.1) fun hn => hn (hls.subset h.2)
  rw [lane_faultLanes_outside t hlt hall hv hm, if_neg (hout (List.map (·.1) (alike f0 ((l0, f0) :: fs))) (List.filter_sublist.map _)), lane_stopped t hlt hall hm,
    if_neg (hout (List.map (·.1) (unlike f0 ((l0, f0) :: fs))) (List.filter_sublist.map _)), if_neg (hout _ (List.Sublist.refl _))]

end

/-! ### A lane that faults in a handler, or while V is 1 (R370, R372) -/

section
variable {s : State} {wk l : Nat} (t : TrapAt) (f : LaneFault)

/-- A lane that faults in a handler stops, and the warp parks with NEST. -/
theorem faultLanes_inside (hh : (s.lane wk l).h = true) :
    faultLanes s wk t [(l, f)] false = nestTrap (parkLanes s wk [l] t.hdr t.idx false) wk f.cause f.sub t := by
  rw [faultLanes_eq, show [(l, f)].filter (fun e => !(s.lane wk e.1).h) = [] by simp [hh],
    show [(l, f)].filter (fun e => (s.lane wk e.1).h) = [(l, f)] by simp [hh]]
  rfl

/-- A lane that faults while V is 1 waits at its instruction. -/
theorem faultLanes_waiting (hh : (s.lane wk l).h = false) (hv : (s.warp wk).trec.v = true) :
    faultLanes s wk t [(l, f)] false = parkLanes (parkLanes s wk [l] t.hdr t.idx false) wk [l] t.hdr t.idx true := by
  rw [faultLanes_eq, show [(l, f)].filter (fun e => !(s.lane wk e.1).h) = [(l, f)] by simp [hh],
    show [(l, f)].filter (fun e => (s.lane wk e.1).h) = [] by simp [hh]]
  exact if_pos hv

end

theorem warp_nestTrap (s : State) (wk : Nat) (c : Cause) (sub : Byte) (t : TrapAt) : (nestTrap s wk c sub t).warp wk =
    { s.warp wk with
      parking := true
      trec := { (s.warp wk).trec with nest := true, ncause := c.code, nsub := sub, nidx := BitVec.ofNat 4 t.idx, nhdr := t.hdr.word } } := by
  have hwarp : ∀ st : State, (releaseLatch st wk).warp wk = st.warp wk := fun _ => rfl
  rw [nestTrap, startPark, State.warp_modWarp_self, hwarp, State.warp_modWarp_self]

theorem lane_nestTrap (s : State) (wk : Nat) (c : Cause) (sub : Byte) (t : TrapAt) (k l : Nat) :
    (nestTrap s wk c sub t).lane k l = s.lane k l := rfl

end Sys2Proof.Machine

open Sys2Proof Sys2Proof.Machine

/-- Settles O19: the lanes of a fault change once each, those of the first fault's kind with the trap and the others as they wait; a lane
that faults in a handler, or while V is 1, stops where it stands. -/
theorem trapEntry : Obligations.TrapEntry := by
  unfold Obligations.TrapEntry
  constructor
  · intro s wk t l0 f0 fs hlt hall hv z same r
    have hwarp : z.warp wk = _ := warp_faultLanes_outside t hlt hall hv
    have hr : r = _ := congrArg Warp.trec hwarp
    have hhbm : z.hbm = s.hbm := obs_faultLanes (obs := State.hbm) (fun _ _ _ => rfl) (fun _ _ => rfl) (fun _ _ _ => rfl) ..
    rw [hr, hwarp]
    refine ⟨rfl, rfl, rfl, rfl, rfl, rfl, rfl, rfl, rfl, rfl, rfl, rfl, hhbm, fun e he => ?_, fun e he hns => ?_,
      fun k l hl hne => lane_faultLanes_other t hlt hall hv hl hne⟩
    · have hb : z.lane wk e.1 = _ := lane_faultLanes_alike t hlt hall hv he
      have hh : (s.lane wk e.1).h = false := (hall e (List.mem_filter.1 he).1).2
      rw [hb]
      unfold Lane.trapped
      cases f0.cause.parks with
      | true => exact ⟨rfl, rfl, rfl, rfl, rfl, rfl, rfl, fun _ => ⟨rfl, hh, rfl⟩, nofun⟩
      | false => exact ⟨rfl, rfl, rfl, rfl, rfl, rfl, rfl, nofun, fun _ => ⟨rfl, rfl, rfl, rfl, rfl⟩⟩
    · have hb : z.lane wk e.1 = _ := lane_faultLanes_unlike t hlt hall hv he hns
      rw [hb]
      exact ⟨rfl, rfl, rfl⟩
  · intro s wk t l f hl z r
    have hone := fun (s : State) w => (lane_parkLanes s wk (k := wk) hl (List.nodup_singleton l) (by simpa using hl) t.hdr t.idx w).trans
      (if_pos ⟨rfl, List.mem_cons_self⟩)
    refine ⟨fun hh => ?_, fun hh hv => ?_⟩
    · have hz : z = nestTrap (parkLanes s wk [l] t.hdr t.idx false) wk f.cause f.sub t := faultLanes_inside t f hh
      have hw : (parkLanes s wk [l] t.hdr t.idx false).warp wk = s.warp wk := by rw [State.warp, warps_parkLanes]; rfl
      rw [hz, warp_nestTrap, lane_nestTrap, hone, hw]
      exact ⟨rfl, rfl, rfl⟩
    · have hz : z = parkLanes (parkLanes s wk [l] t.hdr t.idx false) wk [l] t.hdr t.idx true := faultLanes_waiting t f hh hv
      rw [hz, hone, hone, warps_parkLanes, warps_parkLanes, world_parkLanes, world_parkLanes]
      exact ⟨rfl, rfl, rfl⟩
end

section
/-! ## The matrix engine (R270–R286) -/

namespace Sys2Proof.Machine

/-! ### Bodies -/

/-- What an instruction answers depends on its body in its own state and context alone. -/
theorem issue_congr {s : State} {i : Instr} {c : Ctx} (h : Issues s i c) {b1 b2 : Body} (hb : b1 s c = b2 s c) : issue s i b1 = issue s i b2 := by
  rw [issue_body h, issue_body h, hb]

/-- Lanes that act one after another while an invariant stands. -/
theorem turns_folded {c : Ctx} {s : State} {g : State → Nat → State} {R : Nat → State → State → Prop} (P : State → Prop) (h0 : P s)
    (hP : ∀ a l, P a → P (g a l)) (hR : ∀ a, P a → ∀ l ∈ c.active, R l a (g a l)) : Turns c s (fun k => (c.active.take k).foldl g s) R := by
  refine ⟨rfl, fun k l hk => ?_⟩
  have hinv : ∀ (ls : List Nat) a, P a → P (ls.foldl g a) := fun ls => by
    induction ls with
    | nil => exact fun _ h => h
    | cons x r ih => exact fun a h => ih _ (hP a x h)
  have hnext : c.active.take (k + 1) = c.active.take k ++ [l] := by rw [List.take_add_one, hk]; rfl
  show R l ((c.active.take k).foldl g s) ((c.active.take (k + 1)).foldl g s)
  rw [hnext, List.foldl_append]
  exact hR _ (hinv _ s h0) l (List.mem_of_getElem? hk)

/-- What a body whose lanes act one after another leaves. -/
theorem seqBody_turns {s : State} {i : Instr} {c : Ctx} {x : Nat → Srcs} (h : Issues s i c) (hr : Reads s c x)
    {f : State → Ctx → Nat → Srcs → State × Option LaneOut} {σ : Nat → State} {r : Nat → LaneOut}
    (hσ : Turns c s σ fun l a b => f a c l (x l) = (b, some (r l))) :
    seqBody f s c = (σ c.active.length, c.active.map fun l => (l, r l)) := by
  simp only [seqBody, hr.lanes h]
  have := foldl_turns (c := c) (x := x) (f := f) (r := r) c.active s σ [] hσ.1 hσ.2
  rw [List.nil_append] at this
  exact this

theorem getD_map_upto {α : Type} (f : Nat → α) {n k : Nat} (h : k < n) (d : α) : ((upto n).map f).getD k d = f k := by
  simp [upto, List.getD_eq_getElem?_getD, h]

/-! ### Elements of a tile (R270) -/

theorem tileKey_inj {b tile r r' k k' : Nat} (hk : k < 32) (hk' : k' < 32) : tileKey b tile r k = tileKey b tile r' k' ↔ r = r' ∧ k = k' := by
  unfold tileKey; omega

theorem Team.tileEl_setTileEl (t : Team) (b tile : Nat) {r r' k k' : Nat} (v : BitVec 32) (hk : k < 32) (hk' : k' < 32) :
    (t.setTileEl b tile r k v).tileEl b tile r' k' = if r = r' ∧ k = k' then v else t.tileEl b tile r' k' := by
  simp only [Team.tileEl, Team.setTileEl, tget, tfind_tset, tileKey_inj hk hk']
  split <;> rfl

/-- A row that is written from a column on. -/
theorem Team.tileEl_setTileRow {b tile r l k : Nat} (hk : k < 32) : ∀ (vs : List (BitVec 32)) (t : Team) (c0 : Nat), c0 + vs.length ≤ 32 →
    (t.setTileRow b tile r c0 vs).tileEl b tile l k =
      if l = r ∧ c0 ≤ k ∧ k < c0 + vs.length then vs.getD (k - c0) 0 else t.tileEl b tile l k
  | [], t, c0, _ => by rw [if_neg (by simp only [List.length_nil]; omega)]; rfl
  | v :: vs, t, c0, hlen => by
    rw [List.length_cons] at hlen ⊢
    rw [Team.setTileRow, Team.tileEl_setTileRow hk vs _ _ (by omega), Team.tileEl_setTileEl t b tile v (by omega) hk]
    by_cases hkc : k = c0
    · subst hkc
      rw [if_neg (by omega)]
      by_cases hl : l = r
      · rw [if_pos ⟨hl.symm, rfl⟩, if_pos (by omega), Nat.sub_self]; rfl
      · rw [if_neg (by omega), if_neg (by omega)]
    · by_cases hin : l = r ∧ c0 + 1 ≤ k ∧ k < c0 + 1 + vs.length
      · rw [if_pos hin, if_pos (by omega), show k - c0 = k - (c0 + 1) + 1 by omega]; rfl
      · rw [if_neg hin, if_neg (by omega), if_neg (by omega)]

section
variable {α : Type} (key : α → Nat) (vals : α → List (BitVec 32)) (b tile c0 : Nat)

/-- Rows that are written one after another, each by an entry of its own. -/
def setRows (es : List α) (t : Team) : Team := es.foldl (fun u e => u.setTileRow b tile (key e) c0 (vals e)) t

variable {k : Nat} (hk : k < 32)
include hk

theorem tileEl_setRows_other {l : Nat} {es : List α} (hlen : ∀ e ∈ es, c0 + (vals e).length ≤ 32) (t : Team) (hl : l ∉ es.map key) :
    (setRows key vals b tile c0 es t).tileEl b tile l k = t.tileEl b tile l k :=
  foldl_unobserved _ (fun u : Team => u.tileEl b tile l k) t fun u e he => by
    rw [Team.tileEl_setTileRow hk _ _ _ (hlen e he), if_neg fun (h : l = key e ∧ _) => hl (h.1 ▸ List.mem_map_of_mem he)]

theorem tileEl_setRows {e : α} : ∀ {es : List α}, (∀ e ∈ es, c0 + (vals e).length ≤ 32) → ∀ (t : Team), e ∈ es → (es.map key).Nodup →
    (setRows key vals b tile c0 es t).tileEl b tile (key e) k =
      if c0 ≤ k ∧ k < c0 + (vals e).length then (vals e).getD (k - c0) 0 else t.tileEl b tile (key e) k
  | [], _, _, he, _ => absurd he List.not_mem_nil
  | e' :: es, hlen, t, he, hn => by
    rw [List.map_cons, List.nodup_cons] at hn
    have htail : ∀ e ∈ es, c0 + (vals e).length ≤ 32 := fun e he => hlen e (List.mem_cons_of_mem e' he)
    have hhead := hlen e' List.mem_cons_self
    show (setRows key vals b tile c0 es (t.setTileRow b tile (key e') c0 (vals e'))).tileEl b tile (key e) k = _
    rcases List.mem_cons.1 he with rfl | hr
    · rw [tileEl_setRows_other key vals b tile c0 hk htail _ hn.1, Team.tileEl_setTileRow hk _ _ _ hhead]
      exact if_congr (and_iff_right rfl) rfl rfl
    · have hne : key e ≠ key e' := fun h => hn.1 (h ▸ List.mem_map_of_mem hr)
      rw [tileEl_setRows htail _ hr hn.2, Team.tileEl_setTileRow hk _ _ _ hhead, if_neg fun (h : key e = key e' ∧ _) => hne h.1]

end

/-! ### Bank queues (R277, R278) -/

theorem State.bankQ_bankEnter (s : State) (core bank : Nat) (j : MxJob) : (s.bankEnter core bank j).bankQ core bank = s.bankQ core bank ++ [j] := by
  rw [State.bankEnter, State.bankQ, State.core_modCore_self, tget_tput_self]; rfl

/-- Lost cycles are counted in a warp, if any. -/
theorem addConf_cases (s : State) (wk n : Nat) (os : List Nat) :
    addConf s wk n os = s ∨ ∃ k, addConf s wk n os = s.modWarp wk fun w => { w with bankc := w.bankc + BitVec.ofNat 48 k } := by
  unfold addConf
  dsimp only
  split
  · exact .inl rfl
  · exact .inr ⟨_, rfl⟩

theorem bankLeave_cases (s : State) (core bank : Nat) (j : MxJob) : ∃ z : State, (bankLeave s core bank j = z ∨ bankLeave s core bank j = counterDone z j.wk j.ci j.id)
    ∧ z = s.modCore core fun c => { c with mxq := tput c.mxq bank ((tget c.mxq bank []).drop 1) [] } := by
  refine ⟨_, ?_, rfl⟩
  unfold bankLeave
  dsimp only
  split
  · exact .inr rfl
  · exact .inl rfl

/-- The head of a bank queue leaves it, and nothing else but a counter changes. -/
theorem bankLeave_head {s : State} {core bank : Nat} {j : MxJob} {r : List MxJob} (hq : s.bankQ core bank = j :: r) :
    (bankLeave s core bank j).bankQ core bank = r ∧ (bankLeave s core bank j).hbm = s.hbm ∧ (bankLeave s core bank j).lanes = s.lanes
      ∧ (bankLeave s core bank j).teams = s.teams := by
  obtain ⟨z, hz, rfl⟩ := bankLeave_cases s core bank j
  have hr : (s.modCore core fun c => { c with mxq := tput c.mxq bank ((tget c.mxq bank []).drop 1) [] }).bankQ core bank = r := by
    rw [State.bankQ, State.core_modCore_self, tget_tput_self]
    exact congrArg (List.drop 1) hq
  rcases hz with h | h <;> rw [h] <;> exact ⟨hr, rfl, rfl, rfl⟩

/-! ### MMA and ACZ enter a queue (R273–R277, R281) -/

section
variable {s : State} {c : Ctx} {f : MxF}

theorem mmaRows_ok {hit : Nat → Option ARow} {row : Nat → ARow} : ∀ {ls : List Nat}, (∀ l ∈ ls, mmaRow s c f l (hit l) = .ok (row l)) →
    mmaRows s c f hit ls = .ok (ls.map fun l => (l, row l), [])
  | [], _ => rfl
  | l :: r, h => by
    simp only [mmaRows, h l List.mem_cons_self, mmaRows_ok fun m hm => h m (List.mem_cons_of_mem l hm), Rd.bind, List.map_cons]

/-- The row that a lane may take from the latch: the warp's own last rows of the same class and format (R276). -/
theorem latchHit_eq (s : State) (wk : Nat) (f : MxF) (l : Nat) : latchHit s wk f l =
    if (s.latchOf (wkCore wk) (wkPart wk)).own = some (wkSlot wk, (s.teamOf wk).handle)
        ∧ (s.latchOf (wkCore wk) (wkPart wk)).cls.toNat = mmaCls f ∧ (s.latchOf (wkCore wk) (wkPart wk)).af.toNat = mmaAf f
    then tfind (s.latchOf (wkCore wk) (wkPart wk)).rows l else none := by
  simp only [latchHit, Bool.and_eq_true, beq_iff_eq, and_assoc]

/-- The latch keeps the rows of an MMA with RU. -/
theorem tfind_latchAfter {lt : Latch} {mine : Bool} {own : Nat × BitVec 32} {row : Nat → ARow} {ls : List Nat} (hn : ls.Nodup) {l : Nat}
    (hl : l ∈ ls) : tfind (latchAfter lt mine true own f (ls.map fun l => (l, row l))).rows l = some (row l) := by
  obtain ⟨t, -, h⟩ := foldl_observed (fun (t : Tab ARow) (e : Nat × ARow) => tset t e.1 e.2) (fun t => tfind t l) (e := (l, row l))
    (if mine then lt.rows else []) (List.mem_map_of_mem (f := fun l => (l, row l)) hl)
    (by rw [List.map_map]; exact (List.map_id' ls).symm ▸ hn) fun t x _ hne => tfind_tset_ne t hne x.2
  exact h.trans (tfind_tset_self ..)

variable (s c f) (rows : Tab ARow)

/-- The command that an MMA enters, with its rows. -/
def mmaJob : MxJob :=
  { id := s.uid, wk := c.wk, team := (s.warp c.wk).team, bank := wkPart c.wk, tile := f.td.toNat, mma := true
    cls := BitVec.ofNat 2 (mmaCls f), af := BitVec.ofNat 3 (mmaAf f), br := BitVec.ofNat 3 (mmaBr f), ow := f.md.getLsbD 10
    spb := ((s.teamOf c.wk).layout f.lr.toNat).spb, spp := ((s.teamOf c.wk).layout f.lr.toNat).spp
    rows := rows, lanes := maskOf (rows.map (·.1)), cv := f.cv, ci := f.ci.toNat }

/-- The state in which the latch holds what an MMA leaves in it. -/
def mmaLatched : State := s.modCore (wkCore c.wk) fun k =>
  { k with latch := tput k.latch (wkPart c.wk) (latchAfter (s.latchOf (wkCore c.wk) (wkPart c.wk))
      ((s.latchOf (wkCore c.wk) (wkPart c.wk)).own == some (wkSlot c.wk, (s.teamOf c.wk).handle)) (f.md.getLsbD 11)
      (wkSlot c.wk, (s.teamOf c.wk).handle) f rows) Latch.reset }

/-- A command is counted, if its counter is used. -/
def mxCounted (z : State) : State := if f.cv then counterIssue z c.wk f.ci.toNat z.uid else z

/-- The state in which an MMA has its latch, its count and its lost cycles. -/
def mmaStaged : State := addConf (mxCounted c f (mmaLatched s c f rows)) c.wk (mmaRowBytes (mmaCls f))
  ((upto (mmaK (mmaCls f))).map fun k => ((s.teamOf c.wk).layout f.lr.toNat).spb + k * ((s.teamOf c.wk).layout f.lr.toNat).spp)

/-- The state in which an MMA has entered its queue. -/
def mmaEntered : State := (mmaStaged s c f rows).bankEnter (wkCore c.wk) (wkPart c.wk) (mmaJob s c f rows)

/-- The command that an ACZ enters. -/
def aczJob (bank : Nat) : MxJob :=
  { id := s.uid, wk := c.wk, team := (s.warp c.wk).team, bank := bank, tile := f.td.toNat, mma := false
    cls := 0, af := 0, br := 0, ow := false, spb := 0, spp := 0, rows := []
    lanes := if f.md.getLsbD 0 then BitVec.allOnes 32 else maskOf c.active, cv := f.cv, ci := f.ci.toNat }

theorem counter_mxCounted (z : State) (hcv : f.cv = true) :
    ((mxCounted c f z).warp c.wk).counter f.ci.toNat = (z.warp c.wk).counter f.ci.toNat + 1 := by
  rw [mxCounted, if_pos hcv, counter_counterIssue]

/-- What is not of warps is not changed by a count. -/
theorem obs_mxCounted {α : Type} {obs : State → α} (hwarp : ∀ st wk g, obs (State.modWarp st wk g) = obs st) (z : State) :
    obs (mxCounted c f z) = obs z := by
  unfold mxCounted
  split
  · exact hwarp ..
  · rfl

/-- What is not of warps stays as the latch leaves it. -/
theorem obs_mmaStaged {α : Type} {obs : State → α} (hwarp : ∀ st wk g, obs (State.modWarp st wk g) = obs st) :
    obs (mmaStaged s c f rows) = obs (mmaLatched s c f rows) := by
  refine Eq.trans ?_ (obs_mxCounted c f hwarp _)
  unfold mmaStaged
  rcases addConf_cases (mxCounted c f (mmaLatched s c f rows)) c.wk (mmaRowBytes (mmaCls f)) ((upto (mmaK (mmaCls f))).map fun k =>
    ((s.teamOf c.wk).layout f.lr.toNat).spb + k * ((s.teamOf c.wk).layout f.lr.toNat).spp) with h | ⟨k, h⟩
  · rw [h]
  · rw [h]; exact hwarp ..

theorem bankQ_mmaEntered : (mmaEntered s c f rows).bankQ (wkCore c.wk) (wkPart c.wk) = s.bankQ (wkCore c.wk) (wkPart c.wk) ++ [mmaJob s c f rows] := by
  rw [mmaEntered, State.bankQ_bankEnter, obs_mmaStaged s c f rows (obs := fun st => st.bankQ (wkCore c.wk) (wkPart c.wk)) fun _ _ _ => rfl,
    mmaLatched, State.bankQ, State.core_modCore_self]
  rfl

/-- What is neither of warps, nor of cores, nor the next free name stays. -/
theorem obs_mmaEntered {α : Type} {obs : State → α} (hwarp : ∀ st wk g, obs (State.modWarp st wk g) = obs st)
    (hcore : ∀ st k g, obs (State.modCore st k g) = obs st) (huid : ∀ (st : State) n, obs { st with uid := n } = obs st) :
    obs (mmaEntered s c f rows) = obs s := by
  rw [mmaEntered, State.bankEnter, hcore, huid, obs_mmaStaged s c f rows hwarp, mmaLatched, hcore]

theorem latch_mmaEntered : (mmaEntered s c f rows).latchOf (wkCore c.wk) (wkPart c.wk) =
    latchAfter (s.latchOf (wkCore c.wk) (wkPart c.wk)) ((s.latchOf (wkCore c.wk) (wkPart c.wk)).own == some (wkSlot c.wk, (s.teamOf c.wk).handle))
      (f.md.getLsbD 11) (wkSlot c.wk, (s.teamOf c.wk).handle) f rows := by
  rw [mmaEntered, State.bankEnter, State.latchOf, State.core_modCore_self]
  refine (obs_mmaStaged s c f rows (obs := fun st => st.latchOf (wkCore c.wk) (wkPart c.wk)) fun _ _ _ => rfl).trans ?_
  rw [mmaLatched, State.latchOf, State.core_modCore_self, tget_tput_self]

theorem counter_mmaEntered (hcv : f.cv = true) :
    ((mmaEntered s c f rows).warp c.wk).counter f.ci.toNat = (s.warp c.wk).counter f.ci.toNat + 1 := by
  have hconf : ((mmaStaged s c f rows).warp c.wk).counter f.ci.toNat = ((mxCounted c f (mmaLatched s c f rows)).warp c.wk).counter f.ci.toNat := by
    unfold mmaStaged
    rcases addConf_cases (mxCounted c f (mmaLatched s c f rows)) c.wk (mmaRowBytes (mmaCls f)) ((upto (mmaK (mmaCls f))).map fun k =>
      ((s.teamOf c.wk).layout f.lr.toNat).spb + k * ((s.teamOf c.wk).layout f.lr.toNat).spp) with h | ⟨k, h⟩
    · rw [h]
    · rw [h, State.warp_modWarp_self]; rfl
  exact hconf.trans (counter_mxCounted c f _ hcv)

end

section
variable {s : State} {c : Ctx} {f : MxF}

/-- An MMA that passes its checks, and whose lanes all give a row, enters its queue. -/
theorem execMma_enters {row : Nat → ARow} (h : Issues s (.mma f) c)
    (hroom : (s.bankQ (wkCore c.wk) (wkPart c.wk)).length < 64 ∧ (f.cv = true → (s.warp c.wk).counter f.ci.toNat < 31))
    (hb : ((s.teamOf c.wk).layout f.lr.toNat).spb % mmaRowBytes (mmaCls f) = 0)
    (hp : ((s.teamOf c.wk).layout f.lr.toNat).spp % mmaRowBytes (mmaCls f) = 0)
    (hfit : ((s.teamOf c.wk).layout f.lr.toNat).spb + (mmaK (mmaCls f) - 1) * ((s.teamOf c.wk).layout f.lr.toNat).spp + mmaRowBytes (mmaCls f)
      ≤ (s.teamOf c.wk).spSize)
    (hrow : ∀ l ∈ c.active, mmaRow s c f l (latchHit s c.wk f l) = .ok (row l)) :
    exec (.mma f) s = .next (Ended (mmaEntered s c f (c.active.map fun l => (l, row l))) (.mma f) c fun _ => {}) := by
  have hne : (c.active.map fun l => (l, row l)).isEmpty = false := by simpa [List.isEmpty_iff] using h.nonempty
  have hfree : ¬ (64 ≤ (s.bankQ (wkCore c.wk) (wkPart c.wk)).length ∨ (f.cv && !counterFree s c.wk f.ci.toNat) = true) := by
    rintro (h1 | h1)
    · omega
    · obtain ⟨hcv, hno⟩ := Bool.and_eq_true_iff.1 h1
      simp [counterFree, hroom.2 hcv] at hno
  show execMma f s = _
  refine issue_ended h ?_
  rw [h.lanes]
  simp only [hb, hp, ne_eq, not_true_eq_false, or_self, if_false, Nat.not_lt.2 hfit, hfree, mmaRows_ok hrow, hne, Bool.false_eq_true]
  exact Prod.ext rfl ((List.nil_append _).trans List.map_map)

theorem bankSel_there (h : (s.teamOf c.wk).inPart ((wkPart c.wk + bits f.md 11 10) % 4) = true) :
    bankSel s c f = .ok ((wkPart c.wk + bits f.md 11 10) % 4) := if_pos h

/-- An ACZ enters the queue of its bank. -/
theorem execAcz_enters {bank : Nat} (h : Issues s (.acz f) c) (hbank : bankSel s c f = .ok bank)
    (hroom : (s.bankQ (wkCore c.wk) bank).length < 64 ∧ (f.cv = true → (s.warp c.wk).counter f.ci.toNat < 31)) :
    exec (.acz f) s = .next (Ended ((mxCounted c f s).bankEnter (wkCore c.wk) bank (aczJob s c f bank)) (.acz f) c fun _ => {}) := by
  have hfree : ¬ (64 ≤ (s.bankQ (wkCore c.wk) bank).length ∨ (f.cv && !counterFree s c.wk f.ci.toNat) = true) := by
    rintro (h1 | h1)
    · omega
    · obtain ⟨hcv, hno⟩ := Bool.and_eq_true_iff.1 h1
      simp [counterFree, hroom.2 hcv] at hno
  show execAcz f s = _
  refine issue_ended h ?_
  simp only [hbank, hfree, if_false]
  rfl

end

/-! ### Commands are performed (R278, R281) -/

/-- The new row of a participant of an MMA. -/
def mmaRowNew (t : Team) (j : MxJob) (e : Nat × ARow) : List (BitVec 32) := (upto 32).map fun k => BitVec.ofNat 32 (mmaElem j.ow
  ((t.tileRow j.bank j.tile e.1).getD k 0) (aVals j.cls.toNat j.af.toNat e.2) ((((upto 32).map (bCol t j)).getD k []).map (·.1))).1

theorem mmaTile_team (t : Team) (j : MxJob) : (mmaTile t j).1 = setRows (·.1) (mmaRowNew t j) j.bank j.tile 0 j.rows t := by
  unfold mmaTile setRows
  refine (List.foldl_hom Prod.fst fun acc e => ?_).symm
  simp only [mmaRowNew, List.map_map]
  rfl

theorem getD_mmaRowNew (t : Team) (j : MxJob) (e : Nat × ARow) {k : Nat} (hk : k < 32) : (mmaRowNew t j e).getD k 0 =
    BitVec.ofNat 32 (mmaElem j.ow (t.tileEl j.bank j.tile e.1 k).toNat (aVals j.cls.toNat j.af.toNat e.2) ((bCol t j k).map (·.1))).1 := by
  rw [mmaRowNew, getD_map_upto _ hk, Team.tileRow, getD_map_upto _ hk, getD_map_upto _ hk]

/-- The state in which the tile of an MMA holds its sums and its lanes their flags. -/
def mmaPerformed (s : State) (j : MxJob) : State :=
  (mmaTile (s.team j.team) j).2.foldl (fun st e => if (st.lane j.wk e.1).st = .exited then st else raise st j.wk e.1 e.2)
    (s.setTeam j.team (mmaTile (s.team j.team) j).1)

theorem obs_mmaPerformed {α : Type} {obs : State → α} (hlane : ∀ st wk l f, obs (State.modLane st wk l f) = obs st) (s : State) (j : MxJob) :
    obs (mmaPerformed s j) = obs (s.setTeam j.team (mmaTile (s.team j.team) j).1) :=
  foldl_unobserved _ obs _ fun st e _ => by
    unfold raise
    split
    · rfl
    split
    · rfl
    · exact hlane ..

theorem execMmaPerform_head {s : State} {core b : Nat} {j : MxJob} {r : List MxJob} (hq : s.bankQ core b = j :: r) (hm : j.mma = true) :
    exec (.mmaPerform core b) s = .next (bankLeave (mmaPerformed s j) core b j).wake := by
  show execMmaPerform core b s = _
  simp only [execMmaPerform, hq, hm, if_true]
  rfl

/-- The state in which the rows of an ACZ are zero. -/
def aczPerformed (s : State) (j : MxJob) : State :=
  s.modTeam j.team (setRows id (fun _ => List.replicate 32 0) j.bank j.tile 0 (lanesOf j.lanes))

theorem execAczPerform_head {s : State} {core b : Nat} {j : MxJob} {r : List MxJob} (hq : s.bankQ core b = j :: r) (hm : j.mma = false) :
    exec (.aczPerform core b) s = .next (bankLeave (aczPerformed s j) core b j).wake := by
  show execAczPerform core b s = _
  simp only [execAczPerform, hq, hm, Bool.false_eq_true, if_false]
  rfl

/-! ### Row instructions: the bank and the rows (R272, R282) -/

section
variable {s : State} {c : Ctx} {f : MxF} {bank : Nat}

theorem rowBody_there (g : State → Ctx → Nat → Nat → Srcs → State × LaneOut) (h : bankSel s c f = .ok bank) :
    rowBody f g s c = seqBody (fun st c' l x => let r := g st c' bank l x; (r.1, some r.2)) s c := by
  simp only [rowBody, h]

/-- The lanes' rows are written one after another, each with what its lane gives. -/
def rowsWritten (wk bank tile c0 : Nat) (vals : Nat → List (BitVec 32)) (ls : List Nat) (s : State) : State :=
  ls.foldl (fun st l => st.modTeam (st.warp wk).team fun t => t.setTileRow bank tile l c0 (vals l)) s

theorem obs_rowsWritten {α : Type} {obs : State → α} (hteam : ∀ st tk g, obs (State.modTeam st tk g) = obs st) (wk bank tile c0 : Nat)
    (vals : Nat → List (BitVec 32)) (ls : List Nat) (s : State) : obs (rowsWritten wk bank tile c0 vals ls s) = obs s :=
  foldl_unobserved _ obs s fun _ _ _ => hteam ..

theorem teamOf_rowsWritten (wk bank tile c0 : Nat) (vals : Nat → List (BitVec 32)) (ls : List Nat) (s : State) :
    (rowsWritten wk bank tile c0 vals ls s).teamOf wk = setRows id vals bank tile c0 ls (s.teamOf wk) :=
  (List.foldl_hom (fun st : State => st.teamOf wk) fun st l => (State.team_modTeam_self st (st.warp wk).team
    fun t => t.setTileRow bank tile l c0 (vals l)).symm).symm

/-- Reading two things at once. -/
theorem Rd.ok_of_both {α β γ : Type} {x : Rd α} {y : Rd β} {g : α → β → γ} {z : γ} (h : x.both y g = .ok z) :
    ∃ a b, x = .ok a ∧ y = .ok b ∧ g a b = z := by
  cases x <;> cases y <;> simp_all [Rd.both]

theorem readFRegs_length {wk l : Nat} {bt : Bool} : ∀ {ns : List Nat} {vs : List (BitVec 32)}, readFRegs s wk l bt ns = .ok vs → vs.length = ns.length
  | [], _, h => by cases h; rfl
  | n :: ns, vs, h => by
    obtain ⟨v, r, -, hr, rfl⟩ := Rd.ok_of_both h
    rw [List.length_cons, List.length_cons, readFRegs_length hr]

/-- An ACWR reads a block of eight registers. -/
theorem acwr_block (h : Issues s (.acwr f) c) {l : Nat} {x : Srcs} (hx : readAll s c.wk l c.g = .ok x) : x.a.length = 8 := by
  obtain ⟨y, hy, hrest⟩ := Rd.ok_of_bind hx
  obtain ⟨-, -, hrest⟩ := Rd.ok_of_bind hrest
  obtain ⟨-, -, hrest⟩ := Rd.ok_of_bind hrest
  obtain ⟨-, -, hrest⟩ := Rd.ok_of_bind hrest
  cases hrest
  obtain ⟨a, t, ha, -, rfl⟩ := Rd.ok_of_both hy
  have hg : c.g.a = .src .blk8 := by
    have hs := h.sig
    simp only [sigOf, Option.some.injEq] at hs
    rw [← hs]
  rw [hg] at ha
  obtain ⟨vs, hvs, hva⟩ := Rd.ok_of_bind ha
  cases hva
  rw [List.length_map, readFRegs_length hvs]
  rfl

/-! ### ACWR, ACRED and ACSCL (R283–R285) -/

theorem exec_acwr {x : Nat → Srcs} (h : Issues s (.acwr f) c) (hr : Reads s c x) (hb : bankSel s c f = .ok bank) :
    exec (.acwr f) s = .next (Ended (rowsWritten c.wk bank f.td.toNat (8 * bits f.md 1 0) (fun l => (x l).a.map fun v => lo32 v.bits) c.active s)
      (.acwr f) c fun _ => {}) := by
  show execAcwr f s = _
  exact (issue_congr h (rowBody_there _ hb)).trans
    (seq_folded h hr (r := fun _ => {}) (fun _ _ => True) trivial (fun _ _ _ _ _ _ => trivial) fun _ _ _ _ _ _ => rfl)

theorem exec_acred {x : Nat → Srcs} (h : Issues s (.acred f) c) (hr : Reads s c x) (hb : bankSel s c f = .ok bank) :
    exec (.acred f) s = .next (Ended s (.acred f) c fun l =>
      { val := some (Val.int (BitVec.ofNat 64 (reduceRow (bits f.md 1 0) ((s.teamOf c.wk).tileRow bank f.td.toNat l)).1))
        flags := (reduceRow (bits f.md 1 0) ((s.teamOf c.wk).tileRow bank f.td.toNat l)).2 }) := by
  show execAcred f s = _
  exact (issue_congr h (rowBody_there _ hb)).trans (issue_seq_still h hr fun _ _ => rfl)

/-- An element that ACSCL scales, with its flags. -/
def scaledEl (f : MxF) (x : Srcs) (d : Nat) : Nat × BitVec 7 := mulF fFP32 (bits f.md 9 7) false (decodeF fFP32 d) (fIn fFP32 f.sb x.bv)

/-- A row that ACSCL scales. -/
def scaledRow (f : MxF) (x : Srcs) (row : List Nat) : List (BitVec 32) := row.map fun d => BitVec.ofNat 32 (scaledEl f x d).1

/-- The flags of a row that ACSCL scales. -/
def scaledFlags (f : MxF) (x : Srcs) (t : Team) (b tile r : Nat) : BitVec 7 :=
  (upto 32).foldl (fun m k => m ||| (scaledEl f x (t.tileEl b tile r k).toNat).2) 0

theorem scaledFlags_eq (x : Srcs) (t : Team) (b tile r : Nat) :
    (t.tileRow b tile r).foldl (fun m d => m ||| (scaledEl f x d).2) 0 = scaledFlags f x t b tile r := List.foldl_map

theorem length_scaledRow (x : Srcs) (t : Team) (b tile r : Nat) : (scaledRow f x (t.tileRow b tile r)).length = 32 := by
  simp [scaledRow, Team.tileRow, upto]

theorem exec_acscl {x : Nat → Srcs} (h : Issues s (.acscl f) c) (hr : Reads s c x) (hb : bankSel s c f = .ok bank) :
    exec (.acscl f) s = .next (Ended (rowsWritten c.wk bank f.td.toNat 0 (fun l => scaledRow f (x l) ((s.teamOf c.wk).tileRow bank f.td.toNat l))
      c.active s) (.acscl f) c fun l => { flags := scaledFlags f (x l) (s.teamOf c.wk) bank f.td.toNat l }) := by
  show execAcscl f s = _
  refine (issue_congr h (rowBody_there _ hb)).trans (seq_folded h hr
    (fun acted a => a = rowsWritten c.wk bank f.td.toNat 0 (fun l => scaledRow f (x l) ((s.teamOf c.wk).tileRow bank f.td.toNat l)) acted s) rfl
    (fun acted a l _ _ ha => ?_) fun acted a l _ hl ha => ?_)
  · rw [ha, rowsWritten, rowsWritten, List.foldl_append]; rfl
  · have hrow : (a.teamOf c.wk).tileRow bank f.td.toNat l = (s.teamOf c.wk).tileRow bank f.td.toNat l := by
      rw [ha, teamOf_rowsWritten]
      refine List.map_congr_left fun k hk => ?_
      rw [tileEl_setRows_other id _ _ _ 0 (List.mem_range.1 hk) (fun l _ => by rw [length_scaledRow]) _ (by rwa [List.map_id])]
    simp only [hrow, List.map_map, List.foldl_map]
    rw [← scaledFlags_eq]
    rfl

end

/-! ### Blocks of registers (R283, R286) -/

/-- The eight registers of a lane's block are written in order. -/
def putBlock (wk n : Nat) (v : Nat → Nat → BitVec 32) (s : State) (l : Nat) : State :=
  (upto 8).foldl (fun st m => putFReg st (st.lane wk l).frame l (n + m) (v l m)) s

theorem putBlock_zip (wk n : Nat) (v : Nat → Nat → BitVec 32) (s : State) (l : Nat) : putBlock wk n v s l =
    (((upto 8).map (v l)).zip (regRange n 8)).foldl (fun st e => putFReg st (st.lane wk l).frame l e.2 e.1) s := by
  rw [regRange, List.zip_map', List.foldl_map]
  rfl

/-- Whether a lane's block holds its values. -/
def BlockFull (wk n : Nat) (v : Nat → Nat → BitVec 32) (l : Nat) (s : State) : Prop :=
  ∀ m < 8, (s.frameOf wk l).reg (n + m) l = ⟨v l m, .full⟩ ∧ (s.frameOf wk l).ptag (n + m) l = false

/-- Registers of a lane that are written one after another. -/
theorem Frame.block_foldl (n l : Nat) (w : Nat → BitVec 32) : ∀ (js : List Nat) (F : Frame), js.Nodup →
    let G := js.foldl (fun F m => (F.setReg (n + m) l ⟨w m, .full⟩).setPtag (n + m) l false) F
    (∀ m ∈ js, G.reg (n + m) l = ⟨w m, .full⟩) ∧ (∀ m, m ∉ js → G.reg (n + m) l = F.reg (n + m) l)
      ∧ (∀ m, m ∈ js ∨ F.ptag (n + m) l = false → G.ptag (n + m) l = false)
  | [], F, _ => ⟨fun m hm => absurd hm List.not_mem_nil, fun _ _ => rfl, fun m hm => hm.resolve_left List.not_mem_nil⟩
  | j :: js, F, hn => by
    rw [List.nodup_cons] at hn
    obtain ⟨hin, hout, htag⟩ := Frame.block_foldl n l w js ((F.setReg (n + j) l ⟨w j, .full⟩).setPtag (n + j) l false) hn.2
    have htag0 : ∀ m, F.ptag (n + m) l = false ∨ m = j → ((F.setReg (n + j) l ⟨w j, .full⟩).setPtag (n + j) l false).ptag (n + m) l = false := by
      intro m hm
      rw [Frame.ptag_setPtag, Frame.ptag_setReg]
      split
      · rfl
      · next hne => exact hm.resolve_right fun h => hne (h ▸ rfl)
    refine ⟨fun m hm => ?_, fun m hm => ?_, fun m hm => ?_⟩
    · rcases List.mem_cons.1 hm with rfl | hr
      · rw [List.foldl_cons, hout m hn.1, Frame.reg_setPtag, Frame.reg_setReg, if_pos rfl]
      · exact hin m hr
    · rw [List.mem_cons, not_or] at hm
      rw [List.foldl_cons, hout m hm.2, Frame.reg_setPtag, Frame.reg_setReg, if_neg (by omega)]
    · refine htag m ?_
      rcases hm with hm | hm
      · exact (List.mem_cons.1 hm).elim (fun h => .inr (htag0 m (.inr h))) .inl
      · exact .inr (htag0 m (.inl hm))

theorem putBlock_full (wk n : Nat) (v : Nat → Nat → BitVec 32) (s : State) (l : Nat) : BlockFull wk n v l (putBlock wk n v s l) := by
  have hframe : (putBlock wk n v s l).frameOf wk l =
      (upto 8).foldl (fun F m => (F.setReg (n + m) l ⟨v l m, .full⟩).setPtag (n + m) l false) (s.frameOf wk l) :=
    (List.foldl_hom (fun st : State => st.frameOf wk l) fun st m => (frame_putFReg st (st.lane wk l).frame l (n + m) (v l m)).symm).symm
  obtain ⟨hin, -, htag⟩ := Frame.block_foldl n l (v l) (upto 8) (s.frameOf wk l) List.nodup_range
  intro m hm
  rw [hframe]
  exact ⟨hin m (List.mem_range.2 hm), htag m (.inl (List.mem_range.2 hm))⟩

theorem obs_putBlock {α : Type} {obs : State → α} (hframe : ∀ st fk g, obs (State.modFrame st fk g) = obs st) (wk n : Nat)
    (v : Nat → Nat → BitVec 32) (s : State) (l : Nat) : obs (putBlock wk n v s l) = obs s :=
  foldl_unobserved _ obs s fun _ _ _ => hframe ..

theorem BlockFull.of_view {wk n l : Nat} {v : Nat → Nat → BitVec 32} {s t : State} (h : laneView t wk l = laneView s wk l)
    (hs : BlockFull wk n v l s) : BlockFull wk n v l t := fun m hm => by
  show (laneView t wk l).2.1 (laneView t wk l).1.frame (n + m) = _ ∧ (laneView t wk l).2.2 (laneView t wk l).1.frame (n + m) = false
  rw [h]
  exact hs m hm

/-- Lanes that write their blocks one after another: each block is full at the end. -/
theorem foldl_putBlock_full (wk n : Nat) (v : Nat → Nat → BitVec 32) {l : Nat} (hl32 : l < 32) : ∀ {ls : List Nat} (s : State), l ∈ ls → ls.Nodup →
    (∀ m ∈ ls, m < 32) → BlockFull wk n v l (ls.foldl (putBlock wk n v) s)
  | [], _, hl, _, _ => absurd hl List.not_mem_nil
  | m :: ls, s, hl, hn, h32 => by
    rw [List.nodup_cons] at hn
    rw [List.foldl_cons]
    rcases List.mem_cons.1 hl with rfl | hr
    · refine BlockFull.of_view (foldl_unobserved _ (laneView · wk l) _ fun st k hk => ?_) (putBlock_full wk n v s l)
      exact foldl_unobserved _ (laneView · wk l) st fun _ _ _ =>
        laneView_putFReg _ (h32 k (List.mem_cons_of_mem _ hk)) hl32 fun h => hn.1 (h ▸ hk)
    · exact foldl_putBlock_full wk n v hl32 _ hr hn.2 fun k hk => h32 k (List.mem_cons_of_mem _ hk)

theorem obs_foldl_putBlock {α : Type} {obs : State → α} (hframe : ∀ st fk g, obs (State.modFrame st fk g) = obs st) (wk n : Nat)
    (v : Nat → Nat → BitVec 32) (s : State) (ls : List Nat) : obs (ls.foldl (putBlock wk n v) s) = obs s :=
  foldl_unobserved _ obs s fun st l _ => obs_putBlock hframe wk n v st l

/-! ### ACRD (R283) -/

section
variable {s : State} {c : Ctx} {f : MxF} {bank : Nat}

/-- What ACRD does in a lane. -/
def acrdLane (f : MxF) (s : State) (c : Ctx) (bank l : Nat) (_ : Srcs) : State × LaneOut :=
  ((((upto 8).map fun m => (s.teamOf c.wk).tileEl bank f.td.toNat l (8 * bits f.md 1 0 + m)).zip (regRange (f.a.toNat - 0x40) 8)).foldl
    (fun st e => putFReg st (st.lane c.wk l).frame l e.2 e.1) s, done)

/-- The state in which every lane of an ACRD has its block. -/
def acrdWritten (s : State) (c : Ctx) (f : MxF) (bank : Nat) : State :=
  c.active.foldl (putBlock c.wk (f.a.toNat - 0x40) fun l m => (s.teamOf c.wk).tileEl bank f.td.toNat l (8 * bits f.md 1 0 + m)) s

theorem rowBody_acrd {x : Nat → Srcs} (h : Issues s (.acrd f) c) (hr : Reads s c x) (hb : bankSel s c f = .ok bank) :
    rowBody f (acrdLane f) s c = (acrdWritten s c f bank, c.active.map fun l => (l, done)) := by
  have hturns := turns_folded (c := c) (s := s)
    (g := putBlock c.wk (f.a.toNat - 0x40) fun l m => (s.teamOf c.wk).tileEl bank f.td.toNat l (8 * bits f.md 1 0 + m))
    (R := fun l a b => ((acrdLane f a c bank l (x l)).1, some (acrdLane f a c bank l (x l)).2) = (b, some done))
    (fun a => a.teamOf c.wk = s.teamOf c.wk) rfl
    (fun a l ha => (obs_putBlock (obs := fun st : State => st.teamOf c.wk) (fun _ _ _ => rfl) ..).trans ha)
    (fun a ha l _ => by rw [putBlock_zip, ← ha]; rfl)
  have hbody := (rowBody_there (acrdLane f) hb).trans (seqBody_turns h hr (r := fun _ => done) hturns)
  rwa [List.take_length] at hbody

theorem exec_acrd {x : Nat → Srcs} (h : Issues s (.acrd f) c) (hr : Reads s c x) (hb : bankSel s c f = .ok bank) : ∃ regs,
    exec (.acrd f) s = .next (Ended (countWrite (acrdWritten s c f bank) c.wk regs) (.acrd f) c fun _ => {}) := by
  refine ⟨(upto 8).map fun m => (((c.active.map fun l => (l, done)).filter fun e => match e.2 with | .ok _ => true | .fault _ => false).map
    fun e => (upto 8).map fun m => (s.teamOf c.wk).tileEl bank f.td.toNat e.1 (8 * bits f.md 1 0 + m)).map fun v => v.getD m 0, ?_⟩
  have hbody := rowBody_acrd h hr hb
  unfold acrdLane at hbody
  show execAcrd f s = _
  refine issue_ended h (r := fun _ => {}) ?_
  dsimp only
  rw [hbody, hb]
  simp only [List.map_map]
  rfl

/-! ### ACRD.Q (R286) -/

/-- Bytes that are cut into pieces of one size. -/
theorem chunks_even {α : Type} (n : Nat) : ∀ (k : Nat) (bs : List α), bs.length = n * k → 0 < n →
    chunks n k bs = (upto k).map fun m => (bs.drop (n * m)).take n
  | 0, _, _, _ => rfl
  | k + 1, bs, hlen, hn => by
    have hne : bs.isEmpty = false := by
      rw [List.isEmpty_eq_false_iff, ← List.length_pos_iff, hlen]
      exact Nat.mul_pos hn k.succ_pos
    have hdrop : (bs.drop n).length = n * k := by rw [List.length_drop, hlen, Nat.mul_succ, Nat.add_sub_cancel]
    rw [chunks, hne, if_neg Bool.false_ne_true, chunks_even n k _ hdrop hn, upto, upto, List.range_succ_eq_map, List.map_cons, List.map_map]
    refine congrArg _ (List.map_congr_left fun m _ => ?_)
    rw [List.drop_drop]
    show _ = (bs.drop (n * (m + 1))).take n
    rw [Nat.mul_succ, Nat.add_comm]

/-- The format that an ACRD.Q names is one of the six (R124). -/
theorem acrdQ_code (h : Issues s (.acrdQ f) c) : 1 ≤ bits f.md 2 0 ∧ bits f.md 2 0 ≤ 6 := by
  by_contra hcode
  have hbad : valueReserved (.acrdQ f) = true := by
    simp only [valueReserved, Bool.or_eq_true, beq_iff_eq, decide_eq_true_eq]
    exact .inl (by omega)
  have hlegal := h.legal
  rw [encodingFault] at hlegal
  split at hlegal
  · cases hlegal
  · rw [if_pos (staticCheck_reserved h.sig (.inr hbad))] at hlegal
    cases hlegal

theorem length_flatMap_bytesLE {α : Type} (w : Nat) (g : α → Nat) (es : List α) : (es.flatMap fun e => bytesLE w (g e)).length = es.length * w := by
  induction es with
  | nil => simp
  | cons e es ih => rw [List.flatMap_cons, List.length_append, ih, bytesLE_length, List.length_cons]; ring

theorem blkWidth_cases {code : Nat} (h : 1 ≤ code ∧ code ≤ 6) : blkWidth code = 1 ∨ blkWidth code = 2 := by
  obtain ⟨h1, h6⟩ := h
  interval_cases code <;> decide

/-- A segment fills a block of 32 bytes. -/
theorem length_acrdqSeg {row : List Nat} (hrow : row.length = 32) (hcode : 1 ≤ bits f.md 2 0 ∧ bits f.md 2 0 ≤ 6) :
    (acrdqSeg f row).length * blkWidth (bits f.md 2 0) = 32 := by
  unfold acrdqSeg
  rcases blkWidth_cases hcode with hw | hw
  · rw [if_pos hw, hw, hrow]
  · rw [if_neg (by omega), hw, List.length_take, List.length_drop, hrow]
    split <;> rfl

/-- A quantised segment is a block of 32 bytes. -/
theorem length_quantSeg {row : List Nat} (hrow : row.length = 32) (hcode : 1 ≤ bits f.md 2 0 ∧ bits f.md 2 0 ≤ 6) (rm : Nat) (sat : Bool)
    (scale : Nat) (fix : Bool) : (quantSeg (bits f.md 2 0) rm sat scale fix (acrdqSeg f row)).1.length = 32 := by
  unfold quantSeg
  split
  · rfl
  split
  · rfl
  · exact (length_flatMap_bytesLE ..).trans (by rw [List.length_map]; exact length_acrdqSeg hrow hcode)

section
variable (s c f) (bank : Nat) (fix : Option Nat)

/-- The scale of an ACRD.Q: its own under FIX, or that of its ring. -/
def acrdqScale : Nat :=
  match fix with
  | some v => v
  | none => chooseScale (bits f.md 2 0) (s.ring (wkCore c.wk) (f.sb.toNat % 64)).ringmax

/-- A lane's segment of an ACRD.Q. -/
def acrdqSegOf (l : Nat) : List Nat := acrdqSeg f ((s.teamOf c.wk).tileRow bank f.td.toNat l)

/-- A lane's segment, quantised. -/
def acrdqQuant (l : Nat) : List Byte × Nat × BitVec 7 :=
  quantSeg (bits f.md 2 0) (bits f.md 9 7) (f.md.getLsbD 6) (acrdqScale s c f fix) fix.isSome (acrdqSegOf s c f bank l)

/-- A register of a lane's block. -/
def acrdqReg (l m : Nat) : BitVec 32 := BitVec.ofNat 32 (ofBytes (((acrdqQuant s c f bank fix l).1.drop (4 * m)).take 4))

/-- The state in which every lane of an ACRD.Q has its block. -/
def acrdqWritten : State := c.active.foldl (putBlock c.wk (f.a.toNat - 0x40) (acrdqReg s c f bank fix)) s

/-- The ring of an ACRD.Q without FIX records its segments. -/
def acrdqRecorded (z : State) : State :=
  if fix.isSome then z
  else z.modRing (wkCore c.wk) (f.sb.toNat % 64) fun a => a.record (absMax (c.active.flatMap (acrdqSegOf s c f bank)))

end

theorem obs_acrdqRecorded {α : Type} {obs : State → α} (hcore : ∀ st k g, obs (State.modCore st k g) = obs st) (fix : Option Nat) (z : State) :
    obs (acrdqRecorded s c f bank fix z) = obs z := by
  unfold acrdqRecorded
  split
  · rfl
  · exact hcore ..

theorem acrdqReg_chunks (h : Issues s (.acrdQ f) c) (fix : Option Nat) (l : Nat) :
    ((chunks 4 8 (acrdqQuant s c f bank fix l).1).map fun w => BitVec.ofNat 32 (ofBytes w)) = (upto 8).map (acrdqReg s c f bank fix l) := by
  have hlen : (acrdqQuant s c f bank fix l).1.length = 32 := length_quantSeg (by simp [Team.tileRow, upto]) (acrdQ_code h) _ _ _ _
  rw [chunks_even 4 8 _ hlen (by decide), List.map_map]
  rfl

/-- Under FIX, `fix` is the scale that the lowest-numbered active lane reads in S; without it the ring that S names is free (R60, R286). -/
def AcrdqFix (s : State) (c : Ctx) (f : MxF) (fix : Option Nat) : Prop :=
  if f.md.getLsbD 4 then ∃ v, read32 s c.wk (c.active.headD 0) f.sb (f.bt.getLsbD 0) = .ok v ∧ fix = some (v.bits.toNat % 256)
  else fix = none ∧ s.ringBusy (wkCore c.wk) (f.sb.toNat % 64) = false

theorem AcrdqFix.free {fix : Option Nat} (h : AcrdqFix s c f fix) : (fix.isNone && s.ringBusy (wkCore c.wk) (f.sb.toNat % 64)) = false := by
  unfold AcrdqFix at h
  split at h
  · obtain ⟨v, -, rfl⟩ := h; rfl
  · obtain ⟨rfl, hbusy⟩ := h; rw [hbusy]; rfl

theorem acrdqBody_writes {x : Nat → Srcs} {fix : Option Nat} (h : Issues s (.acrdQ f) c)
    (hr : ∀ l ∈ c.active, readAll s c.wk l { c.g with b := .none } = .ok (x l)) (hfix : AcrdqFix s c f fix) : ∃ regs,
    acrdqBody f bank fix s c = (acrdqRecorded s c f bank fix (countWrite (acrdqWritten s c f bank fix) c.wk regs), c.active.map fun l =>
      (l, .ok { val := some (Val.int (BitVec.ofNat 64 (acrdqQuant s c f bank fix l).2.1)), flags := (acrdqQuant s c f bank fix l).2.2 })) := by
  refine ⟨(upto 8).map fun m => c.active.map fun l => ((upto 8).map (acrdqReg s c f bank fix l)).getD m 0, ?_⟩
  have hlanes : readLanes s { c with g := { c.g with b := .none } } c.lanes = .ok (c.active.map fun l => (l, .ok (x l))) := by
    rw [h.lanes]
    exact readLanes_ok hr
  have hwritten : acrdqWritten s c f bank fix = c.active.foldl (fun st l =>
      (((chunks 4 8 (acrdqQuant s c f bank fix l).1).map fun w => BitVec.ofNat 32 (ofBytes w)).zip (regRange (f.a.toNat - 0x40) 8)).foldl
        (fun st1 r => putFReg st1 (st1.lane c.wk l).frame l r.2 r.1) st) s := by
    simp only [acrdqReg_chunks h]
    exact congrArg (fun g => c.active.foldl g s) (funext fun st => funext fun l => putBlock_zip ..)
  simp only [← acrdqReg_chunks h, hwritten]
  simp only [acrdqBody, hfix.free, Bool.false_eq_true, if_false, hlanes, splitReads_ok, h.participants x, List.nil_append, List.map_map,
    List.foldl_map, List.flatMap_map]
  rfl

theorem exec_acrdQ {x : Nat → Srcs} {fix : Option Nat} (h : Issues s (.acrdQ f) c) (hb : bankSel s c f = .ok bank)
    (hr : ∀ l ∈ c.active, readAll s c.wk l { c.g with b := .none } = .ok (x l)) (hfix : AcrdqFix s c f fix) : ∃ regs,
    exec (.acrdQ f) s = .next (Ended (acrdqRecorded s c f bank fix (countWrite (acrdqWritten s c f bank fix) c.wk regs)) (.acrdQ f) c fun l =>
      { val := some (Val.int (BitVec.ofNat 64 (acrdqQuant s c f bank fix l).2.1)), flags := (acrdqQuant s c f bank fix l).2.2 }) := by
  obtain ⟨regs, hbody⟩ := acrdqBody_writes (bank := bank) h hr hfix
  refine ⟨regs, ?_⟩
  show execAcrdQ f s = _
  refine issue_ended h ?_
  simp only [hb]
  unfold AcrdqFix at hfix
  split at hfix
  · next hmd =>
    obtain ⟨v, hv, rfl⟩ := hfix
    have hlead : leadRead s c f.sb (f.bt.getLsbD 0) = .ok v.bits := by
      rw [leadRead, show read32 s c.wk c.lead f.sb (f.bt.getLsbD 0) = .ok v from hv]; rfl
    simp only [hmd, if_true, hlead]
    exact hbody
  · next hmd =>
    obtain ⟨rfl, -⟩ := hfix
    simp only [hmd]
    exact hbody

end

end Sys2Proof.Machine

open Sys2Proof Sys2Proof.Machine

/-- Settles O36: a command enters its queue with one row for each lane and is performed row by row; a row instruction gives each lane's row
in its turn. -/
theorem matrixResults : Obligations.MatrixResults := by
  unfold Obligations.MatrixResults
  intro bank there room el same
  refine ⟨?_, ?_, ?_, ?_, ?_, ?_, ?_, ?_, ?_⟩
  · intro f s c row h hroom lay rb lt mine hb hp hfit hrow
    exact ⟨mmaEntered s c f (c.active.map fun l => (l, row l)), mmaJob s c f (c.active.map fun l => (l, row l)),
      execMma_enters h hroom hb hp hfit fun l hl => (congrArg _ (latchHit_eq s c.wk f l)).trans (hrow l hl),
      ⟨obs_mmaEntered s c f _ (obs := State.hbm) (fun _ _ _ => rfl) (fun _ _ _ => rfl) fun _ _ => rfl,
        obs_mmaEntered s c f _ (obs := State.lanes) (fun _ _ _ => rfl) (fun _ _ _ => rfl) fun _ _ => rfl,
        obs_mmaEntered s c f _ (obs := State.frames) (fun _ _ _ => rfl) (fun _ _ _ => rfl) fun _ _ => rfl,
        obs_mmaEntered s c f _ (obs := State.teams) (fun _ _ _ => rfl) (fun _ _ _ => rfl) fun _ _ => rfl⟩,
      bankQ_mmaEntered .., rfl, rfl, rfl, rfl, rfl, rfl, rfl, counter_mmaEntered s c f _, fun hru l hl => by
        rw [latch_mmaEntered, hru]
        exact tfind_latchAfter h.nodup hl⟩
  · intro f s c h hthere hroom
    refine ⟨(mxCounted c f s).bankEnter (wkCore c.wk) (bank c f) (aczJob s c f (bank c f)), aczJob s c f (bank c f),
      execAcz_enters h (bankSel_there hthere) hroom,
      ⟨obs_mxCounted c f (obs := State.hbm) (fun _ _ _ => rfl) s, obs_mxCounted c f (obs := State.lanes) (fun _ _ _ => rfl) s,
        obs_mxCounted c f (obs := State.frames) (fun _ _ _ => rfl) s, obs_mxCounted c f (obs := State.teams) (fun _ _ _ => rfl) s⟩, ?_, rfl, rfl, rfl, rfl, counter_mxCounted c f s⟩
    rw [State.bankQ_bankEnter, obs_mxCounted c f (obs := fun st => st.bankQ (wkCore c.wk) (bank c f)) fun _ _ _ => rfl]
  · intro s core b j r hq hm hn h32
    have hq1 : (mmaPerformed s j).bankQ core b = j :: r :=
      (obs_mmaPerformed (obs := fun st => st.bankQ core b) (fun _ _ _ _ => rfl) s j).trans hq
    obtain ⟨hr, hhbm, -, hteams⟩ := bankLeave_head hq1
    have hteam : (bankLeave (mmaPerformed s j) core b j).wake.team j.team = setRows (·.1) (mmaRowNew (s.team j.team) j) j.bank j.tile 0 j.rows (s.team j.team) := by
      rw [← mmaTile_team, State.team_of_wake, State.team, hteams, obs_mmaPerformed (obs := State.teams) fun _ _ _ _ => rfl]
      exact tget_tset_self ..
    have hlen : ∀ e ∈ j.rows, 0 + (mmaRowNew (s.team j.team) j e).length ≤ 32 := fun e _ => by simp [mmaRowNew, upto]
    refine ⟨(bankLeave (mmaPerformed s j) core b j).wake, execMmaPerform_head hq hm, hr,
      hhbm.trans (obs_mmaPerformed (obs := State.hbm) (fun _ _ _ _ => rfl) s j), fun e he k hk => ?_, fun l k _ hk hl => ?_⟩
    · have hin : 0 ≤ k ∧ k < 0 + (mmaRowNew (s.team j.team) j e).length := by simpa [mmaRowNew, upto] using hk
      rw [hteam, tileEl_setRows (·.1) _ _ _ 0 hk hlen _ he hn, if_pos hin, Nat.sub_zero, getD_mmaRowNew _ _ _ hk]
    · rw [hteam, tileEl_setRows_other (·.1) _ _ _ 0 hk hlen _ hl]
  · intro s core b j r hq hm
    obtain ⟨hr, hhbm, hlanes, hteams⟩ := bankLeave_head (s := aczPerformed s j) hq
    have hteam : (bankLeave (aczPerformed s j) core b j).wake.team j.team =
        setRows id (fun _ => List.replicate 32 0) j.bank j.tile 0 (lanesOf j.lanes) (s.team j.team) := by
      rw [State.team_of_wake, State.team, hteams]
      exact State.team_modTeam_self ..
    refine ⟨(bankLeave (aczPerformed s j) core b j).wake, execAczPerform_head hq hm, hr, hhbm, hlanes, fun l k hl hk => ?_⟩
    have hnd : ((lanesOf j.lanes).map id).Nodup := by
      rw [List.map_id]; exact (lanesOf_sorted _).imp Nat.ne_of_lt
    rw [hteam]
    by_cases hm : l ∈ lanesOf j.lanes
    · rw [if_pos (mem_lanesOf.1 hm).2]
      refine (tileEl_setRows id _ _ _ 0 hk (by simp) _ hm hnd).trans ?_
      rw [if_pos (by simpa using hk), List.getD_eq_getElem?_getD, List.getElem?_replicate, if_pos (by omega)]
      rfl
    · rw [if_neg fun hb => hm (mem_lanesOf.2 ⟨hl, hb⟩)]
      exact tileEl_setRows_other id _ _ _ 0 hk (by simp) _ (by rwa [List.map_id])
  · intro f s c x h hr hthere
    obtain ⟨regs, hexec⟩ := exec_acrd h hr (bankSel_there hthere)
    have hmoves := MovesWarp.countWrite (acrdWritten s c f (bank c f)) c.wk regs
    refine ⟨_, hexec, ?_, ?_, ?_, fun l hl => ?_⟩
    · exact (congrArg State.hbm hmoves.world).trans (obs_foldl_putBlock (obs := State.hbm) (fun _ _ _ => rfl) ..)
    · exact hmoves.lanes.trans (obs_foldl_putBlock (obs := State.lanes) (fun _ _ _ => rfl) ..)
    · exact hmoves.teams.trans (obs_foldl_putBlock (obs := State.teams) (fun _ _ _ => rfl) ..)
    · exact BlockFull.of_view (laneView_congr hmoves.lanes hmoves.frames)
        (foldl_putBlock_full c.wk _ _ (h.lt32 hl) s hl h.nodup fun m hm => h.lt32 hm)
  · intro f s c x h hr hthere
    have hlen : ∀ l ∈ c.active, ((x l).a.map fun v => lo32 v.bits).length = 8 := fun l hl => by rw [List.length_map, acwr_block h (hr l hl)]
    refine ⟨_, exec_acwr h hr (bankSel_there hthere), obs_rowsWritten (obs := State.hbm) (fun _ _ _ => rfl) ..,
      obs_rowsWritten (obs := State.lanes) (fun _ _ _ => rfl) .., obs_rowsWritten (obs := State.frames) (fun _ _ _ => rfl) .., fun l k _ hk => ?_⟩
    have hq4 : bits f.md 1 0 < 4 := Nat.mod_lt _ (by decide)
    have hfit : ∀ l ∈ c.active, 8 * bits f.md 1 0 + ((x l).a.map fun v => lo32 v.bits).length ≤ 32 := fun l hl => by rw [hlen l hl]; omega
    simp only [el, teamOf_rowsWritten]
    by_cases hl : l ∈ c.active
    · refine (tileEl_setRows id _ _ _ _ hk hfit _ hl (by rw [List.map_id]; exact h.nodup)).trans ?_
      rw [hlen l hl]
      refine if_ctx_congr ⟨fun hq => ⟨hl, by omega⟩, fun hq => by omega⟩ (fun hq => ?_) fun _ => rfl
      have hlt : k % 8 < (x l).a.length := by rw [acwr_block h (hr l hl)]; omega
      rw [show k - 8 * bits f.md 1 0 = k % 8 by omega]
      simp only [List.getD_eq_getElem?_getD, List.getElem?_map, List.getElem?_eq_getElem hlt, Option.map_some, Option.getD_some]
    · rw [if_neg fun hq => hl hq.1]
      exact tileEl_setRows_other id _ _ _ _ hk hfit _ (by rwa [List.map_id])
  · intro f s c x h hr hthere
    exact exec_acred h hr (bankSel_there hthere)
  · intro f s c x h hr hthere r
    refine ⟨_, exec_acscl h hr (bankSel_there hthere), obs_rowsWritten (obs := State.hbm) (fun _ _ _ => rfl) ..,
      obs_rowsWritten (obs := State.lanes) (fun _ _ _ => rfl) .., obs_rowsWritten (obs := State.frames) (fun _ _ _ => rfl) .., fun l k _ hk => ?_⟩
    have hlen : ∀ l ∈ c.active, 0 + (scaledRow f (x l) ((s.teamOf c.wk).tileRow (bank c f) f.td.toNat l)).length ≤ 32 := fun l _ => by rw [length_scaledRow]
    simp only [el, teamOf_rowsWritten]
    split
    · next hl =>
      refine (tileEl_setRows id _ _ _ 0 hk hlen _ hl (by rw [List.map_id]; exact h.nodup)).trans ?_
      rw [if_pos (by rw [length_scaledRow]; omega), Nat.sub_zero, scaledRow, Team.tileRow, List.map_map, getD_map_upto _ hk]
      rfl
    · next hl => exact tileEl_setRows_other id _ _ _ 0 hk hlen _ (by rwa [List.map_id])
  · intro f s c x fix h hthere hr hfix scale seg q
    obtain ⟨regs, hexec⟩ := exec_acrdQ h (bankSel_there hthere) hr hfix
    have hmoves := MovesWarp.countWrite (acrdqWritten s c f (bank c f) fix) c.wk regs
    have hcore := fun {α : Type} {obs : State → α} h => obs_acrdqRecorded (s := s) (c := c) (f := f) (bank := bank c f) (obs := obs) h fix
      (countWrite (acrdqWritten s c f (bank c f) fix) c.wk regs)
    have hlanes := (hcore (obs := State.lanes) fun _ _ _ => rfl).trans hmoves.lanes
    have hframes := (hcore (obs := State.frames) fun _ _ _ => rfl).trans hmoves.frames
    refine ⟨_, hexec, ?_, ?_, ?_, fun l hl m hm => ?_, fun hnone => ?_⟩
    · exact ((hcore (obs := State.hbm) fun _ _ _ => rfl).trans (congrArg State.hbm hmoves.world :)).trans
        (obs_foldl_putBlock (obs := State.hbm) (fun _ _ _ => rfl) ..)
    · exact hlanes.trans (obs_foldl_putBlock (obs := State.lanes) (fun _ _ _ => rfl) ..)
    · exact ((hcore (obs := State.teams) fun _ _ _ => rfl).trans hmoves.teams).trans (obs_foldl_putBlock (obs := State.teams) (fun _ _ _ => rfl) ..)
    · exact (BlockFull.of_view (laneView_congr hlanes hframes)
        (foldl_putBlock_full c.wk _ _ (h.lt32 hl) s hl h.nodup fun m hm => h.lt32 hm) m hm).1
    · subst hnone
      have hring : (countWrite (acrdqWritten s c f (bank c f) none) c.wk regs).ring (wkCore c.wk) (f.sb.toNat % 64)
          = s.ring (wkCore c.wk) (f.sb.toNat % 64) :=
        (congrArg (fun z : State => z.ring (wkCore c.wk) (f.sb.toNat % 64)) hmoves.world :).trans
          (obs_foldl_putBlock (obs := fun z : State => z.ring (wkCore c.wk) (f.sb.toNat % 64)) (fun _ _ _ => rfl) ..)
      rw [acrdqRecorded, if_neg (by decide), ← hring, State.modRing, State.ring, State.core_modCore_self, tget_tput_self]
      rfl
end

section
/-! ## Ports, packets and the host link (R353–R359, R362–R364) -/

namespace Sys2Proof.Machine

/-! ### Ports (R353, R354, R359) -/

theorem State.port_setPort (s : State) (n k : Nat) (p : Port) : (s.setPort n p).port k = if n = k then p else s.port k :=
  tget_tput ..

@[simp] theorem State.port_setPort_self (s : State) (n : Nat) (p : Port) : (s.setPort n p).port n = p := by rw [State.port_setPort, if_pos rfl]

/-- An event of a port: it leaves the port as `q` says, and every other port, memory and the package's registers as they are. -/
def PortEvent (s : State) (i : Instr) (n : Nat) (q : Port → Prop) : Prop :=
  ∃ t, exec i s = .next t ∧ q (t.port n) ∧ (∀ k, k ≠ n → t.port k = s.port k) ∧ t.hbm = s.hbm ∧ t.pkg = s.pkg

theorem PortEvent.of_set {s : State} {i : Instr} {n : Nat} {p : Port} {q : Port → Prop} (h : exec i s = .next (s.setPort n p).wake) (hq : q p) :
    PortEvent s i n q :=
  ⟨_, h, by rw [show ((s.setPort n p).wake).port n = p from State.port_setPort_self s n p]; exact hq,
    fun k hk => (State.port_setPort s n k p).trans (if_neg hk.symm), rfl, rfl⟩

theorem fabricOn_of {s : State} (h : s.pkg.fwst = .ready ∧ s.pkg.stopped = false) : fabricOn s = true := by
  rw [fabricOn, h.1, h.2]; rfl

theorem exec_linkUp {s : State} {n peer ver : Nat} (hon : s.pkg.fwst = .ready ∧ s.pkg.stopped = false) (hn : n < 36)
    (hup : (s.port n).up = false) (hpick : (s.port n).pick ≠ 0) (hver : ver ≠ 0) : exec (.linkUp n peer ver) s =
      .next (s.setPort n { s.port n with up := true, peer := some peer, tlv := 1, width := (s.port n).pick, rtrn := false, hbl := false
                                         heard := s.usec, sent := s.usec }).wake := by
  show execLinkUp n peer ver s = _
  have htrain : ¬ ((decide (36 ≤ n) || (s.port n).up || decide ((s.port n).pick = 0) || decide (ver = 0)) = true) := by
    simp only [Nat.not_le.2 hn, hup, hpick, hver, decide_false, Bool.or_self, Bool.false_eq_true, not_false_eq_true]
  exact congrArg Host.Outcome.next ((if_pos (fabricOn_of hon)).trans (if_neg htrain))

theorem exec_widthChange {s : State} {n : Nat} (hup : (s.port n).up = true) (h : (s.port n).rtrn = true ∨ (s.port n).width ≠ (s.port n).pick) :
    exec (.widthChange n) s = .next (s.setPort n { s.port n with width := (s.port n).pick, rtrn := false, up := (s.port n).pick != 0
                                                                 tlv := if (s.port n).pick != 0 then (s.port n).tlv else 0 }).wake := by
  have hgo : ((s.port n).rtrn || (s.port n).width != (s.port n).pick) = true := by simpa [Bool.or_eq_true] using h
  show execWidthChange n s = _
  simp only [execWidthChange, hup, hgo, Bool.not_true, Bool.or_self, Bool.false_eq_true, if_false]

theorem exec_heartbeat {s : State} {n : Nat} (hup : (s.port n).up = true) (h : ∀ a, (s.port n).peer = some a → a ∉ s.pkg.fenced) :
    exec (.heartbeat n) s = .next (s.setPort n { s.port n with heard := s.usec, hbl := false }).wake := by
  have hfence : (s.port n).peer.toList.any s.pkg.fenced.contains = false := by
    simpa [List.any_eq_false] using h
  show execHeartbeat n s = _
  simp only [execHeartbeat, hup, hfence, Bool.not_true, Bool.or_self, Bool.false_eq_true, if_false]

theorem exec_heartbeatLoss {s : State} {n : Nat} (hup : (s.port n).up = true) (hh : (s.port n).hbl = false) (hlate : (s.port n).heard + 50 ≤ s.usec) :
    exec (.heartbeatLoss n) s = .next (s.setPort n { s.port n with hbl := true }).wake := by
  show execHeartbeatLoss n s = _
  simp [execHeartbeatLoss, hup, hh, Nat.not_lt.2 hlate]

theorem exec_heartbeatSend {s : State} {n : Nat} (hon : s.pkg.fwst = .ready ∧ s.pkg.stopped = false) (hup : (s.port n).up = true)
    (hdue : (s.port n).sent + 10 ≤ s.usec) :
    exec (.heartbeatSend n) s = .next ((s.setPort n { s.port n with sent := s.usec }).send (.heartbeat n)).wake := by
  show execHeartbeatSend n s = _
  simp [execHeartbeatSend, fabricOn_of hon, hup, Nat.not_lt.2 hdue]

/-- Training picks the widest width that the lanes which pass and WCAP allow (R354). -/
theorem Port.toNat_pick (p : Port) : p.pick.toNat = min (if p.goodLanes = 4 then 3 else if 2 ≤ p.goodLanes then 2 else p.goodLanes) p.wcap.toNat := by
  have := p.wcap.isLt
  rw [Port.pick, BitVec.toNat_ofNat, Nat.mod_eq_of_lt (by omega)]

theorem Port.pick_limits (p : Port) : p.pick.toNat ≤ p.wcap.toNat ∧ (p.goodLanes = 4 → p.wcap = 3 → p.pick = 3)
    ∧ (p.goodLanes = 3 ∨ p.goodLanes = 2 → 2 ≤ p.wcap.toNat → p.pick = 2) ∧ (p.goodLanes = 0 → p.pick = 0) := by
  have hpick := p.toNat_pick
  refine ⟨by omega, fun h4 hw => ?_, fun h hw => ?_, fun h0 => ?_⟩ <;> apply BitVec.eq_of_toNat_eq <;> rw [hpick]
  · rw [if_pos h4, hw]; rfl
  · rw [if_neg (by omega), if_pos (by omega), Nat.min_eq_left hw]; rfl
  · rw [if_neg (by omega), if_neg (by omega), h0, Nat.zero_min]; rfl

/-! ### Packets (R355–R358) -/

section
variable {s : State} {src dst cls flits hop : Nat} {mark : Bool} (hf : src ∉ s.pkg.fenced) (hd : dst ≠ s.pkg.agent)
  (hroute : (s.route dst).getLsbD 63 = true) (hport : (s.port (s.mport dst)).usable = true)
include hf hd hroute hport

theorem exec_packet_escape : exec (.packetForward src dst none cls flits hop mark true) s =
    .next (s.enqueue1 src dst none (s.mport dst) cls (2 + hop % 4) flits mark).wake := by
  show execPacketForward src dst none cls flits hop mark true s = _
  simp [execPacketForward, hf, hd, hroute, hport]

variable (hs : src ≠ s.pkg.agent)
include hs

theorem exec_packet_adaptive {c : Nat} (hc : s.adaptive (s.mport dst) cls flits = some c) :
    exec (.packetForward src dst none cls flits hop mark false) s = .next (s.enqueue1 src dst none (s.mport dst) cls c flits mark).wake := by
  show execPacketForward src dst none cls flits hop mark false s = _
  simp [execPacketForward, hf, hd, hroute, hport, hs, hc]

theorem exec_packet_full (hc : s.adaptive (s.mport dst) cls flits = none) : exec (.packetForward src dst none cls flits hop mark false) s =
    .next (s.enqueue1 src dst none (s.mport dst) cls (2 + hop % 4) flits mark).wake := by
  show execPacketForward src dst none cls flits hop mark false s = _
  simp [execPacketForward, hf, hd, hroute, hport, hs, hc]

end

theorem depth_enqueue1 (s : State) (src dst : Nat) (via : Option Nat) (p cls chan flits : Nat) (mark : Bool) :
    tget ((s.enqueue1 src dst via p cls chan flits mark).port p).depth (8 * cls + chan) 0 = tget (s.port p).depth (8 * cls + chan) 0 + flits := by
  have hset : ∀ q, (s.setPort p q).port p = q := fun q => State.port_setPort_self s p q
  show tget ((s.setPort p _).port p).depth _ 0 = _
  rw [hset, tget_tput_self]

/-- A detour is taken only past a queue more than twice as deep, and 32 flits over (R357). -/
theorem detour_deeper {s : State} {dst cls x : Nat} (h : s.detour dst cls = some x) :
    2 * s.portDepth (s.mport x) cls + 32 < s.portDepth (s.mport dst) cls := by
  unfold State.detour at h
  dsimp only at h
  split at h
  · cases h
  · split at h
    · next hdeep => cases h; exact hdeep
    · cases h

/-- The rates after one of them has risen by 1/64; one that is full is freed (R358). -/
def raisedRates (s : State) (g : Nat) (e : Rate) : Tab Rate :=
  if fullRate ≤ e.rate + fullRate / 64 then tdel s.pkg.rates g
  else tset s.pkg.rates g { e with rate := e.rate + fullRate / 64, raised := s.usec }

theorem tfind_raisedRates (s : State) (g : Nat) (e : Rate) : tfind (raisedRates s g e) g =
    if fullRate ≤ e.rate + 1024 then none else some { e with rate := e.rate + 1024, raised := s.usec } := by
  have hstep : fullRate / 64 = 1024 := by decide
  rw [raisedRates, hstep]
  split
  · rw [tfind_tdel, if_pos rfl]
  · rw [tfind_tset_self]

theorem rates_set_wake (s : State) (r : Tab Rate) : ({ s with pkg := { s.pkg with rates := r } } : State).wake.pkg.rates = r := rfl

theorem exec_rateIncrease {s : State} {g : Nat} {e : Rate} (h : tfind s.pkg.rates g = some e) (hdue : e.raised + max 1 s.pkg.incp.toNat ≤ s.usec) :
    exec (.rateIncrease g) s = .next { s with pkg := { s.pkg with rates := raisedRates s g e } }.wake := by
  show execRateIncrease g s = _
  simp only [execRateIncrease, h, Nat.not_lt.2 hdue, if_false]
  rfl

/-! ### The host link (R344, R345, R364) -/

theorem exec_hostGo_owned {s : State} {half : Nat} {d : LineData} {r : Req} (h : findReq s (halfKey half) DReq.owns = some r) :
    exec (.hostGo half d) s =
      .next (dropReq { s with halves := tset s.halves half ⟨.excl, lineGet d (64 * (half % 2)) 64, false⟩ } r.id).wake := by
  show execHostGo half d s = _
  simp only [execHostGo, h]

theorem dropReq_gone (s : State) (id : Nat) : ∀ x ∈ (dropReq s id).reqs, x.id ≠ id := fun x hx => by
  simpa using (List.mem_filter.1 hx).2

/-- The state in which a snoop of a half has been answered (R344). -/
def snooped (s : State) (half : Nat) (h : Half) : SnoopKind → State
  | .snpCur => s
  | .snpInv => { s with halves := tdel s.halves half }
  | .snpData => { s with halves := tset s.halves half { h with st := .shared } }

theorem exec_hostSnoop {s : State} {half : Nat} {h : Half} {kind : SnoopKind} (hh : tfind s.halves half = some h) (hst : h.st ≠ .inv) :
    exec (.hostSnoop half kind) s = .next ((snooped s half h kind).send
      (.hostSnoopResp half h.st (if h.bad = false ∧ (h.st = .modified ∨ kind = .snpCur) then h.bytes else []))).wake := by
  have hbytes : (if (!h.bad && (decide (h.st = .modified) || decide (kind = .snpCur))) = true then h.bytes else []) =
      if h.bad = false ∧ (h.st = .modified ∨ kind = .snpCur) then h.bytes else [] :=
    if_congr (by simp) rfl rfl
  show execHostSnoop half kind s = _
  rw [← hbytes, execHostSnoop, hh]
  cases kind with
  | snpCur => rfl
  | snpInv => rfl
  | snpData => dsimp only; rw [if_neg hst]; rfl

theorem exec_hostBiResponse_far {s : State} {agent line col : Nat} (hh : s.pkg.host = some agent) (hp : s.biPend = [(line, col)])
    (hc : col ≠ s.pkg.agent) : exec (.hostBiResponse agent line) s = .next (({ s with biPend := [] }.send (.invack line col))).wake := by
  show execHostBiResponse agent line s = _
  simp [execHostBiResponse, hh, hp, hc, dropFirst]

theorem exec_hostMemRead {s : State} {a n : Nat} (hon : s.pkg.fwst = .ready ∧ s.pkg.stopped = false) (hin : a + n ≤ usable s)
    (hl : ∀ l ∈ linesOf a n, s.dir l ≠ 2 ∧ s.noAcks (s.lineOf l) = true) : exec (.hostMemRead a n) s =
      .next ((s.unwait (hostWho s).who).send (.hostMemData a (s.hbm.read a n) ((linesOf a n).any fun l => s.dir l == 3 || inSecure s l))).wake := by
  have hfar : (linesOf a n).find? (fun l => s.dir l == 2 && (s.holder l).bind Holder.owner != s.pkg.host) = none :=
    List.find?_eq_none.2 fun l h => by simp only [beq_eq_false_iff_ne.2 (hl l h).1, Bool.false_and]; decide
  have hacks : (linesOf a n).any (fun l => !s.noAcks (s.lineOf l)) = false := by
    rw [List.any_eq_false]
    exact fun l h => by simp [(hl l h).2]
  show execHostMemRead a n s = _
  simp only [execHostMemRead, fabricOn_of hon, Nat.not_lt.2 hin, hfar, hacks, Bool.not_true, Bool.false_eq_true, if_false]

theorem exec_hostMemWrite {s s1 : State} {a : Nat} {bs : List Byte} (hon : s.pkg.fwst = .ready ∧ s.pkg.stopped = false)
    (hin : a + bs.length ≤ usable s) (hl : ∀ l ∈ linesOf a bs.length, inSecure s l = false ∧ s.admits l s.ownCell = true)
    (hw : hostWrite (s.unwait (hostWho s).who) (s.pkg.agent * 2 ^ 40 + a) bs = .ok s1 ()) :
    exec (.hostMemWrite a bs) s = .next (s1.hostDone a ((linesOf a bs.length).map s.lineOf)).wake := by
  have hrefused : (linesOf a bs.length).any (fun l => inSecure s l || !s.admits l s.ownCell) = false := by
    rw [List.any_eq_false]
    exact fun l h => by simp [(hl l h).1, (hl l h).2]
  show execHostMemWrite a bs s = _
  simp only [execHostMemWrite, fabricOn_of hon, Nat.not_lt.2 hin, hrefused, hw, Bool.not_true, Bool.false_eq_true, if_false]

end Sys2Proof.Machine

open Sys2Proof Sys2Proof.Machine

/-- Settles O49: each event sets its one port, joins one queue or answers the host, as its conditions say. -/
theorem fabricResults : Obligations.FabricResults := by
  unfold Obligations.FabricResults
  intro on port
  have hport : port = PortEvent := rfl
  clear_value port
  subst hport
  refine ⟨?_, Port.pick_limits, ?_, ?_, ?_, fun _ _ => rfl, ?_, ?_, ?_, ?_, fun _ _ _ _ => detour_deeper, ?_, ?_, ?_, ?_, ?_, ?_⟩
  · intro s n peer ver hon hn hup hpick hver
    exact PortEvent.of_set (exec_linkUp hon hn hup hpick hver) ⟨rfl, rfl, rfl, rfl, rfl⟩
  · intro s n lanes
    exact PortEvent.of_set (p := { s.port n with bad := (s.port n).bad ||| lanes % 16 }) rfl rfl
  · intro s n hup h
    exact PortEvent.of_set (exec_widthChange hup h) ⟨rfl, rfl, bne_iff_ne⟩
  · intro s n
    exact PortEvent.of_set (p := { s.port n with rtrn := true }) rfl rfl
  · intro s n hon hup hdue
    exact ⟨_, exec_heartbeatSend hon hup hdue, rfl, congrArg Port.sent (State.port_setPort_self ..)⟩
  · intro s n hup h
    exact PortEvent.of_set (exec_heartbeat hup h) ⟨rfl, rfl⟩
  · intro s n hup hh hlate
    exact PortEvent.of_set (exec_heartbeatLoss hup hh hlate) rfl
  · intro s src dst cls flits hop mark hf hd hroute hport p leaves
    have hleaves : ∀ esc chan, exec (.packetForward src dst none cls flits hop mark esc) s =
        .next (s.enqueue1 src dst none p cls chan flits mark).wake → leaves esc chan :=
      fun esc chan h => ⟨_, h, rfl, depth_enqueue1 s src dst none p cls chan flits mark⟩
    exact ⟨hleaves _ _ (exec_packet_escape hf hd hroute hport), fun hs =>
      ⟨fun c hc => hleaves _ _ (exec_packet_adaptive hf hd hroute hport hs hc), fun hc => hleaves _ _ (exec_packet_full hf hd hroute hport hs hc)⟩⟩
  · intro s g e h hdue
    refine ⟨{ s with pkg := { s.pkg with rates := raisedRates s g e } }.wake, exec_rateIncrease h hdue, ?_⟩
    rw [rates_set_wake, tfind_raisedRates]
  · intro s half h kind hh hst
    refine ⟨_, exec_hostSnoop hh hst, ?_, ?_⟩
    · cases kind <;> rfl
    · cases kind with
      | snpCur => exact hh
      | snpInv => exact (tfind_tdel ..).trans (if_pos rfl)
      | snpData => exact tfind_tset_self ..
  · intro s half d r h
    exact ⟨_, exec_hostGo_owned h, tfind_tset_self .., dropReq_gone _ r.id⟩
  · intro s agent line col hh hp hc
    exact ⟨_, exec_hostBiResponse_far hh hp hc, rfl, rfl⟩
  · intro s a n hon hin hl
    exact ⟨_, exec_hostMemRead hon hin hl, rfl, rfl⟩
  · intro s a bs s1 hon hin hl hw
    exact exec_hostMemWrite hon hin hl hw
end

section
/-! ## Pre-emption and user interrupts (R384, R389–R394, R397, R399–R401) -/

namespace Sys2Proof.Machine

/-! ### Requests and the choice (R384, R389–R392) -/

theorem exec_prgo_nobody {s : State} {core : Nat} (hb : (s.core core).page.prbusy = false)
    (hno : ∀ e ∈ residents s core none, e.2.handle ≠ (s.core core).page.prteam) :
    exec (.prgo core) s = .next (s.modCore core fun k => { k with page := { k.page with prres := 5 } }) := by
  have hall : (residents s core none).all (fun e => e.2.handle != (s.core core).page.prteam) = true :=
    List.all_eq_true.2 fun e he => bne_iff_ne.2 (hno e he)
  show execPrgo core s = _
  simp only [execPrgo, askPrgo, hb, hall, Bool.false_eq_true, if_false, if_true]

/-- The state in which a request of the supervisor core is being served. -/
def prgoTaken (s : State) (core : Nat) : State := s.modCore core fun k => { k with page := { k.page with prbusy := true, prres := 0 } }

theorem core_prgoTaken (s : State) (core : Nat) : (prgoTaken s core).core core =
    { s.core core with page := { (s.core core).page with prbusy := true, prres := 0 } } := State.core_modCore_self ..

theorem exec_prgo_found {s : State} {core tk : Nat} {u : Team} (hb : (s.core core).page.prbusy = false) (hp : (s.core core).preempt = none)
    (hfound : (residents s core none).find? (fun e => e.2.handle == (s.core core).page.prteam) = some (tk, u)) :
    exec (.prgo core) s = .next (startQuiesce (prgoTaken s core) core tk none) := by
  have hall : ¬ (residents s core none).all (fun e => e.2.handle != (s.core core).page.prteam) = true := fun h => by
    have hne := List.all_eq_true.1 h _ (List.mem_of_find?_eq_some hfound)
    have heq := List.find?_some hfound
    exact bne_iff_ne.1 hne (beq_iff_eq.1 heq)
  have hres : (residents (prgoTaken s core) core none).find? (fun e => e.2.handle == (s.core core).page.prteam) = some (tk, u) := hfound
  have hask : askPrgo s core = nextRequest (prgoTaken s core) core := by
    unfold askPrgo
    dsimp only
    rw [hb, if_neg Bool.false_ne_true, if_neg hall]
    rfl
  show execPrgo core s = _
  rw [execPrgo, hask, nextRequest, core_prgoTaken]
  simp only [hp, hres, Option.isSome_none, Bool.not_true, Bool.or_self, Bool.false_eq_true, if_false]

theorem core_startQuiesce (s : State) (core tk : Nat) (head : Option (Nat × Nat)) :
    (startQuiesce s core tk head).core core = { s.core core with preempt := some ⟨tk, head⟩ } := by
  rw [startQuiesce, State.core_of_wake, State.core_modCore_self]; rfl

theorem team_startQuiesce (s : State) (core tk : Nat) (head : Option (Nat × Nat)) :
    (startQuiesce s core tk head).team tk = { s.team tk with phase := .quiescing } := by
  rw [startQuiesce, State.team_of_wake, State.team_of_modCore, State.team_modTeam_self]

theorem exec_quiesceDone {s : State} {tk : Nat} (hq : (s.team tk).phase = .quiescing) (hc : ∀ wk ∈ s.teamWarps tk, (s.warp wk).closed = true) :
    exec (.quiesceDone tk) s = .next (choose s tk).wake := by
  have hany : (s.teamWarps tk).any (fun wk => !(s.warp wk).closed) = false := by
    rw [List.any_eq_false]
    exact fun wk hwk => by simp [hc wk hwk]
  show execQuiesceDone tk s = _
  simp [execQuiesceDone, hq, hany]

section
variable {s : State} {tk : Nat} {g : Grid} (hg : tfind s.grids (s.team tk).grid.toNat = some g) (hx : teamExited s tk = false)
include hg hx

theorem choose_drains (hn : nearlyDone (s.team tk) (dBudget g.desc) = true) :
    choose s tk = s.modTeam tk fun u => { u with phase := .draining (s.core (s.team tk).core).cycle.toNat } := by
  simp only [choose, hg, hx, hn, Bool.false_eq_true, if_false, if_true]

variable (hn : nearlyDone (s.team tk) (dBudget g.desc) = false)
include hn

theorem choose_flushes (he : (s.team tk).escaped = false) (hr : dRst g.desc = true) :
    choose s tk = s.modTeam tk fun u => { u with phase := .flushing } := by
  simp only [choose, hg, hx, hn, he, hr, Bool.false_eq_true, Bool.not_false, Bool.and_self, if_false, if_true]

theorem choose_saves {a : SaveArea} (he : (s.team tk).escaped = true ∨ dRst g.desc = false) (ha : findArea s (areaSize s tk) = some a) :
    choose s tk = s.modTeam tk fun u => { u with phase := .saving } := by
  have hno : (!(s.team tk).escaped && dRst g.desc) = false := by rcases he with h | h <;> simp [h]
  simp only [choose, hg, hx, hn, hno, ha, Option.isSome_some, Bool.false_eq_true, if_false, if_true]

end

theorem exec_drainRequiesce {s : State} {tk n : Nat} (hp : (s.team tk).phase = .draining n)
    (hlate : n + 65536 ≤ (s.core (s.team tk).core).cycle.toNat) :
    exec (.drainRequiesce tk) s = .next (s.modTeam tk fun u => { u with phase := .quiescing }).wake := by
  show execDrainRequiesce tk s = _
  simp only [execDrainRequiesce, hp, Nat.not_lt.2 hlate, if_false]

theorem exec_victimSkipExpire {s : State} {core tk : Nat} {e : Nat × (Nat × Nat) × Nat} (he : e ∈ (s.core core).skip) (ht : e.1 = tk)
    (hlate : e.2.2 ≤ (s.core core).cycle.toNat) : exec (.victimSkipExpire core tk) s =
      .next (s.modCore core fun c => { c with skip := c.skip.filter fun e => e.1 != tk || decide ((s.core core).cycle.toNat < e.2.2) }).wake := by
  have hany : (s.core core).skip.any (fun e => e.1 == tk && decide (e.2.2 ≤ (s.core core).cycle.toNat)) = true :=
    List.any_eq_true.2 ⟨e, he, by simp [ht, hlate]⟩
  show execVictimSkipExpire core tk s = _
  simp only [execVictimSkipExpire, hany, if_true]

/-! ### The queue of a core through releases (R393, R394) -/

/-- The runs that stand in the queue of a core. -/
def State.runsOn (s : State) (core : Nat) : List Run := (s.core core).queue

theorem runsOn_modCore (s : State) (k : Nat) (f : Core → Core) (j : Nat) (hf : ∀ c, (f c).queue = c.queue) :
    (s.modCore k f).runsOn j = s.runsOn j := by
  by_cases h : k = j
  · subst h; rw [State.runsOn, State.core_modCore_self, hf]; rfl
  · rw [State.runsOn, State.core_modCore_ne _ _ h]; rfl

theorem runsOn_modPart (s : State) (p : Nat) (f : Part → Part) (j : Nat) : (s.modPart p f).runsOn j = s.runsOn j := rfl

/-- A lane leaves its slot with its warp. -/
def laneReleased (wk : Nat) (s : State) (l : Nat) : State := { s.unwait (.lane wk l) with lanes := tdel (s.unwait (.lane wk l)).lanes (lkOf wk l) }

/-- The state in which a warp's lanes have left its slot. -/
def warpEmptied (s : State) (wk : Nat) : State :=
  { (upto 32).foldl (laneReleased wk) (releaseLatch s wk) with warps := tdel ((upto 32).foldl (laneReleased wk) (releaseLatch s wk)).warps wk }

theorem runsOn_warpEmptied (s : State) (wk j : Nat) : (warpEmptied s wk).runsOn j = s.runsOn j := by
  have hlanes : ((upto 32).foldl (laneReleased wk) (releaseLatch s wk)).runsOn j = (releaseLatch s wk).runsOn j :=
    foldl_unobserved _ (State.runsOn · j) _ fun _ _ _ => rfl
  have hlatch : (releaseLatch s wk).runsOn j = s.runsOn j := by
    rw [releaseLatch, runsOn_modCore]
    exact fun _ => rfl
  rw [hlatch] at hlanes
  unfold warpEmptied
  generalize (upto 32).foldl (laneReleased wk) (releaseLatch s wk) = z at hlanes ⊢
  exact hlanes

theorem releaseWarp_eq (s : State) (wk : Nat) : releaseWarp s wk = ((warpEmptied s wk).modCore (wkCore wk) fun c =>
    { c with page := { c.page with pend := c.page.pend &&& ~~~(1#64 <<< wkSlot wk) }
             ofrees := c.ofrees.filter fun e => e.1 / 32 != wk
             walks := c.walks.filter fun (w : Walk) => w.wk != wk || !w.ended }).modPart (wkPk wk) fun p =>
      { p with reqs := p.reqs.filter fun r => r.wk != wk } := rfl

theorem runsOn_releaseWarp (s : State) (wk j : Nat) : (releaseWarp s wk).runsOn j = s.runsOn j := by
  rw [releaseWarp_eq, runsOn_modPart, runsOn_modCore, runsOn_warpEmptied]
  exact fun _ => rfl

theorem runsOn_foldl_releaseWarp (wks : List Nat) (s : State) (j : Nat) : (wks.foldl releaseWarp s).runsOn j = s.runsOn j :=
  foldl_unobserved _ (State.runsOn · j) s fun st wk _ => runsOn_releaseWarp st wk j

theorem runsOn_dropPool (s : State) (core realm j : Nat) : (dropPool s core realm).runsOn j = s.runsOn j := by
  unfold dropPool
  split
  · rfl
  · rw [runsOn_modCore]; exact fun _ => rfl

/-- What a table holds whose entries all change in one way. -/
theorem tfind_map_snd {α β : Type} (f : α → β) (k : Nat) : ∀ t : Tab α, tfind (t.map fun e => (e.1, f e.2)) k = (tfind t k).map f
  | [] => rfl
  | (j, v) :: t => by
    by_cases h : j = k
    · simp [tfind, h]
    · simp [tfind, h, tfind_map_snd f k t]

theorem runsOn_poolGained (old s : State) (j : Nat) : (poolGained old s).runsOn j = s.runsOn j := by
  unfold poolGained
  split
  · have hcore := tfind_map_snd (fun c : Core => { c with skip := [] }) j s.cores
    simp only [State.runsOn, State.core, tget, hcore]
    cases tfind s.cores j <;> rfl
  · rfl

/-- The state in which a team's warps, held arrivals and save areas are free. -/
def teamEmptied (s : State) (tk : Nat) : State :=
  let s2 := ((s.teamWarps tk).foldl releaseWarp s).modCore (s.team tk).core fun c => { c with shq := c.shq.filter fun (j : ShJob) => j.team != tk }
  poolGained s2 { s2 with pkg := { s2.pkg with svused := s2.pkg.svused.filter fun a => !(s.team tk).saves.contains a } }

theorem runsOn_teamEmptied (s : State) (tk j : Nat) : (teamEmptied s tk).runsOn j = s.runsOn j := by
  unfold teamEmptied
  dsimp only
  rw [runsOn_poolGained]
  refine Eq.trans (runsOn_modCore _ _ (fun c => { c with shq := c.shq.filter fun (j : ShJob) => j.team != tk }) j fun _ => rfl) ?_
  exact runsOn_foldl_releaseWarp ..

theorem runsOn_releaseTeam (s : State) (tk j : Nat) : (releaseTeam s tk).runsOn j = s.runsOn j := by
  refine Eq.trans ?_ (runsOn_teamEmptied s tk j)
  unfold releaseTeam
  dsimp only
  rw [runsOn_dropPool]
  show State.runsOn (match tfind (teamEmptied s tk).grids (s.team tk).grid.toNat with | some g => _ | none => teamEmptied s tk) j = _
  cases tfind (teamEmptied s tk).grids (s.team tk).grid.toNat <;> rfl

/-- The state in which no doffer works on a frame of a team. -/
def doffersDropped (s : State) (tk : Nat) : State := (teamFrames s tk).foldl (fun st e => dropDoffer st e.1 e.2) s

theorem runsOn_dropFrames (s : State) (tk j : Nat) : (dropFrames s tk).runsOn j = s.runsOn j := by
  have hdoffer : ∀ st k f, (dropDoffer st k f).runsOn j = st.runsOn j := fun st k f => by
    unfold dropDoffer
    dsimp only
    split
    · split <;> rfl
    · split <;> rfl
    · rfl
  have hdropped : (doffersDropped s tk).runsOn j = s.runsOn j :=
    foldl_unobserved _ (State.runsOn · j) s fun st (e : Nat × Frame) _ => hdoffer st e.1 e.2
  refine Eq.trans ?_ hdropped
  exact foldl_unobserved (fun (st : State) (d : Defer) => st.unwait (.defer d.id)) (State.runsOn · j)
    (es := (doffersDropped s tk).defers.filter fun d => ((doffersDropped s tk).warp d.wk).team == tk) _ fun _ _ _ => rfl

theorem runsOn_nextRequest (s : State) (core j : Nat) : (nextRequest s core).runsOn j = s.runsOn j := by
  unfold nextRequest
  dsimp only
  split
  · rfl
  split
  · next tk _ _ =>
    show ((s.modTeam tk fun t => { t with phase := .quiescing }).modCore core fun c => { c with preempt := some ⟨tk, none⟩ }).runsOn j = _
    rw [runsOn_modCore]
    · rfl
    · exact fun _ => rfl
  · rw [runsOn_modCore]; exact fun _ => rfl

theorem runsOn_endPreempt (s : State) (core tk : Nat) (res : BitVec 3) (j : Nat) : (endPreempt s core tk res).runsOn j = s.runsOn j := by
  unfold endPreempt
  split
  · split
    · rfl
    · refine (runsOn_nextRequest ..).trans ?_
      rw [runsOn_modCore]
      exact fun _ => rfl
  · rfl

theorem runsOn_wakeCores (s : State) (j : Nat) : (wakeCores s).runsOn j = s.runsOn j :=
  foldl_unobserved _ (State.runsOn · j) s fun st c _ => by
    split
    · rw [runsOn_modCore]; exact fun _ => rfl
    · rfl

theorem runsOn_enqueue_head (s : State) (core : Nat) (r : Run) : (enqueue s core r true).runsOn core = queueHead (s.runsOn core) r := by
  rw [State.runsOn, enqueue, State.core_modCore_self]; rfl

/-! ### Flush and save (R393, R394) -/

/-- The state in which a flushed team has released all that it held. -/
def flushReleased (s : State) (tk : Nat) : State := releaseTeam (dropFrames s tk) tk

/-- The state in which a flushed team's slots are those that it had, and the objects that survive it are kept. -/
def flushSettled (s : State) (tk : Nat) (survivors : Bool) : State :=
  let t := s.team tk
  let s1 := match tfind s.grids t.grid.toNat, tfind (flushReleased s tk).grids t.grid.toNat with
    | some g, some g0 => (flushReleased s tk).setGrid { g0 with spent := g.spent }
    | _, _ => flushReleased s tk
  if survivors then { s1 with pkg := { s1.pkg with keptH := s1.pkg.keptH ++ [t.handle.toNat % 2 ^ 21] } } else s1

theorem flushTeam_eq (s : State) (tk : Nat) (b : Bool) : flushTeam s tk b =
    endPreempt (enqueue (flushSettled s tk b) (s.team tk).core (teamRun (s.team tk) (teamAff s (s.team tk)) none) true) (s.team tk).core tk 2 := rfl

/-- What is neither of grids nor of the package's registers is not changed by the settling. -/
theorem obs_flushSettled {α : Type} {obs : State → α} (hgrid : ∀ st g, obs (State.setGrid st g) = obs st)
    (hpkg : ∀ (st : State) p, obs { st with pkg := p } = obs st) (s : State) (tk : Nat) (b : Bool) :
    obs (flushSettled s tk b) = obs (flushReleased s tk) := by
  have hmatch : ∀ (x y : Option Grid), obs (match x, y with
      | some g, some g0 => (flushReleased s tk).setGrid { g0 with spent := g.spent }
      | _, _ => flushReleased s tk) = obs (flushReleased s tk) := fun x y => by
    cases x with
    | none => rfl
    | some g => cases y with
      | none => rfl
      | some g0 => exact hgrid ..
  cases b with
  | false => exact hmatch ..
  | true => exact (hpkg ..).trans (hmatch ..)

/-- The run of a flushed team stands at the head of its class. -/
theorem runsOn_flushTeam (s : State) (tk : Nat) (b : Bool) : (flushTeam s tk b).runsOn (s.team tk).core =
    queueHead (s.runsOn (s.team tk).core) (teamRun (s.team tk) (teamAff s (s.team tk)) none) := by
  have hkeep : (flushSettled s tk b).runsOn (s.team tk).core = s.runsOn (s.team tk).core :=
    (obs_flushSettled (obs := (State.runsOn · (s.team tk).core)) (fun _ _ => rfl) (fun _ _ => rfl) s tk b).trans
      ((runsOn_releaseTeam ..).trans (runsOn_dropFrames ..))
  rw [flushTeam_eq, runsOn_endPreempt, runsOn_enqueue_head, hkeep]

/-- A team that is no more is not quiesced again. -/
theorem team_gone_nextRequest {s : State} {core tk : Nat} (h : tfind s.teams tk = none) : tfind (nextRequest s core).teams tk = none := by
  unfold nextRequest
  dsimp only
  split
  · exact h
  split
  · next tk' u hfound =>
    have hin : (tk', u) ∈ s.teams := (List.mem_filter.1 (List.mem_of_find?_eq_some hfound)).1
    have hne : tk' ≠ tk := fun heq => by
      have := tfind_isSome_of_mem hin
      rw [heq, h] at this
      cases this
    exact (tfind_tset_ne _ hne _).trans h
  · exact h

theorem team_gone_endPreempt {s : State} {core c tk : Nat} {res : BitVec 3} (h : tfind s.teams tk = none) :
    tfind (endPreempt s core c res).teams tk = none := by
  unfold endPreempt
  split
  · split
    · exact h
    · exact team_gone_nextRequest h
  · exact h

theorem flushTeam_teams (s : State) (tk : Nat) (b : Bool) : tfind (flushTeam s tk b).teams tk = none := by
  refine team_gone_endPreempt ?_
  refine (obs_flushSettled (obs := fun st => tfind st.teams tk) (fun _ _ => rfl) (fun _ _ => rfl) s tk b).trans ?_
  exact releaseTeam_teams ..

theorem exec_flushDone {s s1 : State} {tk : Nat} {vs : List Nat} (hp : (s.team tk).phase = .flushing) (hx : teamExited s tk = false)
    (hc : noCommands s (s.team tk).core tk true = true) (he : noEntries s (s.team tk).core tk = true)
    (hr : runAcc s (retireWho s tk) (fun st => resetArena st (retireWho s tk) (s.team tk) true) = (s1, some (.ok vs))) :
    exec (.flushDone tk) s = .next (flushTeam s1 tk (!vs.isEmpty)).wake := by
  show execFlushDone tk s = _
  simp only [execFlushDone, hp, hx, hc, he, hr, ne_eq, not_true_eq_false, Bool.not_true, Bool.or_self, Bool.false_eq_true, if_false]

theorem exec_saveDone {s s1 : State} {tk : Nat} {a : SaveArea} (hp : (s.team tk).phase = .saving) (hx : teamExited s tk = false)
    (hq : quiet s (s.team tk).core tk = true) (hf : s.fails.find? (fun x => x.who == (retireWho s tk).who) = none)
    (hb : backAll s (retireWho s tk) (toBack s tk (s.core (s.team tk).core).l1) = (s1, none)) (ha : findArea s1 (areaSize s1 tk) = some a) :
    exec (.saveDone tk) s = .next (saveTeam (s1.modCore (s.team tk).core fun c => { c with l1 := [] }) tk a).wake := by
  show execSaveDone tk s = _
  simp only [execSaveDone, hp, hx, hq, hf, hb, ha, ne_eq, not_true_eq_false, Bool.not_true, Bool.false_eq_true, if_false, Option.map_none]

theorem runsOn_modTeam (s : State) (tk : Nat) (f : Team → Team) (j : Nat) : (s.modTeam tk f).runsOn j = s.runsOn j := rfl

theorem runsOn_detach (s : State) (tk area : Nat) (places : List (Nat × Nat)) (j : Nat) : (detach s tk area places).runsOn j = s.runsOn j := rfl

/-- The state in which a team's frames have their places in the directory of its area. -/
def framesListed (s : State) (tk : Nat) : State := (dirFrames s tk).foldl (fun st e => st.modFrame e.1 fun f =>
  { f with listed := some (((dirFrames s tk).findIdx? fun x => x.1 == e.1).getD 0) }) s

theorem runsOn_writeArea (s : State) (tk area base j : Nat) : (writeArea s tk area base).runsOn j = s.runsOn j := by
  have hlisted : (framesListed s tk).runsOn j = s.runsOn j := foldl_unobserved _ (State.runsOn · j) s fun _ _ _ => rfl
  exact Eq.trans rfl hlisted

/-- A saved team's run enters its core's queue, whose runs the save itself leaves alone. -/
theorem saveTeam_enqueues (s : State) (tk : Nat) (a : SaveArea) : ∃ z, saveTeam s tk a = endPreempt (wakeCores (enqueue z (s.team tk).core
    (teamRun (s.team tk) (teamAff s (s.team tk)) (some tk)) true)) (s.team tk).core tk 3 ∧ ∀ j, z.runsOn j = s.runsOn j := by
  unfold saveTeam
  dsimp only
  rw [State.team_modTeam_self]
  refine ⟨_, rfl, fun j => ?_⟩
  rw [runsOn_dropPool, runsOn_modTeam, runsOn_modCore, runsOn_foldl_releaseWarp, runsOn_detach, runsOn_writeArea]
  · rfl
  · exact fun _ => rfl

/-- The run of a saved team stands at the head of its class. -/
theorem runsOn_saveTeam (s : State) (tk : Nat) (a : SaveArea) : (saveTeam s tk a).runsOn (s.team tk).core =
    queueHead (s.runsOn (s.team tk).core) (teamRun (s.team tk) (teamAff s (s.team tk)) (some tk)) := by
  obtain ⟨z, hz, hkeep⟩ := saveTeam_enqueues s tk a
  rw [hz, runsOn_endPreempt, runsOn_wakeCores, runsOn_enqueue_head, hkeep]

/-! ### Restore (R397) -/

theorem exec_restore {s s1 s2 : State} {core tk : Nat} {r : Run} {rest : List Run} {g : Grid} {ws : List (Nat × List Val)}
    (hq : (s.core core).queue = r :: rest) (hr : r.saved = some tk) (hg : tfind s.grids r.grid.toNat = some g) (hm : mayAdmit s core = true)
    (hfit : failRows s core ⟨g.desc, g.num.toNat, r.first,
      ((upto (s.team tk).wpt).map (currentFrames s ((s.team tk).saves.getLast?.getD ⟨0, 0⟩).base (s.team tk))).map
        (fun ks => (ks.map fun k => granules (s.frame k).demand).sum), false⟩ none = [])
    (ha : startAcquire s core = (s1, true))
    (hw : runAcc s1 (queueWho s1 core) (fun st => frameWords st core (s.team tk)
      ((upto (s.team tk).wpt).map (currentFrames s ((s.team tk).saves.getLast?.getD ⟨0, 0⟩).base (s.team tk))).flatten) = (s2, some (.ok (.ok ws)))) :
    exec (.restore core) s = .next (drainBack ((restoreTeam (dropOldCode s2 core g) core tk g.desc ws).modCore core fun c =>
      { c with queue := rest, lastAdm := some c.cycle.toNat })).wake := by
  show execRestore core s = _
  simp only [execRestore, hq, hr, hg, hm, hfit, ha, hw, List.isEmpty_nil, Bool.not_true, Bool.false_eq_true, if_false]

/-- How a team goes on, and where. -/
def State.stands (s : State) (tk : Nat) : TeamPhase × Nat := ((s.team tk).phase, (s.team tk).core)

theorem stands_modTeam (s : State) (tk : Nat) {f : Team → Team} (hf : ∀ t, (f t).phase = t.phase ∧ (f t).core = t.core) :
    (s.modTeam tk f).stands tk = s.stands tk := by
  rw [State.stands, State.team_modTeam_self, (hf _).1, (hf _).2]; rfl

theorem stands_bringFrame (tk wk : Nat) (s : State) (e : Nat × List Val) : (bringFrame tk wk s e).stands tk = s.stands tk := by
  have hspill : ∀ off, (s.modTeam tk fun t => { t with recs := t.recs.filter fun x => x.1 != off, spoilt := t.spoilt.filter (· != off) }).stands tk
      = s.stands tk := fun off => stands_modTeam s tk fun _ => ⟨rfl, rfl⟩
  unfold bringFrame
  dsimp only
  split
  · split <;> exact hspill _
  · rfl

theorem stands_restoreWarp (core base tk area : Nat) (d : List Word) (ws : List (Nat × List Val)) (s : State) (wix : Nat) :
    (restoreWarp core base tk area d ws s wix).stands tk = s.stands tk := by
  have hlanes : ∀ (f : Nat → Lane) wk (st : State), ((upto 32).foldl (fun st l => st.setLane wk l (f l)) st).stands tk = st.stands tk :=
    fun f wk st => foldl_unobserved _ (State.stands · tk) st fun _ _ _ => rfl
  have hframes : ∀ (es : List (Nat × List Val)) wk (st : State), (es.foldl (bringFrame tk wk) st).stands tk = st.stands tk := fun es wk st =>
    foldl_unobserved _ (State.stands · tk) st fun st e _ => stands_bringFrame tk wk st e
  unfold restoreWarp
  dsimp only
  split
  · exact (hframes _ _ _).trans (hlanes _ _ _)
  · exact (hframes _ _ _).trans (hlanes _ _ _)

theorem restoreTeam_stands {s : State} {core tk : Nat} {d : List Word} {ws : List (Nat × List Val)} (hr : (s.team tk).reqs = []) :
    ∃ z : State, restoreTeam s core tk d ws = z.modTeam tk (fun u => { u with reqs := [], limbo := [] }) ∧ z.stands tk = (.running, core) := by
  unfold restoreTeam
  dsimp only
  rw [hr, List.foldl_nil]
  refine ⟨_, rfl, ?_⟩
  refine (foldl_unobserved _ (State.stands · tk) _ fun st wix _ => stands_restoreWarp ..).trans ?_
  exact congrArg (fun t : Team => (t.phase, t.core)) (tget_tset_self ..)

/-- A team that is back, with no frame request left, runs on its new core. -/
theorem restoreTeam_runs {s : State} {core tk : Nat} {d : List Word} {ws : List (Nat × List Val)} (hr : (s.team tk).reqs = []) :
    let z := (restoreTeam s core tk d ws).team tk
    z.phase = .running ∧ z.core = core ∧ z.reqs = [] ∧ z.limbo = [] := by
  obtain ⟨z, hz, hstands⟩ := restoreTeam_stands (core := core) (d := d) (ws := ws) hr
  obtain ⟨hphase, hcore⟩ := Prod.mk.inj hstands
  rw [hz, State.team_modTeam_self]
  exact ⟨hphase, hcore, rfl, rfl⟩

/-! ### User interrupts (R399–R401) -/

section
variable {s s1 : State} {tk wk l0 : Nat} {ls : List Nat} {src dat : BitVec 32} {rest : List (BitVec 32 × BitVec 32)}

/-- The state in which the lanes `l0 :: ls` of a warp have taken a user interrupt; `pc` is where each of them stood. -/
def uintrTaken (s : State) (tk wk l0 : Nat) (ls : List Nat) (src dat : BitVec 32) (rest : List (BitVec 32 × BitVec 32)) (pc : Nat → Pc) : State :=
  takeTrap ((s.unwait (.lane wk l0)).modTeam tk fun u => { u with uiq := rest }) wk (l0 :: ls) .userint 0 ⟨pc l0, 0, 0, pc l0, 0⟩ false false 0 src dat
    [] false

/-- The state in which each of them resumes where it stood. -/
def uintrDelivered (s : State) (tk wk l0 : Nat) (ls : List Nat) (src dat : BitVec 32) (rest : List (BitVec 32 × BitVec 32)) (pc : Nat → Pc) : State :=
  (l0 :: ls).foldl (fun st l => st.modLane wk l fun ln => { ln with rpc := pc l, rix := 0 }) (uintrTaken s tk wk l0 ls src dat rest pc)

theorem exec_uintrDeliver (hq : (s.team tk).uiq = (src, dat) :: rest) (ht : uiTarget s tk = some wk)
    (hl : (upto 32).filter (fun l => (s.lane wk l).st == .run && (s.lane wk l).cix == 0) = l0 :: ls) (hen : (s.team tk).uien = true)
    (hp : (s.team tk).phase = .running) (hc : (s.warp wk).closed = true) (hpk : (s.warp wk).parked = false) (hpg : (s.warp wk).parking = false)
    (hv : (s.warp wk).trec.v = false) (ha : acquireAct s (whoLane s wk l0) 1 = (s1, none)) :
    exec (.uintrDeliver tk) s = .next (uintrDelivered s1 tk wk l0 ls src dat rest fun l => (s.lane wk l).pc).wake := by
  show execUintrDeliver tk s = _
  simp only [execUintrDeliver, hq, ht, hl, hen, hp, hc, hpk, hpg, hv, ha, Bool.not_true, Bool.or_self, Bool.false_eq_true, if_false,
    List.foldl_map]
  rfl

variable (s l0 ls src dat rest) (pc : Nat → Pc)

theorem warp_uintrDelivered : (uintrDelivered s tk wk l0 ls src dat rest pc).warp wk = (uintrTaken s tk wk l0 ls src dat rest pc).warp wk :=
  foldl_unobserved _ (fun st : State => st.warp wk) _ fun _ _ _ => rfl

theorem trec_uintrDelivered : ((uintrDelivered s tk wk l0 ls src dat rest pc).warp wk).trec =
    { v := true, async := false, nest := false, pk := false, cause := 9, sub := 0, opc := 0, lmask := maskOf (l0 :: ls)
      hdr := (pc l0).word, idx := 0, clane := 0, fid := BitVec.ofNat 9 (s.frameOf wk l0).fid, usrc := src, udat := dat } := by
  rw [warp_uintrDelivered, uintrTaken, warp_takeTrap]
  exact trec_writeRecord ..

theorem uiq_uintrDelivered : ((uintrDelivered s tk wk l0 ls src dat rest pc).team tk).uiq = rest := by
  have htrap : (uintrTaken s tk wk l0 ls src dat rest pc).teams = ((s.unwait (.lane wk l0)).modTeam tk fun u => { u with uiq := rest }).teams :=
    obs_takeTrap (obs := State.teams) (fun _ _ _ => rfl) (fun _ _ => rfl) (fun _ _ _ => rfl) ..
  have hlanes : (uintrDelivered s tk wk l0 ls src dat rest pc).teams = (uintrTaken s tk wk l0 ls src dat rest pc).teams :=
    foldl_unobserved _ State.teams _ fun _ _ _ => rfl
  rw [State.team, hlanes, htrap]
  exact congrArg Team.uiq (State.team_modTeam_self ..)

/-- A lane that has taken a user interrupt stands in its handler, and resumes where it stood. -/
theorem lane_uintrDelivered (hn : (l0 :: ls).Nodup) (h32 : ∀ l ∈ l0 :: ls, l < 32) {l : Nat} (hl : l ∈ l0 :: ls) :
    (uintrDelivered s tk wk l0 ls src dat rest pc).lane wk l =
      { (s.lane wk l).trapped ⟨pc l0, 0, 0, pc l0, 0⟩ false (handlerPc (s.warp wk).hbase .userint) with rpc := pc l, rix := 0 } := by
  refine (lane_foldl_modLane_each wk (fun l ln => { ln with rpc := pc l, rix := 0 }) (h32 l hl) (l0 :: ls) _ hn h32).trans ?_
  rw [if_pos ⟨rfl, hl⟩, uintrTaken, lane_takeTrap (hm := h32 l hl) (hn := hn) (h32 := h32), if_pos ⟨rfl, hl⟩]
  rfl

end

/-- A post of privileged host software finds the team by its handle alone (R401). -/
theorem exec_uidb_posts {s : State} {h dat : BitVec 32} {tk : Nat} {t : Team} (ha : bits h 31 21 = s.pkg.agent)
    (hf : s.teams.find? (fun e => e.2.handle == h) = some (tk, t)) (hroom : t.uiq.length < 8) :
    exec (.uidb h dat) s = .next (s.setTeam tk { t with uiq := t.uiq ++ [(0xFFFFFFFF, dat)] }).wake := by
  show execUidb h dat s = _
  simp only [execUidb, postUintr, ha, ne_eq, not_true_eq_false, if_false, Bool.and_true, hf, Nat.not_le.2 hroom, if_true]

theorem exec_uidb_drops {s : State} {h dat : BitVec 32} (ha : bits h 31 21 ≠ s.pkg.agent) :
    exec (.uidb h dat) s = .next { s with pkg := { s.pkg with uidrop := s.pkg.uidrop + 1 } } := by
  show execUidb h dat s = _
  simp only [execUidb, postUintr, ha, ne_eq, not_false_eq_true, if_true, Nat.one_ne_zero, if_false]

end Sys2Proof.Machine

open Sys2Proof Sys2Proof.Machine

/-- Settles O45: each event acts once its conditions hold; what a flush or a save releases leaves the core's queue alone, to whose head the
team's run comes; a restore and an interrupt are read back as they wrote the team and its lanes. -/
theorem preemptResults : Obligations.PreemptResults := by
  unfold Obligations.PreemptResults
  refine ⟨?_, ?_, ?_, ?_, ?_, ?_, ?_, ?_, ?_, ?_, ?_, ?_, ?_, ?_, ?_⟩
  · intro s core hb hno
    refine ⟨_, exec_prgo_nobody hb hno, ?_, ?_, rfl⟩
    · rw [State.core_modCore_self]
    · rw [State.core_modCore_self]; exact hb
  · intro s core tk u hb hp hfound
    refine ⟨_, exec_prgo_found hb hp hfound, ?_, ?_, ?_⟩
    · rw [core_startQuiesce, core_prgoTaken]
    · rw [team_startQuiesce]
    · rw [core_startQuiesce]
  · exact fun s tk => exec_quiesceDone
  · intro s tk g t hg hx
    refine ⟨fun hn => ?_, fun hn he hr => ?_, fun a hn he ha => ?_⟩
    · rw [choose_drains hg hx hn, State.team_modTeam_self]
    · rw [choose_flushes hg hx hn he hr, State.team_modTeam_self]
    · rw [choose_saves hg hx hn he ha, State.team_modTeam_self]
  · intro s tk n hp hlate
    refine ⟨_, exec_drainRequiesce hp hlate, ?_⟩
    rw [State.team_of_wake, State.team_modTeam_self]
  · intro s core tk e he ht hlate
    refine ⟨_, exec_victimSkipExpire he ht hlate, fun x => ?_⟩
    rw [State.core_of_wake, State.core_modCore_self]
    simp only [List.mem_filter, Bool.or_eq_true, bne_iff_ne, decide_eq_true_eq, imp_iff_not_or]
  · intro s tk s1 vs hp hx hc he hr
    exact ⟨exec_flushDone hp hx hc he hr, flushTeam_teams ..⟩
  · intro s tk s1 a hp hx hq hf hb ha
    exact exec_saveDone hp hx hq hf hb ha
  · exact runsOn_flushTeam
  · exact runsOn_saveTeam
  · intro s core r rest tk g s1 s2 ws hq hr hg hm t curs hfit ha hw
    exact exec_restore hq hr hg hm hfit ha hw
  · exact fun s core tk d ws => restoreTeam_runs
  · intro s tk src dat rest wk l0 ls s1 hq ht hl hen hp hc hpk hpg hv ha
    have hn : (l0 :: ls).Nodup := hl ▸ List.nodup_range.filter _
    have h32 : ∀ l ∈ l0 :: ls, l < 32 := fun l h => by
      rw [← hl] at h
      exact List.mem_range.1 (List.mem_filter.1 h).1
    refine ⟨_, exec_uintrDeliver hq ht hl hen hp hc hpk hpg hv ha, ?_, ?_⟩
    · rw [State.team_of_wake, uiq_uintrDelivered]
    have htrec := trec_uintrDelivered s1 l0 ls src dat rest (fun l => (s.lane wk l).pc) (tk := tk) (wk := wk)
    rw [State.warp_of_wake, htrec]
    refine ⟨rfl, rfl, rfl, rfl, rfl, fun l h => ?_⟩
    rw [State.lane_of_wake, lane_uintrDelivered _ _ _ _ _ _ _ hn h32 h]
    exact ⟨rfl, rfl, rfl, rfl, rfl⟩
  · intro s h dat tk t ha hf hroom
    refine ⟨_, exec_uidb_posts ha hf hroom, ?_, rfl⟩
    rw [State.team_of_wake, State.team_setTeam, if_pos rfl]
  · exact fun s h dat => exec_uidb_drops
end

section
/-! ## Selvedge changes, dead agents and recovery of their lines (R341, R343, R348–R351) -/

namespace Sys2Proof.Machine

/-! ### What the home's service leaves alone -/

/-- What no service of the home changes: the registers of the package, its copies, its write-back buffer, its counts, its requests, and what
they have brought. -/
def State.apart (s : State) := (s.pkg, s.copies, s.wbuf, s.acks, s.reqs, s.transit, s.fails)

/-- What most of its operations leave alone beside that: the cores. -/
def State.aside (s : State) := (s.apart, s.cores)

@[simp] theorem State.aside_send (s : State) (p : Packet) : (s.send p).aside = s.aside := rfl
@[simp] theorem State.aside_wake (s : State) : s.wake.aside = s.aside := rfl
@[simp] theorem State.aside_dataOf (s : State) (l src : Nat) (st : LineState) (ac : Nat) : (s.dataOf l src st ac).aside = s.aside := rfl
@[simp] theorem State.aside_setHolder (s : State) (l : Nat) (h : Holder) : (s.setHolder l h).aside = s.aside := rfl
@[simp] theorem State.aside_freeHolder (s : State) (l : Nat) : (s.freeHolder l).aside = s.aside := rfl
@[simp] theorem State.aside_setDir (s : State) (l : Nat) (v : BitVec 2) : (s.setDir l v).aside = s.aside := rfl
@[simp] theorem State.aside_putLine (s : State) (l : Nat) (d : LineData) : (s.putLine l d).aside = s.aside := rfl
@[simp] theorem State.aside_grantX (s : State) (l src : Nat) (d : Bool) : (s.grantX l src d).aside = s.aside := rfl
@[simp] theorem State.aside_grantI (s : State) (l : Nat) : (s.grantI l).aside = s.aside := rfl
@[simp] theorem State.aside_queueTx (s : State) (l : Nat) (i : Instr) : (s.queueTx l i).aside = s.aside := rfl
@[simp] theorem State.aside_startTx (s : State) (l : Nat) (w : HomeWait) (o : List Nat) (r : Bool) (q : List Instr) :
    (s.startTx l w o r q).aside = s.aside := rfl

@[simp] theorem State.aside_addSharer (s : State) (l src : Nat) : (s.addSharer l src).aside = s.aside := by
  unfold State.addSharer
  split
  · rfl
  · split
    · rfl
    split <;> rfl
  · rfl

@[simp] theorem State.aside_sendInv (s : State) (line dst col : Nat) : (s.sendInv line dst col).aside = s.aside := by
  unfold State.sendInv
  split
  · rfl
  split
  · split <;> rfl
  · rfl

@[simp] theorem State.aside_sendInvs (s : State) (line col : Nat) (ds : List Nat) : (s.sendInvs line col ds).aside = s.aside :=
  foldl_unobserved _ State.aside s fun st d _ => st.aside_sendInv line d col

@[simp] theorem State.aside_sendFwd (s : State) (line q : Nat) (p : Packet) : (s.sendFwd line q p).aside = s.aside := by
  unfold State.sendFwd; split <;> rfl

@[simp] theorem State.aside_recall (s : State) (l : Nat) (w : HomeWait) : (s.recall l w).aside = s.aside := by
  unfold State.recall
  split
  · rfl
  dsimp only
  split
  · simp
  split <;> simp

@[simp] theorem State.aside_endTaken (s : State) (l : Nat) (k : Option Nat) : (s.endTaken l k).aside = s.aside := by
  unfold State.endTaken
  split
  · dsimp only
    split
    · rfl
    split <;> rfl
  · rfl

/-- Every answer of the table of R336 is made of packets, entries of the directory and transactions. -/
@[simp] theorem State.aside_serveNow (s : State) (i : Instr) (l : Nat) : (s.serveNow i l).aside = s.aside := by
  unfold State.serveNow
  dsimp only
  repeat' split
  all_goals simp

/-- What the home's work leaves: all that is apart of it, and of the lines of each L1 no more than there were. -/
structure HomeWork (s t : State) : Prop where
  apart : t.apart = s.apart
  l1 : ∀ e ∈ t.cores, ∃ f ∈ s.cores, ∀ x ∈ e.2.l1, x ∈ f.2.l1

theorem HomeWork.of_aside {s t : State} (h : t.aside = s.aside) : HomeWork s t := by
  obtain ⟨ha, hc⟩ := Prod.mk.injEq .. ▸ h
  exact ⟨ha, fun e he => ⟨e, hc ▸ he, fun _ hx => hx⟩⟩

theorem HomeWork.refl (s : State) : HomeWork s s := .of_aside rfl

theorem HomeWork.trans {s t u : State} (h : HomeWork s t) (k : HomeWork t u) : HomeWork s u := by
  refine ⟨k.apart.trans h.apart, fun e he => ?_⟩
  obtain ⟨f, hf, hef⟩ := k.l1 e he
  obtain ⟨g, hg, hfg⟩ := h.l1 f hf
  exact ⟨g, hg, fun x hx => hfg x (hef x hx)⟩

theorem HomeWork.foldl {α : Type} {f : State → α → State} (hf : ∀ st x, HomeWork st (f st x)) :
    ∀ (xs : List α) (s : State), HomeWork s (xs.foldl f s)
  | [], s => .refl s
  | x :: r, s => (hf s x).trans (HomeWork.foldl hf r (f s x))

theorem homeWork_dropL1 (s : State) (line : Nat) : HomeWork s (s.dropL1 line) := by
  refine ⟨rfl, fun e he => ?_⟩
  obtain ⟨f, hf, rfl⟩ := List.mem_map.1 he
  exact ⟨f, hf, fun x hx => (List.mem_filter.1 hx).1⟩

theorem homeWork_recover (s : State) (l : Nat) : HomeWork s (s.recover l) := by
  unfold State.recover
  split
  · dsimp only
    split
    · split
      · split
        · refine (homeWork_dropL1 s (s.lineOf l)).trans (.of_aside ?_)
          split <;> simp
        · exact .of_aside rfl
      · split <;> exact .of_aside rfl
    · split
      · exact .of_aside rfl
      split <;> exact .of_aside rfl
  · exact .refl s

/-- Whether the selvedge check refuses a request (R342). -/
def State.excludes (s : State) (i : Instr) (l : Nat) : Bool :=
  match reqCell i with
  | some c => decide (c < noCell) && !s.admits l c
  | none => false

/-- Whether a request overwrites the whole line, P or not (R351). -/
def overwrites (i : Instr) : Bool :=
  match i with
  | .wrfull .. => true
  | _ => false

/-- Whether a request has to find room in the set of its line first (R333). -/
def State.wantsRoom (s : State) (i : Instr) (l : Nat) : Bool :=
  needsEntry i && s.setFull l && (s.dir l != 3 || overwrites i)

/-- The victim of a full set is recalled, unless it is busy (R333). -/
def State.roomMade (s : State) (l : Nat) : State :=
  if (s.txOf (s.victim l)).isSome then s else s.recall (s.victim l) .recall

/-- What the home does with a request, with the conditions of its branches named. -/
theorem State.serve_eq (s : State) (i : Instr) : s.serve i =
    let l := localOf (reqLine i)
    if (s.txOf l).isSome then (if s.hostWb i l then s.serveNow i l else s.queueTx l i)
    else if s.excludes i l then s.send (.refuse (s.lineOf l) (reqSrc i))
    else if needsEntry i && !s.noAcks (s.lineOf l) || s.holdsReq (s.lineOf l) then { s with fwds := s.fwds ++ [(s.lineOf l, .home i)] }
    else if ((s.recover l).txOf l).isSome then (s.recover l).queueTx l i
    else if (s.recover l).hostOwns i l then ((s.recover l).recall l .recall).queueTx l i
    else if (s.recover l).wantsRoom i l then
      (if (((s.recover l).roomMade l).txOf ((s.recover l).victim l)).isSome then
        ((s.recover l).roomMade l).startTx l (.room ((s.recover l).victim l)) [] false [i]
      else ((s.recover l).roomMade l).serveNow i l)
    else (s.recover l).serveNow i l := rfl

@[simp] theorem State.aside_roomMade (s : State) (l : Nat) : (s.roomMade l).aside = s.aside := by
  unfold State.roomMade; split <;> simp

theorem homeWork_serve (s : State) (i : Instr) : HomeWork s (s.serve i) := by
  have hrec := homeWork_recover s (localOf (reqLine i))
  rw [State.serve_eq]
  dsimp only
  split
  · split <;> exact .of_aside (by simp)
  split
  · exact .of_aside rfl
  split
  · exact .of_aside rfl
  refine hrec.trans (.of_aside ?_)
  split
  · simp
  split
  · simp
  split
  · split <;> simp
  · simp

theorem homeWork_release (s : State) (t : HomeTx) : HomeWork s (s.release t) :=
  HomeWork.trans (.of_aside (t := ({ s with homeTx := s.homeTx.filter fun x => !(x.what == .room t.line) } : State).wake) rfl)
    (.foldl homeWork_serve _ _)

theorem homeWork_endTx (s : State) (t : HomeTx) (missed dirty : Bool) : HomeWork s (s.endTx t missed dirty) := by
  unfold State.endTx
  extract_lets s1 l dead s2
  have h1 : HomeWork s s1 := .of_aside rfl
  have h2 : HomeWork s1 s2 := by
    subst s2
    clear_value dead
    split
    · split
      · exact (homeWork_recover ..).trans (homeWork_serve ..)
      · exact homeWork_recover ..
    refine .of_aside ?_
    split
    case h_6 i =>
      extract_lets src full
      clear_value full
      repeat' split
      all_goals simp
    all_goals (repeat' split) <;> simp [apply_ite State.aside]
  refine h1.trans (h2.trans (.trans ?_ (homeWork_release ..)))
  split <;> exact .of_aside rfl

theorem homeWork_settleTx (s : State) (l : Nat) (dirty : Bool) : HomeWork s (s.settleTx l dirty) := by
  unfold State.settleTx
  split
  · generalize (_ && _ : Bool) = done
    split
    · exact homeWork_endTx ..
    · exact .refl s
  · exact .refl s

theorem HomeWork.settled {s t : State} (h : t.aside = s.aside) (l : Nat) (dirty : Bool) : HomeWork s (t.settleTx l dirty) :=
  (HomeWork.of_aside h).trans (homeWork_settleTx ..)

theorem homeWork_loseDead (s : State) (dead : List Nat) : HomeWork s (s.loseDead dead) := by
  refine .foldl (fun st t => ?_) _ _
  split
  · exact .refl st
  extract_lets lost
  split
  · exact .refl st
  · exact .settled (by rfl) ..

/-! ### What a line held back may do when it is served -/

/-- Which agents are fenced, and which counts run: what no served forward changes. -/
def State.counts (s : State) := (s.pkg.fenced, s.acks)

theorem HomeWork.counts {s t : State} (h : HomeWork s t) : t.counts = s.counts :=
  congrArg (fun x => (x.1.fenced, x.2.2.2.1)) h.apart

theorem State.counts_fwdMarks (home n : Nat) (s : State) : (fwdMarks home n s).counts = s.counts := by
  unfold fwdMarks
  split
  · exact foldl_unobserved _ State.counts _ fun _ _ _ => rfl
  · rfl

theorem State.counts_answerForward (s : State) (line : Nat) (f : Fwd) : (answerForward s line f).counts = s.counts := by
  unfold answerForward
  extract_lets home buf own put give
  clear_value own buf
  split
  · split <;> rfl
  · split
    · rfl
    · rfl
    · split <;> rfl
    · rfl
  · split <;> rfl

theorem State.counts_serveFwd (s : State) (line : Nat) (f : Fwd) : (serveFwd s line f).counts = s.counts := by
  unfold serveFwd
  split
  · exact (homeWork_serve ..).counts
  · unfold State.hostDone; split <;> rfl
  · exact (State.counts_fwdMarks ..).trans (State.counts_answerForward ..)

theorem State.counts_serveHeld (s : State) (line : Nat) : (serveHeld s line).counts = s.counts := by
  unfold serveHeld
  split
  · exact foldl_unobserved _ State.counts _ fun st e _ => st.counts_serveFwd line e.2
  · rfl

/-! ### Entries and transactions -/

theorem State.holder_setWays (s : State) (l : Nat) (ws : List (Option Holder)) :
    (s.setWays l ws).holder l = (ws.find? (isWay l)).join := by
  rw [State.holder, State.ways, State.setWays, tget_tput_self]

@[simp] theorem State.holder_freeHolder (s : State) (l : Nat) : (s.freeHolder l).holder l = none := by
  rw [State.freeHolder, State.holder_setWays]
  have hnone : ((s.ways l).map fun w => if isWay l w then none else w).find? (isWay l) = none := by
    refine List.find?_eq_none.2 fun w hw => ?_
    obtain ⟨v, -, rfl⟩ := List.mem_map.1 hw
    split
    · exact Bool.false_ne_true
    · assumption
  rw [hnone, Option.join_none]

theorem State.txOf_startTx (s : State) (l k : Nat) (w : HomeWait) (o : List Nat) (r : Bool) (q : List Instr) :
    ((s.startTx l w o r q).txOf k).isSome = ((s.txOf k).isSome || l == k) := by
  have hone : ∀ t : HomeTx, (if t.line == k then some t else none).isSome = (t.line == k) := fun t => by split <;> simp_all
  rw [State.txOf, State.startTx, List.find?_append, Option.isSome_or, List.find?_singleton, hone]
  rfl

/-- What an operation at the home that only sends packets leaves: memory, the tables and the transactions. -/
def State.filed (s : State) := (s.hbm, s.rht, s.selPg, s.homeTx)

theorem State.filed_sendInv (s : State) (line dst col : Nat) : (s.sendInv line dst col).filed = s.filed := by
  unfold State.sendInv
  split
  · rfl
  split
  · split <;> rfl
  · rfl

theorem State.filed_sendInvs (s : State) (line col : Nat) (ds : List Nat) : (s.sendInvs line col ds).filed = s.filed :=
  foldl_unobserved _ State.filed s fun st d _ => st.filed_sendInv line d col

theorem State.filed_sendFwd (s : State) (line q : Nat) (p : Packet) : (s.sendFwd line q p).filed = s.filed := by
  unfold State.sendFwd; split <;> rfl

/-! ### Selvedge changes (R341, R343) -/

/-- Taking a line from its owner starts its transaction, and leaves memory and the table. -/
theorem State.recallOwner_starts {s : State} {l q : Nat} (hq : (s.holder l).bind Holder.owner = some q) :
    ∃ z : State, z.filed = s.filed ∧ ∃ o r, s.recallOwner l = z.startTx l .unown o r [] := by
  unfold State.recallOwner
  rw [hq]
  dsimp only
  split
  · exact ⟨_, State.filed_sendInv .., _, _, rfl⟩
  · exact ⟨_, State.filed_sendFwd .., _, _, rfl⟩

/-- Take the lines that have an owner and are not busy from their owners. -/
def takeOwned (s : State) (ls : List Nat) : State := ls.foldl (fun st l => if (st.txOf l).isSome then st else st.recallOwner l) s

/-- After it memory and the tables are the same, every one of those lines is busy, and so is each that was. -/
theorem takeOwned_busy : ∀ {ls : List Nat} {s : State}, (∀ l ∈ ls, ((s.holder l).bind Holder.owner).isSome = true) →
    (takeOwned s ls).hbm = s.hbm ∧ (takeOwned s ls).rht = s.rht ∧ (takeOwned s ls).selPg = s.selPg
      ∧ ∀ k, (s.txOf k).isSome = true ∨ k ∈ ls → ((takeOwned s ls).txOf k).isSome = true
  | [], s, _ => ⟨rfl, rfl, rfl, fun k hk => hk.resolve_right List.not_mem_nil⟩
  | l :: r, s, hown => by
    obtain ⟨q, hq⟩ := Option.isSome_iff_exists.1 (hown l List.mem_cons_self)
    obtain ⟨t, ht, hm, hr, hp, htx⟩ : ∃ t : State, (if (s.txOf l).isSome then s else s.recallOwner l) = t ∧ t.hbm = s.hbm
        ∧ t.rht = s.rht ∧ t.selPg = s.selPg ∧ ∀ k, (s.txOf k).isSome = true ∨ k = l → (t.txOf k).isSome = true := by
      refine ⟨_, rfl, ?_⟩
      split
      · next hbusy => exact ⟨rfl, rfl, rfl, fun k hk => hk.elim id fun h => h ▸ hbusy⟩
      · obtain ⟨z, hz, o, b, heq⟩ := State.recallOwner_starts hq
        obtain ⟨hm, hr, hp, htx⟩ : z.hbm = s.hbm ∧ z.rht = s.rht ∧ z.selPg = s.selPg ∧ z.homeTx = s.homeTx := by
          simpa [State.filed] using hz
        rw [heq]
        refine ⟨hm, hr, hp, fun k hk => ?_⟩
        rw [State.txOf_startTx, Bool.or_eq_true, State.txOf, htx, beq_iff_eq]
        exact hk.imp id Eq.symm
    have hfold : takeOwned s (l :: r) = takeOwned t r := by rw [← ht]; rfl
    obtain ⟨im, ir, ip, itx⟩ := takeOwned_busy (ls := r) (s := t) fun k hk => by
      rw [holder_congr hr]; exact hown k (List.mem_cons_of_mem _ hk)
    rw [hfold]
    refine ⟨im.trans hm, ir.trans hr, ip.trans hp, fun k hk => itx k ?_⟩
    rcases hk with hk | hk
    · exact .inl (htx k (.inl hk))
    · exact (List.mem_cons.1 hk).imp (fun h => htx k (.inr h)) id

theorem setPage_frame (s : State) (page : Nat) (idx : BitVec 8) : (setPage s page idx).hbm = s.hbm ∧ (setPage s page idx).rht = s.rht
    ∧ (setPage s page idx).out = s.out ∧ tget (setPage s page idx).selPg page 0 = idx := by
  unfold setPage
  dsimp only
  split
  · next h => exact ⟨rfl, rfl, rfl, h⟩
  · exact ⟨rfl, rfl, rfl, tget_tput_self ..⟩

theorem owner_of_excluded {s : State} {page l : Nat} (h : l ∈ excluded s page) : ((s.holder l).bind Holder.owner).isSome = true := by
  have hcond := (List.mem_filter.1 h).2
  rw [Bool.and_eq_true] at hcond
  generalize (s.holder l).bind Holder.owner = o at hcond
  cases o with
  | some q => rfl
  | none => exact absurd hcond.2 Bool.false_ne_true

/-- The change of a page is complete (R343). -/
def pageDone (s : State) (page : Nat) : State :=
  ({ s with pkg := { s.pkg with selWas := tdel s.pkg.selWas page } }.send (.ocposan "selvedge change complete")).wake

theorem exec_selvedgeChange_none {s : State} {page : Nat} {idx : BitVec 8} (h : excluded (setPage s page idx) page = []) :
    exec (.selvedgeChange page idx) s = .next (pageDone (setPage s page idx) page) := by
  show execSelvedgeChange page idx s = _
  rw [execSelvedgeChange]
  exact if_pos (by rw [h]; rfl)

theorem exec_selvedgeChange_some {s : State} {page : Nat} {idx : BitVec 8} (h : excluded (setPage s page idx) page ≠ []) :
    exec (.selvedgeChange page idx) s = .next (takeOwned (setPage s page idx) (excluded (setPage s page idx) page)) := by
  show execSelvedgeChange page idx s = _
  rw [execSelvedgeChange]
  exact if_neg (by simpa using h)

/-! ### Death (R348, R349, R360) -/

theorem mem_deadCells {s : State} {agents : List Nat} {a : Nat} : a ∈ s.deadCells agents ↔ a ≠ s.pkg.agent ∧ a < 2000
    ∧ (a ∈ agents ∨ (a ∈ s.pkg.routes.map (·.1) ∨ a ∈ s.pkg.seen.map (·.1)) ∧ ∃ d ∈ agents, s.cellOf d = s.cellOf a) := by
  simp only [State.deadCells, List.mem_eraseDups, List.mem_filter, List.mem_append, List.any_eq_true, Bool.and_eq_true, bne_iff_ne,
    Bool.not_eq_true', beq_iff_eq, isHost, decide_eq_false_iff_not, Nat.not_le]
  exact ⟨fun ⟨h, hne, hlt⟩ => ⟨hne, hlt, h⟩, fun ⟨hne, hlt, h⟩ => ⟨h, hne, hlt⟩⟩

/-- The lines that the package caches or keeps for writing back, none of which is homed at one of some agents (R349 step 4). -/
structure GivenUp (dead : List Nat) (s : State) : Prop where
  copies : ∀ e ∈ s.copies, e.1 < 2 ^ 50 → agentOf e.1 ∉ dead
  wbuf : ∀ e ∈ s.wbuf, e.line < 2 ^ 50 → agentOf e.line ∉ dead
  l1 : ∀ e ∈ s.cores, ∀ x ∈ e.2.l1, x.line < 2 ^ 50 → agentOf x.line ∉ dead

theorem GivenUp.of_homeWork {dead : List Nat} {s t : State} (h : GivenUp dead s) (w : HomeWork s t) : GivenUp dead t := by
  obtain ⟨-, hc, hb, -⟩ : t.pkg = s.pkg ∧ t.copies = s.copies ∧ t.wbuf = s.wbuf ∧ t.acks = s.acks ∧ t.reqs = s.reqs
      ∧ t.transit = s.transit ∧ t.fails = s.fails := by simpa [State.apart] using w.apart
  refine ⟨hc ▸ h.copies, hb ▸ h.wbuf, fun e he x hx => ?_⟩
  obtain ⟨f, hf, hef⟩ := w.l1 e he
  exact h.l1 f hf x (hef x hx)

/-- What comes after the fence on a notice leaves the fenced agents, the package's copies, its buffer, its cores and memory. -/
def State.bereft (s : State) := (s.pkg.fenced, s.copies, s.wbuf, s.cores, s.hbm)

theorem State.bereft_iff {s t : State} : t.bereft = s.bereft ↔
    t.pkg.fenced = s.pkg.fenced ∧ t.copies = s.copies ∧ t.wbuf = s.wbuf ∧ t.cores = s.cores ∧ t.hbm = s.hbm := by
  simp only [State.bereft, Prod.mk.injEq]

theorem State.bereft_rerouteDead (s : State) (dead : List Nat) (routes : List (Nat × Nat)) :
    (rerouteDead s dead routes).bereft = s.bereft := by
  refine foldl_unobserved _ State.bereft s fun st a _ => ?_
  dsimp only
  split <;> rfl

theorem State.bereft_poisonOrphans (s : State) (dead : List Nat) (routes : List (Nat × Nat)) :
    (poisonOrphans s dead routes).bereft = s.bereft :=
  foldl_unobserved _ State.bereft s fun _ _ _ => rfl

theorem State.bereft_scanDone (s : State) : (scanDone s).bereft = s.bereft := by
  unfold scanDone; split <;> rfl

theorem State.bereft_echoMarks (n : Nat) (s : State) : (echoMarks n s).bereft = s.bereft := by
  refine foldl_unobserved _ State.bereft s fun st e _ => ?_
  split <;> rfl

/-- All that follows the fence. -/
theorem State.bereft_noticed (n : Nat) (s : State) (dead : List Nat) (routes : List (Nat × Nat)) :
    (echoMarks n (scanDone (poisonOrphans (rerouteDead s dead routes) dead routes))).wake.bereft = s.bereft :=
  (State.bereft_echoMarks ..).trans ((State.bereft_scanDone _).trans ((State.bereft_poisonOrphans ..).trans (State.bereft_rerouteDead ..)))

/-- Fencing adds the dead to the fenced agents and gives up what is homed at them (R349 steps 3 and 4). -/
theorem fence_gives (s : State) (dead : List Nat) :
    (∀ b, b ∈ (fence s dead).pkg.fenced ↔ b ∈ s.pkg.fenced ∨ b ∈ dead) ∧ GivenUp dead (fence s dead) := by
  unfold fence
  extract_lets lost kept p s1
  have hlost : ∀ line, (!lost line) = true → line < 2 ^ 50 → agentOf line ∉ dead := fun line hl hlt hd => by
    rw [show lost line = true from by simp [lost, hd]; exact hlt] at hl
    exact absurd hl Bool.false_ne_true
  have hwork := homeWork_loseDead s1 dead
  have hpkg : (s1.loseDead dead).pkg = s1.pkg := congrArg Prod.fst hwork.apart
  refine ⟨fun b => ?_, GivenUp.of_homeWork ⟨?_, ?_, ?_⟩ hwork⟩
  · rw [hpkg]
    show b ∈ s.pkg.fenced ++ dead.filter (fun a => !s.pkg.fenced.contains a) ↔ _
    by_cases hb : b ∈ s.pkg.fenced <;> simp [hb]
  · exact fun e he => hlost _ (List.mem_filter.1 he).2
  · exact fun e he => hlost _ (List.mem_filter.1 he).2
  · rintro e he x hx
    obtain ⟨f, -, rfl⟩ := List.mem_map.1 he
    exact hlost _ (List.mem_filter.1 hx).2

theorem hbm_fence {s : State} {dead : List Nat} (h : s.homeTx = []) : (fence s dead).hbm = s.hbm := by
  unfold fence
  extract_lets lost kept p s1
  have hnone : s1.homeTx = [] := congrArg (List.map _) h
  rw [State.loseDead, hnone]
  rfl

theorem State.addAcks_fenced (s : State) (line : Nat) (cores owe : List Nat) (n : Int) (t : Nat) :
    (s.addAcks line cores owe n t).pkg.fenced = s.pkg.fenced := by
  unfold State.addAcks
  split
  · rfl
  · split <;> rfl

theorem forgive_fenced (s : State) (dead : List Nat) (owed : List (Nat × Nat)) : (forgive s dead owed).pkg.fenced = s.pkg.fenced := by
  refine foldl_unobserved _ (fun st : State => st.pkg.fenced) s fun st a _ => ?_
  extract_lets dirties acks s1
  split
  · rfl
  · exact (congrArg Prod.fst (State.counts_serveHeld ..)).trans (State.addAcks_fenced s1 ..)

theorem forgive_of_no_acks {s : State} (dead : List Nat) (owed : List (Nat × Nat)) (h : s.acks = []) : forgive s dead owed = s := by
  rw [forgive, h]; rfl

theorem exec_deathNotice {s : State} {agents : List Nat} (routes owed : List (Nat × Nat)) (h : s.deadCells agents ≠ []) :
    let dead := s.deadCells agents
    exec (.deathNotice agents ⟨routes, owed⟩) s = .next (echoMarks s.out.length (scanDone (poisonOrphans
      (rerouteDead (fence (forgive s dead owed) dead) dead routes) dead routes))).wake := by
  show execDeathNotice agents ⟨routes, owed⟩ s = _
  rw [execDeathNotice]
  exact if_neg (by simpa using h)

theorem exec_deathDeclare {s : State} {a : Nat} (owed : List (Nat × Nat)) (hlink : ∃ e ∈ s.ports, e.2.peer = some a)
    (ha : a ∉ s.pkg.fenced) (hsilent : ∀ e ∈ s.ports, e.2.peer = some a → e.2.heard + 50 ≤ s.usec) :
    let dead := s.deadCells [a]
    exec (.deathDeclare ⟨a, owed⟩) s = .next (scanDone (fence (forgive (s.send (.death [a])) dead owed) dead)).wake := by
  show execDeathDeclare ⟨a, owed⟩ s = _
  rw [execDeathDeclare]
  refine if_neg ?_
  obtain ⟨e, he, hp⟩ := hlink
  simp only [Bool.or_eq_true, List.isEmpty_iff, List.filter_eq_nil_iff, beq_iff_eq, isFenced, List.contains_iff_mem, List.any_eq_true,
    List.mem_filter, decide_eq_true_eq, not_or, not_exists, not_and, not_forall, not_not]
  exact ⟨⟨⟨e, he, hp⟩, ha⟩, fun x hx => Nat.not_lt.2 (hsilent x hx.1 hx.2)⟩

/-! ### The recovery rule (R350) -/

/-- The dead owner is the only holder of the line: the line becomes P if the owner may have written it, and free otherwise. -/
theorem recover_dead_owner {s : State} {l tg q : Nat} {d : Bool} (hh : s.holder l = some (.ptrs tg (some 0) d [q]))
    (hq : q ∈ s.pkg.fenced) :
    s.recover l = if d then ((s.dropL1 (s.lineOf l)).freeHolder l).setDir l 3 else s.grantI l := by
  unfold State.recover
  rw [hh]
  cases d <;> simp [Holder.owner, hq, State.sendInvs]

theorem exec_recoveryScan {s : State} {line tg q : Nat} {d : Bool} (hh : s.holder (localOf line) = some (.ptrs tg (some 0) d [q]))
    (hq : q ∈ s.pkg.fenced) (htx : s.txOf (localOf line) = none) :
    exec (.recoveryScan line) s = .next (scanDone (s.recover (localOf line))).wake := by
  show execRecoveryScan line s = _
  simp [execRecoveryScan, hh, htx, namesDead, hq]

/-- The report of the recovery engine leaves the lines alone. -/
theorem scanDone_lines (s : State) : (scanDone s).rht = s.rht ∧ (scanDone s).hbm = s.hbm ∧ (scanDone s).cores = s.cores := by
  unfold scanDone; split <;> exact ⟨rfl, rfl, rfl⟩

end Sys2Proof.Machine

open Sys2Proof Sys2Proof.Machine

/-- Settles O48: a change busies each line that it takes from an owner, or reports; fencing gives up what is homed at the dead, and nothing
after it takes such a line again; the recovery rule is applied to a line whose only holder is dead. -/
theorem deathRecovery : Obligations.DeathRecovery := by
  unfold Obligations.DeathRecovery
  refine ⟨fun s page idx => ?_, fun s a owed hlink ha hs => exec_deathDeclare owed hlink ha hs, fun s agents routes owed hd => ?_,
    fun s agents a => mem_deadCells, fun s line tg d q hh hq htx => ?_⟩
  · obtain ⟨hm, hr, ho, hp⟩ := setPage_frame s page idx
    by_cases h : excluded (setPage s page idx) page = []
    · refine ⟨_, exec_selvedgeChange_none h, hp, fun _ => ?_, fun l hl => ?_, hm, hr⟩
      · rw [← ho]; rfl
      · rw [h] at hl; exact absurd hl List.not_mem_nil
    · obtain ⟨tm, tr, tp, htx⟩ := takeOwned_busy fun l hl => owner_of_excluded (s := setPage s page idx) (page := page) hl
      exact ⟨_, exec_selvedgeChange_some h, by rw [tp, hp], fun h' => absurd h' h, fun l hl => htx l (.inr hl), tm.trans hm, tr.trans hr⟩
  · obtain ⟨hfen, hgone⟩ := fence_gives (forgive s (s.deadCells agents) owed) (s.deadCells agents)
    obtain ⟨tf, tc, tb, tk, tm⟩ := State.bereft_iff.1 (State.bereft_noticed s.out.length
      (fence (forgive s (s.deadCells agents) owed) (s.deadCells agents)) (s.deadCells agents) routes)
    refine ⟨_, exec_deathNotice routes owed hd, fun b => ?_, fun a ha => ⟨fun e he hlt h => ?_, fun e he hlt h => ?_, fun e he x hx hlt h => ?_⟩,
      fun htx hacks => ?_⟩
    · rw [tf, hfen, forgive_fenced]
    · exact hgone.copies e (tc ▸ he) hlt (h ▸ ha)
    · exact hgone.wbuf e (tb ▸ he) hlt (h ▸ ha)
    · exact hgone.l1 e (tk ▸ he) x hx hlt (h ▸ ha)
    · rw [tm, forgive_of_no_acks _ _ hacks, hbm_fence htx]
  · obtain ⟨hr, hm, hc⟩ := scanDone_lines (s.recover (localOf line))
    refine ⟨_, exec_recoveryScan hh hq htx, ?_, ?_, fun hd e he x hx => ?_, fun b => ?_⟩
    · rw [holder_congr (State.wake_rht _), holder_congr hr, recover_dead_owner hh hq]
      cases d
      · exact State.holder_freeHolder ..
      · exact State.holder_freeHolder ..
    · rw [State.dir_of_wake, State.dir, hm, recover_dead_owner hh hq]
      cases d
      · exact State.dir_setDir_self ..
      · exact State.dir_setDir_self ..
    · subst hd
      have he' : e ∈ (s.recover (localOf line)).cores := hc ▸ he
      rw [recover_dead_owner hh hq, if_pos rfl] at he'
      obtain ⟨f, -, rfl⟩ := List.mem_map.1 he'
      exact bne_iff_ne.1 (List.mem_filter.1 hx).2
    · show (scanDone _).hbm.byte b = _
      rw [hm, recover_dead_owner hh hq]
      cases d <;> rfl
end

section
/-! ## Requests at the home of a line (R329, R331–R336, R342, R349, R351, R438) -/

namespace Sys2Proof.Machine

/-! ### Bytes of a line -/

theorem tfind_tseg {α : Type} (t : Tab α) {lo n x : Nat} (h : lo ≤ x ∧ x < lo + n) : tfind (tseg t lo n) x = tfind t x := by
  rw [tseg, tfind_filter_key t fun i => decide (lo ≤ i) && decide (i < lo + n)]
  exact if_pos (by simpa using h)

theorem Mem.getD_read (m : Mem) (a : Nat) {n k : Nat} (hk : k < n) (d : Byte) : (m.read a n).getD k d = m.byte (a + k) := by
  rw [Mem.read, getD_map_upto _ hk, tget, tfind_tseg _ (by omega)]
  rfl

theorem Mem.byte_setLine (m : Mem) (l : Nat) (d : LineData) (x : Nat) : (m.setLine l d).byte x =
    if 128 * l ≤ x ∧ x < 128 * l + (d.bytes.take 128).length then (d.bytes.take 128).getD (x - 128 * l) 0 else m.byte x := by
  have hb : (m.setLine l d).bytes = putBytes m.bytes (128 * l) (d.bytes.take 128) := by
    unfold Mem.setLine
    dsimp only
    split
    · rw [Mem.settleLtp_bytes]; rfl
    · rfl
  rw [Mem.byte, hb, tget_putBytes]
  rfl

theorem State.byte_putLine (s : State) (l : Nat) (d : LineData) (x : Nat) : (s.putLine l d).hbm.byte x = (s.hbm.setLine l d).byte x := by
  unfold State.putLine
  dsimp only
  split <;> rfl

theorem State.byte_putLine_other (s : State) {l x : Nat} (d : LineData) (h : x / 128 ≠ l) : (s.putLine l d).hbm.byte x = s.hbm.byte x := by
  have hlen : (d.bytes.take 128).length ≤ 128 := by simp
  rw [State.byte_putLine, Mem.byte_setLine, if_neg (by omega)]

theorem State.byte_putLine_in (s : State) (l : Nat) {d : LineData} {k : Nat} (hd : d.bytes.length = 128) (hk : k < 128) :
    (s.putLine l d).hbm.byte (128 * l + k) = d.bytes.getD k 0 := by
  have htake : d.bytes.take 128 = d.bytes := by rw [← hd, List.take_length]
  rw [State.byte_putLine, Mem.byte_setLine, htake, if_pos (by omega), Nat.add_sub_cancel_left]

/-- The bytes of a merge outside its mask are those of the line as it was. -/
theorem State.byte_merged (s : State) {l x : Nat} (d : LineData) (m : BitVec 128) (t : BitVec 16) (k : BitVec 2)
    (h : x / 128 ≠ l ∨ m.getLsbD (x % 128) = false) : (s.putLine l (lineMerge (s.hbm.line l) d m t k)).hbm.byte x = s.hbm.byte x := by
  by_cases hx : x / 128 = l
  · have hm : m.getLsbD (x % 128) = false := h.resolve_left (not_not_intro hx)
    have hlt : x % 128 < 128 := Nat.mod_lt _ (by decide)
    have hsplit : x = 128 * l + x % 128 := by omega
    have hlen : (lineMerge (s.hbm.line l) d m t k).bytes.length = 128 := by simp [lineMerge, upto]
    rw [hsplit, State.byte_putLine_in s l hlen hlt, lineMerge]
    dsimp only
    rw [getD_map_upto _ hlt, if_neg (by rw [hm]; exact Bool.false_ne_true)]
    exact Mem.getD_read _ _ hlt 0
  · exact State.byte_putLine_other s _ hx

/-! ### Entries of the remote-holder table (R332, R333) -/

theorem State.isWay_of_holder {s : State} {l : Nat} {h : Holder} (hh : s.holder l = some h) : isWay l (some h) = true :=
  List.find?_some (Option.join_eq_some_iff.1 hh)

/-- A set that holds the entry of a line is not full for it. -/
theorem State.setFull_of_holder {s : State} {l : Nat} {h : Holder} (hh : s.holder l = some h) : s.setFull l = false := by
  rw [State.setFull, hh]; rfl

/-- With room in the set of its line, an entry is found again. -/
theorem State.holder_setHolder {s : State} {l : Nat} {h : Holder} (hroom : s.setFull l = false) (ht : isWay l (some h) = true) :
    (s.setHolder l h).holder l = some h := by
  unfold State.setHolder
  rw [State.holder_setWays, Option.join_eq_some_iff]
  obtain ⟨i, hi, hlt, hfirst⟩ : ∃ i, ((s.ways l).findIdx? (isWay l)).getD (((s.ways l).findIdx? Option.isNone).getD 0) = i
      ∧ i < (s.ways l).length ∧ ∀ j (hj : j < (s.ways l).length), j < i → isWay l (s.ways l)[j] = false := by
    cases hown : (s.ways l).findIdx? (isWay l) with
    | some i =>
      obtain ⟨hlt, -, hno⟩ := List.findIdx?_eq_some_iff_getElem.1 hown
      exact ⟨i, rfl, hlt, fun j hj hji => by simpa using hno j hji⟩
    | none =>
      have hno := List.findIdx?_eq_none_iff.1 hown
      have hnone : s.holder l = none := by
        rw [State.holder, List.find?_eq_none.2 fun w hw => by simp [hno w hw]]; rfl
      have hfree : ∃ w ∈ s.ways l, w.isNone = true := by
        by_contra hall
        have : s.setFull l = true := by
          rw [State.setFull, hnone, Option.isNone_none, Bool.true_and, List.all_eq_true]
          intro w hw
          cases w with
          | some v => rfl
          | none => exact absurd ⟨none, hw, rfl⟩ hall
        rw [hroom] at this
        exact Bool.false_ne_true this
      obtain ⟨i, hfi⟩ := Option.isSome_iff_exists.1 (List.findIdx?_isSome.trans (List.any_eq_true.2 hfree))
      obtain ⟨hlt, -, -⟩ := List.findIdx?_eq_some_iff_getElem.1 hfi
      exact ⟨i, by rw [hfi]; rfl, hlt, fun j hj _ => hno _ (List.getElem_mem hj)⟩
  rw [hi]
  refine List.find?_eq_some_iff_getElem.2 ⟨ht, i, by simpa using hlt, List.getElem_set_self _, fun j hj => ?_⟩
  rw [List.getElem_set_ne (Nat.ne_of_gt hj)]
  simp [hfirst j (Nat.lt_trans hj hlt) hj]

theorem isWay_own (l src : Nat) (d : Bool) : isWay l (some (.ptrs (rhtTag l) (some 0) d [src])) = true := beq_self_eq_true _

/-- With room in its set, a line is given to its owner: DIR 2 and the entry that names it; no byte changes. -/
theorem State.grantX_owned {s : State} {l : Nat} (src : Nat) (d : Bool) (hroom : s.setFull l = false) :
    (s.grantX l src d).dir l = 2 ∧ (s.grantX l src d).holder l = some (.ptrs (rhtTag l) (some 0) d [src])
      ∧ ∀ a, (s.grantX l src d).hbm.byte a = s.hbm.byte a :=
  ⟨State.dir_setDir_self .., State.holder_setHolder hroom (isWay_own l src d), fun _ => rfl⟩

/-! ### Holders that the recovery rule leaves alone are alive (R350) -/

theorem live_owner {s : State} {l tg q : Nat} {d : Bool} (hr : s.recover l = s) (hh : s.holder l = some (.ptrs tg (some 0) d [q])) :
    q ∉ s.pkg.fenced := by
  intro hq
  have hgone : (s.recover l).holder l = none := by
    rw [recover_dead_owner hh hq]
    split
    · exact State.holder_freeHolder ..
    · exact State.holder_freeHolder ..
  rw [hr, hh] at hgone
  exact Option.some_ne_none _ hgone

theorem live_sharers {s : State} {l tg : Nat} {d : Bool} {ps : List Nat} (hr : s.recover l = s)
    (hh : s.holder l = some (.ptrs tg none d ps)) : ∀ a ∈ ps, a ∉ s.pkg.fenced := by
  by_contra hdead
  have hlt : (ps.filter fun a => !s.pkg.fenced.contains a).length ≠ ps.length := by
    rw [ne_eq, List.length_filter_eq_length_iff]
    exact fun hall => hdead fun a ha hf => by simpa [hf] using hall a ha
  have hrec : s.recover l = if (ps.filter fun a => !s.pkg.fenced.contains a).isEmpty then s.grantI l
      else s.setHolder l (.ptrs tg none d (ps.filter fun a => !s.pkg.fenced.contains a)) := by
    unfold State.recover
    rw [hh]
    simp only [Holder.owner, hlt, if_false]
  rw [hr] at hrec
  have hh' := hh
  split at hrec
  · rw [hrec, State.grantI, holder_congr (t := (s.freeHolder l).setDir l 0) (s := s.freeHolder l) rfl, State.holder_freeHolder] at hh'
    exact Option.some_ne_none _ hh'.symm
  · have hway : isWay l (some (.ptrs tg none d (ps.filter fun a => !s.pkg.fenced.contains a))) = true :=
      (State.isWay_of_holder hh :)
    rw [hrec, State.holder_setHolder (State.setFull_of_holder hh) hway] at hh'
    exact hlt (by rw [(Holder.ptrs.inj (Option.some.inj hh')).2.2.2])

/-- Invalidations to live packages go out as they are. -/
theorem State.sendInvs_live (line col : Nat) : ∀ {ps : List Nat} {s : State}, (∀ a ∈ ps, a < 2000 ∧ a ∉ s.pkg.fenced) →
    s.sendInvs line col ps = { s with out := s.out ++ ps.map fun a => .inv line a col }
  | [], s, _ => by simp [State.sendInvs]
  | a :: r, s, h => by
    obtain ⟨hlt, hlive⟩ := h a List.mem_cons_self
    have hone : s.sendInv line a col = s.send (.inv line a col) := by
      simp [State.sendInv, isHost, Nat.not_le.2 hlt, State.answersFor, hlive]
    have hstep : s.sendInvs line col (a :: r) = (s.send (.inv line a col)).sendInvs line col r := by
      rw [← hone]; rfl
    rw [hstep, State.sendInvs_live (s := s.send (.inv line a col)) line col fun b hb => h b (List.mem_cons_of_mem _ hb)]
    simp [State.send]

theorem State.sendFwd_live {s : State} {q : Nat} (line : Nat) (p : Packet) (h : q ∉ s.pkg.fenced) : s.sendFwd line q p = s.send p := by
  simp [State.sendFwd, State.answersFor, h]

/-! ### Requests that reach the home (R329, R342, R349, R358) -/

/-- Another table of the cell ids seen (R329). -/
def State.saw (s : State) (seen : Tab Nat) : State := { s with pkg := { s.pkg with seen := seen } }

/-- Of the state, the home keeps of a request its cell id alone. -/
theorem noteCell_saw (s : State) (src cell : Nat) : ∃ seen, noteCell s src cell = s.saw seen := by
  unfold noteCell
  split
  · exact ⟨s.pkg.seen, rfl⟩
  · exact ⟨_, rfl⟩

theorem noteCell_host (s : State) {src : Nat} (cell : Nat) (h : 2000 ≤ src) : noteCell s src cell = s :=
  if_pos (decide_eq_true h)

/-- Answers to requesters whose requests were not marked carry no mark. -/
theorem echoMarks_unmarked {s : State} {n : Nat}
    (h : ∀ p ∈ s.out.drop n, ∀ l a, p.answerTo = some (l, a) → a ∉ s.pkg.marks) : echoMarks n s = s := by
  unfold echoMarks
  have hnone : ∀ e ∈ (s.out.drop n).filterMap Packet.answerTo, e.2 ∉ s.pkg.marks := fun e he => by
    obtain ⟨p, hp, hpe⟩ := List.mem_filterMap.1 he
    exact h p hp e.1 e.2 hpe
  generalize (s.out.drop n).filterMap Packet.answerTo = es at hnone
  induction es with
  | nil => rfl
  | cons e r ih =>
    rw [List.foldl_cons, if_neg (by simpa using hnone e List.mem_cons_self)]
    exact ih fun x hx => hnone x (List.mem_cons_of_mem _ hx)

/-- Whether a packet answers nobody but an agent. -/
def Packet.onlyTo (src : Nat) (p : Packet) : Prop := ∀ l a, p.answerTo = some (l, a) → a = src

/-- A request reaches the home of its line, from an agent that is neither fenced nor marked, and does not ask for the secure region. -/
def AtHome (s : State) (i : Instr) (l : Nat) : Prop :=
  reqSrc i ∉ s.pkg.fenced ∧ reqSrc i ∉ s.pkg.marks ∧ agentOf (reqLine i) = s.pkg.agent ∧ localOf (reqLine i) = l ∧ inSecure s l = false

theorem lineOf_home {s : State} {line l : Nat} (ha : agentOf line = s.pkg.agent) (hl : localOf line = l) : s.lineOf l = line := by
  unfold agentOf localOf at *
  unfold State.lineOf
  omega

/-- The home serves such a request, and what it sends the requester carries no mark. -/
theorem AtHome.homeRow {s t : State} {i : Instr} {l : Nat} (h : AtHome s i l) {p : List Packet}
    (ht : (noteCell s (reqSrc i) (cellId i)).serve i = t) (hout : t.out = s.out ++ p) (hm : t.pkg.marks = s.pkg.marks)
    (hp : ∀ x ∈ p, x.onlyTo (reqSrc i)) : homeRow s i = .next t.wake := by
  obtain ⟨hf, hmark, ha, hl, hsec⟩ := h
  have hquiet : echoMarks s.out.length t = t := echoMarks_unmarked fun x hx l a hxa => by
    rw [hout, List.drop_left] at hx
    rw [hm, hp x hx l a hxa]
    exact hmark
  have hfen : s.pkg.fenced.contains (reqSrc i) = false := by simpa using hf
  simp only [Machine.homeRow, hfen, ha, hl, hsec, ht, hquiet, Bool.false_and, Bool.false_eq_true, if_false, ne_eq, not_true_eq_false]

/-- A request reaches the home of a line that is idle: nothing holds it back. -/
def AtIdle (s : State) (i : Instr) (l : Nat) : Prop :=
  AtHome s i l ∧ s.txOf l = none ∧ (noteCell s (reqSrc i) (cellId i)).recover l = noteCell s (reqSrc i) (cellId i)
    ∧ (∀ c, reqCell i = some c → noCell ≤ c ∨ s.admits l c = true)
    ∧ (needsEntry i = true → s.noAcks (reqLine i) = true) ∧ s.holdsReq (reqLine i) = false ∧ s.hostOwns i l = false
    ∧ (needsEntry i = true → s.setFull l = false ∨ s.dir l = 3 ∧ ∀ src cell line, i ≠ .wrfull src cell line)

theorem AtIdle.serve {s : State} {i : Instr} {l : Nat} (h : AtIdle s i l) :
    (noteCell s (reqSrc i) (cellId i)).serve i = (noteCell s (reqSrc i) (cellId i)).serveNow i l := by
  obtain ⟨⟨-, -, ha, hl, -⟩, htx, hrec, hcell, hacks, hheld, hhost, hroom⟩ := h
  obtain ⟨seen, hsaw⟩ := noteCell_saw s (reqSrc i) (cellId i)
  rw [hsaw] at hrec ⊢
  have hline : (s.saw seen).lineOf l = reqLine i := lineOf_home ha hl
  have hex : (s.saw seen).excludes i l = false := by
    unfold State.excludes
    split
    · next c hc =>
      rcases hcell c hc with h | h
      · simp [Nat.not_lt.2 h]
      · simp [show (s.saw seen).admits l c = true from h]
    · rfl
  have hwait : (needsEntry i && !(s.saw seen).noAcks (reqLine i) || (s.saw seen).holdsReq (reqLine i)) = false := by
    rw [show (s.saw seen).holdsReq (reqLine i) = false from hheld, Bool.or_false]
    cases hn : needsEntry i with
    | false => rfl
    | true => rw [show (s.saw seen).noAcks (reqLine i) = true from hacks hn]; rfl
  have hwant : (s.saw seen).wantsRoom i l = false := by
    unfold State.wantsRoom
    cases hn : needsEntry i with
    | false => rfl
    | true =>
      rcases hroom hn with h | ⟨h3, hi⟩
      · rw [show (s.saw seen).setFull l = false from h]; rfl
      · rw [show (s.saw seen).dir l = 3 from h3, show overwrites i = false from by
          unfold overwrites; split
          · exact absurd rfl (hi _ _ _)
          · rfl]
        simp
  rw [State.serve_eq]
  simp only [hl, show (s.saw seen).txOf l = none from htx, Option.isSome_none, hex, hline, hwait, hrec,
    show (s.saw seen).hostOwns i l = false from hhost, hwant, Bool.false_eq_true, if_false]

/-- What the home answers to a request, and what holds afterwards. -/
def HomeAnswers (s : State) (i : Instr) (p : List Packet) (post : State → Prop) : Prop :=
  ∃ t, exec i s = .next t ∧ t.out = s.out ++ p ∧ t.pkg = (noteCell s (reqSrc i) (cellId i)).pkg ∧ post t

/-- An agent is the owner of a line, and no byte of memory has changed. -/
def OwnedBy (s t : State) (l src : Nat) (drt : Bool) : Prop :=
  t.dir l = 2 ∧ t.holder l = some (.ptrs (rhtTag l) (some 0) drt [src]) ∧ ∀ a, t.hbm.byte a = s.hbm.byte a

theorem AtIdle.line {s : State} {i : Instr} {l : Nat} (h : AtIdle s i l) : s.lineOf l = reqLine i :=
  lineOf_home h.1.2.2.1 h.1.2.2.2.1

theorem AtIdle.room {s : State} {i : Instr} {l : Nat} (h : AtIdle s i l) (hn : needsEntry i = true)
    (hd : s.dir l ≠ 3 ∨ ∃ src cell line, i = .wrfull src cell line) : s.setFull l = false := by
  obtain ⟨-, -, -, -, -, -, -, hroom⟩ := h
  refine (hroom hn).resolve_right fun ⟨h3, hi⟩ => ?_
  rcases hd with hd | ⟨src, cell, line, he⟩
  · exact hd h3
  · exact hi src cell line he

/-- What the home of an idle line answers is what its table does with the cell id noted (R329, R336). -/
theorem AtIdle.answers {s : State} {i : Instr} {l : Nat} {p : List Packet} {post : State → Prop} {f : Tab Nat → State} (h : AtIdle s i l)
    (hx : exec i s = Machine.homeRow s i)
    (hserve : ∀ seen, (s.saw seen).recover l = s.saw seen → (s.saw seen).serveNow i l = f seen)
    (hout : ∀ seen, (f seen).out = s.out ++ p) (hp : ∀ x ∈ p, x.onlyTo (reqSrc i)) (hpost : ∀ seen, post (f seen).wake) :
    HomeAnswers s i p post := by
  obtain ⟨seen, hsaw⟩ := noteCell_saw s (reqSrc i) (cellId i)
  have hnow := h.serve
  have hrec : (noteCell s (reqSrc i) (cellId i)).recover l = noteCell s (reqSrc i) (cellId i) := h.2.2.1
  rw [hsaw] at hnow hrec
  have hf := hserve seen hrec
  have hpkg : (f seen).pkg = (s.saw seen).pkg := hf ▸ congrArg (·.1.1) (State.aside_serveNow (s.saw seen) i l)
  exact ⟨_, hx.trans (h.1.homeRow (by rw [hsaw, hnow, hf]) (hout seen) (by rw [hpkg]; rfl) hp), hout seen, by rw [hsaw]; exact hpkg, hpost seen⟩

theorem txOf_wake_startTx (s : State) (l : Nat) (w : HomeWait) (o : List Nat) (r : Bool) (q : List Instr) :
    ((s.startTx l w o r q).wake.txOf l).isSome = true :=
  (State.txOf_startTx ..).trans (by rw [beq_self_eq_true, Bool.or_true])

/-- A packet that answers no request, or answers one of an agent. -/
@[simp] theorem Packet.onlyTo_iff (src : Nat) (p : Packet) : p.onlyTo src ↔ ∀ l a, p.answerTo = some (l, a) → a = src := Iff.rfl

/-! ### Reads (R336) -/

section
variable {s : State} {src cell line l : Nat}

theorem State.serveNow_rds_free (x : Sender) (line : Nat) (hd : s.dir l = 0) :
    s.serveNow (.rds x line) l = (s.dataOf l x.agent .excl 0).grantX l x.agent false := by
  simp only [State.serveNow, hd, reqSrc]; rfl

theorem State.serveNow_rds_shared (x : Sender) (line : Nat) (hd : s.dir l = 1) :
    s.serveNow (.rds x line) l = (s.dataOf l x.agent .shared 0).addSharer l x.agent := by
  simp only [State.serveNow, hd, reqSrc]; rfl

theorem State.serveNow_rds_owned (x : Sender) (line : Nat) {tg q : Nat} {d : Bool} (hd : s.dir l = 2)
    (hh : s.holder l = some (.ptrs tg (some 0) d [q])) (hq : q ∉ s.pkg.fenced) :
    s.serveNow (.rds x line) l = (s.send (.fwds (s.lineOf l) q x.agent)).startTx l (.request (.rds x line)) [] true [] := by
  simp [State.serveNow, hd, hh, Holder.owner, State.forwardFor, reqSrc, State.sendFwd_live _ _ hq]

theorem State.addSharer_pointer {tg : Nat} {o : Option Nat} {d : Bool} {ps : List Nat} (src : Nat) (hh : s.holder l = some (.ptrs tg o d ps))
    (hsrc : src ∉ ps) (hlen : ps.length < 4) : s.addSharer l src = s.setHolder l (.ptrs tg o d (ps ++ [src])) := by
  simp [State.addSharer, hh, hsrc, hlen]

theorem State.serveNow_rds_poisoned (x : Sender) (line : Nat) (hd : s.dir l = 3) :
    s.serveNow (.rds x line) l = s.send (.poison (s.lineOf l) x.agent) := by
  simp only [State.serveNow, hd, reqSrc]; rfl

theorem home_rds_free (h : AtIdle s (.rds ⟨src, cell⟩ line) l) (hd : s.dir l = 0) :
    HomeAnswers s (.rds ⟨src, cell⟩ line) [.data line src .excl 0 (s.hbm.line l)] fun t => OwnedBy s t l src false := by
  obtain rfl : s.lineOf l = line := h.line
  exact h.answers rfl (fun _ _ => State.serveNow_rds_free _ _ hd) (fun _ => rfl) (by simp [Packet.answerTo, reqSrc])
    fun seen => State.grantX_owned (s := (s.saw seen).dataOf l src .excl 0) src false (h.room rfl (.inl (by rw [hd]; decide)))

theorem home_rds_shared {tg : Nat} {o : Option Nat} {d : Bool} {ps : List Nat} (h : AtIdle s (.rds ⟨src, cell⟩ line) l) (hd : s.dir l = 1)
    (hh : s.holder l = some (.ptrs tg o d ps)) (hsrc : src ∉ ps) (hlen : ps.length < 4) :
    HomeAnswers s (.rds ⟨src, cell⟩ line) [.data line src .shared 0 (s.hbm.line l)] fun t =>
      t.holder l = some (.ptrs tg o d (ps ++ [src])) ∧ t.hbm = s.hbm := by
  obtain rfl : s.lineOf l = line := h.line
  have hway : isWay l (some (.ptrs tg o d (ps ++ [src]))) = true := (State.isWay_of_holder hh :)
  refine h.answers (f := fun seen => ((s.saw seen).dataOf l src .shared 0).setHolder l (.ptrs tg o d (ps ++ [src]))) rfl
    (fun seen _ => ?_) (fun _ => rfl) (by simp [Packet.answerTo, reqSrc])
    fun seen => ⟨State.holder_setHolder (s := (s.saw seen).dataOf l src .shared 0) (State.setFull_of_holder (s := s) hh) hway, rfl⟩
  rw [State.serveNow_rds_shared (s := s.saw seen) _ _ hd]
  exact State.addSharer_pointer (s := (s.saw seen).dataOf l src .shared 0) src hh hsrc hlen

theorem home_rds_owned {tg q : Nat} {d : Bool} (h : AtIdle s (.rds ⟨src, cell⟩ line) l) (hd : s.dir l = 2)
    (hh : s.holder l = some (.ptrs tg (some 0) d [q])) :
    HomeAnswers s (.rds ⟨src, cell⟩ line) [.fwds line q src] fun t => (t.txOf l).isSome = true ∧ t.hbm = s.hbm ∧ t.rht = s.rht := by
  obtain rfl : s.lineOf l = line := h.line
  exact h.answers rfl (fun _ hr => State.serveNow_rds_owned _ _ hd hh (live_owner hr hh)) (fun _ => rfl)
    (by simp [Packet.answerTo]) fun _ => ⟨txOf_wake_startTx .., rfl, rfl⟩

theorem home_rds_poisoned (h : AtIdle s (.rds ⟨src, cell⟩ line) l) (hd : s.dir l = 3) :
    HomeAnswers s (.rds ⟨src, cell⟩ line) [.poison line src] fun t => t.hbm = s.hbm ∧ t.rht = s.rht := by
  obtain rfl : s.lineOf l = line := h.line
  exact h.answers rfl (fun _ _ => State.serveNow_rds_poisoned _ _ hd) (fun _ => rfl) (by simp [Packet.answerTo, reqSrc])
    fun _ => ⟨rfl, rfl⟩

/-! ### Requests for ownership (R336) -/

/-- The invalidations of the other sharers of a line. -/
def invsTo (line src : Nat) (ps : List Nat) : List Packet := (ps.filter (· != src)).map fun a => .inv line a src

theorem State.sendInvs_others {ps : List Nat} (line src : Nat) (hps : ∀ a ∈ ps, a < 2000) (hlive : ∀ a ∈ ps, a ∉ s.pkg.fenced) :
    s.sendInvs line src (ps.filter (· != src)) = { s with out := s.out ++ invsTo line src ps } :=
  State.sendInvs_live line src fun a ha => ⟨hps a (List.mem_filter.1 ha).1, hlive a (List.mem_filter.1 ha).1⟩

theorem onlyTo_invsTo {line src : Nat} {ps : List Nat} {x : Packet} (a : Nat) (hx : x ∈ invsTo line src ps) : x.onlyTo a := by
  obtain ⟨b, -, rfl⟩ := List.mem_map.1 hx
  simp [Packet.answerTo]

/-- Whether a request asks for ownership with the data of the line, or without. -/
def Upgrades (con : Nat → Nat → Nat → Instr) : Prop := con = .rdx ∨ con = .upg

variable {con : Nat → Nat → Nat → Instr}

theorem State.serveNow_own_free (hcon : Upgrades con) (src cell line : Nat) (hd : s.dir l = 0) :
    s.serveNow (con src cell line) l = (s.dataOf l src .modified 0).grantX l src true := by
  rcases hcon with rfl | rfl
  · simp only [State.serveNow, hd, reqSrc]; rfl
  · simp only [State.serveNow, hd, reqSrc]; rfl

theorem State.serveNow_own_owned (hcon : Upgrades con) (src cell line : Nat) {tg q : Nat} {d : Bool} (hd : s.dir l = 2)
    (hh : s.holder l = some (.ptrs tg (some 0) d [q])) (hq : q ∉ s.pkg.fenced) : s.serveNow (con src cell line) l =
      (s.send (.fwdx (s.lineOf l) q src 0)).startTx l (.request (con src cell line)) [] true [] := by
  rcases hcon with rfl | rfl
  all_goals
    simp [State.serveNow, hd, hh, Holder.owner, State.holdersOf, State.forwardFor, reqSrc, State.sendInvs, State.sendFwd_live _ _ hq]

/-- What answers a request for ownership of a line that has sharers: an agent among them that upgrades needs no data. -/
def ownAnswer (s : State) (con : Nat → Nat → Nat → Instr) (src cell line l : Nat) (ps : List Nat) : Packet :=
  if con src cell line = .upg src cell line ∧ src ∈ ps then .grant (s.lineOf l) src (ps.filter (· != src)).length (s.metaOf l)
  else .data (s.lineOf l) src .modified (ps.filter (· != src)).length (s.hbm.line l)

theorem State.serveNow_own_shared (hcon : Upgrades con) (src cell line : Nat) {tg : Nat} {d : Bool} {ps : List Nat} (hd : s.dir l = 1)
    (hh : s.holder l = some (.ptrs tg none d ps)) (hps : ∀ a ∈ ps, a < 2000) (hlive : ∀ a ∈ ps, a ∉ s.pkg.fenced) :
    s.serveNow (con src cell line) l =
      (({ s with out := s.out ++ invsTo (s.lineOf l) src ps } : State).send (ownAnswer s con src cell line l ps)).grantX l src true := by
  have hinvs := State.sendInvs_others (s := s) (s.lineOf l) src hps hlive
  rcases hcon with rfl | rfl
  · simp only [State.serveNow, hd, hh, reqSrc, State.holdersOf, hinvs, ownAnswer]
    rfl
  · by_cases hsrc : src ∈ ps
    · simp only [State.serveNow, hd, hh, reqSrc, State.holdersOf, hinvs, ownAnswer, hsrc, List.contains_iff_mem.2 hsrc]
      rfl
    · have hc : ps.contains src = false := by simpa using hsrc
      simp only [State.serveNow, hd, hh, reqSrc, State.holdersOf, hinvs, ownAnswer, hsrc, hc]
      rfl

theorem State.serveNow_own_poisoned (hcon : Upgrades con) (src cell line : Nat) (hd : s.dir l = 3) :
    s.serveNow (con src cell line) l = s.send (.poison (s.lineOf l) src) := by
  rcases hcon with rfl | rfl
  · simp only [State.serveNow, hd, reqSrc]; rfl
  · simp only [State.serveNow, hd, reqSrc]; rfl

/-- What a request for ownership says of itself, whichever it is. -/
theorem Upgrades.request (hcon : Upgrades con) (s : State) (src cell line : Nat) : reqSrc (con src cell line) = src
    ∧ reqLine (con src cell line) = line ∧ needsEntry (con src cell line) = true
    ∧ exec (con src cell line) s = Machine.homeRow s (con src cell line) := by
  rcases hcon with rfl | rfl <;> exact ⟨rfl, rfl, rfl, rfl⟩

theorem home_own (hcon : Upgrades con) (h : AtIdle s (con src cell line) l) :
    (s.dir l = 0 → HomeAnswers s (con src cell line) [.data line src .modified 0 (s.hbm.line l)] fun t => OwnedBy s t l src true)
      ∧ (∀ tg d q, s.dir l = 2 → s.holder l = some (.ptrs tg (some 0) d [q]) → HomeAnswers s (con src cell line) [.fwdx line q src 0]
          fun t => (t.txOf l).isSome = true ∧ t.hbm = s.hbm ∧ t.rht = s.rht)
      ∧ (∀ tg d ps, s.dir l = 1 → s.holder l = some (.ptrs tg none d ps) → (∀ a ∈ ps, a < 2000) → HomeAnswers s (con src cell line)
          (invsTo line src ps ++ [ownAnswer s con src cell line l ps]) fun t => OwnedBy s t l src true)
      ∧ (s.dir l = 3 → HomeAnswers s (con src cell line) [.poison line src] fun t => t.hbm = s.hbm ∧ t.rht = s.rht) := by
  obtain ⟨hsrc, hl, hneeds, hx⟩ := hcon.request s src cell line
  obtain rfl : s.lineOf l = line := h.line.trans hl
  refine ⟨fun hd => ?_, fun tg d q hd hh => ?_, fun tg d ps hd hh hps => ?_, fun hd => ?_⟩
  · exact h.answers hx (fun _ _ => State.serveNow_own_free hcon _ _ _ hd) (fun _ => rfl) (by simp [Packet.answerTo, hsrc])
      fun seen => State.grantX_owned (s := (s.saw seen).dataOf l src .modified 0) src true (h.room hneeds (.inl (by rw [hd]; decide)))
  · exact h.answers hx (fun _ hr => State.serveNow_own_owned hcon _ _ _ hd hh (live_owner hr hh)) (fun _ => rfl)
      (by simp [Packet.answerTo]) fun _ => ⟨txOf_wake_startTx .., rfl, rfl⟩
  · refine h.answers hx (fun _ hr => State.serveNow_own_shared hcon _ _ _ hd hh hps (live_sharers hr hh))
      (fun _ => List.append_assoc ..) (fun x hx' => ?_)
      fun seen => State.grantX_owned (s := s.saw seen) src true (State.setFull_of_holder (s := s) hh)
    rcases List.mem_append.1 hx' with hi | hi
    · exact onlyTo_invsTo _ hi
    · rw [List.mem_singleton.1 hi, ownAnswer]
      split <;> simp [Packet.answerTo, hsrc]
  · exact h.answers hx (fun _ _ => State.serveNow_own_poisoned hcon _ _ _ hd) (fun _ => rfl) (by simp [Packet.answerTo, hsrc])
      fun _ => ⟨rfl, rfl⟩

/-! ### Whole-line writes (R336, R351) -/

theorem State.serveNow_wrfull_free (src cell line : Nat) (hd : s.dir l = 0 ∨ s.dir l = 3) :
    s.serveNow (.wrfull src cell line) l = (s.send (.grant (s.lineOf l) src 0 (s.metaOf l))).grantX l src true := by
  rcases hd with hd | hd
  · simp only [State.serveNow, hd, reqSrc]; rfl
  · simp only [State.serveNow, hd, reqSrc]; rfl

theorem State.serveNow_wrfull_shared (src cell line : Nat) {tg : Nat} {d : Bool} {ps : List Nat} (hd : s.dir l = 1)
    (hh : s.holder l = some (.ptrs tg none d ps)) (hps : ∀ a ∈ ps, a < 2000) (hlive : ∀ a ∈ ps, a ∉ s.pkg.fenced) :
    s.serveNow (.wrfull src cell line) l = (({ s with out := s.out ++ invsTo (s.lineOf l) src ps } : State).send
      (.grant (s.lineOf l) src (ps.filter (· != src)).length (s.metaOf l))).grantX l src true := by
  simp only [State.serveNow, hd, hh, reqSrc, State.holdersOf, State.sendInvs_others (s := s) (s.lineOf l) src hps hlive]
  rfl

theorem State.serveNow_wrfull_owned (src cell line : Nat) {tg q : Nat} {d : Bool} (hd : s.dir l = 2)
    (hh : s.holder l = some (.ptrs tg (some 0) d [q])) (hq : q ∉ s.pkg.fenced) : s.serveNow (.wrfull src cell line) l =
      ((s.send (.fwdx (s.lineOf l) q src 0)).send (.grant (s.lineOf l) src 0 [])).startTx l (.request (.wrfull src cell line)) [] true [] := by
  simp [State.serveNow, hd, hh, Holder.owner, State.holdersOf, State.forwardFor, reqSrc, State.sendInvs, State.sendFwd_live _ _ hq]

theorem home_wrfull (h : AtIdle s (.wrfull src cell line) l) :
    (s.dir l = 0 ∨ s.dir l = 3 → HomeAnswers s (.wrfull src cell line) [.grant line src 0 (s.metaOf l)] fun t => OwnedBy s t l src true)
      ∧ (∀ tg d ps, s.dir l = 1 → s.holder l = some (.ptrs tg none d ps) → (∀ a ∈ ps, a < 2000) → HomeAnswers s (.wrfull src cell line)
          (invsTo line src ps ++ [.grant line src (ps.filter (· != src)).length (s.metaOf l)]) fun t => OwnedBy s t l src true)
      ∧ (∀ tg d q, s.dir l = 2 → s.holder l = some (.ptrs tg (some 0) d [q]) → HomeAnswers s (.wrfull src cell line)
          [.fwdx line q src 0, .grant line src 0 []] fun t => (t.txOf l).isSome = true ∧ t.hbm = s.hbm ∧ t.rht = s.rht) := by
  obtain rfl : s.lineOf l = line := h.line
  refine ⟨fun hd => ?_, fun tg d ps hd hh hps => ?_, fun tg d q hd hh => ?_⟩
  · exact h.answers rfl (fun _ _ => State.serveNow_wrfull_free _ _ _ hd) (fun _ => rfl) (by simp [Packet.answerTo, reqSrc])
      fun seen => State.grantX_owned (s := s.saw seen) src true (h.room rfl (.inr ⟨_, _, _, rfl⟩))
  · refine h.answers rfl (fun _ hr => State.serveNow_wrfull_shared _ _ _ hd hh hps (live_sharers hr hh))
      (fun _ => List.append_assoc ..) (fun x hx => ?_)
      fun seen => State.grantX_owned (s := s.saw seen) src true (State.setFull_of_holder (s := s) hh)
    rcases List.mem_append.1 hx with hi | hi
    · exact onlyTo_invsTo _ hi
    · rw [List.mem_singleton.1 hi]; simp [Packet.answerTo, reqSrc]
  · exact h.answers rfl (fun _ hr => State.serveNow_wrfull_owned _ _ _ hd hh (live_owner hr hh)) (fun _ => List.append_assoc ..)
      (by simp [Packet.answerTo, reqSrc]) fun _ => ⟨txOf_wake_startTx .., rfl, rfl⟩

/-! ### Untracked accesses and notices (R33, R217, R230, R336, R338) -/

theorem home_rdu {wr : Bool} (h : AtIdle s (.rdu src cell line wr) l) : HomeAnswers s (.rdu src cell line wr)
    [if s.dir l = 3 then .poison line src else .data line src .inv 0 (s.hbm.line l)] fun t => t.hbm = s.hbm ∧ t.rht = s.rht := by
  obtain rfl : s.lineOf l = line := h.line
  refine h.answers (f := fun seen => (s.saw seen).send (if s.dir l = 3 then .poison (s.lineOf l) src
    else .data (s.lineOf l) src .inv 0 (s.hbm.line l))) rfl (fun seen _ => ?_) (fun _ => rfl) ?_ fun _ => ⟨rfl, rfl⟩
  · show (if s.dir l = 3 then _ else _ : State) = _
    split <;> rfl
  · split <;> simp [Packet.answerTo, reqSrc]

theorem home_rdnc {a : Nat} (h : AtIdle s (.rdnc ⟨src, cell⟩ a) l) : HomeAnswers s (.rdnc ⟨src, cell⟩ a)
    [if s.dir l = 3 then .poison (a / 128) src else .word a src (s.hbm.readWord (a % 2 ^ 40 / 8 * 8))]
    fun t => t.hbm = s.hbm ∧ t.rht = s.rht := by
  have hline : s.lineOf l = a / 128 := h.line
  refine h.answers (f := fun seen => (s.saw seen).send (if s.dir l = 3 then .poison (a / 128) src
    else .word a src (s.hbm.readWord (a % 2 ^ 40 / 8 * 8)))) rfl (fun seen _ => ?_) (fun _ => rfl) ?_ fun _ => ⟨rfl, rfl⟩
  · show (if s.dir l = 3 then _ else _ : State) = _
    rw [← hline]
    split <;> rfl
  · split <;> simp [Packet.answerTo, reqSrc]

theorem home_wbu {m : BitVec 128} {k : BitVec 2} {d : LineData} (h : AtIdle s (.wbu src cell line ⟨m, k⟩ d) l) :
    HomeAnswers s (.wbu src cell line ⟨m, k⟩ d) [] fun t =>
      t.rht = s.rht ∧ ∀ a, (a / 128 ≠ l ∨ m.getLsbD (a % 128) = false) → t.hbm.byte a = s.hbm.byte a :=
  h.answers rfl (fun _ _ => rfl) (fun _ => (List.append_nil _).symm) (fun _ hx => absurd hx List.not_mem_nil)
    fun seen => ⟨rfl, fun _ ha => State.byte_merged (s.saw seen) _ m _ _ ha⟩

theorem grantI_freed (s : State) (l : Nat) : (s.grantI l).dir l = 0 ∧ (s.grantI l).holder l = none ∧ ∀ a, (s.grantI l).hbm.byte a = s.hbm.byte a :=
  ⟨State.dir_setDir_self .., State.holder_freeHolder .., fun _ => rfl⟩

theorem State.serveNow_evs_last {tg : Nat} {o : Option Nat} {d : Bool} (x : Sender) (line : Nat) (hd : s.dir l = 1)
    (hh : s.holder l = some (.ptrs tg o d [x.agent])) : s.serveNow (.evs x line) l = s.grantI l := by
  simp [State.serveNow, hd, hh, reqSrc]

theorem home_evs {tg : Nat} {o : Option Nat} {d : Bool} (h : AtIdle s (.evs ⟨src, cell⟩ line) l) (hd : s.dir l = 1)
    (hh : s.holder l = some (.ptrs tg o d [src])) : HomeAnswers s (.evs ⟨src, cell⟩ line) [] fun t =>
      t.dir l = 0 ∧ t.holder l = none ∧ ∀ a, t.hbm.byte a = s.hbm.byte a :=
  h.answers rfl (fun _ _ => State.serveNow_evs_last _ _ hd hh) (fun _ => (List.append_nil _).symm) (fun _ hx => absurd hx List.not_mem_nil)
    fun seen => grantI_freed (s.saw seen) l

/-- A write-back by the owner: its bytes come home, and the sharers that are left keep theirs. -/
theorem State.serveNow_wbm_owner {tg o : Nat} {d : Bool} {ps : List Nat} (x : Sender) (line : Nat) (dat : LineData) (hd : s.dir l = 2)
    (hh : s.holder l = some (.ptrs tg (some o) d ps)) (hown : ps[o]? = some x.agent) :
    s.serveNow (.wbm x line dat) l =
      (let s2 := (s.send (.wback (s.lineOf l) x.agent)).putLine l (s.written l x.agent dat)
       if (ps.filter (· != x.agent)).isEmpty then s2.grantI l
       else (s2.setHolder l (.ptrs tg none false (ps.filter (· != x.agent)))).setDir l 1) := by
  simp [State.serveNow, hd, hh, reqSrc, Holder.owner, hown]

theorem home_wbm {tg : Nat} {d : Bool} {dat : LineData} (h : AtIdle s (.wbm ⟨src, cell⟩ line dat) l) (hd : s.dir l = 2)
    (hh : s.holder l = some (.ptrs tg (some 0) d [src])) : HomeAnswers s (.wbm ⟨src, cell⟩ line dat) [.wback line src] fun t =>
      t.dir l = 0 ∧ t.holder l = none ∧ ∀ a, a / 128 ≠ l → t.hbm.byte a = s.hbm.byte a := by
  obtain rfl : s.lineOf l = line := h.line
  refine h.answers (f := fun seen => (((s.saw seen).send (.wback (s.lineOf l) src)).putLine l ((s.saw seen).written l src dat)).grantI l) rfl
    (fun seen _ => ?_) (fun _ => rfl) (by simp [Packet.answerTo, reqSrc]) fun seen => ?_
  · rw [State.serveNow_wbm_owner (s := s.saw seen) _ _ _ hd hh rfl]
    exact if_pos (by simp)
  · obtain ⟨hdir, hfree, hbytes⟩ := grantI_freed (((s.saw seen).send (.wback (s.lineOf l) src)).putLine l ((s.saw seen).written l src dat)) l
    exact ⟨hdir, hfree, fun a ha => (hbytes a).trans (State.byte_putLine_other ((s.saw seen).send (.wback (s.lineOf l) src)) _ ha)⟩

theorem State.serveNow_dirty_owner {tg : Nat} {d : Bool} (x : Sender) (line : Nat) (hd : s.dir l = 2)
    (hh : s.holder l = some (.ptrs tg (some 0) d [x.agent])) :
    s.serveNow (.dirty x line) l = (s.send (.dirtyack (s.lineOf l) x.agent)).setHolder l (.ptrs tg (some 0) true [x.agent]) := by
  simp [State.serveNow, hd, hh, reqSrc, Holder.owner]

theorem home_dirty {tg : Nat} {d : Bool} (h : AtIdle s (.dirty ⟨src, cell⟩ line) l) (hd : s.dir l = 2)
    (hh : s.holder l = some (.ptrs tg (some 0) d [src])) : HomeAnswers s (.dirty ⟨src, cell⟩ line) [.dirtyack line src] fun t =>
      t.holder l = some (.ptrs tg (some 0) true [src]) ∧ t.hbm = s.hbm := by
  obtain rfl : s.lineOf l = line := h.line
  have hway : isWay l (some (.ptrs tg (some 0) true [src])) = true := (State.isWay_of_holder hh :)
  exact h.answers rfl (fun _ _ => State.serveNow_dirty_owner _ _ hd hh) (fun _ => rfl) (by simp [Packet.answerTo, reqSrc])
    fun seen => ⟨State.holder_setHolder (s := s.saw seen) (State.setFull_of_holder (s := s) hh) hway, rfl⟩

theorem home_clrp (h : AtIdle s (.clrp ⟨src, cell⟩ line) l) : HomeAnswers s (.clrp ⟨src, cell⟩ line) [.wback line src] fun t =>
    t.dir l = (if s.dir l = 3 then 0 else s.dir l) ∧ ∀ a, t.hbm.byte a = s.hbm.byte a := by
  obtain rfl : s.lineOf l = line := h.line
  by_cases hd : s.dir l = 3
  · rw [if_pos hd]
    exact h.answers rfl (fun seen _ => if_pos (show (s.saw seen).dir l = 3 from hd)) (fun _ => rfl) (by simp [Packet.answerTo, reqSrc])
      fun _ => ⟨State.dir_setDir_self .., fun _ => rfl⟩
  · rw [if_neg hd]
    exact h.answers rfl (fun seen _ => if_neg (show (s.saw seen).dir l ≠ 3 from hd)) (fun _ => rfl) (by simp [Packet.answerTo, reqSrc])
      fun _ => ⟨rfl, fun _ => rfl⟩

/-! ### Requests that are refused, wait, or ask for the secure region (R342, R345, R349, R438) -/

theorem homeRow_refused {i : Instr} {c : Nat} (h : AtHome s i l) (htx : s.txOf l = none) (hc : reqCell i = some c) (hlt : c < noCell)
    (hex : s.admits l c = false) :
    Machine.homeRow s i = .next ((noteCell s (reqSrc i) (cellId i)).send (.refuse (reqLine i) (reqSrc i))).wake := by
  obtain ⟨seen, hsaw⟩ := noteCell_saw s (reqSrc i) (cellId i)
  have hl : localOf (reqLine i) = l := h.2.2.2.1
  have hexc : (s.saw seen).excludes i l = true := by
    rw [State.excludes, hc]
    simp [hlt, show (s.saw seen).admits l c = false from hex]
  refine h.homeRow (p := [.refuse (reqLine i) (reqSrc i)]) ?_ (by rw [hsaw]; rfl) (by rw [hsaw]; rfl) (by simp [Packet.answerTo])
  rw [hsaw, State.serve_eq]
  simp only [hl, show (s.saw seen).txOf l = none from htx, hexc, if_true, Option.isSome_none, Bool.false_eq_true, if_false,
    show (s.saw seen).lineOf l = reqLine i from lineOf_home h.2.2.1 hl]

theorem homeRow_busy {i : Instr} {x : HomeTx} (h : AtHome s i l) (htx : s.txOf l = some x) (hwb : s.hostWb i l = false) :
    Machine.homeRow s i = .next ((noteCell s (reqSrc i) (cellId i)).queueTx l i).wake := by
  obtain ⟨seen, hsaw⟩ := noteCell_saw s (reqSrc i) (cellId i)
  have hl : localOf (reqLine i) = l := h.2.2.2.1
  refine h.homeRow (p := []) ?_ (by rw [hsaw]; exact (List.append_nil _).symm) (by rw [hsaw]; rfl) (fun _ hx => absurd hx List.not_mem_nil)
  rw [hsaw, State.serve_eq]
  simp only [hl, show (s.saw seen).txOf l = some x from htx, show (s.saw seen).hostWb i l = false from hwb, Option.isSome_some, if_true,
    Bool.false_eq_true, if_false]

/-- A host's write-back of a line that it owns comes home though the line is busy (R345). -/
theorem home_wbm_host {x : HomeTx} {tg o : Nat} {d : Bool} {ps : List Nat} {dat : LineData} (h : AtHome s (.wbm ⟨src, cell⟩ line dat) l)
    (htx : s.txOf l = some x) (hhost : 2000 ≤ src) (hh : s.holder l = some (.ptrs tg (some o) d ps)) (hown : ps[o]? = some src)
    (hd : s.dir l = 2) : HomeAnswers s (.wbm ⟨src, cell⟩ line dat) [.wback line src] fun t => (t.txOf l).isSome = true
      ∧ (∀ k < 128, dat.bytes.length = 128 → t.hbm.byte (128 * l + k) = dat.bytes.getD k 0)
      ∧ ∀ a, a / 128 ≠ l → t.hbm.byte a = s.hbm.byte a := by
  obtain rfl : s.lineOf l = line := lineOf_home h.2.2.1 h.2.2.2.1
  have hl : localOf (s.lineOf l) = l := h.2.2.2.1
  have hnote : noteCell s src cell = s := noteCell_host s cell hhost
  have hwb : s.hostWb (.wbm ⟨src, cell⟩ (s.lineOf l) dat) l = true := by
    simp [State.hostWb, reqSrc, isHost, hhost, hh, Holder.owner, hown]
  obtain ⟨t, ht, hout, hm, htxs, hpkg⟩ : ∃ t, s.serveNow (.wbm ⟨src, cell⟩ (s.lineOf l) dat) l = t
      ∧ t.out = s.out ++ ([.wback (s.lineOf l) src] : List Packet)
      ∧ (∀ a, t.hbm.byte a = ((s.send (.wback (s.lineOf l) src)).putLine l (s.written l src dat)).hbm.byte a)
      ∧ t.homeTx = s.homeTx ∧ t.pkg = s.pkg := by
    refine ⟨_, rfl, ?_⟩
    rw [State.serveNow_wbm_owner _ _ _ hd hh hown]
    dsimp only
    split <;> exact ⟨rfl, fun _ => rfl, rfl, rfl⟩
  have hrow := h.homeRow (t := t) (p := [.wback (s.lineOf l) src]) (by
      rw [show noteCell s (reqSrc (.wbm ⟨src, cell⟩ (s.lineOf l) dat)) (cellId (.wbm ⟨src, cell⟩ (s.lineOf l) dat)) = s from hnote, State.serve_eq]
      simp only [reqLine, hl, htx, hwb, Option.isSome_some, if_true, ht])
    hout (by rw [hpkg]) (by simp [Packet.answerTo, reqSrc])
  refine ⟨t.wake, hrow, hout, hpkg.trans (congrArg State.pkg hnote.symm), ?_, fun k hk hlen => ?_, fun a ha => ?_⟩
  · rw [State.txOf, State.wake_homeTx, htxs]
    exact Option.isSome_of_eq_some htx
  · have hbytes : (s.written l src dat).bytes = dat.bytes := by
      rw [State.written, if_pos (show isHost src = true from decide_eq_true hhost)]
    rw [State.wake_hbm, hm, State.byte_putLine_in _ l (by rw [hbytes]; exact hlen) hk, hbytes]
  · rw [State.wake_hbm, hm]
    exact State.byte_putLine_other (s.send (.wback (s.lineOf l) src)) _ ha

theorem homeRow_fenced {i : Instr} (h : reqSrc i ∈ s.pkg.fenced) : Machine.homeRow s i = .next s :=
  if_pos (List.contains_iff_mem.2 h)

/-- A request into the secure region (R438). -/
theorem homeRow_secure {i : Instr} (hf : reqSrc i ∉ s.pkg.fenced) (ha : agentOf (reqLine i) = s.pkg.agent)
    (hsec : inSecure s (localOf (reqLine i)) = true) : Machine.homeRow s i =
      if isHost (reqSrc i) then .next (echoMarks s.out.length (hostSecure (noteCell s (reqSrc i) (cellId i)) i)).wake
      else if !Config.secureAgent (reqSrc i) then
        .next (echoMarks s.out.length ((noteCell s (reqSrc i) (cellId i)).send (.poison (reqLine i) (reqSrc i))))
      else .next (echoMarks s.out.length ((noteCell s (reqSrc i) (cellId i)).serve i)).wake := by
  have hfen : s.pkg.fenced.contains (reqSrc i) = false := by simpa using hf
  simp only [Machine.homeRow, hfen, ha, hsec, Bool.true_and, Bool.false_eq_true, if_false, ne_eq, not_true_eq_false]

/-- One packet to an agent whose request was not marked carries no mark. -/
theorem echoMarks_send {t : State} {p : Packet} {src : Nat} (hp : p.onlyTo src) (hm : src ∉ t.pkg.marks) :
    echoMarks t.out.length (t.send p) = t.send p :=
  echoMarks_unmarked fun x hx k a hxa => by
    have hdrop : (t.send p).out.drop t.out.length = [p] := List.drop_left ..
    rw [hdrop, List.mem_singleton] at hx
    rw [hp k a (hx ▸ hxa)]
    exact hm

theorem homeRow_secure_package {i : Instr} (hf : reqSrc i ∉ s.pkg.fenced) (ha : agentOf (reqLine i) = s.pkg.agent)
    (hsec : inSecure s (localOf (reqLine i)) = true) (hlt : reqSrc i < 2000) :
    (Config.secureAgent (reqSrc i) = true → Machine.homeRow s i =
        .next (echoMarks s.out.length ((noteCell s (reqSrc i) (cellId i)).serve i)).wake)
      ∧ (Config.secureAgent (reqSrc i) = false → reqSrc i ∉ s.pkg.marks →
        Machine.homeRow s i = .next ((noteCell s (reqSrc i) (cellId i)).send (.poison (reqLine i) (reqSrc i)))) := by
  have hhost : isHost (reqSrc i) = false := decide_eq_false (Nat.not_le.2 hlt)
  rw [homeRow_secure hf ha hsec, hhost]
  refine ⟨fun hs => by rw [hs]; rfl, fun hs hm => ?_⟩
  obtain ⟨seen, hsaw⟩ := noteCell_saw s (reqSrc i) (cellId i)
  have hquiet := echoMarks_send (t := s.saw seen) (p := .poison (reqLine i) (reqSrc i)) (src := reqSrc i) (by simp [Packet.answerTo]) hm
  rw [hs, hsaw]
  exact congrArg Host.Outcome.next hquiet

theorem home_secure_host {dat : LineData} (hf : src ∉ s.pkg.fenced) (hm : src ∉ s.pkg.marks) (ha : agentOf line = s.pkg.agent)
    (hsec : inSecure s (localOf line) = true) (hhost : 2000 ≤ src) :
    exec (.rds ⟨src, cell⟩ line) s = .next (s.send (.poison line src)).wake
      ∧ exec (.wbm ⟨src, cell⟩ line dat) s =
        .next ({ s with pkg := { s.pkg with herrW := s.pkg.herrW + 1 } }.send (.wback line src)).wake := by
  have hnote : noteCell s src cell = s := noteCell_host s cell hhost
  constructor
  · refine (homeRow_secure (i := .rds ⟨src, cell⟩ line) hf ha hsec).trans ((if_pos (decide_eq_true hhost)).trans ?_)
    show Host.Outcome.next (echoMarks s.out.length (hostSecure (noteCell s src cell) (.rds ⟨src, cell⟩ line))).wake = _
    rw [hnote, ← echoMarks_send (t := s) (p := .poison line src) (by simp [Packet.answerTo]) hm]
    rfl
  · refine (homeRow_secure (i := .wbm ⟨src, cell⟩ line dat) hf ha hsec).trans ((if_pos (decide_eq_true hhost)).trans ?_)
    show Host.Outcome.next (echoMarks s.out.length (hostSecure (noteCell s src cell) (.wbm ⟨src, cell⟩ line dat))).wake = _
    rw [hnote, ← echoMarks_send (t := { s with pkg := { s.pkg with herrW := s.pkg.herrW + 1 } }) (p := .wback line src)
      (by simp [Packet.answerTo]) hm]
    rfl

end

end Sys2Proof.Machine

open Sys2Proof Sys2Proof.Machine

/-- Settles O46: the home of an idle line does what its table says with the cell id of the request noted, in each state of the line; the
rule of recovery leaves it alone, so every holder that is asked is alive. -/
theorem homeRequests : Obligations.HomeRequests := by
  unfold Obligations.HomeRequests
  refine ⟨fun s src cell line l h => ⟨home_rds_free h, fun _ _ _ _ hd hh hs hl => home_rds_shared h hd hh hs hl,
      fun _ _ _ hd hh => home_rds_owned h hd hh, home_rds_poisoned h⟩,
    fun s src cell line l con hcon h => ?_, fun s src cell line l h => home_wrfull h, fun s src cell line l wr h => home_rdu h,
    fun s src cell a l h => home_rdnc h, fun s src cell line l m k d h => home_wbu h,
    fun s src cell line l tg o d h hd hh => home_evs h hd hh, fun s src cell line l tg d dat h hd hh => home_wbm h hd hh,
    fun s src cell line l tg d h hd hh => home_dirty h hd hh, fun s src cell line l h => home_clrp h,
    fun s i c l h htx hc hlt hex => homeRow_refused h htx hc hlt hex, fun s i l x h htx hwb => homeRow_busy h htx hwb,
    fun s src cell line l x tg o d ps dat h htx hhost hh hown hd => home_wbm_host h htx hhost hh hown hd,
    fun s i hf => homeRow_fenced hf, fun s i hf ha hsec hlt => homeRow_secure_package hf ha hsec hlt,
    fun s src cell line dat hf hm ha hsec hhost => home_secure_host hf hm ha hsec hhost⟩
  obtain ⟨hfree, howned, hshared, hpoison⟩ := home_own hcon h
  obtain rfl : s.lineOf l = line := (AtIdle.line h).trans (Upgrades.request hcon s src cell line).2.1
  exact ⟨hfree, howned, hshared, hpoison⟩
end

section
/-! ## Coherence messages at an agent that is not the home (R334–R340, R342, R346, R347, R349, R351, R360) -/

namespace Sys2Proof.Machine

section
variable {s : State} {line : Nat}

/-! ### What a message answers at once (R337, R338, R358, R360) -/

/-- A message leaves these packets, a copy of its line in this state, or none, and nothing else of memory or of the copies. -/
def AgentSends (s : State) (i : Instr) (line : Nat) (p : List Packet) (st : Option LineState) : Prop :=
  ∃ t, exec i s = .next t ∧ t.out = s.out ++ p ∧ (tfind t.copies line).map Copy.st = st ∧ t.hbm = s.hbm
    ∧ ∀ k, k ≠ line → tfind t.copies k = tfind s.copies k

/-- No forward of a line is held. -/
def NoneHeld (s : State) (line : Nat) : Prop := ∀ f ∈ s.fwds, f.1 ≠ line

theorem fwdMarks_unmarked {home : Nat} (n : Nat) (h : home ∉ s.pkg.fmarks) : fwdMarks home n s = s := by
  rw [fwdMarks, if_neg (by simpa using h)]

/-- The acknowledgement of a marked invalidation carries its mark. -/
theorem fwdMarks_invack {home : Nat} (col : Nat) (h : home ∈ s.pkg.fmarks) :
    fwdMarks home s.out.length (s.send (.invack line col)) =
      { (s.send (.invack line col)).send (.marked line col) with pkg := { s.pkg with fmarks := s.pkg.fmarks.erase home } } := by
  have hdrop : (s.send (.invack line col)).out.drop s.out.length = [.invack line col] := List.drop_left ..
  have hmark : (s.send (.invack line col)).pkg.fmarks.contains home = true := List.contains_iff_mem.2 h
  rw [fwdMarks, if_pos hmark, hdrop]
  rfl

/-- The package's copy of a line goes. -/
def withoutCopy (s : State) (line col : Nat) : State :=
  let s1 := staleReads { s with copies := tdel s.copies line } line
  if col = agentOf line then dropCleanL1 s1 line else s1

theorem withoutCopy_frame (s : State) (line col : Nat) : (withoutCopy s line col).out = s.out ∧ (withoutCopy s line col).hbm = s.hbm
    ∧ (withoutCopy s line col).pkg = s.pkg ∧ (withoutCopy s line col).copies = tdel s.copies line := by
  unfold withoutCopy
  dsimp only
  split <;> exact ⟨rfl, rfl, rfl, rfl⟩

theorem exec_inv (col : Nat) (hlive : agentOf line ∉ s.pkg.fenced) : exec (.inv ⟨line, s.pkg.agent⟩ col) s =
    .next (fwdMarks (agentOf line) s.out.length ((withoutCopy s line col).send (.invack line col))).wake := by
  show execInv ⟨line, s.pkg.agent⟩ col s = _
  rw [execInv, if_neg (by simpa [isFenced] using hlive)]
  exact if_pos rfl

theorem agent_inv (col : Nat) (hlive : agentOf line ∉ s.pkg.fenced) :
    (agentOf line ∉ s.pkg.fmarks → AgentSends s (.inv ⟨line, s.pkg.agent⟩ col) line [.invack line col] none)
      ∧ (agentOf line ∈ s.pkg.fmarks →
        AgentSends s (.inv ⟨line, s.pkg.agent⟩ col) line [.invack line col, .marked line col] none) := by
  obtain ⟨ho, hm, hp, hc⟩ := withoutCopy_frame s line col
  have hgone : (tfind (tdel s.copies line) line).map Copy.st = none := by rw [tfind_tdel, if_pos rfl]; rfl
  have hrest : ∀ k, k ≠ line → tfind (tdel s.copies line) k = tfind s.copies k := fun k hk => by rw [tfind_tdel, if_neg (Ne.symm hk)]
  rw [AgentSends, AgentSends, exec_inv col hlive]
  constructor
  · intro hmark
    rw [fwdMarks_unmarked _ (show agentOf line ∉ ((withoutCopy s line col).send (.invack line col)).pkg.fmarks from
      show agentOf line ∉ (withoutCopy s line col).pkg.fmarks from hp ▸ hmark)]
    refine ⟨_, rfl, by rw [← ho]; rfl, ?_, hm, ?_⟩
    · rw [State.wake_copies, State.send_copies, hc]; exact hgone
    · rw [State.wake_copies, State.send_copies, hc]; exact hrest
  · intro hmark
    rw [← ho, fwdMarks_invack col (show agentOf line ∈ (withoutCopy s line col).pkg.fmarks from hp ▸ hmark)]
    refine ⟨_, rfl, List.append_assoc .., ?_, hm, ?_⟩
    · show (tfind (withoutCopy s line col).copies line).map Copy.st = none
      rw [hc]; exact hgone
    · show ∀ k, k ≠ line → tfind (withoutCopy s line col).copies k = _
      rw [hc]; exact hrest

/-! ### Forwards (R337, R339, R360) -/

/-- With no forward of a line held, there is nothing to serve. -/
theorem serveHeld_quiet (h : NoneHeld s line) : serveHeld s line = s := by
  have hkeep : (s.fwds.filter fun e => e.1 != line) = s.fwds := List.filter_eq_self.2 fun e he => bne_iff_ne.2 (h e he)
  have hnone : (s.fwds.filter fun e => e.1 == line) = [] := List.filter_eq_nil_iff.2 fun e he => by simpa using h e he
  unfold serveHeld
  rw [hkeep, hnone]
  split <;> rfl

/-- A forward of a line that holds none and owes nothing is served at once. -/
theorem serveHeld_arrived (f : Fwd) (howe : s.owesAcks line = false) (h : NoneHeld s line) :
    serveHeld { s with fwds := s.fwds ++ [(line, f)] } line = serveFwd s line f := by
  have hkeep : ((s.fwds ++ [(line, f)]).filter fun e => e.1 != line) = s.fwds := by
    rw [List.filter_append, List.filter_eq_self.2 fun e he => bne_iff_ne.2 (h e he)]
    simp
  have hone : ((s.fwds ++ [(line, f)]).filter fun e => e.1 == line) = [(line, f)] := by
    rw [List.filter_append, List.filter_eq_nil_iff.2 fun e he => by simpa using h e he]
    simp
  have howe' : ({ s with fwds := s.fwds ++ [(line, f)] } : State).owesAcks line = false := howe
  unfold serveHeld
  rw [howe', hkeep, hone]
  rfl

theorem fwdRow_live (f : Fwd) (hlive : agentOf line ∉ s.pkg.fenced) :
    fwdRow s ⟨line, s.pkg.agent⟩ f = .next (serveHeld { s with fwds := s.fwds ++ [(line, f)] } line).wake := by
  rw [fwdRow, if_neg (by simpa [isFenced] using hlive)]
  exact if_pos rfl

theorem fwdRow_held (f : Fwd) (howe : s.owesAcks line = true) (hlive : agentOf line ∉ s.pkg.fenced) :
    fwdRow s ⟨line, s.pkg.agent⟩ f = .next { s with fwds := s.fwds ++ [(line, f)], epoch := s.epoch + 1 } := by
  rw [fwdRow_live f hlive, serveHeld, show ({ s with fwds := s.fwds ++ [(line, f)] } : State).owesAcks line = true from howe]
  rfl

/-- The owner of a line answers a forward: what it sends, and what its copy becomes. -/
theorem answerForward_own {c : Copy} (hc : tfind s.copies line = some c) (hst : c.st = .excl ∨ c.st = .modified ∨ c.st = .owned) :
    (∀ req, answerForward s line (.fwds req) =
        { (s.send (.fwddata line req .shared 0 c.data)).send (.fwdack line (agentOf line) (c.st == .modified) c.data) with
          copies := tset s.copies line { c with st := if c.st = .excl then .shared else .owned } })
      ∧ (∀ req ac, answerForward s line (.fwdx req ac) =
        { (s.send (.fwddata line req .modified ac c.data)).send (.fwdack line (agentOf line) false c.data) with
          copies := tdel s.copies line })
      ∧ answerForward s line (.wbreq true) =
        { s.send (.fwdack line (agentOf line) (c.st != .excl) c.data) with copies := tdel s.copies line } := by
  have hown : (tfind s.copies line).filter (fun c => c.st == .excl || c.st == .modified || c.st == .owned) = some c := by
    rw [hc]
    exact Option.filter_some_pos (by rcases hst with h | h | h <;> rw [h] <;> rfl)
  refine ⟨fun req => ?_, fun req ac => ?_, ?_⟩
  · have hstays : (if c.st = LineState.excl then LineState.shared else LineState.owned) ≠ LineState.inv := by split <;> simp
    simp only [answerForward, hown, hstays, if_false]
    rfl
  · unfold answerForward
    rw [hown]
    rfl
  · unfold answerForward
    rw [hown]
    rfl

/-- A forward that an owner serves at once. -/
theorem fwdRow_owner {f : Fwd} {p : List Packet} {st : Option LineState} (howe : s.owesAcks line = false)
    (hplain : agentOf line ∉ s.pkg.fenced ∧ agentOf line ∉ s.pkg.fmarks) (hnone : NoneHeld s line)
    (hf : serveFwd s line f = serveForward s line f) {cs : Tab Copy} (hans : answerForward s line f =
      ({ s with out := s.out ++ p, copies := cs } : State)) (hst : (tfind cs line).map Copy.st = st)
    (hrest : ∀ k, k ≠ line → tfind cs k = tfind s.copies k) {i : Instr} (hi : exec i s = fwdRow s ⟨line, s.pkg.agent⟩ f) :
    AgentSends s i line p st := by
  obtain ⟨hlive, hmark⟩ := hplain
  refine ⟨({ s with out := s.out ++ p, copies := cs } : State).wake, hi.trans ((fwdRow_live f hlive).trans ?_), rfl, hst, rfl, hrest⟩
  rw [serveHeld_arrived f howe hnone, hf, serveForward, hans,
    fwdMarks_unmarked _ (show agentOf line ∉ ({ s with out := s.out ++ p, copies := cs } : State).pkg.fmarks from hmark)]

/-- A package that owns a line and holds back no forward of it. -/
def Owns (s : State) (line : Nat) (st : LineState) (c : Copy) : Prop := tfind s.copies line = some c ∧ c.st = st ∧ NoneHeld s line

theorem copies_tset (c : Copy) (cs : Tab Copy) : (tfind (tset cs line c) line).map Copy.st = some c.st
    ∧ ∀ k, k ≠ line → tfind (tset cs line c) k = tfind cs k :=
  ⟨by rw [tfind_tset_self]; rfl, fun _ hk => tfind_tset_ne _ (Ne.symm hk) _⟩

theorem copies_tdel (cs : Tab Copy) : (tfind (tdel cs line) line).map Copy.st = none
    ∧ ∀ k, k ≠ line → tfind (tdel cs line) k = tfind cs k :=
  ⟨by rw [tfind_tdel, if_pos rfl]; rfl, fun k hk => by rw [tfind_tdel, if_neg (Ne.symm hk)]⟩

/-- An owner's answer to a read: the line to the reader, and word to the home whether it was dirty. -/
theorem agent_fwds {st : LineState} {c : Copy} (req : Nat) (howe : s.owesAcks line = false)
    (hplain : agentOf line ∉ s.pkg.fenced ∧ agentOf line ∉ s.pkg.fmarks) (hst : st = .excl ∨ st = .modified ∨ st = .owned)
    (hown : Owns s line st c) : AgentSends s (.fwds ⟨line, s.pkg.agent⟩ req) line
      [.fwddata line req .shared 0 c.data, .fwdack line (agentOf line) (st == .modified) c.data]
      (some (if st = .excl then .shared else .owned)) := by
  obtain ⟨hc, rfl, hnone⟩ := hown
  obtain ⟨hans, -, -⟩ := answerForward_own hc hst
  obtain ⟨hself, hrest⟩ := copies_tset (line := line) { c with st := if c.st = .excl then .shared else .owned } s.copies
  refine fwdRow_owner howe hplain hnone rfl ((hans req).trans ?_) hself hrest rfl
  simp [State.send]

theorem agent_fwdx {st : LineState} {c : Copy} (req ac : Nat) (howe : s.owesAcks line = false)
    (hplain : agentOf line ∉ s.pkg.fenced ∧ agentOf line ∉ s.pkg.fmarks) (hst : st = .excl ∨ st = .modified ∨ st = .owned)
    (hown : Owns s line st c) : AgentSends s (.fwdx ⟨line, s.pkg.agent⟩ req ac) line
      [.fwddata line req .modified ac c.data, .fwdack line (agentOf line) false c.data] none := by
  obtain ⟨hc, rfl, hnone⟩ := hown
  obtain ⟨-, hans, -⟩ := answerForward_own hc hst
  obtain ⟨hself, hrest⟩ := copies_tdel (line := line) s.copies
  refine fwdRow_owner howe hplain hnone rfl ((hans req ac).trans ?_) hself hrest rfl
  simp [State.send]

theorem agent_wbreq {c : Copy} (howe : s.owesAcks line = false)
    (hplain : agentOf line ∉ s.pkg.fenced ∧ agentOf line ∉ s.pkg.fmarks) (hown : Owns s line .modified c) :
    AgentSends s (.wbreq ⟨line, s.pkg.agent⟩ true) line [.fwdack line (agentOf line) true c.data] none := by
  obtain ⟨hc, hst, hnone⟩ := hown
  obtain ⟨-, -, hans⟩ := answerForward_own hc (.inr (.inl hst))
  obtain ⟨hself, hrest⟩ := copies_tdel (line := line) s.copies
  refine fwdRow_owner howe hplain hnone rfl (hans.trans ?_) hself hrest rfl
  simp [State.send, hst]

/-- The designated neighbour of a dead agent answers its messages (R360). -/
theorem agent_neighbour {dst : Nat} (col : Nat) (f : Fwd) (hplain : agentOf line ∉ s.pkg.fenced ∧ agentOf line ∉ s.pkg.fmarks)
    (hne : dst ≠ s.pkg.agent) (hdead : dst ∈ s.pkg.fenced) :
    exec (.inv ⟨line, dst⟩ col) s = .next (s.send (.invack line col))
      ∧ fwdRow s ⟨line, dst⟩ f = .next (s.send (.miss line (agentOf line))) := by
  obtain ⟨hlive, hmark⟩ := hplain
  have hfen : isFenced s (agentOf line) = false := by simpa [isFenced] using hlive
  have hd : isFenced s dst = true := List.contains_iff_mem.2 hdead
  constructor
  · show execInv ⟨line, dst⟩ col s = _
    simp only [execInv, hfen, hne, hd, Bool.false_eq_true, if_false, if_true]
    rw [fwdMarks_unmarked _ (show agentOf line ∉ (s.send (.invack line col)).pkg.fmarks from hmark)]
  · simp only [fwdRow, hfen, hne, hd, Bool.false_eq_true, if_false, if_true]
    rw [fwdMarks_unmarked _ (show agentOf line ∉ (s.send (.miss line (agentOf line))).pkg.fmarks from hmark)]

/-! ### Lines that arrive (R334, R339, R347) -/

/-- What room for a copy leaves alone: requests, counts and what is held. -/
def State.pending (s : State) := (s.reqs, s.acks, s.fwds)

theorem State.pending_request (s : State) (a : Nat) (p : Packet) : (s.request a p).pending = s.pending := by
  unfold State.request
  split
  · rfl
  split
  · rfl
  split <;> rfl

theorem pending_dropCopy (s : State) (line : Nat) : (dropCopy s line).pending = s.pending := by
  unfold dropCopy
  split
  · dsimp only
    split <;> rfl
  · split
    · rfl
    dsimp only
    split
    · rfl
    split
    · rfl
    · split
      · exact State.pending_request ..
      · rfl
    · split
      · exact State.pending_request ..
      · rfl
    · split
      · exact State.pending_request ..
      · rfl

theorem pending_dropOne {t : State} {es : List (Nat × Copy)} (h : dropOne s es = some t) : t.pending = s.pending := by
  induction es with
  | nil => exact absurd h.symm (Option.some_ne_none t)
  | cons e r ih =>
    rw [dropOne] at h
    generalize ht : dropCopy s e.1 = u at h
    split at h
    · rw [← Option.some.inj h, ← ht]; exact pending_dropCopy s e.1
    · exact ih h

theorem pending_roomForCopy {t : State} (h : roomForCopy s line = some t) : t.pending = s.pending := by
  unfold roomForCopy at h
  split at h
  · rw [Option.some.inj h]
  · exact pending_dropOne h

/-- What counting acknowledgements leaves alone. -/
theorem State.addAcks_frame (s : State) (line : Nat) (cores owe : List Nat) (n : Int) (t : Nat) :
    (s.addAcks line cores owe n t).copies = s.copies ∧ (s.addAcks line cores owe n t).reqs = s.reqs
      ∧ (s.addAcks line cores owe n t).fwds = s.fwds := by
  unfold State.addAcks
  split
  · exact ⟨rfl, rfl, rfl⟩
  · split <;> exact ⟨rfl, rfl, rfl⟩

/-- The first acknowledgements of a line that are announced. -/
theorem State.addAcks_first (cores : List Nat) {n : Int} (t : Nat) (h : s.noAcks line = true) (hn : n ≠ 0) :
    ∃ a ∈ (s.addAcks line cores [] n t).acks, a.line = line ∧ a.count = n := by
  have hnone : s.acks.find? (fun a => a.line == line) = none := List.find?_eq_none.2 fun a ha => by
    have := List.all_eq_true.1 h a ha
    simpa using this
  unfold State.addAcks
  rw [hnone]
  dsimp only
  rw [if_neg hn]
  exact ⟨_, List.mem_append_right _ List.mem_cons_self, rfl, rfl⟩

/-- The request is over, and the acknowledgements that its answer has announced are still to come (R339). -/
theorem answered_gives {r : Req} (ac : Nat) (h : NoneHeld s r.line) :
    (answered s r ac).copies = s.copies ∧ (∀ x ∈ (answered s r ac).reqs, x.id ≠ r.id)
      ∧ (s.noAcks r.line = true → ac ≠ 0 → ∃ a ∈ (answered s r ac).acks, a.line = r.line ∧ a.count = ac) := by
  obtain ⟨hc, -, hf⟩ := State.addAcks_frame s r.line r.cores [] ac (ackDeadline s r)
  have hnone : NoneHeld (dropReq (s.addAcks r.line r.cores [] ac (ackDeadline s r)) r.id) r.line := fun f hmem => h f (hf ▸ hmem)
  rw [answered, serveHeld_quiet hnone]
  exact ⟨hc, fun x hx => bne_iff_ne.1 (List.mem_filter.1 hx).2,
    fun hno hac => State.addAcks_first r.cores _ hno (Int.natCast_ne_zero.2 hac)⟩

/-- A message installs a line and ends its request. -/
def Gives (s : State) (i : Instr) (r : Req) (st : LineState) (ac : Nat) (d : LineData) : Prop :=
  ∃ t, exec i s = .next t ∧ tfind t.copies r.line = some ⟨st, d⟩ ∧ (∀ x ∈ t.reqs, x.id ≠ r.id)
    ∧ (s.noAcks r.line = true → ac ≠ 0 → ∃ a ∈ t.acks, a.line = r.line ∧ a.count = ac)

theorem putCopy_gives {i : Instr} {r : Req} {st : LineState} {ac : Nat} {d : LineData} (hroom : (roomForCopy s r.line).isSome = true)
    (hnone : NoneHeld s r.line) (hx : exec i s = .next (putCopy s r st ac d)) : Gives s i r st ac d := by
  obtain ⟨s1, hs1⟩ := Option.isSome_iff_exists.1 hroom
  obtain ⟨-, ha, hf⟩ : s1.reqs = s.reqs ∧ s1.acks = s.acks ∧ s1.fwds = s.fwds := by simpa [State.pending] using pending_roomForCopy hs1
  obtain ⟨z, hz, hzc, hza, hzf⟩ : ∃ z : State, putCopy s r st ac d = answered z r ac ∧ tfind z.copies r.line = some ⟨st, d⟩
      ∧ z.acks = s.acks ∧ z.fwds = s.fwds := by
    refine ⟨_, by rw [putCopy, hs1], ?_⟩
    split <;> exact ⟨tfind_tset_self .., ha, hf⟩
  obtain ⟨hc, hr, hk⟩ := answered_gives (s := z) (r := r) ac (fun f hmem => hnone f (hzf ▸ hmem))
  refine ⟨_, hx, by rw [hz, hc, hzc], by rw [hz]; exact hr, fun hno hac => ?_⟩
  rw [hz]
  exact hk (by rw [State.noAcks, hza]; exact hno) hac

theorem fromAgent_live {a : Nat} (t : State) (h : a ∉ s.pkg.fenced) : fromAgent s a t = .next t := by
  rw [fromAgent, if_neg (by simpa [isFenced] using h)]

theorem fromAgent_fenced {a : Nat} (t : State) (h : a ∈ s.pkg.fenced) : fromAgent s a t = .next s :=
  congrArg Host.Outcome.next (if_pos (List.contains_iff_mem.2 h))

theorem withReq_some {k : DReq → Bool} {r : Req} (f : Req → State) (h : findReq s line k = some r) : withReq s line k f = f r := by
  rw [withReq, h]

theorem line_of_findReq {k : DReq → Bool} {r : Req} (h : findReq s line k = some r) : r.line = line := by
  have := List.find?_some h
  simp only [Bool.and_eq_true, beq_iff_eq] at this
  exact this.1

/-- Whether the package holds a copy of a line that is not I. -/
def holdsCopy (s : State) (line : Nat) : Bool :=
  match tfind s.copies line with
  | some c => c.st != .inv
  | none => false

theorem holdsCopy_of_free (h : ∀ c, tfind s.copies line = some c → c.st = .inv) : holdsCopy s line = false := by
  unfold holdsCopy
  split
  · next c hc => rw [h c hc]; rfl
  · rfl

theorem install_eq (s : State) (r : Req) (st : LineState) (ac : Nat) (d : LineData) : install s r st ac d =
    if (st == .shared || st == .excl) && holdsCopy s r.line then answered s r ac
    else if st == .shared && r.inv || st == .excl && r.gone then askAgain s r
    else putCopy s r st ac d := rfl

theorem install_put {r : Req} {st : LineState} (ac : Nat) (d : LineData)
    (hfree : st = .shared ∨ st = .excl → ∀ c, tfind s.copies r.line = some c → c.st = .inv)
    (hfresh : (st = .shared → r.inv = false) ∧ (st = .excl → r.gone = false)) : install s r st ac d = putCopy s r st ac d := by
  obtain ⟨hs, he⟩ := hfresh
  have hheld : ((st == .shared || st == .excl) && holdsCopy s r.line) = false := by
    by_cases hreads : st = .shared ∨ st = .excl
    · rw [holdsCopy_of_free (hfree hreads), Bool.and_false]
    · rw [show (st == .shared || st == .excl) = false from by simpa using hreads, Bool.false_and]
  have hstale : (st == .shared && r.inv || st == .excl && r.gone) = false := by
    cases st <;> simp_all
  rw [install_eq, hheld, hstale]
  rfl

theorem install_own (s : State) (r : Req) (ac : Nat) (d : LineData) : install s r .modified ac d = putCopy s r .modified ac d :=
  install_put ac d (by simp) (by simp)

/-- The Data of a read that another request has made superfluous ends it (R339). -/
theorem install_held {r : Req} {st : LineState} (ac : Nat) (d : LineData) {c : Copy} (hc : tfind s.copies r.line = some c)
    (hst : c.st ≠ .inv) (hreads : st = .shared ∨ st = .excl) : install s r st ac d = answered s r ac := by
  have hheld : holdsCopy s r.line = true := by rw [holdsCopy, hc]; exact bne_iff_ne.2 hst
  rw [install_eq, hheld]
  exact if_pos (by rcases hreads with rfl | rfl <;> rfl)

/-- A Data S that an Inv has overtaken is asked for again (log 91). -/
theorem install_stale {r : Req} (ac : Nat) (d : LineData) (hfree : ∀ c, tfind s.copies r.line = some c → c.st = .inv) (hinv : r.inv = true) :
    install s r .shared ac d = askAgain s r := by
  rw [install_eq, holdsCopy_of_free hfree, hinv]
  rfl

/-- The requests and the copies of the package, which sending a request leaves alone. -/
def State.asks (s : State) := (s.reqs, s.copies)

theorem HomeWork.asks {s t : State} (h : HomeWork s t) : t.asks = s.asks := congrArg (fun x => (x.2.2.2.2.1, x.2.1)) h.apart

theorem State.asks_request (s : State) (a : Nat) (p : Packet) : (s.request a p).asks = s.asks := by
  unfold State.request
  split
  · rfl
  split
  · rfl
  split <;> rfl

theorem State.aside_takeBack (s : State) (l : Nat) (k : Option Nat) : (s.takeBack l k).aside = s.aside := by
  unfold State.takeBack
  split
  · rfl
  dsimp only
  split
  · simp
  split <;> simp

theorem homeWork_postHome (s : State) (k : DReq) (l : Nat) : HomeWork s (s.postHome k l) := by
  unfold State.postHome
  split
  · exact .refl s
  dsimp only
  refine .trans (homeWork_recover s l) ?_
  split
  · exact .refl _
  refine .of_aside ?_
  split
  · simp
  · simp
  · simp
  · exact State.aside_takeBack ..

theorem State.asks_post (s : State) (k : DReq) (line : Nat) : (s.post k line).asks = s.asks := by
  unfold State.post
  split
  · rfl
  split
  · exact (homeWork_postHome ..).asks
  split <;> exact State.asks_request ..

/-- A read asked for again: the copies stay, and its waiters wait on. -/
theorem askAgain_keeps {r : Req} (hr : r ∈ s.reqs) (hw : r.waiters ≠ []) : (askAgain s r).copies = s.copies
    ∧ ∃ x ∈ (askAgain s r).reqs, x.id = r.id ∧ x.line = r.line ∧ x.inv = false ∧ x.waiters = r.waiters := by
  have hsome : ¬ r.waiters.isEmpty = true := by simpa using hw
  rw [askAgain, if_neg hsome]
  have hkeep := State.asks_post ({ s with reqs := s.reqs.map fun (x : Req) => if x.id = r.id then { x with inv := false, gone := false } else x })
    r.kind r.line
  obtain ⟨hreqs, hcopies⟩ := Prod.mk.injEq .. ▸ hkeep
  refine ⟨hcopies, { r with inv := false, gone := false }, ?_, rfl, rfl, rfl, rfl⟩
  rw [hreqs]
  exact List.mem_map.2 ⟨r, hr, if_pos rfl⟩

/-- What the answer to an untracked read hands to those who asked (R217). -/
theorem handOver_gives (r : Req) (d : LineData) : (handOver s r d).copies = s.copies ∧ ∀ e ∈ r.waiters,
    ∃ x ∈ (handOver s r d).transit, x.who = e.1 ∧ x.line = r.line
      ∧ x.data = r.newer.foldl (fun y p => lineMerge y p.data p.mask p.words p.blks) d := by
  refine ⟨rfl, fun e he => ⟨_, List.mem_append_right _ (List.mem_map.2 ⟨e, he, rfl⟩), rfl, rfl, rfl⟩⟩

/-! ### Acknowledgements (R338, R339) -/

/-- The last acknowledgement of a line takes its count away. -/
theorem State.addAcks_last {a : Acks} (cores owe : List Nat) (t : Nat) (h : s.acks.find? (fun x => x.line == line) = some a) (hone : a.count = 1) :
    (s.addAcks line cores owe (-1) t).noAcks line = true := by
  unfold State.addAcks
  rw [h]
  dsimp only
  rw [hone, if_pos (by decide)]
  exact List.all_eq_true.2 fun x hx => (List.mem_filter.1 hx).2

theorem acks_echoMarks (n : Nat) (s : State) : (echoMarks n s).acks = s.acks := by
  refine foldl_unobserved _ State.acks s fun st e _ => ?_
  split <;> rfl

theorem noAcks_of_acks {s t : State} (h : t.acks = s.acks) (line : Nat) : t.noAcks line = s.noAcks line := by
  rw [State.noAcks, State.noAcks, h]

theorem find?_acks_map {acks : List Acks} {a : Acks} (f : Acks → Acks) (hf : ∀ x, (f x).line = x.line)
    (h : acks.find? (fun x => x.line == line) = some a) : (acks.map f).find? (fun x => x.line == line) = some (f a) := by
  rw [List.find?_map, show ((fun x : Acks => x.line == line) ∘ f) = fun x => x.line == line from funext fun x => by simp [hf x], h]
  rfl

/-- Serving what a line has held leaves its count at zero. -/
theorem noAcks_serveHeld (s : State) (line k : Nat) : (serveHeld s line).noAcks k = s.noAcks k :=
  noAcks_of_acks (congrArg Prod.snd (State.counts_serveHeld s line)) k

theorem agent_invack {a : Acks} {src : Nat} (hfar : agentOf line ≠ s.pkg.agent) (hsrc : src ∉ s.pkg.fenced)
    (ha : s.acks.find? (fun x => x.line == line) = some a) (hone : a.count = 1) :
    ∃ t, exec (.invack ⟨line, src⟩) s = .next t ∧ t.noAcks line = true := by
  refine ⟨_, fromAgent_live _ hsrc, ?_⟩
  rw [noAcks_of_acks (State.wake_acks _), noAcks_of_acks (acks_echoMarks ..)]
  have harr : ackArrives s line src = countAck s line src := by
    unfold ackArrives
    exact if_neg (by simp [hfar])
  show (ackArrives s line src).noAcks line = true
  rw [harr, countAck, ha]
  dsimp only
  rw [noAcks_serveHeld]
  refine State.addAcks_last (a := if a.line = line then { a with owe := tookAck s.pkg.fenced a.owe src } else a) [] [] 0
    (find?_acks_map _ (fun x => by split <;> rfl) ha) ?_
  split <;> exact hone

theorem exec_dirtyack (hlive : agentOf line ∉ s.pkg.fenced) (hany : s.acks.any (fun x => x.line == line && x.dirties != 0) = true) :
    exec (.dirtyack line) s = .next (serveHeld (({ s with acks := s.acks.map fun (x : Acks) =>
      if x.line = line then { x with dirties := x.dirties - 1 } else x } : State).addAcks line [] [] (-1) 0) line).wake := by
  show execDirtyack line s = _
  rw [execDirtyack, if_pos hany]
  exact fromAgent_live _ hlive

theorem agent_dirtyack {a : Acks} (hlive : agentOf line ∉ s.pkg.fenced)
    (ha : s.acks.find? (fun x => x.line == line && x.dirties != 0) = some a) (hall : s.acks = [a]) (hone : a.count = 1) :
    ∃ t, exec (.dirtyack line) s = .next t ∧ t.noAcks line = true := by
  have hcond := List.find?_some ha
  have hline : (a.line == line) = true := (Bool.and_eq_true .. ▸ hcond).1
  have hfirst : s.acks.find? (fun x => x.line == line) = some a := by rw [hall, List.find?_cons, hline]
  refine ⟨_, exec_dirtyack hlive (List.any_eq_true.2 ⟨a, List.mem_of_find?_eq_some ha, hcond⟩), ?_⟩
  rw [noAcks_of_acks (State.wake_acks _), noAcks_serveHeld]
  refine State.addAcks_last (a := if a.line = line then { a with dirties := a.dirties - 1 } else a) [] [] 0
    (find?_acks_map _ (fun x => by split <;> rfl) hfirst) ?_
  split <;> exact hone

/-! ### Data, Grant and forwarded data end a request (R334, R339, R347) -/

theorem agent_data_read {r : Req} {st : LineState} {ac : Nat} {d : LineData} (hlive : agentOf line ∉ s.pkg.fenced) (hnone : NoneHeld s line)
    (hroom : (roomForCopy s line).isSome = true) (hst : st = .shared ∧ r.inv = false ∨ st = .excl ∧ r.gone = false)
    (hfree : ∀ c, tfind s.copies line = some c → c.st = .inv) (hr : findReq s line (fun k => k == .rds) = some r) :
    Gives s (.data line st ac d) r st ac d := by
  obtain rfl := line_of_findReq hr
  refine putCopy_gives hroom hnone ?_
  rw [← install_put ac d (fun _ => hfree) (by rcases hst with ⟨rfl, h⟩ | ⟨rfl, h⟩ <;> simp [h]), ← withReq_some (fun r => install s r st ac d) hr,
    ← fromAgent_live _ hlive]
  rcases hst with ⟨rfl, -⟩ | ⟨rfl, -⟩ <;> rfl

theorem agent_fwddata_read {r : Req} {ac src : Nat} {d : LineData} (hsrc : src ∉ s.pkg.fenced) (hnone : NoneHeld s line)
    (hroom : (roomForCopy s line).isSome = true) (hfree : ∀ c, tfind s.copies line = some c → c.st = .inv) (hinv : r.inv = false)
    (hr : findReq s line (fun k => k == .rds) = some r) : Gives s (.fwddata ⟨line, src⟩ .shared ac d) r .shared ac d := by
  obtain rfl := line_of_findReq hr
  refine putCopy_gives hroom hnone ?_
  rw [← install_put (st := .shared) ac d (fun _ => hfree) (by simp [hinv]), ← withReq_some (fun r => install s r .shared ac d) hr,
    ← fromAgent_live _ hsrc]
  rfl

theorem agent_data_held {r : Req} {c : Copy} {st : LineState} {ac : Nat} {d : LineData} (hlive : agentOf line ∉ s.pkg.fenced)
    (hnone : NoneHeld s line) (hc : tfind s.copies line = some c) (hst : c.st ≠ .inv) (hreads : st = .shared ∨ st = .excl)
    (hr : findReq s line (fun k => k == .rds) = some r) :
    ∃ t, exec (.data line st ac d) s = .next t ∧ tfind t.copies line = some c ∧ ∀ x ∈ t.reqs, x.id ≠ r.id := by
  obtain rfl := line_of_findReq hr
  obtain ⟨hcopies, hreqs, -⟩ := answered_gives (s := s) (r := r) ac hnone
  refine ⟨answered s r ac, ?_, by rw [hcopies, hc], hreqs⟩
  rw [← install_held ac d hc hst hreads, ← withReq_some (fun r => install s r st ac d) hr, ← fromAgent_live _ hlive]
  rcases hreads with rfl | rfl <;> rfl

theorem agent_data_stale {r : Req} {ac : Nat} {d : LineData} (hlive : agentOf line ∉ s.pkg.fenced)
    (hfree : ∀ c, tfind s.copies line = some c → c.st = .inv) (hinv : r.inv = true) (hw : r.waiters ≠ [])
    (hr : findReq s line (fun k => k == .rds) = some r) : ∃ t, exec (.data line .shared ac d) s = .next t
      ∧ tfind t.copies line = tfind s.copies line ∧ ∃ x ∈ t.reqs, x.id = r.id ∧ x.line = line ∧ x.inv = false ∧ x.waiters = r.waiters := by
  obtain rfl := line_of_findReq hr
  obtain ⟨hcopies, hwaits⟩ := askAgain_keeps (List.mem_of_find?_eq_some hr) hw
  refine ⟨askAgain s r, ?_, by rw [hcopies], hwaits⟩
  rw [← install_stale ac d hfree hinv, ← withReq_some (fun r => install s r .shared ac d) hr, ← fromAgent_live _ hlive]
  rfl

theorem agent_data_own {r : Req} {ac : Nat} {d : LineData} (hlive : agentOf line ∉ s.pkg.fenced) (hnone : NoneHeld s line)
    (hroom : (roomForCopy s line).isSome = true) (hr : findReq s line DReq.owns = some r) :
    Gives s (.data line .modified ac d) r .modified ac d := by
  obtain rfl := line_of_findReq hr
  refine putCopy_gives hroom hnone ?_
  rw [← install_own, ← withReq_some (fun r => install s r .modified ac d) hr, ← fromAgent_live _ hlive]
  rfl

theorem agent_grant {r : Req} {ac : Nat} {c : Copy} (md : List (Byte × Byte)) (hlive : agentOf line ∉ s.pkg.fenced) (hnone : NoneHeld s line)
    (hroom : (roomForCopy s line).isSome = true) (hc : tfind s.copies line = some c) (hr : findReq s line DReq.owns = some r) :
    Gives s (.grant line ⟨ac, md⟩) r .modified ac c.data := by
  obtain rfl := line_of_findReq hr
  refine putCopy_gives hroom hnone ?_
  show execGrant r.line ⟨ac, md⟩ s = _
  rw [execGrant, fromAgent_live _ hlive, withReq_some _ hr]
  simp only [hc]

theorem agent_fwddata_own {r : Req} {ac src : Nat} {d : LineData} (hsrc : src ∉ s.pkg.fenced) (hnone : NoneHeld s line)
    (hroom : (roomForCopy s line).isSome = true) (hr : findReq s line (fun k => k.owns && k != .wrfull) = some r) :
    Gives s (.fwddata ⟨line, src⟩ .modified ac d) r .modified ac d := by
  obtain rfl := line_of_findReq hr
  refine putCopy_gives hroom hnone ?_
  rw [← install_own]
  show execFwddata ⟨r.line, src⟩ .modified ac d s = _
  rw [execFwddata, fromAgent_live _ hsrc]
  simp only [hr]
  exact nofun

theorem agent_data_untracked {r : Req} {ac : Nat} {d : LineData} (hlive : agentOf line ∉ s.pkg.fenced)
    (hr : findReq s line DReq.untracked = some r) : ∃ t, exec (.data line .inv ac d) s = .next t ∧ tfind t.copies line = tfind s.copies line
      ∧ ∀ e ∈ r.waiters, ∃ x ∈ t.transit, x.who = e.1 ∧ x.line = r.line
        ∧ x.data = r.newer.foldl (fun y p => lineMerge y p.data p.mask p.words p.blks) d := by
  obtain ⟨hcopies, hgiven⟩ := handOver_gives (s := s) r d
  refine ⟨handOver s r d, ?_, by rw [hcopies], hgiven⟩
  rw [← withReq_some (fun r => handOver s r d) hr, ← fromAgent_live _ hlive]
  rfl

/-! ### Requests that fail (R342, R346, R347, R351) -/

/-- A message fails a request: its waiters take the failure. -/
def Fails (s : State) (i : Instr) (line : Nat) (r : Req) (why : RemoteFail) : Prop :=
  ∃ t, exec i s = .next t ∧ t.fails = s.fails ++ r.waiters.map (fun e => ⟨e.1, line, why⟩) ∧ (∀ x ∈ t.reqs, x.id ≠ r.id)

theorem refuseReq_fails {i : Instr} {r : Req} {why : RemoteFail} (hx : exec i s = .next (refuseReq s r why)) : Fails s i r.line r why :=
  ⟨_, hx, rfl, fun _ hm => bne_iff_ne.1 (List.mem_filter.1 hm).2⟩

theorem agent_refuse {r : Req} (hlive : agentOf line ∉ s.pkg.fenced)
    (hr : findReq s line (fun k => k.owns && k != .copyx || k == .rdu true) = some r) : Fails s (.refuse line) line r .firewall := by
  obtain rfl := line_of_findReq hr
  refine refuseReq_fails ?_
  rw [← withReq_some (fun r => refuseReq s r .firewall) hr, ← fromAgent_live _ hlive]
  rfl

theorem agent_poison_far {r : Req} (hfar : agentOf line ≠ s.pkg.agent) (hr : findReq s line (fun _ => true) = some r) :
    Fails s (.poison line) line r .poison := by
  obtain rfl := line_of_findReq hr
  refine refuseReq_fails ?_
  rw [← withReq_some (fun r => refuseReq s r .poison) hr]
  exact congrArg Host.Outcome.next (if_neg hfar)

/-- A local line becomes P at its home, whoever held it (R351, R440). -/
theorem poisonLine_lost (hhome : agentOf line = s.pkg.agent) : (poisonLine s line).dir (localOf line) = 3
    ∧ (poisonLine s line).holder (localOf line) = none ∧ tfind (poisonLine s line).copies line = none
    ∧ ∀ a, (poisonLine s line).hbm.byte a = s.hbm.byte a := by
  unfold poisonLine
  extract_lets half s0 l
  have hcopies : tfind s0.copies line = none := by
    show tfind (tdel s.copies line) line = none
    rw [tfind_tdel, if_pos rfl]
  have hbytes : ∀ a, s0.hbm.byte a = s.hbm.byte a := fun _ => rfl
  clear_value s0
  rw [if_neg (not_not_intro hhome)]
  split
  · next hh => exact ⟨State.dir_setDir_self .., hh, hcopies, hbytes⟩
  · next h _ =>
    extract_lets hs s1
    obtain ⟨hdir, hholder, hc, hb⟩ : s1.dir l = 3 ∧ s1.holder l = none ∧ tfind s1.copies line = none ∧ ∀ a, s1.hbm.byte a = s.hbm.byte a := by
      refine ⟨State.dir_setDir_self .., State.holder_freeHolder .., ?_, fun a => ?_⟩
      · have haside : s1.copies = s0.copies := congrArg (fun x => x.1.2.1) (State.aside_sendInvs s0 line s.pkg.agent hs)
        rw [haside]; exact hcopies
      · have hmem : (s0.sendInvs line s.pkg.agent hs).hbm = s0.hbm := congrArg Prod.fst (State.filed_sendInvs s0 line s.pkg.agent hs)
        show (s0.sendInvs line s.pkg.agent hs).hbm.byte a = _
        rw [hmem]; exact hbytes a
    clear_value s1
    split <;> exact ⟨hdir, hholder, hc, hb⟩

theorem agent_poison_home (hhome : agentOf line = s.pkg.agent) : ∃ t, exec (.poison line) s = .next t ∧ t.dir (localOf line) = 3
    ∧ t.holder (localOf line) = none ∧ tfind t.copies line = none ∧ ∀ a, t.hbm.byte a = s.hbm.byte a :=
  ⟨(poisonLine s line).wake, congrArg Host.Outcome.next (if_pos hhome), poisonLine_lost hhome⟩

theorem agent_wback {e : WbEntry} (hlive : agentOf line ∉ s.pkg.fenced) (hbuf : s.wbuf = [e]) (he : e.line = line) :
    ∃ t, exec (.wback line) s = .next t ∧ t.wbuf = [] ∧ t.copies = s.copies := by
  have hany : s.wbuf.any (fun e => e.line == line) = true := by simp [hbuf, he]
  refine ⟨({ s with wbuf := dropFirst (fun e => e.line == line) s.wbuf } : State).wake, ?_, ?_, rfl⟩
  · show execWback line s = _
    rw [execWback, fromAgent_live _ hlive, if_pos hany]
  · show dropFirst _ s.wbuf = []
    simp [hbuf, he, dropFirst]

/-! ### Messages of fenced agents (R349) -/

theorem agent_fenced_home (st : LineState) (ac : Nat) (d : LineData) (md : List (Byte × Byte)) (h : agentOf line ∈ s.pkg.fenced) :
    exec (.data line st ac d) s = .next s ∧ exec (.grant line ⟨ac, md⟩) s = .next s ∧ exec (.inv ⟨line, s.pkg.agent⟩ ac) s = .next s :=
  ⟨fromAgent_fenced _ h, fromAgent_fenced _ h, if_pos (List.contains_iff_mem.2 h)⟩

theorem agent_fenced_sender {src : Nat} (st : LineState) (ac : Nat) (d : LineData) (dirty : Bool) (h : src ∈ s.pkg.fenced) :
    exec (.fwddata ⟨line, src⟩ st ac d) s = .next s ∧ exec (.invack ⟨line, src⟩) s = .next s
      ∧ exec (.fwdack ⟨line, src⟩ dirty d) s = .next s ∧ exec (.miss ⟨line, src⟩) s = .next s := by
  refine ⟨fromAgent_fenced _ h, fromAgent_fenced _ h, ?_, ?_⟩
  · show execFwdack ⟨line, src⟩ dirty d s = _
    unfold execFwdack
    split
    · rfl
    · exact fromAgent_fenced _ h
  · show execMiss ⟨line, src⟩ s = _
    unfold execMiss
    split
    · rfl
    · exact fromAgent_fenced _ h

/-! ### The owner's answer to a read that the home has forwarded (R335, R336, R338, log 92) -/

/-- A read waits at the home for the answer of the owner of its line, or has it, and nothing is asked of other holders. -/
def readWaits (x : Sender) (line l : Nat) (reply missed : Bool) : HomeTx :=
  { line := l, what := .request (.rds x line), owe := [], reply := reply, queue := [], missed := missed }

/-- With nothing else waiting, a transaction that leaves changes nothing but that it has gone. -/
theorem State.release_alone {t : HomeTx} (h : s.homeTx = []) (hq : t.queue = []) : s.release t = s.wake := by
  unfold State.release
  rw [h, hq]
  show ({ s with homeTx := [] } : State).wake = s.wake
  rw [← h]

/-- The end of a transaction that waited alone: what it enters in the directory stays. -/
theorem State.endTx_alone {t : HomeTx} (b : Bool) (a : List Action) (h : s.homeTx = []) (hq : t.queue = []) :
    ∃ u, (if b then ({ s with agenda := a } : State) else s).release t = u ∧ u.homeTx = [] ∧ u.rht = s.rht ∧ u.hbm = s.hbm := by
  refine ⟨_, rfl, ?_⟩
  split
  · rw [State.release_alone (s := { s with agenda := a }) h hq]; exact ⟨h, rfl, rfl⟩
  · rw [State.release_alone h hq]; exact ⟨h, rfl, rfl⟩

variable {l src cell tg q : Nat} {o : Option Nat} {dr : Bool}

/-- A read whose owner has answered with dirty data: the line stays with the owner, and the reader is added. -/
theorem endTx_read_dirty (hall : s.homeTx = [readWaits ⟨src, cell⟩ line l false false]) (hne : q ≠ src)
    (hd : s.dir l ≠ 3) (hh : s.holder l = some (.ptrs tg o dr [q])) :
    ∃ u, s.endTx (readWaits ⟨src, cell⟩ line l false false) false true = u ∧ u.homeTx = [] ∧ u.holder l = some (.ptrs tg o true [q, src]) := by
  have hway : isWay l (some (.ptrs tg o true [q, src])) = true := (State.isWay_of_holder hh :)
  unfold State.endTx
  extract_lets s1 l' dead s2
  have hs1 : s1.homeTx = [] := by
    show s.homeTx.filter _ = []
    simp [hall]
  have hh1 : s1.holder l = some (.ptrs tg o dr [q]) := hh
  have hd1 : ¬ s1.dir l = 3 := hd
  have hs2 : s2 = s1.setHolder l (.ptrs tg o true [q, src]) := by
    simp only [s2, dead, l', readWaits, reqSrc, hh1, hd1, decide_false, Bool.false_and, Bool.false_eq_true, if_false]
    simp [hne.symm]
  clear_value s1 s2
  subst hs2
  obtain ⟨u, hu, htx, hrht, -⟩ := State.endTx_alone (s := s1.setHolder l (.ptrs tg o true [q, src])) (t := readWaits ⟨src, cell⟩ line l false false)
    (tfind (s1.setHolder l (.ptrs tg o true [q, src])).pkg.selWas (l' / 512)).isSome
    ((s1.setHolder l (.ptrs tg o true [q, src])).agenda ++ [.pageHere (l' / 512)]) hs1 rfl
  exact ⟨u, hu, htx, (holder_congr hrht l).trans (State.holder_setHolder (State.setFull_of_holder hh1) hway)⟩

/-- A read whose owner, alive, has answered that it has no copy: the line is the reader's. -/
theorem endTx_read_missed (hall : s.homeTx = [readWaits ⟨src, cell⟩ line l false true])
    (hd : s.dir l ≠ 3) (hh : s.holder l = some (.ptrs tg o dr [q])) (hq : q ∉ s.pkg.fenced) :
    ∃ u, s.endTx (readWaits ⟨src, cell⟩ line l false true) true false = u ∧ u.homeTx = [] ∧ u.dir l = 2 := by
  have hdead : (match (s.holder l).bind Holder.owner with | some q => s.pkg.fenced.contains q | none => false) = false := by
    rw [hh]
    split
    · next p hp =>
      have : p = q := by
        cases o with
        | none => exact absurd hp.symm (Option.some_ne_none p)
        | some i => exact List.mem_singleton.1 (List.mem_of_getElem? hp)
      subst this
      simpa using hq
    · rfl
  unfold State.endTx
  extract_lets s1 l' dead s2
  have hs1 : s1.homeTx = [] := by
    show s.homeTx.filter _ = []
    simp [hall]
  have hd1 : ¬ s1.dir l = 3 := hd
  have hdead1 : dead = false := hdead
  have hs2 : s2 = ((s1.grantI l).dataOf l src .excl 0).grantX l src false := by
    rw [← State.serveNow_rds_free ⟨src, cell⟩ line (show (s1.grantI l).dir l = 0 from State.dir_setDir_self ..)]
    simp only [s2, hdead1, l', readWaits, hd1, decide_false, Bool.false_and, Bool.false_eq_true, if_false]
    rfl
  clear_value s1 s2
  subst hs2
  obtain ⟨u, hu, htx, -, hm⟩ := State.endTx_alone (s := ((s1.grantI l).dataOf l src .excl 0).grantX l src false)
    (t := readWaits ⟨src, cell⟩ line l false true)
    (tfind (((s1.grantI l).dataOf l src .excl 0).grantX l src false).pkg.selWas (l' / 512)).isSome
    ((((s1.grantI l).dataOf l src .excl 0).grantX l src false).agenda ++ [.pageHere (l' / 512)]) hs1 rfl
  refine ⟨u, hu, htx, ?_⟩
  rw [State.dir, hm]
  exact State.dir_setDir_self ..

theorem dir_putLine (s : State) (l k : Nat) (d : LineData) : (s.putLine l d).dir k = s.dir k := by
  unfold State.putLine
  dsimp only
  split
  · exact Mem.dirOf_setLine ..
  · exact Mem.dirOf_setLine ..

theorem txOf_alone {t : HomeTx} (hall : s.homeTx = [t]) (hl : t.line = l) : s.txOf l = some t := by
  rw [State.txOf, hall, List.find?_cons, beq_iff_eq.2 hl]

theorem settleTx_read {x : Sender} {missed : Bool} (dirty : Bool) (hall : s.homeTx = [readWaits x line l false missed]) :
    s.settleTx l dirty = s.endTx (readWaits x line l false missed) missed dirty := by
  unfold State.settleTx
  rw [txOf_alone (l := l) hall rfl]
  rfl

/-- The answer of an owner that the home does not ask again ends the read that has waited for it. -/
theorem ownerReply_read (src' : Nat) {missed dirty : Bool} (d : LineData) (hall : s.homeTx = [readWaits ⟨src, cell⟩ line l true false])
    (hyet : missed = true → s.grantedYet (readWaits ⟨src, cell⟩ line l true false) = false) :
    s.ownerReply l src' missed dirty d = ({ (if dirty then s.putLine l (s.written l src' d) else s) with
      homeTx := [readWaits ⟨src, cell⟩ line l false missed] } : State).endTx (readWaits ⟨src, cell⟩ line l false missed) missed dirty := by
  have hagain : (missed && s.grantedYet (readWaits ⟨src, cell⟩ line l true false)) = false := by
    cases missed with
    | true => rw [hyet rfl]; rfl
    | false => rfl
  have hmap : ((if dirty then s.putLine l (s.written l src' d) else s).homeTx.map fun (x : HomeTx) =>
      if x.line = l then { x with reply := false, missed := x.missed || missed } else x) = [readWaits ⟨src, cell⟩ line l false missed] := by
    have h : (if dirty then s.putLine l (s.written l src' d) else s).homeTx = s.homeTx := by split <;> rfl
    rw [h, hall]
    simp [readWaits]
  unfold State.ownerReply
  rw [txOf_alone (l := l) hall rfl]
  refine (if_pos rfl).trans ((if_neg (by rw [hagain]; exact Bool.false_ne_true)).trans ?_)
  dsimp only
  rw [hmap]
  exact settleTx_read dirty rfl

/-- What the marks of answers leave alone: transactions, memory and the table. -/
theorem echoMarks_filed (n : Nat) (s : State) : (echoMarks n s).filed = s.filed := by
  refine foldl_unobserved _ State.filed s fun st e _ => ?_
  split <;> rfl

theorem filed_iff {s t : State} : t.filed = s.filed ↔ t.hbm = s.hbm ∧ t.rht = s.rht ∧ t.selPg = s.selPg ∧ t.homeTx = s.homeTx := by
  simp only [State.filed, Prod.mk.injEq]

/-- An answer of an owner reaches the home of its line. -/
theorem exec_ownerAnswer {me : Nat} (d : LineData) (hhome : agentOf line = s.pkg.agent) (hme : me ∉ s.pkg.fenced) :
    exec (.fwdack ⟨line, me⟩ true d) s = .next (echoMarks s.out.length (s.ownerReply (localOf line) me false true d)).wake
      ∧ exec (.miss ⟨line, me⟩) s = .next (echoMarks s.out.length (s.ownerReply (localOf line) me true false lineCleared)).wake := by
  constructor
  · exact (if_neg (not_not_intro hhome)).trans (fromAgent_live _ hme)
  · exact (if_neg (not_not_intro hhome)).trans (fromAgent_live _ hme)

theorem txOf_none (h : s.homeTx = []) : s.txOf l = none := by rw [State.txOf, h]; rfl

theorem home_fwdack {me : Nat} (d : LineData) (hhome : agentOf line = s.pkg.agent) (hne : q ≠ src) (hme : me ∉ s.pkg.fenced)
    (hall : s.homeTx = [readWaits ⟨src, cell⟩ line (localOf line) true false]) (hd : s.dir (localOf line) = 2)
    (hh : s.holder (localOf line) = some (.ptrs tg o dr [q])) : ∃ t, exec (.fwdack ⟨line, me⟩ true d) s = .next t
      ∧ t.txOf (localOf line) = none ∧ t.holder (localOf line) = some (.ptrs tg o true [q, src]) := by
  have hreply := ownerReply_read (missed := false) (dirty := true) me d hall (fun h => absurd h Bool.false_ne_true)
  obtain ⟨u, hu, htx, hholder⟩ := endTx_read_dirty (s := { s.putLine (localOf line) (s.written (localOf line) me d) with
    homeTx := [readWaits ⟨src, cell⟩ line (localOf line) false false] }) rfl hne
    (show (s.putLine (localOf line) (s.written (localOf line) me d)).dir (localOf line) ≠ 3 by rw [dir_putLine, hd]; decide) hh
  obtain ⟨-, hrht, -, htxs⟩ := filed_iff.1 (echoMarks_filed s.out.length u)
  have hexec := (exec_ownerAnswer d hhome hme).1
  rw [hreply] at hexec
  refine ⟨(echoMarks s.out.length u).wake, hexec.trans (by rw [← hu]; rfl), txOf_none (htxs.trans htx), ?_⟩
  exact (holder_congr hrht _).trans hholder

theorem home_miss {me : Nat} (hhome : agentOf line = s.pkg.agent) (hme : me ∉ s.pkg.fenced) (hq : q ∉ s.pkg.fenced)
    (hall : s.homeTx = [readWaits ⟨src, cell⟩ line (localOf line) true false]) (hd : s.dir (localOf line) = 2)
    (hh : s.holder (localOf line) = some (.ptrs tg (some i) false [q])) : ∃ t, exec (.miss ⟨line, me⟩) s = .next t
      ∧ t.txOf (localOf line) = none ∧ t.dir (localOf line) = 2 := by
  have hyet : s.grantedYet (readWaits ⟨src, cell⟩ line (localOf line) true false) = false := by
    unfold State.grantedYet
    rw [show (readWaits ⟨src, cell⟩ line (localOf line) true false).line = localOf line from rfl, hh]
    dsimp only
    split
    · rfl
    · rfl
  have hreply := ownerReply_read (missed := true) (dirty := false) me lineCleared hall fun _ => hyet
  obtain ⟨u, hu, htx, hdir⟩ := endTx_read_missed (s := { s with homeTx := [readWaits ⟨src, cell⟩ line (localOf line) false true] }) rfl
    (show s.dir (localOf line) ≠ 3 by rw [hd]; decide) hh hq
  obtain ⟨hm, -, -, htxs⟩ := filed_iff.1 (echoMarks_filed s.out.length u)
  have hexec := (exec_ownerAnswer lineCleared hhome hme).2
  rw [hreply] at hexec
  refine ⟨(echoMarks s.out.length u).wake, hexec.trans (by rw [← hu]; rfl), txOf_none (htxs.trans htx), ?_⟩
  rw [State.dir_of_wake, State.dir, hm]
  exact hdir

theorem home_miss_again {me : Nat} (hhome : agentOf line = s.pkg.agent) (hne : q ≠ src) (hme : me ∉ s.pkg.fenced) (hq : q ∉ s.pkg.fenced)
    (hall : s.homeTx = [readWaits ⟨src, cell⟩ line (localOf line) true false]) (hd : s.dir (localOf line) = 2)
    (hh : s.holder (localOf line) = some (.ptrs tg (some 0) true [q])) : ∃ t, exec (.miss ⟨line, me⟩) s = .next t
      ∧ t.txOf (localOf line) = s.txOf (localOf line) ∧ t.dir (localOf line) = 2 ∧ t.out = s.out ++ ([.fwds line q src] : List Packet) := by
  have hline : s.lineOf (localOf line) = line := lineOf_home hhome rfl
  have hreply : s.ownerReply (localOf line) me true false lineCleared = s.send (.fwds line q src) := by
    unfold State.ownerReply
    rw [txOf_alone (l := localOf line) hall rfl]
    simp [readWaits, State.grantedYet, hh, Holder.owner, hq, reqSrc, Ne.symm hne, State.forwardFor, hline, State.sendFwd_live _ _ hq]
  have hquiet : echoMarks s.out.length (s.send (.fwds line q src)) = s.send (.fwds line q src) := echoMarks_unmarked fun x hx l a hxa => by
    have hdrop : (s.send (.fwds line q src)).out.drop s.out.length = [.fwds line q src] := List.drop_left ..
    rw [hdrop, List.mem_singleton] at hx
    rw [hx] at hxa
    exact absurd hxa.symm (Option.some_ne_none _)
  refine ⟨_, (exec_ownerAnswer lineCleared hhome hme).2, ?_⟩
  rw [hreply, hquiet]
  exact ⟨rfl, hd, rfl⟩

end

end Sys2Proof.Machine

open Sys2Proof Sys2Proof.Machine

/-- Settles O47: each message is answered by what the package holds of its line; with nothing of the line held back, what it ends is ended
at once, and counting its acknowledgements takes nothing else along. -/
theorem agentMessages : Obligations.AgentMessages := by
  unfold Obligations.AgentMessages
  refine ⟨fun s line col hlive => agent_inv col hlive, fun s line req c howe hplain => ⟨fun h => ?_, fun h => ?_, fun h => ?_⟩,
    fun s line req ac c st howe hplain hst h => agent_fwdx req ac howe hplain hst h, fun s line c howe hplain h => agent_wbreq howe hplain h,
    fun s line f howe hlive => fwdRow_held f howe hlive, fun s line col dst f hplain hne hdead => agent_neighbour col f hplain hne hdead,
    fun s line ac d r src hlive hsrc hnone hroom => ⟨fun st hst hfree hr => agent_data_read hlive hnone hroom hst hfree hr,
      fun hfree hinv hr => agent_fwddata_read hsrc hnone hroom hfree hinv hr,
      fun c st hc hst hreads hr => agent_data_held hlive hnone hc hst hreads hr,
      fun hfree hinv hw hr => agent_data_stale hlive hfree hinv hw hr,
      fun hr => ⟨agent_data_own hlive hnone hroom hr, fun c md hc => agent_grant md hlive hnone hroom hc hr⟩,
      fun hr => agent_fwddata_own hsrc hnone hroom hr, fun hr => agent_data_untracked hlive hr⟩,
    fun s line a src hfar hsrc _ ha hone => agent_invack hfar hsrc ha hone,
    fun s line a hlive _ ha hall hone => agent_dirtyack hlive ha hall hone,
    fun s line cell d tg o dr q src me hhome hne hme hq hall hd hh => ⟨home_fwdack d hhome hne hme hall hd hh, fun hdr => ?_, fun hdr ho => ?_⟩,
    fun s line e hlive hbuf he => agent_wback hlive hbuf he,
    fun s line r => ⟨fun hlive hr => agent_refuse hlive hr, fun hfar hr => agent_poison_far hfar hr, fun hhome => agent_poison_home hhome⟩,
    fun s line st ac d md dirty src => ⟨agent_fenced_home st ac d md, agent_fenced_sender st ac d dirty⟩⟩
  · exact agent_fwds req howe hplain (.inl rfl) h
  · exact agent_fwds req howe hplain (.inr (.inl rfl)) h
  · exact agent_fwds req howe hplain (.inr (.inr rfl)) h
  · subst hdr; exact home_miss hhome hme hq hall hd hh
  · subst hdr ho; exact home_miss_again hhome hne hme hq hall hd hh
end
